-- ==== Sys2Proof/Word.lean ====
section
/-!
DEFINITION. The word types of the JA4-768 and their plainest arithmetic.

A 32-bit scalar register, one thread's element of a tray-register and an instruction word are all `Word`;
a register pair is a `DWord` whose low half is the even register (R3).
-/

namespace Sys2Proof

/-- A 32-bit register element or instruction word (R24, R37). -/
abbrev Word := BitVec 32

/-- A 64-bit value, held in an even/odd register pair (R3). -/
abbrev DWord := BitVec 64

/-- One byte of memory (R3). -/
abbrev Byte := BitVec 8

/-- A 96-bit mask: bit t belongs to thread t (R26). -/
abbrev Mask := BitVec 96

/-- A 46-bit word address, the width of a PC (Table 2.1). -/
abbrev Pc := BitVec 46

/-- The pair of two registers: the even one is the low half (R3). -/
def pair (lo hi : Word) : DWord := hi ++ lo

/-- The even register of a pair: bits [31:0] (R3). -/
def lo32 (x : DWord) : Word := x.setWidth 32

/-- The odd register of a pair: bits [63:32] (R3). -/
def hi32 (x : DWord) : Word := x.extractLsb' 32 32

/-- Bits hi..lo of a number, as the manual writes ranges (R2). -/
def bits (x hi lo : Nat) : Nat := x / 2 ^ lo % 2 ^ (hi + 1 - lo)

end Sys2Proof
end

