-- ==== Sys2Proof/Syntax.lean ====
section
/-!
DEFINITION. The syntax: one constructor of `Instr` per row of the opcode table.

266 constructors are instruction words (R55); their operands are the fields of the word that the instruction's
description uses, a literal word (R40) being part of the operand that takes it. 102 constructors are the table's
rows without an encoding: what an engine, a timer, a host or a peer does to the machine. Their operands say which
queue, tray, operation or message it is, as plain data.
-/

namespace Sys2Proof

/-- The second source of a vector format (Table 2.5): window register, scalar broadcast, zero or literal. -/
inductive VB where
  /-- B code 0x00–0x7F: window register k. -/
  | vreg (k : BitVec 7)
  /-- B code 0x80–0xDF: scalar register k, the same value to every thread. -/
  | bcast (k : BitVec 7)
  /-- B code 0xFE. -/
  | zero
  /-- B code 0xFF: the next word of the packet. -/
  | lit (w : Word)
  deriving DecidableEq, Repr

/-- The second source of a scalar format (Table 2.5). -/
inductive SB where
  /-- B code 0x00–0x5F: scalar register k. -/
  | sreg (k : BitVec 7)
  /-- B code 0xFE. -/
  | zero
  /-- B code 0xFF: the next word of the packet. -/
  | lit (w : Word)
  deriving DecidableEq, Repr

/-- The second source of a mask instruction (R134): a triple, zero or a literal. -/
inductive MB where
  /-- Codes 0x00–0x1F: mask triple k. -/
  | tri (k : BitVec 5)
  /-- Code 0xFE. -/
  | zero
  /-- Code 0xFF. -/
  | lit (w : Word)
  deriving DecidableEq, Repr

/-- The integer compares of SCMP and VCMP in F order; ltn, len and gtn are unsigned (R55). -/
inductive ICmp where
  | eq | ne | lt | le | ltn | len | gt | gtn
  deriving DecidableEq, Repr

/-- The floating compares of FCMP and DCMP in F order (Table 2.8). -/
inductive FCmp where
  | eq | ne | lt | le | gt | ge | un | ord
  deriving DecidableEq, Repr

/-- The header of a command SEND to endpoint A (0) or B (1) (R419). -/
structure CmdHdr where
  ep : Nat
  tag : BitVec 16
  seq : BitVec 32
  deriving DecidableEq, Repr

/-- A unit of a posted operation as it crosses the pod (R311, R313, R321): the sender and target package, the entry's
handle, the neighbour of a halo group, which unit it is, PJOB and TAG, for a CONTRIB its TYPE, ROP and RANK, the wire
form CMP, the transfer's offset and length, and the bytes it carries, each with its poison. -/
structure UaUnit where
  src : Nat
  dst : Nat
  handle : BitVec 32
  part : Nat
  unit : Nat
  pjob : BitVec 16
  tag : BitVec 16
  contrib : Bool
  typ : Nat
  rop : Nat
  rank : Nat
  cmp : Nat
  off : Nat
  len : Nat
  wire : List (BitVec 8 × Bool)
  deriving DecidableEq, Repr

/-- What an access from another package does (R180): a read of n bytes, a write with its byte mask, or an atomic of an
operation and width with its operand and swap value, with or without return. -/
inductive RemoteKind where
  | read (n : Nat)
  | write (bytes : List (Option (BitVec 8 × Bool)))
  | atomic (op w x swp : Nat) (ret : Bool)
  deriving DecidableEq, Repr

/-- An access from another package through a window: the sender, its transaction, PA[39:0] and what it does (R312). -/
structure RemoteAcc where
  src : Nat
  id : Nat
  addr : Nat
  kind : RemoteKind
  deriving DecidableEq, Repr

/-- What CKPT names (R428): a context, a slice handle or 0, a version, a data queue pair, a remote base address and a
remote page-list address. -/
structure CkptArgs where
  ctx : Nat
  handle : BitVec 32
  w : BitVec 32
  qp : Nat
  base : Nat
  list : Nat
  deriving DecidableEq, Repr

/-- What the firmware fixes when stage S2 is reached (R66, R77, R233, R234, R312): the physical bases of the QCB table
and the landing map, the dispatch weights of priorities 0 to 3, whether the regions are direct, the seed with which
they are hashed otherwise, the number of other packages in the pod, the starting back-off of each core that has another than
the default (R16), the contexts without prefetching (R176), and the weights of a reporting port's three classes where they
are not the default (R232). -/
structure FwCfg where
  qcbBase : Nat
  landBase : Nat
  weights : List Nat
  direct : Bool
  seed : BitVec 12
  packages : Nat
  backoff : List (Nat × Nat)
  noPrefetch : List Nat
  reporting : List Nat
  deriving DecidableEq, Repr

/-- One constructor per row of the opcode table. -/
inductive Instr where
  /-- YIELD, R144: Takes the tray out of the issue pool until its wake condition holds, then resumes it at the continuation address. -/
  | yield (cond : BitVec 3) (p c : BitVec 7)
  /-- WAITC, R143: Waits until each outstanding counter is at or below its limit, and joins the counted operations that have completed. -/
  | waitc (l st y m : BitVec 5)
  /-- TRAP, R406: Sets cause TRAPI with EPC at the following word and passes s(x) in the reflection record. -/
  | trap (x : BitVec 7)
  /-- SYS, R406: Sets cause SYSC with EPC at the following word and passes s(x) to s(x+3) in the reflection record. -/
  | sys (x : BitVec 7)
  /-- BRA, R131: Branches unconditionally to the displacement target. -/
  | bra (disp : BitVec 15)
  /-- BZ, R131: Branches to the target if scalar register s(x) is zero. -/
  | bz (x : BitVec 7) (disp : BitVec 15)
  /-- BNZ, R131: Branches to the target if scalar register s(x) is not zero. -/
  | bnz (x : BitVec 7) (disp : BitVec 15)
  /-- BZM, R131: Branches to the target if all 96 bits of mask triple m(x) are zero. -/
  | bzm (x : BitVec 7) (disp : BitVec 15)
  /-- BNZM, R131: Branches to the target if any bit of mask triple m(x) is one. -/
  | bnzm (x : BitVec 7) (disp : BitVec 15)
  /-- BRD, R135: Divergent branch in dual-path mode that falls through, jumps, splits into a second path slot or pushes a reconvergence entry. -/
  | brd (x : BitVec 7) (disp : BitVec 15)
  /-- CALL, R131: Writes the link PC + 1 to s63:s62 and branches to the displacement target. -/
  | call (disp : BitVec 15)
  /-- CALLI, R132: Reads a target from a scalar pair, writes the link to s63:s62 and jumps to the target. -/
  | calli (x : BitVec 7)
  /-- RET, R132: Jumps to the word address held in a scalar pair. -/
  | ret (x : BitVec 7)
  /-- JMPI, R132: Jumps to the word address held in a scalar pair. -/
  | jmpi (x : BitVec 7)
  /-- LOOP, R133: Decrements s(x) with wrap and branches to the target if the new value is not zero. -/
  | loop (x : BitVec 7) (disp : BitVec 15)
  /-- SADD, R113: Writes the low 32 bits of a + b to s(d), with b from a scalar B code. -/
  | sadd (d a : BitVec 7) (b : SB)
  /-- SSUB, R113: Writes the low 32 bits of a − b to s(d). -/
  | ssub (d a : BitVec 7) (b : SB)
  /-- SMUL, R113: Writes the low 32 bits of a × b to s(d). -/
  | smul (d a : BitVec 7) (b : SB)
  /-- SMULH, R113: Writes the high 32 bits of the signed product a × b to s(d). -/
  | smulh (d a : BitVec 7) (b : SB)
  /-- SAND, R113: Writes a AND b to s(d). -/
  | sand (d a : BitVec 7) (b : SB)
  /-- SOR, R113: Writes a OR b to s(d). -/
  | sor (d a : BitVec 7) (b : SB)
  /-- SXOR, R113: Writes a XOR b to s(d). -/
  | sxor (d a : BitVec 7) (b : SB)
  /-- SMOV, R113: Writes b to s(d). -/
  | smov (d : BitVec 7) (b : SB)
  /-- SADD_I, R113: Writes the low 32 bits of a plus a sign-extended IMM8 to s(d). -/
  | saddI (d a : BitVec 7) (imm : BitVec 8)
  /-- SSUB_I, R113: Writes the low 32 bits of a minus a sign-extended IMM8 to s(d). -/
  | ssubI (d a : BitVec 7) (imm : BitVec 8)
  /-- SMUL_I, R113: Writes the low 32 bits of a times a sign-extended IMM8 to s(d). -/
  | smulI (d a : BitVec 7) (imm : BitVec 8)
  /-- SMULH_I, R113: Writes the high 32 bits of a times a sign-extended IMM8 to s(d). -/
  | smulhI (d a : BitVec 7) (imm : BitVec 8)
  /-- SAND_I, R113: Writes a AND a zero-extended IMM8 to s(d). -/
  | sandI (d a : BitVec 7) (imm : BitVec 8)
  /-- SOR_I, R113: Writes a OR a zero-extended IMM8 to s(d). -/
  | sorI (d a : BitVec 7) (imm : BitVec 8)
  /-- SXOR_I, R113: Writes a XOR a zero-extended IMM8 to s(d). -/
  | sxorI (d a : BitVec 7) (imm : BitVec 8)
  /-- SMOV_I, R113: Writes a sign-extended IMM8 to s(d). -/
  | smovI (d : BitVec 7) (imm : BitVec 8)
  /-- SSHL, R113: Shifts a left by b, giving 0 for counts of 32 or more. -/
  | sshl (d a : BitVec 7) (b : SB)
  /-- SSHR, R113: Shifts a right by b with zero fill, giving 0 for counts of 32 or more. -/
  | sshr (d a : BitVec 7) (b : SB)
  /-- SSRA, R113: Shifts a right by min(b, 31) with sign fill. -/
  | ssra (d a : BitVec 7) (b : SB)
  /-- SMIN, R113: Writes the signed minimum of a and b to s(d). -/
  | smin (d a : BitVec 7) (b : SB)
  /-- SMAX, R113: Writes the signed maximum of a and b to s(d). -/
  | smax (d a : BitVec 7) (b : SB)
  /-- SADD64, R113: Writes the low 64 bits of the pair sum a + b into the pair s(d+1):s(d). -/
  | sadd64 (d a : BitVec 7) (b : SB)
  /-- SSUB64, R113: Writes the low 64 bits of the pair difference a − b into the pair s(d+1):s(d). -/
  | ssub64 (d a : BitVec 7) (b : SB)
  /-- SSEL, R113: Writes a to s(d) if the old s(d) is not zero, and b otherwise. -/
  | ssel (d a : BitVec 7) (b : SB)
  /-- SSHL_I, R113: Shifts a left by a zero-extended IMM8. -/
  | sshlI (d a : BitVec 7) (imm : BitVec 8)
  /-- SSHR_I, R113: Shifts a right with zero fill by a zero-extended IMM8. -/
  | sshrI (d a : BitVec 7) (imm : BitVec 8)
  /-- SSRA_I, R113: Shifts a right with sign fill by a zero-extended IMM8, limited to 31. -/
  | ssraI (d a : BitVec 7) (imm : BitVec 8)
  /-- SMIN_I, R113: Writes the signed minimum of a and a sign-extended IMM8. -/
  | sminI (d a : BitVec 7) (imm : BitVec 8)
  /-- SMAX_I, R113: Writes the signed maximum of a and a sign-extended IMM8. -/
  | smaxI (d a : BitVec 7) (imm : BitVec 8)
  /-- SADD64_I, R113: Adds an IMM8 sign-extended to 64 bits to a scalar pair. -/
  | sadd64I (d a : BitVec 7) (imm : BitVec 8)
  /-- SSUB64_I, R113: Subtracts an IMM8 sign-extended to 64 bits from a scalar pair. -/
  | ssub64I (d a : BitVec 7) (imm : BitVec 8)
  /-- SCMP, R114: Compares a and b by the condition in F and writes all ones for true or zero for false to s(d). -/
  | scmp (cc : ICmp) (d a : BitVec 7) (b : SB)
  /-- MAND, R134: Writes m(a) AND the mask operand to triple m(d). -/
  | mand (d a : BitVec 7) (b : MB)
  /-- MOR, R134: Writes m(a) OR the mask operand to triple m(d). -/
  | mor (d a : BitVec 7) (b : MB)
  /-- MXOR, R134: Writes m(a) XOR the mask operand to triple m(d). -/
  | mxor (d a : BitVec 7) (b : MB)
  /-- MANDN, R134: Writes m(a) AND NOT the mask operand to triple m(d). -/
  | mandn (d a : BitVec 7) (b : MB)
  /-- MPOP, R134: Writes the number of one bits of the mask operand to s(d). -/
  | mpop (d : BitVec 7) (b : MB)
  /-- MFIRST, R134: Writes the lowest thread number whose mask bit is one, or 0xFFFFFFFF, to s(d). -/
  | mfirst (d : BitVec 7) (b : MB)
  /-- MSET, R134: Sets bit t of m(d) when thread t is active and its v(a) is not zero. -/
  | mset (d a : BitVec 7)
  /-- MMOV, R134: Copies the mask operand into triple m(d). -/
  | mmov (d : BitVec 7) (b : MB)
  /-- RDSR, R116: Copies a special register into s(d) or a scalar pair. -/
  | rdsr (d a : BitVec 7)
  /-- WRSR, R116: Copies b into a writable special register, effective from the next issue group. -/
  | wrsr (a : BitVec 7) (b : SB)
  /-- VWIN, R117: Sets the vector window base to b from the next issue group. -/
  | vwin (b : SB)
  /-- REGGROW, R149: Asks for more tray-registers and either grows the register count at once or parks the tray in the grow queue. -/
  | reggrow (b : SB)
  /-- REGSHRINK, R147: Discards registers above the new count and returns them to the reserve, the grow queue or the free pool. -/
  | regshrink (b : SB)
  /-- VADD, R118: Writes the low 32 bits of a + b into v(d) of each active thread. -/
  | vadd (d a : BitVec 7) (b : VB)
  /-- VSUB, R118: Writes the low 32 bits of a − b into v(d). -/
  | vsub (d a : BitVec 7) (b : VB)
  /-- VMUL, R118: Writes the low 32 bits of a × b into v(d). -/
  | vmul (d a : BitVec 7) (b : VB)
  /-- VMULH, R118: Writes the high 32 bits of the signed product a × b into v(d). -/
  | vmulh (d a : BitVec 7) (b : VB)
  /-- VMAD, R118: Writes the low 32 bits of a × old v(d) + b into v(d). -/
  | vmad (d a : BitVec 7) (b : VB)
  /-- VAND, R118: Writes a AND b into v(d). -/
  | vand (d a : BitVec 7) (b : VB)
  /-- VOR, R118: Writes a OR b into v(d). -/
  | vor (d a : BitVec 7) (b : VB)
  /-- VXOR, R118: Writes a XOR b into v(d). -/
  | vxor (d a : BitVec 7) (b : VB)
  /-- VADD_I, R118: Adds a sign-extended IMM8 to v(a) into v(d). -/
  | vaddI (d a : BitVec 7) (imm : BitVec 8)
  /-- VSUB_I, R118: Subtracts a sign-extended IMM8 from v(a) into v(d). -/
  | vsubI (d a : BitVec 7) (imm : BitVec 8)
  /-- VMUL_I, R118: Multiplies v(a) by a sign-extended IMM8 into v(d). -/
  | vmulI (d a : BitVec 7) (imm : BitVec 8)
  /-- VMULH_I, R118: Writes the high word of v(a) times a sign-extended IMM8 into v(d). -/
  | vmulhI (d a : BitVec 7) (imm : BitVec 8)
  /-- VMAD_I, R118: Writes a × old v(d) plus a sign-extended IMM8 into v(d). -/
  | vmadI (d a : BitVec 7) (imm : BitVec 8)
  /-- VAND_I, R118: Writes v(a) AND a zero-extended IMM8 into v(d). -/
  | vandI (d a : BitVec 7) (imm : BitVec 8)
  /-- VOR_I, R118: Writes v(a) OR a zero-extended IMM8 into v(d). -/
  | vorI (d a : BitVec 7) (imm : BitVec 8)
  /-- VXOR_I, R118: Writes v(a) XOR a zero-extended IMM8 into v(d). -/
  | vxorI (d a : BitVec 7) (imm : BitVec 8)
  /-- VSHL, R118: Shifts a left by b, giving 0 for counts of 32 or more. -/
  | vshl (d a : BitVec 7) (b : VB)
  /-- VSHR, R118: Shifts a right logically by b, giving 0 for counts of 32 or more. -/
  | vshr (d a : BitVec 7) (b : VB)
  /-- VSRA, R118: Shifts a right arithmetically by min(b, 31). -/
  | vsra (d a : BitVec 7) (b : VB)
  /-- VMIN, R118: Writes the signed minimum of a and b into v(d). -/
  | vmin (d a : BitVec 7) (b : VB)
  /-- VMAX, R118: Writes the signed maximum of a and b into v(d). -/
  | vmax (d a : BitVec 7) (b : VB)
  /-- VADD64, R118: Writes the low 64 bits of pair a plus b into the pair v(d+1):v(d). -/
  | vadd64 (d a : BitVec 7) (b : VB)
  /-- VMAD64, R118: Writes the low 64 bits of sext(a) × old pair + b into the pair. -/
  | vmad64 (d a : BitVec 7) (b : VB)
  /-- VSEL, R118: Writes a into v(d) if the old v(d) is not zero, and b otherwise. -/
  | vsel (d a : BitVec 7) (b : VB)
  /-- VSHL_I, R118: Shifts v(a) left by a zero-extended IMM8. -/
  | vshlI (d a : BitVec 7) (imm : BitVec 8)
  /-- VSHR_I, R118: Shifts v(a) right logically by a zero-extended IMM8. -/
  | vshrI (d a : BitVec 7) (imm : BitVec 8)
  /-- VSRA_I, R118: Shifts v(a) right arithmetically by a zero-extended IMM8, limited to 31. -/
  | vsraI (d a : BitVec 7) (imm : BitVec 8)
  /-- VMIN_I, R118: Writes the signed minimum of v(a) and a sign-extended IMM8. -/
  | vminI (d a : BitVec 7) (imm : BitVec 8)
  /-- VMAX_I, R118: Writes the signed maximum of v(a) and a sign-extended IMM8. -/
  | vmaxI (d a : BitVec 7) (imm : BitVec 8)
  /-- VADD64_I, R118: Adds an IMM8 sign-extended to 64 bits to a vector pair. -/
  | vadd64I (d a : BitVec 7) (imm : BitVec 8)
  /-- VMAD64_I, R118: Writes sext(a) × old pair plus an IMM8 sign-extended to 64 bits into the pair. -/
  | vmad64I (d a : BitVec 7) (imm : BitVec 8)
  /-- VMOV, R118: Writes b into v(d), uniformly when b is not a window register. -/
  | vmov (d : BitVec 7) (b : VB)
  /-- VNOT, R118: Writes NOT b into v(d). -/
  | vnot (d : BitVec 7) (b : VB)
  /-- VABS, R118: Writes the signed absolute value of b modulo 2^32 into v(d). -/
  | vabs (d : BitVec 7) (b : VB)
  /-- VCLZ, R118: Writes the count of leading zero bits of b into v(d). -/
  | vclz (d : BitVec 7) (b : VB)
  /-- VPOPC, R118: Writes the count of one bits of b into v(d). -/
  | vpopc (d : BitVec 7) (b : VB)
  /-- VBREV, R118: Writes b with its bit order reversed into v(d). -/
  | vbrev (d : BitVec 7) (b : VB)
  /-- VBFE, R119: Extracts a bit field of v(a), described by b, into v(d), optionally sign-extended. -/
  | vbfe (d a : BitVec 7) (b : VB)
  /-- VBFI, R119: Inserts the low bits of v(a) into a field of old v(d) described by b. -/
  | vbfi (d a : BitVec 7) (b : VB)
  /-- VCMP, R118: Compares a and b per thread by the condition in F and writes all ones or zero into v(d). -/
  | vcmp (cc : ICmp) (d a : BitVec 7) (b : VB)
  /-- VIDX, R151: Reads physical register v(a) + b of each thread into v(d). -/
  | vidx (d a : BitVec 7) (b : VB)
  /-- VIDXW, R151: Writes v(d) of each thread into physical register v(a) + b. -/
  | vidxw (d a : BitVec 7) (b : VB)
  /-- VLANE, R151: Writes each active thread's lane, thread number or row into v(d). -/
  | vlane (d : BitVec 7) (sel : BitVec 8)
  /-- VGETS, R151: Writes scalar register s(v(a) + b) into v(d) of each thread. -/
  | vgets (d a : BitVec 7) (b : VB)
  /-- FADD, R121: Writes the FP32 sum a + b, rounded once, into v(d). -/
  | fadd (d a : BitVec 7) (b : VB)
  /-- FSUB, R121: Writes the FP32 difference a − b into v(d). -/
  | fsub (d a : BitVec 7) (b : VB)
  /-- FMUL, R121: Writes the FP32 product a × b into v(d). -/
  | fmul (d a : BitVec 7) (b : VB)
  /-- FFMA, R121: Writes a × old v(d) + b with one rounding into v(d). -/
  | ffma (d a : BitVec 7) (b : VB)
  /-- FFMS, R121: Writes a × old v(d) − b with one rounding into v(d). -/
  | ffms (d a : BitVec 7) (b : VB)
  /-- FNMA, R121: Writes −(a × old v(d)) + b with one rounding into v(d). -/
  | fnma (d a : BitVec 7) (b : VB)
  /-- FMIN, R122: Writes the minimumNumber of a and b into v(d). -/
  | fmin (d a : BitVec 7) (b : VB)
  /-- FMAX, R122: Writes the maximumNumber of a and b into v(d). -/
  | fmax (d a : BitVec 7) (b : VB)
  /-- FADD_I, R121: Adds an E4M3 immediate widened to FP32 to v(a). -/
  | faddI (d a : BitVec 7) (imm : BitVec 8)
  /-- FSUB_I, R121: Subtracts an E4M3 immediate from v(a). -/
  | fsubI (d a : BitVec 7) (imm : BitVec 8)
  /-- FMUL_I, R121: Multiplies v(a) by an E4M3 immediate. -/
  | fmulI (d a : BitVec 7) (imm : BitVec 8)
  /-- FFMA_I, R121: Writes a × old v(d) plus an E4M3 immediate with one rounding. -/
  | ffmaI (d a : BitVec 7) (imm : BitVec 8)
  /-- FFMS_I, R121: Writes a × old v(d) minus an E4M3 immediate with one rounding. -/
  | ffmsI (d a : BitVec 7) (imm : BitVec 8)
  /-- FNMA_I, R121: Writes −(a × old v(d)) plus an E4M3 immediate with one rounding. -/
  | fnmaI (d a : BitVec 7) (imm : BitVec 8)
  /-- FMIN_I, R122: Writes the minimumNumber of v(a) and an E4M3 immediate. -/
  | fminI (d a : BitVec 7) (imm : BitVec 8)
  /-- FMAX_I, R122: Writes the maximumNumber of v(a) and an E4M3 immediate. -/
  | fmaxI (d a : BitVec 7) (imm : BitVec 8)
  /-- FRCP, R123: Writes the correctly rounded FP32 reciprocal of b into v(d). -/
  | frcp (d : BitVec 7) (b : VB)
  /-- FRSQ, R123: Writes the correctly rounded FP32 reciprocal square root of b. -/
  | frsq (d : BitVec 7) (b : VB)
  /-- FSQRT, R123: Writes the correctly rounded FP32 square root of b. -/
  | fsqrt (d : BitVec 7) (b : VB)
  /-- FEX2, R123: Writes the correctly rounded FP32 value of 2^b. -/
  | fex2 (d : BitVec 7) (b : VB)
  /-- FLG2, R123: Writes the correctly rounded FP32 value of log2 b. -/
  | flg2 (d : BitVec 7) (b : VB)
  /-- FSIN, R123: Writes the correctly rounded FP32 sine of b in radians. -/
  | fsin (d : BitVec 7) (b : VB)
  /-- FCOS, R123: Writes the correctly rounded FP32 cosine of b in radians. -/
  | fcos (d : BitVec 7) (b : VB)
  /-- FTANH, R123: Writes the correctly rounded FP32 hyperbolic tangent of b. -/
  | ftanh (d : BitVec 7) (b : VB)
  /-- FCMP, R124: Compares FP32 a and b by the condition in F and writes all ones or zero into v(d). -/
  | fcmp (cc : FCmp) (d a : BitVec 7) (b : VB)
  /-- DADD, R126: Writes the FP64 sum of pairs a and b into pair d. -/
  | dadd (d a : BitVec 7) (b : VB)
  /-- DSUB, R126: Writes the FP64 difference a − b into pair d. -/
  | dsub (d a : BitVec 7) (b : VB)
  /-- DMUL, R126: Writes the FP64 product a × b into pair d. -/
  | dmul (d a : BitVec 7) (b : VB)
  /-- DFMA, R126: Writes a × old pair d + b with one FP64 rounding. -/
  | dfma (d a : BitVec 7) (b : VB)
  /-- DFMS, R126: Writes a × old pair d − b with one FP64 rounding. -/
  | dfms (d a : BitVec 7) (b : VB)
  /-- DNMA, R126: Writes −(a × old pair d) + b with one FP64 rounding. -/
  | dnma (d a : BitVec 7) (b : VB)
  /-- DMIN, R126: Writes the FP64 minimumNumber of a and b. -/
  | dmin (d a : BitVec 7) (b : VB)
  /-- DMAX, R126: Writes the FP64 maximumNumber of a and b. -/
  | dmax (d a : BitVec 7) (b : VB)
  /-- DDIV, R127: Writes the correctly rounded FP64 quotient a ÷ b. -/
  | ddiv (d a : BitVec 7) (b : VB)
  /-- DSQRT, R127: Writes the correctly rounded FP64 square root of b. -/
  | dsqrt (d : BitVec 7) (b : VB)
  /-- DRCP, R127: Writes the correctly rounded FP64 reciprocal of b. -/
  | drcp (d : BitVec 7) (b : VB)
  /-- DRSQ, R127: Writes the correctly rounded FP64 reciprocal square root of b. -/
  | drsq (d : BitVec 7) (b : VB)
  /-- DFLOOR, R127: Writes the largest integer not above b as FP64. -/
  | dfloor (d : BitVec 7) (b : VB)
  /-- DCEIL, R127: Writes the smallest integer not below b as FP64. -/
  | dceil (d : BitVec 7) (b : VB)
  /-- DRNE, R127: Writes b rounded to the nearest integer with ties to even. -/
  | drne (d : BitVec 7) (b : VB)
  /-- DTRUNC, R127: Writes b rounded to an integer towards zero. -/
  | dtrunc (d : BitVec 7) (b : VB)
  /-- DCMP, R128: Compares FP64 pairs a and b by the condition in F and writes one 32-bit result into v(d). -/
  | dcmp (cc : FCmp) (d a : BitVec 7) (b : VB)
  /-- HADD2, R129: Adds two packed FP16 elements independently. -/
  | hadd2 (d a : BitVec 7) (b : VB)
  /-- HMUL2, R129: Multiplies two packed FP16 elements independently. -/
  | hmul2 (d a : BitVec 7) (b : VB)
  /-- HFMA2, R129: Computes a × old v(d) + b on two packed FP16 elements with one rounding each. -/
  | hfma2 (d a : BitVec 7) (b : VB)
  /-- HMAX2, R129: Takes the maximumNumber of two packed FP16 elements. -/
  | hmax2 (d a : BitVec 7) (b : VB)
  /-- BADD2, R129: Adds two packed BF16 elements independently. -/
  | badd2 (d a : BitVec 7) (b : VB)
  /-- BMUL2, R129: Multiplies two packed BF16 elements independently. -/
  | bmul2 (d a : BitVec 7) (b : VB)
  /-- BFMA2, R129: Computes a × old v(d) + b on two packed BF16 elements with one rounding each. -/
  | bfma2 (d a : BitVec 7) (b : VB)
  /-- BMAX2, R129: Takes the maximumNumber of two packed BF16 elements. -/
  | bmax2 (d a : BitVec 7) (b : VB)
  /-- CVT_F32_I32, R102: Converts a signed or unsigned 32-bit integer to FP32 with the given rounding. -/
  | cvtF32I32 (d a : BitVec 7) (rm : BitVec 3) (u : Bool)
  /-- CVT_I32_F32, R102: Converts FP32 to a signed or unsigned 32-bit integer, clamping with NV. -/
  | cvtI32F32 (d a : BitVec 7) (rm : BitVec 3) (u : Bool)
  /-- CVT_F64_F32, R102: Widens FP32 exactly to an FP64 pair. -/
  | cvtF64F32 (d a : BitVec 7)
  /-- CVT_F32_F64, R102: Narrows an FP64 pair to FP32 with rounding and optional saturation. -/
  | cvtF32F64 (d a : BitVec 7) (rm : BitVec 3) (sat : Bool)
  /-- CVT_F64_I32, R102: Converts a signed or unsigned 32-bit integer exactly to an FP64 pair. -/
  | cvtF64I32 (d a : BitVec 7) (u : Bool)
  /-- CVT_I32_F64, R102: Converts an FP64 pair to a signed or unsigned 32-bit integer. -/
  | cvtI32F64 (d a : BitVec 7) (rm : BitVec 3) (u : Bool)
  /-- CVT_F32_F16, R102: Widens one FP16 or BF16 half of v(a) exactly to FP32. -/
  | cvtF32F16 (d a : BitVec 7) (h hi : Bool)
  /-- CVT_F16_F32, R102: Narrows two FP32 values to a packed FP16 or BF16 pair. -/
  | cvtF16F32 (d a : BitVec 7) (rm : BitVec 3) (sat h : Bool)
  /-- CVTQ_E4M3, R104: Quantises FP32 to E4M3 into byte POS of v(d), with optional MX scale and saturation. -/
  | cvtqE4m3 (d a : BitVec 7) (pos : BitVec 3) (sat mx : Bool) (rm : BitVec 2)
  /-- CVTQ_E5M2, R104: Quantises FP32 to E5M2 into byte POS of v(d). -/
  | cvtqE5m2 (d a : BitVec 7) (pos : BitVec 3) (sat mx : Bool) (rm : BitVec 2)
  /-- CVTQ_E2M1, R104: Quantises FP32 to E2M1 into nibble POS of v(d). -/
  | cvtqE2m1 (d a : BitVec 7) (pos : BitVec 3) (sat mx : Bool) (rm : BitVec 2)
  /-- CVTQ_I8, R104: Quantises FP32 to INT8 into byte POS of v(d). -/
  | cvtqI8 (d a : BitVec 7) (pos : BitVec 3) (mx : Bool) (rm : BitVec 2)
  /-- SCALE, R105: Computes each row's E8M0 block scale from its active threads into v(d). -/
  | scale (d a : BitVec 7) (fmt : BitVec 2)
  /-- DQ8, R106: Dequantises byte POS of v(a), E4M3, E5M2 or INT8, to FP32. -/
  | dq8 (d a : BitVec 7) (pos : BitVec 3) (fmt : BitVec 2) (mx : Bool) (rm : BitVec 2)
  /-- DQ4, R106: Dequantises nibble POS of v(a), E2M1, to FP32. -/
  | dq4 (d a : BitVec 7) (pos : BitVec 3) (mx : Bool) (rm : BitVec 2)
  /-- PERM, R153: Gives each participant v(a) of the source thread its old v(d) names. -/
  | perm (d a : BitVec 7) (m : BitVec 5) (p : BitVec 3)
  /-- PUP, R153: Gives each participant v(a) of the thread k lanes below it in its row. -/
  | pup (d a : BitVec 7) (m : BitVec 5) (p : BitVec 3)
  /-- PDN, R153: Gives each participant v(a) of the thread k lanes above it in its row. -/
  | pdn (d a : BitVec 7) (m : BitVec 5) (p : BitVec 3)
  /-- PXOR, R153: Gives each participant v(a) of the thread at lane XOR k in its row. -/
  | pxor (d a : BitVec 7) (m : BitVec 5) (p : BitVec 3)
  /-- PBCAST, R153: Gives each participant v(a) of the lowest participant of its segment. -/
  | pbcast (d a : BitVec 7) (m : BitVec 5) (p : BitVec 3)
  /-- VOTE, R153: Writes a ballot, any, all or count over participants into v(d). -/
  | vote (d a : BitVec 7) (m : BitVec 5) (p : BitVec 3)
  /-- REDL, R155: Reduces participants' v(a) over each segment, FP sums exact and rounded once. -/
  | redl (d a : BitVec 7) (m : BitVec 5) (p : BitVec 3)
  /-- SCANL, R155: Writes each participant's inclusive prefix reduction over its segment. -/
  | scanl (d a : BitVec 7) (m : BitVec 5) (p : BitVec 3)
  /-- LD, R162: Loads 1 to 16 bytes per active thread from global memory into v(d). -/
  | ld (d a : BitVec 7) (w h : BitVec 3) (o : BitVec 5)
  /-- ST, R162: Stores 1 to 16 bytes per active thread to global memory. -/
  | st (d a : BitVec 7) (w h : BitVec 3) (o : BitVec 5)
  /-- LDV, R255: Loads per thread from the frame that serves the version in s(32+O), or raises VGONE. -/
  | ldv (d a : BitVec 7) (w h : BitVec 3) (o : BitVec 5)
  /-- LDS, R165: Loads per thread from the cluster scratchpad. -/
  | lds (d a : BitVec 7) (w h : BitVec 3) (o : BitVec 5)
  /-- STS, R165: Stores per thread to the cluster scratchpad. -/
  | sts (d a : BitVec 7) (w h : BitVec 3) (o : BitVec 5)
  /-- ATOM, R166: Performs a global read-modify-write per thread and returns the old value. -/
  | atom (d a : BitVec 7) (w h : BitVec 3) (o : BitVec 5)
  /-- ATOMS, R166: Performs a scratchpad read-modify-write per thread and returns the old value. -/
  | atoms (d a : BitVec 7) (w h : BitVec 3) (o : BitVec 5)
  /-- RED, R166: Performs a global update per thread without a return, possibly through the U state. -/
  | red (d a : BitVec 7) (w h : BitVec 3) (o : BitVec 5)
  /-- LDW, R164: Loads one contiguous block per row from the row leader's address and spreads it over the lanes. -/
  | ldw (d a : BitVec 7) (w h : BitVec 3) (o : BitVec 5)
  /-- FENCE, R203: Orders the issuing threads' covered accesses by kind and scope, taking a turn for sc and all. -/
  | fence (kind scope : BitVec 3)
  /-- CCTL, R179: Invalidates L1 lines, or drops or demotes the context's die-cache lines of a range. -/
  | cctl (a : BitVec 7) (kind : BitVec 3) (n : BitVec 5)
  /-- PREF, R178: Requests lines into L1 and the die-scope cache without trapping or ordering. -/
  | pref (a : BitVec 7) (tgt : BitVec 2) (n : BitVec 6)
  /-- MIGR, R238: Moves one page of the context's own tables to a new frame through a copy engine while the page is in use. -/
  | migr (d a : BitVec 7) (b : SB)
  /-- CPY, R260: Copies bytes from global memory to the scratchpad or into a claimed ring slot. -/
  | cpy (a : BitVec 7) (b : SB)
  /-- CPYM, R262: Joins a shared-fetch group in which each member fetches one part into every member's scratchpad. -/
  | cpym (a : BitVec 7) (b : SB)
  /-- CPYS, R260: Copies bytes from the scratchpad to global memory. -/
  | cpys (a : BitVec 7)
  /-- RINIT, R266: Checks and writes a ring header in the scratchpad and returns a status. -/
  | rinit (d a : BitVec 7)
  /-- RWAIT, R269: Waits, stalling or yielding, until the ring's read slot is filled and returns its offset. -/
  | rwait (d a : BitVec 7) (b : SB)
  /-- RREL, R270: Releases the ring's read slot and returns the new RPTR. -/
  | rrel (d : BitVec 7) (b : SB)
  /-- RQRY, R270: Returns a ring's WPTR, FPTR, RPTR and STATE. -/
  | rqry (d : BitVec 7) (b : SB)
  /-- GANG, R282: Forms, changes or dissolves a gang of trays and its accumulator tiles at a rendezvous. -/
  | gang (d : BitVec 7) (b : SB)
  /-- MMA, R286: Accumulates a tile product C += A · B in fixed order. -/
  | mma (t a : BitVec 7) (b : SB)
  /-- MDIST, R286: Accumulates squared differences into a tile in fixed order. -/
  | mdist (t a : BitVec 7) (b : SB)
  /-- MTOPK, R289: Merges each source tile row into a sorted top-k list in the destination tile. -/
  | mtopk (t src : BitVec 7) (k : BitVec 8)
  /-- MFENCE, R295: Closes the gang's open matrix batch and returns its number. -/
  | mfence (d : BitVec 7)
  /-- MZERO, R290: Fills the masked tiles with zeros or empty top-k lists and clears their poison. -/
  | mzero (b : SB)
  /-- MRD, R291: Reads a tile or FP64 tile pair into vector registers, waiting for earlier operations unless peeking. -/
  | mrd (d t : BitVec 7) (f64 peek : Bool)
  /-- MWR, R292: Writes a tile or FP64 tile pair from vector registers. -/
  | mwr (t a : BitVec 7) (f64 : Bool)
  /-- SNAP, R251: Freezes a range at version v, advances STEP to v + 1 and creates a slice. -/
  | snap (d a : BitVec 7) (b : SB)
  /-- SACQ, R252: Adds 1 to a slice's reference count. -/
  | sacq (d : BitVec 7) (b : SB)
  /-- SREL, R252: Subtracts 1 from a slice's reference count as a release, possibly retiring slices. -/
  | srel (d : BitVec 7) (b : SB)
  /-- VSTEP, R253: Raises the context's STEP and holds the tray's memory pipe until performed. -/
  | vstep (d : BitVec 7) (b : SB)
  /-- VQRY, R254: Lists into a buffer the pages of a range stamped above w. -/
  | vqry (d a : BitVec 7) (b : SB)
  /-- VPIN, R252: Adds 1 to a slice's pin count. -/
  | vpin (d : BitVec 7) (b : SB)
  /-- VUNPIN, R252: Subtracts 1 from a slice's pin count. -/
  | vunpin (d : BitVec 7) (b : SB)
  /-- HGATH, R305: Gathers table elements named by an index list into a destination at the stacks. -/
  | hgath (a : BitVec 7) (b : SB)
  /-- HRED, R306: Reduces a source array, whole or elementwise over rows, at the stacks. -/
  | hred (a : BitVec 7) (b : SB)
  /-- HCVT, R307: Converts an array between formats, with MX scales where the code asks, at the stacks. -/
  | hcvt (a : BitVec 7) (b : SB)
  /-- HQRY, R308: Returns the context's queue, completion, error and poison counts at one stack engine. -/
  | hqry (d : BitVec 7) (b : SB)
  /-- CPOST_PUT, R321: Creates a PUT entry that sends a source range to a remote landing when it fires. -/
  | cpostPut (d a : BitVec 7) (b : SB)
  /-- CPOSTR_CONTRIB, R323: Creates a CONTRIB entry that sends a rank's contribution to a reduction landing. -/
  | cpostrContrib (d a : BitVec 7) (b : SB)
  /-- CARM_ARM, R326: Arms a HELD entry on a trigger counter with a threshold. -/
  | carmArm (d a : BitVec 7) (b : SB)
  /-- CHALO, R329: Creates a group entry of PUTs that send halo faces described in memory. -/
  | chalo (d a : BitVec 7)
  /-- CWAIT, R327: Waits until a trigger counter reaches a threshold or records an error, then acquires at pod scope. -/
  | cwait (d a : BitVec 7) (b : SB)
  /-- CQRY, R328: Returns a counter's value, errors, armed entries and the context's port and arrival state. -/
  | cqry (d : BitVec 7) (b : SB)
  /-- GEMIT, R360: Emits one triangle per active thread to its stream's home front. -/
  | gemit (d a : BitVec 7) (b : SB)
  /-- GFLUSH, R361: Raises a stream's watermark or closes the stream, as a release. -/
  | gflush (a : BitVec 7) (b : SB)
  /-- PXIN, R363: Writes an interpolated attribute or a system value into v(d) of each pixel thread. -/
  | pxin (d : BitVec 7) (mode : BitVec 2) (cen : Bool) (k : BitVec 5)
  /-- PXOUT, R365: Sends each eligible pixel thread's colours to the ordering unit for commit. -/
  | pxout (a : BitVec 7)
  /-- PXRATE, R362: Sets a stream's draw shading rate for later primitives. -/
  | pxrate (a : BitVec 7) (b : SB)
  /-- MARCH, R377: Marches each thread's ray through an occupancy grid and returns occupied segments. -/
  | march (d a : BitVec 7) (b : SB)
  /-- MSMP, R379: Samples a voxel field, nearest or trilinear, at each thread's position. -/
  | msmp (d a : BitVec 7) (b : SB)
  /-- MHASH, R381: Interpolates hash-grid features at each thread's position for L levels. -/
  | mhash (d a : BitVec 7) (b : SB)
  /-- MQRY, R382: Returns the context's counts at the core group's march sampler. -/
  | mqry (d : BitVec 7)
  /-- CTXNEW, R398: Creates a child context in state NEW and returns its number. -/
  | ctxnew (d : BitVec 7) (b : SB)
  /-- CTXGRANT, R399: Checks a grant record and adds units or sets values of a child. -/
  | ctxgrant (d a : BitVec 7) (b : SB)
  /-- CTXREVOKE, R412: Takes units back from a child's subtree, partly or whole, and returns a revocation number. -/
  | ctxrevoke (d a : BitVec 7) (b : SB)
  /-- CTXRUN_RUN, R400: Moves a NEW or STOPPED child to RUNNING and returns its saved batches to their queues. -/
  | ctxrunRun (d a : BitVec 7) (b : SB)
  /-- CTXSTOP_SLICE, R401: Ends a RUNNING child's slice and completes when it is STOPPED. -/
  | ctxstopSlice (d a : BitVec 7) (b : SB)
  /-- CTXSAVE, R402: Writes the image of a stopped or halted child to memory. -/
  | ctxsave (d a : BitVec 7) (b : SB)
  /-- CTXLOAD, R402: Loads a verified context image into a NEW child, leaving it STOPPED. -/
  | ctxload (d a : BitVec 7) (b : SB)
  /-- CTXQ, R403: Returns four words of a descendant's state by selector. -/
  | ctxq (d a : BitVec 7) (b : SB)
  /-- TRET, R406: Clears causes and returns to EPC, departs, or delivers the remaining causes. -/
  | tret (b : SB)
  /-- TREFL, R406: Reflects the masked causes to the parent and parks the tray. -/
  | trefl (b : SB)
  /-- TCLR, R406: Clears the masked cause bits. -/
  | tclr (b : SB)
  /-- SCRUB, R413: Clears the units of a revocation and writes a signed receipt. -/
  | scrub (d a : BitVec 7) (b : SB)
  /-- ALOG, R415: Sets or disables an access-log monitor on the issuer or a descendant. -/
  | alog (d a : BitVec 7) (b : SB)
  /-- KEYSEL_BIND, R414: Unwraps a key blob into the lowest free key slot bound to a child. -/
  | keyselBind (d a : BitVec 7) (b : SB)
  /-- SPAWN, R82: Submits a child launch per active thread and returns each handle. -/
  | spawn (d a : BitVec 7)
  /-- CONT, R84: Creates a continuation record with a join counter and returns its handle. -/
  | cont (d a : BitVec 7) (b : SB)
  /-- JDEC, R85: Decrements continuation join counters per thread, making records ready at zero. -/
  | jdec (a : BitVec 7) (b : VB)
  /-- LCANCEL, R86: Cancels a launch, graph, phase or job and its descendants. -/
  | lcancel (a : BitVec 7) (lvl : BitVec 8)
  /-- LSTAT, R87: Returns the outstanding count and status of a launch or hierarchy level. -/
  | lstat (d a : BitVec 7) (lvl : BitVec 8)
  /-- NOP, R39: Uses no pipe and takes no issue cycle; the issue selector skips it when it forms the next group. -/
  | nop
  /-- EXIT, R138: Ends every thread active in the issuing slot's mask and removes it from the tray's live mask. -/
  | exit
  /-- BAR, R140: Waits until every live tray of the batch has issued BAR, then releases them together as a batch-scope release and acquire. -/
  | bar
  /-- CBAR, R140: Waits until every live tray of the cluster has issued CBAR, then releases them together as a cluster-scope release and acquire. -/
  | cbar
  /-- JOIN, R136: Reconverges divergent paths by switching to the pending side, popping a merged entry or waiting for the other slot. -/
  | join
  /-- PXKILL, R366: Releases the shares of each active pixel thread without writing. -/
  | pxkill
  /-- CPOST_LAND, R322: Posts a landing buffer that receives PUT arrivals for a tag. -/
  | cpostLand (d a : BitVec 7) (b : SB)
  /-- CPOSTR_LANDR, R323: Posts a reduction landing that reduces G contributions, ordered by rank or through the U state. -/
  | cpostrLandr (d a : BitVec 7) (b : SB)
  /-- CARM_FIRE, R326: Fires a HELD or ARMED entry at once. -/
  | carmFire (d a : BitVec 7) (b : SB)
  /-- CARM_FREE, R326: Frees a HELD or ARMED entry or a landing. -/
  | carmFree (d a : BitVec 7) (b : SB)
  /-- CARM_SET, R326: Sets a counter's VALUE and clears its error count and kind. -/
  | carmSet (d a : BitVec 7) (b : SB)
  /-- CARM_ADD, R326: Adds to a counter's VALUE, possibly firing entries armed on it. -/
  | carmAdd (d a : BitVec 7) (b : SB)
  /-- CTXRUN_RESUME, R400: Clears causes of a tray parked by reflection and resumes it. -/
  | ctxrunResume (d a : BitVec 7) (b : SB)
  /-- CTXRUN_REPLY, R400: Writes a reply into a SYS-parked tray's registers, clears causes and resumes it. -/
  | ctxrunReply (d a : BitVec 7) (b : SB)
  /-- CTXSTOP_HALT, R401: Raises a child's halt line and completes when it is HALTED. -/
  | ctxstopHalt (d a : BitVec 7) (b : SB)
  /-- KEYSEL_UNBIND, R414: Writes back lines under a child's key slot and clears the slot. -/
  | keyselUnbind (d a : BitVec 7) (b : SB)
  /-- QUEUE_KICK, R67: A write to a QCB's WIDX makes the launch engine read, validate and accept the queue's visible records. -/
  | queueKick (q : Nat)
  /-- QUEUE_ENABLE, R66: Writing EN from 0 to 1 enables a launch queue and sets RIDX to WIDX. -/
  | queueEnable (q : Nat)
  /-- QUEUE_DISABLE, R66: Writing EN = 0 disables a launch queue after the record being read. -/
  | queueDisable (q : Nat)
  /-- LAUNCH_SLOT_FREE, R70: 1 ms after a launch completes its table slot frees, its generation advances and the longest-waiting queue gets it. -/
  | launchSlotFree (slot : Nat)
  /-- HIERARCHY_ENTRY_FREE, R74: 1 ms after a graph, phase or job completes its hierarchy entry is freed. -/
  | hierarchyEntryFree (ctx level id : Nat)
  /-- AGGREGATOR_WINDOW_CLOSE, R83: A merge window closes 2 µs after its first child, forming one grid of merged children. -/
  | aggregatorWindowClose (w : Nat)
  /-- LAUNCH_EXPAND, R76: A dispatcher slice expands a launch into KIND-0 batch records a cluster at a time. -/
  | launchExpand (die slot : Nat)
  /-- BATCH_PLACE, R77: A dispatcher slice places a ready record on cores once its resources fit. -/
  | batchPlace (die : Nat)
  /-- BATCH_START, R69: Once its declared inputs have landed a placed batch's trays start with the initial state of R35. -/
  | batchStart (batch : Nat)
  /-- BATCH_COMPLETE, R73: A batch completes when its trays have exited and all their operations have completed, decrementing its launch's count. -/
  | batchComplete (batch : Nat)
  /-- CANCEL_FORCE_END, R86: A cancelled tray still resident 20,000 clocks later is ended without save and its operations stopped. -/
  | cancelForceEnd (tray : Nat)
  /-- QUEUE_REFUSAL, R15: A full queue drops an arriving entry, returns a negative acknowledgement and refuses that sender's later entries. -/
  | queueRefusal (core : Nat)
  /-- QUEUE_RESEND, R16: After its doubling back-off a sender resends its held entries in original order. -/
  | queueResend (core : Nat)
  /-- COMMAND_ACCEPT, R15: An engine's command queue accepts a command, freeing its replay-window entry. -/
  | commandAccept (core : Nat)
  /-- CANDIDATE_URGENT, R79: A candidate that has not issued for 4,096 clocks becomes urgent within its priority. -/
  | candidateUrgent (tray : Nat)
  /-- LOAD_COMPLETE, R162: A load's data arrives, its destinations are written, L1 sectors filled and miss-status entries freed, and the loads counter falls. -/
  | loadComplete (tray k : Nat)
  /-- STORE_COMPLETE, R162: A store's bytes are performed at their point of coherence and the stores counter falls. -/
  | storeComplete (tray k : Nat)
  /-- ENGINE_RESULT_LAND, R19: A register-returning engine result arrives in its registers through the scoreboard. -/
  | engineResultLand (tray k : Nat)
  /-- FAULT_RECORD_DEFERRED, R231: A waiting replayable record is written once its ring has room and is reachable. -/
  | faultRecordDeferred (die : Nat)
  /-- TRAY_SAVE, R410: Once its commands are accepted and results landed a departing or evicted tray's image is written. -/
  | traySave (tray : Nat)
  /-- CLUSTER_REGION_SAVE, R407: A cluster's scratchpad region is saved once every copy using it has completed or stopped. -/
  | clusterRegionSave (cluster : Nat)
  /-- YIELD_WAKE, R145: A yielded tray becomes a candidate at its continuation within 256 clocks of its condition holding. -/
  | yieldWake (tray : Nat)
  /-- JOIN_MERGE, R136: Two slots waiting at JOIN merge once both have their pending results landed. -/
  | joinMerge (tray : Nat)
  /-- REGGROW_GRANT, R149: The oldest parked REGGROW is granted its registers when enough become free. -/
  | reggrowGrant (core : Nat)
  /-- REGGROW_DEADLOCK_EVICT, R150: When every resident tray is parked or waiting on such trays the core evicts the youngest batch. -/
  | reggrowDeadlockEvict (core : Nat)
  /-- TRAY_RESOURCE_RETURN, R139: An ended tray's slot and registers return to the core when its results have landed. -/
  | trayResourceReturn (tray : Nat)
  /-- GANG_LATCH_TIMEOUT, R278: A member waiting 65,536 clocks at the latch takes GANG and its arrival is withdrawn. -/
  | gangLatchTimeout (tray : Nat)
  /-- REPLAY_WRITE, R229: A replay token written to the TCB's REPLAY field ends the named park. -/
  | replayWrite (ctx : Nat) (token : BitVec 32)
  /-- PARK_TIMEOUT, R229: A park outliving PARKTO becomes terminal with kind PARKTIMEOUT. -/
  | parkTimeout (op : Bool) (k : Nat)
  /-- ROOT_WRITE, R213: A write to TCB ROOT takes effect as a whole-space invalidation. -/
  | rootWrite (ctx : Nat) (v : BitVec 64)
  /-- INVALIDATION_KICK, R224: A write to INVSEQ starts or queues an invalidation of a range, discarding TLB entries and advancing GEN. -/
  | invalidationKick (ctx : Nat) (seq : BitVec 32)
  /-- INVALIDATION_COMPLETE, R224: Once old translations' accesses are performed INVDONE is set to the invalidation's number. -/
  | invalidationComplete (ctx : Nat)
  /-- HOME_READ, R205: The home agent serves a read request, merging U partials and supplying data. -/
  | homeRead (die ctx line : Nat)
  /-- HOME_OWN, R205: The home agent grants a die the sole writable copy for a store. -/
  | homeOwn (die ctx line : Nat)
  /-- HOME_ATOMIC, R205: The home agent recalls every copy and performs an atomic, SO access or ineligible RED at home. -/
  | homeAtomic (die line : Nat)
  /-- HOME_UPDATE, R207: The home agent grants or extends the U state for an eligible RED. -/
  | homeUpdate (die ctx line : Nat) (op w : BitVec 3)
  /-- HOME_EVICT, R205: A die's replaced line is written back or its partial merged at home. -/
  | homeEvict (die line : Nat)
  /-- HOME_ENGINE_ACCESS, R205: An engine, RDMA or scrub access is served at home as a read or own after any merge. -/
  | homeEngineAccess (line : Nat) (wr : Bool)
  /-- TURN_CLOCK_REPORT, R200: Cores report their turn clocks at least every 64 clocks, releasing held .sc accesses. -/
  | turnClockReport (core : Nat)
  /-- PREFETCH_ISSUE, R176: A bank's stream prefetcher fills lines ahead of a detected stream. -/
  | prefetchIssue (die ctx line : Nat)
  /-- DONATE_WRITE, R245: An 8-byte write to DONATE pushes a frame onto a pool stack or is refused. -/
  | donateWrite (ctx : Nat) (entry : BitVec 64)
  /-- COW_SWITCH, R246: When the page copy ends the leaf switches to the new frame, slots shift and parked writes replay. -/
  | cowSwitch (op : Nat)
  /-- CHAIN_TIMEOUT, R247: A chain-full or pool-empty park beyond CHAINTO becomes terminal with cause VPOOL. -/
  | chainTimeout (op : Bool) (k : Nat)
  /-- SNAPSHOT_OP_COMPLETE, R251: A snapshot-engine command reaches its point, writes its result and is counted complete. -/
  | snapshotOpComplete (op : Nat)
  /-- MIGR_COMPLETE, R238: A page migration switches or scrubs, clears MIG, writes its result and ends its MIGRATING parks. -/
  | migrComplete (op : Nat)
  /-- COPY_COMPLETE, R272: A copy finishes, with or without error, and the copies counter falls. -/
  | copyComplete (op : Nat)
  /-- CPYM_GROUP_TIMEOUT, R262: A shared-fetch group not assembled 1 ms after its first member completes all members with error. -/
  | cpymGroupTimeout (op : Nat)
  /-- MATRIX_OP_COMPLETE, R293: A matrix operation completes on its tiles, and a closed batch's completion lowers the matrix counter. -/
  | matrixOpComplete (core : Nat)
  /-- STACK_OP_COMPLETE, R309: A stack-engine operation completes, with or without error. -/
  | stackOpComplete (op : Nat)
  /-- SAMPLER_OP_COMPLETE, R383: A march-sampler operation's results land in the threads' registers. -/
  | samplerOpComplete (op : Nat)
  /-- CONTEXT_OP_COMPLETE, R397: A context-engine command completes and its result is observed as an acquire. -/
  | contextOpComplete (op : Nat)
  /-- UALINK_UNIT_ARRIVE, R321: A posted unit arrives at its target and is written into its landing, held, or refused. -/
  | ualinkUnitArrive (u : UaUnit)
  /-- REMOTE_ACCESS_ARRIVE, R312: A remote-window access is resolved through the landing map and performed in the target context. -/
  | remoteAccessArrive (r : RemoteAcc)
  /-- UALINK_ACK, R321: A target's acknowledgement advances the sender's local completion counter and completes the entry. -/
  | ualinkAck (handle : BitVec 32) (part unit : Nat)
  /-- UALINK_NACK, R333: A refused unit is held for resend; the 64th refusal gives the sender a NACKLIM fault. -/
  | ualinkNack (handle : BitVec 32) (part unit : Nat)
  /-- UALINK_RESEND, R333: After its back-off a refused unit is sent again. -/
  | ualinkResend (handle : BitVec 32) (part unit : Nat)
  /-- UALINK_FAULT_COMPLETION, R335: A fault completion from the target advances the sender counter's ERRCNT with kind REMOTE. -/
  | ualinkFaultCompletion (handle : BitVec 32) (part unit : Nat)
  /-- UALINK_UNIT_TIMEOUT, R335: A unit with no response within 4 ms counts as a fault completion of kind TIMEOUT. -/
  | ualinkUnitTimeout (handle : BitVec 32) (part unit : Nat)
  /-- REMOTE_RETRY_TIMEOUT, R335: A REMOTERETRY park ends after 64 µs and the remote load is sent again. -/
  | remoteRetryTimeout (tray : Nat)
  /-- UALINK_PORT_DOWN, R314: A port beyond its replay limit is declared down and its units are resent on other ports. -/
  | ualinkPortDown (port : Nat)
  /-- LINK_DOWN, R336: An interposer link that fails 16 replays goes down, poisoning loads, halting contexts and entering degraded service. -/
  | linkDown (die : Nat)
  /-- PRIMITIVE_ARRIVE, R347: A forwarded primitive reaches an owner front and enters each touched tile's bin, or is discarded. -/
  | primitiveArrive (pass src dst : Nat)
  /-- WATERMARK_ARRIVE, R346: A stream's watermark change reaches an owner front, possibly making bins ready. -/
  | watermarkArrive (pass src dst : Nat)
  /-- TILE_RASTERISE, R349: An owner front rasterises a tile's lowest ready primitive into coarse quads. -/
  | tileRasterise (pass tile : Nat)
  /-- PIXEL_TRAY_PLACE, R353: A pixel tray is placed on the tile's pixel core once its resources can be reserved. -/
  | pixelTrayPlace (pass tile : Nat)
  /-- EXPORT_COMMIT, R354: An export commits once no older entry of its fine quads is pending, performing depth test and blend. -/
  | exportCommit (pass k : Nat)
  /-- PASS_END, R342: When streams are closed, bins empty and exports performed the pass ends and advances TCNT. -/
  | passEnd (pass : Nat)
  /-- QUANTUM_EXPIRY, R401: A context's QUANTUM expires and its slice ends, posting a slice-ended record. -/
  | quantumExpiry (ctx : Nat)
  /-- SLICE_BUDGET_EXPIRY, R407: A departing tray whose handler budget runs out is saved by force. -/
  | sliceBudgetExpiry (tray : Nat)
  /-- UNIT_STOP, R408: A unit stops the halted or cancelled context's work within its skid bound and writes its stop records. -/
  | unitStop (cls unit ctx : Nat)
  /-- REGISTER_WRITE, R389: A write to a control-page, QCB, TCB, SCB or landing-map field without its own row stores the value or is discarded. -/
  | registerWrite (writer page off : Nat) (v : BitVec 64)
  /-- RDMA_WRITE, R418: A host RDMA WRITE is performed as an engine write of the bound context, in arrival order. -/
  | rdmaWrite (qp addr : Nat) (data : List (BitVec 8))
  /-- RDMA_READ, R418: A host RDMA READ is performed as an engine read of the bound context. -/
  | rdmaRead (qp addr len : Nat)
  /-- UNSUPPORTED_REQUEST, R417: An unsupported RoCEv2 request receives an invalid-request NAK. -/
  | unsupportedRequest (qp : Nat)
  /-- IDENTIFY, R419: Returns part, serial, fuse revision and stage. -/
  | identify (h : CmdHdr)
  /-- ATTEST, R427: Returns a report over the host's nonce signed by the package identity key. -/
  | attest (h : CmdHdr) (nonce : List (BitVec 8))
  /-- HEALTH, R419: Returns temperatures, power, dies present and the degraded flag. -/
  | health (h : CmdHdr)
  /-- SEMACQ, R421: Acquires the hardware semaphore if free, advancing SEQ. -/
  | semacq (h : CmdHdr)
  /-- SEMREL, R421: Releases the hardware semaphore if the caller owns it with a matching SEQ. -/
  | semrel (h : CmdHdr)
  /-- QPBIND, R418: Binds a data queue pair to a context. -/
  | qpbind (h : CmdHdr) (qp ctx : Nat)
  /-- EVSET, R422: Configures an event channel's queue pair and mode. -/
  | evset (h : CmdHdr) (ch qp mode logSlots addr : Nat)
  /-- ROOTRING, R422: Names this endpoint's host ring for the root's reflection and stop records. -/
  | rootring (h : CmdHdr) (qp logSlots addr : Nat)
  /-- FWLOAD, R425: Verifies a firmware image and runs it in S1 hold or writes it to flash in S2. -/
  | fwload (h : CmdHdr) (image : List (BitVec 8))
  /-- KEYROLL, R427: Generates a new identity key, signs it with the old one and uses it from then on. -/
  | keyroll (h : CmdHdr)
  /-- ROOTWR, R426: Writes bytes of the root context's control page. -/
  | rootwr (h : CmdHdr) (off : Nat) (data : List (BitVec 8))
  /-- PODIDX, R426: Sets the pod index used when UALink is trained. -/
  | podidx (h : CmdHdr) (idx : Nat)
  /-- CKPT, R428: Starts a full or incremental checkpoint of a context to remote storage by RDMA. -/
  | ckpt (h : CmdHdr) (c : CkptArgs)
  /-- CKPTABORT, R429: Ends a checkpoint in progress with status 1. -/
  | ckptabort (h : CmdHdr) (ck : Nat)
  /-- CKPT_COMPLETE, R428: A checkpoint's last page and entry are written and a type-5 event is posted. -/
  | ckptComplete (ck : Nat)
  /-- SEMAPHORE_LEASE_EXPIRY, R421: An owner silent for 30 s loses the semaphore. -/
  | semaphoreLeaseExpiry
  /-- POWER_GOOD, R423: Power-good starts the staged start with each die booting from ROM and fuses. -/
  | powerGood
  /-- STAGE_S0_COMPLETE, R423: S0 completes, a master die is chosen and CLOCK starts at 0. -/
  | stageS0Complete (passed : BitVec 4)
  /-- STAGE_S1_COMPLETE, R423: HBM, links and caches are trained and memory zeroed, then firmware is sought or S1 hold entered. -/
  | stageS1Complete (passed : BitVec 4) (fwValid : Bool)
  /-- STAGE_S2_REACHED, R426: Firmware is verified, UALink trained and the root context created holding every unfenced unit. -/
  | stageS2Reached (cfg : FwCfg)
  /-- THERMAL_THROTTLE, R430: A die above 95 °C inserts idle issue cycles and posts a thermal event. -/
  | thermalThrottle (die : Nat)
  /-- THERMAL_TRIP, R430: At 105 °C every context halts with REASON 4 and the package asks for power removal. -/
  | thermalTrip
  /-- UNASSIGNED_ENCODING, R56: A word whose major or function is unassigned or reserved raises a precise ILLEGAL trap when it would issue. -/
  | unassignedEncoding (word : BitVec 32)
  /-- UNCORRECTABLE_ERROR, R209: An uncorrectable memory or SRAM error marks the affected sector poisoned. -/
  | uncorrectableError (pa : Nat)
  /-- POWER_LOSS, R423: Removal of power ends all state; the package returns to an earlier stage only through a power cycle. -/
  | powerLoss
  /-- BELOW_THROTTLE_TEMPERATURE, R430: When a die's temperature falls back below 95 °C its cores stop inserting idle issue cycles. -/
  | belowThrottleTemperature (die : Nat)
  /-- REMOTE_NAK, R429: A whole-range remote NAK received for a checkpoint's RDMA writes ends the checkpoint with status 2. -/
  | remoteNak (ck : Nat)
  /-- MALFORMED_COMMAND, R420: A command SEND with a malformed header, operand or unknown opcode is answered with status 0x04 and has no effect. -/
  | malformedCommand (h : CmdHdr)
  deriving DecidableEq, Repr

end Sys2Proof
end

