-- ==== Sys2Proof/WellFormed.lean ====
section
/-!
DEFINITION. Well-formed instruction words: what can be said legal or ILLEGAL from the word alone.

`Instr.opnds` lists every register operand of an instruction (which file, the first register, how many, read or
written). From it come the alignment and range rules R29, R30, R32 and R134, the write conflicts of a chain (R38),
the window check R28 and the scoreboard (R31). `Instr.fieldsOk` holds the remaining legality rules of single fields.
What depends on the state (mode, path slots, values) is checked where the instruction issues.
-/

namespace Sys2Proof

/-- A register file an operand lives in. -/
inductive RFile where
  /-- window registers (R28) -/
  | v
  /-- scalar registers (R30) -/
  | s
  /-- mask triples (R26) -/
  | m
  /-- special registers (R33) -/
  | sp
  /-- accumulator tiles (R32) -/
  | acc
  /-- a literal word (R40): no register -/
  | lit
  deriving DecidableEq, Repr

/-- One register operand: `n` consecutive registers of `file` from `k`. -/
structure Opnd where
  file : RFile
  k : Nat
  n : Nat
  rd : Bool
  wr : Bool
  deriving DecidableEq, Repr

namespace Opnd

/-- A window register group that is read. -/
def vr (k : BitVec 7) (n : Nat) : Opnd := ⟨.v, k.toNat, n, true, false⟩
/-- A window register group that is written. -/
def vw (k : BitVec 7) (n : Nat) : Opnd := ⟨.v, k.toNat, n, false, true⟩
/-- A window register group that is read and written. -/
def vrw (k : BitVec 7) (n : Nat) : Opnd := ⟨.v, k.toNat, n, true, true⟩
/-- A scalar register group that is read. -/
def sr (k : BitVec 7) (n : Nat) : Opnd := ⟨.s, k.toNat, n, true, false⟩
/-- A scalar register group that is written. -/
def sw (k : BitVec 7) (n : Nat) : Opnd := ⟨.s, k.toNat, n, false, true⟩
/-- A scalar register group that is read and written. -/
def srw (k : BitVec 7) (n : Nat) : Opnd := ⟨.s, k.toNat, n, true, true⟩
/-- A mask triple that is read. -/
def mr (k : BitVec 7) : Opnd := ⟨.m, k.toNat, 1, true, false⟩
/-- A mask triple that is written. -/
def mw (k : BitVec 7) : Opnd := ⟨.m, k.toNat, 1, false, true⟩
/-- A special register that is read. -/
def spr (k : BitVec 7) : Opnd := ⟨.sp, k.toNat, 1, true, false⟩
/-- A special register that is written. -/
def spw (k : BitVec 7) : Opnd := ⟨.sp, k.toNat, 1, false, true⟩
/-- An accumulator tile. -/
def tile (k : BitVec 7) : Opnd := ⟨.acc, k.toNat, 1, true, true⟩
/-- The literal word of an instruction. -/
def literal : Opnd := ⟨.lit, 0, 1, true, false⟩

/-- Range and alignment of one operand (R29, R30, R32, R34, R134). -/
def ok (o : Opnd) : Bool :=
  match o.file with
  | .v => o.k % o.n == 0 && o.k + o.n ≤ 128
  | .s => o.k % o.n == 0 && o.k + o.n ≤ 96
  | .m => o.k < 32
  | .sp => o.k < 16
  | .acc => o.k < 16
  | .lit => true

end Opnd

/-- The operand list of a scalar B code read as `n` registers (Table 2.5). -/
def SB.opnds : SB → Nat → List Opnd
  | .sreg k, n => [Opnd.sr k n]
  | .zero, _ => []
  | .lit _, _ => [Opnd.literal]

/-- The operand list of a vector B code read as `n` registers (Table 2.5). -/
def VB.opnds : VB → Nat → List Opnd
  | .vreg k, n => [Opnd.vr k n]
  | .bcast k, n => [Opnd.sr k n]
  | .zero, _ => []
  | .lit _, _ => [Opnd.literal]

/-- The operand list of a mask B code (R134). -/
def MB.opnds : MB → List Opnd
  | .tri k => [Opnd.mr (k.setWidth 7)]
  | .zero => []
  | .lit _ => [Opnd.literal]

/-- A scalar descriptor operand must be a register group: zero and literal are not allowed. -/
def SB.isReg : SB → Bool
  | .sreg _ => true
  | .zero => false
  | .lit _ => false

/-- Number of registers the data operand of a memory word spans (Table 7.2). -/
def memRegs (w : BitVec 3) : Nat :=
  match w.toNat with
  | 3 => 2 | 4 => 4 | 5 => 8 | 7 => 2 | _ => 1

/-- Number of registers an atomic reads from D: cas reads the compare and the swap value (R166). -/
def atomRegs (w h : BitVec 3) : Nat :=
  if h = 7 then 2 * memRegs w else memRegs w

/-- Registers of an atomic: D is read over its operands and written over the old value (R166). -/
def atomOpnds (d : BitVec 7) (w h : BitVec 3) : List Opnd :=
  [Opnd.vr d (atomRegs w h), Opnd.vw d (memRegs w)]

/-- `CVTQ`, `DQ8` and `DQ4` read the scale register a + 1 when MX is set, and then a must be even (R103). -/
def mxOpnds (a : BitVec 7) (mx : Bool) : List Opnd := [Opnd.vr a (if mx then 2 else 1)]

/-- The special registers of 64 bits, read into a pair (R116). -/
def sprRegs (n : BitVec 7) : Nat := if n = 1 ∨ n = 12 ∨ n = 15 then 2 else 1

/-- TRET reads a cause mask (Table 17.6). -/
def tretOpnds (b : SB) : List Opnd := b.opnds 2
/-- TREFL reads a cause mask (Table 17.6). -/
def treflOpnds (b : SB) : List Opnd := b.opnds 2
/-- TCLR reads a cause mask and writes the cause bitmap (Table 17.6). -/
def tclrOpnds (b : SB) : List Opnd := [Opnd.spw 10, Opnd.spw 11] ++ b.opnds 2
/-- SCRUB: status, revocation number, receipt address (Table 17.6). -/
def scrubOpnds (d a : BitVec 7) (b : SB) : List Opnd := [Opnd.sw d 1, Opnd.sr a 1] ++ b.opnds 2
/-- ALOG: result, monitor word, descriptor address (Table 17.6). -/
def alogOpnds (d a : BitVec 7) (b : SB) : List Opnd := [Opnd.sw d 1, Opnd.sr a 1] ++ b.opnds 2
/-- KEYSEL: slot, the pair child and slot, key blob address (Table 17.6). -/
def keyselBindOpnds (d a : BitVec 7) (b : SB) : List Opnd := [Opnd.sw d 1, Opnd.sr a 2] ++ b.opnds 2
/-- SPAWN writes a handle per thread and reads a record address pair (Table 3.6). -/
def spawnOpnds (d a : BitVec 7) : List Opnd := [Opnd.vw d 1, Opnd.vr a 2]
/-- CONT writes a handle and reads CODE, JOIN and the frame pointer (Table 3.6, R84). -/
def contOpnds (d a : BitVec 7) (b : SB) : List Opnd := [Opnd.sw d 1, Opnd.sr a 2] ++ b.opnds 2
/-- JDEC reads a handle and an amount per thread (Table 3.6). -/
def jdecOpnds (a : BitVec 7) (b : VB) : List Opnd := [Opnd.vr a 1] ++ b.opnds 1
/-- LCANCEL reads an identifier, except with level .self (R81). -/
def lcancelOpnds (a : BitVec 7) (lvl : BitVec 8) : List Opnd := if lvl = 4 then [] else [Opnd.sr a 1]
/-- LSTAT writes a pair and reads an identifier, except with level .self (R81). -/
def lstatOpnds (d a : BitVec 7) (lvl : BitVec 8) : List Opnd :=
  [Opnd.sw d 2] ++ (if lvl = 4 then [] else [Opnd.sr a 1])

/-- The level codes of LCANCEL and LSTAT: 0x00–0x04, and .self reads no A (R81). -/
def lvlOk (a : BitVec 7) (lvl : BitVec 8) : Bool := lvl.toNat < 5 && (lvl.toNat != 4 || a.toNat == 0)

/-- The register operands of an instruction, in the order D, A, B (R47, R53, R54 and the instructions' own tables).
Events of the table have none. -/
def Instr.opnds : Instr → List Opnd
  | .yield cond p c =>
      (if cond = 0 then [] else if cond = 2 then [Opnd.sr p 2] else [Opnd.sr p 1]) ++ [Opnd.sr c 2]
  | .trap x => [Opnd.sr x 1]
  | .sys x => [Opnd.sr x 4]
  | .bz x _ | .bnz x _ => [Opnd.sr x 1]
  | .bzm x _ | .bnzm x _ | .brd x _ => [Opnd.mr x]
  | .call _ => [Opnd.sw 62 2]
  | .calli x => [Opnd.sr x 2, Opnd.sw 62 2]
  | .ret x | .jmpi x => [Opnd.sr x 2]
  | .loop x _ => [Opnd.srw x 1]
  | .sadd d a b | .ssub d a b | .smul d a b | .smulh d a b | .sand d a b | .sor d a b | .sxor d a b
  | .sshl d a b | .sshr d a b | .ssra d a b | .smin d a b | .smax d a b | .scmp _ d a b =>
      [Opnd.sw d 1, Opnd.sr a 1] ++ b.opnds 1
  | .smov d b => [Opnd.sw d 1] ++ b.opnds 1
  | .saddI d a _ | .ssubI d a _ | .smulI d a _ | .smulhI d a _ | .sandI d a _ | .sorI d a _ | .sxorI d a _
  | .sshlI d a _ | .sshrI d a _ | .ssraI d a _ | .sminI d a _ | .smaxI d a _ => [Opnd.sw d 1, Opnd.sr a 1]
  | .smovI d _ => [Opnd.sw d 1]
  | .sadd64 d a b | .ssub64 d a b => [Opnd.sw d 2, Opnd.sr a 2] ++ b.opnds 2
  | .sadd64I d a _ | .ssub64I d a _ => [Opnd.sw d 2, Opnd.sr a 2]
  | .ssel d a b => [Opnd.srw d 1, Opnd.sr a 1] ++ b.opnds 1
  | .mand d a b | .mor d a b | .mxor d a b | .mandn d a b => [Opnd.mw d, Opnd.mr a] ++ b.opnds
  | .mpop d b | .mfirst d b => [Opnd.sw d 1] ++ b.opnds
  | .mset d a => [Opnd.mw d, Opnd.vr a 1]
  | .mmov d b => [Opnd.mw d] ++ b.opnds
  | .rdsr d a => [Opnd.sw d (sprRegs a), Opnd.spr a]
  | .wrsr a b => [Opnd.spw a] ++ b.opnds (sprRegs a)
  | .vwin b => [Opnd.spw 13] ++ b.opnds 1
  | .reggrow b | .regshrink b => b.opnds 1
  | .vadd d a b | .vsub d a b | .vmul d a b | .vmulh d a b | .vand d a b | .vor d a b | .vxor d a b
  | .vshl d a b | .vshr d a b | .vsra d a b | .vmin d a b | .vmax d a b | .vcmp _ d a b
  | .fadd d a b | .fsub d a b | .fmul d a b | .fmin d a b | .fmax d a b | .fcmp _ d a b
  | .hadd2 d a b | .hmul2 d a b | .hmax2 d a b | .badd2 d a b | .bmul2 d a b | .bmax2 d a b
  | .vidx d a b | .vgets d a b => [Opnd.vw d 1, Opnd.vr a 1] ++ b.opnds 1
  | .vidxw d a b => [Opnd.vr d 1, Opnd.vr a 1] ++ b.opnds 1
  | .vmad d a b | .vsel d a b | .vbfi d a b | .ffma d a b | .ffms d a b | .fnma d a b
  | .hfma2 d a b | .bfma2 d a b => [Opnd.vrw d 1, Opnd.vr a 1] ++ b.opnds 1
  | .vbfe d a b => [Opnd.vw d 1, Opnd.vr a 1] ++ b.opnds 1
  | .vaddI d a _ | .vsubI d a _ | .vmulI d a _ | .vmulhI d a _ | .vandI d a _ | .vorI d a _ | .vxorI d a _
  | .vshlI d a _ | .vshrI d a _ | .vsraI d a _ | .vminI d a _ | .vmaxI d a _
  | .faddI d a _ | .fsubI d a _ | .fmulI d a _ | .fminI d a _ | .fmaxI d a _ => [Opnd.vw d 1, Opnd.vr a 1]
  | .vmadI d a _ | .ffmaI d a _ | .ffmsI d a _ | .fnmaI d a _ => [Opnd.vrw d 1, Opnd.vr a 1]
  | .vadd64 d a b => [Opnd.vw d 2, Opnd.vr a 2] ++ b.opnds 2
  | .vadd64I d a _ => [Opnd.vw d 2, Opnd.vr a 2]
  | .vmad64 d a b => [Opnd.vrw d 2, Opnd.vr a 1] ++ b.opnds 2
  | .vmad64I d a _ => [Opnd.vrw d 2, Opnd.vr a 1]
  | .vmov d b | .vnot d b | .vabs d b | .vclz d b | .vpopc d b | .vbrev d b
  | .frcp d b | .frsq d b | .fsqrt d b | .fex2 d b | .flg2 d b | .fsin d b | .fcos d b | .ftanh d b =>
      [Opnd.vw d 1] ++ b.opnds 1
  | .vlane d _ => [Opnd.vw d 1]
  | .dadd d a b | .dsub d a b | .dmul d a b | .dmin d a b | .dmax d a b | .ddiv d a b =>
      [Opnd.vw d 2, Opnd.vr a 2] ++ b.opnds 2
  | .dfma d a b | .dfms d a b | .dnma d a b => [Opnd.vrw d 2, Opnd.vr a 2] ++ b.opnds 2
  | .dsqrt d b | .drcp d b | .drsq d b | .dfloor d b | .dceil d b | .drne d b | .dtrunc d b =>
      [Opnd.vw d 2] ++ b.opnds 2
  | .dcmp _ d a b => [Opnd.vw d 1, Opnd.vr a 2] ++ b.opnds 2
  | .cvtF32I32 d a _ _ | .cvtI32F32 d a _ _ | .cvtF32F16 d a _ _ => [Opnd.vw d 1, Opnd.vr a 1]
  | .cvtF64F32 d a | .cvtF64I32 d a _ => [Opnd.vw d 2, Opnd.vr a 1]
  | .cvtF32F64 d a _ _ | .cvtI32F64 d a _ _ => [Opnd.vw d 1, Opnd.vr a 2]
  | .cvtF16F32 d a _ _ _ => [Opnd.vw d 1, Opnd.vr a 2]
  | .cvtqE4m3 d a _ _ mx _ | .cvtqE5m2 d a _ _ mx _ | .cvtqE2m1 d a _ _ mx _ | .cvtqI8 d a _ mx _ =>
      [Opnd.vrw d 1] ++ mxOpnds a mx
  | .dq4 d a _ mx _ | .dq8 d a _ _ mx _ => [Opnd.vw d 1] ++ mxOpnds a mx
  | .scale d a _ => [Opnd.vw d 1, Opnd.vr a 1]
  | .perm d a m _ => [Opnd.vrw d 1, Opnd.vr a 1, Opnd.mr (m.setWidth 7)]
  | .pup d a m _ | .pdn d a m _ | .pxor d a m _ | .pbcast d a m _ | .vote d a m _ | .redl d a m _
  | .scanl d a m _ => [Opnd.vw d 1, Opnd.vr a 1, Opnd.mr (m.setWidth 7)]
  | .ld d a w _ _ => [Opnd.vw d (memRegs w), Opnd.vr a 2]
  | .st d a w _ _ => [Opnd.vr d (memRegs w), Opnd.vr a 2]
  | .ldv d a w _ o => [Opnd.vw d (memRegs w), Opnd.vr a 2, Opnd.sr (32 + o.setWidth 7) 1]
  | .lds d a w _ _ => [Opnd.vw d (memRegs w), Opnd.vr a 1]
  | .sts d a w _ _ => [Opnd.vr d (memRegs w), Opnd.vr a 1]
  | .atom d a w h _ => atomOpnds d w h ++ [Opnd.vr a 2]
  | .atoms d a w h _ => atomOpnds d w h ++ [Opnd.vr a 1]
  | .red d a w _ _ => [Opnd.vr d (memRegs w), Opnd.vr a 2]
  | .ldw d a w _ _ => [Opnd.vw d (memRegs w), Opnd.vr a 2]
  | .cctl a kind _ => if kind = 0 then [] else [Opnd.sr a 2]
  | .pref a _ _ => [Opnd.vr a 2]
  | .migr d a b => [Opnd.sw d 2, Opnd.sr a 2] ++ b.opnds 2
  | .cpy a b | .cpym a b => [Opnd.sr a 4] ++ b.opnds 1
  | .cpys a => [Opnd.sr a 4]
  | .rinit d a => [Opnd.sw d 1, Opnd.sr a 4]
  | .rwait d a b => [Opnd.sw d 1] ++ (if a = 0 then [] else [Opnd.sr a 2]) ++ b.opnds 1
  | .rrel d b => [Opnd.sw d 1] ++ b.opnds 1
  | .rqry d b | .hqry d b | .cqry d b => [Opnd.sw d 4] ++ b.opnds 1
  | .gang d b => [Opnd.sw d 1, Opnd.spw 14] ++ b.opnds 1
  | .mma t _ b | .mdist t _ b => [Opnd.tile t] ++ b.opnds 1
  | .mtopk t src k => [Opnd.tile t, Opnd.tile src, Opnd.sr (k.setWidth 7) 2]
  | .mfence d => [Opnd.sw d 1]
  | .mzero b => b.opnds 1
  | .mrd d t f64 _ =>
      (if f64 then [Opnd.vw d 8, Opnd.vw (d + 8) 8, Opnd.tile t, Opnd.tile (t + 1)] else [Opnd.vw d 8, Opnd.tile t])
  | .mwr t a f64 =>
      (if f64 then [Opnd.vr a 8, Opnd.vr (a + 8) 8, Opnd.tile t, Opnd.tile (t + 1)] else [Opnd.vr a 8, Opnd.tile t])
  | .snap d a b => [Opnd.sw d 1, Opnd.sr a 4] ++ b.opnds 1
  | .sacq d b | .srel d b | .vstep d b | .vpin d b | .vunpin d b => [Opnd.sw d 1] ++ b.opnds 1
  | .vqry d a b => [Opnd.srw d 2, Opnd.sr a 4] ++ b.opnds 2
  | .hgath a b | .hred a b | .hcvt a b => [Opnd.sr a 4] ++ b.opnds 4
  | .cpostPut d a b | .cpostLand d a b | .cpostrContrib d a b | .cpostrLandr d a b =>
      [Opnd.sw d 1, Opnd.sr a 4] ++ b.opnds 4
  | .carmArm d a b | .carmFire d a b | .carmFree d a b | .carmSet d a b | .carmAdd d a b =>
      [Opnd.sw d 1, Opnd.sr a 2] ++ b.opnds 1
  | .chalo d a => [Opnd.sw d 1, Opnd.sr a 2]
  | .cwait d a b => [Opnd.sw d 1, Opnd.sr a 1] ++ b.opnds 1
  | .gemit d a b => [Opnd.vr d 2, Opnd.vr a 1] ++ b.opnds 4
  | .gflush a b => [Opnd.sr a 4] ++ b.opnds 2
  | .pxrate a b => [Opnd.sr a 4] ++ b.opnds 1
  | .pxin d _ _ _ => [Opnd.vw d 1]
  | .pxout a => [Opnd.vr a 1]
  | .march d a b => [Opnd.vw d 1, Opnd.vr a 8] ++ b.opnds 4
  | .msmp d a b | .mhash d a b => [Opnd.vw d 1, Opnd.vr a 1] ++ b.opnds 4
  | .mqry d => [Opnd.sw d 4]
  | .ctxnew d b => [Opnd.sw d 1] ++ b.opnds 1
  | .ctxgrant d a b | .ctxsave d a b | .ctxload d a b => [Opnd.sw d 1, Opnd.sr a 1] ++ b.opnds 2
  | .scrub d a b => scrubOpnds d a b
  | .alog d a b => alogOpnds d a b
  | .ctxrevoke d a b => [Opnd.sw d 1, Opnd.sr a 2] ++ b.opnds 2
  | .keyselBind d a b => keyselBindOpnds d a b
  | .keyselUnbind d a b => keyselBindOpnds d a b
  | .ctxrunRun d a b | .ctxrunResume d a b | .ctxrunReply d a b => [Opnd.sw d 1, Opnd.sr a 4] ++ b.opnds 2
  | .ctxstopSlice d a b | .ctxstopHalt d a b => [Opnd.sw d 1, Opnd.sr a 1] ++ b.opnds 1
  | .ctxq d a b => [Opnd.sw d 4, Opnd.sr a 1] ++ b.opnds 1
  | .tret b => tretOpnds b
  | .trefl b => treflOpnds b
  | .tclr b => tclrOpnds b
  | .spawn d a => spawnOpnds d a
  | .cont d a b => contOpnds d a b
  | .jdec a b => jdecOpnds a b
  | .lcancel a lvl => lcancelOpnds a lvl
  | .lstat d a lvl => lstatOpnds d a lvl
  | _ => []

/-- A byte position of CVTQ and DQ8: 0 to 3 (R103). -/
def posByte (pos : BitVec 3) : Bool := pos.toNat < 4

/-- Legal W, H and O of a load or store of Table 7.1: widths up to `wmax`, hints of the list. -/
def memOk (w h : BitVec 3) (wmax : Nat) (hints : List Nat) : Bool :=
  w.toNat ≤ wmax && hints.contains h.toNat

/-- Legal widths and operations of ATOM, ATOMS and RED (R167): width 2, 3, 6 or 7; only add with 6 and 7. -/
def atomOk (w h : BitVec 3) (hmax : Nat) : Bool :=
  [2, 3, 6, 7].contains w.toNat && h.toNat ≤ hmax && (w.toNat < 6 || h.toNat == 0)

/-- The field values that single instructions allow, beyond register ranges: every other value is ILLEGAL (R56). -/
def Instr.fieldsOk : Instr → Bool
  | .yield cond _ _ => cond.toNat < 5
  | .wrsr a _ => a.toNat == 8 || a.toNat == 9 || a.toNat == 12
  | .vlane _ sel => sel.toNat < 3
  | .cvtF32I32 _ _ rm _ | .cvtI32F32 _ _ rm _ | .cvtI32F64 _ _ rm _ | .cvtF32F64 _ _ rm _
  | .cvtF16F32 _ _ rm _ _ => rm.toNat < 6
  | .cvtqE4m3 _ _ pos _ _ _ | .cvtqE5m2 _ _ pos _ _ _ | .cvtqI8 _ _ pos _ _ => posByte pos
  | .dq8 _ _ pos fmt _ _ => posByte pos && fmt.toNat != 2
  | .perm _ _ _ p | .pbcast _ _ _ p => p.toNat < 2
  | .pup _ _ _ p | .pdn _ _ _ p | .pxor _ _ _ p => p.toNat < 5
  | .vote _ _ _ p => p.toNat < 7
  | .ld _ _ w h _ => memOk w h 4 [0, 1, 2, 3, 4, 5, 6]
  | .st _ _ w h _ => memOk w h 4 [0, 1, 3, 4, 5, 6]
  | .ldv _ _ w h _ => memOk w h 4 [0, 5]
  | .lds _ _ w h _ | .sts _ _ w h _ => memOk w h 4 [0, 5, 6]
  | .ldw _ _ w h _ => memOk w h 5 [0, 1, 2, 3, 4, 5]
  | .atom _ _ w h o => atomOk w h 7 && bits o.toNat 2 0 < 6
  | .atoms _ _ w h o => atomOk w h 7 && bits o.toNat 2 0 < 3
  | .red _ _ w h o => atomOk w h 5 && bits o.toNat 2 0 < 6 && bits o.toNat 3 3 == 0
  | .fence kind scope => kind.toNat < 5 && scope.toNat < 6
  | .cctl a kind n => kind.toNat < 4 && (kind.toNat != 0 || (a.toNat == 0 && n.toNat == 0))
  | .pref _ tgt _ => tgt.toNat < 3
  | .migr _ _ b | .ctxgrant _ _ b | .ctxsave _ _ b | .ctxload _ _ b | .scrub _ _ b => b != .zero
  | .hgath _ b | .hred _ b | .hcvt _ b | .cpostPut _ _ b | .cpostLand _ _ b | .cpostrContrib _ _ b
  | .cpostrLandr _ _ b | .gemit _ _ b | .march _ _ b | .msmp _ _ b | .mhash _ _ b => b.isReg
  | .mtopk t src k => t != src && k.toNat < 96
  | .mrd d t f64 _ | .mwr t d f64 => !f64 || (d.toNat ≤ 112 && t.toNat % 2 == 0)
  | .pxin _ mode cen k => (mode.toNat < 2 || !cen) && (mode.toNat != 3 || k.toNat < 10)
  | .lcancel a lvl | .lstat _ a lvl => lvlOk a lvl
  | _ => true


/-- An instruction word is well formed: every register operand is in range and aligned, every field legal. -/
def Instr.wf (i : Instr) : Bool := i.opnds.all Opnd.ok && i.fieldsOk

/-- An instruction with a literal takes two words, every other one word (R40). -/
def wordsOf (l : List Opnd) : Nat := if l.any (fun o => o.file == .lit) then 2 else 1

end Sys2Proof
end

