-- ==== Sys2Proof/Decode.lean ====
section
/-!
DEFINITION. Decoding an instruction word, and the encoder written from the same tables (R40, R46–R56).

`decode` is total: it answers an instruction or says by name why the word is none. Bit [31], the chain bit, is not
part of the instruction: `chainBit` reads it.
-/

namespace Sys2Proof

/-- Why a word is not an instruction (R56): every one of these raises a precise ILLEGAL trap when it would issue. -/
inductive DecodeError where
  /-- the major or the function is not assigned -/
  | unassigned
  /-- a field that the instruction does not use is not zero (R4, R46) -/
  | res0
  /-- a B code that Table 2.5 or R134 marks illegal -/
  | bCode
  /-- a register field out of range or misaligned, or a field value called illegal -/
  | field
  deriving DecidableEq, Repr

/-- `n` bits of a word from bit `lo` upwards (R2). -/
def fld (w : Word) (lo n : Nat) : BitVec n := BitVec.ofNat n (w.toNat / 2 ^ lo)

/-- The major opcode, bits [30:25] (R46). -/
def fMaj (w : Word) : BitVec 6 := fld w 25 6
/-- The function, bits [2:0] (R46). -/
def fF (w : Word) : BitVec 3 := fld w 0 3
/-- Field D, bits [24:18] (Table 2.4). -/
def fD (w : Word) : BitVec 7 := fld w 18 7
/-- Field A, bits [17:11] (Table 2.4). -/
def fA (w : Word) : BitVec 7 := fld w 11 7
/-- The field in bits [10:3]: B code, IMM8 or sub-code (Table 2.4). -/
def fB (w : Word) : BitVec 8 := fld w 3 8
/-- The displacement of format B, bits [17:3] (R51). -/
def fDisp (w : Word) : BitVec 15 := fld w 3 15
/-- The width of format M, bits [10:8] (R54). -/
def fW (w : Word) : BitVec 3 := fld w 8 3
/-- The hint of format M, bits [7:5] (R54). -/
def fH (w : Word) : BitVec 3 := fld w 5 3
/-- The offset of format M, bits [4:0] (R54). -/
def fO (w : Word) : BitVec 5 := fld w 0 5
/-- The chain bit C, bit [31] (R38). -/
def chainBit (w : Word) : Bool := w.toNat / 2 ^ 31 == 1

/-- `n` bits of the field [10:3] from its bit `lo` upwards. -/
def subB (w : Word) (lo n : Nat) : BitVec n := BitVec.ofNat n ((fB w).toNat / 2 ^ lo)

/-- `n` bits of the field [24:3] of format K from its bit `lo` upwards (R52). -/
def subK (w : Word) (lo n : Nat) : BitVec n := BitVec.ofNat n ((fld w 3 22).toNat / 2 ^ lo)

/-- A res0 field must be zero (R4). -/
def res0 {α : Type} (c : Bool) (x : Except DecodeError α) : Except DecodeError α :=
  if c then x else .error .res0

/-- The scalar B code of a value (Table 2.5), its literal being the next word. -/
def SB.ofCode (c : BitVec 8) (lit : Word) : Option SB :=
  if c.toNat < 0x60 then some (.sreg (c.setWidth 7))
  else if c = 0xFE then some .zero
  else if c = 0xFF then some (.lit lit)
  else none

/-- The vector B code of a value (Table 2.5). -/
def VB.ofCode (c : BitVec 8) (lit : Word) : Option VB :=
  if c.toNat < 0x80 then some (.vreg (c.setWidth 7))
  else if c.toNat < 0xE0 then some (.bcast (c.setWidth 7))
  else if c = 0xFE then some .zero
  else if c = 0xFF then some (.lit lit)
  else none

/-- The mask B code of a value (R134). -/
def MB.ofCode (c : BitVec 8) (lit : Word) : Option MB :=
  if c.toNat < 0x20 then some (.tri (c.setWidth 5))
  else if c = 0xFE then some .zero
  else if c = 0xFF then some (.lit lit)
  else none

/-- The B code of a scalar operand (Table 2.5). -/
def SB.code : SB → BitVec 8
  | .sreg k => k.setWidth 8
  | .zero => 0xFE
  | .lit _ => 0xFF

/-- The B code of a vector operand (Table 2.5): a broadcast is 0x80 + k. -/
def VB.code : VB → BitVec 8
  | .vreg k => k.setWidth 8
  | .bcast k => k.setWidth 8 + 0x80
  | .zero => 0xFE
  | .lit _ => 0xFF

/-- The B code of a mask operand (R134). -/
def MB.code : MB → BitVec 8
  | .tri k => k.setWidth 8
  | .zero => 0xFE
  | .lit _ => 0xFF

/-- The literal word of an operand, 0 where it has none. -/
def SB.word : SB → Word
  | .lit w => w
  | .sreg _ => 0
  | .zero => 0

/-- The literal word of an operand, 0 where it has none. -/
def VB.word : VB → Word
  | .lit w => w
  | .vreg _ => 0
  | .bcast _ => 0
  | .zero => 0

/-- The literal word of an operand, 0 where it has none. -/
def MB.word : MB → Word
  | .lit w => w
  | .tri _ => 0
  | .zero => 0

/-- Continue with the scalar B code of bits [10:3]. -/
def decSB {α : Type} (w lit : Word) (k : SB → Except DecodeError α) : Except DecodeError α :=
  match SB.ofCode (fB w) lit with
  | some b => k b
  | none => .error .bCode

/-- Continue with the vector B code of bits [10:3]. -/
def decVB {α : Type} (w lit : Word) (k : VB → Except DecodeError α) : Except DecodeError α :=
  match VB.ofCode (fB w) lit with
  | some b => k b
  | none => .error .bCode

/-- Continue with the mask B code of bits [10:3]. -/
def decMB {α : Type} (w lit : Word) (k : MB → Except DecodeError α) : Except DecodeError α :=
  match MB.ofCode (fB w) lit with
  | some b => k b
  | none => .error .bCode

/-- Major 0x00 of Table 2.8. -/
def decMaj00 (w _lit : Word) : Except DecodeError Instr :=
  match (fF w).toNat with
  | 0 => res0 (fD w == 0 && fDisp w == 0) (.ok (.nop))
  | 1 => res0 (fD w == 0 && fDisp w == 0) (.ok (.exit))
  | 2 => res0 (subK w 0 5 == 0) (.ok (.yield (subK w 19 3) (subK w 12 7) (subK w 5 7)))
  | 3 => res0 (subK w 0 2 == 0) (.ok (.waitc (subK w 17 5) (subK w 12 5) (subK w 7 5) (subK w 2 5)))
  | 4 => res0 (fD w == 0 && fDisp w == 0) (.ok (.bar))
  | 5 => res0 (fD w == 0 && fDisp w == 0) (.ok (.cbar))
  | 6 => res0 (fDisp w == 0) (.ok (.trap (fD w)))
  | _ => res0 (fDisp w == 0) (.ok (.sys (fD w)))

/-- Major 0x01 of Table 2.8. -/
def decMaj01 (w _lit : Word) : Except DecodeError Instr :=
  match (fF w).toNat with
  | 0 => res0 (fD w == 0) (.ok (.bra (fDisp w)))
  | 1 => .ok (.bz (fD w) (fDisp w))
  | 2 => .ok (.bnz (fD w) (fDisp w))
  | 3 => .ok (.bzm (fD w) (fDisp w))
  | 4 => .ok (.bnzm (fD w) (fDisp w))
  | 5 => .ok (.brd (fD w) (fDisp w))
  | 6 => res0 (fD w == 0 && fDisp w == 0) (.ok (.join))
  | _ => .error .unassigned

/-- Major 0x02 of Table 2.8. -/
def decMaj02 (w _lit : Word) : Except DecodeError Instr :=
  match (fF w).toNat with
  | 0 => res0 (fD w == 0) (.ok (.call (fDisp w)))
  | 1 => res0 (fDisp w == 0) (.ok (.calli (fD w)))
  | 2 => res0 (fDisp w == 0) (.ok (.ret (fD w)))
  | 3 => res0 (fDisp w == 0) (.ok (.jmpi (fD w)))
  | 4 => .ok (.loop (fD w) (fDisp w))
  | _ => .error .unassigned

/-- Major 0x03 of Table 2.8. -/
def decMaj03 (w lit : Word) : Except DecodeError Instr :=
  match (fF w).toNat with
  | 0 => decSB w lit fun b => .ok (.sadd (fD w) (fA w) b)
  | 1 => decSB w lit fun b => .ok (.ssub (fD w) (fA w) b)
  | 2 => decSB w lit fun b => .ok (.smul (fD w) (fA w) b)
  | 3 => decSB w lit fun b => .ok (.smulh (fD w) (fA w) b)
  | 4 => decSB w lit fun b => .ok (.sand (fD w) (fA w) b)
  | 5 => decSB w lit fun b => .ok (.sor (fD w) (fA w) b)
  | 6 => decSB w lit fun b => .ok (.sxor (fD w) (fA w) b)
  | _ => res0 (fA w == 0) (decSB w lit fun b => .ok (.smov (fD w) b))

/-- Major 0x04 of Table 2.8. -/
def decMaj04 (w _lit : Word) : Except DecodeError Instr :=
  match (fF w).toNat with
  | 0 => .ok (.saddI (fD w) (fA w) (fB w))
  | 1 => .ok (.ssubI (fD w) (fA w) (fB w))
  | 2 => .ok (.smulI (fD w) (fA w) (fB w))
  | 3 => .ok (.smulhI (fD w) (fA w) (fB w))
  | 4 => .ok (.sandI (fD w) (fA w) (fB w))
  | 5 => .ok (.sorI (fD w) (fA w) (fB w))
  | 6 => .ok (.sxorI (fD w) (fA w) (fB w))
  | _ => res0 (fA w == 0) (.ok (.smovI (fD w) (fB w)))

/-- Major 0x05 of Table 2.8. -/
def decMaj05 (w lit : Word) : Except DecodeError Instr :=
  match (fF w).toNat with
  | 0 => decSB w lit fun b => .ok (.sshl (fD w) (fA w) b)
  | 1 => decSB w lit fun b => .ok (.sshr (fD w) (fA w) b)
  | 2 => decSB w lit fun b => .ok (.ssra (fD w) (fA w) b)
  | 3 => decSB w lit fun b => .ok (.smin (fD w) (fA w) b)
  | 4 => decSB w lit fun b => .ok (.smax (fD w) (fA w) b)
  | 5 => decSB w lit fun b => .ok (.sadd64 (fD w) (fA w) b)
  | 6 => decSB w lit fun b => .ok (.ssub64 (fD w) (fA w) b)
  | _ => decSB w lit fun b => .ok (.ssel (fD w) (fA w) b)

/-- Major 0x06 of Table 2.8. -/
def decMaj06 (w _lit : Word) : Except DecodeError Instr :=
  match (fF w).toNat with
  | 0 => .ok (.sshlI (fD w) (fA w) (fB w))
  | 1 => .ok (.sshrI (fD w) (fA w) (fB w))
  | 2 => .ok (.ssraI (fD w) (fA w) (fB w))
  | 3 => .ok (.sminI (fD w) (fA w) (fB w))
  | 4 => .ok (.smaxI (fD w) (fA w) (fB w))
  | 5 => .ok (.sadd64I (fD w) (fA w) (fB w))
  | 6 => .ok (.ssub64I (fD w) (fA w) (fB w))
  | _ => .error .unassigned

/-- Major 0x07 of Table 2.8. -/
def decMaj07 (w lit : Word) : Except DecodeError Instr :=
  match (fF w).toNat with
  | 0 => decSB w lit fun b => .ok (.scmp .eq (fD w) (fA w) b)
  | 1 => decSB w lit fun b => .ok (.scmp .ne (fD w) (fA w) b)
  | 2 => decSB w lit fun b => .ok (.scmp .lt (fD w) (fA w) b)
  | 3 => decSB w lit fun b => .ok (.scmp .le (fD w) (fA w) b)
  | 4 => decSB w lit fun b => .ok (.scmp .ltn (fD w) (fA w) b)
  | 5 => decSB w lit fun b => .ok (.scmp .len (fD w) (fA w) b)
  | 6 => decSB w lit fun b => .ok (.scmp .gt (fD w) (fA w) b)
  | _ => decSB w lit fun b => .ok (.scmp .gtn (fD w) (fA w) b)

/-- Major 0x08 of Table 2.8. -/
def decMaj08 (w lit : Word) : Except DecodeError Instr :=
  match (fF w).toNat with
  | 0 => decMB w lit fun b => .ok (.mand (fD w) (fA w) b)
  | 1 => decMB w lit fun b => .ok (.mor (fD w) (fA w) b)
  | 2 => decMB w lit fun b => .ok (.mxor (fD w) (fA w) b)
  | 3 => decMB w lit fun b => .ok (.mandn (fD w) (fA w) b)
  | 4 => res0 (fA w == 0) (decMB w lit fun b => .ok (.mpop (fD w) b))
  | 5 => res0 (fA w == 0) (decMB w lit fun b => .ok (.mfirst (fD w) b))
  | 6 => res0 (fB w == 0) (.ok (.mset (fD w) (fA w)))
  | _ => res0 (fA w == 0) (decMB w lit fun b => .ok (.mmov (fD w) b))

/-- Major 0x09 of Table 2.8. -/
def decMaj09 (w lit : Word) : Except DecodeError Instr :=
  match (fF w).toNat with
  | 0 => res0 (fB w == 0) (.ok (.rdsr (fD w) (fA w)))
  | 1 => res0 (fD w == 0) (decSB w lit fun b => .ok (.wrsr (fA w) b))
  | 2 => res0 (fD w == 0 && fA w == 0) (decSB w lit fun b => .ok (.vwin b))
  | 3 => res0 (fD w == 0 && fA w == 0) (decSB w lit fun b => .ok (.reggrow b))
  | 4 => res0 (fD w == 0 && fA w == 0) (decSB w lit fun b => .ok (.regshrink b))
  | _ => .error .unassigned

/-- Major 0x0A of Table 2.8. -/
def decMaj0A (w lit : Word) : Except DecodeError Instr :=
  match (fF w).toNat with
  | 0 => decVB w lit fun b => .ok (.vadd (fD w) (fA w) b)
  | 1 => decVB w lit fun b => .ok (.vsub (fD w) (fA w) b)
  | 2 => decVB w lit fun b => .ok (.vmul (fD w) (fA w) b)
  | 3 => decVB w lit fun b => .ok (.vmulh (fD w) (fA w) b)
  | 4 => decVB w lit fun b => .ok (.vmad (fD w) (fA w) b)
  | 5 => decVB w lit fun b => .ok (.vand (fD w) (fA w) b)
  | 6 => decVB w lit fun b => .ok (.vor (fD w) (fA w) b)
  | _ => decVB w lit fun b => .ok (.vxor (fD w) (fA w) b)

/-- Major 0x0B of Table 2.8. -/
def decMaj0B (w _lit : Word) : Except DecodeError Instr :=
  match (fF w).toNat with
  | 0 => .ok (.vaddI (fD w) (fA w) (fB w))
  | 1 => .ok (.vsubI (fD w) (fA w) (fB w))
  | 2 => .ok (.vmulI (fD w) (fA w) (fB w))
  | 3 => .ok (.vmulhI (fD w) (fA w) (fB w))
  | 4 => .ok (.vmadI (fD w) (fA w) (fB w))
  | 5 => .ok (.vandI (fD w) (fA w) (fB w))
  | 6 => .ok (.vorI (fD w) (fA w) (fB w))
  | _ => .ok (.vxorI (fD w) (fA w) (fB w))

/-- Major 0x0C of Table 2.8. -/
def decMaj0C (w lit : Word) : Except DecodeError Instr :=
  match (fF w).toNat with
  | 0 => decVB w lit fun b => .ok (.vshl (fD w) (fA w) b)
  | 1 => decVB w lit fun b => .ok (.vshr (fD w) (fA w) b)
  | 2 => decVB w lit fun b => .ok (.vsra (fD w) (fA w) b)
  | 3 => decVB w lit fun b => .ok (.vmin (fD w) (fA w) b)
  | 4 => decVB w lit fun b => .ok (.vmax (fD w) (fA w) b)
  | 5 => decVB w lit fun b => .ok (.vadd64 (fD w) (fA w) b)
  | 6 => decVB w lit fun b => .ok (.vmad64 (fD w) (fA w) b)
  | _ => decVB w lit fun b => .ok (.vsel (fD w) (fA w) b)

/-- Major 0x0D of Table 2.8. -/
def decMaj0D (w _lit : Word) : Except DecodeError Instr :=
  match (fF w).toNat with
  | 0 => .ok (.vshlI (fD w) (fA w) (fB w))
  | 1 => .ok (.vshrI (fD w) (fA w) (fB w))
  | 2 => .ok (.vsraI (fD w) (fA w) (fB w))
  | 3 => .ok (.vminI (fD w) (fA w) (fB w))
  | 4 => .ok (.vmaxI (fD w) (fA w) (fB w))
  | 5 => .ok (.vadd64I (fD w) (fA w) (fB w))
  | 6 => .ok (.vmad64I (fD w) (fA w) (fB w))
  | _ => .error .unassigned

/-- Major 0x0E of Table 2.8. -/
def decMaj0E (w lit : Word) : Except DecodeError Instr :=
  match (fF w).toNat with
  | 0 => res0 (fA w == 0) (decVB w lit fun b => .ok (.vmov (fD w) b))
  | 1 => res0 (fA w == 0) (decVB w lit fun b => .ok (.vnot (fD w) b))
  | 2 => res0 (fA w == 0) (decVB w lit fun b => .ok (.vabs (fD w) b))
  | 3 => res0 (fA w == 0) (decVB w lit fun b => .ok (.vclz (fD w) b))
  | 4 => res0 (fA w == 0) (decVB w lit fun b => .ok (.vpopc (fD w) b))
  | 5 => res0 (fA w == 0) (decVB w lit fun b => .ok (.vbrev (fD w) b))
  | 6 => decVB w lit fun b => .ok (.vbfe (fD w) (fA w) b)
  | _ => decVB w lit fun b => .ok (.vbfi (fD w) (fA w) b)

/-- Major 0x0F of Table 2.8. -/
def decMaj0F (w lit : Word) : Except DecodeError Instr :=
  match (fF w).toNat with
  | 0 => decVB w lit fun b => .ok (.vcmp .eq (fD w) (fA w) b)
  | 1 => decVB w lit fun b => .ok (.vcmp .ne (fD w) (fA w) b)
  | 2 => decVB w lit fun b => .ok (.vcmp .lt (fD w) (fA w) b)
  | 3 => decVB w lit fun b => .ok (.vcmp .le (fD w) (fA w) b)
  | 4 => decVB w lit fun b => .ok (.vcmp .ltn (fD w) (fA w) b)
  | 5 => decVB w lit fun b => .ok (.vcmp .len (fD w) (fA w) b)
  | 6 => decVB w lit fun b => .ok (.vcmp .gt (fD w) (fA w) b)
  | _ => decVB w lit fun b => .ok (.vcmp .gtn (fD w) (fA w) b)

/-- Major 0x10 of Table 2.8. -/
def decMaj10 (w lit : Word) : Except DecodeError Instr :=
  match (fF w).toNat with
  | 0 => decVB w lit fun b => .ok (.vidx (fD w) (fA w) b)
  | 1 => decVB w lit fun b => .ok (.vidxw (fD w) (fA w) b)
  | 2 => res0 (fA w == 0) (.ok (.vlane (fD w) (fB w)))
  | 3 => decVB w lit fun b => .ok (.vgets (fD w) (fA w) b)
  | _ => .error .unassigned

/-- Major 0x11 of Table 2.8. -/
def decMaj11 (w lit : Word) : Except DecodeError Instr :=
  match (fF w).toNat with
  | 0 => decVB w lit fun b => .ok (.fadd (fD w) (fA w) b)
  | 1 => decVB w lit fun b => .ok (.fsub (fD w) (fA w) b)
  | 2 => decVB w lit fun b => .ok (.fmul (fD w) (fA w) b)
  | 3 => decVB w lit fun b => .ok (.ffma (fD w) (fA w) b)
  | 4 => decVB w lit fun b => .ok (.ffms (fD w) (fA w) b)
  | 5 => decVB w lit fun b => .ok (.fnma (fD w) (fA w) b)
  | 6 => decVB w lit fun b => .ok (.fmin (fD w) (fA w) b)
  | _ => decVB w lit fun b => .ok (.fmax (fD w) (fA w) b)

/-- Major 0x12 of Table 2.8. -/
def decMaj12 (w _lit : Word) : Except DecodeError Instr :=
  match (fF w).toNat with
  | 0 => .ok (.faddI (fD w) (fA w) (fB w))
  | 1 => .ok (.fsubI (fD w) (fA w) (fB w))
  | 2 => .ok (.fmulI (fD w) (fA w) (fB w))
  | 3 => .ok (.ffmaI (fD w) (fA w) (fB w))
  | 4 => .ok (.ffmsI (fD w) (fA w) (fB w))
  | 5 => .ok (.fnmaI (fD w) (fA w) (fB w))
  | 6 => .ok (.fminI (fD w) (fA w) (fB w))
  | _ => .ok (.fmaxI (fD w) (fA w) (fB w))

/-- Major 0x13 of Table 2.8. -/
def decMaj13 (w lit : Word) : Except DecodeError Instr :=
  match (fF w).toNat with
  | 0 => res0 (fA w == 0) (decVB w lit fun b => .ok (.frcp (fD w) b))
  | 1 => res0 (fA w == 0) (decVB w lit fun b => .ok (.frsq (fD w) b))
  | 2 => res0 (fA w == 0) (decVB w lit fun b => .ok (.fsqrt (fD w) b))
  | 3 => res0 (fA w == 0) (decVB w lit fun b => .ok (.fex2 (fD w) b))
  | 4 => res0 (fA w == 0) (decVB w lit fun b => .ok (.flg2 (fD w) b))
  | 5 => res0 (fA w == 0) (decVB w lit fun b => .ok (.fsin (fD w) b))
  | 6 => res0 (fA w == 0) (decVB w lit fun b => .ok (.fcos (fD w) b))
  | _ => res0 (fA w == 0) (decVB w lit fun b => .ok (.ftanh (fD w) b))

/-- Major 0x14 of Table 2.8. -/
def decMaj14 (w lit : Word) : Except DecodeError Instr :=
  match (fF w).toNat with
  | 0 => decVB w lit fun b => .ok (.fcmp .eq (fD w) (fA w) b)
  | 1 => decVB w lit fun b => .ok (.fcmp .ne (fD w) (fA w) b)
  | 2 => decVB w lit fun b => .ok (.fcmp .lt (fD w) (fA w) b)
  | 3 => decVB w lit fun b => .ok (.fcmp .le (fD w) (fA w) b)
  | 4 => decVB w lit fun b => .ok (.fcmp .gt (fD w) (fA w) b)
  | 5 => decVB w lit fun b => .ok (.fcmp .ge (fD w) (fA w) b)
  | 6 => decVB w lit fun b => .ok (.fcmp .un (fD w) (fA w) b)
  | _ => decVB w lit fun b => .ok (.fcmp .ord (fD w) (fA w) b)

/-- Major 0x15 of Table 2.8. -/
def decMaj15 (w lit : Word) : Except DecodeError Instr :=
  match (fF w).toNat with
  | 0 => decVB w lit fun b => .ok (.dadd (fD w) (fA w) b)
  | 1 => decVB w lit fun b => .ok (.dsub (fD w) (fA w) b)
  | 2 => decVB w lit fun b => .ok (.dmul (fD w) (fA w) b)
  | 3 => decVB w lit fun b => .ok (.dfma (fD w) (fA w) b)
  | 4 => decVB w lit fun b => .ok (.dfms (fD w) (fA w) b)
  | 5 => decVB w lit fun b => .ok (.dnma (fD w) (fA w) b)
  | 6 => decVB w lit fun b => .ok (.dmin (fD w) (fA w) b)
  | _ => decVB w lit fun b => .ok (.dmax (fD w) (fA w) b)

/-- Major 0x16 of Table 2.8. -/
def decMaj16 (w lit : Word) : Except DecodeError Instr :=
  match (fF w).toNat with
  | 0 => decVB w lit fun b => .ok (.ddiv (fD w) (fA w) b)
  | 1 => res0 (fA w == 0) (decVB w lit fun b => .ok (.dsqrt (fD w) b))
  | 2 => res0 (fA w == 0) (decVB w lit fun b => .ok (.drcp (fD w) b))
  | 3 => res0 (fA w == 0) (decVB w lit fun b => .ok (.drsq (fD w) b))
  | 4 => res0 (fA w == 0) (decVB w lit fun b => .ok (.dfloor (fD w) b))
  | 5 => res0 (fA w == 0) (decVB w lit fun b => .ok (.dceil (fD w) b))
  | 6 => res0 (fA w == 0) (decVB w lit fun b => .ok (.drne (fD w) b))
  | _ => res0 (fA w == 0) (decVB w lit fun b => .ok (.dtrunc (fD w) b))

/-- Major 0x17 of Table 2.8. -/
def decMaj17 (w lit : Word) : Except DecodeError Instr :=
  match (fF w).toNat with
  | 0 => decVB w lit fun b => .ok (.dcmp .eq (fD w) (fA w) b)
  | 1 => decVB w lit fun b => .ok (.dcmp .ne (fD w) (fA w) b)
  | 2 => decVB w lit fun b => .ok (.dcmp .lt (fD w) (fA w) b)
  | 3 => decVB w lit fun b => .ok (.dcmp .le (fD w) (fA w) b)
  | 4 => decVB w lit fun b => .ok (.dcmp .gt (fD w) (fA w) b)
  | 5 => decVB w lit fun b => .ok (.dcmp .ge (fD w) (fA w) b)
  | 6 => decVB w lit fun b => .ok (.dcmp .un (fD w) (fA w) b)
  | _ => decVB w lit fun b => .ok (.dcmp .ord (fD w) (fA w) b)

/-- Major 0x18 of Table 2.8. -/
def decMaj18 (w lit : Word) : Except DecodeError Instr :=
  match (fF w).toNat with
  | 0 => decVB w lit fun b => .ok (.hadd2 (fD w) (fA w) b)
  | 1 => decVB w lit fun b => .ok (.hmul2 (fD w) (fA w) b)
  | 2 => decVB w lit fun b => .ok (.hfma2 (fD w) (fA w) b)
  | 3 => decVB w lit fun b => .ok (.hmax2 (fD w) (fA w) b)
  | 4 => decVB w lit fun b => .ok (.badd2 (fD w) (fA w) b)
  | 5 => decVB w lit fun b => .ok (.bmul2 (fD w) (fA w) b)
  | 6 => decVB w lit fun b => .ok (.bfma2 (fD w) (fA w) b)
  | _ => decVB w lit fun b => .ok (.bmax2 (fD w) (fA w) b)

/-- Major 0x19 of Table 2.8. -/
def decMaj19 (w _lit : Word) : Except DecodeError Instr :=
  match (fF w).toNat with
  | 0 => res0 (subB w 0 4 == 0) (.ok (.cvtF32I32 (fD w) (fA w) (subB w 5 3) (subB w 4 1 == 1)))
  | 1 => res0 (subB w 0 4 == 0) (.ok (.cvtI32F32 (fD w) (fA w) (subB w 5 3) (subB w 4 1 == 1)))
  | 2 => res0 (fB w == 0) (.ok (.cvtF64F32 (fD w) (fA w)))
  | 3 => res0 (subB w 0 3 == 0 && subB w 4 1 == 0) (.ok (.cvtF32F64 (fD w) (fA w) (subB w 5 3) (subB w 3 1 == 1)))
  | 4 => res0 (subB w 0 4 == 0 && subB w 5 3 == 0) (.ok (.cvtF64I32 (fD w) (fA w) (subB w 4 1 == 1)))
  | 5 => res0 (subB w 0 4 == 0) (.ok (.cvtI32F64 (fD w) (fA w) (subB w 5 3) (subB w 4 1 == 1)))
  | 6 => res0 (subB w 0 1 == 0 && subB w 3 5 == 0) (.ok (.cvtF32F16 (fD w) (fA w) (subB w 2 1 == 1) (subB w 1 1 == 1)))
  | _ => res0 (subB w 0 2 == 0 && subB w 4 1 == 0) (.ok (.cvtF16F32 (fD w) (fA w) (subB w 5 3) (subB w 3 1 == 1) (subB w 2 1 == 1)))

/-- Major 0x1A of Table 2.8. -/
def decMaj1A (w _lit : Word) : Except DecodeError Instr :=
  match (fF w).toNat with
  | 0 => res0 (subB w 3 1 == 0) (.ok (.cvtqE4m3 (fD w) (fA w) (subB w 5 3) (subB w 4 1 == 1) (subB w 2 1 == 1) (subB w 0 2)))
  | 1 => res0 (subB w 3 1 == 0) (.ok (.cvtqE5m2 (fD w) (fA w) (subB w 5 3) (subB w 4 1 == 1) (subB w 2 1 == 1) (subB w 0 2)))
  | 2 => res0 (subB w 3 1 == 0) (.ok (.cvtqE2m1 (fD w) (fA w) (subB w 5 3) (subB w 4 1 == 1) (subB w 2 1 == 1) (subB w 0 2)))
  | 3 => res0 (subB w 3 2 == 0) (.ok (.cvtqI8 (fD w) (fA w) (subB w 5 3) (subB w 2 1 == 1) (subB w 0 2)))
  | 4 => res0 (subB w 0 3 == 0 && subB w 5 3 == 0) (.ok (.scale (fD w) (fA w) (subB w 3 2)))
  | 5 => .ok (.dq8 (fD w) (fA w) (subB w 5 3) (subB w 3 2) (subB w 2 1 == 1) (subB w 0 2))
  | 6 => res0 (subB w 3 2 == 0) (.ok (.dq4 (fD w) (fA w) (subB w 5 3) (subB w 2 1 == 1) (subB w 0 2)))
  | _ => .error .unassigned

/-- Major 0x1B of Table 2.8. -/
def decMaj1B (w _lit : Word) : Except DecodeError Instr :=
  match (fF w).toNat with
  | 0 => .ok (.perm (fD w) (fA w) (subB w 3 5) (subB w 0 3))
  | 1 => .ok (.pup (fD w) (fA w) (subB w 3 5) (subB w 0 3))
  | 2 => .ok (.pdn (fD w) (fA w) (subB w 3 5) (subB w 0 3))
  | 3 => .ok (.pxor (fD w) (fA w) (subB w 3 5) (subB w 0 3))
  | 4 => .ok (.pbcast (fD w) (fA w) (subB w 3 5) (subB w 0 3))
  | 5 => .ok (.vote (fD w) (fA w) (subB w 3 5) (subB w 0 3))
  | 6 => .ok (.redl (fD w) (fA w) (subB w 3 5) (subB w 0 3))
  | _ => .ok (.scanl (fD w) (fA w) (subB w 3 5) (subB w 0 3))

/-- Major 0x29 of Table 2.8. -/
def decMaj29 (w lit : Word) : Except DecodeError Instr :=
  match (fF w).toNat with
  | 0 => res0 (fD w == 0 && fA w == 0 && subB w 0 2 == 0) (.ok (.fence (subB w 5 3) (subB w 2 3)))
  | 1 => res0 (fD w == 0) (.ok (.cctl (fA w) (subB w 5 3) (subB w 0 5)))
  | 2 => res0 (fD w == 0) (.ok (.pref (fA w) (subB w 6 2) (subB w 0 6)))
  | 3 => decSB w lit fun b => .ok (.migr (fD w) (fA w) b)
  | _ => .error .unassigned

/-- Major 0x2C of Table 2.8. -/
def decMaj2C (w lit : Word) : Except DecodeError Instr :=
  match (fF w).toNat with
  | 0 => res0 (fD w == 0) (decSB w lit fun b => .ok (.cpy (fA w) b))
  | 1 => res0 (fD w == 0) (decSB w lit fun b => .ok (.cpym (fA w) b))
  | 2 => res0 (fD w == 0 && fB w == 0) (.ok (.cpys (fA w)))
  | 3 => res0 (fB w == 0) (.ok (.rinit (fD w) (fA w)))
  | 4 => decSB w lit fun b => .ok (.rwait (fD w) (fA w) b)
  | 5 => res0 (fA w == 0) (decSB w lit fun b => .ok (.rrel (fD w) b))
  | 6 => res0 (fA w == 0) (decSB w lit fun b => .ok (.rqry (fD w) b))
  | _ => .error .unassigned

/-- Major 0x2D of Table 2.8. -/
def decMaj2D (w lit : Word) : Except DecodeError Instr :=
  match (fF w).toNat with
  | 0 => res0 (fA w == 0) (decSB w lit fun b => .ok (.gang (fD w) b))
  | 1 => decSB w lit fun b => .ok (.mma (fD w) (fA w) b)
  | 2 => decSB w lit fun b => .ok (.mdist (fD w) (fA w) b)
  | 3 => .ok (.mtopk (fD w) (fA w) (fB w))
  | 4 => res0 (fA w == 0 && fB w == 0) (.ok (.mfence (fD w)))
  | 5 => res0 (fD w == 0 && fA w == 0) (decSB w lit fun b => .ok (.mzero b))
  | 6 => res0 (subB w 2 6 == 0) (.ok (.mrd (fD w) (fA w) (subB w 1 1 == 1) (subB w 0 1 == 1)))
  | _ => res0 (subB w 0 1 == 0 && subB w 2 6 == 0) (.ok (.mwr (fD w) (fA w) (subB w 1 1 == 1)))

/-- Major 0x2E of Table 2.8. -/
def decMaj2E (w lit : Word) : Except DecodeError Instr :=
  match (fF w).toNat with
  | 0 => decSB w lit fun b => .ok (.snap (fD w) (fA w) b)
  | 1 => res0 (fA w == 0) (decSB w lit fun b => .ok (.sacq (fD w) b))
  | 2 => res0 (fA w == 0) (decSB w lit fun b => .ok (.srel (fD w) b))
  | 3 => res0 (fA w == 0) (decSB w lit fun b => .ok (.vstep (fD w) b))
  | 4 => decSB w lit fun b => .ok (.vqry (fD w) (fA w) b)
  | 5 => res0 (fA w == 0) (decSB w lit fun b => .ok (.vpin (fD w) b))
  | 6 => res0 (fA w == 0) (decSB w lit fun b => .ok (.vunpin (fD w) b))
  | _ => .error .unassigned

/-- Major 0x2F of Table 2.8. -/
def decMaj2F (w lit : Word) : Except DecodeError Instr :=
  match (fF w).toNat with
  | 0 => res0 (fD w == 0) (decSB w lit fun b => .ok (.hgath (fA w) b))
  | 1 => res0 (fD w == 0) (decSB w lit fun b => .ok (.hred (fA w) b))
  | 2 => res0 (fD w == 0) (decSB w lit fun b => .ok (.hcvt (fA w) b))
  | 3 => res0 (fA w == 0) (decSB w lit fun b => .ok (.hqry (fD w) b))
  | _ => .error .unassigned

/-- Major 0x30 of Table 2.8. -/
def decMaj30 (w lit : Word) : Except DecodeError Instr :=
  match (fF w).toNat with
  | 0 => decSB w lit fun b => .ok (.cpostPut (fD w) (fA w) b)
  | 1 => decSB w lit fun b => .ok (.cpostrContrib (fD w) (fA w) b)
  | 2 => decSB w lit fun b => .ok (.carmArm (fD w) (fA w) b)
  | 3 => res0 (fB w == 0) (.ok (.chalo (fD w) (fA w)))
  | 4 => decSB w lit fun b => .ok (.cwait (fD w) (fA w) b)
  | 5 => res0 (fA w == 0) (decSB w lit fun b => .ok (.cqry (fD w) b))
  | _ => .error .unassigned

/-- Major 0x31 of Table 2.8. -/
def decMaj31 (w lit : Word) : Except DecodeError Instr :=
  match (fF w).toNat with
  | 0 => decSB w lit fun b => .ok (.gemit (fD w) (fA w) b)
  | 1 => res0 (fD w == 0) (decSB w lit fun b => .ok (.gflush (fA w) b))
  | 2 => res0 (fA w == 0) (.ok (.pxin (fD w) (subB w 6 2) (subB w 5 1 == 1) (subB w 0 5)))
  | 3 => res0 (fD w == 0 && fB w == 0) (.ok (.pxout (fA w)))
  | 4 => res0 (fD w == 0 && fA w == 0 && fB w == 0) (.ok (.pxkill))
  | 5 => res0 (fD w == 0) (decSB w lit fun b => .ok (.pxrate (fA w) b))
  | _ => .error .unassigned

/-- Major 0x32 of Table 2.8. -/
def decMaj32 (w lit : Word) : Except DecodeError Instr :=
  match (fF w).toNat with
  | 0 => decSB w lit fun b => .ok (.march (fD w) (fA w) b)
  | 1 => decSB w lit fun b => .ok (.msmp (fD w) (fA w) b)
  | 2 => decSB w lit fun b => .ok (.mhash (fD w) (fA w) b)
  | 3 => res0 (fA w == 0 && fB w == 0) (.ok (.mqry (fD w)))
  | _ => .error .unassigned

/-- Major 0x33 of Table 2.8. -/
def decMaj33 (w lit : Word) : Except DecodeError Instr :=
  match (fF w).toNat with
  | 0 => res0 (fA w == 0) (decSB w lit fun b => .ok (.ctxnew (fD w) b))
  | 1 => decSB w lit fun b => .ok (.ctxgrant (fD w) (fA w) b)
  | 2 => decSB w lit fun b => .ok (.ctxrevoke (fD w) (fA w) b)
  | 3 => decSB w lit fun b => .ok (.ctxrunRun (fD w) (fA w) b)
  | 4 => decSB w lit fun b => .ok (.ctxstopSlice (fD w) (fA w) b)
  | 5 => decSB w lit fun b => .ok (.ctxsave (fD w) (fA w) b)
  | 6 => decSB w lit fun b => .ok (.ctxload (fD w) (fA w) b)
  | _ => decSB w lit fun b => .ok (.ctxq (fD w) (fA w) b)

/-- The instruction of a word whose following word is `lit`, before the legality of its fields (Table 2.8). -/
def decodeRaw (w lit : Word) : Except DecodeError Instr :=
  match (fMaj w).toNat with
  | 0 => decMaj00 w lit
  | 1 => decMaj01 w lit
  | 2 => decMaj02 w lit
  | 3 => decMaj03 w lit
  | 4 => decMaj04 w lit
  | 5 => decMaj05 w lit
  | 6 => decMaj06 w lit
  | 7 => decMaj07 w lit
  | 8 => decMaj08 w lit
  | 9 => decMaj09 w lit
  | 10 => decMaj0A w lit
  | 11 => decMaj0B w lit
  | 12 => decMaj0C w lit
  | 13 => decMaj0D w lit
  | 14 => decMaj0E w lit
  | 15 => decMaj0F w lit
  | 16 => decMaj10 w lit
  | 17 => decMaj11 w lit
  | 18 => decMaj12 w lit
  | 19 => decMaj13 w lit
  | 20 => decMaj14 w lit
  | 21 => decMaj15 w lit
  | 22 => decMaj16 w lit
  | 23 => decMaj17 w lit
  | 24 => decMaj18 w lit
  | 25 => decMaj19 w lit
  | 26 => decMaj1A w lit
  | 27 => decMaj1B w lit
  | 32 => .ok (.ld (fD w) (fA w) (fW w) (fH w) (fO w))
  | 33 => .ok (.st (fD w) (fA w) (fW w) (fH w) (fO w))
  | 34 => .ok (.ldv (fD w) (fA w) (fW w) (fH w) (fO w))
  | 35 => .ok (.lds (fD w) (fA w) (fW w) (fH w) (fO w))
  | 36 => .ok (.sts (fD w) (fA w) (fW w) (fH w) (fO w))
  | 37 => .ok (.atom (fD w) (fA w) (fW w) (fH w) (fO w))
  | 38 => .ok (.atoms (fD w) (fA w) (fW w) (fH w) (fO w))
  | 39 => .ok (.red (fD w) (fA w) (fW w) (fH w) (fO w))
  | 40 => .ok (.ldw (fD w) (fA w) (fW w) (fH w) (fO w))
  | 41 => decMaj29 w lit
  | 44 => decMaj2C w lit
  | 45 => decMaj2D w lit
  | 46 => decMaj2E w lit
  | 47 => decMaj2F w lit
  | 48 => decMaj30 w lit
  | 49 => decMaj31 w lit
  | 50 => decMaj32 w lit
  | 51 => decMaj33 w lit
  | _ => .error .unassigned

/-- The instructions of majors 0x34 and 0x35. Lean's runtime can build only the first 244 constructors of a type;
the decoder builds these eleven as a type of their own, and `HighOp.instr` is the constructor of `Instr` each is. -/
inductive HighOp where
  | tret (b : SB)
  | trefl (b : SB)
  | tclr (b : SB)
  | scrub (d a : BitVec 7) (b : SB)
  | alog (d a : BitVec 7) (b : SB)
  | keyselBind (d a : BitVec 7) (b : SB)
  | spawn (d a : BitVec 7)
  | cont (d a : BitVec 7) (b : SB)
  | jdec (a : BitVec 7) (b : VB)
  | lcancel (a : BitVec 7) (lvl : BitVec 8)
  | lstat (d a : BitVec 7) (lvl : BitVec 8)
  deriving DecidableEq, Repr

/-- The constructor of `Instr` for an instruction of major 0x34 or 0x35. -/
noncomputable def HighOp.instr : HighOp → Instr
  | .tret b => .tret b
  | .trefl b => .trefl b
  | .tclr b => .tclr b
  | .scrub d a b => .scrub d a b
  | .alog d a b => .alog d a b
  | .keyselBind d a b => .keyselBind d a b
  | .spawn d a => .spawn d a
  | .cont d a b => .cont d a b
  | .jdec a b => .jdec a b
  | .lcancel a lvl => .lcancel a lvl
  | .lstat d a lvl => .lstat d a lvl

/-- The register operands of an instruction of major 0x34 or 0x35, as `Instr.opnds` lists them. -/
def HighOp.opnds : HighOp → List Opnd
  | .tret b => tretOpnds b
  | .trefl b => treflOpnds b
  | .tclr b => tclrOpnds b
  | .scrub d a b => scrubOpnds d a b
  | .alog d a b => alogOpnds d a b
  | .keyselBind d a b => keyselBindOpnds d a b
  | .spawn d a => spawnOpnds d a
  | .cont d a b => contOpnds d a b
  | .jdec a b => jdecOpnds a b
  | .lcancel a lvl => lcancelOpnds a lvl
  | .lstat d a lvl => lstatOpnds d a lvl

/-- The field rules of majors 0x34 and 0x35, as `Instr.fieldsOk` states them. -/
def HighOp.fieldsOk : HighOp → Bool
  | .tret _ => true
  | .trefl _ => true
  | .tclr _ => true
  | .scrub _ _ b => b != .zero
  | .alog _ _ _ => true
  | .keyselBind _ _ _ => true
  | .spawn _ _ => true
  | .cont _ _ _ => true
  | .jdec _ _ => true
  | .lcancel a lvl => lvlOk a lvl
  | .lstat _ a lvl => lvlOk a lvl

/-- Major 0x34 (Table 17.6): trap returns, scrubbing, logs and keys. -/
def decMaj34 (w lit : Word) : Except DecodeError HighOp :=
  match (fF w).toNat with
  | 0 => res0 (fD w == 0 && fA w == 0) (decSB w lit fun b => .ok (.tret b))
  | 1 => res0 (fD w == 0 && fA w == 0) (decSB w lit fun b => .ok (.trefl b))
  | 2 => res0 (fD w == 0 && fA w == 0) (decSB w lit fun b => .ok (.tclr b))
  | 3 => decSB w lit fun b => .ok (.scrub (fD w) (fA w) b)
  | 4 => decSB w lit fun b => .ok (.alog (fD w) (fA w) b)
  | 5 => decSB w lit fun b => .ok (.keyselBind (fD w) (fA w) b)
  | _ => .error .unassigned

/-- Major 0x35 (Table 3.6): the instructions of the launch engine. -/
def decMaj35 (w lit : Word) : Except DecodeError HighOp :=
  match (fF w).toNat with
  | 0 => res0 (fB w == 0) (.ok (.spawn (fD w) (fA w)))
  | 1 => decSB w lit fun b => .ok (.cont (fD w) (fA w) b)
  | 2 => res0 (fD w == 0) (decVB w lit fun b => .ok (.jdec (fA w) b))
  | 3 => res0 (fD w == 0) (.ok (.lcancel (fA w) (fB w)))
  | 4 => .ok (.lstat (fD w) (fA w) (fB w))
  | _ => .error .unassigned


/-- A decoded word: an instruction of a major up to 0x33, or one of major 0x34 or 0x35. -/
inductive Decoded where
  | core (i : Instr)
  | high (l : HighOp)
  deriving DecidableEq, Repr

/-- The instruction of a decoded word. -/
noncomputable def Decoded.instr : Decoded → Instr
  | .core i => i
  | .high l => l.instr

/-- The register operands of a decoded word. -/
def Decoded.opnds : Decoded → List Opnd
  | .core i => i.opnds
  | .high l => l.opnds

/-- The words a decoded instruction takes: two with a literal (R40). -/
def Decoded.words (x : Decoded) : Nat := wordsOf x.opnds

/-- A decoded word is well formed. -/
def Decoded.wf : Decoded → Bool
  | .core i => i.wf
  | .high l => l.opnds.all Opnd.ok && l.fieldsOk

/-- Reading a word whose following word is `lit`: the instruction its major, function and fields name. -/
def readWord (w lit : Word) : Except DecodeError Decoded :=
  if (fMaj w).toNat == 0x34 then (decMaj34 w lit).map .high
  else if (fMaj w).toNat == 0x35 then (decMaj35 w lit).map .high
  else (decodeRaw w lit).map .core

/-- Decoding a word whose following word is `lit`, or the reason why it is ILLEGAL: a word that names an instruction must
be well formed. -/
def decodeWord (w lit : Word) : Except DecodeError Decoded :=
  match readWord w lit with
  | .ok x => if x.wf then .ok x else .error .field
  | .error e => .error e

/-- Decoding: the instruction of a word and of the word after it, or the reason why the word is ILLEGAL. -/
noncomputable def decode (w lit : Word) : Except DecodeError Instr :=
  match decodeWord w lit with
  | .ok x => .ok x.instr
  | .error e => .error e

/-- Whether the description of this major and function calls bits [10:3] a B code (R40). -/
def hasBCode (maj f : Nat) : Bool :=
  match maj with
  | 3 => true
  | 5 => true
  | 7 => true
  | 8 => [0, 1, 2, 3, 4, 5, 7].contains f
  | 9 => [1, 2, 3, 4].contains f
  | 10 => true
  | 12 => true
  | 14 => true
  | 15 => true
  | 16 => [0, 1, 3].contains f
  | 17 => true
  | 19 => true
  | 20 => true
  | 21 => true
  | 22 => true
  | 23 => true
  | 24 => true
  | 41 => [3].contains f
  | 44 => [0, 1, 4, 5, 6].contains f
  | 45 => [0, 1, 2, 5].contains f
  | 46 => [0, 1, 2, 3, 4, 5, 6].contains f
  | 47 => [0, 1, 2, 3].contains f
  | 48 => [0, 1, 2, 4, 5].contains f
  | 49 => [0, 1, 5].contains f
  | 50 => [0, 1, 2].contains f
  | 51 => true
  | 52 => [0, 1, 2, 3, 4, 5].contains f
  | 53 => [1, 2].contains f
  | _ => false

/-- Whether an instruction word takes the next word of its packet as its literal (R40). -/
def takesLiteral (w : Word) : Bool := hasBCode (fMaj w).toNat (fF w).toNat && fB w == 0xFF

/-- The pipe a word issues to (Table 2.8); NOP and unassigned words use none. -/
inductive Pipe where
  | none | branch | scalar | vector | memory | engine
  deriving DecidableEq, Repr

/-- The pipe of a word, from its major and function (Table 2.8). -/
def pipeOf (w : Word) : Pipe :=
  let m := (fMaj w).toNat
  if m == 0 then (if (fF w).toNat == 0 then .none else .branch)
  else if m ≤ 2 then .branch
  else if m ≤ 9 then .scalar
  else if m ≤ 0x1B then .vector
  else if m < 0x20 then .none
  else if m ≤ 0x28 then .memory
  else if m == 0x29 then (if (fF w).toNat == 3 then .engine else .memory)
  else if m < 0x2C then .none
  else if m ≤ 0x35 then .engine
  else .none

/-- Rows that share one word are told apart by register values: the decoder answers the first of them. -/
noncomputable def Instr.primary : Instr → Instr
  | .cpostLand d a b => .cpostPut d a b
  | .cpostrLandr d a b => .cpostrContrib d a b
  | .carmFire d a b => .carmArm d a b
  | .carmFree d a b => .carmArm d a b
  | .carmSet d a b => .carmArm d a b
  | .carmAdd d a b => .carmArm d a b
  | .ctxrunResume d a b => .ctxrunRun d a b
  | .ctxrunReply d a b => .ctxrunRun d a b
  | .ctxstopHalt d a b => .ctxstopSlice d a b
  | .keyselUnbind d a b => .keyselBind d a b
  | i => i

/-- The F code of an integer compare. -/
def ICmp.code : ICmp → BitVec 3
  | .eq => 0 | .ne => 1 | .lt => 2 | .le => 3 | .ltn => 4 | .len => 5 | .gt => 6 | .gtn => 7

/-- The F code of a floating compare. -/
def FCmp.code : FCmp → BitVec 3
  | .eq => 0 | .ne => 1 | .lt => 2 | .le => 3 | .gt => 4 | .ge => 5 | .un => 6 | .ord => 7

/-- A word of formats V, I, S, SI, X: MAJ × 2^25 + D × 2^18 + A × 2^11 + [10:3] × 2^3 + F. -/
def packV (maj : BitVec 6) (d a : BitVec 7) (b : BitVec 8) (f : BitVec 3) : Word :=
  BitVec.ofNat 32 (maj.toNat * 2 ^ 25 + d.toNat * 2 ^ 18 + a.toNat * 2 ^ 11 + b.toNat * 2 ^ 3 + f.toNat)

/-- A word of format B: MAJ, X, the displacement in [17:3] and F. -/
def packB (maj : BitVec 6) (x : BitVec 7) (disp : BitVec 15) (f : BitVec 3) : Word :=
  BitVec.ofNat 32 (maj.toNat * 2 ^ 25 + x.toNat * 2 ^ 18 + disp.toNat * 2 ^ 3 + f.toNat)

/-- A word of format K: the operands in [24:3] as one number. -/
def packK (maj : BitVec 6) (k : Nat) (f : BitVec 3) : Word :=
  BitVec.ofNat 32 (maj.toNat * 2 ^ 25 + k * 2 ^ 3 + f.toNat)

/-- A word of format M (R161): MAJ × 2^25 + D × 2^18 + A × 2^11 + W × 2^8 + H × 2^5 + O. -/
def packM (maj : BitVec 6) (d a : BitVec 7) (w h : BitVec 3) (o : BitVec 5) : Word :=
  BitVec.ofNat 32 (maj.toNat * 2 ^ 25 + d.toNat * 2 ^ 18 + a.toNat * 2 ^ 11 + w.toNat * 2 ^ 8 + h.toNat * 2 ^ 5 + o.toNat)

/-- The word of an instruction with C = 0, and its literal word (0 where it takes none). Events have none. Rows that
share a word (`Instr.primary`) have the same words. -/
def encode : Instr → Option (Word × Word)
  | .nop => some (packB 0 0 0 0, 0)
  | .exit => some (packB 0 0 0 1, 0)
  | .yield cond p c => some (packK 0 (cond.toNat * 2 ^ 19 + p.toNat * 2 ^ 12 + c.toNat * 2 ^ 5) 2, 0)
  | .waitc l st y m => some (packK 0 (l.toNat * 2 ^ 17 + st.toNat * 2 ^ 12 + y.toNat * 2 ^ 7 + m.toNat * 2 ^ 2) 3, 0)
  | .bar => some (packB 0 0 0 4, 0)
  | .cbar => some (packB 0 0 0 5, 0)
  | .trap x => some (packB 0 x 0 6, 0)
  | .sys x => some (packB 0 x 0 7, 0)
  | .bra disp => some (packB 1 0 disp 0, 0)
  | .bz x disp => some (packB 1 x disp 1, 0)
  | .bnz x disp => some (packB 1 x disp 2, 0)
  | .bzm x disp => some (packB 1 x disp 3, 0)
  | .bnzm x disp => some (packB 1 x disp 4, 0)
  | .brd x disp => some (packB 1 x disp 5, 0)
  | .join => some (packB 1 0 0 6, 0)
  | .call disp => some (packB 2 0 disp 0, 0)
  | .calli x => some (packB 2 x 0 1, 0)
  | .ret x => some (packB 2 x 0 2, 0)
  | .jmpi x => some (packB 2 x 0 3, 0)
  | .loop x disp => some (packB 2 x disp 4, 0)
  | .sadd d a b => some (packV 3 d a b.code 0, b.word)
  | .ssub d a b => some (packV 3 d a b.code 1, b.word)
  | .smul d a b => some (packV 3 d a b.code 2, b.word)
  | .smulh d a b => some (packV 3 d a b.code 3, b.word)
  | .sand d a b => some (packV 3 d a b.code 4, b.word)
  | .sor d a b => some (packV 3 d a b.code 5, b.word)
  | .sxor d a b => some (packV 3 d a b.code 6, b.word)
  | .smov d b => some (packV 3 d 0 b.code 7, b.word)
  | .saddI d a imm => some (packV 4 d a imm 0, 0)
  | .ssubI d a imm => some (packV 4 d a imm 1, 0)
  | .smulI d a imm => some (packV 4 d a imm 2, 0)
  | .smulhI d a imm => some (packV 4 d a imm 3, 0)
  | .sandI d a imm => some (packV 4 d a imm 4, 0)
  | .sorI d a imm => some (packV 4 d a imm 5, 0)
  | .sxorI d a imm => some (packV 4 d a imm 6, 0)
  | .smovI d imm => some (packV 4 d 0 imm 7, 0)
  | .sshl d a b => some (packV 5 d a b.code 0, b.word)
  | .sshr d a b => some (packV 5 d a b.code 1, b.word)
  | .ssra d a b => some (packV 5 d a b.code 2, b.word)
  | .smin d a b => some (packV 5 d a b.code 3, b.word)
  | .smax d a b => some (packV 5 d a b.code 4, b.word)
  | .sadd64 d a b => some (packV 5 d a b.code 5, b.word)
  | .ssub64 d a b => some (packV 5 d a b.code 6, b.word)
  | .ssel d a b => some (packV 5 d a b.code 7, b.word)
  | .sshlI d a imm => some (packV 6 d a imm 0, 0)
  | .sshrI d a imm => some (packV 6 d a imm 1, 0)
  | .ssraI d a imm => some (packV 6 d a imm 2, 0)
  | .sminI d a imm => some (packV 6 d a imm 3, 0)
  | .smaxI d a imm => some (packV 6 d a imm 4, 0)
  | .sadd64I d a imm => some (packV 6 d a imm 5, 0)
  | .ssub64I d a imm => some (packV 6 d a imm 6, 0)
  | .scmp cc d a b => some (packV 7 d a b.code cc.code, b.word)
  | .mand d a b => some (packV 8 d a b.code 0, b.word)
  | .mor d a b => some (packV 8 d a b.code 1, b.word)
  | .mxor d a b => some (packV 8 d a b.code 2, b.word)
  | .mandn d a b => some (packV 8 d a b.code 3, b.word)
  | .mpop d b => some (packV 8 d 0 b.code 4, b.word)
  | .mfirst d b => some (packV 8 d 0 b.code 5, b.word)
  | .mset d a => some (packV 8 d a 0 6, 0)
  | .mmov d b => some (packV 8 d 0 b.code 7, b.word)
  | .rdsr d a => some (packV 9 d a 0 0, 0)
  | .wrsr a b => some (packV 9 0 a b.code 1, b.word)
  | .vwin b => some (packV 9 0 0 b.code 2, b.word)
  | .reggrow b => some (packV 9 0 0 b.code 3, b.word)
  | .regshrink b => some (packV 9 0 0 b.code 4, b.word)
  | .vadd d a b => some (packV 10 d a b.code 0, b.word)
  | .vsub d a b => some (packV 10 d a b.code 1, b.word)
  | .vmul d a b => some (packV 10 d a b.code 2, b.word)
  | .vmulh d a b => some (packV 10 d a b.code 3, b.word)
  | .vmad d a b => some (packV 10 d a b.code 4, b.word)
  | .vand d a b => some (packV 10 d a b.code 5, b.word)
  | .vor d a b => some (packV 10 d a b.code 6, b.word)
  | .vxor d a b => some (packV 10 d a b.code 7, b.word)
  | .vaddI d a imm => some (packV 11 d a imm 0, 0)
  | .vsubI d a imm => some (packV 11 d a imm 1, 0)
  | .vmulI d a imm => some (packV 11 d a imm 2, 0)
  | .vmulhI d a imm => some (packV 11 d a imm 3, 0)
  | .vmadI d a imm => some (packV 11 d a imm 4, 0)
  | .vandI d a imm => some (packV 11 d a imm 5, 0)
  | .vorI d a imm => some (packV 11 d a imm 6, 0)
  | .vxorI d a imm => some (packV 11 d a imm 7, 0)
  | .vshl d a b => some (packV 12 d a b.code 0, b.word)
  | .vshr d a b => some (packV 12 d a b.code 1, b.word)
  | .vsra d a b => some (packV 12 d a b.code 2, b.word)
  | .vmin d a b => some (packV 12 d a b.code 3, b.word)
  | .vmax d a b => some (packV 12 d a b.code 4, b.word)
  | .vadd64 d a b => some (packV 12 d a b.code 5, b.word)
  | .vmad64 d a b => some (packV 12 d a b.code 6, b.word)
  | .vsel d a b => some (packV 12 d a b.code 7, b.word)
  | .vshlI d a imm => some (packV 13 d a imm 0, 0)
  | .vshrI d a imm => some (packV 13 d a imm 1, 0)
  | .vsraI d a imm => some (packV 13 d a imm 2, 0)
  | .vminI d a imm => some (packV 13 d a imm 3, 0)
  | .vmaxI d a imm => some (packV 13 d a imm 4, 0)
  | .vadd64I d a imm => some (packV 13 d a imm 5, 0)
  | .vmad64I d a imm => some (packV 13 d a imm 6, 0)
  | .vmov d b => some (packV 14 d 0 b.code 0, b.word)
  | .vnot d b => some (packV 14 d 0 b.code 1, b.word)
  | .vabs d b => some (packV 14 d 0 b.code 2, b.word)
  | .vclz d b => some (packV 14 d 0 b.code 3, b.word)
  | .vpopc d b => some (packV 14 d 0 b.code 4, b.word)
  | .vbrev d b => some (packV 14 d 0 b.code 5, b.word)
  | .vbfe d a b => some (packV 14 d a b.code 6, b.word)
  | .vbfi d a b => some (packV 14 d a b.code 7, b.word)
  | .vcmp cc d a b => some (packV 15 d a b.code cc.code, b.word)
  | .vidx d a b => some (packV 16 d a b.code 0, b.word)
  | .vidxw d a b => some (packV 16 d a b.code 1, b.word)
  | .vlane d sel => some (packV 16 d 0 sel 2, 0)
  | .vgets d a b => some (packV 16 d a b.code 3, b.word)
  | .fadd d a b => some (packV 17 d a b.code 0, b.word)
  | .fsub d a b => some (packV 17 d a b.code 1, b.word)
  | .fmul d a b => some (packV 17 d a b.code 2, b.word)
  | .ffma d a b => some (packV 17 d a b.code 3, b.word)
  | .ffms d a b => some (packV 17 d a b.code 4, b.word)
  | .fnma d a b => some (packV 17 d a b.code 5, b.word)
  | .fmin d a b => some (packV 17 d a b.code 6, b.word)
  | .fmax d a b => some (packV 17 d a b.code 7, b.word)
  | .faddI d a imm => some (packV 18 d a imm 0, 0)
  | .fsubI d a imm => some (packV 18 d a imm 1, 0)
  | .fmulI d a imm => some (packV 18 d a imm 2, 0)
  | .ffmaI d a imm => some (packV 18 d a imm 3, 0)
  | .ffmsI d a imm => some (packV 18 d a imm 4, 0)
  | .fnmaI d a imm => some (packV 18 d a imm 5, 0)
  | .fminI d a imm => some (packV 18 d a imm 6, 0)
  | .fmaxI d a imm => some (packV 18 d a imm 7, 0)
  | .frcp d b => some (packV 19 d 0 b.code 0, b.word)
  | .frsq d b => some (packV 19 d 0 b.code 1, b.word)
  | .fsqrt d b => some (packV 19 d 0 b.code 2, b.word)
  | .fex2 d b => some (packV 19 d 0 b.code 3, b.word)
  | .flg2 d b => some (packV 19 d 0 b.code 4, b.word)
  | .fsin d b => some (packV 19 d 0 b.code 5, b.word)
  | .fcos d b => some (packV 19 d 0 b.code 6, b.word)
  | .ftanh d b => some (packV 19 d 0 b.code 7, b.word)
  | .fcmp cc d a b => some (packV 20 d a b.code cc.code, b.word)
  | .dadd d a b => some (packV 21 d a b.code 0, b.word)
  | .dsub d a b => some (packV 21 d a b.code 1, b.word)
  | .dmul d a b => some (packV 21 d a b.code 2, b.word)
  | .dfma d a b => some (packV 21 d a b.code 3, b.word)
  | .dfms d a b => some (packV 21 d a b.code 4, b.word)
  | .dnma d a b => some (packV 21 d a b.code 5, b.word)
  | .dmin d a b => some (packV 21 d a b.code 6, b.word)
  | .dmax d a b => some (packV 21 d a b.code 7, b.word)
  | .ddiv d a b => some (packV 22 d a b.code 0, b.word)
  | .dsqrt d b => some (packV 22 d 0 b.code 1, b.word)
  | .drcp d b => some (packV 22 d 0 b.code 2, b.word)
  | .drsq d b => some (packV 22 d 0 b.code 3, b.word)
  | .dfloor d b => some (packV 22 d 0 b.code 4, b.word)
  | .dceil d b => some (packV 22 d 0 b.code 5, b.word)
  | .drne d b => some (packV 22 d 0 b.code 6, b.word)
  | .dtrunc d b => some (packV 22 d 0 b.code 7, b.word)
  | .dcmp cc d a b => some (packV 23 d a b.code cc.code, b.word)
  | .hadd2 d a b => some (packV 24 d a b.code 0, b.word)
  | .hmul2 d a b => some (packV 24 d a b.code 1, b.word)
  | .hfma2 d a b => some (packV 24 d a b.code 2, b.word)
  | .hmax2 d a b => some (packV 24 d a b.code 3, b.word)
  | .badd2 d a b => some (packV 24 d a b.code 4, b.word)
  | .bmul2 d a b => some (packV 24 d a b.code 5, b.word)
  | .bfma2 d a b => some (packV 24 d a b.code 6, b.word)
  | .bmax2 d a b => some (packV 24 d a b.code 7, b.word)
  | .cvtF32I32 d a rm u => some (packV 25 d a (BitVec.ofNat 8 (rm.toNat * 32 + u.toNat * 16)) 0, 0)
  | .cvtI32F32 d a rm u => some (packV 25 d a (BitVec.ofNat 8 (rm.toNat * 32 + u.toNat * 16)) 1, 0)
  | .cvtF64F32 d a => some (packV 25 d a 0 2, 0)
  | .cvtF32F64 d a rm sat => some (packV 25 d a (BitVec.ofNat 8 (rm.toNat * 32 + sat.toNat * 8)) 3, 0)
  | .cvtF64I32 d a u => some (packV 25 d a (BitVec.ofNat 8 (u.toNat * 16)) 4, 0)
  | .cvtI32F64 d a rm u => some (packV 25 d a (BitVec.ofNat 8 (rm.toNat * 32 + u.toNat * 16)) 5, 0)
  | .cvtF32F16 d a h hi => some (packV 25 d a (BitVec.ofNat 8 (h.toNat * 4 + hi.toNat * 2)) 6, 0)
  | .cvtF16F32 d a rm sat h => some (packV 25 d a (BitVec.ofNat 8 (rm.toNat * 32 + sat.toNat * 8 + h.toNat * 4)) 7, 0)
  | .cvtqE4m3 d a pos sat mx rm => some (packV 26 d a (BitVec.ofNat 8 (pos.toNat * 32 + sat.toNat * 16 + mx.toNat * 4 + rm.toNat)) 0, 0)
  | .cvtqE5m2 d a pos sat mx rm => some (packV 26 d a (BitVec.ofNat 8 (pos.toNat * 32 + sat.toNat * 16 + mx.toNat * 4 + rm.toNat)) 1, 0)
  | .cvtqE2m1 d a pos sat mx rm => some (packV 26 d a (BitVec.ofNat 8 (pos.toNat * 32 + sat.toNat * 16 + mx.toNat * 4 + rm.toNat)) 2, 0)
  | .cvtqI8 d a pos mx rm => some (packV 26 d a (BitVec.ofNat 8 (pos.toNat * 32 + mx.toNat * 4 + rm.toNat)) 3, 0)
  | .scale d a fmt => some (packV 26 d a (BitVec.ofNat 8 (fmt.toNat * 8)) 4, 0)
  | .dq8 d a pos fmt mx rm => some (packV 26 d a (BitVec.ofNat 8 (pos.toNat * 32 + fmt.toNat * 8 + mx.toNat * 4 + rm.toNat)) 5, 0)
  | .dq4 d a pos mx rm => some (packV 26 d a (BitVec.ofNat 8 (pos.toNat * 32 + mx.toNat * 4 + rm.toNat)) 6, 0)
  | .perm d a m p => some (packV 27 d a (BitVec.ofNat 8 (m.toNat * 8 + p.toNat)) 0, 0)
  | .pup d a m p => some (packV 27 d a (BitVec.ofNat 8 (m.toNat * 8 + p.toNat)) 1, 0)
  | .pdn d a m p => some (packV 27 d a (BitVec.ofNat 8 (m.toNat * 8 + p.toNat)) 2, 0)
  | .pxor d a m p => some (packV 27 d a (BitVec.ofNat 8 (m.toNat * 8 + p.toNat)) 3, 0)
  | .pbcast d a m p => some (packV 27 d a (BitVec.ofNat 8 (m.toNat * 8 + p.toNat)) 4, 0)
  | .vote d a m p => some (packV 27 d a (BitVec.ofNat 8 (m.toNat * 8 + p.toNat)) 5, 0)
  | .redl d a m p => some (packV 27 d a (BitVec.ofNat 8 (m.toNat * 8 + p.toNat)) 6, 0)
  | .scanl d a m p => some (packV 27 d a (BitVec.ofNat 8 (m.toNat * 8 + p.toNat)) 7, 0)
  | .ld d a ww h o => some (packM 32 d a ww h o, 0)
  | .st d a ww h o => some (packM 33 d a ww h o, 0)
  | .ldv d a ww h o => some (packM 34 d a ww h o, 0)
  | .lds d a ww h o => some (packM 35 d a ww h o, 0)
  | .sts d a ww h o => some (packM 36 d a ww h o, 0)
  | .atom d a ww h o => some (packM 37 d a ww h o, 0)
  | .atoms d a ww h o => some (packM 38 d a ww h o, 0)
  | .red d a ww h o => some (packM 39 d a ww h o, 0)
  | .ldw d a ww h o => some (packM 40 d a ww h o, 0)
  | .fence kind scope => some (packV 41 0 0 (BitVec.ofNat 8 (kind.toNat * 32 + scope.toNat * 4)) 0, 0)
  | .cctl a kind n => some (packV 41 0 a (BitVec.ofNat 8 (kind.toNat * 32 + n.toNat)) 1, 0)
  | .pref a tgt n => some (packV 41 0 a (BitVec.ofNat 8 (tgt.toNat * 64 + n.toNat)) 2, 0)
  | .migr d a b => some (packV 41 d a b.code 3, b.word)
  | .cpy a b => some (packV 44 0 a b.code 0, b.word)
  | .cpym a b => some (packV 44 0 a b.code 1, b.word)
  | .cpys a => some (packV 44 0 a 0 2, 0)
  | .rinit d a => some (packV 44 d a 0 3, 0)
  | .rwait d a b => some (packV 44 d a b.code 4, b.word)
  | .rrel d b => some (packV 44 d 0 b.code 5, b.word)
  | .rqry d b => some (packV 44 d 0 b.code 6, b.word)
  | .gang d b => some (packV 45 d 0 b.code 0, b.word)
  | .mma t a b => some (packV 45 t a b.code 1, b.word)
  | .mdist t a b => some (packV 45 t a b.code 2, b.word)
  | .mtopk t src k => some (packV 45 t src k 3, 0)
  | .mfence d => some (packV 45 d 0 0 4, 0)
  | .mzero b => some (packV 45 0 0 b.code 5, b.word)
  | .mrd d t f64 peek => some (packV 45 d t (BitVec.ofNat 8 (f64.toNat * 2 + peek.toNat)) 6, 0)
  | .mwr t a f64 => some (packV 45 t a (BitVec.ofNat 8 (f64.toNat * 2)) 7, 0)
  | .snap d a b => some (packV 46 d a b.code 0, b.word)
  | .sacq d b => some (packV 46 d 0 b.code 1, b.word)
  | .srel d b => some (packV 46 d 0 b.code 2, b.word)
  | .vstep d b => some (packV 46 d 0 b.code 3, b.word)
  | .vqry d a b => some (packV 46 d a b.code 4, b.word)
  | .vpin d b => some (packV 46 d 0 b.code 5, b.word)
  | .vunpin d b => some (packV 46 d 0 b.code 6, b.word)
  | .hgath a b => some (packV 47 0 a b.code 0, b.word)
  | .hred a b => some (packV 47 0 a b.code 1, b.word)
  | .hcvt a b => some (packV 47 0 a b.code 2, b.word)
  | .hqry d b => some (packV 47 d 0 b.code 3, b.word)
  | .cpostPut d a b => some (packV 48 d a b.code 0, b.word)
  | .cpostrContrib d a b => some (packV 48 d a b.code 1, b.word)
  | .carmArm d a b => some (packV 48 d a b.code 2, b.word)
  | .chalo d a => some (packV 48 d a 0 3, 0)
  | .cwait d a b => some (packV 48 d a b.code 4, b.word)
  | .cqry d b => some (packV 48 d 0 b.code 5, b.word)
  | .gemit d a b => some (packV 49 d a b.code 0, b.word)
  | .gflush a b => some (packV 49 0 a b.code 1, b.word)
  | .pxin d mode cen k => some (packV 49 d 0 (BitVec.ofNat 8 (mode.toNat * 64 + cen.toNat * 32 + k.toNat)) 2, 0)
  | .pxout a => some (packV 49 0 a 0 3, 0)
  | .pxkill => some (packV 49 0 0 0 4, 0)
  | .pxrate a b => some (packV 49 0 a b.code 5, b.word)
  | .march d a b => some (packV 50 d a b.code 0, b.word)
  | .msmp d a b => some (packV 50 d a b.code 1, b.word)
  | .mhash d a b => some (packV 50 d a b.code 2, b.word)
  | .mqry d => some (packV 50 d 0 0 3, 0)
  | .ctxnew d b => some (packV 51 d 0 b.code 0, b.word)
  | .ctxgrant d a b => some (packV 51 d a b.code 1, b.word)
  | .ctxrevoke d a b => some (packV 51 d a b.code 2, b.word)
  | .ctxrunRun d a b => some (packV 51 d a b.code 3, b.word)
  | .ctxstopSlice d a b => some (packV 51 d a b.code 4, b.word)
  | .ctxsave d a b => some (packV 51 d a b.code 5, b.word)
  | .ctxload d a b => some (packV 51 d a b.code 6, b.word)
  | .ctxq d a b => some (packV 51 d a b.code 7, b.word)
  | .tret b => some (packV 52 0 0 b.code 0, b.word)
  | .trefl b => some (packV 52 0 0 b.code 1, b.word)
  | .tclr b => some (packV 52 0 0 b.code 2, b.word)
  | .scrub d a b => some (packV 52 d a b.code 3, b.word)
  | .alog d a b => some (packV 52 d a b.code 4, b.word)
  | .keyselBind d a b => some (packV 52 d a b.code 5, b.word)
  | .spawn d a => some (packV 53 d a 0 0, 0)
  | .cont d a b => some (packV 53 d a b.code 1, b.word)
  | .jdec a b => some (packV 53 0 a b.code 2, b.word)
  | .lcancel a lvl => some (packV 53 0 a lvl 3, 0)
  | .lstat d a lvl => some (packV 53 d a lvl 4, 0)
  | .cpostLand d a b => some (packV 48 d a b.code 0, b.word)
  | .cpostrLandr d a b => some (packV 48 d a b.code 1, b.word)
  | .carmFire d a b => some (packV 48 d a b.code 2, b.word)
  | .carmFree d a b => some (packV 48 d a b.code 2, b.word)
  | .carmSet d a b => some (packV 48 d a b.code 2, b.word)
  | .carmAdd d a b => some (packV 48 d a b.code 2, b.word)
  | .ctxrunResume d a b => some (packV 51 d a b.code 3, b.word)
  | .ctxrunReply d a b => some (packV 51 d a b.code 3, b.word)
  | .ctxstopHalt d a b => some (packV 51 d a b.code 4, b.word)
  | .keyselUnbind d a b => some (packV 52 d a b.code 5, b.word)
  | _ => none

/-- The instruction that the decoder reads from an instruction of the opcode table whose bits are `w`: the first word is
bits 31 to 0, the word after it bits 63 to 32. An instruction whose operands are not well formed is read here and is ILLEGAL
where it would issue. -/
noncomputable def decodeTableWord (nbits w : Nat) : Option Instr :=
  if nbits < 32 then none
  else match readWord (BitVec.ofNat 32 w) (BitVec.ofNat 32 (w % 2 ^ nbits / 2 ^ 32)) with
    | .ok x => some x.instr
    | .error _ => none

end Sys2Proof
end

