-- ==== Sys2Proof/Machine/Fp.lean ====
section
/-!
DEFINITION. Floating-point formats and arithmetic (R89–R95): every result is the exact value rounded once.

A finite value is a sign, a natural mantissa and a binary exponent, (−1)^s × m × 2^e, exact. `rnd` rounds such a value
to a format and tells whether it was inexact, tiny or overflowed. A quotient or root is given to `rnd` with at least
two bits beyond the format and a last bit that says whether anything was cut off, which rounds as the exact value does.
-/

namespace Sys2Proof.Machine

/-- The rounding modes of Table 4.3. -/
inductive RM where
  | rne | rz | rd | ru | rna
  deriving DecidableEq, Repr

/-- A floating-point format of Table 4.1: fraction bits, exponent bits, bias, code of the largest finite magnitude,
code of infinity (if any), canonical NaN (if any). -/
structure Fmt where
  mb : Nat
  eb : Nat
  bias : Nat
  maxc : Nat
  inf : Option Nat
  nan : Option Nat
  deriving DecidableEq, Repr

def fmtF64 : Fmt := ⟨52, 11, 1023, 0x7FEFFFFFFFFFFFFF, some 0x7FF0000000000000, some 0x7FF8000000000000⟩
def fmtF32 : Fmt := ⟨23, 8, 127, 0x7F7FFFFF, some 0x7F800000, some 0x7FC00000⟩
def fmtF16 : Fmt := ⟨10, 5, 15, 0x7BFF, some 0x7C00, some 0x7E00⟩
def fmtBF16 : Fmt := ⟨7, 8, 127, 0x7F7F, some 0x7F80, some 0x7FC0⟩
def fmtE4M3 : Fmt := ⟨3, 4, 7, 0x7E, none, some 0x7F⟩
def fmtE5M2 : Fmt := ⟨2, 5, 15, 0x7B, some 0x7C, some 0x7E⟩
def fmtE2M1 : Fmt := ⟨1, 2, 1, 0x7, none, none⟩

/-- The weight of the sign bit of a format. -/
def Fmt.sgn (f : Fmt) : Nat := 2 ^ (f.mb + f.eb)

/-- A code with its sign bit. -/
def Fmt.signed (f : Fmt) (s : Bool) (c : Nat) : Nat := if s then c + f.sgn else c

/-- The canonical NaN of a format, sign 0 (R90); zero in a format without a NaN. -/
def Fmt.qnan (f : Fmt) : Nat := f.nan.getD 0

/-- What a pattern stands for (R89, R90). -/
inductive FVal where
  /-- a NaN; `true` if it is signalling -/
  | nan (sig : Bool)
  | inf (s : Bool)
  /-- (−1)^s × m × 2^e -/
  | fin (s : Bool) (m : Nat) (e : Int)
  deriving DecidableEq, Repr

/-- The value of a pattern of a format (R89). -/
def Fmt.val (f : Fmt) (x : Nat) : FVal :=
  let s := x / f.sgn % 2 == 1
  let ex := x / 2 ^ f.mb % 2 ^ f.eb
  let fr := x % 2 ^ f.mb
  if ex = 0 then .fin s fr (1 - f.bias - f.mb)
  else if ex = 2 ^ f.eb - 1 ∧ f.inf.isSome then
    if fr = 0 then .inf s else .nan (f.mb > 2 && fr < 2 ^ (f.mb - 1))
  else if f.inf.isNone ∧ f.nan = some (x % f.sgn) then .nan false
  else .fin s (2 ^ f.mb + fr) ((ex : Int) - f.bias - f.mb)

/-- The exception flags in the order of FPSTAT (Table 4.5): [0] NV, [1] DZ, [2] OF, [3] UF, [4] NX. -/
abbrev FFlags := BitVec 5
def fNV : FFlags := 1
def fDZ : FFlags := 2
def fOF : FFlags := 4
def fUF : FFlags := 8
def fNX : FFlags := 16

/-- m × 2^(−k) rounded to an integer in a mode, for a value of sign s; and whether it was inexact. -/
def rshift (rm : RM) (s : Bool) (m : Nat) (k : Int) : Nat × Bool :=
  match k with
  | .ofNat n =>
    let q := m / 2 ^ n
    let r := m % 2 ^ n
    let h := 2 ^ n / 2
    let up := match rm with
      | .rne => h < r || (r == h && n != 0 && q % 2 == 1)
      | .rz => false
      | .rd => s && r != 0
      | .ru => !s && r != 0
      | .rna => n != 0 && h ≤ r
    (if up then q + 1 else q, r != 0)
  | .negSucc n => (m * 2 ^ (n + 1), false)

/-- A value rounded to a format: magnitude code (it may pass `maxc`), inexact, tiny after rounding (R94). -/
structure Rounded where
  code : Nat
  ix : Bool
  tiny : Bool
  deriving DecidableEq, Repr

/-- Rounding (−1)^s × m × 2^e to the grid of a format (R92). -/
def Fmt.round (f : Fmt) (rm : RM) (s : Bool) (m : Nat) (e : Int) : Rounded :=
  if m = 0 then ⟨0, false, false⟩
  else
    let top : Int := e + Nat.log2 m
    let emin : Int := 1 - f.bias
    let qe : Int := (if top < emin then emin else top) - f.mb
    let (q, ix) := rshift rm s m (qe - e)
    let (q', _) := rshift rm s m (top - f.mb - e)
    let tiny := top < emin && !(top == emin - 1 && q' == 2 ^ (f.mb + 1))
    ⟨((qe + f.mb + f.bias - 1).toNat) * 2 ^ f.mb + q, ix, tiny⟩

/-- The result of an overflow without saturation (R93), as a magnitude code. -/
def Fmt.overflow (f : Fmt) (rm : RM) (s : Bool) : Nat :=
  let i := f.inf.getD f.maxc
  match rm with
  | .rne | .rna => i
  | .rz => f.maxc
  | .rd => if s then i else f.maxc
  | .ru => if s then f.maxc else i

/-- A rounded result with its flags (R93–R95): pattern and flags. With `ftz` a tiny result is written as a zero. -/
def Fmt.result (f : Fmt) (rm : RM) (ftz : Bool) (s : Bool) (m : Nat) (e : Int) : Nat × FFlags :=
  let r := f.round rm s m e
  if f.maxc < r.code then (f.signed s (f.overflow rm s), fOF ||| fNX)
  else if r.tiny && ftz then (f.signed s 0, fUF ||| fNX)
  else (f.signed s r.code, (if r.ix then fNX else 0) ||| (if r.ix && r.tiny then fUF else 0))

/-- How an instruction rounds: mode and flush control. -/
structure FEnv where
  rm : RM
  ftz : Bool
  deriving DecidableEq, Repr

/-- Reading an operand; under FTZ a subnormal reads as zero of its sign (R95). -/
def Fmt.read (f : Fmt) (ftz : Bool) (x : Nat) : FVal :=
  match f.val x with
  | .fin s m e => if ftz && m < 2 ^ f.mb then .fin s 0 e else .fin s m e
  | v => v

/-- Whether a value is a signalling NaN. -/
def FVal.isSig : FVal → Bool
  | .nan b => b
  | _ => false

def FVal.isNan : FVal → Bool
  | .nan _ => true
  | _ => false

/-- The sign of a value turned over: an exact sign change. -/
def FVal.neg : FVal → FVal
  | .nan b => .nan b
  | .inf s => .inf !s
  | .fin s m e => .fin (!s) m e

/-- The signed mantissa of a finite value at an exponent not above its own. -/
def scaled (s : Bool) (m : Nat) (e lo : Int) : Int :=
  let v : Int := m * 2 ^ (e - lo).toNat
  if s then -v else v

/-- The exact sum of two finite values; an exact zero takes the sign of R121. -/
def finAdd (rm : RM) (s1 : Bool) (m1 : Nat) (e1 : Int) (s2 : Bool) (m2 : Nat) (e2 : Int) : Bool × Nat × Int :=
  let lo := if e1 < e2 then e1 else e2
  let v := scaled s1 m1 e1 lo + scaled s2 m2 e2 lo
  if v = 0 then
    (if m1 = 0 ∧ m2 = 0 ∧ s1 = s2 then s1 else rm == .rd, 0, lo)
  else (v < 0, v.natAbs, lo)

/-- The canonical NaN with NV if the operation is invalid or an operand signals (R90). -/
def Fmt.nanRes (f : Fmt) (nv : Bool) : Nat × FFlags := (f.qnan, if nv then fNV else 0)

/-- IEEE addition (R121). -/
def Fmt.add (f : Fmt) (en : FEnv) (x y : FVal) : Nat × FFlags :=
  match x, y with
  | .nan a, y => f.nanRes (a || y.isSig)
  | _, .nan b => f.nanRes b
  | .inf s, .inf t => if s = t then (f.signed s (f.inf.getD 0), 0) else f.nanRes true
  | .inf s, .fin _ _ _ => (f.signed s (f.inf.getD 0), 0)
  | .fin _ _ _, .inf t => (f.signed t (f.inf.getD 0), 0)
  | .fin s1 m1 e1, .fin s2 m2 e2 =>
    let (s, m, e) := finAdd en.rm s1 m1 e1 s2 m2 e2
    f.result en.rm en.ftz s m e

/-- IEEE multiplication (R121). -/
def Fmt.mul (f : Fmt) (en : FEnv) (x y : FVal) : Nat × FFlags :=
  match x, y with
  | .nan a, y => f.nanRes (a || y.isSig)
  | _, .nan b => f.nanRes b
  | .inf s, .inf t => (f.signed (s != t) (f.inf.getD 0), 0)
  | .inf s, .fin t m _ => if m = 0 then f.nanRes true else (f.signed (s != t) (f.inf.getD 0), 0)
  | .fin s m _, .inf t => if m = 0 then f.nanRes true else (f.signed (s != t) (f.inf.getD 0), 0)
  | .fin s1 m1 e1, .fin s2 m2 e2 => f.result en.rm en.ftz (s1 != s2) (m1 * m2) (e1 + e2)

/-- IEEE fusedMultiplyAdd x × z + y (R121): 0 × ∞ is invalid even with a quiet NaN addend. -/
def Fmt.fma (f : Fmt) (en : FEnv) (x z y : FVal) : Nat × FFlags :=
  let sig := x.isSig || z.isSig || y.isSig
  match x, z with
  | .nan _, _ => f.nanRes sig
  | _, .nan _ => f.nanRes sig
  | .inf s, .inf t => addInf (s != t) sig
  | .inf s, .fin t m _ => if m = 0 then f.nanRes true else addInf (s != t) sig
  | .fin s m _, .inf t => if m = 0 then f.nanRes true else addInf (s != t) sig
  | .fin s1 m1 e1, .fin s2 m2 e2 =>
    match y with
    | .nan b => f.nanRes b
    | .inf t => (f.signed t (f.inf.getD 0), 0)
    | .fin s3 m3 e3 =>
      let (s, m, e) := finAdd en.rm (s1 != s2) (m1 * m2) (e1 + e2) s3 m3 e3
      f.result en.rm en.ftz s m e
where
  /-- an infinite product plus y -/
  addInf (s sig : Bool) : Nat × FFlags :=
    match y with
    | .nan _ => f.nanRes sig
    | .inf t => if s = t then (f.signed s (f.inf.getD 0), 0) else f.nanRes true
    | .fin _ _ _ => (f.signed s (f.inf.getD 0), 0)

/-- x < y of two values that are no NaN; −0 equals +0. -/
def FVal.lt : FVal → FVal → Bool
  | .inf s, .inf t => s && !t
  | .inf s, .fin _ _ _ => s
  | .fin _ _ _, .inf t => !t
  | .fin s1 m1 e1, .fin s2 m2 e2 =>
    let lo := if e1 < e2 then e1 else e2
    scaled s1 m1 e1 lo < scaled s2 m2 e2 lo
  | _, _ => false

/-- x = y of two values that are no NaN. -/
def FVal.eq (x y : FVal) : Bool := !x.isNan && !y.isNan && !x.lt y && !y.lt x

/-- The pattern of a value that is one of the format's own (an operand read under FTZ). -/
def Fmt.pattern (f : Fmt) : FVal → Nat
  | .nan _ => f.qnan
  | .inf s => f.signed s (f.inf.getD 0)
  | .fin s m e => f.signed s (f.round .rz s m e).code

/-- The sign of a value. -/
def FVal.sign : FVal → Bool
  | .nan _ => false
  | .inf s => s
  | .fin s _ _ => s

/-- minimumNumber (mx = false) and maximumNumber (mx = true) of IEEE 754-2019 (R122). -/
def Fmt.minMax (f : Fmt) (mx : Bool) (x y : FVal) : Nat × FFlags :=
  let fl := if x.isSig || y.isSig then fNV else 0
  let r :=
    if x.isNan && y.isNan then f.qnan
    else if x.isNan then f.pattern y
    else if y.isNan then f.pattern x
    else
      let below := x.lt y || (!y.lt x && x.sign && !y.sign)
      f.pattern (if below == mx then y else x)
  (r, fl)

/-- Integer square root, bit by bit from bit n − 1. -/
def isqrtAux (x : Nat) : Nat → Nat → Nat
  | 0, r => r
  | n + 1, r => isqrtAux x n (if (r + 2 ^ n) * (r + 2 ^ n) ≤ x then r + 2 ^ n else r)

/-- The integer square root of x. -/
def isqrt (x : Nat) : Nat := isqrtAux x (Nat.log2 x / 2 + 1) 0

/-- x ÷ y of finite values, y not zero, with `p` bits and a sticky bit. -/
def divSticky (p m1 : Nat) (e1 : Int) (m2 : Nat) (e2 : Int) : Nat × Int :=
  let k := p + Nat.log2 m2 + 2
  let n := m1 * 2 ^ k
  (2 * (n / m2) + (if n % m2 = 0 then 0 else 1), e1 - e2 - k - 1)

/-- √(m × 2^e) with `p` bits and a sticky bit. -/
def sqrtSticky (p m : Nat) (e : Int) : Nat × Int :=
  let (m, e) := if e % 2 = 0 then (m, e) else (2 * m, e - 1)
  let n := m * 2 ^ (2 * p)
  let r := isqrt n
  (2 * r + (if r * r = n then 0 else 1), e / 2 - p - 1)

/-- 1 ÷ √(m × 2^e), m not zero, with about `p` bits and a sticky bit. -/
def rsqrtSticky (p m : Nat) (e : Int) : Nat × Int :=
  let (m, e) := if e % 2 = 0 then (m, e) else (2 * m, e - 1)
  let k := p + Nat.log2 m
  let q := 2 ^ (2 * k) / m
  let r := isqrt q
  (2 * r + (if r * r * m = 2 ^ (2 * k) then 0 else 1), -(e / 2) - k - 1)

/-- IEEE division (R127). -/
def Fmt.div (f : Fmt) (en : FEnv) (x y : FVal) : Nat × FFlags :=
  match x, y with
  | .nan a, y => f.nanRes (a || y.isSig)
  | _, .nan b => f.nanRes b
  | .inf _, .inf _ => f.nanRes true
  | .inf s, .fin t _ _ => (f.signed (s != t) (f.inf.getD 0), 0)
  | .fin s _ _, .inf t => (f.signed (s != t) 0, 0)
  | .fin s1 m1 e1, .fin s2 m2 e2 =>
    if m2 = 0 then
      if m1 = 0 then f.nanRes true else (f.signed (s1 != s2) (f.inf.getD 0), fDZ)
    else
      let (m, e) := divSticky (f.mb + 4) m1 e1 m2 e2
      f.result en.rm en.ftz (s1 != s2) m e

/-- The reciprocal (Table 5.7): 1 ÷ x. -/
def Fmt.rcp (f : Fmt) (en : FEnv) (x : FVal) : Nat × FFlags := f.div en (.fin false 1 0) x

/-- The square root (Table 5.7). -/
def Fmt.sqrt (f : Fmt) (en : FEnv) : FVal → Nat × FFlags
  | .nan a => f.nanRes a
  | .inf s => if s then f.nanRes true else (f.inf.getD 0, 0)
  | .fin s m e =>
    if m = 0 then (f.signed s 0, 0)
    else if s then f.nanRes true
    else
      let (m, e) := sqrtSticky (f.mb + 4) m e
      f.result en.rm en.ftz false m e

/-- The reciprocal square root (Table 5.7). -/
def Fmt.rsq (f : Fmt) (en : FEnv) : FVal → Nat × FFlags
  | .nan a => f.nanRes a
  | .inf s => if s then f.nanRes true else (0, 0)
  | .fin s m e =>
    if m = 0 then (f.signed s (f.inf.getD 0), fDZ)
    else if s then f.nanRes true
    else
      let (m, e) := rsqrtSticky (f.mb + 6) m e
      f.result en.rm en.ftz false m e

/-- A value rounded to an integer in a mode: magnitude and inexactness. -/
def finToInt (rm : RM) (s : Bool) (m : Nat) (e : Int) : Nat × Bool := rshift rm s m (-e)

/-- roundToIntegral with a fixed mode (R127): no flag but NV for a signalling NaN; a zero keeps its sign. -/
def Fmt.toIntegral (f : Fmt) (rm : RM) : FVal → Nat × FFlags
  | .nan a => f.nanRes a
  | .inf s => (f.signed s (f.inf.getD 0), 0)
  | .fin s m e =>
    if 0 ≤ e then (f.signed s (f.round .rz s m e).code, 0)
    else (f.signed s (f.round .rz s (finToInt rm s m e).1 0).code, 0)

/-- The condition of a floating compare and whether NV is raised (Table 5.8). -/
def fcompare (un lt le gt ge eqq ne : Bool) (x y : FVal) (anyNanNV : Bool) : Bool × FFlags :=
  let nan := x.isNan || y.isNan
  let sig := x.isSig || y.isSig
  let r :=
    if un then nan
    else if ne then nan || !x.eq y
    else if nan then false
    else (lt && x.lt y) || (le && !y.lt x) || (gt && y.lt x) || (ge && !x.lt y) || (eqq && x.eq y)
  (r, if sig || (anyNanNV && nan) then fNV else 0)

/-- A value widened or narrowed from one of another format without rounding rules of its own: NaN becomes the
canonical NaN with NV if it signalled (R102). -/
def Fmt.convert (f : Fmt) (rm : RM) (x : FVal) : Nat × FFlags :=
  match x with
  | .nan a => f.nanRes a
  | .inf s => (f.signed s (f.inf.getD 0), 0)
  | .fin s m e => f.result rm false s m e

/-- `narrow` of R102, with saturation. -/
def Fmt.narrow (f : Fmt) (rm : RM) (sat : Bool) (x : FVal) : Nat × FFlags :=
  match x with
  | .nan a => f.nanRes a
  | .inf s => if sat then (f.signed s f.maxc, fNX) else (f.signed s (f.inf.getD 0), 0)
  | .fin s m e =>
    let r := f.round rm s m e
    if f.maxc < r.code then
      if sat then (f.signed s f.maxc, fNX) else (f.signed s (f.overflow rm s), fOF ||| fNX)
    else (f.signed s r.code, (if r.ix then fNX else 0) ||| (if r.ix && r.tiny then fUF else 0))

/-- `to_int` of R102: 32-bit result and flags. -/
def fToInt (rm : RM) (u : Bool) (x : FVal) : Word × FFlags :=
  let lo : Int := if u then 0 else -2147483648
  let hi : Int := if u then 4294967295 else 2147483647
  match x with
  | .nan _ => (0, fNV)
  | .inf s => (BitVec.ofInt 32 (if s then lo else hi), fNV)
  | .fin s m e =>
    let (q, ix) := finToInt rm s m e
    let n : Int := if s then -(q : Int) else q
    if n < lo then (BitVec.ofInt 32 lo, fNV)
    else if hi < n then (BitVec.ofInt 32 hi, fNV)
    else (BitVec.ofInt 32 n, if ix then fNX else 0)

/-- An integer as an exact value. -/
def intVal (n : Int) : FVal := .fin (n < 0) n.natAbs 0

end Sys2Proof.Machine
end

