-- ==== Sys2Proof/Machine/FpFun.lean ====
section
/-!
DEFINITION. The correctly rounded special functions of major 0x13 (R123): FEX2, FLG2, FSIN, FCOS, FTANH.

Each value that is not exact is transcendental, so it never lies on a rounding boundary. It is enclosed in an interval
of fixed-point numbers with `p` fraction bits, and the result is the one both ends round to. `enclose` tries rising
precisions from a list; for FP32 arguments the first entries decide. Arguments near zero, whose function differs from
a simple value by less than any rounding step, are given to the rounding with a sticky bit.
-/

namespace Sys2Proof.Machine

/-- Σ of the terms t, t·x/1, t·x²/2, … of exp, from term k with `n` more terms; x and t have p fraction bits. -/
def expSum (p x : Nat) : Nat → Nat → Nat → Nat
  | 0, _, _ => 0
  | n + 1, k, t => t + expSum p x n (k + 1) (t * x / (2 ^ p * k))

/-- exp of x in [0, 1) with p fraction bits: a lower and an upper bound. -/
def expEnc (p lo hi : Nat) : Nat × Nat :=
  let n := p / 3 + 16
  (expSum p lo n 1 (2 ^ p), expSum p hi n 1 (2 ^ p) + 2 * n + 2)

/-- Σ x^(2k+1)/(2k+1) (alternating if `alt`), from power t with `n` more terms. -/
def oddSum (alt : Bool) (p x2 : Nat) : Nat → Nat → Int → Nat → Int
  | 0, _, _, _ => 0
  | n + 1, k, sg, t => sg * (t / (2 * k + 1) : Nat) + oddSum alt p x2 n (k + 1) (if alt then -sg else sg) (t * x2 / 2 ^ p)

/-- A bound on the error of `oddSum` in units of the last place. -/
def oddErr (n : Nat) : Int := 4 * n + 8

/-- atanh of num/den (at most 1/3) with p fraction bits: bounds. -/
def atanhEnc (p num den : Nat) : Int × Int :=
  let n := p / 3 + 8
  let x := num * 2 ^ p / den
  let a := oddSum false p (x * x / 2 ^ p) n 0 1 x
  (a - oddErr n, a + oddErr n)

/-- ln 2 with p fraction bits: bounds. -/
def ln2Enc (p : Nat) : Int × Int :=
  let (l, h) := atanhEnc p 1 3
  (2 * l, 2 * h)

/-- atan of 1/q with p fraction bits: bounds. -/
def atanInv (p q : Nat) : Int × Int :=
  let n := p / 4 + 8
  let x := 2 ^ p / q
  let a := oddSum true p (x * x / 2 ^ p) n 0 1 x
  (a - oddErr n, a + oddErr n)

/-- π ÷ 2 with p fraction bits: bounds (Machin's formula). -/
def halfPiEnc (p : Nat) : Int × Int :=
  let (a, b) := atanInv p 5
  let (c, d) := atanInv p 239
  (8 * a - 2 * d, 8 * b - 2 * c)

/-- Σ of the alternating series of sin (k = 1, t = r) or cos (k = 0, t = 1). -/
def trigSum (p r2 : Nat) : Nat → Nat → Int → Nat → Int
  | 0, _, _, _ => 0
  | n + 1, k, sg, t => sg * (t : Int) + trigSum p r2 n (k + 2) (-sg) (t * r2 / (2 ^ p * ((k + 1) * (k + 2))))

/-- sin (k = 1) or cos (k = 0) of an r in [0, 2) with p fraction bits: bounds, the argument being uncertain by d. -/
def trigEnc (p : Nat) (cos : Bool) (r : Nat) (d : Int) : Int × Int :=
  let n := p / 4 + 8
  let r2 := r * r / 2 ^ p
  let v := if cos then trigSum p r2 n 0 1 (2 ^ p) else trigSum p r2 n 1 1 r
  (v - 2 * n - 4 - d, v + 2 * n + 4 + d)

/-- The result both ends of an enclosure (lo, hi) × 2^(−p) of an inexact value round to, if they agree. -/
def encResult (f : Fmt) (en : FEnv) (p : Nat) (ex : Int) (lo hi : Int) : Option (Nat × FFlags) :=
  if lo < 0 ∧ 0 < hi then none
  else
    let s := decide (hi ≤ 0)
    let a := if s then (2 * hi - 1).natAbs else (2 * lo + 1).natAbs
    let b := if s then (2 * lo + 1).natAbs else (2 * hi - 1).natAbs
    let ra := f.result en.rm en.ftz s a (ex - p - 1)
    let rb := f.result en.rm en.ftz s b (ex - p - 1)
    if ra = rb then some ra else none

/-- The first precision of the list whose enclosure decides; the last one's lower end otherwise. -/
def enclose (f : Fmt) (en : FEnv) (g : Nat → Int × Int × Int) : List Nat → Nat × FFlags
  | [] => f.nanRes false
  | p :: ps =>
    let (ex, lo, hi) := g p
    match encResult f en p ex lo hi with
    | some r => r
    | none =>
      match ps with
      | [] => f.result en.rm en.ftz (lo < 0) (2 * lo + 1).natAbs (ex - p - 1)
      | _ => enclose f en g ps

/-- The precisions that are tried. -/
def precisions : List Nat := [96, 160, 288, 512]

/-- A value that differs from (−1)^s × m × 2^e by a non-zero amount far below any rounding step: below it in
magnitude, or above it. -/
def nearly (f : Fmt) (en : FEnv) (s : Bool) (m : Nat) (e : Int) (above : Bool) : Nat × FFlags :=
  f.result en.rm en.ftz s (if above then m * 2 ^ 80 + 1 else m * 2 ^ 80 - 1) (e - 80)

/-- m × 2^e as a fixed-point number with p fraction bits, rounded down. -/
def toFix (m : Nat) (e : Int) (p : Nat) : Nat := (rshift .rz false m (-(e + p))).1

/-- 2^x (Table 5.7). -/
def Fmt.ex2 (f : Fmt) (en : FEnv) : FVal → Nat × FFlags
  | .nan a => f.nanRes a
  | .inf s => if s then (0, 0) else (f.inf.getD 0, 0)
  | .fin s m e =>
    if m = 0 then f.result en.rm en.ftz false 1 0
    else
      let top : Int := e + Nat.log2 m
      if top < -60 then nearly f en false 1 0 (!s)
      else if 20 ≤ top then
        if s then f.result en.rm en.ftz false 1 (-1000000) else f.result en.rm en.ftz false 1 1000000
      else
        let one : Nat := 2 ^ (-e).toNat
        let v : Int := if s then -((m * 2 ^ e.toNat : Nat) : Int) else (m * 2 ^ e.toNat : Nat)
        let n := v / (one : Int)
        let fr := (v - n * one).toNat
        if fr = 0 then f.result en.rm en.ftz false 1 n
        else
          enclose f en (fun p =>
            let (l, h) := ln2Enc p
            let ylo := fr * l.toNat / one
            let yhi := fr * h.toNat / one + 1
            let (a, b) := expEnc p ylo yhi
            (n, (a : Int), (b : Int))) precisions

/-- log2 x (Table 5.7). -/
def Fmt.lg2 (f : Fmt) (en : FEnv) : FVal → Nat × FFlags
  | .nan a => f.nanRes a
  | .inf s => if s then f.nanRes true else (f.inf.getD 0, 0)
  | .fin s m e =>
    if m = 0 then (f.signed true (f.inf.getD 0), fDZ)
    else if s then f.nanRes true
    else
      let k := Nat.log2 m
      let ex : Int := e + k
      if m = 2 ^ k then f.result en.rm en.ftz (ex < 0) ex.natAbs 0
      else
        enclose f en (fun p =>
          let (l, h) := ln2Enc p
          let (a, b) := atanhEnc p (m - 2 ^ k) (m + 2 ^ k)
          let q := (2 : Int) ^ p
          (0, ex * q + 2 * a * q / h - 1, ex * q + 2 * b * q / l + 1)) precisions

/-- sin x and cos x of an argument in radians, reduced exactly (Table 5.7). -/
def Fmt.trig (f : Fmt) (en : FEnv) (cos : Bool) : FVal → Nat × FFlags
  | .nan a => f.nanRes a
  | .inf _ => f.nanRes true
  | .fin s m e =>
    if m = 0 then (if cos then f.result en.rm en.ftz false 1 0 else (f.signed s 0, 0))
    else
      let top : Int := e + Nat.log2 m
      if top < -40 then (if cos then nearly f en false 1 0 false else nearly f en s m e false)
      else
        enclose f en (fun p =>
          let g := p + 160
          let x := toFix m e g
          let (hl, _) := halfPiEnc g
          let q := x / hl.toNat
          let r := ((x - q * hl.toNat) / 2 ^ 160 : Nat)
          let c := if q % 2 = 0 then cos else !cos
          let neg := if cos then (q % 4 = 1 || q % 4 = 2) else ((q % 4 = 2 || q % 4 = 3) != s)
          let (a, b) := trigEnc p c r 4
          if neg then (0, -b, -a) else (0, a, b)) precisions

/-- tanh x (Table 5.7). -/
def Fmt.tanh (f : Fmt) (en : FEnv) : FVal → Nat × FFlags
  | .nan a => f.nanRes a
  | .inf s => f.result en.rm en.ftz s 1 0
  | .fin s m e =>
    if m = 0 then (f.signed s 0, 0)
    else
      let top : Int := e + Nat.log2 m
      if top < -40 then nearly f en s m e false
      else if 6 ≤ top then nearly f en s 1 0 false
      else
        -- (1 − u) ÷ (1 + u) with u = exp(−2x) = 2^(−n) × exp(−g), 2x = n ln 2 + g
        enclose f en (fun p =>
          let q := p + 128
          let (l, h) := ln2Enc q
          let y := 2 * toFix m e q
          let n := y / l.toNat
          let g := y - n * l.toNat
          let d := (n + 1) * (h - l).toNat + 2
          -- exp of g − d and g + d, g below ln 2 plus a little
          let (a, _) := expEnc q (g - d) (g - d)
          let (_, b) := expEnc q (g + d) (g + d)
          let one := 2 ^ (2 * q)
          -- u between uLo and uHi with q fraction bits
          let uLo := one / b / 2 ^ n
          let uHi := one / a / 2 ^ n + 2
          let w := 2 ^ q
          let lo : Int := ((w - uHi) * 2 ^ p / (w + uHi) : Nat)
          let hi : Int := ((w - uLo) * 2 ^ p / (w + uLo) + 1 : Nat)
          if s then (0, -hi, -lo) else (0, lo, hi)) precisions

end Sys2Proof.Machine
end

