-- ==== Sys2Proof/Config.lean ====
section
/-!
DEFINITION. What an implementation fixes and the spec leaves open: constants without a body.

Nothing can evaluate them or prove a value of them, so a statement holds whatever they are. Each is named in a log
entry. A free value is one of these applied to the operands it depends on or to a counter of the state.
-/

namespace Sys2Proof.Config

/-- Clocks that pass in one step of the model, from the count of steps taken (R112: results never depend on it). -/
opaque clockGap : Nat → Nat

/-- How far a die's CLOCK runs ahead of the slowest die's: 0 to 4 (R33). -/
opaque clockSkew : Nat → Fin 5

/-- What byte an access to another package's memory reads: from the count of steps, the window and the address. -/
opaque remoteByte : Nat → Nat → Nat → Byte

/-- Whether a sector read from another package's memory comes back poisoned, and whether another agent has written a byte
since this package did: from the count of steps, the window and the sector or byte address. -/
opaque remotePoison : Nat → Nat → Nat → Bool
opaque remoteRewritten : Nat → Nat → Nat → Bool

/-- The hash of a line, PA[49:8], over a number of cache banks (R173, R205), and the set of its bank a line lies in (R173). -/
opaque bankHash : Nat → Nat → Nat
opaque bankSet : Nat → Nat

/-- How another package answers an access (R180, R335), from the count of steps, the window and the address: 0 done,
1 a retryable fault, 2 a terminal fault, 3 no answer within the time-out. -/
opaque remoteAnswer : Nat → Nat → Nat → Fin 4

/-- The rate image byte of a region where the image cannot be read when the region is rasterised (R350), from the count of
steps and the address. -/
opaque lostRate : Nat → Nat → Byte

/-- How far a matrix operation was when it had to stop (R299): from the operation's number. -/
opaque stopStep : Nat → Nat

/-- The BATCHID that a pixel tray starts with (R35, R353), which belongs to no launch: from the batch's number. -/
opaque pixelBatchId : Nat → BitVec 64

/-- A register result of the march sampler that the spec does not state: an infinite origin or direction, or an infinite
value of weight zero (R377, R379). From the count of steps, the thread and the register. -/
opaque samplerOpen : Nat → Nat → Nat → BitVec 32

/-- The threads of a loaded tray that no mask of its image names: whether each is live (R402, R410), from the package's
count of steps and the tray's place in the image. -/
opaque loadedLive : Nat → Nat → BitVec 96

/-- The package serial, from fuses (R413, R427). -/
opaque serial : List Byte

/-- The part number and the fuse revision (R419, Table 18.1). -/
opaque part : Nat
opaque fuseRev : Nat

/-- The package's signature of bytes, with the identity key of a generation: r then s, 96 bytes (R413, R427). -/
opaque sign : Nat → List Byte → List Byte

/-- The public part of the identity key of a generation (R427). -/
opaque publicKey : Nat → List Byte

/-- The unwrapping of a key blob by AES key wrap under the package wrapping key (R414): the 64 bytes of the key pair as a
number, or nothing where the check fails. -/
opaque unwrapKey : List Byte → Option Nat

/-- The key generated for the root at S1 (R414), from the count of steps. -/
opaque rootKey : Nat → Nat

/-- The firmware image in on-package flash as the package left the factory (R423). -/
opaque bootFirmware : List Byte

/-- Whether an image's signature verifies under the fused firmware key, its security version, and the fused minimum
(R425). -/
opaque firmwareSigned : List Byte → Bool
opaque firmwareVersion : List Byte → Nat
opaque firmwareMin : Nat

/-- What ATTEST reports as digest and security version where no firmware runs (R427). -/
opaque noFirmware : List Byte × Nat

/-- A die's temperature in degrees, and the package's power in watts, from the count of steps (Table 18.1). -/
opaque temperature : Nat → Nat → Nat
opaque power : Nat → Nat

/-- A field of an event record to which its type gives no content (Table 18.4), from the count of steps and the field's
first byte. -/
opaque eventField : Nat → Nat → Nat

end Sys2Proof.Config
end

