-- ==== Sys2Proof/Machine/Maps.lean ====
section
/-!
DEFINITION. Finite maps as plain lists of key and value pairs.

`KMap` holds records under numbers; `SMap` is a sparse map of bit vectors in which an unlisted key reads as zero, kept
in one canonical form: keys strictly rising, no listed value zero. Memory, register files, scratchpads and tiles are
`SMap`s.
-/

namespace Sys2Proof.Machine

/-- A map from numbers to records, keys rising. -/
abbrev KMap (α : Type) := List (Nat × α)

/-- The record under a key. -/
def KMap.get? {α : Type} : KMap α → Nat → Option α
  | [], _ => none
  | (k', v) :: r, k => if k = k' then some v else KMap.get? r k

/-- Put a record under a key, keeping the keys in rising order. -/
def KMap.put {α : Type} : KMap α → Nat → α → KMap α
  | [], k, v => [(k, v)]
  | (k', v') :: r, k, v =>
    if k = k' then (k, v) :: r
    else if k < k' then (k, v) :: (k', v') :: r
    else (k', v') :: KMap.put r k v

/-- Remove the record under a key. -/
def KMap.del {α : Type} (m : KMap α) (k : Nat) : KMap α := m.filter fun e => e.1 != k

/-- Change the record under a key, if there is one. -/
def KMap.upd {α : Type} (m : KMap α) (k : Nat) (f : α → α) : KMap α :=
  match m.get? k with
  | some v => m.put k (f v)
  | none => m

/-- Change every record. -/
def KMap.all' {α : Type} (m : KMap α) (f : Nat → α → α) : KMap α := m.map fun e => (e.1, f e.1 e.2)

/-- The lowest number from k on that is no key, the keys rising. -/
def KMap.freeFrom {α : Type} : KMap α → Nat → Nat
  | [], k => k
  | (k', _) :: r, k => if k' < k then KMap.freeFrom r k else if k' = k then KMap.freeFrom r (k + 1) else k

/-- The lowest number from 0 to n − 1 that is no key, the keys rising. -/
def KMap.firstFree {α : Type} (m : KMap α) (n : Nat) : Option Nat :=
  let k := m.freeFrom 0
  if k < n then some k else none

/-- A sparse map of w-bit values in which an unlisted key reads as zero. -/
abbrev SMap (w : Nat) := List (Nat × BitVec w)

/-- Reading a key: zero where nothing is listed. -/
def smGet {w : Nat} (m : SMap w) (k : Nat) : BitVec w := (KMap.get? m k).getD 0

/-- Writing a key, keeping the canonical form: a zero is not listed. -/
def smSet {w : Nat} (m : SMap w) (k : Nat) (v : BitVec w) : SMap w :=
  if v = 0 then KMap.del m k else KMap.put m k v

/-- The listed entries of n keys from `lo`, one for each non-zero value of `f`. -/
def smTab {w : Nat} (lo n : Nat) (f : Nat → BitVec w) : SMap w :=
  (List.range n).filterMap fun i => if f i = 0 then none else some (lo + i, f i)

/-- Writing `f i` to the keys lo + i, i < n, at once. -/
def smFill {w : Nat} (m : SMap w) (lo n : Nat) (f : Nat → BitVec w) : SMap w :=
  (m.filter fun e => e.1 < lo) ++ smTab lo n f ++ m.filter fun e => lo + n ≤ e.1

/-- The canonical form: keys strictly rising and no listed value zero. -/
def smWf {w : Nat} : SMap w → Bool
  | [] => true
  | [(_, v)] => v != 0
  | (k, v) :: (k', v') :: r => v != 0 && k < k' && smWf ((k', v') :: r)

/-- Memory: a list of cells (address, byte) with addresses rising and no zero byte listed; an unlisted address reads as
zero, as all of memory does after S1 (R423). -/
abbrev Memory := SMap 8

/-- A memory is in its canonical form. -/
def Memory.wf (m : Memory) : Bool := smWf m

/-- n values from key `lo` upwards as one number, the lowest key least significant (R3). -/
def smNat {w : Nat} (m : SMap w) (lo : Nat) : Nat → Nat
  | 0 => 0
  | n + 1 => (smGet m lo).toNat + 2 ^ w * smNat m (lo + 1) n

/-- The first of some candidates in an order. -/
def firstBy {α : Type} (f : α → α → Bool) : List α → Option α
  | [] => none
  | a :: r =>
    match firstBy f r with
    | none => some a
    | some b => some (if f b a then b else a)

end Sys2Proof.Machine
end

