-- ==== Sys2Proof/Machine/State.lean ====
section
/-!
DEFINITION. The state of a JA4-768 package, as plain data (R8, R24, and the state each engine's chapter gives).
-/

namespace Sys2Proof.Machine

/-- The causes of Table 17.8. -/
inductive Cause where
  | illegal | badtarget | cap | align | page | prot | vgone | vpool | poison | copyerr | remote | timeout | linkdown
  | fpinv | fpdiv0 | fpovf | pxnan | regovf | divdepth | gang | ring | quota | sliceend | revoke | trapi | sysc | watch
  | halted | scratch | nacklim
  deriving DecidableEq, Repr

/-- The bit of a cause in CAUSEHI:CAUSELO (Table 17.8). -/
def Cause.bit : Cause → Nat
  | .illegal => 0 | .badtarget => 1 | .cap => 2 | .align => 3 | .page => 4 | .prot => 5 | .vgone => 6 | .vpool => 7
  | .poison => 8 | .copyerr => 9 | .remote => 10 | .timeout => 11 | .linkdown => 12 | .fpinv => 13 | .fpdiv0 => 14
  | .fpovf => 15 | .pxnan => 16 | .regovf => 17 | .divdepth => 18 | .gang => 19 | .ring => 20 | .quota => 21
  | .sliceend => 22 | .revoke => 23 | .trapi => 24 | .sysc => 25 | .watch => 26 | .halted => 27 | .scratch => 28
  | .nacklim => 29

/-- The fault kinds of Table 9.5. -/
inductive FaultKind where
  | notpresent | migrating | poolempty | remoteretry | noncanon | badentry | perm | key | nomem | ancestorvers
  | tablepoison | parktimeout | nacklim
  /-- a copy-on-write of the page is in progress (R246): parks without a record -/
  | cow
  /-- another package answers an engine's access with a fault, or not at all: terminal for the engine (R272, R334) -/
  | remote
  deriving DecidableEq, Repr

/-- The kind's code in a fault record (Table 9.5). -/
def FaultKind.code : FaultKind → Nat
  | .notpresent => 0 | .migrating => 1 | .poolempty => 2 | .remoteretry => 3 | .noncanon => 4 | .badentry => 5
  | .perm => 6 | .key => 7 | .nomem => 8 | .ancestorvers => 9 | .tablepoison => 10 | .parktimeout => 11 | .nacklim => 12
  | .cow => 15 | .remote => 3

/-- The four outstanding counters of a tray (R142). -/
inductive Ctr where
  | loads | stores | copies | matrix
  deriving DecidableEq, Repr

/-- An entry of a reconvergence stack (R135). -/
structure StackEntry where
  f : Mask
  p : Mask
  ppc : Pc
  j : Option Pc
  merge : Bool
  deriving DecidableEq, Repr

/-- Where a path slot stands with a cross-lane word (R154): it waits at one for the other slot, may perform one with its
own participants alone, or the other slot has performed one for it. -/
inductive Cross where
  | no
  | waits (pc : Pc)
  | alone (pc : Pc)
  | done (pc : Pc)
  deriving DecidableEq, Repr

/-- What an instruction that parked has still to do when it is performed again (R160, R228): its address, its threads,
where it is counted, the number of its first pending operation and its counter (R142), and of an LDW each row's address,
which its leader's registers may no longer hold (R164). -/
structure Redo where
  pc : Pc
  mask : Mask
  grp : Option (Nat × Ctr)
  bases : KMap Nat
  deriving DecidableEq, Repr

/-- A path slot: its PC, activity mask and stack (Table 2.1), and what it waits for. -/
structure Path where
  pc : Pc
  mask : Mask
  stack : List StackEntry
  /-- waits at a JOIN with an empty stack (R136) -/
  joinWait : Bool
  cross : Cross
  redo : Option Redo
  /-- the turn that an .sc operation at an address has taken and waits for (R199, R200) -/
  turn : Option (Pc × DWord)
  /-- single-word resume: only the word at the PC issues, then the word after its chain (R44) -/
  single : Bool
  /-- its PC is a handler's first word, not yet checked as a branch target (R43) -/
  entry : Bool
  /-- the clock since which it has been a candidate without issuing (R79) -/
  since : Option DWord
  deriving DecidableEq, Repr

/-- A register write of a result: a scalar, or element `key` = register × 96 + thread of the vector file. -/
inductive RegWrite where
  | s (k : Nat) (v : Word)
  | v (key : Nat) (v : Word)
  deriving DecidableEq, Repr

/-- What a result in flight does on arrival: the instruction is a load, a store, an engine's register result, or an
engine operation that is counted but returns nothing. -/
inductive PendKind where
  | load | store | result | op
  deriving DecidableEq, Repr

/-- A sector a load brings into L1: sector number, line class and read-only mark (R163, R171). -/
structure L1Fill where
  sector : Nat
  cls : Nat
  ro : Bool
  deriving DecidableEq, Repr

/-- An issued instruction that is not complete: the scoreboard's pending registers (R31), the counter it is counted in
(R142), the values to be written once they are known, and the L1 sectors and miss-status entries it fetches. -/
structure Pend where
  id : Nat
  kind : PendKind
  path : Nat
  sdst : List Nat
  vdst : List Nat
  data : Option (List RegWrite)
  ctr : Option Ctr
  fills : List L1Fill
  entries : Nat
  /-- of a load: its word's address and the dies that answer it (R336) -/
  pc : Pc
  homes : List Nat
  /-- the number of the first pending operation of its instruction, which is counted once (R142) -/
  grp : Nat
  /-- of a store: the contexts whose ROOT it writes, which completes only when no access by the old tables is left (R213) -/
  roots : List Nat
  deriving DecidableEq, Repr

/-- Why a tray is parked: fault kind, the context and leaf that faulted, and the token's park number with the core and
tray slot it names (R228–R230). -/
structure Park where
  num : Nat
  home : Nat
  kind : FaultKind
  fctx : Nat
  leaf : Nat
  path : Nat
  wr : Bool
  addr : Nat
  fetch : Bool
  deriving DecidableEq, Repr

/-- A gang-wide word with every scalar value it reads (R278); B codes as the word has them. -/
inductive GangWord where
  | gang (d : Nat) (b : SB) (v : Word)
  /-- MMA, or MDIST with `dist` -/
  | mma (dist : Bool) (t a : Nat) (b : SB) (ctl : Word) (descA descB : DWord)
  | mtopk (t src k : Nat) (base sel : Word)
  | mfence (d : Nat)
  deriving DecidableEq, Repr

/-- A member at the latch of the gang or range FIRST, N (R278): its rank, its word, where the word stands and where the
tray goes on, the results its arrival made pending, and the block registers it supplies (R284), by
(16 × operand + block register) × 96 + thread. -/
structure Arrival where
  first : Nat
  n : Nat
  rank : Nat
  word : GangWord
  pc : Pc
  cont : Pc
  pends : List Nat
  regs : SMap 32
  deriving DecidableEq, Repr

/-- What keeps a tray from issuing, where the tray has left the issue pool (R79). -/
inductive Wait where
  | run
  | bar
  | cbar
  /-- YIELD: condition, its parameters, continuation, and the register an RWAIT.y writes at the wake (R144, R269) -/
  | yield (cond : Nat) (p0 p1 : Word) (cont : Pc) (dst : Option Nat)
  | park (p : Park)
  /-- REGGROW to n registers, the order of its request, and where it goes on (R149) -/
  | grow (n ord : Nat) (cont : Pc)
  /-- parked by a reflection: its token, and the X of the SYS that made it (R400, R405) -/
  | reflected (token : Nat) (x : Option Nat)
  /-- parked at a word by TREFL until resumed: its token (R406) -/
  | treflWait (token : Nat)
  /-- at the gang latch (R278) -/
  | latch (a : Arrival)
  /-- the live mask is zero; waits for its results (R139) -/
  | ended
  deriving DecidableEq, Repr

/-- Why a tray must leave its core (R407, R412, R408, R86, R78). -/
inductive Depart where
  | slice | revoke (no : Nat) | halt | cancel | evict
  deriving DecidableEq, Repr

/-- A trap found by a word of the current group, delivered when the group ends: causes, EPC and S (R44). -/
structure Trap where
  causes : List Cause
  epc : Pc
  s : Bool
  path : Nat
  /-- the register X of the TRAP or SYS that raised it -/
  x : Option Nat
  deriving DecidableEq, Repr

/-- A triangle that a home front has accepted (R345, R348): sequence number, stream, x and y of its vertices in 1/256
pixel, z and rhw, whether it is front-facing (its vertices 1 and 2 exchanged if not), its rate, and its attributes,
attribute j of vertex i at 3j + i. -/
structure RPrim where
  seq : Nat
  stream : Nat
  xs : List Int
  ys : List Int
  zs : List Word
  rhws : List Word
  front : Bool
  rate : Nat
  attrs : List Word
  deriving DecidableEq, Repr

/-- A coarse quad (R351): its primitive, its top-left fine pixel, the size of its coarse pixels, and the coverage of each
of the four. -/
structure Quad where
  seq : Nat
  x : Nat
  y : Nat
  w : Nat
  h : Nat
  cover : List (BitVec 16)
  deriving DecidableEq, Repr

/-- The pixel of a pixel tray's thread (R353, R354): primitive, top-left fine pixel, size and coverage of the coarse pixel,
and whether the thread still holds its shares and has no export in flight. -/
structure PixThread where
  seq : Nat
  x : Nat
  y : Nat
  w : Nat
  h : Nat
  cover : BitVec 16
  holds : Bool
  deriving DecidableEq, Repr

/-- What makes a tray a pixel tray (R353): its pass and tile, its primitives, and each thread's pixel. -/
structure PixTray where
  pass : Nat
  tile : Nat
  prims : KMap RPrim
  threads : KMap PixThread
  deriving DecidableEq, Repr

/-- A tray (Table 2.1, Table 2.3), resident or saved. -/
structure Tray where
  ctx : Nat
  batch : Nat
  idx : Nat
  batchId : DWord
  clusterId : Word
  launchId : Word
  dual : Bool
  launch : Mask
  live : Mask
  n : Nat
  vwin : Nat
  p0 : Path
  p1 : Option Path
  sregs : SMap 32
  vregs : SMap 32
  fpctl : BitVec 7
  fpstat : BitVec 5
  /-- flags the words of the chain in progress have merged (R98) -/
  chainFl : BitVec 5
  cause : BitVec 64
  epc : DWord
  gangsel : Word
  /-- the number of its gang's last closed matrix batch (R295) -/
  gbatch : Word
  loads : Nat
  stores : Nat
  copies : Nat
  matrix : Nat
  seq : BitVec 14
  pend : List Pend
  nextPend : Nat
  /-- causes of completed operations, raised at the next wait that observes their counter (R143) -/
  obs : List (Ctr × Cause)
  /-- an operation issued on another core wrote global memory and completed: its join invalidates L1 (R204) -/
  stale : Bool
  wait : Wait
  traps : List Trap
  /-- marked departing: SLICEEND, REVOKE or HALTED was delivered to its handler (R407, R412) -/
  departing : Option Depart
  /-- has left the issue pool to be saved or ended -/
  leave : Option Depart
  /-- the path slot that took the cause being handled (R405) -/
  hslot : Nat
  /-- causes kept in its image are delivered when it resumes (R405) -/
  redeliver : Bool
  /-- the word of the current group that parked: whether it is chained, and what is still to do (R44, R228) -/
  resumeAt : Option (Bool × Redo)
  /-- the word it starts at, until a word has issued from it (R43) -/
  entryWord : Option Pc
  /-- an asynchronous cause to set at the next issue group (R405) -/
  async : List Cause
  /-- WATCH to raise at the next word (R416) -/
  watch : Bool
  /-- the pending number of the VSTEP that holds its memory pipe (R253) -/
  vhold : Option Nat
  /-- it left by TRET, its bitmap zero (R406, R409) -/
  tret : Bool
  /-- it left at the end of its budget or by a halt (R407–R409) -/
  forced : Bool
  prio : Nat
  age : Nat
  pix : Option PixTray
  deriving DecidableEq, Repr

/-- An accumulator tile taken by a gang of a batch (R275, R277): its elements by 32 × row + column, and its poison flag. -/
structure Tile where
  batch : Nat
  data : SMap 32
  poison : Bool
  deriving DecidableEq, Repr

/-- A line of a core's L1 (R171): its class (0 evict-first, 1 default or .ro, 2 evict-last), when it was last used, and
its sectors present, each with its 64 bytes and its read-only mark. -/
structure L1Line where
  cls : Nat
  used : Nat
  sectors : KMap (BitVec 512 × Bool)
  deriving DecidableEq, Repr

/-- A composed translation of an address (R221): the physical address, the smallest page on the path, what every level
permits, ordering kind, key slot, and of the context's own leaf: its physical address (0 for the sheet), whether it is
versioned, its frame and its chain number. `levels` lists each level's context and the physical address of its stamp
word (R222), the issuing level first. -/
structure Xl where
  pa : Nat
  size : Nat
  r : Bool
  w : Bool
  x : Bool
  ord : Nat
  key : Nat
  leaf : Nat
  vers : Bool
  frame : Nat
  chain : Nat
  levels : List (Nat × Nat)
  deriving DecidableEq, Repr

/-- A composed translation held by a core's TLB (R223): its context and GEN at fill, the page's first address, the
translation of that address, the stamp-current bit, and of an entry that serves LDV the versions it serves: the first, and
the first it does not (R243). -/
structure TlbEntry where
  ctx : Nat
  gen : BitVec 16
  page : Nat
  xl : Xl
  stamped : Bool
  range : Option (Word × Option Word)
  deriving DecidableEq, Repr

/-- The operation tag of an engine command (Table 1.3). -/
structure Tag where
  ctx : Nat
  gen : BitVec 16
  core : Nat
  tray : Nat
  prio : Nat
  eng : Nat
  seq : BitVec 14
  step : Word
  ver : Word
  deriving DecidableEq, Repr

/-- The states of a context (Table 17.3). -/
inductive CtxState where
  | free | new | running | stopping | stopped | halting | halted | revoking
  deriving DecidableEq, Repr

/-- The code of a context state (Table 17.3). -/
def CtxState.code : CtxState → Nat
  | .free => 0 | .new => 1 | .running => 2 | .stopping => 3 | .stopped => 4 | .halting => 5 | .halted => 6
  | .revoking => 7

/-- Units of Table 17.5 as bitmaps; `ways` gives the 16-bit way mask of each cache bank. -/
structure Units where
  groups : BitVec 128
  banks : BitVec 128
  ways : SMap 16
  channels : BitVec 384
  copy : BitVec 16
  ual : BitVec 16
  raster : BitVec 4
  stack : BitVec 12
  queues : BitVec 1024
  counters : BitVec 4096
  regions : BitVec 256
  deriving DecidableEq, Repr

/-- No unit. -/
def Units.none : Units := ⟨0, 0, [], 0, 0, 0, 0, 0, 0, 0, 0⟩

/-- A slice descriptor of the snapshot engines (Table 10.3). -/
structure Slice where
  start : Nat
  len : Nat
  ver : Word
  refs : Nat
  pins : Nat
  time : DWord
  deriving DecidableEq, Repr

/-- A monitor of ALOG (Table 17.14). -/
structure Monitor where
  target : Nat
  start : Nat
  len : Nat
  rlog : Nat
  ring : Nat
  kinds : BitVec 6
  trip : Bool
  deriving DecidableEq, Repr

/-- A revocation (R412): the units that came back, from which context, whether complete and whether scrubbed. -/
structure Revocation where
  child : Nat
  whole : Bool
  units : Units
  keys : List Nat
  complete : Bool
  scrubbed : Bool
  deriving DecidableEq, Repr

/-- What the launch engine keeps of a continuation record in a context's pool (R71, R72), whose 32 bytes lie in memory:
its generation, owning launch, whether its batch is ready or has started, and whether it is cancelled. -/
structure Cont where
  gen : BitVec 12
  lslot : Nat
  started : Bool
  cancelled : Bool
  deriving DecidableEq, Repr

/-- A unit that is stopping a context's work (R408, R409): engine class and unit, reason, revocation number, whether it
has begun, and for a core what its record counts. -/
structure StopWait where
  cls : Nat
  unit : Nat
  reason : Nat
  revno : Nat
  begun : Bool
  discarded : Nat
  forced : Nat
  tret : Nat
  stopped : Nat
  deriving DecidableEq, Repr

/-- A context: the fields of its TCB (Table 9.1), SCB (Table 10.2) and status block (Table 17.2), the units it holds,
its STEP and memory counters, and what its engines keep for it. -/
structure Ctx where
  st : CtxState
  parent : Nat
  depth : Nat
  pmode : Nat
  -- TCB
  root : BitVec 52
  sbase : BitVec 52
  slimit : BitVec 52
  soff : DWord
  csoff : DWord
  sstamp : BitVec 52
  chainbase : BitVec 52
  rlog : BitVec 4
  rring : BitVec 52
  tlog : BitVec 4
  tring : BitVec 52
  plog : BitVec 4
  pring : BitVec 52
  parkto : Word
  invaddr : BitVec 52
  invseq : Word
  invlen : Word
  invdone : Word
  diemask : BitVec 4
  seed : BitVec 12
  skey : BitVec 12
  gen : BitVec 16
  /-- invalidations started or queued and not complete: number, start, length (R224) -/
  invq : List (Word × BitVec 52 × Word)
  -- SCB
  spool : BitVec 52
  scnt : Word
  scap : Word
  lpool : BitVec 52
  lcnt : Word
  lcap : Word
  dacc : Word
  dref : Word
  chainto : Word
  scrubret : Bool
  eager : Bool
  sllog : BitVec 4
  slbase : BitVec 52
  cowcnt : DWord
  retcnt : DWord
  -- status block
  hmask : DWord
  handler : Pc
  haltmask : DWord
  slog : BitVec 4
  sring : BitVec 52
  quantum : Word
  slicebud : Word
  entq : BitVec 14
  uaq : BitVec 16
  bww : BitVec 16
  pjob : BitVec 16
  childmax : BitVec 16
  keymax : BitVec 16
  frameq : Word
  savebase : BitVec 52
  savesz : Word
  pooln : Word
  poolbase : BitVec 52
  nrevoke : Word
  -- the rest
  own : Units
  step : Word
  counters : SMap 64
  slices : KMap Slice
  sliceGen : SMap 16
  /-- slots marked for retirement, oldest first: chain number and frame (R249), and the chains of 2 MiB pages among them -/
  marked : List (Nat × Nat)
  /-- frames of abandoned copies that wait for room on their stack: size and frame (R257) -/
  toPush : List (Nat × Nat)
  sizes : List Nat
  /-- frames donated that are on its stacks or in its chains, by address, with their 64 KiB units (R393) -/
  frames : KMap Nat
  conts : KMap Cont
  contGen : SMap 12
  monitors : KMap Monitor
  revs : KMap Revocation
  /-- entered STOPPING with an ancestor while RUNNING (R390) -/
  follow : Bool
  /-- the number of the revocation in progress on it, or 0 (R403) -/
  revoking : Word
  /-- units still stopping its work (R408, R412) -/
  stops : List StopWait
  /-- its slice ended at the end of its QUANTUM (R401) -/
  quantumEnd : Bool
  /-- the UALink port that its next unit takes, in rotation (R311) -/
  uaNext : Nat
  /-- the version of its last SNAP (R246) -/
  lastSnap : Option Word
  /-- core groups that take no batch of it while a revocation, grant or scrub waits for them (R77, R392, R412) -/
  noPlace : BitVec 128
  parkNo : Nat
  deriving DecidableEq, Repr

/-- A context number in use for nothing; also a new context before its grants (R389, R398). -/
def Ctx.blank : Ctx where
  st := .free
  parent := 0
  depth := 0
  pmode := 0
  root := 0
  sbase := 0
  slimit := 0
  soff := 0
  csoff := 0
  sstamp := 0
  chainbase := 0
  rlog := 0
  rring := 0
  tlog := 0
  tring := 0
  plog := 0
  pring := 0
  parkto := 0
  invaddr := 0
  invseq := 0
  invlen := 0
  invdone := 0
  diemask := 0
  seed := 0
  skey := 0
  gen := 0
  invq := []
  spool := 0
  scnt := 0
  scap := 0
  lpool := 0
  lcnt := 0
  lcap := 0
  dacc := 0
  dref := 0
  chainto := 100
  scrubret := false
  eager := false
  sllog := 0
  slbase := 0
  cowcnt := 0
  retcnt := 0
  hmask := 0
  handler := 0
  haltmask := 0x200011B0
  slog := 15
  sring := 0
  quantum := 0
  slicebud := 20000
  entq := 0
  uaq := 0
  bww := 0
  pjob := 0
  childmax := 0
  keymax := 0
  frameq := 0
  savebase := 0
  savesz := 0
  pooln := 0
  poolbase := 0
  nrevoke := 0
  own := Units.none
  step := 0
  counters := []
  slices := []
  sliceGen := []
  marked := []
  toPush := []
  sizes := []
  frames := []
  conts := []
  contGen := []
  monitors := []
  revs := []
  follow := false
  revoking := 0
  stops := []
  quantumEnd := false
  uaNext := 0
  lastSnap := none
  noPlace := 0
  parkNo := 0

/-- A launch queue's control block (Table 3.2). -/
structure Qcb where
  slotlog : BitVec 5
  base : BitVec 52
  widx : Word
  ridx : Word
  err : BitVec 8
  qstate : BitVec 2
  pcap : BitVec 2
  en : Bool
  /-- stopped at a record that is not yet visible, until the next write to WIDX (R67) -/
  waiting : Bool
  deriving DecidableEq, Repr

/-- A QCB of zeros. -/
def Qcb.zero : Qcb := ⟨0, 0, 0, 0, 0, 0, 0, false, false⟩

/-- A launch-table entry: the fields of its record (Table 3.3) and its counting state (R73, R87). -/
structure Launch where
  ctx : Nat
  gen : BitVec 16
  code : BitVec 48
  clsc : Nat
  traysc : Nat
  regsc : Nat
  ninp : Nat
  agg : Bool
  dual : Bool
  coop : Bool
  prio : Nat
  scrsz : Nat
  nbatch : Nat
  event : Nat
  job : Nat
  phase : Nat
  graph : Nat
  ccaddr : Nat
  inptr : Nat
  ind : Nat
  indlog : Nat
  /-- its declared inputs as they were read at acceptance: address, offset, length and stride (R69) -/
  inputs : List (Nat × Nat × Nat × Nat)
  /-- next entry of its indirection area, and the entry of its parent's area it holds until it completes (R83) -/
  indNext : Nat
  indHeld : Option Nat
  consts : List Word
  parent : Option Nat
  depth : Nat
  /-- position of its queue among those its context holds, for R236 -/
  qpos : Nat
  count : Nat
  /-- batches expanded so far -/
  expanded : Nat
  underflow : Bool
  rejected : Bool
  misdir : Bool
  cancelled : Bool
  complete : Bool
  /-- the merge window it waits in (R83) -/
  window : Option Nat
  /-- order of acceptance (R65) -/
  order : Nat
  deriving DecidableEq, Repr

/-- An entry of the hierarchy table (R74): level 1 graph, 2 phase, 3 job. -/
structure HEntry where
  ctx : Nat
  level : Nat
  ident : Nat
  count : Nat
  closed : Bool
  cancelled : Bool
  complete : Bool
  underflow : Bool
  rejected : Bool
  misdir : Bool
  /-- the level above it counts in: (level, identifier), or (0, 0) -/
  up : Nat × Nat
  order : Nat
  deriving DecidableEq, Repr

/-- A merge window of the launch aggregator (R83): the parents' launch, its children in acceptance order, and the batches
of its grid so far. -/
structure Window where
  parent : Nat
  kids : List Nat
  total : Nat
  deriving DecidableEq, Repr

/-- A batch, from its record's readiness to its completion (Table 3.4, R35). -/
structure Batch where
  ctx : Nat
  lslot : Nat
  cluster : Nat
  cont : Option Nat
  code : BitVec 48
  frame : BitVec 48
  prio : Nat
  dual : Bool
  trays : Nat
  regs : Nat
  batchId : DWord
  core : Option Nat
  started : Bool
  /-- declared inputs still to land, and whether one failed (R69) -/
  inputs : Nat
  inErr : Bool
  age : Nat
  /-- trays of a saved image, in TRAYID order (R410) -/
  image : KMap Tray
  /-- tiles saved with the batch (R298) -/
  tiles : KMap Tile
  /-- its image is in the save area at this offset, with this many bytes (R410) -/
  saved : Option (Nat × Nat)
  /-- where each tray's image lies in it -/
  offs : KMap Nat
  /-- placed again, its image not yet restored -/
  loading : Bool
  pixel : Bool
  deriving DecidableEq, Repr

/-- A cluster: its batches and its scratchpad region (R64, R165). -/
structure Cluster where
  ctx : Nat
  lslot : Nat
  clusterId : Word
  die : Option Nat
  prio : Nat
  coop : Bool
  batches : List Nat
  size : Nat
  scr : SMap 8
  /-- poisoned 64-byte sectors of the region -/
  poison : SMap 1
  /-- ring slots whose copy has completed and that FPTR has not passed: header and sequence number (R268) -/
  filled : List (Nat × Word)
  /-- its region has been saved and holds no scratchpad (R407) -/
  saved : Bool
  /-- where the save area holds it: offset and size -/
  area : Option (Nat × Nat)
  deriving DecidableEq, Repr

/-- A region descriptor (R234): MODE 0 none, 1 hashed, 2 direct. -/
structure Region where
  mode : Nat
  seed : BitVec 12
  chans : BitVec 384
  deriving DecidableEq, Repr

/-- The states of a line in a die's cache (Table 8.5). -/
inductive CopyState where
  | m | o | e | s | u | i
  deriving DecidableEq, Repr

/-- A line in one die's cache: state, owning context, replacement priority (0 evict-first, 1 normal, 2 evict-last), for U
the tag and the partial's touched elements by their byte offset in the line (R206), the bank and the way that hold it and
when its owner last touched it (R173, R175), and its sectors that were prefetched and not yet used (R177). -/
structure DieCopy where
  st : CopyState
  owner : Nat
  prio : Nat
  op : Nat
  w : Nat
  part : KMap DWord
  bank : Nat
  way : Nat
  used : Nat
  prefetched : BitVec 4
  deriving DecidableEq, Repr

/-- A stream of a cache bank's prefetcher (R176): its context, whether it rises, the lines of its latest demand access and
of its latest prefetch, when that demand access was, and the first and last line of the page. -/
structure Stream where
  ctx : Nat
  up : Bool
  last : Nat
  far : Nat
  used : Nat
  lo : Nat
  hi : Nat
  deriving DecidableEq, Repr

/-- A cache bank's prefetcher (R176): its streams, and the last demand misses of each context, the latest first. -/
structure Prefetcher where
  streams : List Stream
  misses : KMap (List Nat)
  deriving DecidableEq, Repr

/-- The directory entry of a line: the copies by die. -/
abbrev Line := KMap DieCopy

/-- A copy between global memory and a cluster's scratchpad (R260): its direction, global address, cluster, offset,
length, bytes done, the ring slot it fills, and the batch whose declared input it is (R273). -/
structure CopyOp where
  toSpad : Bool
  g : Nat
  cluster : Nat
  off : Nat
  len : Nat
  done : Nat
  ring : Option (Nat × Word)
  input : Option Nat
  deriving DecidableEq, Repr

/-- A member of a shared-fetch group (R262, R263): what it copies, its launch, tag, size n and rank, the number of its group
once that has assembled, how far its part is, and whether a unit of it faulted. -/
structure MemberOp where
  g : Nat
  cluster : Nat
  off : Nat
  len : Nat
  launch : Word
  tag : Nat
  n : Nat
  rank : Nat
  group : Option Nat
  done : Nat
  fin : Bool
  err : Bool
  deriving DecidableEq, Repr

/-- A page migration (R238): the page, its destination, once it has begun its leaf and size, and the pair that receives the
result. -/
structure MigrOp where
  va : Nat
  dst : Nat
  leaf : Nat
  size : Nat
  d : Nat
  deriving DecidableEq, Repr

/-- An operation of a core's matrix engine (R293). -/
inductive MatrixOp where
  /-- MMA or MDIST: destination, control word, scratchpad descriptors, cluster, register blocks -/
  | mma (dist : Bool) (t : Nat) (ctl : Word) (descA descB : DWord) (cluster : Nat) (regs : SMap 32)
  | topk (t src : Nat) (base sel : Word)
  | zero (mask : Word)
  /-- MWR: the tile, or with `hi` the pair, of the threads in `m` -/
  | write (t : Nat) (m : Mask) (lo : SMap 32) (hi : Option (SMap 32))
  /-- the close of an open batch: each member's TRAYID and pending number (R295) -/
  | fence (members : List (Nat × Nat))
  deriving DecidableEq, Repr

/-- A context-engine command from its acceptance to its completion (R397), with every register it read: destination
register, context named, and for those that take time whether they have begun. -/
inductive CtxOp where
  | new (d : Nat) (w : Word)
  | grant (d child : Nat) (va : Nat) (begun : Bool)
  | revoke (d child budget : Nat) (va : Option Nat) (no : Nat)
  | run (d child op token : Nat) (r0 r1 : Word) (m : DWord)
  | stop (d child : Nat) (w : Word) (begun : Bool)
  | save (d child va : Nat)
  | load (d child va : Nat)
  | query (d child sel : Nat)
  | scrub (d no va : Nat) (begun : Bool)
  | alog (d : Nat) (w : Word) (va : Option Nat)
  | keysel (d child slot : Nat) (va : Option Nat)
  deriving DecidableEq, Repr

/-- An operation of the stack engines (R305–R307), with how many elements are done and the poisoned source sectors it has
met (R308). -/
inductive StackOp where
  /-- HGATH: table, count, index list, destination, log of the element size, 64-bit indices -/
  | gath (t n x y es : Nat) (wide : Bool) (done : Nat) (met : List Nat)
  /-- HRED: source, elements of a row, destination, rows, TYPE, OP -/
  | red (src n y rows typ op : Nat)
  /-- HCVT: source, count, destination, scales, CODE, RM, SAT -/
  | cvt (src n y z code rm : Nat) (sat : Bool) (done : Nat) (met : List Nat)
  deriving DecidableEq, Repr

/-- The landing an arrival was matched to: its entry's index and generation, buffer and arrival counter (R322), and whether
it reduces by rank (R323). -/
structure LandRef where
  idx : Nat
  gen : BitVec 16
  buf : Nat
  acnt : Nat
  ord : Bool
  deriving DecidableEq, Repr

/-- A transfer that arrives (R321–R323, R332): what its units say of it, the units received and not yet written, with
their bytes in wire form, the units received, those answered with a fault, its landing, whether it is refused, and
whether a contribution is whole. -/
structure PodArr where
  head : UaUnit
  got : KMap (List (Byte × Bool))
  seen : List Nat
  failed : List Nat
  land : Option LandRef
  bad : Bool
  whole : Bool
  deriving DecidableEq, Repr

/-- A command of the snapshot engines (R250). -/
inductive SnapOp where
  /-- SNAP: range, scope word, version, whether that lies below STEP at its point (R250), and whether it has begun to wait
  for the range's copies and migrations (R251, R256) -/
  | snap (start len : Nat) (scope v : Word) (below : Bool) (begun : Bool)
  /-- SACQ, SREL -/
  | refs (h : Word) (up : Bool)
  /-- VPIN, VUNPIN -/
  | pins (h : Word) (up : Bool)
  | step (v : Word)
  /-- VQRY: range, version, buffer and capacity; once it has begun, the entries written and the next address to examine -/
  | query (start len : Nat) (w : Word) (buf cap : Nat) (prog : Option (Nat × Nat))
  deriving DecidableEq, Repr

/-- A primitive as a thread emits it: sequence number, rate code, the vertex block and the attributes (R360). -/
structure Emit where
  seq : Nat
  rate : Nat
  verts : List Word
  attrs : List Word
  deriving DecidableEq, Repr

/-- A command that its engine performs in one piece when it takes it from its queue (R10, R14), with every operand that
its word reads at issue: destination registers first. Vector destinations are physical registers. -/
inductive Cmd where
  /-- already performed where it issued, at the scratchpad, the tiles or the pixel orderer: what it returns -/
  | done (data : List RegWrite)
  /-- CPOST, or CPOSTR with `red` (R320) -/
  | post (d : Nat) (red : Bool) (src len : Nat) (w w0 w1 w2 w3 : Word)
  | carm (d : Nat) (lo hi b : Word)
  | halo (d va : Nat)
  | cqry (d counter : Nat)
  /-- GEMIT, GFLUSH and PXRATE: the pass's descriptor address and the stream (R360–R362) -/
  | emit (addr stream : Nat) (l : List Emit)
  | flush (addr stream w : Nat) (fin : Bool)
  | rate (addr stream rate : Nat)
  /-- HQRY and MQRY (R308, R382) -/
  | hqry (d item : Nat)
  | mqry (d : Nat)
  /-- SPAWN and JDEC of each thread, CONT, LCANCEL and LSTAT, with the issuing batch's launch slot (R82–R87) -/
  | spawn (d lslot : Nat) (l : List (Nat × Nat))
  | cont (d lslot : Nat) (w fp : DWord)
  | jdec (lslot : Nat) (l : List (Nat × Nat))
  | lcancel (lslot lvl : Nat) (id : Word)
  | lstat (d lslot lvl : Nat) (id : Word)
  deriving DecidableEq, Repr

/-- A command of an engine, with every operand it reads at issue. -/
inductive OpBody where
  /-- performed at its point; its completion is still to be counted, with the result its registers receive -/
  | performed (data : List RegWrite)
  | cmd (k : Cmd)
  | copy (k : CopyOp)
  | member (k : MemberOp)
  | migr (k : MigrOp)
  | matrix (k : MatrixOp)
  | ctx (k : CtxOp)
  | stack (k : StackOp)
  /-- a posted operation that is firing: its index in the table (R316) -/
  | post (idx : Nat)
  /-- a transfer that arrives at this package -/
  | arrive (a : PodArr)
  /-- a command of a snapshot engine that writes register d (R250) -/
  | snap (d : Nat) (k : SnapOp)
  deriving DecidableEq, Repr

/-- An engine operation from its issue to its completion: its tag, engine unit, the tray key and pending-result number
it reports to, and where it stands: in a replay window (0), in its engine's command queue (1), taken by the engine,
where it waits outside the queue (2, R18), or so with a park that has ended in a terminal fault (3, R247). -/
structure Op where
  id : Nat
  tag : Tag
  unit : Nat
  batch : Nat
  tray : Nat
  pend : Nat
  phase : Nat
  body : OpBody
  /-- the fault it waits for (R229, R272) -/
  park : Option Park
  deriving DecidableEq, Repr

/-- A trigger counter (Table 14.2). -/
structure Trig where
  value : Word
  err : Nat
  kind : Nat
  deriving DecidableEq, Repr

/-- The kinds of a posted operation (R320, R329); a halo group is a PUT of several parts. -/
inductive PostKind where
  | put | contrib | land | landr
  deriving DecidableEq, Repr

/-- The states of an entry (Table 14.3); `stopped` by a halt (R337). -/
inductive PostState where
  | held
  | armed (counter : Nat) (threshold : Word) (order : Nat)
  | firing
  | posted
  | stopped
  deriving DecidableEq, Repr

/-- One transfer of a send entry: target, TAG, OFF, its source as a block of nx × ny × nz elements (R329), its length,
and while it fires the next unit, the units sent and not answered with the port each took (16 loopback, 17 none yet) and
the order in which they were first sent, the refusals of a unit and whether it waits to be resent, and the kind of its first error. -/
structure PostPart where
  tgt : Nat
  ltag : BitVec 16
  off : Nat
  base : Nat
  nx : Nat
  ny : Nat
  nz : Nat
  es : Nat
  rowp : Nat
  planep : Nat
  len : Nat
  next : Nat
  sent : KMap (Nat × Nat × UaUnit)
  nacks : KMap (Nat × Bool)
  err : Nat
  deriving DecidableEq, Repr

/-- An entry of the posted-operation table (R316, R320): its context, the tag of the command that made it, its
generation, control word, rank, counter (LCNT or ACNT), transfers, and for a landing its buffer, length, tag, EXPECT or
G, and what has arrived. -/
structure Posted where
  ctx : Nat
  tag : Tag
  gen : BitVec 16
  st : PostState
  persist : Bool
  kind : PostKind
  cmp : Nat
  sat : Bool
  typ : Nat
  rop : Nat
  ord : Bool
  skip : Bool
  cblk : Bool
  rank : Nat
  cnt : Nat
  parts : List PostPart
  buf : Nat
  len : Nat
  ltag : BitVec 16
  expect : Nat
  arrivals : Nat
  ranks : List Nat
  deriving DecidableEq, Repr

/-- What leaves for another package (R180, R321, R333, R335). -/
inductive PodMsg where
  | unit (port : Nat) (u : UaUnit)
  | ack (dst : Nat) (handle : Word) (part unit : Nat)
  | nack (dst : Nat) (handle : Word) (part unit : Nat)
  | fault (dst : Nat) (handle : Word) (part unit : Nat)
  /-- the answer to a remote access: data or nothing, or a fault, retryable or not -/
  | data (dst id : Nat) (bytes : List (Byte × Bool))
  | accFault (dst id : Nat) (retry : Bool)
  deriving DecidableEq, Repr

/-- The translations of one fine pixel of an export: its position, its place in each colour target, its depth and where the
depth lies (R365). -/
structure PixelAt where
  x : Nat
  y : Nat
  targets : KMap Xl
  z : Word
  depth : Option Xl
  deriving DecidableEq, Repr

/-- An export that has not committed (R354, R365): the batch and tray it came from and the pending number of its PXOUT, its
core, primitive, thread, fine pixels, and colours by 4 × target + channel. -/
structure Export where
  id : Nat
  batch : Nat
  tray : Nat
  pend : Nat
  core : Nat
  tile : Nat
  seq : Nat
  thread : Nat
  pixels : List PixelAt
  colours : List Word
  deriving DecidableEq, Repr

/-- A stream of a pass (R345, R350): watermark, whether closed, draw rate. -/
structure RStream where
  w : Nat
  closed : Bool
  rate : Nat
  deriving DecidableEq, Repr

/-- A message from one front to another (R347). -/
inductive RMsg where
  | prim (p : RPrim)
  | mark (stream w : Nat)
  deriving DecidableEq, Repr

/-- A tile with work (R346, R352, R353): its bin by sequence number, the coarse quads not yet in a tray, the primitives of
quads, and its pixel core. -/
structure RTile where
  bin : KMap RPrim
  quads : List Quad
  prims : KMap RPrim
  core : Option Nat
  deriving DecidableEq, Repr

/-- A live pass (R338–R342): context, descriptor address and contents as it started, the tag of the command that started it,
its error, the context's fronts then, its ownership map, counts, streams, the messages between fronts (by 4 × source +
destination), the watermarks each front has received (by 256 × front + stream), tiles, exports in order, and whether a
status fault has been recorded. -/
structure Pass where
  ctx : Nat
  addr : Nat
  desc : Nat
  tag : Tag
  err : Nat
  fronts : List Nat
  map : List Byte
  primin : Nat
  drop : Nat
  late : Nat
  dup : Nat
  nans : List Nat
  streams : KMap RStream
  msgs : KMap (List RMsg)
  marks : KMap Nat
  tiles : KMap RTile
  exports : List Export
  noted : Bool
  deriving DecidableEq, Repr

/-- A core: turn clock, L1, TLB, tiles, and what its engine port keeps (R171, R199, R223, R275). -/
structure Core where
  /-- how far its turn clock runs ahead of CLOCK, and the turn it last reported (R199, R200) -/
  turn : DWord
  reported : DWord
  /-- the last turn whose operation it has performed (R200) -/
  done : DWord
  l1 : KMap L1Line
  l1tick : Nat
  tlb : List TlbEntry
  tiles : KMap Tile
  /-- the launch whose batch was last placed here, by its order of acceptance (R163) -/
  last : Option Nat
  parkNo : Nat
  /-- the miss-status entries that the request its memory pipe waits with needs (R170) -/
  need : Option Nat
  /-- turns of its selector in which a less urgent candidate stood, modulo 16 (R79) -/
  skips : Nat
  deriving DecidableEq, Repr

/-- A queue's refusal of a core's command that has not been accepted since: engine class and unit of the queue, and the
back-off before the next resend (R15, R16). -/
structure QRefusal where
  core : Nat
  eng : Nat
  unit : Nat
  backoff : Nat
  deriving DecidableEq, Repr

/-- A core as the package starts. -/
def Core.init : Core where
  turn := 0
  reported := 0
  done := 0
  l1 := []
  l1tick := 0
  tlb := []
  tiles := []
  last := none
  parkNo := 0
  need := none
  skips := 0

/-- The stages of start-up (Table 18.5), `off` before power-good. -/
inductive Stage where
  | off | power | s0 | s1 | hold | s2
  deriving DecidableEq, Repr

/-- The word that issues: its tray (core × 32 + slot), path slot and address, the address after its group, whether it belongs to a chain of two or
more words, and the tray as it stood before the chain. A chain is examined before it issues (R38, R45): with `probe`
the word only reports the check it fails (`found`) and whether it must wait (`stalled`). -/
structure Cur where
  key : Nat
  path : Nat
  pc : Pc
  after : Pc
  tied : Bool
  snap : Option Tray
  probe : Bool
  found : Option Cause
  stalled : Bool
  deriving DecidableEq, Repr

/-- A write to a control page or a queue control block (R389, R66) that an access made, to be acted on before anything
else happens: writer, whether the page is a queue's, page or queue number, offset, size and value. -/
structure Post where
  writer : Nat
  queue : Bool
  page : Nat
  off : Nat
  size : Nat
  value : Nat
  deriving DecidableEq, Repr

/-- A fault record in a die's reporting port (R231, R232): its class, 0 terminal, 1 retryable, 2 per-child, the context
whose ring it goes to, or for a per-child ring the child it is kept for, and its bytes. -/
structure WaitingRecord where
  die : Nat
  cls : Nat
  ctx : Nat
  bytes : List Byte
  deriving DecidableEq, Repr

/-- A copy of a versioned page in progress (R246): the context, the page's address, its size, its leaf, its chain
number, the frame being copied and the frame it is copied to, the step that ends the old frame's range, and whether it
is an eager copy. -/
structure Cow where
  ctx : Nat
  page : Nat
  size : Nat
  leaf : Nat
  chain : Nat
  old : Nat
  new : Nat
  high : Word
  eager : Bool
  deriving DecidableEq, Repr

/-- A write that leaves for another package's memory (R180): the issuing context, the pod index of the package, the window
address and the bytes, each with the poison it carries (R311). -/
structure RemoteWrite where
  ctx : Nat
  pod : Nat
  pa : Nat
  bytes : List (Byte × Bool)
  /-- operation, width and swap value of an atomic or RED, and whether it is a RED, which returns nothing -/
  op : Option (Nat × Nat × Nat × Bool)
  deriving DecidableEq, Repr

/-- What a command's response carries besides its status (R419–R427). -/
inductive RespBody where
  | none
  | identify (part : Nat) (serial : List Byte) (fuseRev : Nat) (stage : Nat)
  | attest (nonce serial digest : List Byte) (version stage : Nat) (dies : BitVec 4) (pub sig : List Byte)
  | health (temps : List Nat) (power : Nat) (dies : BitVec 4) (degraded : Bool)
  | sem (word : DWord)
  | code (n : Nat)
  | keys (pub sig : List Byte)
  deriving DecidableEq, Repr

/-- What the package sends to a host or to the board controller (R417–R430). -/
inductive HostMsg where
  | response (ep : Nat) (tag : BitVec 16) (status : Nat) (body : RespBody)
  /-- a SEND on a data queue pair -/
  | send (qp : Nat) (bytes : List Byte)
  /-- an RDMA WRITE to the host's or a remote memory -/
  | write (qp addr : Nat) (bytes : List Byte)
  /-- the data of an RDMA READ -/
  | readData (qp : Nat) (bytes : List Byte)
  /-- a RoCEv2 NAK: remote access, or with `invalid` an invalid request -/
  | nak (qp : Nat) (invalid : Bool)
  | powerOff
  deriving DecidableEq, Repr

/-- A host ring or event channel (R422): queue pair, whether records go to a ring there, its log of slots and address, and
how many records were written. -/
structure HostRing where
  qp : Nat
  ring : Bool
  log : Nat
  addr : Nat
  count : Nat
  deriving DecidableEq, Repr

/-- The hardware semaphore (R421): OWNER 0 none, 1 A, 2 B. -/
structure Semaphore where
  owner : Nat
  seq : Word
  deriving DecidableEq, Repr

/-- A host access of a data queue pair that has not been performed whole (R418). -/
inductive RdmaReq where
  | write (addr : Nat) (data : List Byte)
  | read (addr len : Nat)
  deriving DecidableEq, Repr

/-- A checkpoint in progress (R428): what CKPT named, its command's endpoint and tag, for an incremental one the slice and
the version it reads at, the address from which pages have still to be sent, and the entries written. -/
structure Ckpt where
  ctx : Nat
  slice : Option (Nat × Word)
  w : Word
  qp : Nat
  base : Nat
  list : Nat
  ep : Nat
  tag : BitVec 16
  start : Nat
  len : Nat
  next : Nat
  sent : Nat
  deriving DecidableEq, Repr

/-- What outlives a removal of power: firmware in flash where an FWLOAD has written it, the pod index, how often the
identity key was rolled, and the fused units of the part (R425–R427). -/
structure Lasting where
  flash : Option (List Byte)
  podIdx : Nat
  keyGen : Nat
  deriving DecidableEq, Repr

/-- The state of the package. -/
structure State where
  stage : Stage
  /-- dies that are not fenced (R424) -/
  dies : BitVec 4
  /-- dies that a failed interposer link has made unreachable (R336) -/
  down : BitVec 4
  /-- the arithmetic clock since S0 (R33) and the count of model steps -/
  now : DWord
  ticks : Nat
  mem : Memory
  /-- poisoned 64-byte sectors, by sector number (R168) -/
  poison : SMap 1
  regions : KMap Region
  lines : KMap Line
  /-- the count of touches of lines in the dies' caches (R175) -/
  cacheTick : Nat
  /-- the prefetchers of the cache banks, by bank (R176) -/
  prefetchers : KMap Prefetcher
  /-- the turn clocks of the agents that answer memory accesses: home agents by bank, then a cluster's scratchpad (R199) -/
  agents : SMap 64
  /-- bytes of other packages' memory as this package last left them, with their poison (R172, R180) -/
  remoteKnown : KMap (Byte × Bool)
  ctxs : KMap Ctx
  /-- key slots 0–4,095 in use: the context each is bound to and its key (R414) -/
  keys : KMap (Nat × Nat)
  qcbs : KMap Qcb
  /-- queues waiting for a launch-table entry, longest first (R67) -/
  qwait : List Nat
  launches : KMap Launch
  launchGen : SMap 16
  launchOrder : Nat
  hier : List HEntry
  windows : KMap Window
  clusters : KMap Cluster
  batches : KMap Batch
  /-- unplaced clusters, oldest first (R76) -/
  ready : List Nat
  /-- grants left to each priority in a dispatcher slice's weighted rotation, by die (R76) -/
  credits : KMap (List Nat)
  nextId : Nat
  cores : KMap Core
  trays : KMap Tray
  ops : List Op
  /-- outstanding refusals, earliest first (R15, R16) -/
  refusals : List QRefusal
  /-- what HQRY counts, by (16 × context + engine) × 4 + item: operations completed, with error, poisoned sectors (R308) -/
  stackCounts : SMap 32
  /-- what MQRY counts, by (128 × context + core group) × 4 + item: rays finished, bricks examined, poisoned sectors met
  (R382) -/
  samplerCounts : SMap 32
  /-- trigger counters that are not all zero, the posted-operation table and the generations of its indices (R315, R316) -/
  trigs : KMap Trig
  posted : KMap Posted
  postedGen : SMap 16
  /-- units on the engine's loopback, and what leaves for other packages (R313) -/
  podLoop : List UaUnit
  podOut : List PodMsg
  portsDown : BitVec 16
  /-- live passes by pass number (R338) -/
  passes : KMap Pass
  cur : Option Cur
  /-- what happens next from outside the issue of trays: events in order -/
  inbox : List Instr
  /-- which path of which tray issues next (key × 2 + path), ahead of the selector's own choice (R79, R111) -/
  sched : List Nat
  hostOut : List HostMsg
  posts : List Post
  remoteOut : List RemoteWrite
  cows : KMap Cow
  records : List WaitingRecord
  /-- grants left to each class in a reporting port's weighted rotation, by die (R232) -/
  reportTurns : KMap (List Nat)
  sem : Semaphore
  /-- data queue pairs and the contexts they are bound to (R418) -/
  qps : KMap Nat
  /-- the accesses of each data queue pair that wait, oldest first (R418) -/
  rdma : KMap (List RdmaReq)
  chans : KMap HostRing
  /-- the root rings of endpoints A (0) and B (1) (R422) -/
  rootRings : KMap HostRing
  ckpts : KMap Ckpt
  /-- the firmware image that runs, if an FWLOAD supplied it, and the pod index in use (R425, R426) -/
  running : Option (List Byte)
  podIdx : Nat
  /-- dies above their throttle temperature (R430) -/
  hot : BitVec 4
  lasting : Lasting
  /-- what the firmware fixed (R66, R312) -/
  fw : FwCfg
  deriving DecidableEq, Repr

/-- Every region direct (R235). -/
def directRegions : KMap Region := (List.range 256).map fun r => (r, ⟨2, 0, 0⟩)

/-- The machine before power-good (R423): nothing is powered, every field empty or zero but for the regions, which are all
direct from power-on (R235). -/
def State.reset : State where
  stage := .off
  dies := 0
  down := 0
  now := 0
  ticks := 0
  mem := []
  poison := []
  regions := directRegions
  lines := []
  cacheTick := 0
  prefetchers := []
  agents := []
  remoteKnown := []
  ctxs := []
  keys := []
  qcbs := []
  qwait := []
  launches := []
  launchGen := []
  launchOrder := 0
  hier := []
  windows := []
  clusters := []
  batches := []
  ready := []
  credits := []
  nextId := 0
  cores := []
  trays := []
  ops := []
  refusals := []
  stackCounts := []
  samplerCounts := []
  trigs := []
  posted := []
  postedGen := []
  podLoop := []
  podOut := []
  portsDown := 0
  passes := []
  cur := none
  inbox := []
  sched := []
  hostOut := []
  posts := []
  remoteOut := []
  cows := []
  records := []
  reportTurns := []
  sem := ⟨0, 0⟩
  qps := []
  rdma := []
  chans := []
  rootRings := []
  ckpts := []
  running := none
  podIdx := 0
  hot := 0
  lasting := ⟨none, 0, 0⟩
  fw := ⟨0, 0, [], true, 0, 0, [], [], []⟩

/-- Why the machine stops with a fault. -/
inductive Fault where
  /-- A core instruction was executed although no tray is issuing. `step` never does so; only a call of `exec` on such a
  state answers it. Safe: the machine stops where it has no tray to act on. -/
  | noCurrentTray
  deriving DecidableEq, Repr

/-- Why the machine refuses an instruction. -/
inductive Refusal where
  /-- The instruction has no meaning yet. Safe: nothing is claimed of it. -/
  | notModelled (mnemonic : String)
  deriving DecidableEq, Repr

end Sys2Proof.Machine
end

