-- ==== Sys2Proof/Machine/Operands.lean ====
section
/-!
DEFINITION. Registers of a tray and every operand form (R25–R31, R48–R50).

All register reads and writes go through the accessors here. Scalar registers s0–s2 are the issuing path slot's
activity mask; a write to them is filtered by the launch mask and the live mask (R27, R138).
-/

namespace Sys2Proof.Machine

/-- A path slot of a tray. -/
def Tray.path (t : Tray) (i : Nat) : Path := if i = 0 then t.p0 else t.p1.getD t.p0

/-- Replace a path slot of a tray; where slot 1 does not exist, slot 0 stands for it. -/
def Tray.setPath (t : Tray) (i : Nat) (p : Path) : Tray :=
  if i = 0 || t.p1.isNone then { t with p0 := p } else { t with p1 := some p }

/-- Set the PC of a path slot. -/
def Tray.setPc (t : Tray) (i : Nat) (pc : Pc) : Tray := t.setPath i { t.path i with pc := pc }

/-- A value put into the 32-bit word k of a mask. -/
def maskWord (m : Mask) (k : Nat) (v : Word) : Mask :=
  m &&& ~~~((0xFFFFFFFF#96) <<< (32 * k)) ||| v.setWidth 96 <<< (32 * k)

/-- What a mask set whole keeps: threads in the launch mask that are live (R27, R138). -/
def Tray.filterMask (t : Tray) (m : Mask) : Mask := m &&& t.launch &&& t.live

/-- Scalar register k as path slot i sees it (R26, R30). -/
def Tray.sreg (t : Tray) (i k : Nat) : Word :=
  if k < 3 then (t.path i).mask.extractLsb' (32 * k) 32 else smGet t.sregs k

/-- Write scalar register k from path slot i; of s0–s2 only threads in the launch mask that are live are set (R27, R138). -/
def Tray.setSreg (t : Tray) (i k : Nat) (v : Word) : Tray :=
  if k < 3 then
    let p := t.path i
    t.setPath i { p with mask := maskWord p.mask k (v &&& (t.launch &&& t.live).extractLsb' (32 * k) 32) }
  else { t with sregs := smSet t.sregs k v }

/-- Scalar pair k, k + 1 (R3). -/
def Tray.spair (t : Tray) (i k : Nat) : DWord := pair (t.sreg i k) (t.sreg i (k + 1))

/-- Write a scalar pair (R3). -/
def Tray.setSpair (t : Tray) (i k : Nat) (v : DWord) : Tray := (t.setSreg i k (lo32 v)).setSreg i (k + 1) (hi32 v)

/-- Mask triple k: s3k, s3k+1, s3k+2, row0 first (R26). -/
def Tray.mreg (t : Tray) (i k : Nat) : Mask :=
  t.sreg i (3 * k + 2) ++ t.sreg i (3 * k + 1) ++ t.sreg i (3 * k)

/-- Write mask triple k (R134). -/
def Tray.setMreg (t : Tray) (i k : Nat) (m : Mask) : Tray :=
  ((t.setSreg i (3 * k) (m.extractLsb' 0 32)).setSreg i (3 * k + 1) (m.extractLsb' 32 32)).setSreg i (3 * k + 2)
    (m.extractLsb' 64 32)

/-- The key of thread th's element of physical register p. -/
def vkey (p th : Nat) : Nat := p * 96 + th

/-- Thread th's element of physical register p. -/
def Tray.phys (t : Tray) (p th : Nat) : Word := smGet t.vregs (vkey p th)

/-- Thread th's element of window register k (R28). -/
def Tray.vreg (t : Tray) (k th : Nat) : Word := t.phys (t.vwin + k) th

/-- Thread th's pair of window registers k, k + 1 (R3). -/
def Tray.vpair (t : Tray) (k th : Nat) : DWord := pair (t.vreg k th) (t.vreg (k + 1) th)

/-- Write physical register p of the threads in `m`; the others keep their elements (R109). -/
def Tray.fillPhys (t : Tray) (p : Nat) (m : Mask) (f : Nat → Word) : Tray :=
  { t with vregs := smFill t.vregs (vkey p 0) 96 fun th => if m.getLsbD th then f th else t.phys p th }

/-- Write window register k of the threads in `m`. -/
def Tray.fillV (t : Tray) (k : Nat) (m : Mask) (f : Nat → Word) : Tray := t.fillPhys (t.vwin + k) m f

/-- Write the pair of window registers k, k + 1 of the threads in `m`. -/
def Tray.fillVpair (t : Tray) (k : Nat) (m : Mask) (f : Nat → DWord) : Tray :=
  (t.fillV k m fun th => lo32 (f th)).fillV (k + 1) m fun th => hi32 (f th)

/-- The threads, in ascending order. -/
def threads : List Nat := List.range 96

/-- The threads of a mask, in ascending order. -/
def maskThreads (m : Mask) : List Nat := threads.filter fun t => m.getLsbD t

/-- Where a word of the current group reads its sources: the tray as it stood before the group's chain, its path slot,
the word's address, whether it is in a chain, the core's CLOCK and the context's STEP. -/
structure Src where
  t : Tray
  i : Nat
  pc : Pc
  chain : Bool
  key : Nat
  clock : DWord
  step : Word

namespace Src

/-- The activity mask before the chain (R109). -/
def m0 (r : Src) : Mask := (r.t.path r.i).mask

/-- Scalar register. -/
def s (r : Src) (k : BitVec 7) : Word := r.t.sreg r.i k.toNat

/-- Scalar pair. -/
def s2 (r : Src) (k : BitVec 7) : DWord := r.t.spair r.i k.toNat

/-- Scalar register of a group: element j of the group that begins at k. -/
def sn (r : Src) (k : BitVec 7) (j : Nat) : Word := r.t.sreg r.i (k.toNat + j)

/-- Mask triple. -/
def m (r : Src) (k : BitVec 7) : Mask := r.t.mreg r.i k.toNat

/-- Window register of a thread. -/
def v (r : Src) (k : BitVec 7) (th : Nat) : Word := r.t.vreg k.toNat th

/-- Window register pair of a thread. -/
def v2 (r : Src) (k : BitVec 7) (th : Nat) : DWord := r.t.vpair k.toNat th

/-- A scalar operand of 32 bits (Table 2.6). -/
def sb (r : Src) : SB → Word
  | .sreg k => r.s k
  | .zero => 0
  | .lit w => w

/-- A scalar operand of 64 bits with a sign-extended literal: SADD64 and SSUB64 (Table 2.6). -/
def sb64 (r : Src) : SB → DWord
  | .sreg k => r.s2 k
  | .zero => 0
  | .lit w => w.signExtend 64

/-- A scalar operand of 64 bits with a zero-extended literal: EPC, addresses and cause masks (R84, R116, R395). -/
def sbz64 (r : Src) : SB → DWord
  | .sreg k => r.s2 k
  | .zero => 0
  | .lit w => w.setWidth 64

/-- Element j of the scalar quad a register B code names. -/
def sq (r : Src) (b : SB) (j : Nat) : Word :=
  match b with
  | .sreg k => r.sn k j
  | .zero => 0
  | .lit _ => 0

/-- A vector operand of 32 bits, for one thread (Table 2.6). -/
def vb (r : Src) (th : Nat) : VB → Word
  | .vreg k => r.v k th
  | .bcast k => r.s k
  | .zero => 0
  | .lit w => w

/-- A vector operand of a 64-bit integer, for one thread (Table 2.6). -/
def vb64 (r : Src) (th : Nat) : VB → DWord
  | .vreg k => r.v2 k th
  | .bcast k => r.s2 k
  | .zero => 0
  | .lit w => w.signExtend 64

/-- An FP32 literal widened exactly to FP64; a NaN gives the canonical NaN (Table 2.6). -/
def widenLit (w : Word) : DWord :=
  BitVec.ofNat 64 (fmtF64.convert .rne (fmtF32.val w.toNat)).1

/-- A vector operand of FP64, for one thread (Table 2.6). -/
def vbF64 (r : Src) (th : Nat) : VB → DWord
  | .vreg k => r.v2 k th
  | .bcast k => r.s2 k
  | .zero => 0
  | .lit w => widenLit w

/-- A mask operand (R134): a literal L is the triple (L, L, L). -/
def mb (r : Src) : MB → Mask
  | .tri k => r.t.mreg r.i k.toNat
  | .zero => 0
  | .lit w => w ++ w ++ w

end Src

/-- IMM8 sign-extended to 32 bits (Table 2.7). -/
def immS (imm : BitVec 8) : Word := imm.signExtend 32
/-- IMM8 zero-extended to 32 bits (Table 2.7). -/
def immZ (imm : BitVec 8) : Word := imm.setWidth 32
/-- IMM8 sign-extended to 64 bits (Table 2.7). -/
def immS64 (imm : BitVec 8) : DWord := imm.signExtend 64
/-- IMM8 read as E4M3 and converted exactly to FP32; 0x7F and 0xFF give the canonical NaN (Table 2.7). -/
def immF (imm : BitVec 8) : Word := BitVec.ofNat 32 (fmtF32.convert .rne (fmtE4M3.val imm.toNat)).1

/-- The physical registers an operand list touches in the window (R28). -/
def beyondN (t : Tray) (ops : List Opnd) : Bool :=
  ops.any fun o => o.file == .v && t.n < t.vwin + o.k + o.n

/-- The scalar registers an operand reads or writes: a triple is its three scalars. -/
def opndScalars (o : Opnd) : List Nat :=
  match o.file with
  | .s => List.range' o.k o.n
  | .m => List.range' (3 * o.k) 3
  | .v => []
  | .sp => []
  | .acc => []
  | .lit => []

/-- The physical registers an operand reads or writes. -/
def opndPhys (t : Tray) (o : Opnd) : List Nat :=
  match o.file with
  | .v => List.range' (t.vwin + o.k) o.n
  | .s => []
  | .m => []
  | .sp => []
  | .acc => []
  | .lit => []

/-- Whether a result still pending binds a scalar register (R31). -/
def Tray.bindsS (t : Tray) (k : Nat) : Bool := t.pend.any fun p => p.sdst.contains k

/-- Whether a result still pending binds a physical register (R31). -/
def Tray.bindsV (t : Tray) (p : Nat) : Bool := t.pend.any fun q => q.vdst.contains p

/-- Whether a result still pending binds a register the instruction reads or writes, or the activity mask (R31). -/
def scoreboard (t : Tray) (i : Nat) (ops : List Opnd) : Bool :=
  t.pend.any fun p =>
    (p.sdst.any fun k => (k < 3 && p.path == i) || ops.any fun o => (opndScalars o).contains k) ||
    p.vdst.any fun k => ops.any fun o => (opndPhys t o).contains k

end Sys2Proof.Machine
end

