-- ==== Sys2Proof/Machine/Flags.lean ====
section
/-!
DEFINITION. FPCTL, FPSTAT and floating-point traps (R95–R99).
-/

namespace Sys2Proof.Machine

/-- FPCTL.RMODE (Table 4.4, Table 4.3). -/
def rmode (c : BitVec 7) : RM :=
  match c.toNat % 4 with
  | 0 => .rne
  | 1 => .rz
  | 2 => .rd
  | _ => .ru

/-- How FP32 arithmetic of majors 0x11–0x14 rounds: FPCTL.RMODE and FTZ (R95). -/
def fenv (c : BitVec 7) : FEnv := ⟨rmode c, c.getLsbD 2⟩

/-- How other arithmetic rounds: FPCTL.RMODE, no flushing (R95). -/
def fenvNoFtz (c : BitVec 7) : FEnv := ⟨rmode c, false⟩

/-- The causes of the enabled traps among the flags an instruction met (R99). -/
def fpTraps (c : BitVec 7) (fl : FFlags) : List Cause :=
  (if c.getLsbD 3 && fl.getLsbD 0 then [Cause.fpinv] else []) ++
  (if c.getLsbD 4 && fl.getLsbD 1 then [Cause.fpdiv0] else []) ++
  (if c.getLsbD 5 && fl.getLsbD 2 then [Cause.fpovf] else [])

/-- The flags met by any of the threads of a mask (R97). -/
def orFlags (m : Mask) (f : Nat → FFlags) : FFlags := (maskThreads m).foldl (fun a t => a ||| f t) 0

/-- Merge the flags of an instruction into FPSTAT; in a chain they also survive a WRSR of FPSTAT in it (R98). -/
def Tray.mergeFlags (t : Tray) (fl : FFlags) : Tray := { t with fpstat := t.fpstat ||| fl, chainFl := t.chainFl ||| fl }

/-- The integer compare conditions (Table 5.3). -/
def icmpHolds (c : ICmp) (a b : Word) : Bool :=
  match c with
  | .eq => a == b
  | .ne => a != b
  | .lt => a.slt b
  | .le => a.sle b
  | .ltn => a.ult b
  | .len => a.ule b
  | .gt => b.slt a
  | .gtn => b.ult a

/-- All ones for true, zero for false (R114, R124). -/
def boolWord (b : Bool) : Word := if b then 0xFFFFFFFF else 0

/-- A floating compare: its truth and its flags (Table 5.8). -/
def fcmpHolds (c : FCmp) (x y : FVal) : Bool × FFlags :=
  match c with
  | .eq => fcompare false false false false false true false x y false
  | .ne => fcompare false false false false false false true x y false
  | .lt => fcompare false true false false false false false x y true
  | .le => fcompare false false true false false false false x y true
  | .gt => fcompare false false false true false false false x y true
  | .ge => fcompare false false false false true false false x y true
  | .un => fcompare true false false false false false false x y false
  | .ord =>
    let r := fcompare true false false false false false false x y false
    (!r.1, r.2)

end Sys2Proof.Machine
end

