-- ==== Sys2Proof/Machine/Memory.lean ====
section
/-!
DEFINITION. Physical memory: bytes, poison, regions, the coherence of the dies' caches and the L1s.

`State.mem` holds every byte at its point of coherence (R205); the directory entries say which die holds a copy, and
for a line in the commutative-update state the partials that are still to be merged (R206–R209). An L1 holds data of
its own, which may be stale (R193).
-/

namespace Sys2Proof.Machine

/-- n bytes of a number, the least significant first (R3). -/
def bytesOf (n v : Nat) : List Byte := (List.range n).map fun i => BitVec.ofNat 8 (v / 256 ^ i)

/-- The number a list of bytes holds, the first least significant (R3). -/
def natOf : List Byte → Nat
  | [] => 0
  | b :: r => b.toNat + 256 * natOf r

/-- n bytes of memory from a physical address, as a number. -/
def State.rd (s : State) (pa n : Nat) : Nat := smNat s.mem pa n

/-- Write bytes to memory from a physical address upwards. -/
def State.wrBytes (s : State) (pa : Nat) (bs : List Byte) : State :=
  { s with mem := smFill s.mem pa bs.length fun i => bs.getD i 0 }

/-- Write n bytes of a number to memory. -/
def State.wr (s : State) (pa n v : Nat) : State :=
  { s with mem := smFill s.mem pa n fun i => BitVec.ofNat 8 (v / 256 ^ i) }

/-- Whether the 64-byte sector of a physical address is poisoned (R168). -/
def State.poisoned (s : State) (pa : Nat) : Bool := smGet s.poison (pa / 64) == 1

/-- Whether any sector of n bytes is poisoned. -/
def State.poisonedIn (s : State) (pa n : Nat) : Bool :=
  (List.range ((pa % 64 + n + 63) / 64)).any fun i => s.poisoned (pa + 64 * i)

/-- Mark or clear the poison of a sector. -/
def State.setPoison (s : State) (pa : Nat) (p : Bool) : State :=
  { s with poison := smSet s.poison (pa / 64) (if p then 1 else 0) }

/-- Clear the poison of the sectors that n bytes cover whole (R168). -/
def State.cleanSectors (s : State) (pa n : Nat) : State :=
  (List.range ((pa % 64 + n) / 64)).foldl (fun s i =>
    let b := pa / 64 * 64 + 64 * i
    if pa ≤ b ∧ b + 64 ≤ pa + n then s.setPoison b false else s) s

/-- The entries of a sparse map with the keys from `src` on, n of them, copied to `dst` on. -/
def smMove {w : Nat} (m : SMap w) (src dst n : Nat) : SMap w :=
  (m.filter fun e => e.1 < dst) ++
  ((m.filter fun e => src ≤ e.1 && e.1 < src + n).map fun e => (e.1 - src + dst, e.2)) ++
  m.filter fun e => dst + n ≤ e.1

/-- Copy n bytes of memory, with the poison of their sectors; both addresses and n are multiples of 64. -/
def State.copyBytes (s : State) (src dst n : Nat) : State :=
  { s with mem := smMove s.mem src dst n, poison := smMove s.poison (src / 64) (dst / 64) (n / 64) }

/-- Fill n bytes with zeros and clear the poison of their sectors. -/
def State.zeroBytes (s : State) (pa n : Nat) : State :=
  { s with mem := (s.mem.filter fun e => e.1 < pa) ++ s.mem.filter fun e => pa + n ≤ e.1,
           poison := (s.poison.filter fun e => e.1 < pa / 64) ++ s.poison.filter fun e => (pa + n) / 64 ≤ e.1 }

/-- The bits of a BitVec that are set, in ascending order. -/
def bitList {w : Nat} (b : BitVec w) : List Nat := (List.range w).filter fun i => b.getLsbD i

/-- The channel that holds a line of local memory (R234, R235), if any. -/
def State.channel (s : State) (pa : Nat) : Option Nat :=
  match s.regions.get? (pa / 2 ^ 32) with
  | none => none
  | some r =>
    if r.mode = 1 then
      let set := bitList r.chans
      set[(bits pa 19 8 ^^^ bits pa 31 20 ^^^ r.seed.toNat) % set.length]?
    else if r.mode = 2 then
      if bits pa 37 36 = 3 then none else some ((bits pa 39 38 * 3 + bits pa 37 36) * 32 + bits pa 12 8)
    else none

/-- The die of a memory channel (Table 1.2). -/
def channelDie (c : Nat) : Nat := c / 96

/-- The home die of a line (R205). -/
def State.homeDie (s : State) (pa : Nat) : Option Nat := (s.channel pa).map channelDie

/-- Whether a physical address is local memory that exists (R233–R235). -/
def State.localPa (s : State) (pa : Nat) : Bool := pa < 2 ^ 40 && (s.channel pa).isSome

-- Atomic operations (R166, Table 8.7)

/-- The size of an atomic's operand in bytes. -/
def atomSize (w : Nat) : Nat := if w = 3 ∨ w = 7 then 8 else 4

/-- A number of n bytes read as two's complement. -/
def toSigned (n x : Nat) : Int := if x < 2 ^ (8 * n - 1) then (x : Int) else (x : Int) - 2 ^ (8 * n)

/-- A floating-point addition rounded to nearest even, without flags (R166). -/
def fpAddRne (w x y : Nat) : Nat :=
  let f := if w = 7 then fmtF64 else fmtF32
  (f.add ⟨.rne, false⟩ (f.val x) (f.val y)).1

/-- The new value of an atomic: operation h, width w, the old value, the operand and the swap value (R166). -/
def atomNew (h w old x swp : Nat) : Nat :=
  let n := atomSize w
  match h with
  | 0 => if w < 6 then (old + x) % 2 ^ (8 * n) else fpAddRne w old x
  | 1 => if toSigned n old ≤ toSigned n x then old else x
  | 2 => if toSigned n old ≤ toSigned n x then x else old
  | 3 => old &&& x
  | 4 => old ||| x
  | 5 => old ^^^ x
  | 6 => x
  | _ => if old = x then swp else old

/-- The identity of a partial (Table 8.7). -/
def atomIdentity (h w : Nat) : Nat :=
  let n := atomSize w
  match h with
  | 0 => if w < 6 then 0 else 2 ^ (8 * n - 1)
  | 1 => 2 ^ (8 * n - 1) - 1
  | 2 => 2 ^ (8 * n - 1)
  | 3 => 2 ^ (8 * n) - 1
  | _ => 0

-- Coherence between dies (R205–R210)

/-- The copy of a line that a die holds. -/
def State.copyAt (s : State) (ln die : Nat) : Option DieCopy := ((s.lines.get? ln).getD []).get? die

/-- Change a line's directory entry; an entry without copies is dropped. -/
def State.setLine (s : State) (ln : Nat) (l : Line) : State :=
  { s with lines := if l.isEmpty then s.lines.del ln else s.lines.put ln l }

/-- Apply a die's partial to memory (R208). -/
def State.applyPartial (s : State) (ln : Nat) (c : DieCopy) : State :=
  c.part.foldl (fun s e =>
    let pa := 256 * ln + e.1
    let n := atomSize c.w
    s.wr pa n (atomNew c.op c.w (s.rd pa n) e.2.toNat 0)) s

/-- Merge a line in U: ascending die, every touched element, then no die holds it (R208). -/
def State.mergeLine (s : State) (ln : Nat) : State :=
  match s.lines.get? ln with
  | none => s
  | some l =>
    if l.any fun e => e.2.st == .u then
      (l.foldl (fun s e => if e.2.st == .u then s.applyPartial ln e.2 else s) s).setLine ln
        (l.filter fun e => e.2.st != .u)
    else s

/-- Merge every line that n bytes from a physical address touch. -/
def State.mergeRange (s : State) (pa n : Nat) : State :=
  (List.range ((pa % 256 + n + 255) / 256)).foldl (fun s i => s.mergeLine (pa / 256 + i)) s

/-- n bytes of memory as a read at the home finds them, with the partials of lines in U merged (R208). -/
def State.rdAt (s : State) (pa n : Nat) : Nat := if s.lines.isEmpty then s.rd pa n else (s.mergeRange pa n).rd pa n

/-- Whether a context holds a way of some cache bank on a die (R173). -/
def State.holdsWay (s : State) (ctx die : Nat) : Bool :=
  match s.ctxs.get? ctx with
  | none => false
  | some c => c.own.ways.any fun e => e.1 / 32 == die

/-- Add to a memory counter of a context (R177). -/
def State.count (s : State) (ctx k n : Nat) : State :=
  if n = 0 then s
  else { s with ctxs := s.ctxs.upd ctx fun c =>
    { c with counters := smSet c.counters k (smGet c.counters k + BitVec.ofNat 64 n) } }

/-- The replacement priority a hint asks for (R175): evict-first for .ef, evict-last for .el, normal otherwise. -/
def hintPrio (h : Nat) : Nat := if h = 3 then 0 else if h = 4 then 2 else 1

/-- A copy touched by its owner: the priority rises to the touch's, never falls (R175). -/
def DieCopy.touch (c : DieCopy) (ctx pri tick : Nat) : DieCopy :=
  if c.owner = ctx then { c with prio := max c.prio pri, used := tick } else c

/-- An eviction by a die: a partial is merged alone, a dirty line is written back (Table 8.6). -/
def State.homeEvict (s : State) (die ln : Nat) : State :=
  match s.copyAt ln die with
  | none => s
  | some c =>
    let s := if c.st == .u then s.applyPartial ln c else s
    s.setLine ln (KMap.del ((s.lines.get? ln).getD []) die)

-- The banks of the dies' caches (R173–R177)

/-- The mask of the ways a context holds in each cache bank. -/
def State.waysOf (s : State) (ctx : Nat) : SMap 16 := ((s.ctxs.get? ctx).map (·.own.ways)).getD []

/-- The cache banks of a die in which a context holds ways, in ascending order (R173). -/
def State.banksOn (s : State) (ctx die : Nat) : List Nat := ((s.waysOf ctx).map (·.1)).filter fun k => k / 32 == die

/-- The bank of a die that takes a context's line, chosen by the hash of the line among those in which it holds ways. -/
def State.bankFor (s : State) (ctx die ln : Nat) : Nat :=
  let l := s.banksOn ctx die
  l.getD (Config.bankHash ln l.length % l.length) 0

/-- The copies in the set of a bank that a line belongs to, with their lines: 512 sets of 16 ways (R173). -/
def State.inSet (s : State) (bank ln : Nat) : List (Nat × DieCopy) :=
  (s.lines.filterMap fun e => (e.2.get? (bank / 32)).map fun c => (e.1, c)).filter fun e =>
    e.2.bank == bank && Config.bankSet e.1 % 512 == Config.bankSet ln % 512

/-- Which of two copies is replaced first: the lower priority, then the less recently touched (R175). -/
def DieCopy.before (a b : DieCopy) : Bool := a.prio < b.prio || a.prio == b.prio && a.used < b.used

/-- The copy that is replaced first. -/
def copyVictim : List (Nat × DieCopy) → Option (Nat × DieCopy)
  | [] => none
  | e :: r =>
    match copyVictim r with
    | none => some e
    | some v => some (if v.2.before e.2 then v else e)

/-- The lines a die's cache holds. -/
def State.linesOn (s : State) (die : Nat) : Nat := (s.lines.filter fun e => (e.2.get? die).isSome).length

/-- The fewest ways a context holds in a bank of a die where it holds any. -/
def State.fewestWays (s : State) (ctx die : Nat) : Nat :=
  ((s.banksOn ctx die).map fun k => (bitList (smGet (s.waysOf ctx) k)).length).foldl min 16

/-- A way of a bank for a context's line: a free one of those it holds, else that of the victim among them, which leaves.
While the die holds fewer lines than the context ways, one is free. -/
def State.takeWay (s : State) (ctx bank ln : Nat) : Nat × State :=
  let mask := smGet (s.waysOf ctx) bank
  let set := s.inSet bank ln
  let free := (bitList mask).find? fun w => !set.any fun e => e.2.way == w
  if s.linesOn (bank / 32) < s.fewestWays ctx (bank / 32) then (free.getD 0, s)
  else
    match free with
    | some w => (w, s)
    | none =>
      match copyVictim (set.filter fun e => mask.getLsbD e.2.way) with
      | some v => (v.2.way, s.homeEvict (bank / 32) v.1)
      | none => (0, s)

/-- A line enters a die's cache for a context, in one of its ways; a context without a way on the die allocates nothing
(R173). -/
def State.allocate (s : State) (die ctx ln : Nat) (st : CopyState) (pri op w : Nat) (pf : BitVec 4) : State :=
  if s.holdsWay ctx die then
    let bank := s.bankFor ctx die ln
    let (way, s) := s.takeWay ctx bank ln
    let s := { s with cacheTick := s.cacheTick + 1 }
    s.setLine ln (KMap.put ((s.lines.get? ln).getD []) die ⟨st, ctx, pri, op, w, [], bank, way, s.cacheTick, pf⟩)
  else s

/-- The lines in some ways of a bank are written back and leave it. -/
def State.emptyWays (s : State) (bank : Nat) (mask : BitVec 16) : State :=
  s.lines.foldl (fun s e =>
    match e.2.get? (bank / 32) with
    | some c => if c.bank = bank ∧ mask.getLsbD c.way then s.homeEvict (bank / 32) e.1 else s
    | none => s) s

/-- The lines in some ways of a bank leave it without being written back (R412). -/
def State.dropWays (s : State) (bank : Nat) (mask : BitVec 16) : State :=
  s.lines.foldl (fun s e =>
    match e.2.get? (bank / 32) with
    | some c => if c.bank = bank ∧ mask.getLsbD c.way then s.setLine e.1 (KMap.del e.2 (bank / 32)) else s
    | none => s) s

/-- A request of a context for sectors of a line that its die holds: a hit in its own ways or a foreign one, and the use of
prefetched sectors, which counts for the context that had them prefetched (R174, R175, R177). -/
def State.homeHit (s : State) (die ctx ln pri : Nat) (mask : BitVec 4) (demand : Bool) (c : DieCopy) : State :=
  let used := if demand then c.prefetched &&& mask else 0
  let s := { s with cacheTick := s.cacheTick + 1 }
  let s := s.setLine ln (KMap.put ((s.lines.get? ln).getD []) die
    { c.touch ctx pri s.cacheTick with prefetched := c.prefetched &&& ~~~used })
  let s := s.count ctx (if c.owner = ctx then 2 else 3) (bitList mask).length
  (s.count c.owner 6 (bitList used).length).count c.owner 7 (bitList used).length

/-- Whether a demand access continues a stream: up to 16 lines further in its direction, in its page (R176). -/
def Stream.holds (t : Stream) (ctx ln : Nat) : Bool :=
  t.ctx == ctx && t.lo ≤ ln && ln ≤ t.hi &&
    if t.up then t.last ≤ ln && ln ≤ t.last + 16 else ln ≤ t.last && t.last ≤ ln + 16

/-- The streams of a bank, one more among them: a ninth drops the one with the oldest demand access (R176). -/
def addStream (l : List Stream) (t : Stream) : List Stream :=
  if l.length < 8 then l ++ [t]
  else
    let old := (l.map (·.used)).foldl min t.used
    (l.filter fun x => x.used != old) ++ [t]

/-- What a bank's prefetcher makes of a demand access (R176): it continues a stream, or as a miss it may be the third of
three in one direction within 16 KiB, which start one. Consecutive misses are those that the bank sees of the context, since
the hash spreads neighbouring lines over the banks (DEDUCED). -/
def Prefetcher.see (p : Prefetcher) (ctx ln tick lo hi : Nat) (miss : Bool) : Prefetcher :=
  if p.streams.any fun t => t.holds ctx ln then
    let step (t : Stream) : Stream := if t.holds ctx ln then { t with last := ln, used := tick } else t
    { p with streams := p.streams.map step }
  else if !miss then p
  else
    let h := (p.misses.get? ctx).getD []
    let p := { p with misses := p.misses.put ctx (ln :: h.take 1) }
    match h with
    | [a, b] =>
      if b < a && a < ln && ln - b < 64 then { p with streams := addStream p.streams ⟨ctx, true, ln, ln, tick, lo, hi⟩ }
      else if ln < a && a < b && b - ln < 64 then { p with streams := addStream p.streams ⟨ctx, false, ln, ln, tick, lo, hi⟩ }
      else p
    | _ => p

/-- A demand access passes by the prefetcher of its bank; `page` gives the first and last line of its page. A context
without a way on the die has none, nor has one for which firmware has disabled it. -/
def State.streamSee (s : State) (die ctx ln : Nat) (miss : Bool) (page : Option (Nat × Nat)) : State :=
  match page with
  | none => s
  | some (lo, hi) =>
    if !s.holdsWay ctx die || s.fw.noPrefetch.contains ctx then s
    else
      let k := s.bankFor ctx die ln
      let p := (s.prefetchers.get? k).getD ⟨[], []⟩
      { s with prefetchers := s.prefetchers.put k (p.see ctx ln s.cacheTick lo hi miss) }

-- Requests at the home (Table 8.6)

/-- What a read does to the other dies' copies (Table 8.6). -/
def readLine (l : Line) : Line := l.all' fun _ c => if c.st == .m then { c with st := .o } else c

/-- A read request for sectors of a line by a context on a die (Table 8.6, R173–R177): by a demand access or by a
prefetch instruction. -/
def State.homeRead (s : State) (die ctx ln pri : Nat) (mask : BitVec 4) (demand : Bool) (page : Option (Nat × Nat)) : State :=
  let s := s.mergeLine ln
  match s.copyAt ln die with
  | some c =>
    let s := s.homeHit die ctx ln pri mask demand c
    if demand then s.streamSee die ctx ln false page else s
  | none =>
    let l := readLine ((s.lines.get? ln).getD [])
    let s := (s.count ctx 4 (bitList mask).length).setLine ln l
    let s := s.allocate die ctx ln (if l.isEmpty then .e else .s) pri 0 0 0
    if demand then s.streamSee die ctx ln true page else s

/-- A read that the prefetcher of a bank makes (R176, R177): the line enters the die's cache evict-first. -/
def State.homePrefetch (s : State) (die ctx ln : Nat) : State :=
  let s := s.mergeLine ln
  let l := readLine ((s.lines.get? ln).getD [])
  ((s.count ctx 5 4).setLine ln l).allocate die ctx ln (if l.isEmpty then .e else .s) 0 0 0 15#4

/-- An own request for a store to sectors of a line (Table 8.6): the die holds the sole copy. -/
def State.homeOwn (s : State) (die ctx ln pri : Nat) (mask : BitVec 4) (page : Option (Nat × Nat)) : State :=
  let s := s.mergeLine ln
  match s.copyAt ln die with
  | some c =>
    let s := s.homeHit die ctx ln pri mask true c
    let s := match s.copyAt ln die with
      | some c => s.setLine ln [(die, { c with st := .m })]
      | none => s
    s.streamSee die ctx ln false page
  | none =>
    let s := if s.holdsWay ctx die then s.count ctx 4 (bitList mask).length else s
    ((s.setLine ln []).allocate die ctx ln .m pri 0 0 0).streamSee die ctx ln true page

/-- An atomic request (Table 8.6): after any merge every copy is recalled. -/
def State.homeAtomic (s : State) (ln : Nat) : State := (s.mergeLine ln).setLine ln []

/-- An engine's access (Table 8.6): a read, or an own that leaves no die's copy. -/
def State.homeEngine (s : State) (ln : Nat) (wr : Bool) : State :=
  let s := s.mergeLine ln
  if wr then s.setLine ln []
  else s.setLine ln (((s.lines.get? ln).getD []).all' fun _ c => if c.st == .m then { c with st := .o } else c)

/-- An engine's access to many whole lines: those that no directory entry lists have no copy. -/
def State.engineSpan (s : State) (pa n : Nat) (wr : Bool) : State :=
  ((s.lines.filter fun e => pa / 256 ≤ e.1 && e.1 < (pa + n) / 256).map (·.1)).foldl (fun s l => s.homeEngine l wr) s

/-- Merge the partials of the lines of n bytes of memory (R208). -/
def State.mergeSpan (s : State) (pa n : Nat) : State :=
  ((s.lines.filter fun e => pa / 256 ≤ e.1 && e.1 < (pa + n) / 256).map (·.1)).foldl (fun s l => s.mergeLine l) s

/-- An engine's access to n bytes. -/
def State.engineTouch (s : State) (pa n : Nat) (wr : Bool) : State :=
  (List.range ((pa % 256 + n + 255) / 256)).foldl (fun s i => s.homeEngine (pa / 256 + i) wr) s

/-- An update request for operation h and width w (R206, R207): U is granted, after a merge where another tag has it, and
copies other than U are recalled. A line that the die holds stays in its way, its owner's (R174); without a way on the die
the copy is not granted. -/
def State.homeUpdate (s : State) (die ctx ln h w : Nat) : State :=
  let old := s.copyAt ln die
  if old.any fun c => c.st == .u && c.op == h && c.w == w then s
  else
    let other := ((s.lines.get? ln).getD []).any fun e => e.2.st == .u && !(e.2.op == h && e.2.w == w)
    let s := if other then s.mergeLine ln else s
    let l := ((s.lines.get? ln).getD []).filter fun e => e.2.st == .u
    match old with
    | some c => s.setLine ln (KMap.put l die { c with st := .u, op := h, w := w, part := [] })
    | none => (s.setLine ln l).allocate die ctx ln .u 1 h w 0

/-- Perform a RED at a physical address (R206, R207): in the die's partial where it is granted, else at the home. -/
def State.redAt (s : State) (die ctx h w pa x : Nat) (eligible : Bool) : State :=
  let ln := pa / 256
  let n := atomSize w
  let home (s : State) : State := (s.homeAtomic ln).wr pa n (atomNew h w ((s.homeAtomic ln).rd pa n) x 0)
  if eligible then
    let s := s.homeUpdate die ctx ln h w
    match s.copyAt ln die with
    | some c =>
      if c.st == .u then
        let old := ((c.part.get? (pa % 256)).map (·.toNat)).getD (atomIdentity h w)
        s.setLine ln (KMap.put ((s.lines.get? ln).getD []) die
          { c with part := c.part.put (pa % 256) (BitVec.ofNat 64 (atomNew h w old x 0)) })
      else home s
    | none => home s
  else home s

-- L1 (R171, Table 7.5)

/-- The sector that a core's L1 holds for a physical address. -/
def Core.l1Sector (c : Core) (pa : Nat) : Option (BitVec 512 × Bool) :=
  match c.l1.get? (pa / 256) with
  | none => none
  | some l => l.sectors.get? (pa / 64 % 4)

/-- n bytes of a sector from the byte of an address. -/
def sectorBytes (d : BitVec 512) (pa n : Nat) : Nat := d.toNat / 2 ^ (8 * (pa % 64)) % 2 ^ (8 * n)

/-- A sector of memory. -/
def State.sectorData (s : State) (sector : Nat) : BitVec 512 := BitVec.ofNat 512 (smNat s.mem (64 * sector) 64)

/-- Change a core. -/
def State.onCore (s : State) (core : Nat) (f : Core → Core) : State := { s with cores := s.cores.upd core f }

/-- A load hit: the line becomes the most recently used. -/
def Core.l1Touch (c : Core) (pa : Nat) : Core :=
  { c with l1tick := c.l1tick + 1, l1 := c.l1.upd (pa / 256) fun l => { l with used := c.l1tick + 1 } }

/-- Which of two lines the L1 gives up first: the lower class, then the less recently used (R171). -/
def l1Before (a b : Nat × L1Line) : Bool := a.2.cls < b.2.cls || a.2.cls == b.2.cls && a.2.used < b.2.used

/-- The first line to be given up of a list. -/
def l1Victim : List (Nat × L1Line) → Option (Nat × L1Line)
  | [] => none
  | e :: r =>
    match l1Victim r with
    | none => some e
    | some v => some (if l1Before v e then v else e)

/-- Room for a line: present, or a free way of its set, or a victim with no fill in progress (R171). -/
def Core.l1Room (c : Core) (ln : Nat) (busy : List Nat) : Option Core :=
  let set := c.l1.filter fun e => e.1 % 64 == ln % 64
  if (c.l1.get? ln).isSome || set.length < 8 then some c
  else
    match l1Victim (set.filter fun e => !busy.contains e.1) with
    | none => none
    | some v => some { c with l1 := c.l1.del v.1 }

/-- Fill a sector into a core's L1 with what memory holds, after any merge (R163, R171, R208); `busy` are lines with a fill
in progress. -/
def State.l1Fill (s : State) (core : Nat) (f : L1Fill) (busy : List Nat) : State :=
  let s := s.mergeLine (f.sector / 4)
  let d := s.sectorData f.sector
  s.onCore core fun c =>
    let ln := f.sector / 4
    match c.l1Room ln busy with
    | none => c
    | some c =>
      let l := (c.l1.get? ln).getD ⟨f.cls, 0, []⟩
      { c with l1tick := c.l1tick + 1,
               l1 := c.l1.put ln ⟨f.cls, c.l1tick + 1, l.sectors.put (f.sector % 4) (d, f.ro)⟩ }

/-- A store by a thread of the core has been performed: its sector, if present, is updated, and holds nothing older than the
home does (R171, R163, R193). -/
def State.l1Update (s : State) (core pa : Nat) : State :=
  let v := s.sectorData (pa / 64)
  s.onCore core fun c =>
    match c.l1Sector pa with
    | none => c
    | some _ => { c with l1 := c.l1.upd (pa / 256) fun l =>
        { l with sectors := l.sectors.upd (pa / 64 % 4) fun d => (v, d.2) } }

/-- Invalidate one sector of an L1; a line without sectors gives up its way. -/
def State.l1Drop (s : State) (core pa : Nat) : State :=
  s.onCore core fun c =>
    match c.l1.get? (pa / 256) with
    | none => c
    | some l =>
      let d := l.sectors.del (pa / 64 % 4)
      { c with l1 := if d.isEmpty then c.l1.del (pa / 256) else c.l1.put (pa / 256) { l with sectors := d } }

/-- Invalidate the sectors of n bytes. -/
def State.l1DropRange (s : State) (core pa n : Nat) : State :=
  (List.range ((pa % 64 + n + 63) / 64)).foldl (fun s i => s.l1Drop core (pa + 64 * i)) s

/-- No core's L1 keeps a line of n bytes: a frame takes new contents (R192, R204). -/
def State.l1Forget (s : State) (pa n : Nat) : State :=
  { s with cores := s.cores.all' fun _ c =>
      { c with l1 := c.l1.filter fun e => !(pa / 256 ≤ e.1 && e.1 < (pa + n) / 256) } }

/-- Invalidate the read-only sectors of an L1 (R163). -/
def State.l1DropRo (s : State) (core : Nat) : State :=
  s.onCore core fun c =>
    { c with l1 := (c.l1.all' fun _ l => { l with sectors := l.sectors.filter fun d => !d.2.2 }).filter
               fun e => !e.2.sectors.isEmpty }

/-- Invalidate an L1: every sector that is not marked read-only (R204), or all of them. -/
def State.l1Inval (s : State) (core : Nat) (roToo : Bool) : State :=
  s.onCore core fun c =>
    { c with l1 := if roToo then []
             else (c.l1.all' fun _ l => { l with sectors := l.sectors.filter fun d => d.2.2 }).filter
               fun e => !e.2.sectors.isEmpty }

end Sys2Proof.Machine
end

