-- ==== Sys2Proof/Machine/Walk.lean ====
section
/-!
DEFINITION. Translation: the walk, the sheet, composition, the TLB and the control window (R212–R226, R233–R236,
R388, R391).
-/

namespace Sys2Proof.Machine

/-- What an access needs of a leaf: a load R, a store or RED W, an atomic both, a fetch X (R217). -/
structure Need where
  r : Bool
  w : Bool
  x : Bool
  deriving DecidableEq, Repr

/-- A load. -/
def needR : Need := ⟨true, false, false⟩
/-- A store or RED. -/
def needW : Need := ⟨false, true, false⟩
/-- An atomic. -/
def needRW : Need := ⟨true, true, false⟩
/-- Hardware that moves a frame asks for no permission. -/
def noNeed : Need := ⟨false, false, false⟩
/-- A fetch. -/
def needX : Need := ⟨false, false, true⟩

/-- Whether the permissions allow what is needed. -/
def Need.ok (n : Need) (r w x : Bool) : Bool := (!n.r || r) && (!n.w || w) && (!n.x || x)

/-- A failed translation: kind, the context whose table or sheet faulted, the address in its space, and the physical
address of the leaf (R227, R230). -/
structure XFault where
  kind : FaultKind
  fctx : Nat
  addr : Nat
  leaf : Nat
  deriving DecidableEq, Repr

/-- Whether a fault kind is replayable (Table 9.5). -/
def FaultKind.replayable : FaultKind → Bool
  | .notpresent | .migrating | .poolempty | .remoteretry | .cow => true
  | .noncanon | .badentry | .perm | .key | .nomem | .ancestorvers | .tablepoison | .parktimeout | .nacklim
  | .remote => false

/-- The cause of a terminal fault of a kind (Table 9.5). -/
def FaultKind.cause : FaultKind → Cause
  | .notpresent | .migrating | .noncanon | .badentry | .parktimeout | .cow => .page
  | .poolempty => .vpool
  | .remoteretry | .remote => .remote
  | .perm | .key | .nomem | .ancestorvers => .prot
  | .tablepoison => .poison
  | .nacklim => .nacklim

/-- A context's record; a free number reads as a blank one. -/
def State.ctx (s : State) (c : Nat) : Ctx := (s.ctxs.get? c).getD Ctx.blank

/-- Change a context. -/
def State.onCtx (s : State) (c : Nat) (f : Ctx → Ctx) : State := { s with ctxs := s.ctxs.upd c f }

/-- A context followed by its ancestors up to the root: at most seven (R387). -/
def State.lineage (s : State) (c : Nat) : List Nat := go 7 c
where
  /-- n contexts upwards. -/
  go : Nat → Nat → List Nat
    | 0, _ => []
    | n + 1, c => if c = 0 then [0] else c :: go n (s.ctx c).parent

/-- Whether `a` is an ancestor of `c`. -/
def State.isAncestor (s : State) (a c : Nat) : Bool := c != a && (s.lineage c).contains a

/-- The descendants of a context (R387). -/
def State.descendants (s : State) (c : Nat) : List Nat := (s.ctxs.map (·.1)).filter fun d => s.isAncestor c d

/-- What a context may itself use of a budget: its value less what its children hold of it (R391, R393). -/
def State.ownBudget (s : State) (c : Nat) (f : Ctx → Nat) : Nat :=
  f (s.ctx c) - ((s.ctxs.filter fun e => e.1 != 0 && e.2.parent == c && e.2.st != .free).map fun e => f e.2).sum

/-- Whether a key slot is bound to the context, an ancestor or a descendant (R221). -/
def State.keyOk (s : State) (c slot : Nat) : Bool :=
  match s.keys.get? slot with
  | none => false
  | some (o, _) => o == c || s.isAncestor o c || s.isAncestor c o

/-- The end of the root's translation: local memory that exists or a remote window (R221, R233–R235). -/
def State.physOk (s : State) (pa : Nat) : Bool :=
  s.localPa pa || (2 ^ 40 ≤ pa && pa / 2 ^ 40 ≤ s.fw.packages && pa < 2 ^ 50)

-- Other packages' memory (R180, R233)

/-- The pod index of the package behind window n: the n-th other package in ascending pod index (R233). -/
def State.windowPod (s : State) (n : Nat) : Nat := if n - 1 < s.podIdx then n - 1 else n

/-- How another package answers the access at a physical address (R335). -/
def State.answer (s : State) (pa : Nat) : Nat := (Config.remoteAnswer s.ticks (pa / 2 ^ 40) (pa % 2 ^ 40)).val

/-- What this package last left in bytes of another package's memory is forgotten where another agent has written them
since: a read may then find any later value (R172). -/
def State.remoteForget (s : State) (pa n : Nat) : State :=
  { s with remoteKnown := s.remoteKnown.filter fun e =>
      !(pa ≤ e.1 && e.1 < pa + n && Config.remoteRewritten s.ticks (e.1 / 2 ^ 40) (e.1 % 2 ^ 40)) }

/-- Bytes of another package's memory with their poison: what this package left there, or open values (R172, R180). -/
def State.remoteBytes (s : State) (pa n : Nat) : List (Byte × Bool) :=
  (List.range n).map fun i =>
    let a := pa + i
    let p := Config.remotePoison s.ticks (a / 2 ^ 40) (a % 2 ^ 40 / 64)
    match s.remoteKnown.get? a with
    | some b => (b.1, b.2 || p)
    | none => (Config.remoteByte s.ticks (a / 2 ^ 40) (a % 2 ^ 40), p)

/-- What another package's memory holds after this package's access, as far as it is known: nothing where the access was not
done. -/
def State.remoteLeave (s : State) (pa : Nat) (d : List (Byte × Bool)) : State :=
  let l := s.remoteKnown.filter fun e => !(pa ≤ e.1 && e.1 < pa + d.length)
  { s with remoteKnown :=
      if s.answer pa = 0 then (List.range d.length).foldl (fun m i => KMap.put m (pa + i) (d.getD i (0, false))) l else l }

/-- A write to another package's memory leaves (R180). -/
def State.remoteWr (s : State) (c pa : Nat) (d : List (Byte × Bool)) : State :=
  { s with remoteOut := s.remoteOut ++ [(⟨c, s.windowPod (pa / 2 ^ 40), pa, d, none⟩ : RemoteWrite)] }.remoteLeave pa d

/-- An atomic or RED on another package's memory, of n bytes (R166, R180): its old value, and the state after it. -/
def State.remoteAtom (s : State) (c pa h w : Nat) (red : Bool) (v swp : Nat) : Nat × State :=
  let n := atomSize w
  let d := s.remoteBytes pa n
  let old := natOf (d.map (·.1))
  let new := bytesOf n (atomNew h w old v swp)
  (old, { s with remoteOut := s.remoteOut ++
      [(⟨c, s.windowPod (pa / 2 ^ 40), pa, (bytesOf n v).map fun b => (b, false), some (h, w, swp, red)⟩ : RemoteWrite)] }.remoteLeave pa
    ((List.range n).map fun i => (new.getD i 0, (d.getD i (0, false)).2)))

/-- The walker's read of n bytes of a table, after any merge of its line (R208, R217); the merge itself takes place with the
line's next request. -/
def State.tblRd (s : State) (pa n : Nat) : Nat :=
  if 2 ^ 40 ≤ pa then natOf ((s.remoteBytes pa n).map (·.1)) else s.rdAt pa n

/-- The walker's read meets poison (R217). -/
def State.tblBad (s : State) (pa n : Nat) : Bool :=
  if 2 ^ 40 ≤ pa then (s.remoteBytes pa n).any (·.2) else s.poisoned pa

/-- The walker's atomic write of n bytes of a table, on behalf of context c (R222, R238). -/
def State.tblWr (s : State) (c pa n v : Nat) : State :=
  if 2 ^ 40 ≤ pa then s.remoteWr c pa ((bytesOf n v).map fun b => (b, false)) else (s.homeAtomic (pa / 256)).wr pa n v

/-- The strongest ordering kind: SO above RC above UO (R221). -/
def ordMax (a b : Nat) : Nat := if a = 1 ∨ b = 1 then 1 else if a = 0 ∨ b = 0 then 0 else 2

/-- Whether an address lies in a context's sheet (R219). -/
def Ctx.inSheet (t : Ctx) (a : Nat) : Bool := t.sbase.toNat ≤ a && a < t.slimit.toNat

/-- The stamp words of a sheet address at every level: context and virtual address of the word (R220, R222). -/
def State.sheetWords (s : State) (c a : Nat) : List (Nat × Nat) := go 7 c a
where
  /-- n levels upwards. -/
  go : Nat → Nat → Nat → List (Nat × Nat)
    | 0, _, _ => []
    | n + 1, c, a =>
      let t := s.ctx c
      if t.inSheet a then
        (c, t.sstamp.toNat + 4 * ((a - t.sbase.toNat) / 65536)) ::
          (if c = 0 then [] else go n t.parent ((a + t.soff.toNat) % 2 ^ 64))
      else []

/-- A fault of a level. -/
def xerr {α : Type} (k : FaultKind) (c a : Nat) (leaf : Nat := 0) : Except XFault α := .error ⟨k, c, a, leaf⟩

/-- A directory entry of n-byte alignment is good: valid, and its pointer aligned (R215, R217). -/
def dirCheck (c a e align : Nat) (kinds : List Nat) : Except XFault Unit :=
  if e % 2 = 0 then xerr .notpresent c a
  else if !kinds.contains (e / 2 % 8) || bits e 51 4 * 16 % align != 0 then xerr .badentry c a
  else .ok ()

/-- The walk of an address in one context, its tables read by `rd` (R214–R217): where the leaf lies and the page size. -/
def walkDir (rd : Nat → Nat → Except XFault Nat) (c root a : Nat) : Except XFault (Nat × Nat) := do
  if root % 16384 != 0 then xerr .badentry c a
  let e1 ← rd (root + 8 * bits a 51 41) 8
  dirCheck c a e1 4096 [0]
  let e2 ← rd (bits e1 51 4 * 16 + 8 * bits a 40 32) 8
  dirCheck c a e2 16 [0, 3]
  if e2 / 2 % 8 = 3 then pure (bits e2 51 4 * 16, 2 ^ 32)
  else
    dirCheck c a e2 4096 [0]
    let e3 ← rd (bits e2 51 4 * 16 + 8 * bits a 31 23) 8
    dirCheck c a e3 16 [1, 2, 3]
    match e3 / 2 % 8 with
    | 1 => do dirCheck c a e3 2048 [1]; pure (bits e3 51 4 * 16 + 16 * bits a 22 16, 2 ^ 16)
    | 2 => do dirCheck c a e3 64 [2]; pure (bits e3 51 4 * 16 + 16 * bits a 22 21, 2 ^ 21)
    | _ => pure (bits e3 51 4 * 16, 2 ^ 23)

/-- The checks of a leaf (R217, R221): presence, MIG, a legal entry, permission and key. -/
def leafCheck (s : State) (c a l size pl : Nat) (need : Need) (top : Bool) : Except XFault Unit :=
  if l % 2 = 0 then xerr .notpresent c a pl
  else if l / 2 ^ 7 % 2 = 1 then xerr .migrating c a pl
  else if bits l 5 4 = 3 || bits l 55 20 * 65536 % size != 0 || (l / 2 ^ 6 % 2 = 1 && 2 ^ 21 < size) then
    xerr .badentry c a pl
  else if !need.ok (l / 2 % 2 == 1) (l / 4 % 2 == 1) (l / 8 % 2 == 1) then xerr .perm c a pl
  else if bits l 19 8 != 0 && !s.keyOk c (bits l 19 8) then xerr .key c a pl
  else if !top && l / 2 ^ 6 % 2 = 1 then xerr .ancestorvers c a pl
  else .ok ()

/-- Composed translation of an address in context c (R219, R221). The first argument bounds the levels still to go:
eight are enough for the deepest context. -/
def State.xlate (s : State) : Nat → Nat → Nat → Need → Bool → Except XFault Xl
  | 0, c, a, _, _ => xerr .badentry c a
  | f + 1, c, a, need, top => do
    let t := s.ctx c
    if 2 ^ 52 ≤ a then xerr .noncanon c a
    if t.inSheet a then
      if need.x then xerr .perm c a
      let pa := (a + t.csoff.toNat) % 2 ^ 64
      if !s.physOk pa then xerr .nomem c a
      let lv := (s.sheetWords c a).filterMap fun e =>
        match s.xlate f e.1 e.2 needW true with
        | .ok x => some (e.1, x.pa)
        | .error _ => none
      pure ⟨pa, 65536, true, true, false, 0, t.skey.toNat, 0, false, 0, 0, lv⟩
    else if 0x000FFFF000000000 ≤ a then xerr .nomem c a
    else
      let phys (p : Nat) : Except XFault Nat :=
        if c = 0 then (if s.physOk p then .ok p else xerr .nomem c p)
        else (s.xlate f t.parent p needR false).map (·.pa)
      let rd (p n : Nat) : Except XFault Nat := do
        let q ← phys p
        if s.tblBad q n then xerr .tablepoison c a
        pure (s.tblRd q n)
      let (lp, size) ← walkDir rd c t.root.toNat a
      let l ← rd lp 16
      let pl ← phys lp
      leafCheck s c a l size pl need top
      let up := bits l 55 20 * 65536 + a % size
      let own : Xl := ⟨up, size, l / 2 % 2 == 1, l / 4 % 2 == 1, l / 8 % 2 == 1, bits l 5 4, bits l 19 8, pl,
        l / 2 ^ 6 % 2 == 1, bits l 55 20 * 65536, bits l 127 96, [(c, pl + 8)]⟩
      if c = 0 then
        if s.physOk up then pure own else xerr .nomem c a pl
      else
        let x ← s.xlate f t.parent up need false
        pure { own with pa := x.pa, size := min size x.size, r := own.r && x.r, w := own.w && x.w, x := own.x && x.x,
                        ord := ordMax own.ord x.ord, key := if own.key = 0 then x.key else own.key,
                        levels := own.levels ++ x.levels }

/-- The levels a translation may pass through, with two to spare for the stamp words. -/
def xFuel : Nat := 9

/-- Where an address of the space that a context's table pointers and FRAME fields name lies: physical for the root, else
through its parent (R212, R217, R238). -/
def State.upPa (s : State) (c p : Nat) (need : Need) : Except XFault Nat :=
  if c = 0 then (if s.physOk p then .ok p else xerr .nomem c p)
  else (s.xlate xFuel (s.ctx c).parent p need false).map (·.pa)

/-- The context's own leaf of an address, without composition (R238): its physical address, the page's size and the
leaf's 16 bytes. -/
def State.ownLeaf (s : State) (c a : Nat) : Except XFault (Nat × Nat × Nat) := do
  let rd (p n : Nat) : Except XFault Nat := do
    let q ← s.upPa c p needR
    if s.tblBad q n then xerr .tablepoison c a
    pure (s.tblRd q n)
  let (lp, size) ← walkDir rd c (s.ctx c).root.toNat a
  let l ← rd lp 16
  let pl ← s.upPa c lp needR
  pure (pl, size, l)

/-- Whether a data access by context c may touch the region of a physical address (R391). -/
def State.regionOk (s : State) (c pa : Nat) : Bool :=
  2 ^ 40 ≤ pa || (s.lineage c).any fun a => (s.ctx a).own.regions.getLsbD (pa / 2 ^ 32)

/-- Where an access goes: memory or a remote window, a control page, a queue control block, or the landing map, through
a page whose ordering kind is SO or not (R388, R66, R312). -/
inductive Loc where
  | mem (x : Xl)
  | ctl (ctx off : Nat)
  | qcb (q off : Nat)
  | land (off : Nat) (so : Bool)
  deriving DecidableEq, Repr

/-- The control window (R388). -/
def State.ctlLoc (s : State) (c a : Nat) (need : Need) : Except XFault Loc :=
  let x := (a - 0x000FFFF000000000) / 65536
  if need.x then xerr .perm c a
  else if 0x000FFFFFFFFF0000 ≤ a then .ok (.ctl c (a % 65536))
  else if 4096 ≤ x then xerr .badentry c a
  else if x = c ∨ (s.isAncestor c x ∧ (s.ctxs.get? x).isSome) then .ok (.ctl x (a % 65536))
  else xerr .perm c a

/-- Where a translated address lies: the queue control blocks and the landing map form tables at fixed physical bases
(R66, R312). -/
def State.physLoc (s : State) (x : Xl) : Loc :=
  if s.stage == .s2 ∧ s.fw.qcbBase ≤ x.pa ∧ x.pa < s.fw.qcbBase + 65536 then
    .qcb ((x.pa - s.fw.qcbBase) / 64) ((x.pa - s.fw.qcbBase) % 64)
  else if s.stage == .s2 ∧ s.fw.landBase ≤ x.pa ∧ x.pa < s.fw.landBase + 4096 then .land (x.pa - s.fw.landBase) (x.ord == 1)
  else .mem x

/-- A data access by context c walks its address (R217, R219, R221, R388, R391). -/
def State.locateWalk (s : State) (c a : Nat) (need : Need) : Except XFault Loc :=
  if 0x000FFFF000000000 ≤ a ∧ a < 2 ^ 52 then s.ctlLoc c a need
  else do
    let x ← s.xlate xFuel c a need true
    if !need.x && !s.regionOk c x.pa then
      match s.physLoc x with
      | .mem _ => xerr .nomem c a x.leaf
      | l => pure l
    else pure (s.physLoc x)

/-- A TLB entry covers an address of a context: its GEN is current (R223). -/
def TlbEntry.covers (e : TlbEntry) (c a : Nat) (gen : BitVec 16) : Bool :=
  e.ctx == c && e.gen == gen && e.page ≤ a && a < e.page + e.xl.size

/-- The translation an entry gives for an address of its page. -/
def TlbEntry.at (e : TlbEntry) (a : Nat) : Xl := { e.xl with pa := e.xl.pa + (a - e.page) }

/-- The TLB entry of a core that serves an address, and permits the access; an entry filled by an LDV serves no other
access (R223, R243). -/
def State.tlbFind (s : State) (core c a : Nat) (need : Need) : Option TlbEntry :=
  match s.cores.get? core with
  | none => none
  | some k => k.tlb.find? fun e =>
      e.range.isNone && e.covers c a (s.ctx c).gen && need.ok e.xl.r e.xl.w e.xl.x

/-- The TLB entry of a core that serves an LDV of version w: w lies in its range (R223, R243). -/
def State.tlbFindV (s : State) (core c a : Nat) (w : Word) : Option TlbEntry :=
  match s.cores.get? core with
  | none => none
  | some k => k.tlb.find? fun e =>
      e.covers c a (s.ctx c).gen && e.xl.r && e.range.any fun v => v.1.ule w && v.2.all fun hi => w.ult hi

/-- A thread's data access: through the TLB, else by a walk (R219, R223). -/
def State.locate (s : State) (core c a : Nat) (need : Need) : Except XFault Loc :=
  match s.tlbFind core c a need with
  | some e => .ok (s.physLoc (e.at a))
  | none => s.locateWalk c a need

/-- Fill the TLB after a walk (R223), for an LDV with the versions the entry serves; the sheet uses no TLB (R219). -/
def State.tlbFill (s : State) (core c a : Nat) (x : Xl) (range : Option (Word × Option Word) := none) : State :=
  let have' := match range with
    | none => (s.tlbFind core c a ⟨false, false, false⟩).isSome
    | some v => (s.tlbFindV core c a v.1).isSome
  if x.leaf = 0 || have' then s
  else
    let cur := x.levels.all fun e => s.tblRd e.2 4 == (s.ctx e.1).step.toNat
    s.onCore core fun k => { k with tlb :=
      ⟨c, (s.ctx c).gen, a - a % x.size, { x with pa := x.pa - a % x.size }, cur, range⟩ :: k.tlb }

/-- Update the stamps of a write by context c: the given STEP at its own level, each ancestor's STEP above it (R222). -/
def State.stamp (s : State) (c : Nat) (x : Xl) (step : Word) : State :=
  x.levels.foldl (fun s e =>
    let v := (if e.1 = c then step else (s.ctx e.1).step).toNat
    if s.tblRd e.2 4 < v then s.tblWr e.1 e.2 4 v else s) s

/-- The stamps of a write by a thread: through a TLB entry whose stamp-current bit is set none is needed, and the first write
through another sets it (R223). -/
def State.stampTlb (s : State) (core c a : Nat) (x : Xl) (step : Word) : State :=
  match s.tlbFind core c a ⟨false, false, false⟩ with
  | none => s.stamp c x step
  | some e =>
    if e.stamped then s
    else
      let set (y : TlbEntry) : TlbEntry := if y = e then { y with stamped := true } else y
      (s.stamp c x step).onCore core fun k => { k with tlb := k.tlb.map set }

/-- The stamp that an LDV of context c reads for an address: its leaf's, or its sheet word's (R219, R243). -/
def State.stampOf (s : State) (c : Nat) (x : Xl) : Nat :=
  match x.levels.find? fun e => e.1 == c with
  | some e => s.tblRd e.2 4
  | none => 0

/-- Discard the TLB entries of some contexts that overlap a range (R224). -/
def State.tlbDrop (s : State) (own : Nat) (lo hi : Nat) (subs : List Nat) : State :=
  { s with cores := s.cores.all' fun _ k => { k with tlb := k.tlb.filter fun e =>
      !(subs.contains e.ctx || e.ctx == own && (e.page < hi) && lo < e.page + e.xl.size) } }

/-- Advance a context's GEN, flushing its TLB entries before it wraps (R224, R226). -/
def State.bumpGen (s : State) (c : Nat) : State :=
  let s := if (s.ctx c).gen = 0xFFFF then s.tlbDrop c 0 (2 ^ 52) [] else s
  s.onCtx c fun t => { t with gen := t.gen + 1 }

/-- The effect of an invalidation of a range in a context (R224); a length of 0 is the whole space. -/
def State.invalidate (s : State) (c lo len : Nat) : State :=
  let subs := s.descendants c
  let s := s.tlbDrop c (if len = 0 then 0 else lo) (if len = 0 then 2 ^ 52 else lo + len) subs
  let s := subs.foldl (fun s d => s.bumpGen d) s
  if len = 0 then s.bumpGen c else s

/-- Clear the stamp-current bits of a context and its descendants (R223). -/
def State.clearStamped (s : State) (c : Nat) : State :=
  let l := c :: s.descendants c
  let clear (e : TlbEntry) : TlbEntry := if l.contains e.ctx then { e with stamped := false } else e
  { s with cores := s.cores.all' fun _ k => { k with tlb := k.tlb.map clear } }

/-- Where a fetch by a core in context c finds an address: through the TLB, else by a walk (R217, R223). -/
def State.fetchXl (s : State) (core c a : Nat) : Except XFault Xl :=
  if 0x000FFFF000000000 ≤ a then xerr .perm c a
  else match s.tlbFind core c a needX with
    | some e => .ok (e.at a)
    | none => s.xlate xFuel c a needX true

/-- The word at a word address, fetched by a core in context c: its value or a failed translation (R217, R228). -/
def State.fetch (s : State) (core c pc : Nat) : Except XFault Word := do
  let x ← s.fetchXl core c (4 * pc)
  pure (BitVec.ofNat 32 (s.tblRd x.pa 4))

/-- Fill the TLB with the translation of a word that has been fetched (R223). -/
def State.fetchFill (s : State) (core c pc : Nat) : State :=
  match s.fetchXl core c (4 * pc) with
  | .ok x => s.tlbFill core c (4 * pc) x
  | .error _ => s

end Sys2Proof.Machine
end

