-- ==== Sys2Proof/Machine/CtlPage.lean ====
section
/-!
DEFINITION. What a read of a control page or of a queue control block returns (Tables 3.2, 7.6, 9.1, 10.2, 17.1, 17.2).
-/

namespace Sys2Proof.Machine

/-- Two fields of a doubleword: one from bit `sh` upwards, one below. -/
def f2 (hi sh lo : Nat) : Nat := hi * 2 ^ sh + lo

/-- A doubleword of a TCB (Table 9.1). -/
def Ctx.tcbDword (t : Ctx) (k : Nat) : Nat :=
  match k with
  | 0 => t.root.toNat
  | 1 => t.sbase.toNat
  | 2 => t.slimit.toNat
  | 3 => t.soff.toNat
  | 4 => t.csoff.toNat
  | 5 => t.sstamp.toNat
  | 6 => t.chainbase.toNat
  | 8 => f2 t.rlog.toNat 60 t.rring.toNat
  | 9 => f2 t.tlog.toNat 60 t.tring.toNat
  | 10 => f2 t.plog.toNat 60 t.pring.toNat
  | 11 => f2 t.parkto.toNat 32 0
  | 12 => t.invaddr.toNat
  | 13 => f2 t.invseq.toNat 32 t.invlen.toNat
  | 14 => t.invdone.toNat
  | 15 => f2 t.pmode 48 (f2 t.diemask.toNat 44 (f2 t.seed.toNat 32 (f2 t.skey.toNat 16 t.gen.toNat)))
  | _ => 0

/-- A doubleword of an SCB (Table 10.2). -/
def Ctx.scbDword (t : Ctx) (k : Nat) : Nat :=
  match k with
  | 0 => t.spool.toNat
  | 1 => f2 t.scnt.toNat 32 t.scap.toNat
  | 2 => t.lpool.toNat
  | 3 => f2 t.lcnt.toNat 32 t.lcap.toNat
  | 5 => f2 t.dacc.toNat 32 t.dref.toNat
  | 6 => f2 t.chainto.toNat 32 (t.scrubret.toNat * 4 + t.eager.toNat * 2)
  | 7 => f2 t.sllog.toNat 60 t.slbase.toNat
  | 8 => t.cowcnt.toNat
  | 9 => t.retcnt.toNat
  | _ => 0

/-- A doubleword of a status block (Table 17.2). -/
def Ctx.statusDword (t : Ctx) (c k : Nat) : Nat :=
  match k with
  | 0 => f2 t.st.code 60 (f2 t.pmode 58 (f2 t.depth 55 (f2 t.parent 12 c)))
  | 1 => t.hmask.toNat
  | 2 => t.handler.toNat
  | 3 => t.haltmask.toNat
  | 4 => f2 t.slog.toNat 60 t.sring.toNat
  | 5 => f2 t.quantum.toNat 32 t.slicebud.toNat
  | 6 => f2 t.entq.toNat 48 (f2 t.uaq.toNat 32 (f2 t.bww.toNat 16 t.pjob.toNat))
  | 7 => f2 t.childmax.toNat 48 (f2 t.keymax.toNat 32 t.frameq.toNat)
  | 8 => t.savebase.toNat
  | 9 => f2 t.pooln.toNat 32 t.savesz.toNat
  | 10 => t.poolbase.toNat
  | 11 => t.nrevoke.toNat
  | _ => 0

/-- The cache banks a set of units holds ways in, as a bitmap. -/
def Units.cacheBanks (u : Units) : Nat := u.ways.foldl (fun a e => a + 2 ^ e.1) 0

/-- The doubleword of a bitmap. -/
def mapDword (b : Nat) (k : Nat) : Nat := b / 2 ^ (64 * k) % 2 ^ 64

/-- A doubleword of the bitmaps of units held for own use (Table 17.1), by its byte offset in the page. -/
def Units.dword (u : Units) (off : Nat) : Nat :=
  if off < 0x410 then mapDword u.groups.toNat ((off - 0x400) / 8)
  else if off < 0x420 then mapDword u.banks.toNat ((off - 0x410) / 8)
  else if off < 0x430 then mapDword u.cacheBanks ((off - 0x420) / 8)
  else if off < 0x438 then f2 u.stack.toNat 36 (f2 u.raster.toNat 32 (f2 u.ual.toNat 16 u.copy.toNat))
  else if off < 0x440 then 0
  else if off < 0x470 then mapDword u.channels.toNat ((off - 0x440) / 8)
  else if off < 0x480 then 0
  else if off < 0x500 then mapDword u.queues.toNat ((off - 0x480) / 8)
  else if off < 0x600 then smNat u.ways ((off - 0x500) / 2) 4
  else if off < 0x800 then mapDword u.counters.toNat ((off - 0x600) / 8)
  else if off < 0x820 then mapDword u.regions.toNat ((off - 0x800) / 8)
  else 0

/-- An aligned doubleword of context c's control page (Table 17.1); bytes not listed read as zero (R389). -/
def State.ctlDword (s : State) (c off : Nat) : Nat :=
  let t := s.ctx c
  if off < 0x80 then t.tcbDword (off / 8)
  else if off < 0x100 then t.scbDword ((off - 0x80) / 8)
  else if off < 0x180 then t.statusDword c ((off - 0x100) / 8)
  else if off < 0x200 then 0
  else if off < 0x248 then (smGet t.counters ((off - 0x200) / 8)).toNat
  else if off < 0x400 then 0
  else t.own.dword off

/-- A queue's control block; a queue never written reads as zeros. -/
def State.qcb (s : State) (q : Nat) : Qcb := (s.qcbs.get? q).getD Qcb.zero

/-- An aligned doubleword of a queue control block (Table 3.2). -/
def Qcb.dword (q : Qcb) (off : Nat) : Nat :=
  match off / 8 with
  | 0 => f2 q.slotlog.toNat 52 q.base.toNat
  | 1 => q.widx.toNat
  | 2 => q.ridx.toNat
  | 3 => f2 q.err.toNat 8 q.qstate.toNat
  | 4 => q.pcap.toNat * 2 + q.en.toNat
  | _ => 0

/-- n bytes, within aligned doublewords given by `dw`, as a number. -/
def dwordBytes (dw : Nat → Nat) (off n : Nat) : Nat :=
  ((List.range n).map fun i => dw ((off + i) / 8 * 8) / 256 ^ ((off + i) % 8) % 256 * 256 ^ i).sum

/-- The bits of a landing-map entry that exist (Table 14.1). -/
def landMask : Nat := (2 ^ 64 - 2 ^ 44) + (2 ^ 32 - 2 ^ 20) + 15

/-- Write n bytes of the landing map; reserved bits stay zero (R312). -/
def State.landWrite (s : State) (off n v : Nat) : State :=
  (List.range n).foldl (fun s i =>
    s.wr (s.fw.landBase + off + i) 1 (v / 256 ^ i % 256 &&& landMask / 256 ^ ((off + i) % 16) % 256)) s

/-- n bytes of what an access finds at a place outside memory. -/
def State.regRead (s : State) (l : Loc) (n : Nat) : Nat :=
  match l with
  | .ctl c off => dwordBytes (s.ctlDword c) off n
  | .qcb q off => dwordBytes (s.qcb q).dword off n
  | .land off _ => s.rd (s.fw.landBase + off) n
  | .mem _ => 0

/-- An access by context c writes n bytes to a place outside memory: it is acted on before anything else happens. The
landing map takes writes of the root with ordering kind SO only (R312). -/
def State.regWrite (s : State) (c : Nat) (l : Loc) (n v : Nat) : State :=
  match l with
  | .ctl p off => { s with posts := s.posts ++ [⟨c, false, p, off, n, v⟩] }
  | .qcb q off => { s with posts := s.posts ++ [⟨c, true, q, off, n, v⟩] }
  | .land off so => if c = 0 && so then s.landWrite off n v else s
  | .mem _ => s

end Sys2Proof.Machine
end

