-- ==== Sys2Proof/Machine/Versioned.lean ====
section
/-!
DEFINITION. Versioned pages: hardware's own reads and writes of a context's tables, the frame chain, the frame pool and
copy-on-write (R240–R249).
-/

namespace Sys2Proof.Machine

/-- Where an address of a context's space lies in local memory, for a read or write of hardware. -/
def State.hwPa (s : State) (c va : Nat) (need : Need) : Except XFault Nat := do
  let x ← s.xlate xFuel c va need true
  if 2 ^ 40 ≤ x.pa then xerr .nomem c va x.leaf else pure x.pa

/-- Hardware reads n bytes of a context's space, within one sector. -/
def State.hwRd (s : State) (c va n : Nat) : Except XFault Nat := do
  let pa ← s.hwPa c va needR
  if s.poisoned pa then xerr .tablepoison c va else pure (s.rdAt pa n)

/-- Where an address of the space that a context's FRAME fields name lies, if the access there is permitted: local memory or
another package's (R212, R238). -/
def State.framePa (s : State) (c a : Nat) (need : Need) : Option Nat :=
  match s.upPa c a need with
  | .ok pa => some pa
  | .error _ => none

/-- Whether a frame can serve as one of a context: no part of it lies in a remote window, nor where the context's accesses
fault with NOMEM (R221, R233–R235, R245, R391). -/
def State.frameOk (s : State) (c frame size : Nat) : Bool :=
  (List.range (size / 65536)).all fun i =>
    match s.upPa c (frame + 65536 * i) noNeed with
    | .ok pa => pa < 2 ^ 40 && s.regionOk c pa
    | .error f => f.kind != .nomem

/-- The address of a chain record (Table 10.1). -/
def Ctx.chainAddr (t : Ctx) (k : Nat) : Nat := t.chainbase.toNat + 64 * k

/-- A slot of a frame chain (Table 10.1). -/
structure ChainSlot where
  v : Bool
  frame : Nat
  low : Word
  high : Word
  deriving DecidableEq, Repr

/-- A frame chain record (Table 10.1). -/
structure Chain where
  frozen : Bool
  busy : Bool
  frzv : Word
  slots : List ChainSlot
  deriving DecidableEq, Repr

/-- An empty slot. -/
def ChainSlot.none : ChainSlot := ⟨false, 0, 0, 0⟩

/-- A slot from its 16 bytes. -/
def ChainSlot.ofNat (x : Nat) : ChainSlot :=
  ⟨x % 2 == 1, bits x 55 20 * 65536, BitVec.ofNat 32 (bits x 95 64), BitVec.ofNat 32 (bits x 127 96)⟩

/-- The 16 bytes of a slot. -/
def ChainSlot.toNat (c : ChainSlot) : Nat :=
  f2 c.high.toNat 96 (f2 c.low.toNat 64 (f2 (c.frame / 65536) 20 c.v.toNat))

/-- Slot i of a chain. -/
def Chain.slot (c : Chain) (i : Nat) : ChainSlot := c.slots.getD i ChainSlot.none

/-- Read a page's chain record. -/
def State.chainRd (s : State) (c k : Nat) : Except XFault Chain := do
  let x ← s.hwRd c ((s.ctx c).chainAddr k) 64
  pure ⟨x % 2 == 1, x / 2 % 2 == 1, BitVec.ofNat 32 (bits x 63 32),
    (List.range 3).map fun i => ChainSlot.ofNat (x / 2 ^ (64 + 128 * i) % 2 ^ 128)⟩

/-- The current frame of a versioned page is frozen or being copied (R243, R246). -/
def State.frozenAt (s : State) (c : Nat) (x : Xl) : Except XFault Bool :=
  if !x.vers then pure false
  else do
    let r ← s.chainRd c x.chain
    pure (r.frozen || r.busy)

/-- Hardware writes n bytes of a number to a context's space, within one sector, stamping the page. It writes no frozen frame
(R243): on such a page the write fails, as it does where it meets a fault. -/
def State.hwWr (s : State) (c va n v : Nat) : Except XFault State := do
  let x ← s.xlate xFuel c va needW true
  if 2 ^ 40 ≤ x.pa then xerr .nomem c va x.leaf
  else if ← s.frozenAt c x then xerr .cow c va x.leaf
  else pure (((s.stamp c x (s.ctx c).step).homeEngine (x.pa / 256) true).wr x.pa n v)

/-- A write that is dropped where it fails. -/
def State.hwWrDrop (s : State) (c va n v : Nat) : State :=
  match s.hwWr c va n v with
  | .ok s => s
  | .error _ => s

/-- Write a page's chain record. -/
def State.chainWr (s : State) (c k : Nat) (r : Chain) : State :=
  s.hwWrDrop c ((s.ctx c).chainAddr k) 64
    (f2 (r.slot 2).toNat 320 (f2 (r.slot 1).toNat 192 (f2 (r.slot 0).toNat 64
      (f2 r.frzv.toNat 32 (r.busy.toNat * 2 + r.frozen.toNat)))))

/-- The slots closed up in order (R249). -/
def Chain.close (r : Chain) (keep : List ChainSlot) : Chain :=
  { r with slots := keep ++ List.replicate (3 - keep.length) ChainSlot.none }

/-- The count, capacity and base of the frame stack of a size (R244). -/
def Ctx.stack (t : Ctx) (size : Nat) : Nat × Nat × Nat :=
  if size = 65536 then (t.scnt.toNat, t.scap.toNat, t.spool.toNat) else (t.lcnt.toNat, t.lcap.toNat, t.lpool.toNat)

/-- Set the count of the frame stack of a size. -/
def Ctx.setStack (t : Ctx) (size n : Nat) : Ctx :=
  if size = 65536 then { t with scnt := BitVec.ofNat 32 n } else { t with lcnt := BitVec.ofNat 32 n }

/-- Pop the top frame of the stack of a size (R245); a stack that cannot be read gives none. -/
def State.popFrame (s : State) (c size : Nat) : Option (Nat × State) :=
  let (n, _, base) := (s.ctx c).stack size
  if n = 0 then none
  else match s.hwRd c (base + 8 * (n - 1)) 8 with
    | .error _ => none
    | .ok e => some (bits e 51 16 * 65536, s.onCtx c fun t => t.setStack size (n - 1))

/-- A tray is parked by a fault, and the park meets a condition. -/
def Tray.parkedBy (t : Tray) (ok : Park → Bool) : Bool :=
  match t.wait with
  | .park p => ok p
  | _ => false

/-- A tray whose park meets a condition goes on. -/
def Tray.unpark (t : Tray) (ok : Park → Bool) : Tray := if t.parkedBy ok then { t with wait := .run } else t

/-- The parks that meet a condition end, of resident and saved trays and of operations: they walk again (R229). -/
def State.unpark (s : State) (ok : Tray → Park → Bool) (okOp : Op → Park → Bool) : State :=
  { s with
    trays := s.trays.all' fun _ t => t.unpark (ok t),
    batches := s.batches.all' fun _ b => { b with image := b.image.all' fun _ t => t.unpark (ok t) },
    ops := s.ops.map fun o => if o.park.any (okOp o) then { o with park := none } else o }

/-- The parks for want of a frame end in a context when its stack receives one (R229, R247). -/
def State.endPoolParks (s : State) (c : Nat) : State :=
  let ok (p : Park) : Bool := p.fctx == c && p.kind == .poolempty
  s.unpark (fun _ => ok) fun _ => ok

/-- Push a frame onto the stack of its size, if it has room (R245, R249). -/
def State.pushFrame (s : State) (c size frame : Nat) : Option State :=
  let (n, cap, base) := (s.ctx c).stack size
  if cap ≤ n then none
  else match s.hwWr c (base + 8 * n) 8 (frame + if size = 65536 then 0 else 1) with
    | .error _ => none
    | .ok s => some ((s.onCtx c fun t => t.setStack size (n + 1)).endPoolParks c)

/-- The parks of some kinds at a leaf end (R229). -/
def State.endParks (s : State) (leaf : Nat) (kinds : List FaultKind) : State :=
  let ok (p : Park) : Bool := p.leaf == leaf && kinds.contains p.kind
  s.unpark (fun _ => ok) fun _ => ok

/-- 64 KiB of memory are filled with zeros: by an engine, so that no cache keeps older bytes (R205). -/
def State.zeroPage (s : State) (pa : Nat) : State :=
  if pa < 2 ^ 40 then ((s.engineSpan pa 65536 true).l1Forget pa 65536).zeroBytes pa 65536 else s

/-- Write zeros to a frame of a context's FRAME space. -/
def State.zeroFrame (s : State) (c frame size : Nat) : State :=
  (List.range (size / 65536)).foldl (fun s i =>
    match s.framePa c (frame + 65536 * i) noNeed with
    | some q => s.zeroPage q
    | none => s) s

/-- A retired frame returns to its stack, zeroed first where SCRUBRET says so (R249); one that cannot be a frame of the context,
from a record a program has written, is lost (R242). -/
def State.returnFrame (s : State) (c size frame : Nat) : Option State :=
  if !s.frameOk c frame size then some (s.onCtx c fun t => { t with frames := t.frames.del frame })
  else
    match s.pushFrame c size frame with
    | none => none
    | some s =>
      let s := if (s.ctx c).scrubret then s.zeroFrame c frame size else s
      some (s.onCtx c fun t => { t with retcnt := t.retcnt + 1 })

/-- Push the frames of abandoned copies that found no room (R257). -/
def State.pushBack (s : State) (c : Nat) : State :=
  (s.ctx c).toPush.foldl (fun s m =>
    match s.pushFrame c m.1 m.2 with
    | some s => s.onCtx c fun t => { t with toPush := t.toPush.filter (· != m) }
    | none => s) s

/-- Push marked slots, oldest first, while their stacks have room (R249). -/
def State.pushMarked (s : State) (c : Nat) : State :=
  (s.ctx c).marked.foldl (fun s m =>
    let (chain, frame) := m
    match s.chainRd c chain with
    | .error _ => s
    | .ok r =>
      let size := if (r.slots.any fun x => x.v && x.frame == frame) then 65536 else 0
      if size = 0 then s.onCtx c fun t => { t with marked := t.marked.filter (· != m), frames := t.frames.del frame }
      else
        let size := if (s.ctx c).sizes.contains chain then 2 ^ 21 else 65536
        match s.returnFrame c size frame with
        | none => s
        | some s =>
          (s.chainWr c chain (r.close (r.slots.filter fun x => x.v && x.frame != frame))).onCtx c fun t =>
            { t with marked := t.marked.filter (· != m) }) (s.pushBack c)

/-- The step that stamps an engine operation's write (R13, R251): its tag's; but on a page that a SNAP has frozen since, the
write falls after the freeze point, so that the step is at least the one after the SNAP's version. After the copy that is
where the frame it replaced ends to serve, or with an eager copy the step after the context's last SNAP. -/
def State.engStep (s : State) (c : Nat) (x : Xl) (step : Word) : Word :=
  if !x.vers then step
  else
    match s.chainRd c x.chain with
    | .error _ => step
    | .ok r =>
      let low : Word :=
        if r.frozen then r.frzv + 1
        else if !(r.slot 0).v then 0
        else if (r.slot 0).high = 0xFFFFFFFF then ((s.ctx c).lastSnap.map (· + 1)).getD 0
        else (r.slot 0).high
      if step.ult low then low else step

/-- What a write to a versioned page meets (R246, R247): `none` when it may go on. -/
def State.cowCheck (s : State) (c page : Nat) (x : Xl) (step : Word) : Except XFault (State × Option FaultKind) := do
  if !x.vers then pure (s, none)
  else
    let r ← s.chainRd c x.chain
    if r.busy then pure (s, some .cow)
    else if !r.frozen then
      if (r.slot 0).v && (r.slot 0).high == 0xFFFFFFFF then
        pure (s.chainWr c x.chain { r with slots := { r.slot 0 with high := step } :: r.slots.drop 1 }, none)
      else pure (s, none)
    else if (r.slot 2).v then pure (s, some .poolempty)
    else
      let l := s.tblRd x.leaf 16
      match s.popFrame c (pageSize s c page) with
      | none => pure (s, some .poolempty)
      | some (f, s) =>
        let s := (s.chainWr c x.chain { r with busy := true }).pushMarked c
        pure ({ s with nextId := s.nextId + 1,
                       cows := s.cows.put s.nextId ⟨c, page - page % pageSize s c page, pageSize s c page, x.leaf,
                         x.chain, bits l 55 20 * 65536, f, step, false⟩ }, some .cow)
where
  /-- The size of the context's own page. -/
  pageSize (s : State) (c page : Nat) : Nat :=
    match s.ownLeaf c page with
    | .ok (_, size, _) => size
    | .error _ => 65536

/-- Copy 64 KiB of memory to local memory as an engine does, with its poison (R168, R205). -/
def State.copyPage (s : State) (src dst : Nat) : State :=
  let s := if src < 2 ^ 40 then s.engineSpan src 65536 false else s
  let s := (s.engineSpan dst 65536 true).l1Forget dst 65536
  if src < 2 ^ 40 then s.copyBytes src dst 65536
  else
    { s with
      mem := smFill s.mem dst 65536 fun i => ((s.remoteBytes (src + i) 1).map (·.1)).headD 0,
      poison := smFill s.poison (dst / 64) 1024 fun i => if (s.remoteBytes (src + 64 * i) 64).any (·.2) then 1 else 0 }

/-- Copy a frame to another, 64 KiB at a time through the space the frames lie in. -/
def State.copyFrame (s : State) (c old new size : Nat) : State :=
  (List.range (size / 65536)).foldl (fun s i =>
    match s.framePa c (old + 65536 * i) noNeed, s.framePa c (new + 65536 * i) noNeed with
    | some a, some b => if b < 2 ^ 40 then s.copyPage a b else s
    | _, _ => s) s

/-- Write a leaf's FRAME: one 8-byte write (R238, R246). -/
def State.setLeafFrame (s : State) (c leaf frame : Nat) : State :=
  let l := s.tblRd leaf 8
  s.tblWr c leaf 8 (l - bits l 55 20 * 2 ^ 20 + frame / 65536 * 2 ^ 20)

/-- Set or clear a leaf's MIG bit: one 8-byte write (R238). -/
def State.setLeafMig (s : State) (c leaf : Nat) (m : Bool) : State :=
  let l := s.tblRd leaf 8
  s.tblWr c leaf 8 (l - bits l 7 7 * 128 + m.toNat * 128)

/-- The switch at the end of a page copy (R246). -/
def State.cowSwitch (s : State) (id : Nat) : State :=
  match s.cows.get? id with
  | none => s
  | some w =>
    let s := { s with cows := s.cows.del id }
    match s.chainRd w.ctx w.chain with
    | .error _ => s.endParks w.leaf [.cow]
    | .ok r =>
      let low := BitVec.ofNat 32 (s.tblRd (w.leaf + 8) 4)
      let s := s.copyFrame w.ctx w.old w.new w.size
      let s := s.chainWr w.ctx w.chain ⟨false, false, 0, ⟨true, w.old, low, w.high⟩ :: r.slots.take 2⟩
      let s := s.setLeafFrame w.ctx w.leaf w.new
      let s := s.tlbDrop w.ctx w.page (w.page + w.size) (s.descendants w.ctx)
      (s.onCtx w.ctx fun t => { t with cowcnt := t.cowcnt + 1 }).endParks w.leaf [.cow, .poolempty]

/-- The copy of the page of a leaf, if one is in progress, ends now: a copy completes at any moment (R246), for a write that
waits for it inside its operation (R247) at once. -/
def State.cowFinish (s : State) (leaf : Nat) : State :=
  match s.cows.find? fun e => e.2.leaf == leaf with
  | some e => s.cowSwitch e.1
  | none => s

/-- How far the next page of a context lies from an address: the size of the page, or of the hole (R214). -/
def State.pageSpan (s : State) (c a : Nat) : Nat :=
  let rd (p : Nat) : Option Nat := (s.framePa c p needR).map fun q => s.tblRd q 8
  match rd ((s.ctx c).root.toNat + 8 * bits a 51 41) with
  | none => 2 ^ 41
  | some e1 =>
    if e1 % 2 = 0 ∨ e1 / 2 % 8 ≠ 0 then 2 ^ 41
    else match rd (bits e1 51 4 * 16 + 8 * bits a 40 32) with
      | none => 2 ^ 32
      | some e2 =>
        if e2 % 2 = 0 ∨ e2 / 2 % 8 ≠ 0 then 2 ^ 32
        else match rd (bits e2 51 4 * 16 + 8 * bits a 31 23) with
          | none => 2 ^ 23
          | some e3 =>
            if e3 % 2 = 0 then 2 ^ 23
            else if e3 / 2 % 8 = 1 then 2 ^ 16
            else if e3 / 2 % 8 = 2 then 2 ^ 21
            else 2 ^ 23

/-- A present page of a context's own tables: its address, leaf, size and the leaf's 16 bytes. -/
structure OwnPage where
  va : Nat
  leaf : Nat
  size : Nat
  l : Nat
  deriving DecidableEq, Repr

/-- A leaf is versioned (R216). -/
def OwnPage.vers (p : OwnPage) : Bool := p.l / 2 ^ 6 % 2 == 1
/-- Its chain number. -/
def OwnPage.chain (p : OwnPage) : Nat := bits p.l 127 96
/-- Its stamp. -/
def OwnPage.stamp (p : OwnPage) : Nat := bits p.l 95 64

/-- The present pages of a context from address `a` up to `hi`, at most `fuel` steps. -/
def State.pages (s : State) (c hi : Nat) : Nat → Nat → List OwnPage
  | 0, _ => []
  | f + 1, a =>
    if hi ≤ a then []
    else
      let nxt := a - a % s.pageSpan c a + s.pageSpan c a
      match s.ownLeaf c a with
      | .ok (pl, size, l) => if l % 2 = 1 then ⟨a - a % size, pl, size, l⟩ :: State.pages s c hi f nxt
                             else State.pages s c hi f nxt
      | .error _ => State.pages s c hi f nxt

/-- The present pages that a range of `len` units of 64 KiB touches. -/
def State.pagesIn (s : State) (c start len : Nat) : List OwnPage := s.pages c (start + 65536 * len) (len + 1) start

/-- Whether a frame's range holds a version (R243). -/
def ChainSlot.serves (x : ChainSlot) (w : Word) : Bool := x.v && x.low.ule w && w.ult x.high

/-- The frame of a page that serves a version: 0 the current one, i + 1 slot i (R243). -/
def serveAt (stamp : Nat) (r : Chain) (w : Word) : Option Nat :=
  if stamp ≤ w.toNat then some 0
  else ((List.range 3).find? fun i => (r.slot i).serves w).map (· + 1)

/-- Whether a live slice of a context other than `k` needs slot i of a page (R249). -/
def State.sliceNeeds (s : State) (c k : Nat) (p : OwnPage) (r : Chain) (i : Nat) : Bool :=
  (s.ctx c).slices.any fun e =>
    e.1 != k && e.2.start < p.va + p.size && p.va < e.2.start + 65536 * e.2.len &&
      serveAt p.stamp r e.2.ver == some (i + 1)

/-- Retire the slots of one page that no live slice but `k` needs (R249). -/
def State.retirePage (s : State) (c k : Nat) (p : OwnPage) : State :=
  match s.chainRd c p.chain with
  | .error _ => s
  | .ok r =>
    let s := s.tlbDrop c p.va (p.va + p.size) (s.descendants c)
    let (s, keep) := (List.range 3).foldl (fun (acc : State × List ChainSlot) i =>
      let (s, keep) := acc
      let x := r.slot i
      if !x.v then acc
      else if s.sliceNeeds c k p r i then (s, keep ++ [x])
      else
        match s.returnFrame c p.size x.frame with
        | some s => (s, keep)
        | none => (s.onCtx c fun t => { t with marked := t.marked ++ [(p.chain, x.frame)],
                                               sizes := if p.size = 2 ^ 21 then p.chain :: t.sizes else t.sizes },
                   keep ++ [x])) (s, [])
    (s.chainWr c p.chain (r.close keep)).endParks p.leaf [.poolempty]

/-- Write the mirror of a slice descriptor (R248, Table 10.3); a fault drops the write, and so does a frozen frame, since the
write waits for nothing (DEDUCED). -/
def State.sliceMirror (s : State) (c k : Nat) : State :=
  let t := s.ctx c
  if t.slbase = 0 then s
  else
    let gen := (smGet t.sliceGen k).toNat + 1
    let v := match t.slices.get? k with
      | some x => f2 x.time.toNat 192 (f2 x.refs 176 (f2 x.pins 160 (f2 gen 144 (f2 1 128
          (f2 x.ver.toNat 96 (f2 x.len 64 x.start))))))
      | none => f2 gen 144 0
    s.hwWrDrop c (t.slbase.toNat + 32 * k) 32 v

/-- The generation that follows in an index: it starts at 1 and skips 0xFFFF and 0 (R248). It is kept less one. -/
def nextSliceGen (g : BitVec 16) : BitVec 16 := if g = 0xFFFD then 0 else g + 1

/-- Whether a slice is retired: no reference, no pin, and a live slice of a greater version (R249). -/
def Ctx.retires (t : Ctx) (x : Slice) : Bool :=
  x.refs == 0 && x.pins == 0 && t.slices.any fun e => x.ver.ult e.2.ver

/-- Retire every slice of a context that is due (R249). -/
def State.retireSlices (s : State) (c : Nat) : State :=
  (s.ctx c).slices.foldl (fun s e =>
    if (s.ctx c).retires e.2 then
      let s := ((s.pagesIn c e.2.start e.2.len).filter (·.vers)).foldl (fun s p => s.retirePage c e.1 p) s
      (s.onCtx c fun t => { t with slices := t.slices.del e.1,
                                   sliceGen := smSet t.sliceGen e.1 (nextSliceGen (smGet t.sliceGen e.1)) }).sliceMirror
        c e.1
    else s) s

end Sys2Proof.Machine
end

