-- ==== Sys2Proof/Machine/EngineMem.lean ====
section
/-!
DEFINITION. The accesses of engine operations to a context's memory and to a cluster's scratchpad (R13, R168, R211,
R330, R418): data is a list of bytes, each with the poison of the sector it came from.
-/

namespace Sys2Proof.Machine

/-- A byte that an engine carries, with its poison (R168). -/
abbrev EByte := Byte × Bool

/-- Bytes without poison. -/
def clean (bs : List Byte) : List EByte := bs.map fun b => (b, false)

/-- A range cut at the boundaries of 64-byte sectors: address and length of each piece. -/
def pieces (va n : Nat) : List (Nat × Nat) :=
  (List.range ((va % 64 + n + 63) / 64)).map fun i =>
    let lo := if i = 0 then va else va / 64 * 64 + 64 * i
    (lo, min (va + n) (va / 64 * 64 + 64 * (i + 1)) - lo)

/-- n bytes of physical memory within a sector, with their poison. -/
def State.physRead (s : State) (pa n : Nat) : List EByte :=
  let p := s.poisoned pa
  (List.range n).map fun i => (smGet s.mem (pa + i), p)

/-- Write bytes within a sector: poison among them poisons it, writing all of it without poison clears it (R168). -/
def State.physWrite (s : State) (pa : Nat) (d : List EByte) : State :=
  let s := s.wrBytes pa (d.map (·.1))
  if d.any (·.2) then s.setPoison pa true
  else if d.length = 64 then s.setPoison pa false
  else s

/-- An engine read of a piece in context c (R211). -/
def State.engRdPiece (s : State) (c va n : Nat) : Except XFault (State × List EByte) := do
  match ← s.locateWalk c va needR with
  | .mem x =>
    if 2 ^ 40 ≤ x.pa then
      let s := s.remoteForget x.pa n
      if s.answer x.pa = 0 then pure (s, s.remoteBytes x.pa n) else xerr .remote c va x.leaf
    else
      let s := s.homeEngine (x.pa / 256) false
      pure (s, s.physRead x.pa n)
  | l => pure (s, clean (bytesOf n (s.regRead l n)))

/-- An engine read of n bytes in context c: the first fault ends it. -/
def State.engRd (s : State) (c va n : Nat) : Except XFault (State × List EByte) :=
  (pieces va n).foldlM (fun (acc : State × List EByte) p => do
    let (s, d) ← acc.1.engRdPiece c p.1 p.2
    pure (s, acc.2 ++ d)) (s, [])

/-- An engine write of a piece in context c, stamped with `step` (R13, R222, R246, R251). A remote window receives it with its
poison (R311). -/
def State.engWrPiece (s : State) (c va : Nat) (d : List EByte) (step : Word) : State × Option XFault :=
  match s.locateWalk c va needW with
  | .error e => (s, some e)
  | .ok (.mem x) =>
    let step := s.engStep c x step
    match s.cowCheck c va x step with
    | .error e => (s, some e)
    | .ok (s, some k) => (s, some ⟨k, c, va, x.leaf⟩)
    | .ok (s, none) =>
      let s := s.stamp c x step
      if 2 ^ 40 ≤ x.pa then
        (s.remoteWr c x.pa d, if s.answer x.pa = 0 then none else some ⟨.remote, c, va, x.leaf⟩)
      else ((s.homeEngine (x.pa / 256) true).physWrite x.pa d, none)
  | .ok l => (s.regWrite c l d.length (natOf (d.map (·.1))), none)

/-- What would stop an engine write of a piece before it is performed: a failed translation, the copy of a frozen page,
which begins, or another package's answer (R246, R272). -/
def State.engTry (s : State) (c va : Nat) (step : Word) : State × Option XFault :=
  match s.locateWalk c va needW with
  | .error e => (s, some e)
  | .ok (.mem x) =>
    match s.cowCheck c va x (s.engStep c x step) with
    | .error e => (s, some e)
    | .ok (s, some k) => (s, some ⟨k, c, va, x.leaf⟩)
    | .ok (s, none) => (s, if 2 ^ 40 ≤ x.pa && s.answer x.pa != 0 then some ⟨.remote, c, va, x.leaf⟩ else none)
  | .ok _ => (s, none)

/-- What would stop an engine write of n bytes, which waits inside its operation for the copies of frozen pages (R246,
R247): these are made. -/
def State.engReady (s : State) (c va n : Nat) (step : Word) : State × Option XFault :=
  (pieces va n).foldl (fun (acc : State × Option XFault) p =>
    match acc with
    | (s, some e) => (s, some e)
    | (s, none) =>
      match s.engTry c p.1 step with
      | (s, some e) => if e.kind = .cow then (s.cowFinish e.leaf).engTry c p.1 step else (s, some e)
      | r => r) (s, none)

/-- An engine write of a piece that waits inside its operation for the copy of a frozen page (R246, R247). -/
def State.engWrPieceNow (s : State) (c va : Nat) (d : List EByte) (step : Word) : State × Option XFault :=
  match s.engWrPiece c va d step with
  | (s, some e) => if e.kind = .cow then (s.cowFinish e.leaf).engWrPiece c va d step else (s, some e)
  | r => r

/-- An engine write in context c that waits for the copies of frozen pages; pieces before the first fault stand. -/
def State.engWrNow (s : State) (c va : Nat) (d : List EByte) (step : Word) : State × Option XFault :=
  (pieces va d.length).foldl (fun (acc : State × Option XFault) p =>
    match acc.2 with
    | some _ => acc
    | none => acc.1.engWrPieceNow c p.1 ((d.drop (p.1 - va)).take p.2) step) (s, none)

/-- An engine read into a number, with the state it leaves: none where it faults or meets poison. -/
def State.engTake (s : State) (c va n : Nat) : Option Nat × State :=
  match s.engRd c va n with
  | .ok (s, d) => (if d.any (·.2) then none else some (natOf (d.map (·.1))), s)
  | .error _ => (none, s)

/-- An engine read into numbers: none where it faults or meets poison. -/
def State.engNat (s : State) (c va n : Nat) : Option Nat :=
  match s.engRd c va n with
  | .ok (_, d) => if d.any (·.2) then none else some (natOf (d.map (·.1)))
  | .error _ => none

/-- Write bytes to the space a context's "parent's space" fields name; the root's is physical (R212). The fault that stops
it, if any. -/
def State.upPut (s : State) (c a : Nat) (bs : List Byte) : State × Option XFault :=
  if c = 0 then
    if s.localPa a then
      ((pieces a bs.length).foldl (fun s p =>
        (s.homeEngine (p.1 / 256) true).physWrite p.1 (clean ((bs.drop (p.1 - a)).take p.2))) s, none)
    else (s, some ⟨.nomem, 0, a, 0⟩)
  else
    let p := (s.ctx c).parent
    s.engWrNow p a (clean bs) (s.ctx p).step

/-- Such a write where it succeeds. -/
def State.upWr (s : State) (c a : Nat) (bs : List Byte) : Option State :=
  match s.upPut c a bs with
  | (s, none) => some s
  | (_, some _) => none

/-- Read n bytes of the space a context's "parent's space" fields name; none where that fails or meets poison. -/
def State.upRd (s : State) (c a n : Nat) : Option (List Byte) :=
  if c = 0 then
    if s.localPa a && !s.poisonedIn a n then some ((s.mergeRange a n).physRead a n |>.map (·.1)) else none
  else match s.engRd (s.ctx c).parent a n with
    | .ok (_, d) => if d.any (·.2) then none else some (d.map (·.1))
    | .error _ => none

-- The cluster scratchpad (R157, R165, R168)

/-- The cluster of a batch. -/
def State.clusterOf (s : State) (batch : Nat) : Option Cluster :=
  match s.batches.get? batch with
  | none => none
  | some b => s.clusters.get? b.cluster

/-- n bytes of a scratchpad region as a number. -/
def Cluster.rd (k : Cluster) (off n : Nat) : Nat := smNat k.scr off n

/-- Whether a byte's sector of the region is poisoned. -/
def Cluster.poisoned (k : Cluster) (off : Nat) : Bool := smGet k.poison (off / 64) == 1

/-- Write n bytes of a number to a scratchpad region. -/
def Cluster.wr (k : Cluster) (off n v : Nat) : Cluster :=
  { k with scr := smFill k.scr off n fun i => BitVec.ofNat 8 (v / 256 ^ i) }

/-- n bytes with their poison. -/
def Cluster.read (k : Cluster) (off n : Nat) : List EByte :=
  (List.range n).map fun i => (smGet k.scr (off + i), k.poisoned (off + i))

/-- Write bytes: a poisoned byte poisons its sector, a sector written whole without poison is clean (R168). -/
def Cluster.write (k : Cluster) (off : Nat) (d : List EByte) : Cluster :=
  let k := { k with scr := smFill k.scr off d.length fun i => (d.getD i (0, false)).1 }
  (pieces off d.length).foldl (fun (k : Cluster) p =>
    let e := (d.drop (p.1 - off)).take p.2
    if e.any (·.2) then { k with poison := smSet k.poison (p.1 / 64) 1 }
    else if p.2 = 64 then { k with poison := smSet k.poison (p.1 / 64) 0 }
    else k) k

/-- Change a cluster. -/
def State.onCluster (s : State) (k : Nat) (f : Cluster → Cluster) : State := { s with clusters := s.clusters.upd k f }

end Sys2Proof.Machine
end

