-- ==== Sys2Proof/Machine/Rings.lean ====
section
/-!
DEFINITION. Rings in memory and the records written to them: fault records, reflection records, stop records (R230,
R231, R409, Tables 9.6, 17.9, 17.11).
-/

namespace Sys2Proof.Machine

/-- What became of a record (R231). -/
inductive RingRes where
  | done
  | full
  | unreachable
  deriving DecidableEq, Repr

/-- Where bytes of a ring lie, if they can be written: in the space of context c, in local memory (R231). -/
def State.ringPa (s : State) (c va : Nat) : Option Nat :=
  match s.xlate xFuel c va needW true with
  | .ok x => if x.pa < 2 ^ 40 then some x.pa else none
  | .error _ => none

/-- Write bytes of a ring, as an engine writes in context c: the stamps follow (R222), a frozen page is copied (R246). -/
def State.ringWr (s : State) (c va : Nat) (bs : List Byte) : Option State :=
  match s.engWrNow c va (clean bs) (s.ctx c).step with
  | (s, none) => some s
  | (_, some _) => none

/-- Whether a ring of 2^(log + 4) records of n bytes can take one: WIDX and the record's address, or why it cannot (R231). -/
def State.ringSlot (s : State) (c base log n : Nat) : Except RingRes (Nat × Nat) :=
  if 13 ≤ log then .error .unreachable
  else match s.ringPa c base with
    | none => .error .unreachable
    | some h =>
      let w := s.rdAt h 4
      let slots := 2 ^ (log + 4)
      let va := base + 64 + n * (w % slots)
      if (s.ringPa c va).isNone then .error .unreachable
      else if (w + 2 ^ 32 - s.rdAt (h + 8) 4) % 2 ^ 32 = slots then .error .full
      else .ok (w, va)

/-- Write a record into a ring of 2^(log + 4) records and advance WIDX (R231). -/
def State.ringPut (s : State) (c base log : Nat) (rec : List Byte) : RingRes × State :=
  match s.ringSlot c base log rec.length with
  | .error e => (e, s)
  | .ok (w, va) =>
    match (s.ringWr c va rec).bind fun s => s.ringWr c base (bytesOf 4 ((w + 1) % 2 ^ 32)) with
    | some s => (.done, s)
    | none => (.unreachable, s)

/-- A record that is dropped where the ring cannot take it, DROP advancing if the header can be written (R231). -/
def State.ringPost (s : State) (c base log : Nat) (rec : List Byte) : State :=
  match s.ringPut c base log rec with
  | (.done, s) => s
  | _ =>
    match s.ringPa c base with
    | none => s
    | some h => (s.ringWr c (base + 16) (bytesOf 4 ((s.rdAt (h + 16) 4 + 1) % 2 ^ 32))).getD s

/-- The CLOCK of a core (R33). -/
def State.clock (s : State) (core : Nat) : DWord :=
  s.now + BitVec.ofNat 64 (Config.clockSkew (core / 256)).val

/-- A 64-byte record of the root: to the host ring of each endpoint that has set one, which is overwritten circularly and
whose header counts the records (R422). -/
def State.rootRecord (s : State) (rec : List Byte) : State :=
  { s with
    hostOut := s.hostOut ++ s.rootRings.flatMap fun e =>
      [.write e.2.qp (e.2.addr + 64 + 64 * (e.2.count % 2 ^ e.2.log)) rec, .write e.2.qp e.2.addr (bytesOf 8 (e.2.count + 1))],
    rootRings := s.rootRings.all' fun _ r => { r with count := r.count + 1 } }

/-- Send an event record on a configured channel (R422, Table 18.4); on any other, nothing. -/
def State.hostEvent (s : State) (typ chan ctx value status : Nat) : State :=
  match if chan = 0 then none else s.chans.get? chan with
  | none => s
  | some r =>
    let clk := if s.stage = .off ∨ s.stage = .power then 0 else (s.clock 0).toNat
    let b := bytesOf 2 typ ++ bytesOf 2 chan ++ bytesOf 4 ctx ++ bytesOf 4 value ++ bytesOf 4 status ++ bytesOf 8 clk ++
      bytesOf 8 0
    { s with
      hostOut := s.hostOut ++
        if r.ring then
          [.write r.qp (r.addr + 64 + 32 * (r.count % 2 ^ r.log)) b, .write r.qp r.addr (bytesOf 8 (r.count + 1))]
        else [.send r.qp b],
      chans := s.chans.upd chan fun r => { r with count := r.count + 1 } }

/-- A record to the per-child ring of a context; the root's goes to the host endpoints (R405, R422). -/
def State.childRecord (s : State) (c : Nat) (rec : List Byte) : State :=
  if c = 0 then s.rootRecord rec
  else
    let t := s.ctx c
    s.ringPost t.parent t.pring.toNat t.plog.toNat rec

/-- The 128 bits of an operation tag (Table 1.3). -/
def Tag.toNat (t : Tag) : Nat :=
  f2 t.ctx 116 (f2 t.gen.toNat 100 (f2 t.core 90 (f2 t.tray 85 (f2 t.prio 83 (f2 t.eng 78 (f2 t.seq.toNat 64
    (f2 t.step.toNat 32 t.ver.toNat)))))))

/-- What a fault record says beyond the failed translation (Table 9.6). -/
structure FaultInfo where
  ctx : Nat
  core : Nat
  slot : Nat
  tag : Option Tag
  fetch : Bool
  wr : Bool
  pc : Nat
  mask : Mask
  token : Nat
  deriving DecidableEq, Repr

/-- The 64 bytes of a fault record (Table 9.6). -/
def State.faultBytes (s : State) (f : XFault) (rp : Bool) (i : FaultInfo) : List Byte :=
  let level := (s.ctx i.ctx).depth - (s.ctx f.fctx).depth
  bytesOf 8 (f.addr % 2 ^ 52) ++
  bytesOf 8 (f2 i.slot 50 (f2 i.core 40 (f2 i.tag.isSome.toNat 39 (f2 i.fetch.toNat 38 (f2 i.wr.toNat 37
    (f2 rp.toNat 36 (f2 f.kind.code 32 (f2 level 24 (f2 f.fctx 12 i.ctx))))))))) ++
  bytesOf 8 i.pc ++
  bytesOf 8 (i.mask.toNat % 2 ^ 64) ++
  bytesOf 8 (f2 (if rp then i.token else 0) 32 (i.mask.toNat / 2 ^ 64)) ++
  bytesOf 16 ((i.tag.map Tag.toNat).getD 0) ++
  bytesOf 8 (s.clock i.core).toNat

/-- The child of an ancestor on the path down to a context. -/
def State.childOn (s : State) (anc c : Nat) : Nat :=
  ((s.lineage c).find? fun x => x != 0 && (s.ctx x).parent == anc).getD c

/-- A fault record goes to the reporting port of the detecting core's die (R228, R230, R232): a terminal one for the terminal
ring of the issuing context; a replayable one for the retryable ring of the context whose table faulted, or for the
per-child ring an ancestor keeps for its child on the path. A wait for a copy writes none (R246). -/
def State.faultRecord (s : State) (f : XFault) (rp : Bool) (i : FaultInfo) : State :=
  if f.kind = .cow then s
  else
    let (cls, c) := if !rp then (0, i.ctx) else if f.fctx = i.ctx then (1, i.ctx) else (2, s.childOn f.fctx i.ctx)
    { s with records := s.records ++ [⟨i.core / 256, cls, c, s.faultBytes f rp i⟩] }

/-- Whether a waiting record may be granted: no older one of its context and class waits, and a replayable one finds room in
a ring that is reachable (R231, R232). -/
def State.grantable (s : State) (i : Nat) (r : WaitingRecord) : Bool :=
  !((s.records.take i).any fun q => q.ctx == r.ctx && q.cls == r.cls) &&
    (r.cls != 1 || (s.ringSlot r.ctx (s.ctx r.ctx).rring.toNat (s.ctx r.ctx).rlog.toNat 64).toBool)

/-- The oldest record of a class that a die's port may grant, by its place among the waiting records. -/
def State.grantOf (s : State) (die cls : Nat) : Option Nat :=
  (List.range s.records.length).find? fun i =>
    match s.records[i]? with
    | some r => r.die == die && r.cls == cls && s.grantable i r
    | none => false

/-- The weights of the classes (R232). -/
def State.reportWeights (s : State) : List Nat := if s.fw.reporting.isEmpty then [4, 2, 1] else s.fw.reporting

/-- The grants left to each class in a port's rotation; none left to any is a new round. -/
def State.reportLeft (s : State) (die : Nat) : List Nat :=
  match s.reportTurns.get? die with
  | some l => if l.all (· == 0) then s.reportWeights else l
  | none => s.reportWeights

/-- A granted record is written, or dropped where its ring cannot take it (R231); a replayable one that cannot be written
after all goes on waiting. -/
def State.reportWrite (s : State) (i : Nat) : State :=
  match s.records[i]? with
  | none => s
  | some r =>
    let t := s.ctx r.ctx
    let gone := { s with records := s.records.eraseIdx i }
    if r.cls = 0 then gone.ringPost r.ctx t.tring.toNat t.tlog.toNat r.bytes
    else if r.cls = 2 then gone.ringPost t.parent t.pring.toNat t.plog.toNat r.bytes
    else match gone.ringPut r.ctx t.rring.toNat t.rlog.toNat r.bytes with
      | (.done, s) => s
      | _ => s

/-- One grant of a die's reporting port (R232): the first class in rotation that has a record to write. -/
def State.reportGrant (s : State) (die : Nat) : State :=
  let can := [0, 1, 2].filter fun k => (s.grantOf die k).isSome
  let left := s.reportLeft die
  let pick := match can.find? fun k => 0 < left.getD k 0 with
    | some k => some (k, left)
    | none => can.head?.map fun k => (k, s.reportWeights)
  match pick with
  | none => s
  | some (k, left) =>
    match s.grantOf die k with
    | none => s
    | some i => { s with reportTurns := s.reportTurns.put die (left.set k (left.getD k 0 - 1)) }.reportWrite i

/-- A stop record's fields (Table 17.11). -/
structure StopInfo where
  last : Bool
  ctx : Nat
  unit : Nat
  reason : Nat
  cls : Nat
  counts : Nat × Nat × Nat × Nat
  tag : Option Tag
  progress : Nat
  revno : Nat
  deriving DecidableEq, Repr

/-- The 64 bytes of a stop record (Table 17.11). -/
def State.stopBytes (s : State) (i : StopInfo) : List Byte :=
  bytesOf 8 (f2 i.last.toNat 40 (f2 i.ctx 28 (f2 i.unit 16 (f2 i.reason 8 i.cls)))) ++
  bytesOf 8 (f2 i.counts.1 48 (f2 i.counts.2.1 32 (f2 i.counts.2.2.1 16 i.counts.2.2.2))) ++
  bytesOf 16 ((i.tag.map Tag.toNat).getD 0) ++
  bytesOf 16 i.progress ++
  bytesOf 8 i.revno ++
  bytesOf 8 (s.clock 0).toNat

/-- Write a stop record to the stop ring of the context's status block; the root's goes to the host (R409). -/
def State.stopRecord (s : State) (i : StopInfo) : State :=
  if i.ctx = 0 then s.rootRecord (s.stopBytes i)
  else
    let t := s.ctx i.ctx
    s.ringPost t.parent t.sring.toNat t.slog.toNat (s.stopBytes i)

end Sys2Proof.Machine
end

