-- ==== Sys2Proof/Machine/Ops.lean ====
section
/-!
DEFINITION. What the instructions share: issue and its checks (R28–R31, R44, R45), outstanding counters and pending
results (R19, R142), taking an exception (`State.raise`, R405), parking (R228) and the return from one (R406).
-/

namespace Sys2Proof.Machine

/-- Replace a tray. -/
def State.setTray (s : State) (key : Nat) (t : Tray) : State := { s with trays := s.trays.put key t }

/-- Change a tray. -/
def State.onTray (s : State) (key : Nat) (f : Tray → Tray) : State := { s with trays := s.trays.upd key f }

/-- The cause bitmap of a list of causes (Table 17.8). -/
def causeBits (cs : List Cause) : BitVec 64 := cs.foldl (fun b c => b ||| 1#64 <<< c.bit) 0

/-- SLICEEND, REVOKE and HALTED, which are never reflected (R405). -/
def departBits : BitVec 64 := causeBits [.sliceend, .revoke, .halted]

/-- The causes a context's handler takes: HMASK, or none without a handler (R405). -/
def Ctx.handled (t : Ctx) : BitVec 64 := if t.handler = 0 then 0 else t.hmask

/-- The EPC register: word address and S (Table 2.3). -/
def mkEpc (pc : Pc) (single : Bool) : DWord := (if single then 1#64 <<< 63 else 0) ||| pc.setWidth 64

/-- The word address in an EPC. -/
def epcPc (epc : DWord) : Pc := epc.setWidth 46
/-- The S bit of an EPC. -/
def epcS (epc : DWord) : Bool := epc.getLsbD 63

/-- The token of a tray parked by a reflection (R400, R405). -/
def Wait.token? : Wait → Option Nat
  | .reflected k _ => some k
  | .treflWait k => some k
  | _ => none

/-- The park number a tray uses of a core: of a fault park made on it, or of a reflection taken on it. -/
def Tray.parkNo (t : Tray) (core : Nat) : List Nat :=
  match t.wait with
  | .park p => if p.home / 32 = core then [p.num] else []
  | w => match w.token? with
    | some k => if k % 1024 = core then [k / 65536] else []
    | none => []

/-- The park numbers in use on a core (R229). -/
def State.parkNos (s : State) (core : Nat) : List Nat :=
  s.trays.flatMap (fun e => e.2.parkNo core) ++
  s.batches.flatMap (fun b => b.2.image.flatMap fun e => e.2.parkNo core) ++
  s.ops.filterMap fun o => if o.tag.core = core then o.park.map (·.num) else none

/-- A park number not in use on a core, and the core's last number advanced (R229). -/
def State.newPark (s : State) (core : Nat) : Nat × State :=
  let used := s.parkNos core
  let last := ((s.cores.get? core).map (·.parkNo)).getD 0
  let n := (((List.range (used.length + 1)).map fun i => (last + 1 + i) % 65536).find? fun n =>
    !used.contains n).getD 0
  (n, s.onCore core fun c => { c with parkNo := n })

/-- A replay token: park number, tray slot, core (Tables 9.6, 17.9). -/
def tokenOf (num key : Nat) : Nat := num * 65536 + key % 32 * 1024 + key / 32

/-- Whether a state of a context is moved by a halt (Table 17.3). -/
def CtxState.canHalt : CtxState → Bool
  | .new | .running | .stopping | .stopped => true
  | .free | .halting | .halted | .revoking => false

/-- Add an asynchronous cause to a tray: it is set at the tray's next issue group (R405). -/
def Tray.addAsync (t : Tray) (c : Cause) (why : Depart) : Tray :=
  if t.leave.isSome || t.wait == .ended then t
  else { t with async := if t.async.contains c then t.async else t.async ++ [c], departing := some why }

/-- The units of some class that have operations of a context; the orderers of the cores, 4 and up among the raster engine's,
are no fronts and stop with their cores. -/
def State.opUnits (s : State) (c cls : Nat) : List Nat :=
  (s.ops.filter fun o => o.tag.ctx == c && o.tag.eng == cls && (cls != 6 || o.unit < 4)).map (·.unit)

/-- The units that have to stop a context's work, by class and number (R408, R409, Table 17.10): the cores that hold a
tray or a command of it with their matrix engines, the engines it holds or that hold an operation of it, and the engines
that every context uses. -/
def State.unitsToStop (s : State) (c : Nat) : List (Nat × Nat) :=
  let own := (s.ctx c).own
  let res := s.trays.filterMap fun e => if e.2.ctx = c then some (e.1 / 32) else none
  let sent := s.ops.filterMap fun o => if o.tag.ctx = c ∧ o.phase = 0 then some o.tag.core else none
  let cores := (res ++ sent).eraseDups
  let held (cls : Nat) (l : List Nat) : List (Nat × Nat) := ((l ++ s.opUnits c cls).eraseDups).map fun u => (cls, u)
  cores.map (fun k => (0, k)) ++ held 1 (bitList own.copy) ++ held 2 cores ++ held 3 (bitList s.dies) ++
    held 4 (bitList own.stack) ++ held 5 [0] ++ held 6 (bitList own.raster) ++ held 7 (bitList own.groups) ++ held 8 [0] ++
    held 9 [0]

/-- The stop waits of units, for a reason and a revocation number. -/
def stopWaits (l : List (Nat × Nat)) (reason revno : Nat) : List StopWait :=
  l.map fun u => ⟨u.1, u.2, reason, revno, false, 0, 0, 0, 0⟩

/-- Raise the halt line of a context: it and its descendants enter HALTING, their units have to stop, and their trays
receive HALTED (R408). -/
def State.haltFor (s : State) (c reason : Nat) : State :=
  let l := (c :: s.descendants c).filter fun d => (s.ctx d).st.canHalt
  let s0 := s
  { s with
    ctxs := s.ctxs.all' fun k t =>
      if l.contains k then { t with st := .halting, stops := t.stops ++ stopWaits (s0.unitsToStop k) reason 0 } else t,
    trays := s.trays.all' fun _ t => if l.contains t.ctx then t.addAsync .halted .halt else t }

/-- The halt line raised by a halt, REASON 1 (R409). -/
def State.haltLine (s : State) (c : Nat) : State := s.haltFor c 1

/-- Reflect causes of a tray to its context's parent: post the record, park the tray, and raise the halt line where a
reflected bit is in HALTMASK (R405, Table 17.9). `npc` is the word of a trap in the handler, or 0. -/
def State.reflect (s : State) (key : Nat) (causes : BitVec 64) (rtype npc : Nat) (x : Option Nat) (trefl : Bool) :
    State :=
  match s.trays.get? key with
  | none => s
  | some t =>
    let (num, s) := s.newPark (key / 32)
    let arg (n : Nat) : Nat :=
      match x with
      | some k =>
        if causes.getLsbD 25 then (t.sreg t.hslot (k + n)).toNat
        else if causes.getLsbD 24 ∧ n = 0 then (t.sreg t.hslot k).toNat
        else 0
      | none => 0
    let rec64 := bytesOf 8 causes.toNat ++ bytesOf 8 (f2 rtype 56 (f2 (key % 32) 50 (f2 (key / 32) 40 t.ctx))) ++
      bytesOf 8 t.epc.toNat ++ bytesOf 8 npc ++
      bytesOf 4 (arg 0) ++ bytesOf 4 (arg 1) ++ bytesOf 4 (arg 2) ++ bytesOf 4 (arg 3) ++
      bytesOf 8 (tokenOf num key) ++ bytesOf 8 (s.clock (key / 32)).toNat
    let s := s.childRecord t.ctx rec64
    let s := s.onTray key fun t =>
      { t with wait := if trefl then .treflWait (tokenOf num key)
                       else .reflected (tokenOf num key) (if causes.getLsbD 25 then x else none) }
    if causes &&& (s.ctx t.ctx).haltmask = 0 then s else s.haltLine t.ctx

/-- Taking an exception: causes are set in a tray, precise at a word (R44, R405). The handler is entered when the bitmap
was zero and every set bit is handled; a departure cause that is not handled makes the tray leave; otherwise every set
bit is reflected. -/
def State.raise (s : State) (key path : Nat) (cs : List Cause) (word : Pc) (single : Bool) (x : Option Nat) : State :=
  match s.trays.get? key with
  | none => s
  | some t =>
    let c := s.ctx t.ctx
    let bits := causeBits cs
    let first := t.cause == 0
    let t1 := { (t.setPath path { t.path path with pc := word, single := false, entry := false }) with
      cause := t.cause ||| bits,
      epc := if first then mkEpc word single else t.epc,
      hslot := if first then path else t.hslot }
    if bits &&& departBits &&& ~~~c.handled ≠ 0 then
      let rest := t1.cause &&& ~~~(departBits &&& ~~~c.handled)
      s.setTray key { t1 with
        cause := rest,
        redeliver := rest != 0,
        leave := some (t.departing.getD .slice),
        wait := match t.wait with
          | .reflected n x => .reflected n x
          | .treflWait n => .treflWait n
          | _ => .run }
    else if first && t1.cause &&& ~~~c.handled == 0 && c.handler != 0 then
      s.setTray key (t1.setPath path { t1.path path with pc := c.handler, entry := true })
    else
      let s := s.setTray key t1
      match t.wait with
      | .reflected _ _ => s
      | _ =>
        if t1.cause &&& ~~~departBits = 0 then s
        else s.reflect key (t1.cause &&& ~~~departBits) 1 (if first then 0 else word.toNat) x false

/-- A cause is set in a tray that is saved, precise at a word (R405): where its handler takes that it resumes in it;
otherwise it is delivered when the tray resumes. -/
def Tray.savedCause (t : Tray) (c : Ctx) (path : Nat) (k : Cause) (word : Pc) (single : Bool) : Tray :=
  let bits := causeBits [k]
  let first := t.cause == 0
  let enters := first && bits &&& ~~~c.handled == 0 && c.handler != 0
  { t.setPath path { t.path path with pc := if enters then c.handler else word, single := false, entry := enters } with
    wait := .run, cause := t.cause ||| bits, epc := if first then mkEpc word single else t.epc,
    hslot := if first then path else t.hslot, redeliver := !enters }

/-- The remaining causes of a tray are delivered (R405, R406): the bitmap is not zero, so they are reflected. -/
def State.redeliver (s : State) (key : Nat) : State :=
  match s.trays.get? key with
  | none => s
  | some t =>
    let s := s.onTray key fun t => { t with redeliver := false }
    if t.cause &&& ~~~departBits = 0 then s
    else s.reflect key (t.cause &&& ~~~departBits) 1 0 none false

/-- The return from an exception (R44, R406): the PC takes an EPC, and with S only that word issues before the word after
its chain. -/
def Tray.resume (t : Tray) (path : Nat) (epc : DWord) : Tray :=
  t.setPath path { t.path path with pc := epcPc epc, single := epcS epc, entry := false }

/-- A tray marked departing whose bitmap has become zero leaves (R406). -/
def Tray.departIfMarked (t : Tray) : Tray :=
  match t.departing with
  | some w => if t.cause = 0 then { t with leave := some w, tret := true } else t
  | none => t

-- The result of a word at issue

/-- What issuing a word comes to. -/
inductive Res where
  /-- its effects are those of the new tray and state -/
  | ok (t : Tray) (s : State)
  /-- effects, then a trap after issue, precise at the word (R44) -/
  | trap (t : Tray) (s : State) (cs : List Cause)
  /-- the same with S = 0 wherever the word stands (R319) -/
  | plain (t : Tray) (s : State) (cs : List Cause)
  /-- effects, then causes precise at the word where the path goes on (R145, R272, R406); the register of a TRAP or SYS -/
  | later (t : Tray) (s : State) (cs : List Cause) (x : Option Nat)
  /-- a trap found at issue: precise at the chain's first word (R44, R45) -/
  | early (c : Cause)
  /-- a terminal translation fault of some threads: a record and a trap (R227) -/
  | fault (t : Tray) (s : State) (f : XFault) (wr : Bool) (left : Mask)
  /-- a replayable fault: the tray parks with the threads still to be performed (R228); the instruction is counted in a
  counter, if in any, until they have been (R142) -/
  | park (t : Tray) (s : State) (f : XFault) (wr : Bool) (left : Mask) (ctr : Option Ctr)
  /-- it is not a candidate: it waits and changes nothing -/
  | stay
  /-- it waits at a cross-lane word for the other slot (R154) -/
  | converge
  /-- an .sc operation takes a turn and waits for it (R199, R200) -/
  | claim
  /-- a load's request needs more miss-status entries than are free: its core's memory pipe waits (R170) -/
  | short (n : Nat)
  deriving DecidableEq, Repr

/-- A path slot waits at a cross-lane word; the other slot, if it waits at another one, may perform that alone (R154). -/
def State.setXwait (s : State) (c : Cur) : State :=
  s.onTray c.key fun t =>
    let t := t.setPath c.path { t.path c.path with cross := .waits c.pc }
    match t.p1, (t.path (1 - c.path)).cross with
    | some _, .waits pc => t.setPath (1 - c.path) { t.path (1 - c.path) with cross := .alone pc }
    | _, _ => t

/-- The turn of a core's clock now (R199). -/
def State.turnOf (s : State) (core : Nat) : DWord := s.now + ((s.cores.get? core).map (·.turn)).getD 0

/-- The .sc operation at a path's word takes the turn after its core's clock, which the clock becomes (R199). -/
def State.takeTurn (s : State) (c : Cur) : State :=
  let n := s.turnOf (c.key / 32) + 1
  (s.onCore (c.key / 32) fun k => { k with turn := k.turn + 1 }).onTray c.key fun t =>
    t.setPath c.path { t.path c.path with turn := some (c.pc, n) }

/-- The turn that an .sc operation at a word has taken. -/
def Path.turnAt (p : Path) (pc : Pc) : Option DWord :=
  match p.turn with
  | some (q, n) => if q = pc then some n else none
  | none => none

/-- A core's memory pipe waits with a request for n miss-status entries (R170). -/
def State.setNeed (s : State) (c : Cur) (n : Nat) : State := s.onCore (c.key / 32) fun k => { k with need := some n }

/-- Park a tray at a word with the threads not yet performed, and write the record (R228–R230). -/
def State.parkTray (s : State) (key path : Nat) (f : XFault) (wr fetch : Bool) (pc : Pc) (left : Mask) : State :=
  match s.trays.get? key with
  | none => s
  | some t =>
    let (num, s) := s.newPark (key / 32)
    let s := s.onTray key fun t => { t with wait := .park ⟨num, key, f.kind, f.fctx, f.leaf, path, wr, f.addr, fetch⟩ }
    s.faultRecord f true ⟨t.ctx, key / 32, key % 32, none, fetch, wr, pc.toNat, left, tokenOf num key⟩

/-- The end of an issue group: a word that parked is where the path resumes; otherwise its traps are delivered (R44),
but for a tray that has ended in it (R139). -/
def State.endGroup (s : State) (key path : Nat) : State :=
  match s.trays.get? key with
  | none => s
  | some t =>
    match t.resumeAt with
    | some (tied, redo) =>
      s.setTray key { t.setPath path { t.path path with pc := redo.pc, single := tied, redo := some redo } with
        resumeAt := none, chainFl := 0 }
    | none =>
      let t1 := { t with traps := [], chainFl := 0 }
      match (if t.wait == .ended then [] else t.traps) with
      | [] => s.setTray key t1
      | tr :: r =>
        (s.setTray key t1).raise key path (tr.causes ++ r.flatMap (·.causes)) tr.epc tr.s
          (match tr.x with
            | some x => some x
            | none => r.findSome? (·.x))

/-- The state after a word that has issued: outside a chain its group ends at once. -/
def State.finish (s : State) (c : Cur) : State := if c.tied then s else s.endGroup c.key c.path

/-- What a probe notes of the result of a word (R45): the check it fails, or that it must wait. -/
def Res.examine (r : Res) (c : Cur) (s : State) : State :=
  match r with
  | .early k => { s with cur := some { c with found := some k } }
  | .stay => { s with cur := some { c with stalled := true } }
  | .converge => { s.setXwait c with cur := some { c with stalled := true } }
  | .claim => { s.takeTurn c with cur := some { c with stalled := true } }
  | .short n => { s.setNeed c n with cur := some { c with stalled := true } }
  | .ok _ _ => s
  | .trap _ _ _ => s
  | .plain _ _ _ => s
  | .later _ _ _ _ => s
  | .fault _ _ _ _ _ => s
  | .park _ _ _ _ _ _ => s

-- Outstanding counters (R142)

/-- An outstanding counter. -/
def Tray.ctr (t : Tray) : Ctr → Nat
  | .loads => t.loads
  | .stores => t.stores
  | .copies => t.copies
  | .matrix => t.matrix

/-- Set an outstanding counter. -/
def Tray.setCtr (t : Tray) (c : Ctr) (n : Nat) : Tray :=
  match c with
  | .loads => { t with loads := n }
  | .stores => { t with stores := n }
  | .copies => { t with copies := n }
  | .matrix => { t with matrix := n }

/-- An instruction that would raise a counter above 63 is not a candidate (R142). -/
def Tray.ctrFull (t : Tray) (c : Ctr) : Bool := 63 ≤ t.ctr c

/-- A path slot has still to perform threads of the instruction that is counted as group g. -/
def Path.redoes (p : Path) (g : Nat) : Bool := (p.redo.bind (·.grp)).any fun x => x.1 == g

/-- Something of the instruction that is counted as group g is not complete. -/
def Tray.holdsGrp (t : Tray) (g : Nat) : Bool :=
  (t.pend.any fun p => p.grp == g) || t.p0.redoes g || t.p1.any (·.redoes g) ||
    (t.resumeAt.bind (·.2.grp)).any fun x => x.1 == g

/-- A counter falls when nothing of an instruction that it counts is left (R142). -/
def Tray.settleGrp (t : Tray) (grp : Option (Nat × Ctr)) : Tray :=
  match grp with
  | none => t
  | some (g, c) => if t.holdsGrp g then t else t.setCtr c (t.ctr c - 1)

/-- What a path slot has still to perform of the word at an address. -/
def Path.redoAt (p : Path) (pc : Pc) : Option Redo :=
  match p.redo with
  | some r => if r.pc = pc then some r else none
  | none => none

/-- An instruction parks at a word: the threads left, counted as it was, or from now on (R142). `t0` is the tray before
it issued. -/
def Tray.parkAt (t t0 : Tray) (c : Cur) (left : Mask) (ctr : Option Ctr) : Tray :=
  let old := ((t0.path c.path).redoAt c.pc).bind (·.grp)
  let (grp, t) := match old, ctr with
    | some g, _ => (some g, t)
    | none, none => (none, t)
    | none, some k =>
      (some (t0.nextPend, k),
       if t.nextPend = t0.nextPend then { t.setCtr k (t.ctr k + 1) with nextPend := t.nextPend + 1 } else t)
  { t with resumeAt := some (c.tied, ⟨c.pc, left, grp, (((t.path c.path).redoAt c.pc).map (·.bases)).getD []⟩) }

/-- A trap that waits for the end of the group. -/
def Tray.queueTrap (t : Tray) (cs : List Cause) (epc : Pc) (single : Bool) (path : Nat) (x : Option Nat) : Tray :=
  { t with traps := t.traps ++ [⟨cs, epc, single, path, x⟩] }

/-- A word that is done, in tray `old` before it, is counted no more for what the path had still to do (R142). -/
def Tray.doneFrom (t old : Tray) (path : Nat) : Tray := t.settleGrp ((old.path path).redo.bind (·.grp))

/-- A word that traps, in tray `old` before it, leaves what the path has still to do. -/
def Tray.keepRedo (t old : Tray) (path : Nat) : Tray := t.setPath path { t.path path with redo := (old.path path).redo }

/-- What the result of a word does (R44, R142, R228); `t0` is the tray before it. -/
def Res.perform (r : Res) (c : Cur) (t0 : Tray) (s : State) : State :=
  match r with
  | .ok t s1 => (s1.setTray c.key (t.doneFrom t0 c.path)).finish c
  | .trap t s1 cs => (s1.setTray c.key ((t.keepRedo t0 c.path).queueTrap cs c.pc c.tied c.path none)).finish c
  | .plain t s1 cs => (s1.setTray c.key ((t.keepRedo t0 c.path).queueTrap cs c.pc false c.path none)).finish c
  | .later t s1 cs x =>
    (s1.setTray c.key ((t.doneFrom t0 c.path).queueTrap cs (t.path c.path).pc false c.path x)).finish c
  | .early k => s.raise c.key c.path [k] c.pc false none
  | .fault t s1 f wr left =>
    ((s1.faultRecord f false ⟨t.ctx, c.key / 32, c.key % 32, none, false, wr, c.pc.toNat, left, 0⟩).setTray c.key
      ((t.keepRedo t0 c.path).queueTrap [f.kind.cause] c.pc c.tied c.path none)).finish c
  | .park t s1 f wr left k =>
    ((s1.setTray c.key ((t.parkAt t0 c left k).doneFrom t0 c.path)).parkTray c.key c.path f wr false c.pc left).finish c
  | .stay => s
  | .converge => s.setXwait c
  | .claim => s.takeTurn c
  | .short n => s.setNeed c n

/-- Act on the result of a word: a probe only notes what it found. -/
def Res.outcome (r : Res) (c : Cur) (t0 : Tray) (s : State) : Host.Outcome State Fault Refusal :=
  .next (if c.probe then r.examine c s else r.perform c t0 s)

/-- Where a word reads its sources: the tray as it stood before its chain (R39), the path, the word's address and what
special registers show. -/
def Cur.src (c : Cur) (s : State) (t : Tray) : Src :=
  ⟨c.snap.getD t, c.path, c.pc, c.tied || c.snap.isSome, c.key, s.clock (c.key / 32), (s.ctx t.ctx).step⟩

/-- The tray with its path at the word after the group, nothing left over from a resume or a wait, nor from a park at this
word or, outside a handler, at another. -/
def Tray.advance (t : Tray) (c : Cur) : Tray :=
  { t.setPath c.path { t.path c.path with
      pc := c.after, single := false, cross := .no, entry := false, since := none, turn := none,
      redo := if t.cause = 0 ∨ ((t.path c.path).redoAt c.pc).isSome then none else (t.path c.path).redo } with
    entryWord := if t.entryWord = some c.pc then none else t.entryWord }

/-- Issue an instruction with the register operands `ops` (R28–R31, R45): operand legality, the scoreboard, the
instruction's own checks, then REGOVF, then its effects. The body gets the sources and the tray with its PC already
after the word's group. -/
def issue (ops : List Opnd) (s : State) (body : Src → Tray → State → Res) : Host.Outcome State Fault Refusal :=
  match s.cur with
  | none => .fault .noCurrentTray
  | some c =>
    match s.trays.get? c.key with
    | none => .fault .noCurrentTray
    | some t =>
      let r := c.src s t
      if !ops.all Opnd.ok then (Res.early .illegal).outcome c t s
      else if scoreboard r.t c.path ops then Res.stay.outcome c t s
      else
        match body r (t.advance c) s with
        | .early k => (Res.early k).outcome c t s
        | res => if beyondN r.t ops then (Res.early .regovf).outcome c t s else res.outcome c t s

/-- Issue an instruction whose effects are on the tray alone. -/
def issueTray (ops : List Opnd) (s : State) (f : Src → Tray → Tray) : Host.Outcome State Fault Refusal :=
  issue ops s fun r t s => .ok (f r t) s

/-- Whether a path may be a candidate (R79, R136, R405). -/
def Tray.mayIssue (t : Tray) (i : Nat) : Bool :=
  t.leave.isNone && t.wait == .run && (i == 0 || (i == 1 && t.p1.isSome)) && !(t.path i).joinWait &&
    (t.cause == 0 || t.hslot == i)

-- Pending results (R19, R142)

/-- Count an instruction and note what is pending of it; `grp` is given where it has been counted before it parked. -/
def Tray.addPend (t : Tray) (kind : PendKind) (path : Nat) (ctr : Option Ctr) (sdst vdst : List Nat)
    (data : Option (List RegWrite)) (fills : List L1Fill := []) (entries : Nat := 0) (pc : Pc := 0)
    (homes : List Nat := []) (grp : Option (Nat × Ctr) := none) (roots : List Nat := []) : Tray :=
  let t := match ctr, grp with
    | some c, none => t.setCtr c (t.ctr c + 1)
    | _, _ => t
  let g := (grp.map (·.1)).getD t.nextPend
  { t with pend := t.pend ++ [⟨t.nextPend, kind, path, sdst, vdst, data, ctr, fills, entries, pc, homes, g, roots⟩],
           nextPend := t.nextPend + 1 }

/-- What the word at hand has still to do after a park. -/
def Src.redo? (r : Src) : Option Redo := (r.t.path r.i).redoAt r.pc

/-- Where the word at hand has been counted before it parked. -/
def Src.grp (r : Src) : Option (Nat × Ctr) := r.redo?.bind (·.grp)

/-- The counter of the word at hand is full, and it has not been counted (R142). -/
def Src.ctrFull (r : Src) (c : Ctr) : Bool := r.grp.isNone && r.t.ctrFull c

/-- Write a result into the registers it is bound for (R19, R31). A path slot that has ceased to exist, number 2, takes
none into its mask (R138). -/
def Tray.land (t : Tray) (path : Nat) (w : RegWrite) : Tray :=
  match w with
  | .s k v => if 2 ≤ path && k < 3 then t else t.setSreg path k v
  | .v key v => { t with vregs := smSet t.vregs key v }

/-- A result is still bound for its register: REGSHRINK takes it away from the registers it discards (R147, R149). -/
def Pend.bound (p : Pend) : RegWrite → Bool
  | .s k _ => p.sdst.contains k
  | .v key _ => p.vdst.contains (key / 96)

/-- A pending operation completes: its results land, and the counter falls with the last of its instruction (R142). -/
def Tray.complete (t : Tray) (id : Nat) : Tray :=
  match t.pend.find? fun p => p.id == id with
  | none => t
  | some p =>
    let t := ((p.data.getD []).filter p.bound).foldl (fun t w => t.land p.path w) t
    { t with pend := t.pend.filter fun q => q.id != id }.settleGrp (p.ctr.map fun c => (p.grp, c))

/-- Set the data a pending result will land with. -/
def Tray.setData (t : Tray) (id : Nat) (d : List RegWrite) : Tray :=
  let upd (p : Pend) : Pend := if p.id = id then { p with data := some d } else p
  { t with pend := t.pend.map upd }

/-- The result of a command is on its way: the event of its landing completes it (R19). -/
def Tray.answer (t : Tray) (id : Nat) (d : List RegWrite) : Tray :=
  let upd (p : Pend) : Pend := if p.id = id then { p with data := some d, kind := .result } else p
  { t with pend := t.pend.map upd }

/-- A cause that a completed operation leaves for the next wait that observes its counter (R143). -/
def Tray.addObs (t : Tray) (c : Ctr) (k : Cause) : Tray := { t with obs := t.obs ++ [(c, k)] }

/-- The causes left for counters, and the tray without them. -/
def Tray.takeObs (t : Tray) (cs : List Ctr) : List Cause × Tray :=
  ((t.obs.filter fun o => cs.contains o.1).map (·.2), { t with obs := t.obs.filter fun o => !cs.contains o.1 })

/-- Exports that were translated for a context or a descendant and have not committed (R224, R365). -/
def State.exportsOut (s : State) (c : Nat) : Bool :=
  s.passes.any fun e => (e.2.ctx == c || s.isAncestor c e.2.ctx) && !e.2.exports.isEmpty

/-- A write to a ROOT waits: an access translated by the old tables has not been performed (R213, R224). -/
def State.rootsOut (s : State) (p : Pend) : Bool := p.roots.any fun c => s.exportsOut c

-- The engine port (R10–R17)

/-- Commands of a core still in its replay window (R17). -/
def State.replayCount (s : State) (core : Nat) : Nat := (s.ops.filter fun o => o.tag.core == core && o.phase == 0).length

/-- The replay window of a core is full: no word of the engine pipe issues (R17). -/
def State.replayFull (s : State) (core : Nat) : Bool := 64 ≤ s.replayCount core

/-- The tag of a command that a tray sends now (Table 1.3). -/
def Tray.tagOf (t : Tray) (s : State) (key eng : Nat) (ver : Word) : Tag :=
  ⟨t.ctx, (s.ctx t.ctx).gen, key / 32, key % 32, t.prio, eng, t.seq, (s.ctx t.ctx).step, ver⟩

/-- Send a command to an engine unit (R10, R12): the tray's sequence number, 0 at its start, advances (DESIGN CHOICE: with
every command that is sent, and with nothing else; words that wait in their tray or act on it alone, RWAIT, CWAIT, TRET,
TREFL and TCLR, send none), the operation waits in the replay
window (phase 0) and reports to pending number `id` of the tray. -/
def sendOp (r : Src) (t : Tray) (s : State) (eng unit : Nat) (ver : Word) (id : Nat) (body : OpBody) : Tray × State :=
  ({ t with seq := t.seq + 1 },
   { s with nextId := s.nextId + 1,
            ops := s.ops ++ [⟨s.nextId, t.tagOf s r.key eng ver, unit, t.batch, t.idx, id, 0, body, none⟩] })

-- Trays of saved batches (R22, R410)

/-- What a tray waits for, in the 96 bits of its image: the kind, then continuation and operands. The kinds are the
spec's, the places of the operands the model's; `n` says in which counters a waiting instruction is counted. -/
def Wait.code (n : Nat) : Wait → Nat
  | .run => 0
  | .bar => 1
  | .cbar => 2
  | .yield c p q k none =>
    if c = 2 then f2 1 95 (f2 (q.toNat * 4096 + p.toNat % 4096) 50 (f2 k.toNat 4 4))
    else f2 c 92 (f2 p.toNat 50 (f2 k.toNat 4 4))
  | .yield _ p _ k (some d) => f2 d 82 (f2 p.toNat 50 (f2 k.toNat 4 9))
  | .park _ => f2 n 4 5
  | .grow n _ k => f2 n 50 (f2 k.toNat 4 6)
  | .reflected n x => f2 n 64 (f2 ((x.map fun k => k * 2 + 1).getD 0) 8 7)
  | .treflWait n => f2 n 64 (f2 1 4 7)
  | .latch _ => f2 n 4 10
  | .ended => 0

/-- The number of a counter, from 1. -/
def Ctr.number : Ctr → Nat
  | .loads => 1
  | .stores => 2
  | .copies => 3
  | .matrix => 4

/-- Where the instruction at which a tray waits is counted, by 2^number: an arrival at a latch by what it made pending, a
park by what is still to be done. -/
def Tray.waitCounts (t : Tray) : Nat :=
  let l : List Ctr := match t.wait with
    | .latch a => (t.pend.filter fun p => a.pends.contains p.id).filterMap (·.ctr)
    | .park _ => (((t.p0.redo.bind (·.grp)).toList ++ ((t.p1.bind (·.redo)).bind (·.grp)).toList)).map (·.2)
    | _ => []
  (l.map fun c => 2 ^ c.number).sum

/-- The 12 bytes of a tray's wait in its image (Table 17.12). -/
def Tray.waitBytes (t : Tray) : List Byte := bytesOf 12 (t.wait.code t.waitCounts)

/-- The first 32 bytes of a tray's image: the PCs of its slots, EPC and causes (Table 17.12). -/
def Tray.headBytes (t : Tray) : List (List Byte) :=
  [bytesOf 8 (f2 t.p1.isSome.toNat 63 t.p0.pc.toNat), bytesOf 8 ((t.p1.map fun p => p.pc.toNat).getD 0),
   bytesOf 8 t.epc.toNat, bytesOf 8 t.cause.toNat]

/-- The scalar registers of slot 0 in a tray's image (Table 17.12). -/
def Tray.sregBytes (t : Tray) : List (List Byte) := (List.range 96).map fun k => bytesOf 4 (t.sreg 0 k).toNat

/-- The 4 bytes of the outstanding counters (Table 17.12). -/
def Tray.ctrBytes (t : Tray) : List Byte := bytesOf 4 (f2 t.matrix 18 (f2 t.copies 12 (f2 t.stores 6 t.loads)))

/-- The BAR arrivals of a batch, a bit for each of its trays in TRAYID order (Table 17.12). -/
def Batch.barBytes (b : Batch) : List Byte :=
  let trays := b.image.map (·.2)
  bytesOf 4 ((List.range trays.length).map fun i =>
    match trays[i]? with
    | some t => if t.wait == .bar then 2 ^ i else 0
    | none => 0).sum

/-- Write bytes into the image of a batch; an image that cannot be written stays as it is. -/
def State.patchImage (s : State) (b : Batch) (off : Nat) (bs : List Byte) : State :=
  match b.saved with
  | none => s
  | some (o, _) => (s.upWr b.ctx ((s.ctx b.ctx).savebase.toNat + o + off) bs).getD s

/-- The parts of a tray's image that change while the tray is absent, in order: PCs, EPC and causes, counters, GANGSEL, wait,
scalar registers. -/
def Tray.parts (t : Tray) : List (Nat × List Byte) :=
  ([0, 8, 16, 24].zip t.headBytes) ++ [(36, t.ctrBytes), (48, bytesOf 4 t.gangsel.toNat), (52, t.waitBytes)] ++
    (((List.range 96).map fun k => 128 + 4 * k).zip t.sregBytes)

/-- What has changed of a saved tray while it is absent is written to its image too, with its arrival at BAR (R22, R140, R400,
R405, R410); `old` is the tray before. -/
def State.patchTray (s : State) (batch idx : Nat) (old : Tray) : State :=
  match s.batches.get? batch with
  | none => s
  | some b =>
    match b.image.get? idx, b.offs.get? idx with
    | some t, some o =>
      let s := (old.parts.zip t.parts).foldl (fun s x =>
        if x.1.2 = x.2.2 then s else s.patchImage b (o + x.2.1) x.2.2) s
      if old.wait = t.wait then s else s.patchImage b 36 b.barBytes
    | _, _ => s

/-- A tray of a batch, resident or in the batch's image. -/
def State.trayOf (s : State) (batch idx : Nat) : Option Tray :=
  match s.trays.find? fun e => e.2.batch == batch && e.2.idx == idx with
  | some e => some e.2
  | none => match s.batches.get? batch with
    | some b => b.image.get? idx
    | none => none

/-- Change a saved tray (R22). -/
def State.onSaved (s : State) (batch idx : Nat) (f : Tray → Tray) : State :=
  match (s.batches.get? batch).bind fun b => b.image.get? idx with
  | none => s
  | some old =>
    { s with batches := s.batches.upd batch fun b => { b with image := b.image.upd idx f } }.patchTray batch idx old

/-- Change the saved trays that meet a condition. -/
def State.onSavedAll (s : State) (ok : Tray → Bool) (f : Tray → Tray) : State :=
  (s.batches.flatMap fun b => b.2.image.filterMap fun e => if ok e.2 then some (b.1, e.1) else none).foldl
    (fun s x => s.onSaved x.1 x.2 f) s

/-- Change a tray of a batch, resident or in its image (R22). -/
def State.onTrayOf (s : State) (batch idx : Nat) (f : Tray → Tray) : State :=
  match s.trays.find? fun e => e.2.batch == batch && e.2.idx == idx with
  | some e => s.setTray e.1 (f e.2)
  | none => s.onSaved batch idx f

/-- The operation with a number. -/
def State.op? (s : State) (id : Nat) : Option Op := s.ops.find? fun o => o.id == id

/-- Change an operation. -/
def State.onOp (s : State) (id : Nat) (f : Op → Op) : State :=
  let upd (o : Op) : Op := if o.id = id then f o else o
  { s with ops := s.ops.map upd }

/-- An operation leaves: it is complete or discarded. -/
def State.dropOp (s : State) (id : Nat) : State := { s with ops := s.ops.filter fun o => o.id != id }

end Sys2Proof.Machine
end

