-- ==== Sys2Proof/Machine/Fetch.lean ====
section
/-!
DEFINITION. Fetching a packet, classifying its words, branch targets and issue groups (R37–R43, R152).
-/

namespace Sys2Proof.Machine

/-- The address of the first word of the packet that holds a word address (R37). -/
def packetBase (pc : Pc) : Pc := pc - BitVec.ofNat 46 (pc.toNat % 3)

/-- The slot of a word in its packet (R37). -/
def packetSlot (pc : Pc) : Nat := pc.toNat % 3

/-- The three words of the packet that holds a word address (R37, R45): the first failed translation ends the fetch. -/
def State.packet (s : State) (core c : Nat) (pc : Pc) : Except XFault (Word × Word × Word) := do
  let b := (packetBase pc).toNat
  let w0 ← s.fetch core c b
  let w1 ← s.fetch core c (b + 1)
  let w2 ← s.fetch core c (b + 2)
  pure (w0, w1, w2)

/-- The core's TLB keeps the translations of a packet that has been fetched: of its first and its last word (R223). -/
def State.packetFill (s : State) (core c : Nat) (pc : Pc) : State :=
  let b := (packetBase pc).toNat
  (s.fetchFill core c b).fetchFill core c (b + 2)

/-- Word i of a packet. -/
def packetWord (p : Word × Word × Word) (i : Nat) : Word := if i = 0 then p.1 else if i = 1 then p.2.1 else p.2.2

/-- Whether slot i of a packet holds an instruction, classified from slot 0 upwards (R40). -/
def isInstr (p : Word × Word × Word) : Nat → Bool
  | 0 => true
  | i + 1 => !(isInstr p i && takesLiteral (packetWord p i))

/-- Whether slot i of a packet is tied to the word before it (R38): a tie does not reach over a packet's end. -/
def isTied (p : Word × Word × Word) : Nat → Bool
  | 0 => false
  | i + 1 => isInstr p i && chainBit (packetWord p i)

/-- Whether a word may be a branch target (R42); for the word an EPC with S = 1 names, only a literal is refused (R44).
A target whose packet cannot be fetched is accepted: the fault is taken where it would issue. -/
def State.targetOk (s : State) (core c : Nat) (pc : Pc) (single : Bool := false) : Bool :=
  match s.packet core c pc with
  | .error _ => true
  | .ok p => isInstr p (packetSlot pc) && (single || !isTied p (packetSlot pc))

/-- A word that issues: its address, the word, and the word after it in the packet (0 in slot 2). -/
structure GWord where
  pc : Pc
  w : Word
  lit : Word
  deriving DecidableEq, Repr

/-- An issue group: its words without NOPs, the address after it, and whether its form is illegal (R38, R41). -/
structure Group where
  words : List GWord
  after : Pc
  bad : Bool
  deriving DecidableEq, Repr

/-- A word is a NOP, with or without C (R39). -/
def isNop (w : Word) : Bool := w.toNat % 2 ^ 31 == 0

/-- Add a word to a group, unless it is a NOP. -/
def Group.cons (g : Group) (x : GWord) : Group := if isNop x.w then g else { g with words := x :: g.words }

/-- The group that begins in slot i of a packet (R38–R41); n bounds the words still to look at. A literal-taking word that
a NOP with C = 1 is tied to issues as it would alone, since the chain behaves as it would without the NOP (R39); R41 taken
by itself would call the chain illegal (DESIGN CHOICE). -/
def groupFrom (p : Word × Word × Word) (b : Pc) : Nat → Nat → Group
  | 0, i => ⟨[], b + BitVec.ofNat 46 i, false⟩
  | n + 1, i =>
    let w := packetWord p i
    let x : GWord := ⟨b + BitVec.ofNat 46 i, w, if i < 2 then packetWord p (i + 1) else 0⟩
    if takesLiteral w then
      ⟨[x], b + BitVec.ofNat 46 (if i = 2 then 3 else i + 2), i == 2 || chainBit w⟩
    else if !chainBit w then Group.cons ⟨[], b + BitVec.ofNat 46 (i + 1), false⟩ x
    else if i = 2 then Group.cons ⟨[], b + 3, true⟩ x
    else (groupFrom p b n (i + 1)).cons x

/-- The operands of a word, none where it does not decode. -/
def GWord.opnds (x : GWord) : List Opnd :=
  match decodeWord x.w x.lit with
  | .ok d => d.opnds
  | .error _ => []

/-- The registers an operand writes, each as a number: scalars from 0, window registers from 128, special registers from
256, tiles from 512 (R38, R134). -/
def opndWrites (o : Opnd) : List Nat :=
  if !o.wr then []
  else match o.file with
    | .s => List.range' o.k o.n
    | .m => List.range' (3 * o.k) 3
    | .v => List.range' (128 + o.k) o.n
    | .sp => [256 + o.k]
    | .acc => [512 + o.k]
    | .lit => []

/-- The window registers a word of the march sampler writes beside its first, given what its scalar registers hold: the
number of results depends on the word or on its control word (R371, R372, Table 16.2). -/
def GWord.moreWrites (x : GWord) (sreg : Nat → Word) : List Nat :=
  let more (d : BitVec 7) (n : Nat) : List Nat := List.range' (129 + d.toNat) (n - 1)
  let cw (b : SB) : Nat := match b with
    | .sreg k => (sreg (k.toNat + 3)).toNat
    | _ => 0
  match decodeWord x.w x.lit with
  | .ok (.core (.march d _ _)) => more d 26
  | .ok (.core (.msmp d _ b)) => more d (cw b % 4 + 1)
  | .ok (.core (.mhash d _ b)) => more d (cw b % 32)
  | _ => []

/-- Two words of a chain write one register (R38), given what the scalar registers hold. -/
def chainOverlaps (ws : List GWord) (sreg : Nat → Word) : Bool :=
  let writes := ws.map fun x => (x.opnds.flatMap opndWrites ++ x.moreWrites sreg).eraseDups
  writes.flatten.eraseDups.length != writes.flatten.length

/-- Words that no chain holds (R38, R146): WAITC, YIELD, BAR, CBAR, TRAP, SYS, BRD, JOIN, REGGROW and REGSHRINK. -/
def noChain (w : Word) : Bool :=
  let m := (fMaj w).toNat
  let f := (fF w).toNat
  m == 0 && 2 ≤ f || m == 1 && (f == 5 || f == 6) || m == 9 && (f == 3 || f == 4)

/-- VIDX and VIDXW (Table 6.7). -/
def isIndexed (w : Word) : Bool := (fMaj w).toNat == 16 && (fF w).toNat < 2

/-- Whether a word reads or writes a vector register (R152). -/
def GWord.vectors (x : GWord) : Bool := x.opnds.any fun o => o.file == .v

/-- Whether the words of a chain of two or more are legal together (R38, R146, R152). -/
def chainOk (ws : List GWord) : Bool :=
  let pipes := (ws.map fun x => pipeOf x.w).filter (· != .none)
  let writes := ws.map fun x => (x.opnds.flatMap opndWrites).eraseDups
  pipes.eraseDups.length == pipes.length &&
  ws.all (fun x => !takesLiteral x.w && !noChain x.w) &&
  ws.dropLast.all (fun x => pipeOf x.w != .branch) &&
  writes.flatten.eraseDups.length == writes.flatten.length &&
  (!ws.any (fun x => isIndexed x.w) || (ws.filter GWord.vectors).length ≤ 1)

/-- The group at a PC (R38–R41). With single-word resume only the word at the PC issues (R44). -/
def mkGroup (p : Word × Word × Word) (pc : Pc) (single : Bool) : Group :=
  let g := groupFrom p (packetBase pc) 3 (packetSlot pc)
  if single then
    let ws := g.words.filter fun x => x.pc == pc
    ⟨ws, g.after, (ws.all fun x => takesLiteral x.w) && g.bad⟩
  else ⟨g.words, g.after, g.bad || (1 < g.words.length && !chainOk g.words)⟩

/-- Whether the word at a PC belongs to a chain of two or more words (R44): NOPs do not count. -/
def inChain (p : Word × Word × Word) (pc : Pc) : Bool :=
  let start (i : Nat) : Nat := if isTied p i then (if isTied p (i - 1) then i - 2 else i - 1) else i
  1 < (groupFrom p (packetBase pc) 3 (start (packetSlot pc))).words.length

end Sys2Proof.Machine
end

