-- ==== Sys2Proof/Machine/Order.lean ====
section
/-!
DEFINITION. What an acquire does (R195, R204), and the joins of completed operations (R21, R143).
-/

namespace Sys2Proof.Machine

/-- A core acquires: the messages that carried the releases before it raise its turn clock (R199). Which these were is not
kept, so that it is raised to the latest of the cores' clocks (DESIGN CHOICE). -/
def State.hear (s : State) (core : Nat) : State :=
  let m := s.cores.foldl (fun m e => if m.ult e.2.turn then e.2.turn else m) 0
  s.onCore core fun k => { k with turn := m }

/-- The cores that hold batches of a cluster. -/
def State.clusterCores (s : State) (k : Nat) : List Nat :=
  match s.clusters.get? k with
  | none => []
  | some c => (c.batches.filterMap fun b => (s.batches.get? b).bind (·.core)).eraseDups

/-- The cluster of a tray. -/
def State.clusterIdOf (s : State) (t : Tray) : Nat := ((s.batches.get? t.batch).map (·.cluster)).getD 0

/-- An acquire by a tray of a core at a scope of Table 8.2 (R195, R204): at die scope or wider, and at cluster scope when
the cluster holds batches on more than one core, the core's L1 loses every sector that is not read-only. -/
def State.acquire (s : State) (core : Nat) (t : Tray) (scope : Nat) : State :=
  if 3 ≤ scope || (scope == 2 && 1 < (s.clusterCores (s.clusterIdOf t)).length) then (s.hear core).l1Inval core false
  else s

/-- The join of a tray's completed operations (R21): its L1 is invalidated where one of them wrote global memory from
another core (R204). -/
def State.join (s : State) (core : Nat) (t : Tray) : Tray × State :=
  if t.stale then ({ t with stale := false }, (s.hear core).l1Inval core false) else (t, s)

/-- A counter is at or below a limit; 31 means any (R143). -/
def underLimit (n : Nat) (l : Nat) : Bool := l == 31 || n ≤ l

/-- The four limits of WAITC and of YIELD's condition CNT (R143, R144). -/
structure Limits where
  loads : Nat
  stores : Nat
  copies : Nat
  matrix : Nat
  deriving DecidableEq, Repr

/-- Every counter is at or below its limit (R143). -/
def Tray.under (t : Tray) (l : Limits) : Bool :=
  underLimit t.loads l.loads && underLimit t.stores l.stores && underLimit t.copies l.copies &&
    underLimit t.matrix l.matrix

/-- The counters a wait observes: those whose limit is not 31 (R272). -/
def Limits.observes (l : Limits) : List Ctr :=
  (if l.loads = 31 then [] else [Ctr.loads]) ++ (if l.stores = 31 then [] else [Ctr.stores]) ++
  (if l.copies = 31 then [] else [Ctr.copies]) ++ (if l.matrix = 31 then [] else [Ctr.matrix])

end Sys2Proof.Machine
end

