-- ==== Sys2Proof/Machine/Control.lean ====
section
/-!
DEFINITION. Control flow: majors 0x00, 0x01 and 0x02, and REGGROW and REGSHRINK (R131–R149), but for EXIT, YIELD and the
events that end a wait.
-/

namespace Sys2Proof.Machine

/-- Set the PC to a branch target, or trap with BADTARGET, the word taking no effect (R42, R44). -/
def Src.jump (r : Src) (t t1 : Tray) (s : State) (target : Pc) : Res :=
  if s.targetOk (r.key / 32) r.t.ctx target then .ok (t1.setPc r.i target) s else .trap t s [.badtarget]

/-- The target of a displacement (R51). -/
def Src.target (r : Src) (disp : BitVec 15) : Pc := r.pc + disp.signExtend 46

/-- A branch that is taken on a condition (R131). -/
def branch (i : Instr) (s : State) (disp : BitVec 15) (taken : Src → Bool) : Host.Outcome State Fault Refusal :=
  issue i.opnds s fun r t s => if taken r then r.jump t t s (r.target disp) else .ok t s

/-- NOP (R39): nothing. -/
def execNop (s : State) : Host.Outcome State Fault Refusal := issue [] s fun _ t s => .ok t s

/-- BRA (R131). -/
def execBra (disp : BitVec 15) (s : State) : Host.Outcome State Fault Refusal :=
  branch (.bra disp) s disp fun _ => true

/-- BZ (R131). -/
def execBz (x : BitVec 7) (disp : BitVec 15) (s : State) : Host.Outcome State Fault Refusal :=
  branch (.bz x disp) s disp fun r => r.s x == 0

/-- BNZ (R131). -/
def execBnz (x : BitVec 7) (disp : BitVec 15) (s : State) : Host.Outcome State Fault Refusal :=
  branch (.bnz x disp) s disp fun r => r.s x != 0

/-- BZM (R131). -/
def execBzm (x : BitVec 7) (disp : BitVec 15) (s : State) : Host.Outcome State Fault Refusal :=
  branch (.bzm x disp) s disp fun r => r.m x == 0

/-- BNZM (R131). -/
def execBnzm (x : BitVec 7) (disp : BitVec 15) (s : State) : Host.Outcome State Fault Refusal :=
  branch (.bnzm x disp) s disp fun r => r.m x != 0

/-- Write the link of a call: the word after it (R132). -/
def Src.link (r : Src) (t : Tray) : Tray := t.setSpair r.i 62 ((r.pc + 1).setWidth 64)

/-- CALL (R131, R132). -/
def execCall (disp : BitVec 15) (s : State) : Host.Outcome State Fault Refusal :=
  issue (Instr.call disp).opnds s fun r t s => r.jump t (r.link t) s (r.target disp)

/-- A jump to the word address in a pair: bits [63:46] must be zero (R132). -/
def Src.jumpPair (r : Src) (t t1 : Tray) (s : State) (x : BitVec 7) : Res :=
  if 2 ^ 46 ≤ (r.s2 x).toNat then .trap t s [.badtarget] else r.jump t t1 s ((r.s2 x).setWidth 46)

/-- CALLI (R131, R132). -/
def execCalli (x : BitVec 7) (s : State) : Host.Outcome State Fault Refusal :=
  issue (Instr.calli x).opnds s fun r t s => r.jumpPair t (r.link t) s x

/-- RET (R131, R132). -/
def execRet (x : BitVec 7) (s : State) : Host.Outcome State Fault Refusal :=
  issue (Instr.ret x).opnds s fun r t s => r.jumpPair t t s x

/-- JMPI (R131, R132). -/
def execJmpi (x : BitVec 7) (s : State) : Host.Outcome State Fault Refusal :=
  issue (Instr.jmpi x).opnds s fun r t s => r.jumpPair t t s x

/-- LOOP (R131, R133): decrement, then branch if the new value is not zero. -/
def execLoop (x : BitVec 7) (disp : BitVec 15) (s : State) : Host.Outcome State Fault Refusal :=
  issue (Instr.loop x disp).opnds s fun r t s =>
    let n := r.s x - 1
    let t1 := t.setSreg r.i x.toNat n
    if n = 0 then .ok t1 s else r.jump t t1 s (r.target disp)

-- Dual-path mode (R135, R136)

/-- A path slot's mask set, as a write to m0 (R27, R138). -/
def Tray.setMask (t : Tray) (i : Nat) (m : Mask) : Tray := t.setPath i { t.path i with mask := t.filterMask m }

/-- BRD (R135, Table 6.3). -/
def execBrd (x : BitVec 7) (disp : BitVec 15) (s : State) : Host.Outcome State Fault Refusal :=
  issue (Instr.brd x disp).opnds s fun r t s =>
    let tk := r.m0 &&& r.m x
    let nt := r.m0 &&& ~~~r.m x
    let p := t.path r.i
    let target := r.target disp
    if !r.t.dual then .early .illegal
    else if tk = 0 then .ok t s
    else if nt = 0 then r.jump t t s target
    else if r.t.p1.isNone && p.stack.isEmpty then
      if !s.targetOk (r.key / 32) r.t.ctx target then .trap t s [.badtarget]
      else .ok { t.setMask 0 nt with
        p1 := some ⟨target, t.filterMask tk, [], false, .no, none, none, false, false, none⟩ } s
    else if 16 ≤ p.stack.length then .trap t s [.divdepth]
    else
      r.jump t ((t.setPath r.i { p with stack := ⟨r.m0, nt, r.pc + 1, none, false⟩ :: p.stack }).setMask r.i tk) s target

/-- JOIN (R136, Table 6.4). -/
def execJoin (s : State) : Host.Outcome State Fault Refusal :=
  issue [] s fun r t s =>
    let p := t.path r.i
    if !r.t.dual then .early .illegal
    else match p.stack with
      | e :: st =>
        if !e.merge then
          .ok ((t.setPath r.i { p with pc := e.ppc, stack := { e with j := some r.pc, merge := true } :: st }).setMask
            r.i e.p) s
        else if e.j = none ∨ e.j = some r.pc then .ok ((t.setPath r.i { p with stack := st }).setMask r.i e.f) s
        else .trap t s [.divdepth]
      | [] =>
        if r.t.p1.isNone then .ok t s
        else .ok (t.setPath r.i { p with pc := r.pc, joinWait := true }) s

/-- JOIN_MERGE (R136): both slots wait at JOIN with empty stacks and every pending register result has landed. -/
def execJoinMerge (tray : Nat) (s : State) : Host.Outcome State Fault Refusal :=
  match s.trays.get? tray with
  | none => .next s
  | some t =>
    match t.p1 with
    | none => .next s
    | some p1 =>
      if !(t.p0.joinWait && p1.joinWait && t.wait == .run && t.cause == 0 && t.leave.isNone &&
          t.pend.all fun p => p.sdst.isEmpty && p.vdst.isEmpty) then .next s
      else if t.p0.pc = p1.pc then
        .next (s.setTray tray { t with
          p0 := { t.p0 with mask := t.filterMask (t.p0.mask ||| p1.mask), pc := t.p0.pc + 1, joinWait := false },
          p1 := none })
      else
        .next ((s.setTray tray { t with p0 := { t.p0 with joinWait := false }, p1 := some { p1 with joinWait := false } }).raise
          tray 1 [.divdepth] p1.pc false none)

-- Traps by program (R406)

/-- TRAP (R406): TRAPI, EPC at the following word. -/
def execTrap (x : BitVec 7) (s : State) : Host.Outcome State Fault Refusal :=
  issue (Instr.trap x).opnds s fun _ t s => .later t s [.trapi] (some x.toNat)

/-- SYS (R406): SYSC, EPC at the following word. -/
def execSys (x : BitVec 7) (s : State) : Host.Outcome State Fault Refusal :=
  issue (Instr.sys x).opnds s fun _ t s => .later t s [.sysc] (some x.toNat)

-- Waiting on counters (R143)

/-- WAITC (R143): it ends once every counter is at or below its limit, and raises what the operations it joins left. -/
def execWaitc (l st y m : BitVec 5) (s : State) : Host.Outcome State Fault Refusal :=
  issue [] s fun r t s =>
    let lim : Limits := ⟨l.toNat, st.toNat, y.toNat, m.toNat⟩
    if !r.t.under lim then .stay
    else
      let (cs, t) := t.takeObs lim.observes
      let (t, s) := s.join (r.key / 32) t
      if cs.isEmpty then .ok t s else .later t s cs none

-- Barriers (R140, R141)

/-- A tray still takes part in barriers: it has a live thread. -/
def Tray.alive (t : Tray) : Bool := t.live != 0 && t.wait != .ended

/-- Every tray of a batch that has a live thread waits at the given barrier. -/
def State.allAt (s : State) (batch : Nat) (w : Wait) : Bool :=
  ((s.batches.get? batch).map fun b => b.started && b.image.all fun e => !e.2.alive || e.2.wait == w).getD true &&
    s.trays.all fun e => e.2.batch != batch || !e.2.alive || e.2.wait == w

/-- Release a batch's trays from a barrier: they go on at the next word. -/
def State.letGo (s : State) (batch : Nat) (w : Wait) : State :=
  let go (t : Tray) : Tray :=
    if t.batch == batch && t.wait == w then { t.setPc 0 (t.p0.pc + 1) with wait := .run } else t
  { s with trays := s.trays.all' fun _ t => go t }.onSavedAll (fun t => t.batch == batch && t.wait == w) go

/-- Release a batch from BAR if all its live trays wait at it (R140, R141). -/
def State.releaseBar (s : State) (batch : Nat) : State := if s.allAt batch .bar then s.letGo batch .bar else s

/-- Release a cluster from CBAR if all live trays of its batches wait at it: an acquire at cluster scope (R140, R141). -/
def State.releaseCbar (s : State) (k : Nat) : State :=
  match s.clusters.get? k with
  | none => s
  | some c =>
    if c.batches.all fun b => s.allAt b .cbar then
      let s := c.batches.foldl (fun s b => s.letGo b .cbar) s
      let cores := s.clusterCores k
      if cores.length ≤ 1 then s else cores.foldl (fun s core => (s.hear core).l1Inval core false) s
    else s

/-- A tray whose waiting is done in the whole state: the tray is put there, `f` acts, and the tray is read back. -/
def Src.settle (r : Src) (t : Tray) (s : State) (f : State → State) : Res :=
  let s := f (s.setTray r.key t)
  .ok ((s.trays.get? r.key).getD t) s

/-- BAR (R140). -/
def execBar (s : State) : Host.Outcome State Fault Refusal :=
  issue [] s fun r t s =>
    if r.t.p1.isSome then .early .illegal
    else r.settle { t.setPc r.i r.pc with wait := .bar } s fun s => s.releaseBar t.batch

/-- CBAR (R140). -/
def execCbar (s : State) : Host.Outcome State Fault Refusal :=
  issue [] s fun r t s =>
    if r.t.p1.isSome then .early .illegal
    else r.settle { t.setPc r.i r.pc with wait := .cbar } s fun s => s.releaseCbar (s.clusterIdOf t)

-- Growing and shrinking registers (R146–R149)

/-- Tray-registers held for a batch that is placed and whose trays are not there yet. -/
def Batch.heldRegs (b : Batch) : Nat :=
  if b.loading then (b.image.map fun e => e.2.n).sum else if b.started then 0 else b.trays * b.regs

/-- Tray-registers of a core that are in use: by resident trays, and held for placed batches that have not started
(R69). -/
def State.regsUsed (s : State) (core : Nat) : Nat :=
  (s.trays.map fun e => if e.1 / 32 = core then e.2.n else 0).sum +
  (s.batches.map fun e => if e.2.core = some core then e.2.heldRegs else 0).sum

/-- A grant of n registers leaves the reserve of 64 whole (R148). -/
def State.leavesReserve (s : State) (core n : Nat) : Bool := s.regsUsed core + n ≤ 2048 - 64

/-- The parked REGGROW requests of a core: order of the request, tray and new count (R149). -/
def State.growQueue (s : State) (core : Nat) : List (Nat × Nat × Nat × Pc) :=
  s.trays.filterMap fun e =>
    if e.1 / 32 = core then
      match e.2.wait with
      | .grow n ord cont => some (ord, e.1, n, cont)
      | _ => none
    else none

/-- The oldest of some requests. -/
def oldestGrow : List (Nat × Nat × Nat × Pc) → Option (Nat × Nat × Nat × Pc)
  | [] => none
  | q :: r =>
    match oldestGrow r with
    | none => some q
    | some p => some (if p.1 < q.1 then p else q)

/-- The values REGGROW and REGSHRINK accept: multiples of 16 from 16 to 1,024 (R146). -/
def growLegal (n : Nat) : Bool := n % 16 == 0 && 16 ≤ n && n ≤ 1024

/-- The registers a tray's batch holds on its core. -/
def State.batchRegs (s : State) (batch : Nat) : Nat :=
  (s.trays.map fun e => if e.2.batch = batch then e.2.n else 0).sum

/-- REGGROW (R146, R149). -/
def execReggrow (b : SB) (s : State) : Host.Outcome State Fault Refusal :=
  issue (Instr.reggrow b).opnds s fun r t s =>
    let n := (r.sb b).toNat
    if r.t.p1.isSome || r.chain || !growLegal n || n < r.t.n then .early .illegal
    else if n = r.t.n then .ok t s
    else if 2048 < s.batchRegs t.batch + (n - t.n) then .early .regovf
    else if (s.growQueue (r.key / 32)).isEmpty && s.leavesReserve (r.key / 32) (n - t.n) then .ok { t with n := n } s
    else .ok { t.setPc r.i r.pc with wait := .grow n s.nextId (t.path r.i).pc } { s with nextId := s.nextId + 1 }

/-- REGSHRINK (R146, R147): registers from N′ on are discarded, with the results that were still to land there. -/
def execRegshrink (b : SB) (s : State) : Host.Outcome State Fault Refusal :=
  issue (Instr.regshrink b).opnds s fun r t s =>
    let n := (r.sb b).toNat
    if r.t.p1.isSome || r.chain || !growLegal n || r.t.n < n then .early .illegal
    else .ok { t with
      n := n,
      vregs := t.vregs.filter fun e => e.1 < 96 * n,
      pend := t.pend.map fun p => { p with vdst := p.vdst.filter fun k => k < n } } s

/-- REGGROW_GRANT (R149): the oldest parked request of a core is granted once the registers are free; it may draw on the
reserve (R148). -/
def execReggrowGrant (core : Nat) (s : State) : Host.Outcome State Fault Refusal :=
  match oldestGrow (s.growQueue core) with
  | none => .next s
  | some (_, key, n, cont) =>
    match s.trays.get? key with
    | none => .next s
    | some t =>
      if s.regsUsed core + (n - t.n) ≤ 2048 then .next (s.setTray key { t.setPc 0 cont with n := n, wait := .run })
      else .next s

end Sys2Proof.Machine
end

