-- ==== Sys2Proof/Machine/MemAccess.lean ====
section
/-!
DEFINITION. What the memory instructions share: effective addresses, the checks before any access, requests and
miss-status entries, and the access logs (R157–R172, R180, R200, R416).
-/

namespace Sys2Proof.Machine

/-- A thread with its address. -/
structure Lane where
  th : Nat
  ea : Nat
  deriving DecidableEq, Repr

/-- A thread with its address and where that lies. -/
structure Placed where
  th : Nat
  ea : Nat
  loc : Loc
  deriving DecidableEq, Repr

/-- The bit of a thread in a mask. -/
def maskBit (th : Nat) : Mask := 1#96 <<< th

/-- The threads a memory instruction performs: the active ones, or those a replay still has to (R160). -/
def Src.todo (r : Src) : Mask := ((r.redo?.map (·.mask)).getD r.m0) &&& r.t.live

/-- The threads of `todo` with their effective addresses: address pair plus `off` modulo 2^64 (R158). -/
def Src.lanes (r : Src) (a : BitVec 7) (off : DWord) : List Lane :=
  (maskThreads r.todo).map fun th => ⟨th, (r.v2 a th + off).toNat⟩

/-- An O field times a unit, sign-extended to 64 bits (R158). -/
def offsetOf (o : BitVec 5) (unit : Nat) : DWord := o.signExtend 64 * BitVec.ofNat 64 unit

/-- Some address is not a multiple of the access size (R159). -/
def misaligned (l : List Lane) (size : Nat) : Bool := l.any fun x => x.ea % size != 0

/-- What the translation of every thread's address found (R160): the accesses that can be performed, the threads that
met a replayable fault, and the first such fault. -/
structure Checked where
  ok : List Placed
  left : Mask
  park : Option XFault
  deriving DecidableEq, Repr

/-- A thread is left for the replay. -/
def Checked.leave (k : Checked) (th : Nat) (f : XFault) : Checked :=
  { k with left := k.left ||| maskBit th, park := some (k.park.getD f) }

/-- Translate every thread's address; the first terminal fault in thread order ends it (R160). -/
def State.checkAll (s : State) (core c : Nat) (need : Need) (l : List Lane) : Except XFault Checked :=
  l.foldlM (fun (k : Checked) x =>
    match s.locate core c x.ea need with
    | .ok p => .ok { k with ok := k.ok ++ [⟨x.th, x.ea, p⟩] }
    | .error f => if f.kind.replayable then .ok (k.leave x.th f) else .error f) ⟨[], 0, none⟩

/-- The versioned pages among the targets of writes: writers of a frozen page are left for the replay (R246). -/
def State.cowAll (s : State) (c : Nat) (step : Word) (k : Checked) : Except XFault (State × Checked) :=
  k.ok.foldlM (fun (acc : State × Checked) x =>
    match x.loc with
    | .mem xl => do
      match acc.1.cowCheck c x.ea xl step with
      | .ok (s, none) => pure (s, { acc.2 with ok := acc.2.ok ++ [x] })
      | .ok (s, some kind) => pure (s, acc.2.leave x.th ⟨kind, c, x.ea, xl.leaf⟩)
      | .error f => if f.kind.replayable then pure (acc.1, acc.2.leave x.th f) else .error f
    | _ => pure (acc.1, { acc.2 with ok := acc.2.ok ++ [x] })) (s, { k with ok := [] })

/-- Fill the TLB with what the walks found (R223). -/
def State.tlbFillAll (s : State) (core c : Nat) (l : List Placed) : State :=
  l.foldl (fun s x =>
    match x.loc with
    | .mem xl => s.tlbFill core c x.ea xl
    | _ => s) s

/-- The end of a memory instruction counted in a counter: done, or parked with the threads left. -/
def Checked.finish (k : Checked) (c : Ctr) (t : Tray) (s : State) (wr : Bool) : Res :=
  match k.park with
  | some f => .park t s f wr k.left (some c)
  | none => .ok t s

/-- The cluster of a tray; a batch without one has an empty region. -/
def State.clusterFor (s : State) (t : Tray) : Cluster :=
  (s.clusterOf t.batch).getD ⟨t.ctx, 0, 0, none, 0, false, [], 0, [], [], [], false, none⟩

-- Access logs (R415, R416)

/-- The access kinds of a monitor (Table 17.14). -/
inductive AccKind where
  | load | store | atomic | engRd | engWr | fetch
  deriving DecidableEq, Repr

/-- The number of an access kind (Table 17.14). -/
def AccKind.code : AccKind → Nat
  | .load => 0 | .store => 1 | .atomic => 2 | .engRd => 3 | .engWr => 4 | .fetch => 5

/-- A monitor covers an access of context c. -/
def Monitor.covers (m : Monitor) (c : Nat) (k : AccKind) (va n : Nat) : Bool :=
  m.target == c && m.kinds.getLsbD k.code && va < m.start + m.len && m.start < va + n

/-- The record of a match (R416). -/
def State.logBytes (s : State) (m c core slot : Nat) (k : AccKind) (va : Nat) : List Byte :=
  bytesOf 8 (s.clock core).toNat ++ bytesOf 8 (f2 k.code 52 (va % 2 ^ 52)) ++
  bytesOf 4 (f2 c 16 (f2 slot 10 core)) ++ bytesOf 4 m ++ bytesOf 8 0

/-- Log an access of n bytes by context c in every monitor that covers it; whether one of them trips (R416). -/
def State.logAccess (s : State) (c core slot : Nat) (k : AccKind) (va n : Nat) : Bool × State :=
  (s.lineage c).foldl (fun (acc : Bool × State) a =>
    (s.ctx a).monitors.foldl (fun (acc : Bool × State) e =>
      if e.2.covers c k va n then
        (acc.1 || e.2.trip, acc.2.ringPost a e.2.ring e.2.rlog (s.logBytes e.1 c core slot k va))
      else acc) acc) (false, s)

/-- Log the accesses of a tray's instruction, each of n bytes (R416). -/
def Src.log (r : Src) (t : Tray) (s : State) (k : AccKind) (l : List Lane) (n : Nat) : Tray × State :=
  let (w, s) := l.foldl (fun (acc : Bool × State) x =>
    let (w, s) := acc.2.logAccess t.ctx (r.key / 32) (r.key % 32) k x.ea n
    (acc.1 || w, s)) (false, s)
  ({ t with watch := t.watch || w }, s)

-- Turns (R199, R200)

/-- The later of two turn clocks. -/
def laterTurn (a b : DWord) : DWord := if a.ult b then b else a

/-- A core exchanges messages with agents that answer its accesses: each carries its sender's clock, and raises its receiver's
to at least that (R199). -/
def State.exchange (s : State) (core : Nat) (agents : List Nat) : State :=
  let m := agents.foldl (fun m a => laterTurn m (smGet s.agents a)) (s.turnOf core)
  { s with agents := agents.foldl (fun g a => smSet g a m) s.agents }.onCore core fun k => { k with turn := m - s.now }

/-- The agent of a cluster's scratchpad. -/
def spadAgent (cluster : Nat) : Nat := 128 + cluster

/-- The home agents of the lines of some placed accesses, chosen by the hash over a die's 32 banks (R205). -/
def State.homeAgents (s : State) (l : List Placed) : List Nat :=
  ((l.filterMap fun x =>
    match x.loc with
    | .mem xl => if xl.pa < 2 ^ 40 then some (xl.pa / 256) else none
    | _ => none).eraseDups).filterMap fun ln => (s.homeDie (256 * ln)).map fun d => d * 32 + Config.bankHash ln 32 % 32

/-- The code of a context's widest scope (R188). -/
def State.widest (s : State) (c : Nat) : Nat := if (s.ctx c).pmode = 2 then 3 else 4

/-- The cores of the scope instance of a tray of a core (Table 8.2); a batch runs on one core. -/
def State.scopeCores (s : State) (t : Tray) (core scope : Nat) : List Nat :=
  let die := core / 256
  let on (dies : List Nat) : List Nat := (s.cores.map (·.1)).filter fun k => dies.contains (k / 256)
  match scope with
  | 0 | 1 => [core]
  | 2 => s.clusterCores (s.clusterIdOf t)
  | 3 => on [die]
  | 4 =>
    if (s.ctx t.ctx).pmode = 0 then on [0, 1, 2, 3]
    else if (s.ctx t.ctx).pmode = 1 then on [die / 2 * 2, die / 2 * 2 + 1]
    else on [die]
  | _ => s.cores.map (·.1)

/-- A turn is a clock value and a core, ordered by the clock value first (R199). -/
def turnBefore (a : DWord × Nat) (b : DWord × Nat) : Bool := a.1.ult b.1 || a.1 == b.1 && a.2 < b.2

/-- An operation of a later turn has been performed in the scope: this one takes a turn anew (R200). -/
def State.overtaken (s : State) (cores : List Nat) (n : DWord) (core : Nat) : Bool :=
  s.cores.any fun e => cores.contains e.1 && turnBefore (n, core) (e.2.done, e.1)

/-- A path slot waits with an earlier turn. -/
def State.earlierTurn (s : State) (cores : List Nat) (n : DWord) (core : Nat) : Bool :=
  s.trays.any fun e => cores.contains (e.1 / 32) && [0, 1].any fun i =>
    e.2.mayIssue i && ((e.2.path i).turnAt (e.2.path i).pc).any fun m => turnBefore (m, e.1 / 32) (n, core)

/-- An operation's turn has come: every core of its scope instance has reported a later turn clock, and none has an earlier
turn outstanding (R200). -/
def State.turnFree (s : State) (cores : List Nat) (n : DWord) (core : Nat) : Bool :=
  (s.cores.all fun e => !cores.contains e.1 || n.ult e.2.reported) && !s.earlierTurn cores n core

/-- An .sc operation: it takes a turn, and is performed when that has come (R199, R200). It holds its path slot until then. -/
def Src.inTurn (r : Src) (s : State) (cores : List Nat) (go : State → Res) : Res :=
  match (r.t.path r.i).turnAt r.pc with
  | none => .claim
  | some n =>
    if s.overtaken cores n (r.key / 32) then .claim
    else if s.turnFree cores n (r.key / 32) then go (s.onCore (r.key / 32) fun k => { k with done := n })
    else .stay

/-- The cores of an access's scope: the widest of its context, or the pod's where another package is concerned (R161). -/
def State.accessCores (s : State) (t : Tray) (core : Nat) (l : List Placed) : List Nat :=
  let far := l.any fun x => match x.loc with
    | .mem xl => 2 ^ 40 ≤ xl.pa
    | _ => false
  s.scopeCores t core (if far then 5 else s.widest t.ctx)

-- Requests (R169, R170)

/-- How a load's sector is fetched: through L1, past it, or at the home because its page is SO (Table 7.5). -/
inductive Via where
  | l1 | bypass | home
  deriving DecidableEq, Repr

/-- A sector that a row's accesses need (R169), and the first and last line of its page. -/
structure Req where
  row : Nat
  sector : Nat
  via : Via
  page : Nat × Nat
  deriving DecidableEq, Repr

/-- A sector among a list of requests, which lists rows in order and each row's sectors by ascending address, each once. -/
def addReq (x : Req) : List Req → List Req
  | [] => [x]
  | y :: r =>
    if x.row = y.row ∧ x.sector = y.sector then y :: r
    else if x.row < y.row ∨ (x.row = y.row ∧ x.sector < y.sector) then x :: y :: r
    else y :: addReq x r

/-- The requests of an instruction's accesses to memory: of local memory, or of another package's, which bypass L1 (R180). -/
def requests (l : List Placed) (useL1 : Bool) : List Req :=
  (l.filterMap fun x =>
    match x.loc with
    | .mem xl =>
      let lo := (xl.pa - xl.pa % xl.size) / 256
      let via := if 2 ^ 40 ≤ xl.pa then Via.bypass else if xl.ord = 1 then .home else if useL1 then .l1 else .bypass
      some (⟨x.th / 32, xl.pa / 64, via, lo, lo + xl.size / 256 - 1⟩ : Req)
    | _ => none).foldl (fun q x => addReq x q) []

/-- The lines of some requests, one for each row that needs it, in order. -/
def reqLines (q : List Req) : List (Nat × Nat) := (q.map fun x => (x.row, x.sector / 4)).eraseDups

/-- A mask of sectors of a line, from the sectors' numbers. -/
def sectorMask (l : List Nat) : BitVec 4 := l.foldl (fun m x => m ||| 1#4 <<< (x % 4)) 0

/-- Sectors awaited by L1-using loads of a core (R170). -/
def State.awaited (s : State) (core : Nat) : List Nat :=
  s.trays.flatMap fun e =>
    if e.1 / 32 = core then e.2.pend.flatMap fun p => p.fills.map (·.sector) else []

/-- Miss-status entries in use on a core (R170). -/
def State.entriesUsed (s : State) (core : Nat) : Nat :=
  (s.trays.map fun e => if e.1 / 32 = core then (e.2.pend.map (·.entries)).sum else 0).sum

/-- Whether a core's L1 holds a sector. -/
def State.l1Has (s : State) (core sector : Nat) : Bool :=
  match s.cores.get? core with
  | none => false
  | some c => (c.l1Sector (64 * sector)).isSome

/-- The sectors a load brings into L1: requested, neither present nor awaited (R170). -/
def State.newFills (s : State) (core : Nat) (q : List Req) : List Nat :=
  let w := s.awaited core
  ((q.filter fun x => x.via == .l1 && !s.l1Has core x.sector && !w.contains x.sector).map (·.sector)).eraseDups

/-- The miss-status entries a load takes (R170). -/
def entriesFor (fills : List Nat) (q : List Req) : Nat := fills.length + (q.filter fun x => x.via != .l1).length

/-- One row's request for a line (R169–R171, R177): sectors in L1 are hits; the others are read at the home, each once by
the row that takes its entry (`fills`); one that joins an entry finds what the home holds (R172). The sectors left to be
filled, and the state. -/
def State.serveLine (s : State) (core c pri : Nat) (fills : List Nat) (l : List Req) (ln : Nat) : List Nat × State :=
  if 2 ^ 32 ≤ ln then (fills, s)
  else if l.any fun x => x.via == .home then (fills, s.homeAtomic ln)
  else
    let l1 := l.filter fun x => x.via == .l1
    let hits := l1.filter fun x => s.l1Has core x.sector
    let s := (s.count c 0 hits.length).count c 1 (l1.length - hits.length)
    let s := hits.foldl (fun s x => s.onCore core fun k => k.l1Touch (64 * x.sector)) s
    let get := l.filter fun x => x.via == .bypass || fills.contains x.sector
    let s := match get with
      | [] => if hits.length = l.length then s else s.homeEngine ln false
      | x :: _ => s.homeRead (core / 256) c ln pri (sectorMask (get.map (·.sector))) true (some x.page)
    (fills.filter fun z => !(get.any fun x => x.sector == z), s)

/-- Serve a load's requests, rows in order, each row's lines by ascending address (R169). -/
def State.serve (s : State) (core c pri : Nat) (q : List Req) (fills : List Nat) : State :=
  ((reqLines q).foldl (fun (acc : List Nat × State) x =>
    acc.2.serveLine core c pri acc.1 (q.filter fun y => y.row == x.1 && y.sector / 4 == x.2) x.2) (fills, s)).2

/-- The die that answers for local memory is out of reach (R336). -/
def State.unreachable (s : State) (core pa : Nat) : Bool :=
  match s.homeDie pa with
  | none => false
  | some h => h != core / 256 && (s.down.getLsbD h || s.down.getLsbD (core / 256))

/-- The dies that answer an instruction's accesses to local memory (R205, R336). -/
def State.homesOf (s : State) (l : List Placed) : List Nat :=
  (l.filterMap fun x =>
    match x.loc with
    | .mem xl => if xl.pa < 2 ^ 40 then s.homeDie xl.pa else none
    | _ => none).eraseDups

/-- n bytes read at a place, as a number: a sector in L1 answers as it stands (R193). -/
def State.readAt (s : State) (core : Nat) (useL1 : Bool) (l : Loc) (n : Nat) : Nat :=
  match l with
  | .mem x =>
    if 2 ^ 40 ≤ x.pa then natOf ((s.remoteBytes x.pa n).map (·.1))
    else
      match (if useL1 && x.ord != 1 then (s.cores.get? core).bind (·.l1Sector x.pa) else none) with
      | some d => sectorBytes d.1 x.pa n
      | none => s.rdAt x.pa n
  | l => s.regRead l n

/-- Whether an access of n bytes reads a poisoned sector, here or in another package (R168). -/
def State.readsPoison (s : State) (l : Loc) (n : Nat) : Bool :=
  match l with
  | .mem x => s.tblBad x.pa n
  | .ctl _ _ => false
  | .qcb _ _ => false
  | .land _ _ => false

/-- What other agents have written to other packages' memory, where accesses of n bytes read it (R172). -/
def State.forgetAll (s : State) (l : List Placed) (n : Nat) : State :=
  l.foldl (fun s x =>
    match x.loc with
    | .mem xl => if 2 ^ 40 ≤ xl.pa then s.remoteForget xl.pa n else s
    | _ => s) s

/-- The physical address of a place in another package. -/
def Loc.remote? (l : Loc) : Option Xl :=
  match l with
  | .mem x => if 2 ^ 40 ≤ x.pa then some x else none
  | .ctl _ _ => none
  | .qcb _ _ => none
  | .land _ _ => none

/-- Threads whose remote load the target answers with a retryable fault are left for the replay (R335). -/
def State.remoteRetries (s : State) (c : Nat) (k : Checked) : Checked :=
  k.ok.foldl (fun (k : Checked) x =>
    match x.loc.remote? with
    | some xl => if s.answer xl.pa = 1 then k.leave x.th ⟨.remoteretry, c, x.ea, xl.leaf⟩
                 else { k with ok := k.ok ++ [x] }
    | none => { k with ok := k.ok ++ [x] }) { k with ok := [] }

/-- The causes a load's or atomic's own accesses of n bytes raise after issue (Table 7.4): poison, and what another package
or a failed link answers. -/
def State.loadCauses (s : State) (core n : Nat) (l : List Placed) : List Cause :=
  (if l.any fun x => s.readsPoison x.loc n then [Cause.poison] else []) ++
  (if l.any fun x => (x.loc.remote?.map fun xl => s.answer xl.pa == 2).getD false then [Cause.remote] else []) ++
  (if l.any fun x => (x.loc.remote?.map fun xl => s.answer xl.pa == 3).getD false then [Cause.timeout] else []) ++
  (if l.any fun x => match x.loc with
      | .mem xl => xl.pa < 2 ^ 40 && s.unreachable core xl.pa
      | _ => false then [Cause.linkdown] else [])

/-- The register writes of n 32-bit registers from a number, for one thread (Table 7.2). -/
def regWrites (p n th v : Nat) : List RegWrite :=
  (List.range n).map fun j => .v (vkey (p + j) th) (BitVec.ofNat 32 (v / 2 ^ (32 * j)))

/-- n registers of one thread as a number (Table 7.2). -/
def Src.regsNat (r : Src) (d : BitVec 7) (n th : Nat) : Nat :=
  ((List.range n).map fun j => (r.t.vreg (d.toNat + j) th).toNat * 2 ^ (32 * j)).sum

/-- The physical registers of a destination group. -/
def Src.group (r : Src) (d : BitVec 7) (n : Nat) : List Nat := List.range' (r.t.vwin + d.toNat) n

-- Stores

/-- The sectors that an instruction's writes of one size cover whole, its rows together: they lose their poison (R168). -/
def wholeSectors (addrs : List Nat) (size : Nat) : List Nat :=
  let l := addrs.eraseDups
  ((l.map (· / 64)).eraseDups).filter fun z => (l.filter fun a => a / 64 == z).length * size == 64

/-- The physical addresses of an instruction's accesses to local memory. -/
def localAddrs (l : List Placed) : List Nat :=
  l.filterMap fun x =>
    match x.loc with
    | .mem xl => if xl.pa < 2 ^ 40 then some xl.pa else none
    | _ => none

/-- The requests of an instruction's stores at their homes, in order (R169, R205): the die owns each line, or on an SO page
the write is performed at the home. -/
def State.ownLines (s : State) (core c pri : Nat) (l : List Placed) : State :=
  let q := requests l false
  (reqLines q).foldl (fun s x =>
    let y := q.filter fun z => z.row == x.1 && z.sector / 4 == x.2
    if 2 ^ 32 ≤ x.2 || s.unreachable core (256 * x.2) then s
    else match y.find? fun z => z.via == .home, y with
      | some _, _ => s.homeAtomic x.2
      | none, z :: _ => s.homeOwn (core / 256) c x.2 pri (sectorMask (y.map (·.sector))) (some z.page)
      | none, [] => s) s

/-- What an instruction's REDs find in the die's cache: a hit in the context's own ways or a foreign one (R174, R177). -/
def State.updateLines (s : State) (core c : Nat) (l : List Placed) : State :=
  let q := (requests l false).filter fun x => x.via != .home
  (reqLines q).foldl (fun s x =>
    let y := q.filter fun z => z.row == x.1 && z.sector / 4 == x.2
    match s.copyAt x.2 (core / 256) with
    | some k => s.homeHit (core / 256) c x.2 1 (sectorMask (y.map (·.sector))) true k
    | none => s) s

/-- A write of a core's thread to memory whose page has been stamped and whose home has been asked (R162). -/
def State.putAt (s : State) (core c : Nat) (x : Xl) (n v : Nat) : State :=
  if 2 ^ 40 ≤ x.pa then s.remoteWr c x.pa ((bytesOf n v).map fun b => (b, false))
  else if s.unreachable core x.pa then s
  else s.wr x.pa n v

/-- A store at a place, whose home has been asked (R162, R222). -/
def State.storeAt (s : State) (core c : Nat) (step : Word) (x : Placed) (n v : Nat) : State :=
  match x.loc with
  | .mem xl => (s.stampTlb core c x.ea xl step).putAt core c xl n v
  | l => s.regWrite c l n v

/-- What stores with hint h do to their sectors in the core's L1 (Table 7.5). -/
def State.storeL1 (s : State) (core h : Nat) (l : List Placed) : State :=
  ((l.filterMap fun x =>
    match x.loc with
    | .mem xl => if xl.pa < 2 ^ 40 then some (xl.pa / 64, h == 1 || xl.ord == 1) else none
    | _ => none).eraseDups).foldl (fun s x => if x.2 then s.l1Drop core (64 * x.1) else s.l1Update core (64 * x.1)) s

/-- What the remote stores of an instruction leave for the next wait on stores (Table 7.4). -/
def State.storeCauses (s : State) (l : List Placed) : List (Ctr × Cause) :=
  let ans := l.filterMap fun x => x.loc.remote?.map fun xl => s.answer xl.pa
  (if ans.contains 2 then [(Ctr.stores, Cause.remote)] else []) ++
  (if ans.contains 3 then [(Ctr.stores, Cause.timeout)] else [])

/-- An atomic or RED at a place: its old value, and the state after it (R166, R167, R206). -/
def State.atomAt (s : State) (core c : Nat) (step : Word) (h w : Nat) (red : Bool) (x : Placed) (v swp : Nat) :
    Nat × State :=
  let n := atomSize w
  match x.loc with
  | .mem xl =>
    let s := s.stampTlb core c x.ea xl step
    if 2 ^ 40 ≤ xl.pa then s.remoteAtom c xl.pa h w red v swp
    else if s.unreachable core xl.pa then (0, s)
    else if red then (0, (s.redAt (core / 256) c h w xl.pa v (xl.ord != 1)).l1Drop core xl.pa)
    else
      let s := s.homeAtomic (xl.pa / 256)
      let old := s.rd xl.pa n
      (old, (s.wr xl.pa n (atomNew h w old v swp)).l1Drop core xl.pa)
  | l =>
    let old := s.regRead l n
    (old, s.regWrite c l n (atomNew h w old v swp))

end Sys2Proof.Machine
end

