-- ==== Sys2Proof/Machine/EngineOps.lean ====
section
/-!
DEFINITION. What the engines share: the engine port, target selection, an operation's accesses under its tag, its parks
and its completion (R10–R22, R229, R272, R416).
-/

namespace Sys2Proof.Machine

/-- Issue an engine word: while the core's replay window is full the engine pipe takes no word, and the word waits (R17). -/
def engine (ops : List Opnd) (s : State) (body : Src → Tray → State → Res) : Host.Outcome State Fault Refusal :=
  match s.cur with
  | none => .fault .noCurrentTray
  | some c =>
    if s.replayFull (c.key / 32) then .next (if c.probe then Res.stay.examine c s else s) else issue ops s body

/-- Issue an engine word that checks its window registers itself, after its values (R359, R373). -/
def engineLate (ops : List Opnd) (s : State) (body : Src → Tray → State → Res) : Host.Outcome State Fault Refusal :=
  engine (ops.filter fun o => o.file != .v) s fun r t s =>
    if !ops.all Opnd.ok then .early .illegal
    else if scoreboard r.t r.i ops then .stay
    else body r t s

/-- The copy engine of a command from a core (Table 1.4): its own, else the lowest the context holds on the die, else the
lowest it holds. -/
def State.copyUnit (s : State) (c core : Nat) : Option Nat :=
  let own := (s.ctx c).own.copy
  let die := core / 256
  let near := die * 4 + core % 256 / 64
  if own.getLsbD near then some near
  else
    match (List.range' (die * 4) 4).find? fun u => own.getLsbD u with
    | some u => some u
    | none => (List.range 16).find? fun u => own.getLsbD u

/-- A command that is observed by an outstanding counter: it is counted, its destination registers are pending, and it
goes to its engine (R10, R19). -/
def Src.send (r : Src) (t : Tray) (s : State) (eng unit : Nat) (ver : Word) (ctr : Option Ctr) (sdst vdst : List Nat)
    (body : OpBody) : Tray × State :=
  let id := t.nextPend
  let t := t.addPend .op r.i ctr sdst vdst none (grp := r.grp)
  sendOp r t s eng unit ver id body

/-- A command that returns registers, counted in loads (R19). -/
def Src.ask (r : Src) (t : Tray) (s : State) (eng unit : Nat) (sdst vdst : List Nat) (k : Cmd) : Tray × State :=
  r.send t s eng unit 0xFFFFFFFF (some .loads) sdst vdst (.cmd k)

/-- A command that returns nothing and is not counted. -/
def Src.order (r : Src) (t : Tray) (s : State) (eng unit : Nat) (k : Cmd) : Tray × State :=
  sendOp r { t with nextPend := t.nextPend + 1 } s eng unit 0xFFFFFFFF t.nextPend (.cmd k)

/-- The words of a quad's result. -/
def quadData (d : Nat) (vs : List Word) : List RegWrite := ((List.range' d 4).zip vs).map fun x => .s x.1 x.2

/-- The tag's version field when none is named (Table 1.3). -/
def noVer : Word := 0xFFFFFFFF

/-- Log an operation's accesses; a monitor that trips raises WATCH in its tray (R416). -/
def State.opLog (s : State) (o : Op) (k : AccKind) (va n : Nat) : State :=
  let (w, s) := s.logAccess o.tag.ctx o.tag.core o.tag.tray k va n
  if w then s.onTrayOf o.batch o.tray fun t => { t with watch := true } else s

/-- An operation reads n bytes of its context's memory (R13, R211). -/
def State.opRd (s : State) (o : Op) (va n : Nat) : Except XFault (State × List EByte) := do
  let (s, d) ← s.engRd o.tag.ctx va n
  pure (s.opLog o .engRd va n, d)

/-- Invalidate in the issuing core's L1 what an operation writes (R204). -/
def State.opL1Drop (s : State) (o : Op) (va n : Nat) : State :=
  (pieces va n).foldl (fun s p =>
    match s.locateWalk o.tag.ctx p.1 needW with
    | .ok (.mem x) => if x.pa < 2 ^ 40 then s.l1DropRange o.tag.core x.pa p.2 else s
    | _ => s) s

/-- An operation writes bytes of its context's memory, all of them or, where a piece cannot be written now, none; it waits
for the copies of frozen pages (R13, R211, R246, R247, R272). -/
def State.opWr (s : State) (o : Op) (va : Nat) (d : List EByte) : State × Option XFault :=
  match s.engReady o.tag.ctx va d.length o.tag.step with
  | (s, some e) => (s, some e)
  | (s, none) =>
    match s.engWrNow o.tag.ctx va d o.tag.step with
    | (s, some e) => (s, some e)
    | (s, none) => ((s.opL1Drop o va d.length).opLog o .engWr va d.length, none)

/-- Operations parked in one engine unit. -/
def State.parkedOps (s : State) (eng unit : Nat) : Nat :=
  (s.ops.filter fun o => o.tag.eng == eng && o.unit == unit && o.park.isSome).length

/-- Write the record of an operation's fault (R230). -/
def State.opRecord (s : State) (o : Op) (f : XFault) (rp wr : Bool) (token : Nat) : State :=
  s.faultRecord f rp ⟨o.tag.ctx, o.tag.core, o.tag.tray, some o.tag, false, wr, 0, 0, token⟩

/-- An operation meets a fault (R272): a replayable one parks it, where its engine has a park slot free or it waits for a
frame (R247: such a write waits in any case; DEDUCED); otherwise the fault is terminal: a record, and false. -/
def State.opFault (s : State) (o : Op) (f : XFault) (wr : Bool) (slots : Nat) : Bool × State :=
  if f.kind.replayable && (f.kind == .poolempty || s.parkedOps o.tag.eng o.unit < slots) then
    let (num, s) := s.newPark o.tag.core
    let s := s.onOp o.id fun o => { o with park := some ⟨num, 32 * o.tag.core + o.tag.tray, f.kind, f.fctx, f.leaf, 0, wr, f.addr, false⟩ }
    (true, s.opRecord o f true wr (num * 65536 + o.tag.tray * 1024 + o.tag.core))
  else (false, s.opRecord o f false wr 0)

/-- A command that its engine has begun waits for the end of a fault, out of the queue (R18, R247); what it is then performed
with is what it holds now (DEDUCED: commands that come after it do not wait for it). It is false where the fault is
terminal. -/
def State.cmdWait (s : State) (o : Op) (f : XFault) : Bool × State :=
  State.opFault { s with ops := s.ops ++ [{ o with phase := 2, park := none }] } o f true 64

/-- An engine has performed a command: its result is on the way to its registers (R19). -/
def State.opAnswer (s : State) (o : Op) (data : List RegWrite) : State :=
  s.onTrayOf o.batch o.tray fun t => t.answer o.pend data

/-- An operation is complete (R19, R22): its registers take `data`, its counter falls, and a cause is left for the wait
that observes it. Where its tray is now on another core, the join invalidates that core's L1 (R204). -/
def State.opDone (s : State) (o : Op) (data : List RegWrite) (err : Option (Ctr × Cause)) (wrote : Bool) : State :=
  let away := !s.trays.any fun e => e.2.batch == o.batch && e.2.idx == o.tray && e.1 / 32 == o.tag.core
  (s.dropOp o.id).onTrayOf o.batch o.tray fun t =>
    let t := (t.setData o.pend data).complete o.pend
    let t := match err with
      | some (c, k) => t.addObs c k
      | none => t
    if wrote && away then { t with stale := true } else t

/-- The stop records of one unit: one for each tag and progress, or one with an empty tag, the last with LAST and the count
of discarded commands (R409). -/
def State.unitRecords (s : State) (c : Nat) (w : StopWait) (l : List (Option Tag × Nat)) (discarded : Nat) : State :=
  let l := if l.isEmpty then [(none, 0)] else l
  (List.range l.length).foldl (fun s i =>
    match l[i]? with
    | none => s
    | some (tag, n) =>
      let last := i + 1 == l.length
      s.stopRecord ⟨last, c, w.unit, w.reason, w.cls, (0, 0, 0, if last then discarded else 0), tag, n, w.revno⟩) s

end Sys2Proof.Machine
end

