-- ==== Sys2Proof/Machine/Alu.lean ====
section
/-!
DEFINITION. The integer functions and the shapes of arithmetic instructions (R108–R119).
-/

namespace Sys2Proof.Machine

/-- Logical shift left by an unsigned count; 0 for 32 or more (R113). -/
def shl32 (a b : Word) : Word := if 32 ≤ b.toNat then 0 else a <<< b.toNat

/-- Logical shift right by an unsigned count; 0 for 32 or more (R113). -/
def shr32 (a b : Word) : Word := if 32 ≤ b.toNat then 0 else a >>> b.toNat

/-- Arithmetic shift right by min(count, 31) (R113). -/
def sra32 (a b : Word) : Word := a.sshiftRight (min b.toNat 31)

/-- The high word of the signed product (R113). -/
def mulh32 (a b : Word) : Word := hi32 (a.signExtend 64 * b.signExtend 64)

/-- The signed minimum (R113). -/
def smin32 (a b : Word) : Word := if a.sle b then a else b

/-- The signed maximum (R113). -/
def smax32 (a b : Word) : Word := if a.sle b then b else a

/-- Leading zero bits, 0 to 32 (R118). -/
def clz32 (a : Word) : Word := BitVec.ofNat 32 (((List.range 32).find? fun i => a.getLsbD (31 - i)).getD 32)

/-- The number of one bits (R118). -/
def popc32 (a : Word) : Word := BitVec.ofNat 32 ((List.range 32).filter fun i => a.getLsbD i).length

/-- Bit order reversed (R118). -/
def brev32 (a : Word) : Word :=
  BitVec.ofNat 32 ((List.range 32).map fun i => if a.getLsbD (31 - i) then 2 ^ i else 0).sum

/-- The signed absolute value modulo 2^32 (R118). -/
def abs32 (a : Word) : Word := if a.slt 0 then 0 - a else a

/-- The length of a field descriptor: b[13:8], at most 32 (R119). -/
def fieldLen (b : Word) : Nat := min (bits b.toNat 13 8) 32

/-- VBFE (R119). -/
def bfe32 (a b : Word) : Word :=
  let n := fieldLen b
  let f := a.toNat / 2 ^ (b.toNat % 32) % 2 ^ n
  if b.getLsbD 31 ∧ 0 < n ∧ f / 2 ^ (n - 1) % 2 = 1 then BitVec.ofInt 32 ((f : Int) - 2 ^ n) else BitVec.ofNat 32 f

/-- VBFI (R119). -/
def bfi32 (old a b : Word) : Word :=
  let p := b.toNat % 32
  let m : Word := BitVec.ofNat 32 ((2 ^ fieldLen b - 1) * 2 ^ p)
  old &&& ~~~m ||| BitVec.ofNat 32 (a.toNat * 2 ^ p) &&& m

/-- An instruction that writes a scalar register (R113). -/
def scalarOp (i : Instr) (s : State) (d : BitVec 7) (f : Src → Word) : Host.Outcome State Fault Refusal :=
  issueTray i.opnds s fun r t => t.setSreg r.i d.toNat (f r)

/-- An instruction that writes a scalar pair (R113). -/
def scalarOp64 (i : Instr) (s : State) (d : BitVec 7) (f : Src → DWord) : Host.Outcome State Fault Refusal :=
  issueTray i.opnds s fun r t => t.setSpair r.i d.toNat (f r)

/-- Write window register d of the active threads, decoded with the window base and the mask that held before the
chain (R109, R111). -/
def Src.fill (r : Src) (t : Tray) (d : BitVec 7) (f : Nat → Word) : Tray :=
  t.fillPhys (r.t.vwin + d.toNat) r.m0 f

/-- Write a pair of window registers of the active threads. -/
def Src.fill2 (r : Src) (t : Tray) (d : BitVec 7) (f : Nat → DWord) : Tray :=
  (t.fillPhys (r.t.vwin + d.toNat) r.m0 fun th => lo32 (f th)).fillPhys (r.t.vwin + d.toNat + 1) r.m0
    fun th => hi32 (f th)

/-- An instruction that writes a window register of each active thread (R109). -/
def vectorOp (i : Instr) (s : State) (d : BitVec 7) (f : Src → Nat → Word) : Host.Outcome State Fault Refusal :=
  issueTray i.opnds s fun r t => r.fill t d (f r)

/-- An instruction that writes a pair of window registers of each active thread (R118). -/
def vectorOp64 (i : Instr) (s : State) (d : BitVec 7) (f : Src → Nat → DWord) : Host.Outcome State Fault Refusal :=
  issueTray i.opnds s fun r t => r.fill2 t d (f r)

end Sys2Proof.Machine
end

