-- ==== Sys2Proof/Machine/FloatAlu.lean ====
section
/-!
DEFINITION. Floating-point arithmetic: majors 0x11 to 0x18 (R120–R129).
-/

namespace Sys2Proof.Machine

/-- A floating-point vector instruction: one result and its flags per active thread. An enabled trap writes no thread
and merges no flags; otherwise the flags merge into FPSTAT (R97–R99, R109). -/
def floatOp (i : Instr) (s : State) (d : BitVec 7) (f : Src → Nat → Nat × FFlags) : Host.Outcome State Fault Refusal :=
  issue i.opnds s fun r t s =>
    let fl := orFlags r.m0 fun th => (f r th).2
    match fpTraps r.t.fpctl fl with
    | [] => .ok ((r.fill t d fun th => BitVec.ofNat 32 (f r th).1).mergeFlags fl) s
    | cs => .trap t s cs

/-- The same with a 64-bit result into a pair (R125). -/
def floatOp64 (i : Instr) (s : State) (d : BitVec 7) (f : Src → Nat → Nat × FFlags) : Host.Outcome State Fault Refusal :=
  issue i.opnds s fun r t s =>
    let fl := orFlags r.m0 fun th => (f r th).2
    match fpTraps r.t.fpctl fl with
    | [] => .ok ((r.fill2 t d fun th => BitVec.ofNat 64 (f r th).1).mergeFlags fl) s
    | cs => .trap t s cs

/-- How FP32 functions of majors 0x11 to 0x14 round (R95). -/
def Src.en (r : Src) : FEnv := fenv r.t.fpctl
/-- How other functions round (R95). -/
def Src.enD (r : Src) : FEnv := fenvNoFtz r.t.fpctl
/-- An FP32 operand, FTZ applied (R95). -/
def Src.f32 (r : Src) (w : Word) : FVal := fmtF32.read r.en.ftz w.toNat
/-- v(a) of a thread as FP32. -/
def Src.fa (r : Src) (a : BitVec 7) (th : Nat) : FVal := r.f32 (r.v a th)
/-- The B operand of a thread as FP32. -/
def Src.fb (r : Src) (th : Nat) (b : VB) : FVal := r.f32 (r.vb th b)
/-- An IMM8 as FP32 (R50). -/
def Src.fi (r : Src) (imm : BitVec 8) : FVal := r.f32 (immF imm)
/-- A pair of a thread as FP64. -/
def Src.da (r : Src) (a : BitVec 7) (th : Nat) : FVal := fmtF64.val (r.v2 a th).toNat
/-- The B operand of a thread as FP64 (Table 2.6). -/
def Src.db (r : Src) (th : Nat) (b : VB) : FVal := fmtF64.val (r.vbF64 th b).toNat

/-- FADD (R121, R122): a + b. -/
def execFadd (d a : BitVec 7) (b : VB) (s : State) : Host.Outcome State Fault Refusal :=
  floatOp (.fadd d a b) s d fun r th => fmtF32.add r.en (r.fa a th) (r.fb th b)

/-- FADD_I (R50, R121, R122): a + b, b the E4M3 immediate. -/
def execFaddI (d a : BitVec 7) (imm : BitVec 8) (s : State) : Host.Outcome State Fault Refusal :=
  floatOp (.faddI d a imm) s d fun r th => fmtF32.add r.en (r.fa a th) (r.fi imm)

/-- FSUB (R121, R122): a − b. -/
def execFsub (d a : BitVec 7) (b : VB) (s : State) : Host.Outcome State Fault Refusal :=
  floatOp (.fsub d a b) s d fun r th => fmtF32.add r.en (r.fa a th) (r.fb th b).neg

/-- FSUB_I (R50, R121, R122): a − b, b the E4M3 immediate. -/
def execFsubI (d a : BitVec 7) (imm : BitVec 8) (s : State) : Host.Outcome State Fault Refusal :=
  floatOp (.fsubI d a imm) s d fun r th => fmtF32.add r.en (r.fa a th) (r.fi imm).neg

/-- FMUL (R121, R122): a × b. -/
def execFmul (d a : BitVec 7) (b : VB) (s : State) : Host.Outcome State Fault Refusal :=
  floatOp (.fmul d a b) s d fun r th => fmtF32.mul r.en (r.fa a th) (r.fb th b)

/-- FMUL_I (R50, R121, R122): a × b, b the E4M3 immediate. -/
def execFmulI (d a : BitVec 7) (imm : BitVec 8) (s : State) : Host.Outcome State Fault Refusal :=
  floatOp (.fmulI d a imm) s d fun r th => fmtF32.mul r.en (r.fa a th) (r.fi imm)

/-- FFMA (R121, R122): a × old + b, one rounding. -/
def execFfma (d a : BitVec 7) (b : VB) (s : State) : Host.Outcome State Fault Refusal :=
  floatOp (.ffma d a b) s d fun r th => fmtF32.fma r.en (r.fa a th) (r.fa d th) (r.fb th b)

/-- FFMA_I (R50, R121, R122): a × old + b, one rounding, b the E4M3 immediate. -/
def execFfmaI (d a : BitVec 7) (imm : BitVec 8) (s : State) : Host.Outcome State Fault Refusal :=
  floatOp (.ffmaI d a imm) s d fun r th => fmtF32.fma r.en (r.fa a th) (r.fa d th) (r.fi imm)

/-- FFMS (R121, R122): a × old − b, one rounding. -/
def execFfms (d a : BitVec 7) (b : VB) (s : State) : Host.Outcome State Fault Refusal :=
  floatOp (.ffms d a b) s d fun r th => fmtF32.fma r.en (r.fa a th) (r.fa d th) (r.fb th b).neg

/-- FFMS_I (R50, R121, R122): a × old − b, one rounding, b the E4M3 immediate. -/
def execFfmsI (d a : BitVec 7) (imm : BitVec 8) (s : State) : Host.Outcome State Fault Refusal :=
  floatOp (.ffmsI d a imm) s d fun r th => fmtF32.fma r.en (r.fa a th) (r.fa d th) (r.fi imm).neg

/-- FNMA (R121, R122): −(a × old) + b, one rounding. -/
def execFnma (d a : BitVec 7) (b : VB) (s : State) : Host.Outcome State Fault Refusal :=
  floatOp (.fnma d a b) s d fun r th => fmtF32.fma r.en (r.fa a th).neg (r.fa d th) (r.fb th b)

/-- FNMA_I (R50, R121, R122): −(a × old) + b, one rounding, b the E4M3 immediate. -/
def execFnmaI (d a : BitVec 7) (imm : BitVec 8) (s : State) : Host.Outcome State Fault Refusal :=
  floatOp (.fnmaI d a imm) s d fun r th => fmtF32.fma r.en (r.fa a th).neg (r.fa d th) (r.fi imm)

/-- FMIN (R121, R122): minimumNumber. -/
def execFmin (d a : BitVec 7) (b : VB) (s : State) : Host.Outcome State Fault Refusal :=
  floatOp (.fmin d a b) s d fun r th => fmtF32.minMax false (r.fa a th) (r.fb th b)

/-- FMIN_I (R50, R121, R122): minimumNumber, b the E4M3 immediate. -/
def execFminI (d a : BitVec 7) (imm : BitVec 8) (s : State) : Host.Outcome State Fault Refusal :=
  floatOp (.fminI d a imm) s d fun r th => fmtF32.minMax false (r.fa a th) (r.fi imm)

/-- FMAX (R121, R122): maximumNumber. -/
def execFmax (d a : BitVec 7) (b : VB) (s : State) : Host.Outcome State Fault Refusal :=
  floatOp (.fmax d a b) s d fun r th => fmtF32.minMax true (r.fa a th) (r.fb th b)

/-- FMAX_I (R50, R121, R122): maximumNumber, b the E4M3 immediate. -/
def execFmaxI (d a : BitVec 7) (imm : BitVec 8) (s : State) : Host.Outcome State Fault Refusal :=
  floatOp (.fmaxI d a imm) s d fun r th => fmtF32.minMax true (r.fa a th) (r.fi imm)

/-- FRCP (R123, Table 5.7). -/
def execFrcp (d : BitVec 7) (b : VB) (s : State) : Host.Outcome State Fault Refusal :=
  floatOp (.frcp d b) s d fun r th => fmtF32.rcp r.en (r.fb th b)

/-- FRSQ (R123, Table 5.7). -/
def execFrsq (d : BitVec 7) (b : VB) (s : State) : Host.Outcome State Fault Refusal :=
  floatOp (.frsq d b) s d fun r th => fmtF32.rsq r.en (r.fb th b)

/-- FSQRT (R123, Table 5.7). -/
def execFsqrt (d : BitVec 7) (b : VB) (s : State) : Host.Outcome State Fault Refusal :=
  floatOp (.fsqrt d b) s d fun r th => fmtF32.sqrt r.en (r.fb th b)

/-- FEX2 (R123, Table 5.7). -/
def execFex2 (d : BitVec 7) (b : VB) (s : State) : Host.Outcome State Fault Refusal :=
  floatOp (.fex2 d b) s d fun r th => fmtF32.ex2 r.en (r.fb th b)

/-- FLG2 (R123, Table 5.7). -/
def execFlg2 (d : BitVec 7) (b : VB) (s : State) : Host.Outcome State Fault Refusal :=
  floatOp (.flg2 d b) s d fun r th => fmtF32.lg2 r.en (r.fb th b)

/-- FSIN (R123, Table 5.7). -/
def execFsin (d : BitVec 7) (b : VB) (s : State) : Host.Outcome State Fault Refusal :=
  floatOp (.fsin d b) s d fun r th => fmtF32.trig r.en false (r.fb th b)

/-- FCOS (R123, Table 5.7). -/
def execFcos (d : BitVec 7) (b : VB) (s : State) : Host.Outcome State Fault Refusal :=
  floatOp (.fcos d b) s d fun r th => fmtF32.trig r.en true (r.fb th b)

/-- FTANH (R123, Table 5.7). -/
def execFtanh (d : BitVec 7) (b : VB) (s : State) : Host.Outcome State Fault Refusal :=
  floatOp (.ftanh d b) s d fun r th => fmtF32.tanh r.en (r.fb th b)

/-- The word and flags of a floating compare. -/
def cmpWord (p : Bool × FFlags) : Nat × FFlags := ((boolWord p.1).toNat, p.2)

/-- FCMP (R124, Table 5.8). -/
def execFcmp (cc : FCmp) (d a : BitVec 7) (b : VB) (s : State) : Host.Outcome State Fault Refusal :=
  floatOp (.fcmp cc d a b) s d fun r th => cmpWord (fcmpHolds cc (r.fa a th) (r.fb th b))

/-- DADD (R126): a + b. -/
def execDadd (d a : BitVec 7) (b : VB) (s : State) : Host.Outcome State Fault Refusal :=
  floatOp64 (.dadd d a b) s d fun r th => fmtF64.add r.enD (r.da a th) (r.db th b)

/-- DSUB (R126): a − b. -/
def execDsub (d a : BitVec 7) (b : VB) (s : State) : Host.Outcome State Fault Refusal :=
  floatOp64 (.dsub d a b) s d fun r th => fmtF64.add r.enD (r.da a th) (r.db th b).neg

/-- DMUL (R126): a × b. -/
def execDmul (d a : BitVec 7) (b : VB) (s : State) : Host.Outcome State Fault Refusal :=
  floatOp64 (.dmul d a b) s d fun r th => fmtF64.mul r.enD (r.da a th) (r.db th b)

/-- DFMA (R126): a × old + b, one rounding. -/
def execDfma (d a : BitVec 7) (b : VB) (s : State) : Host.Outcome State Fault Refusal :=
  floatOp64 (.dfma d a b) s d fun r th => fmtF64.fma r.enD (r.da a th) (r.da d th) (r.db th b)

/-- DFMS (R126): a × old − b, one rounding. -/
def execDfms (d a : BitVec 7) (b : VB) (s : State) : Host.Outcome State Fault Refusal :=
  floatOp64 (.dfms d a b) s d fun r th => fmtF64.fma r.enD (r.da a th) (r.da d th) (r.db th b).neg

/-- DNMA (R126): −(a × old) + b, one rounding. -/
def execDnma (d a : BitVec 7) (b : VB) (s : State) : Host.Outcome State Fault Refusal :=
  floatOp64 (.dnma d a b) s d fun r th => fmtF64.fma r.enD (r.da a th).neg (r.da d th) (r.db th b)

/-- DMIN (R126): minimumNumber. -/
def execDmin (d a : BitVec 7) (b : VB) (s : State) : Host.Outcome State Fault Refusal :=
  floatOp64 (.dmin d a b) s d fun r th => fmtF64.minMax false (r.da a th) (r.db th b)

/-- DMAX (R126): maximumNumber. -/
def execDmax (d a : BitVec 7) (b : VB) (s : State) : Host.Outcome State Fault Refusal :=
  floatOp64 (.dmax d a b) s d fun r th => fmtF64.minMax true (r.da a th) (r.db th b)

/-- DDIV (R127). -/
def execDdiv (d a : BitVec 7) (b : VB) (s : State) : Host.Outcome State Fault Refusal :=
  floatOp64 (.ddiv d a b) s d fun r th => fmtF64.div r.enD (r.da a th) (r.db th b)

/-- DSQRT (R127). -/
def execDsqrt (d : BitVec 7) (b : VB) (s : State) : Host.Outcome State Fault Refusal :=
  floatOp64 (.dsqrt d b) s d fun r th => fmtF64.sqrt r.enD (r.db th b)

/-- DRCP (R127). -/
def execDrcp (d : BitVec 7) (b : VB) (s : State) : Host.Outcome State Fault Refusal :=
  floatOp64 (.drcp d b) s d fun r th => fmtF64.rcp r.enD (r.db th b)

/-- DRSQ (R127). -/
def execDrsq (d : BitVec 7) (b : VB) (s : State) : Host.Outcome State Fault Refusal :=
  floatOp64 (.drsq d b) s d fun r th => fmtF64.rsq r.enD (r.db th b)

/-- DFLOOR (R127). -/
def execDfloor (d : BitVec 7) (b : VB) (s : State) : Host.Outcome State Fault Refusal :=
  floatOp64 (.dfloor d b) s d fun r th => fmtF64.toIntegral .rd (r.db th b)

/-- DCEIL (R127). -/
def execDceil (d : BitVec 7) (b : VB) (s : State) : Host.Outcome State Fault Refusal :=
  floatOp64 (.dceil d b) s d fun r th => fmtF64.toIntegral .ru (r.db th b)

/-- DRNE (R127). -/
def execDrne (d : BitVec 7) (b : VB) (s : State) : Host.Outcome State Fault Refusal :=
  floatOp64 (.drne d b) s d fun r th => fmtF64.toIntegral .rne (r.db th b)

/-- DTRUNC (R127). -/
def execDtrunc (d : BitVec 7) (b : VB) (s : State) : Host.Outcome State Fault Refusal :=
  floatOp64 (.dtrunc d b) s d fun r th => fmtF64.toIntegral .rz (r.db th b)

/-- DCMP (R128): one 32-bit result. -/
def execDcmp (cc : FCmp) (d a : BitVec 7) (b : VB) (s : State) : Host.Outcome State Fault Refusal :=
  floatOp (.dcmp cc d a b) s d fun r th => cmpWord (fcmpHolds cc (r.da a th) (r.db th b))

/-- A function of two packed 16-bit elements, each computed on its own (R129). -/
def packed (f : Fmt) (g : FVal → FVal → FVal → Nat × FFlags) (x y z : Word) : Nat × FFlags :=
  let el (w : Word) (e : Nat) : FVal := f.val (w.toNat / 65536 ^ e % 65536)
  let p := g (el x 0) (el y 0) (el z 0)
  let q := g (el x 1) (el y 1) (el z 1)
  (q.1 * 65536 + p.1, p.2 ||| q.2)

/-- HADD2 (R129). -/
def execHadd2 (d a : BitVec 7) (b : VB) (s : State) : Host.Outcome State Fault Refusal :=
  floatOp (.hadd2 d a b) s d fun r th => packed fmtF16 (fun x y _ => fmtF16.add r.enD x y) (r.v a th) (r.vb th b) (r.v d th)

/-- HMUL2 (R129). -/
def execHmul2 (d a : BitVec 7) (b : VB) (s : State) : Host.Outcome State Fault Refusal :=
  floatOp (.hmul2 d a b) s d fun r th => packed fmtF16 (fun x y _ => fmtF16.mul r.enD x y) (r.v a th) (r.vb th b) (r.v d th)

/-- HFMA2 (R129). -/
def execHfma2 (d a : BitVec 7) (b : VB) (s : State) : Host.Outcome State Fault Refusal :=
  floatOp (.hfma2 d a b) s d fun r th => packed fmtF16 (fun x y z => fmtF16.fma r.enD x z y) (r.v a th) (r.vb th b) (r.v d th)

/-- HMAX2 (R129). -/
def execHmax2 (d a : BitVec 7) (b : VB) (s : State) : Host.Outcome State Fault Refusal :=
  floatOp (.hmax2 d a b) s d fun r th => packed fmtF16 (fun x y _ => fmtF16.minMax true x y) (r.v a th) (r.vb th b) (r.v d th)

/-- BADD2 (R129). -/
def execBadd2 (d a : BitVec 7) (b : VB) (s : State) : Host.Outcome State Fault Refusal :=
  floatOp (.badd2 d a b) s d fun r th => packed fmtBF16 (fun x y _ => fmtBF16.add r.enD x y) (r.v a th) (r.vb th b) (r.v d th)

/-- BMUL2 (R129). -/
def execBmul2 (d a : BitVec 7) (b : VB) (s : State) : Host.Outcome State Fault Refusal :=
  floatOp (.bmul2 d a b) s d fun r th => packed fmtBF16 (fun x y _ => fmtBF16.mul r.enD x y) (r.v a th) (r.vb th b) (r.v d th)

/-- BFMA2 (R129). -/
def execBfma2 (d a : BitVec 7) (b : VB) (s : State) : Host.Outcome State Fault Refusal :=
  floatOp (.bfma2 d a b) s d fun r th => packed fmtBF16 (fun x y z => fmtBF16.fma r.enD x z y) (r.v a th) (r.vb th b) (r.v d th)

/-- BMAX2 (R129). -/
def execBmax2 (d a : BitVec 7) (b : VB) (s : State) : Host.Outcome State Fault Refusal :=
  floatOp (.bmax2 d a b) s d fun r th => packed fmtBF16 (fun x y _ => fmtBF16.minMax true x y) (r.v a th) (r.vb th b) (r.v d th)


end Sys2Proof.Machine
end

