-- ==== Sys2Proof/Machine/Convert.lean ====
section
/-!
DEFINITION. Conversions: majors 0x19 and 0x1A (R101–R106).
-/

namespace Sys2Proof.Machine

/-- The rounding mode of a CVT sub-code: 5 is FPCTL's (Table 4.7). -/
def Src.cvtRm (r : Src) (rm : BitVec 3) : RM :=
  match rm.toNat with
  | 0 => .rne
  | 1 => .rz
  | 2 => .rd
  | 3 => .ru
  | 4 => .rna
  | _ => rmode r.t.fpctl

/-- The rounding mode of a CVTQ or DQ sub-code: 3 is FPCTL's (Table 4.9). -/
def Src.qRm (r : Src) (rm : BitVec 2) : RM :=
  match rm.toNat with
  | 0 => .rne
  | 1 => .rz
  | 2 => .rna
  | _ => rmode r.t.fpctl

/-- A 32-bit integer, unsigned or signed. -/
def intOf (u : Bool) (w : Word) : Int := if u then (w.toNat : Int) else w.toInt

/-- CVT_F32_I32 (R102). -/
def execCvtF32I32 (d a : BitVec 7) (rm : BitVec 3) (u : Bool) (s : State) : Host.Outcome State Fault Refusal :=
  floatOp (.cvtF32I32 d a rm u) s d fun r th => fmtF32.convert (r.cvtRm rm) (intVal (intOf u (r.v a th)))

/-- CVT_I32_F32 (R102). -/
def execCvtI32F32 (d a : BitVec 7) (rm : BitVec 3) (u : Bool) (s : State) : Host.Outcome State Fault Refusal :=
  floatOp (.cvtI32F32 d a rm u) s d fun r th =>
    let q := fToInt (r.cvtRm rm) u (fmtF32.val (r.v a th).toNat)
    (q.1.toNat, q.2)

/-- CVT_F64_F32 (R102): exact. -/
def execCvtF64F32 (d a : BitVec 7) (s : State) : Host.Outcome State Fault Refusal :=
  floatOp64 (.cvtF64F32 d a) s d fun r th => fmtF64.convert .rne (fmtF32.val (r.v a th).toNat)

/-- CVT_F32_F64 (R102). -/
def execCvtF32F64 (d a : BitVec 7) (rm : BitVec 3) (sat : Bool) (s : State) : Host.Outcome State Fault Refusal :=
  floatOp (.cvtF32F64 d a rm sat) s d fun r th => fmtF32.narrow (r.cvtRm rm) sat (r.da a th)

/-- CVT_F64_I32 (R102): exact. -/
def execCvtF64I32 (d a : BitVec 7) (u : Bool) (s : State) : Host.Outcome State Fault Refusal :=
  floatOp64 (.cvtF64I32 d a u) s d fun r th => fmtF64.convert .rne (intVal (intOf u (r.v a th)))

/-- CVT_I32_F64 (R102). -/
def execCvtI32F64 (d a : BitVec 7) (rm : BitVec 3) (u : Bool) (s : State) : Host.Outcome State Fault Refusal :=
  floatOp (.cvtI32F64 d a rm u) s d fun r th =>
    let q := fToInt (r.cvtRm rm) u (r.da a th)
    (q.1.toNat, q.2)

/-- The 16-bit format a sub-code names (Table 4.7). -/
def halfFmt (h : Bool) : Fmt := if h then fmtBF16 else fmtF16

/-- CVT_F32_F16 (R102): one half, exact. -/
def execCvtF32F16 (d a : BitVec 7) (h hi : Bool) (s : State) : Host.Outcome State Fault Refusal :=
  floatOp (.cvtF32F16 d a h hi) s d fun r th =>
    fmtF32.convert .rne ((halfFmt h).val (if hi then (r.v a th).toNat / 65536 else (r.v a th).toNat % 65536))

/-- CVT_F16_F32 (R102): two values into a packed pair. -/
def execCvtF16F32 (d a : BitVec 7) (rm : BitVec 3) (sat h : Bool) (s : State) : Host.Outcome State Fault Refusal :=
  floatOp (.cvtF16F32 d a rm sat h) s d fun r th =>
    let p := (halfFmt h).narrow (r.cvtRm rm) sat (fmtF32.val (r.v a th).toNat)
    let q := (halfFmt h).narrow (r.cvtRm rm) sat (fmtF32.val (r.v (a + 1) th).toNat)
    (q.1 * 65536 + p.1, p.2 ||| q.2)

/-- The scale of thread th: bits [7:0] of v(a+1) with MX, else 127 (R104). -/
def Src.scaleOf (r : Src) (mx : Bool) (a : BitVec 7) (th : Nat) : Nat :=
  if mx then (r.v (a + 1) th).toNat % 256 else 127

/-- The element formats of CVTQ, SCALE and DQ (Table 4.9). -/
inductive QFmt where
  | e4m3 | e5m2 | e2m1 | i8
  deriving DecidableEq, Repr

/-- The floating-point format of an element format; INT8 has none. -/
def QFmt.fmt : QFmt → Fmt
  | .e4m3 => fmtE4M3
  | .e5m2 => fmtE5M2
  | .e2m1 => fmtE2M1
  | .i8 => fmtE4M3

/-- The pattern of a NaN source and its flags (Table 4.10). -/
def QFmt.nan (q : QFmt) (sig : Bool) : Nat × FFlags :=
  match q with
  | .e4m3 => (0x7F, if sig then fNV else 0)
  | .e5m2 => (0x7E, if sig then fNV else 0)
  | .e2m1 => (0, fNV)
  | .i8 => (0, fNV)

/-- The pattern of an infinite source (Table 4.10). -/
def QFmt.inf (q : QFmt) (neg sat : Bool) : Nat × FFlags :=
  match q with
  | .e4m3 => if sat then (fmtE4M3.signed neg 0x7E, fNX) else (0x7F, fNV)
  | .e5m2 => if sat then (fmtE5M2.signed neg 0x7B, fNX) else (fmtE5M2.signed neg 0x7C, 0)
  | .e2m1 => (fmtE2M1.signed neg 7, fNV)
  | .i8 => (if neg then 0x80 else 0x7F, fNV)

/-- A finite value quantised to INT8: an integer, clamped (Table 4.10). -/
def quantI8 (rm : RM) (neg : Bool) (m : Nat) (e : Int) : Nat × FFlags :=
  let (q, ix) := finToInt rm neg m e
  let n : Int := if neg then -(q : Int) else q
  if n < -128 then (0x80, fNX)
  else if 127 < n then (0x7F, fNX)
  else ((BitVec.ofInt 8 n).toNat, if ix then fNX else 0)

/-- A finite value quantised to a floating element (R104, Table 4.10). -/
def quantFp (q : QFmt) (rm : RM) (sat neg : Bool) (m : Nat) (e : Int) : Nat × FFlags :=
  let f := q.fmt
  let r := f.round rm neg m e
  if f.maxc < r.code then
    if sat then (f.signed neg f.maxc, fNX)
    else match q with
      | .e4m3 => (0x7F, fOF ||| fNX)
      | .e5m2 => (f.signed neg (f.overflow rm neg), fOF ||| fNX)
      | .e2m1 => (f.signed neg f.maxc, fNX)
      | .i8 => (f.signed neg f.maxc, fNX)
  else (f.signed neg r.code, (if r.ix then fNX else 0) ||| (if r.ix && r.tiny then fUF else 0))

/-- Quantising one value with scale exponent sc (R104). With the scale 0xFF no flag is raised, not even for a signalling NaN:
the pseudocode of R104 says so, and the sentence below it and R90 say otherwise (DESIGN CHOICE). -/
def quantise (q : QFmt) (rm : RM) (sat mx : Bool) (sc : Nat) (x : FVal) : Nat × FFlags :=
  if sc = 0xFF then
    (match q with | .e4m3 => 0x7F | .e5m2 => 0x7E | .e2m1 => 0 | .i8 => 0, 0)
  else match x with
    | .nan sig => q.nan sig
    | .inf neg => q.inf neg sat
    | .fin neg m e =>
      let e := e + (127 - (sc : Int))
      match q with
      | .i8 => quantI8 rm neg m (if mx then e + 6 else e)
      | _ => quantFp q rm sat neg m e

/-- A word with element `pos` of `n` bits replaced. -/
def putElem (w : Word) (pos n v : Nat) : Nat :=
  let x := w.toNat
  x - x / 2 ^ (n * pos) % 2 ^ n * 2 ^ (n * pos) + v % 2 ^ n * 2 ^ (n * pos)

/-- The shared form of CVTQ: byte or nibble `pos` of v(d) takes the quantised value (R104). -/
def cvtq (i : Instr) (q : QFmt) (n : Nat) (d a : BitVec 7) (pos : BitVec 3) (sat mx : Bool) (rm : BitVec 2)
    (s : State) : Host.Outcome State Fault Refusal :=
  floatOp i s d fun r th =>
    let p := quantise q (r.qRm rm) sat mx (r.scaleOf mx a th) (fmtF32.val (r.v a th).toNat)
    (putElem (r.v d th) pos.toNat n p.1, p.2)

/-- CVTQ_E4M3 (R104). -/
def execCvtqE4m3 (d a : BitVec 7) (pos : BitVec 3) (sat mx : Bool) (rm : BitVec 2) (s : State) :
    Host.Outcome State Fault Refusal :=
  cvtq (.cvtqE4m3 d a pos sat mx rm) .e4m3 8 d a pos sat mx rm s

/-- CVTQ_E5M2 (R104). -/
def execCvtqE5m2 (d a : BitVec 7) (pos : BitVec 3) (sat mx : Bool) (rm : BitVec 2) (s : State) :
    Host.Outcome State Fault Refusal :=
  cvtq (.cvtqE5m2 d a pos sat mx rm) .e5m2 8 d a pos sat mx rm s

/-- CVTQ_E2M1 (R104). -/
def execCvtqE2m1 (d a : BitVec 7) (pos : BitVec 3) (sat mx : Bool) (rm : BitVec 2) (s : State) :
    Host.Outcome State Fault Refusal :=
  cvtq (.cvtqE2m1 d a pos sat mx rm) .e2m1 4 d a pos sat mx rm s

/-- CVTQ_I8 (R104). -/
def execCvtqI8 (d a : BitVec 7) (pos : BitVec 3) (mx : Bool) (rm : BitVec 2) (s : State) :
    Host.Outcome State Fault Refusal :=
  cvtq (.cvtqI8 d a pos mx rm) .i8 8 d a pos false mx rm s

/-- floor(log2) of a positive finite value. -/
def floorLog2 (m : Nat) (e : Int) : Int := (Nat.log2 m : Int) + e

/-- The largest magnitude of two finite values given as mantissa and exponent. -/
def maxMag (x y : Nat × Int) : Nat × Int :=
  if FVal.lt (.fin false x.1 x.2) (.fin false y.1 y.2) then y else x

/-- The E8M0 scale of a row from its active threads' values, and its flags (R105); a signalling NaN raises NV, as it always
does (R90). -/
def rowScale (emax : Int) (xs : List FVal) : Nat × FFlags :=
  let inf := xs.any fun x => match x with
    | .inf _ => true
    | _ => false
  if inf || xs.any FVal.isNan then (0xFF, if inf || xs.any FVal.isSig then fNV else 0)
  else
    let m := xs.foldl (fun a x => match x with
      | .fin _ m e => maxMag a (m, e)
      | _ => a) (0, 0)
    if m.1 = 0 then (0, 0) else ((min (max (floorLog2 m.1 m.2 - emax + 127) 0) 254).toNat, 0)

/-- The active threads of a row. -/
def rowThreads (m : Mask) (row : Nat) : List Nat := (maskThreads m).filter fun t => t / 32 == row

/-- SCALE (R105). -/
def execScale (d a : BitVec 7) (fmt : BitVec 2) (s : State) : Host.Outcome State Fault Refusal :=
  floatOp (.scale d a fmt) s d fun r th =>
    let emax : Int := [8, 15, 2, 0].getD fmt.toNat 0
    rowScale emax ((rowThreads r.m0 (th / 32)).map fun t => fmtF32.val (r.v a t).toNat)

/-- The value of an INT8 element. -/
def i8Val (x : Nat) : FVal := intVal (if x < 128 then (x : Int) else (x : Int) - 256)

/-- Dequantising an element with scale exponent sc to FP32 (R106). -/
def dequant (rm : RM) (i8mx : Bool) (sc : Nat) (x : FVal) : Nat × FFlags :=
  if sc = 0xFF ∨ x.isNan then (fmtF32.qnan, 0)
  else match x with
    | .fin neg m e => fmtF32.convert rm (.fin neg m (e + ((sc : Int) - 127) - if i8mx then 6 else 0))
    | x => fmtF32.convert rm x

/-- DQ8 (R106). -/
def execDq8 (d a : BitVec 7) (pos : BitVec 3) (fmt : BitVec 2) (mx : Bool) (rm : BitVec 2) (s : State) :
    Host.Outcome State Fault Refusal :=
  floatOp (.dq8 d a pos fmt mx rm) s d fun r th =>
    let k := (r.v a th).toNat / 256 ^ pos.toNat % 256
    let v := if fmt.toNat = 0 then fmtE4M3.val k else if fmt.toNat = 1 then fmtE5M2.val k else i8Val k
    dequant (r.qRm rm) (fmt.toNat == 3 && mx) (r.scaleOf mx a th) v

/-- DQ4 (R106). -/
def execDq4 (d a : BitVec 7) (pos : BitVec 3) (mx : Bool) (rm : BitVec 2) (s : State) :
    Host.Outcome State Fault Refusal :=
  floatOp (.dq4 d a pos mx rm) s d fun r th =>
    dequant (r.qRm rm) false (r.scaleOf mx a th) (fmtE2M1.val ((r.v a th).toNat / 16 ^ pos.toNat % 16))

end Sys2Proof.Machine
end

