-- ==== Sys2Proof/Machine/CrossLane.lean ====
section
/-!
DEFINITION. Cross-lane work: major 0x1B (R153–R156).
-/

namespace Sys2Proof.Machine

/-- The threads a cross-lane word works on: member, active and live (R153). -/
def Src.parts (r : Src) (m : BitVec 5) : Mask := r.t.mreg r.i m.toNat &&& r.m0 &&& r.t.live

/-- The threads of t's segment: its row, or the tray. -/
def segment (row : Bool) (p : Mask) (t : Nat) : List Nat := if row then rowThreads p (t / 32) else maskThreads p

/-- What a cross-lane function gives participant t, and its flags; `none` where the P field is illegal (Table 6.8). -/
abbrev XFun := Src → Mask → Nat → Nat × FFlags

/-- v(a) of a source thread if it participates, else of t. -/
def Src.laneOr (r : Src) (p : Mask) (a : BitVec 7) (t src : Nat) (ok : Bool) : Nat × FFlags :=
  ((if ok && p.getLsbD src then r.v a src else r.v a t).toNat, 0)

/-- Whether the other path slot of a tray holds a live thread of the member mask (R154). -/
def Src.crosses (r : Src) (m : BitVec 5) : Bool :=
  match r.t.p1 with
  | none => false
  | some p1 => (if r.i = 0 then p1 else r.t.p0).mask &&& r.t.mreg r.i m.toNat &&& r.t.live != 0

/-- Write a cross-lane word's results to its participants, or trap (R99, R153). -/
def crossWrite (r : Src) (t : Tray) (s : State) (d : BitVec 7) (p : Mask) (f : XFun) : Res :=
  let fl := orFlags p fun th => (f r p th).2
  match fpTraps r.t.fpctl fl with
  | [] => .ok ((t.fillPhys (r.t.vwin + d.toNat) p fun th => BitVec.ofNat 32 (f r p th).1).mergeFlags fl) s
  | cs => .trap t s cs

/-- What a cross-lane word does for convergence in dual-path mode (R154): wait for the other slot, execute with both
slots' participants, or proceed alone. -/
inductive Converge where
  | wait
  | both
  | alone
  deriving DecidableEq, Repr

/-- The convergence of a cross-lane word (R154). The other slot that waits at the same word joins it; else the word waits
for it if the member mask holds a live thread of it, unless it waits at JOIN or at a different cross-lane word. -/
def Src.converge (r : Src) (m : BitVec 5) : Converge :=
  let o := r.t.path (1 - r.i)
  if r.t.p1.isNone then .alone
  else if o.cross = .waits r.pc then .both
  else if !r.crosses m || o.joinWait || (r.t.path r.i).cross = .alone r.pc then .alone
  else match o.cross with
    | .waits _ => .alone
    | _ => .wait

/-- A cross-lane instruction (R153, R154). While it waits, the slot is not a candidate. When both slots stand at the
word, one executes it with the participants of both, and the other goes on past it. -/
def crossOp (i : Instr) (s : State) (d : BitVec 7) (m : BitVec 5) (ok : Bool) (f : XFun) :
    Host.Outcome State Fault Refusal :=
  issue i.opnds s fun r t s =>
    if !ok then .early .illegal
    else if (r.t.path r.i).cross = .done r.pc then .ok t s
    else match r.converge m with
      | .alone => crossWrite r t s d (r.parts m) f
      | .wait => .converge
      | .both =>
        let o := r.t.path (1 - r.i)
        let both := r.parts m ||| r.t.mreg (1 - r.i) m.toNat &&& o.mask &&& r.t.live
        match crossWrite r t s d both f with
        | .ok t s => .ok (t.setPath (1 - r.i) { t.path (1 - r.i) with cross := .done r.pc }) s
        | res => res

/-- The thread PERM takes its value from: thread k of the group, or lane k mod 32 of the thread's own row (R153). -/
def permLane (p : BitVec 3) (k : Word) (t : Nat) : Nat := if p.toNat = 0 then k.toNat else t / 32 * 32 + k.toNat % 32

/-- PERM (R153). -/
def execPerm (d a : BitVec 7) (m : BitVec 5) (p : BitVec 3) (s : State) : Host.Outcome State Fault Refusal :=
  crossOp (.perm d a m p) s d m (p.toNat < 2) fun r q t =>
    r.laneOr q a t (permLane p (r.v d t) t) (permLane p (r.v d t) t < 96)

/-- PUP (R153): k lanes below in the row. -/
def execPup (d a : BitVec 7) (m : BitVec 5) (p : BitVec 3) (s : State) : Host.Outcome State Fault Refusal :=
  crossOp (.pup d a m p) s d m (p.toNat < 5) fun r q t => r.laneOr q a t (t - 2 ^ p.toNat) (2 ^ p.toNat ≤ t % 32)

/-- PDN (R153): k lanes above in the row. -/
def execPdn (d a : BitVec 7) (m : BitVec 5) (p : BitVec 3) (s : State) : Host.Outcome State Fault Refusal :=
  crossOp (.pdn d a m p) s d m (p.toNat < 5) fun r q t =>
    r.laneOr q a t (t + 2 ^ p.toNat) (t % 32 + 2 ^ p.toNat < 32)

/-- PXOR (R153): the lane XOR k of the row. -/
def execPxor (d a : BitVec 7) (m : BitVec 5) (p : BitVec 3) (s : State) : Host.Outcome State Fault Refusal :=
  crossOp (.pxor d a m p) s d m (p.toNat < 5) fun r q t =>
    r.laneOr q a t (t / 32 * 32 + (t % 32 ^^^ 2 ^ p.toNat)) true

/-- PBCAST (R153): the lowest participant of the segment. -/
def execPbcast (d a : BitVec 7) (m : BitVec 5) (p : BitVec 3) (s : State) : Host.Outcome State Fault Refusal :=
  crossOp (.pbcast d a m p) s d m (p.toNat < 2) fun r q t =>
    ((r.v a ((segment (p.toNat == 1) q t).headD t)).toNat, 0)

/-- A VOTE operation over the participants (Table 6.9). -/
def voteWord (r : Src) (a : BitVec 7) (p : Nat) (q : Mask) (t : Nat) : Nat :=
  let nz (l : List Nat) : List Nat := l.filter fun x => r.v a x != 0
  let seg := segment (4 ≤ p) q t
  match p with
  | 0 => ((nz (rowThreads q (t / 32))).map fun x => 2 ^ (x % 32)).sum
  | 1 | 4 => (boolWord (!(nz seg).isEmpty)).toNat
  | 2 | 5 => (boolWord ((nz seg).length == seg.length)).toNat
  | _ => (nz seg).length

/-- VOTE (R153, Table 6.9). -/
def execVote (d a : BitVec 7) (m : BitVec 5) (p : BitVec 3) (s : State) : Host.Outcome State Fault Refusal :=
  crossOp (.vote d a m p) s d m (p.toNat < 7) fun r q t => (voteWord r a p.toNat q t, 0)

/-- The sign a zero sum takes: −0 when every term is −0, or under RD when zeros of both signs are among the terms
(R155). -/
def zeroSumSign (rm : RM) (xs : List FVal) : Bool :=
  let zero (b : Bool) : FVal → Bool
    | .fin s 0 _ => s == b
    | _ => false
  (xs.all fun x => x.sign) || (rm == .rd && xs.any (zero true) && xs.any (zero false))

/-- Terms as one exact integer multiple of 2^lo. -/
def exactSum (xs : List FVal) (lo : Int) : Int :=
  (xs.map fun x => match x with
    | .fin s m e => scaled s m e lo
    | _ => 0).sum

/-- The smallest exponent of finite terms. -/
def minExp (xs : List FVal) : Int :=
  xs.foldl (fun a x => match x with
    | .fin _ _ e => min a e
    | _ => a) 0

/-- The exact sum of FP32 values rounded once (R155). -/
def fpSum (en : FEnv) (xs : List FVal) : Nat × FFlags :=
  let inf (s : Bool) : Bool := xs.any fun x => x == .inf s
  if xs.any FVal.isNan then fmtF32.nanRes (xs.any FVal.isSig || (inf true && inf false))
  else if inf true && inf false then fmtF32.nanRes true
  else if inf true then (fmtF32.signed true 0x7F800000, 0)
  else if inf false then (0x7F800000, 0)
  else
    let lo := minExp xs
    let n := exactSum xs lo
    if n = 0 then (fmtF32.signed (zeroSumSign en.rm xs) 0, 0)
    else fmtF32.result en.rm en.ftz (n < 0) n.natAbs lo

/-- The maximumNumber of FP32 values, and NV for a signalling NaN (R122, R155). -/
def fpMax (xs : List FVal) : Nat × FFlags :=
  match xs with
  | [] => (fmtF32.qnan, 0)
  | x :: r =>
    r.foldl (fun (a : Nat × FFlags) y =>
      let q := fmtF32.minMax true (fmtF32.val a.1) y
      (q.1, a.2 ||| q.2)) (fmtF32.minMax true x x)

/-- A reduction over some threads' v(a): iadd, fadd, imax, fmax (R155). -/
def reduce (r : Src) (a : BitVec 7) (op : Nat) (ts : List Nat) : Nat × FFlags :=
  match op with
  | 0 => (((ts.map fun t => (r.v a t).toNat).sum) % 2 ^ 32, 0)
  | 1 => fpSum r.en (ts.map fun t => r.fa a t)
  | 2 => ((ts.foldl (fun m t => smax32 m (r.v a t)) 0x80000000).toNat, 0)
  | _ => fpMax (ts.map fun t => r.fa a t)

/-- REDL (R155): over the participants of the segment. -/
def execRedl (d a : BitVec 7) (m : BitVec 5) (p : BitVec 3) (s : State) : Host.Outcome State Fault Refusal :=
  crossOp (.redl d a m p) s d m true fun r q t => reduce r a (p.toNat % 4) (segment (p.toNat < 4) q t)

/-- SCANL (R155): over the participants up to t of the segment. -/
def execScanl (d a : BitVec 7) (m : BitVec 5) (p : BitVec 3) (s : State) : Host.Outcome State Fault Refusal :=
  crossOp (.scanl d a m p) s d m true fun r q t =>
    reduce r a (p.toNat % 4) ((segment (p.toNat < 4) q t).filter fun x => x ≤ t)

end Sys2Proof.Machine
end

