-- ==== Sys2Proof/Machine/Matrix.lean ====
section
/-!
DEFINITION. The matrix engine: gangs and the rendezvous latch, tiles, and the instructions of major 0x2D (R275–R299).
-/

namespace Sys2Proof.Machine

-- GANGSEL (Table 12.1)

/-- ACCMASK of a GANGSEL value. -/
def gsMask (v : Word) : BitVec 16 := v.extractLsb' 16 16
/-- FIRST of a GANGSEL value. -/
def gsFirst (v : Word) : Nat := bits v.toNat 15 11
/-- N of a GANGSEL value. -/
def gsN (v : Word) : Nat := bits v.toNat 10 8
/-- RANK of a GANGSEL value. -/
def gsRank (v : Word) : Nat := bits v.toNat 7 5

/-- Whether a tray's gang holds a tile (R276). -/
def Tray.holds (t : Tray) (tile : Nat) : Bool := gsN t.gangsel != 0 && (gsMask t.gangsel).getLsbD tile

/-- Whether a tray's gang holds every tile of a list. -/
def Tray.holdsAll (t : Tray) (l : List Nat) : Bool := gsN t.gangsel != 0 && l.all fun x => t.holds x

-- Tiles

/-- A tile of a core; one that nobody has taken reads as zeros. -/
def State.tile (s : State) (core t : Nat) : Tile :=
  (((s.cores.get? core).bind fun c => c.tiles.get? t)).getD ⟨0, [], false⟩

/-- Change a tile that is taken. -/
def State.onTile (s : State) (core t : Nat) (f : Tile → Tile) : State :=
  s.onCore core fun c => { c with tiles := c.tiles.upd t f }

/-- The key of element (i, j): also the key of its register of eight and thread (R275). -/
def tkey (i j : Nat) : Nat := 32 * i + j

/-- A tile whose elements are a function of row and column. -/
def tileOf (f : Nat → Nat → Word) : SMap 32 := smTab 0 768 fun k => f (k / 32) (k % 32)

/-- Whether another gang, or another batch, has a tile that a gang of (batch, first, n) asks for (R277, R282). -/
def State.tileTaken (s : State) (core batch first n tile : Nat) : Bool :=
  (s.trays.any fun e =>
    e.1 / 32 == core && e.2.holds tile &&
      !(e.2.batch == batch && gsFirst e.2.gangsel == first && gsN e.2.gangsel == n)) ||
  match (s.cores.get? core).bind fun c => c.tiles.get? tile with
  | some x => x.batch != batch
  | none => false

/-- A gang of a batch takes tiles; one that the batch already has keeps its contents (R277). -/
def State.takeTiles (s : State) (core batch : Nat) (m : BitVec 16) : State :=
  s.onCore core fun c => { c with
    tiles := (bitList m).foldl (fun l x => if (l.get? x).isSome then l else l.put x ⟨batch, [], false⟩) c.tiles }

-- The latch (R278)

/-- The members waiting at a latch. -/
def State.atLatch (s : State) (core batch first n : Nat) : List (Nat × Arrival) :=
  s.trays.filterMap fun e =>
    if e.1 / 32 = core ∧ e.2.batch = batch then
      match e.2.wait with
      | .latch a => if a.first = first ∧ a.n = n then some (e.1, a) else none
      | _ => none
    else none

/-- An arrival is withdrawn: its counters are restored (R278). -/
def Tray.withdraw (t : Tray) (a : Arrival) : Tray :=
  { a.pends.foldl (fun t k => t.complete k) t with wait := .run }

/-- A member waiting at a latch takes GANG at its word (R278, R279). -/
def State.latchTrap (s : State) (key : Nat) (a : Arrival) : State :=
  (s.onTray key fun t => t.withdraw a).raise key 0 [.gang] a.pc false none

/-- A member leaves its latch when it releases. -/
def Tray.fromLatch (t : Tray) (a : Arrival) : Tray := { t with wait := .run }.setPc 0 a.cont

/-- A status or batch number for s(d) of a member, whose pending result is the first its arrival made. -/
def Tray.gangResult (t : Tray) (a : Arrival) (d : Nat) (v : Word) : Tray :=
  t.setData (a.pends.headD 0) [.s d v]

/-- A command of the matrix engine: nothing of it is pending but what `body` names (R293). -/
def Src.matrixOp (r : Src) (t : Tray) (s : State) (body : MatrixOp) : Tray × State :=
  sendOp r { t with nextPend := t.nextPend + 1 } s 2 (r.key / 32) noVer t.nextPend (.matrix body)

/-- What a GANG does at its release (R282), given every member's arrival. -/
def State.gangRelease (s : State) (core batch : Nat) (l : List (Nat × Arrival)) (d : Nat) (v : Word) : State :=
  let each (s : State) (f : Tray → Arrival → Tray) : State :=
    l.foldl (fun s x => s.onTray x.1 fun t => f (t.fromLatch x.2) x.2) s
  let first := gsFirst v
  if v = 0 then each s fun t a => { t.gangResult a d 0 with gangsel := 0 }
  else if (bitList (gsMask v)).any fun x => s.tileTaken core batch first (gsN v) x then
    each s fun t a => t.gangResult a d 1
  else
    each (s.takeTiles core batch (gsMask v)) fun t a =>
      { t.gangResult a d 0 with gangsel := v + BitVec.ofNat 32 (32 * (t.idx - first)), gbatch := 0 }

/-- The release of a latch: every member goes on and one command goes to the engine (R278, R293). The command carries
the tag of the member that arrived last. -/
def Src.release (r : Src) (s : State) (batch cluster : Nat) (l : List (Nat × Arrival)) (w : GangWord) : State :=
  let core := r.key / 32
  let go (s : State) (f : Tray → Arrival → Tray) : State :=
    l.foldl (fun s x => s.onTray x.1 fun t => f (t.fromLatch x.2) x.2) s
  let send (s : State) (k : MatrixOp) : State :=
    match s.trays.get? r.key with
    | none => s
    | some t =>
      let (t, s) := r.matrixOp t s k
      s.setTray r.key t
  match w with
  | .gang d _ v => s.gangRelease core batch l d v
  | .mma dist t _ _ ctl da db =>
    let regs := l.foldl (fun m x => x.2.regs.foldl (fun m e => smSet m e.1 e.2) m) ([] : SMap 32)
    send (go s fun t _ => t) (.mma dist t ctl da db cluster regs)
  | .mtopk t src _ base sel => send (go s fun t _ => t) (.topk t src base sel)
  | .mfence d =>
    let ids := l.filterMap fun x => (s.trays.get? x.1).map fun t => (t.idx, x.2.pends.getD 1 0)
    send (go s fun t a => { t.gangResult a d (t.gbatch + 1) with gbatch := t.gbatch + 1 }) (.fence ids)

/-- A member arrives at its latch (R278). `t` is the tray before its arrival counts anything. -/
def Src.arrive (r : Src) (t : Tray) (s : State) (ctrs : List Ctr) (sdst : List Nat) (a : Arrival) : Res :=
  let core := r.key / 32
  let l := s.atLatch core t.batch a.first a.n
  if l.any fun x => x.2.word != a.word then
    .trap t (l.foldl (fun s x => s.latchTrap x.1 x.2) s) [.gang]
  else
    let ids := (List.range ctrs.length).map fun i => t.nextPend + i
    let t1 := ctrs.foldl (fun t c =>
      t.addPend (if c = .loads then .result else .op) r.i (some c) (if c = .loads then sdst else []) [] none) t
    let a := { a with pends := ids }
    r.settle { t1.setPc r.i r.pc with wait := .latch a } s fun s =>
      if l.length + 1 < a.n then s
      else r.release s t.batch (s.clusterIdOf t) (l ++ [(r.key, a)]) a.word

/-- The arrival of a member of a gang. -/
def Src.member (r : Src) (t : Tray) (w : GangWord) (regs : SMap 32) : Arrival :=
  ⟨gsFirst r.t.gangsel, gsN r.t.gangsel, gsRank r.t.gangsel, w, r.pc, (t.path r.i).pc, [], regs⟩

/-- GANG_LATCH_TIMEOUT (R278). -/
def execGangLatchTimeout (tray : Nat) (s : State) : Host.Outcome State Fault Refusal :=
  .next (match s.trays.get? tray with
    | none => s
    | some t =>
      match t.wait with
      | .latch a => s.latchTrap tray a
      | _ => s)

/-- A tray is a member of a gang of a batch. -/
def Tray.inGang (t : Tray) (batch first n : Nat) : Bool :=
  t.batch == batch && gsFirst t.gangsel == first && gsN t.gangsel == n

/-- A saved member of a gang that dissolves: one that waits at the latch takes GANG (R279). -/
def Tray.leaveGang (t : Tray) (c : Ctx) : Tray :=
  let t := { t with gangsel := 0 }
  match t.wait with
  | .latch a => (t.withdraw a).savedCause c 0 .gang a.pc false
  | _ => t

/-- A member tray ends: its gang dissolves (R279), for members that are saved too. -/
def State.dissolve (s : State) (key : Nat) : State :=
  match s.trays.get? key with
  | none => s
  | some t =>
    if gsN t.gangsel = 0 then s
    else
      let first := gsFirst t.gangsel
      let n := gsN t.gangsel
      let l := s.atLatch (key / 32) t.batch first n
      let s := { s with
        trays := s.trays.all' fun _ x => if x.inGang t.batch first n then { x with gangsel := 0 } else x }
      let s := s.onSavedAll (fun x => x.inGang t.batch first n) fun x => x.leaveGang (s.ctx t.ctx)
      l.foldl (fun s x => if x.1 = key then s else s.latchTrap x.1 x.2) s

-- Instructions

/-- A gang-wide word is illegal in a chain, and every word of the major with two path slots (R281). -/
def Src.gangIllegal (r : Src) (wide : Bool) : Bool := r.t.p1.isSome || (wide && r.chain)

/-- GANG (R282). -/
def execGang (d : BitVec 7) (b : SB) (s : State) : Host.Outcome State Fault Refusal :=
  engine (Instr.gang d b).opnds s fun r t s =>
    let v := r.sb b
    let g := r.t.gangsel
    let trays := ((s.batches.get? t.batch).map (·.trays)).getD 0
    let first := gsFirst v
    let n := gsN v
    let legal := v == 0 || 2 ≤ n && n ≤ 6 && first + n ≤ trays && first ≤ t.idx && t.idx < first + n &&
      bits v.toNat 7 0 == 0 && gsMask v != 0
    let w : GangWord := .gang d.toNat b v
    if r.gangIllegal true || !legal then .early .illegal
    else if gsN g != 0 && v != 0 && !(first == gsFirst g && n == gsN g) then .early .gang
    else if r.t.ctrFull .loads then .stay
    else if gsN g = 0 && v == 0 then
      let (t, s) := r.ask t s 2 (r.key / 32) [d.toNat] [] (.done [.s d.toNat 0])
      .ok t s
    else
      let a := if gsN g = 0 then ⟨first, n, t.idx - first, w, r.pc, (t.path r.i).pc, [], []⟩ else r.member t w []
      r.arrive t s [.loads] [d.toNat] a

/-- A control word of MMA and MDIST (Table 12.3). -/
structure MmaCtl where
  cnt : Nat
  breg : Nat
  bspad : Bool
  aspad : Bool
  sat : Bool
  mx : Bool
  typ : Nat
  deriving DecidableEq, Repr

/-- The fields of a control word. -/
def mmaCtl (w : Word) : MmaCtl :=
  ⟨bits w.toNat 19 16, bits w.toNat 14 8, w.getLsbD 7, w.getLsbD 6, w.getLsbD 5, w.getLsbD 4, bits w.toNat 3 0⟩

/-- Whether an operation reads scales: MXFP8, or MXFP4 (R283). -/
def MmaCtl.scales (c : MmaCtl) : Bool := c.mx || c.typ == 8

/-- The legality of a control word for a tile (R283). -/
def MmaCtl.legal (c : MmaCtl) (w : Word) (tile : Nat) : Bool :=
  bits w.toNat 31 20 == 0 && !w.getLsbD 15 && c.typ ≤ 9 && (!c.sat || c.typ == 7) && (!c.mx || c.typ < 4) &&
  (c.cnt == 0 || c.aspad && c.bspad) && (c.typ != 9 || tile % 2 == 0)

/-- Registers of an operand block (R284). -/
def blockSize (isB scales : Bool) : Nat := (if isB then 11 else 8) + scales.toNat

/-- Whether an operand field names what its source allows: a block of window registers, or an even scalar pair. -/
def operandLegal (spad isB scales : Bool) (f : Nat) : Bool :=
  if spad then f % 2 == 0 && f + 2 ≤ 96 else f + blockSize isB scales ≤ 128

/-- A scratchpad descriptor's pitches and rotation are legal (Table 12.6). -/
def descLegal (desc : DWord) (scales : Bool) : Bool :=
  let w := (hi32 desc).toNat
  bits w 31 28 < 4 && (if scales then 9 else 8) ≤ bits w 15 0

/-- The last byte past what a scratchpad operand reads (R285). -/
def descEnd (desc : DWord) (rows cnt : Nat) (scales : Bool) : Nat :=
  let w := (hi32 desc).toNat
  (lo32 desc).toNat + 128 * bits w 27 16 * cnt + 16 * bits w 15 0 * (rows - 1) + (if scales then 136 else 128)

/-- The block registers a member supplies: of the blocks that come from registers, those with its rank (R284). -/
def blockRegs (n rank : Nat) (isB scales : Bool) (f : Nat) : List (Nat × Nat) :=
  ((List.range (blockSize isB scales)).filter fun q => q % n == rank).map fun q => (q, f + q)

/-- MMA and MDIST (R283–R286). -/
def mmaOp (i : Instr) (dist : Bool) (tf a : BitVec 7) (b : SB) (s : State) : Host.Outcome State Fault Refusal :=
  engine i.opnds s fun r t s =>
    let w := r.sb b
    let c := mmaCtl w
    let tile := tf.toNat
    let g := r.t.gangsel
    let opA : Opnd := .sr a 2
    let opB : Opnd := .sr (BitVec.ofNat 7 c.breg) 2
    let sOps := (if c.aspad then [opA] else []) ++ if c.bspad then [opB] else []
    let mine := (if c.aspad then [] else blockRegs (gsN g) (gsRank g) false c.scales a.toNat) ++
      if c.bspad then [] else blockRegs (gsN g) (gsRank g) true c.scales c.breg
    let da := if c.aspad then r.s2 a else 0
    let db := if c.bspad then r.t.spair r.i c.breg else 0
    let size := (s.clusterFor t).size
    if r.gangIllegal true || !c.legal w tile || !operandLegal c.aspad false c.scales a.toNat ||
        !operandLegal c.bspad true c.scales c.breg then .early .illegal
    else if scoreboard r.t r.i (sOps ++ mine.map fun x => Opnd.vr (BitVec.ofNat 7 x.2) 1) then .stay
    else if c.aspad && !descLegal da c.scales || c.bspad && !descLegal db c.scales then .early .illegal
    else if !r.t.holdsAll (if c.typ = 9 then [tile, tile + 1] else [tile]) then .early .gang
    else if mine.any fun x => r.t.n ≤ r.t.vwin + x.2 then .early .regovf
    else if c.aspad && (lo32 da).toNat % 16 != 0 || c.bspad && (lo32 db).toNat % 16 != 0 then .early .align
    else if c.aspad && size < descEnd da 24 c.cnt c.scales || c.bspad && size < descEnd db 32 c.cnt c.scales then
      .early .scratch
    else
      let block (isB : Bool) (f : Nat) : List (Nat × Word) :=
        (blockRegs (gsN g) (gsRank g) isB c.scales f).flatMap fun x =>
          threads.filterMap fun th =>
            let v := r.t.vreg x.2 th
            if v = 0 then none else some (((if isB then 16 else 0) + x.1) * 96 + th, v)
      let regs := (if c.aspad then [] else block false a.toNat) ++ if c.bspad then [] else block true c.breg
      r.arrive t s [] [] (r.member t (.mma dist tile a.toNat b w da db) regs)

/-- MMA (R286). -/
def execMma (tf a : BitVec 7) (b : SB) (s : State) : Host.Outcome State Fault Refusal :=
  mmaOp (.mma tf a b) false tf a b s

/-- MDIST (R286). -/
def execMdist (tf a : BitVec 7) (b : SB) (s : State) : Host.Outcome State Fault Refusal :=
  mmaOp (.mdist tf a b) true tf a b s

/-- MTOPK (R289). -/
def execMtopk (tf src : BitVec 7) (k : BitVec 8) (s : State) : Host.Outcome State Fault Refusal :=
  engine (Instr.mtopk tf src k).opnds s fun r t s =>
    let base := r.s (k.setWidth 7)
    let sel := r.sn (k.setWidth 7) 1
    let kk := bits sel.toNat 4 0
    if r.gangIllegal true || tf == src || 96 ≤ k.toNat || kk == 0 || 16 < kk || 64 ≤ sel.toNat then .early .illegal
    else if !r.t.holdsAll [tf.toNat, src.toNat] then .early .gang
    else r.arrive t s [] [] (r.member t (.mtopk tf.toNat src.toNat k.toNat base sel) [])

/-- MFENCE (R295). -/
def execMfence (d : BitVec 7) (s : State) : Host.Outcome State Fault Refusal :=
  engine (Instr.mfence d).opnds s fun r t s =>
    if r.gangIllegal true then .early .illegal
    else if gsN r.t.gangsel = 0 then .early .gang
    else if r.t.ctrFull .loads || r.t.ctrFull .matrix then .stay
    else r.arrive t s [.loads, .matrix] [d.toNat] (r.member t (.mfence d.toNat) [])

/-- MZERO (R290). -/
def execMzero (b : SB) (s : State) : Host.Outcome State Fault Refusal :=
  engine (Instr.mzero b).opnds s fun r t s =>
    let w := r.sb b
    if r.gangIllegal false || bits w.toNat 17 16 == 3 || 2 ^ 18 ≤ w.toNat then .early .illegal
    else if !r.t.holdsAll (bitList (w.setWidth 16)) then .early .gang
    else if w.setWidth 16 = 0#16 then .ok t s
    else
      let (t, s) := r.matrixOp t s (.zero w)
      .ok t s

/-- The tiles an operation reads or writes. -/
def MatrixOp.tiles : MatrixOp → List Nat
  | .mma _ t ctl _ _ _ _ => if (mmaCtl ctl).typ = 9 then [t, t + 1] else [t]
  | .topk t src _ _ => [t, src]
  | .zero m => bitList (m.setWidth 16)
  | .write t _ _ hi => if hi.isSome then [t, t + 1] else [t]
  | .fence _ => []

/-- The tiles of an MRD or MWR. -/
def tilePair (t : Nat) (f64 : Bool) : List Nat := if f64 then [t, t + 1] else [t]

/-- Whether an operation on some tiles of a core has not completed. -/
def State.tilesBusy (s : State) (core : Nat) (l : List Nat) : Bool :=
  s.ops.any fun o =>
    match o.body with
    | .matrix k => o.unit == core && k.tiles.any fun x => l.contains x
    | _ => false

/-- MRD (R291): a plain read waits until the operations on its tiles have completed, a peek reads them as they are; the tile
is read where the word issues, since POISON is precise at it, and a command brings the elements. -/
def execMrd (d tf : BitVec 7) (f64 peek : Bool) (s : State) : Host.Outcome State Fault Refusal :=
  engine (Instr.mrd d tf f64 peek).opnds s fun r t s =>
    let core := r.key / 32
    let l := tilePair tf.toNat f64
    if r.gangIllegal false || (f64 && tf.toNat % 2 == 1) then .early .illegal
    else if !r.t.holdsAll l then .early .gang
    else if r.t.ctrFull .loads || (!peek && s.tilesBusy core l) then .stay
    else if l.any fun x => (s.tile core x).poison then .trap t s [.poison]
    else
      let p := r.t.vwin + d.toNat
      let write (x q stride off : Nat) : List RegWrite :=
        (maskThreads r.m0).map fun th => .v (vkey (p + stride * q + off) th) (smGet (s.tile core x).data (96 * q + th))
      let data := (List.range 8).flatMap fun q =>
        if f64 then write tf.toNat q 2 0 ++ write (tf.toNat + 1) q 2 1 else write tf.toNat q 1 0
      let (t, s) := r.ask t s 2 core [] (List.range' p (if f64 then 16 else 8)) (.done data)
      .ok t s

/-- MWR (R292). -/
def execMwr (tf a : BitVec 7) (f64 : Bool) (s : State) : Host.Outcome State Fault Refusal :=
  engine (Instr.mwr tf a f64).opnds s fun r t s =>
    if r.gangIllegal false || (f64 && tf.toNat % 2 == 1) then .early .illegal
    else if !r.t.holdsAll (tilePair tf.toNat f64) then .early .gang
    else
      let part (stride off : Nat) : SMap 32 :=
        smTab 0 768 fun k => r.t.vreg (a.toNat + stride * (k / 96) + off) (k % 96)
      let k : MatrixOp := if f64 then .write tf.toNat r.m0 (part 2 0) (some (part 2 1))
        else .write tf.toNat r.m0 (part 1 0) none
      let (t, s) := r.matrixOp t s k
      .ok t s

-- Performing operations (R284–R292)

/-- A row of 128 bytes and its scale bytes, as numbers. -/
structure MRow where
  data : Nat
  scale : Nat
  deriving DecidableEq, Repr

/-- Row or column i of a register operand whose blocks begin at key `base` × 96 (Table 12.5). -/
def regRow (regs : SMap 32) (base scaleReg i : Nat) : MRow :=
  ⟨smNat regs ((base + i / 3) * 96 + 32 * (i % 3)) 32, smNat regs ((base + scaleReg) * 96 + 2 * i) 2⟩

/-- Row or column i of K-step `step` of a scratchpad operand (R285). -/
def Cluster.spadRow (k : Cluster) (desc : DWord) (step i : Nat) : MRow :=
  let w := (hi32 desc).toNat
  let start := (lo32 desc).toNat + 128 * bits w 27 16 * step + 16 * bits w 15 0 * i
  let rot := 2 ^ bits w 31 28
  ⟨((List.range 8).map fun c => k.rd (start + 16 * (c ^^^ i % rot)) 16 * 2 ^ (128 * c)).sum, k.rd (start + 128) 8⟩

/-- Whether a scratchpad operand meets poison in one of its rows (R297). -/
def Cluster.spadPoison (k : Cluster) (desc : DWord) (rows steps : Nat) (scales : Bool) : Bool :=
  let w := (hi32 desc).toNat
  (List.range steps).any fun s => (List.range rows).any fun i =>
    let start := (lo32 desc).toNat + 128 * bits w 27 16 * s + 16 * bits w 15 0 * i
    (pieces start (if scales then 136 else 128)).any fun p => k.poisoned p.1

/-- The format of A or B by element type (Table 12.4); FP64 and INT8 are read apart. -/
def mmaFmt (typ : Nat) (isB : Bool) : Fmt :=
  match typ with
  | 0 => fmtE4M3
  | 1 => if isB then fmtE5M2 else fmtE4M3
  | 2 => if isB then fmtE4M3 else fmtE5M2
  | 3 => fmtE5M2
  | 4 => fmtF16
  | 5 => fmtBF16
  | 8 => fmtE2M1
  | 9 => fmtF64
  | _ => fmtF32

/-- Element bits of a type (Table 12.4). -/
def mmaBits (typ : Nat) : Nat :=
  match typ with
  | 4 | 5 => 16
  | 6 => 32
  | 8 => 4
  | 9 => 64
  | _ => 8

/-- The group size g of a type (Table 12.4). -/
def mmaGroup (typ : Nat) : Nat :=
  match typ with
  | 4 | 5 => 8
  | 6 => 2
  | 8 => 32
  | 9 => 1
  | _ => 16

/-- A value times the E8M0 scale byte E: 0xFF makes NaN (R100, R287). -/
def FVal.scaleBy (x : FVal) (e : Nat) : FVal :=
  if e = 255 then .nan false
  else match x with
    | .fin s m k => .fin s m (k + (e : Int) - 127)
    | v => v

/-- The elements of a row as values, scaled where the type has scales. -/
def MRow.vals (r : MRow) (c : MmaCtl) (isB : Bool) : List FVal :=
  let n := mmaBits c.typ
  (List.range (1024 / n)).map fun k =>
    let v := (mmaFmt c.typ isB).val (r.data / 2 ^ (n * k) % 2 ^ n)
    if c.scales then v.scaleBy (r.scale / 2 ^ (8 * (k / 32)) % 256) else v

/-- The elements of a row as signed bytes (TYPE 7). -/
def MRow.ints (r : MRow) : List Int :=
  (List.range 128).map fun k => (BitVec.ofNat 8 (r.data / 2 ^ (8 * k))).toInt

/-- An exact product: NaN for 0 × ∞ (R287). -/
def FVal.times : FVal → FVal → FVal
  | .nan _, _ => .nan false
  | _, .nan _ => .nan false
  | .inf s, .inf t => .inf (s != t)
  | .inf s, .fin t m _ => if m = 0 then .nan false else .inf (s != t)
  | .fin s m _, .inf t => if m = 0 then .nan false else .inf (s != t)
  | .fin s m e, .fin t n f => .fin (s != t) (m * n) (e + f)

/-- The square of an exact difference: NaN for ∞ − ∞ (R287). -/
def FVal.diff2 : FVal → FVal → FVal
  | .nan _, _ => .nan false
  | _, .nan _ => .nan false
  | .inf s, .inf t => if s = t then .nan false else .inf false
  | .inf _, .fin _ _ _ => .inf false
  | .fin _ _ _, .inf _ => .inf false
  | .fin s m e, .fin t n f =>
    let lo := min e f
    let d := scaled s m e lo - scaled t n f lo
    .fin false (d.natAbs * d.natAbs) (2 * lo)

/-- acc_round for an FP32 tile (R287). -/
def accRound (c : Word) (terms : List FVal) : Word :=
  let xs := fmtF32.val c.toNat :: terms
  let inf (s : Bool) : Bool := xs.any fun x => x == .inf s
  let r : Nat :=
    if xs.any FVal.isNan || inf true && inf false then 0x7FC00000
    else if inf true then 0xFF800000
    else if inf false then 0x7F800000
    else
      let lo := minExp xs
      let n := exactSum xs lo
      if n = 0 then fmtF32.signed (xs.all fun x => x.sign) 0
      else (fmtF32.result .rne false (n < 0) n.natAbs lo).1
  BitVec.ofNat 32 r

/-- acc_round for an INT32 tile (R288). -/
def accInt (sat : Bool) (c : Word) (sum : Int) : Word :=
  let v := c.toInt + sum
  if sat then BitVec.ofInt 32 (if v < -2 ^ 31 then -2 ^ 31 else if 2 ^ 31 ≤ v then 2 ^ 31 - 1 else v)
  else BitVec.ofInt 32 v

/-- A list cut into groups of g. -/
def groupsOf {α : Type} (g : Nat) (l : List α) : List (List α) :=
  (List.range (l.length / g)).map fun q => (l.drop (g * q)).take g

/-- FP64 accumulation of one element over a step, in ascending k (R286). -/
def acc64 (dist : Bool) (c : DWord) (ab : List (FVal × FVal)) : DWord :=
  let en : FEnv := ⟨.rne, false⟩
  ab.foldl (fun (c : DWord) x =>
    let y := fmtF64.val c.toNat
    let r := if dist then
        let d := fmtF64.val (fmtF64.add en x.1 x.2.neg).1
        fmtF64.fma en d d y
      else fmtF64.fma en x.1 x.2 y
    BitVec.ofNat 64 r.1) c

/-- One K-step of MMA or MDIST on the destination (R286): rows of A and columns of B, and the destination tiles. -/
def mmaStep (dist : Bool) (c : MmaCtl) (a b : List MRow) (lo hi : SMap 32) : SMap 32 × SMap 32 :=
  if c.typ = 9 then
    let va := a.map fun x => x.vals c false
    let vb := b.map fun x => x.vals c true
    let res := (List.range 768).map fun k =>
      acc64 dist (pair (smGet lo k) (smGet hi k)) ((va.getD (k / 32) []).zip (vb.getD (k % 32) []))
    (tileOf fun i j => lo32 (res.getD (tkey i j) 0), tileOf fun i j => hi32 (res.getD (tkey i j) 0))
  else if c.typ = 7 then
    let va := a.map MRow.ints
    let vb := b.map MRow.ints
    (tileOf fun i j =>
      let t := (va.getD i []).zipWith (fun x y => if dist then (x - y) * (x - y) else x * y) (vb.getD j [])
      (groupsOf 16 t).foldl (fun w g => accInt c.sat w g.sum) (smGet lo (tkey i j)), hi)
  else
    let va := a.map fun x => x.vals c false
    let vb := b.map fun x => x.vals c true
    (tileOf fun i j =>
      let t := (va.getD i []).zipWith (fun x y => if dist then x.diff2 y else x.times y) (vb.getD j [])
      (groupsOf (mmaGroup c.typ) t).foldl accRound (smGet lo (tkey i j)), hi)

/-- MMA or MDIST over the first `n` of its K-steps (R286). -/
def State.mmaGo (s : State) (core : Nat) (dist : Bool) (t : Nat) (ctl : Word) (da db : DWord) (cluster : Nat)
    (regs : SMap 32) (n : Nat) : State :=
  let c := mmaCtl ctl
  let k := s.clusters.get? cluster
  let rows (spad isB : Bool) (count : Nat) (desc : DWord) (step : Nat) : List MRow :=
    (List.range count).map fun i =>
      if spad then
        match k with
        | some k => k.spadRow desc step i
        | none => ⟨0, 0⟩
      else regRow regs (if isB then 16 else 0) (if isB then 11 else 8) i
  let bad := match k with
    | some k => c.aspad && k.spadPoison da 24 n c.scales || c.bspad && k.spadPoison db 32 n c.scales
    | none => false
  let r := (List.range n).foldl (fun (x : SMap 32 × SMap 32) step =>
    mmaStep dist c (rows c.aspad false 24 da step) (rows c.bspad true 32 db step) x.1 x.2)
    ((s.tile core t).data, (s.tile core (t + 1)).data)
  let s := s.onTile core t fun x => { x with data := r.1, poison := x.poison || bad }
  if c.typ = 9 then s.onTile core (t + 1) fun x => { x with data := r.2, poison := x.poison || bad } else s

/-- The empty value of a top-k list (R289). -/
def emptyVal (int : Bool) : Word := if int then 0x7FFFFFFF else 0x7F800000

/-- A value and its index ranks before another: by value, then by index; every NaN ranks above +∞ (R289). -/
def topBefore (int : Bool) (x y : Word × Word) : Bool :=
  let a := fmtF32.val x.1.toNat
  let b := fmtF32.val y.1.toNat
  let lt := if int then x.1.slt y.1 else a.lt b || !a.isNan && b.isNan
  let gt := if int then y.1.slt x.1 else b.lt a || a.isNan && !b.isNan
  lt || (!gt && x.2.ult y.2)

/-- Put an entry into a list in order, after every entry it does not rank before. -/
def topInsert (int : Bool) (x : Word × Word) : List (Word × Word) → List (Word × Word)
  | [] => [x]
  | y :: r => if topBefore int x y then x :: y :: r else y :: topInsert int x r

/-- MTOPK on two tiles (R289). -/
def topkTile (dst src : SMap 32) (base sel : Word) : SMap 32 :=
  let int := sel.getLsbD 5
  let kk := bits sel.toNat 4 0
  let rowList (i : Nat) : List (Word × Word) :=
    let l := ((List.range 16).map fun m => (smGet dst (tkey i m), smGet dst (tkey i (16 + m)))) ++
      (List.range 32).map fun j => (smGet src (tkey i j), base + BitVec.ofNat 32 j)
    l.foldl (fun acc x => topInsert int x acc) []
  let rows := (List.range 24).map rowList
  tileOf fun i j =>
    if j % 16 < kk then
      let e := (rows.getD i []).getD (j % 16) (0, 0)
      if j < 16 then e.1 else e.2
    else if j < 16 then emptyVal int else 0xFFFFFFFF

/-- MZERO's fill (R290). -/
def fillTile (fill : Nat) : SMap 32 :=
  if fill = 0 then []
  else tileOf fun _ j => if j < 16 then emptyVal (fill == 2) else 0xFFFFFFFF

/-- MWR on a tile (R292). -/
def writeTile (x : Tile) (m : Mask) (d : SMap 32) : Tile :=
  { x with
    data := smTab 0 768 fun k => if m.getLsbD (k % 96) then smGet d k else smGet x.data k,
    poison := x.poison && m != BitVec.allOnes 96 }

/-- The effect of a matrix operation on the tiles of its core. -/
def State.matrixGo (s : State) (core batch : Nat) : MatrixOp → State
  | .mma dist t ctl da db cl regs => s.mmaGo core dist t ctl da db cl regs ((mmaCtl ctl).cnt + 1)
  | .topk t src base sel =>
    s.onTile core t fun x => { x with
      data := topkTile x.data (s.tile core src).data base sel, poison := x.poison || (s.tile core src).poison }
  | .zero m => (bitList (m.setWidth 16)).foldl (fun s x =>
      s.onTile core x fun t => { t with data := fillTile (bits m.toNat 17 16), poison := false }) s
  | .write t m lo hi =>
    let s := s.onTile core t fun x => writeTile x m lo
    match hi with
    | some h => s.onTile core (t + 1) fun x => writeTile x m h
    | none => s
  | .fence l => l.foldl (fun s x => s.onTrayOf batch x.1 fun t => t.complete x.2) s

/-- The steps of a matrix operation: K-steps of MMA and MDIST, one for the others. -/
def MatrixOp.steps : MatrixOp → Nat
  | .mma _ _ ctl _ _ _ _ => (mmaCtl ctl).cnt + 1
  | .topk _ _ _ _ | .zero _ | .write _ _ _ _ | .fence _ => 1

/-- The steps that an operation has completed when it must stop: any number of them (R299). -/
def MatrixOp.stopAt (k : MatrixOp) (id : Nat) : Nat := Config.stopStep id % (k.steps + 1)

/-- A matrix operation stops at a step boundary: the tiles keep the values of that boundary (R299). -/
def State.matrixStop (s : State) (core batch id : Nat) (k : MatrixOp) : State :=
  match k with
  | .mma dist t ctl da db cl regs => s.mmaGo core dist t ctl da db cl regs (k.stopAt id)
  | .topk _ _ _ _ | .zero _ | .write _ _ _ _ => if k.stopAt id = 1 then s.matrixGo core batch k else s
  | .fence _ => s

/-- The operation that a core's matrix engine performs: the oldest that it has accepted. -/
def State.matrixHead (s : State) (core : Nat) : Option Op :=
  s.ops.find? fun o => o.tag.eng == 2 && o.unit == core && o.phase != 0

/-- MATRIX_OP_COMPLETE (R293, R295): the oldest operation of a core's matrix engine completes. -/
def execMatrixOpComplete (core : Nat) (s : State) : Host.Outcome State Fault Refusal :=
  .next (match s.matrixHead core with
    | none => s
    | some o =>
      match o.body with
      | .matrix k => (s.matrixGo core o.batch k).dropOp o.id
      | _ => s)

end Sys2Proof.Machine
end

