-- ==== Sys2Proof/Machine/Place.lean ====
section
/-!
DEFINITION. Placement: what fits where (R77, R148, R298), placing a cluster, partial eviction (R78), the start of a tray
(R35) and the return of a saved one.
-/

namespace Sys2Proof.Machine

/-- Room on a core for new batches: free tray-registers beyond the reserve (R148), free tray slots, and the tiles in use
(R298). -/
structure Room where
  core : Nat
  regs : Nat
  slots : Nat
  tiles : List Nat
  deriving DecidableEq, Repr

/-- What a batch asks of a core: tray-registers, tray slots and tiles that must be free there (R77, R298). -/
structure Ask where
  regs : Nat
  slots : Nat
  tiles : List Nat
  deriving DecidableEq, Repr

/-- Tray slots held for a batch that is placed and whose trays are not there yet. -/
def Batch.heldSlots (b : Batch) : Nat := if b.loading then b.image.length else if b.started then 0 else b.trays

/-- Tray slots of a core in use. -/
def State.slotsUsed (s : State) (core : Nat) : Nat :=
  (s.trays.filter fun e => e.1 / 32 == core).length +
  (s.batches.map fun e => if e.2.core = some core then e.2.heldSlots else 0).sum

/-- The cores of a context's core groups, on dies that are up. -/
def State.coresOf (s : State) (c : Nat) : List Nat :=
  ((bitList (s.ctx c).own.groups).flatMap fun g => List.range' (8 * g) 8).filter fun k => s.dies.getLsbD (k / 256)

/-- The tiles of a core in use, each with its batch: of gangs and resident batches, and of saved batches that are returning
(R277, R298). -/
def State.tilesOn (s : State) (core : Nat) : List (Nat × Nat) :=
  ((s.cores.get? core).map fun c => c.tiles.map fun e => (e.1, e.2.batch)).getD [] ++
  s.batches.flatMap fun e => if e.2.core = some core ∧ e.2.loading then e.2.tiles.map fun x => (x.1, e.1) else []

/-- The tray-registers that the oldest parked REGGROW of a core waits for: what is freed goes to it before it goes to the
free pool (R147). -/
def State.growNeed (s : State) (core : Nat) : Nat :=
  match oldestGrow (s.growQueue core) with
  | none => 0
  | some (_, key, n, _) => n - ((s.trays.get? key).map (·.n)).getD 0

/-- Room on each core of a context as it stands; groups that are being taken away or given up take no batch. -/
def State.roomsNow (s : State) (c : Nat) : List Room :=
  ((s.coresOf c).filter fun k => !(s.ctx c).noPlace.getLsbD (k / 8)).map fun k =>
    ⟨k, 2048 - 64 - s.regsUsed k - s.growNeed k, 32 - s.slotsUsed k, (s.tilesOn k).map (·.1)⟩

/-- Room on each core of a context with nothing on it (R77, impossible fits). -/
def State.roomsEmpty (s : State) (c : Nat) : List Room := (s.coresOf c).map fun k => ⟨k, 2048 - 64, 32, []⟩

/-- Whether a core qualifies for a batch. -/
def Room.fits (r : Room) (a : Ask) : Bool :=
  a.regs ≤ r.regs && a.slots ≤ r.slots && a.tiles.all fun x => !r.tiles.contains x

/-- What is left of a room when a batch has taken what it asks. -/
def Room.take (r : Room) (a : Ask) : Room := ⟨r.core, r.regs - a.regs, r.slots - a.slots, r.tiles ++ a.tiles⟩

/-- The core with the most free tray-registers, the lowest number on a tie. -/
def bestRoom : List Room → Option Room
  | [] => none
  | r :: l =>
    match bestRoom l with
    | none => some r
    | some q => some (if r.regs < q.regs then q else r)

/-- Place batches on cores in batch order (R77): the cores, and the room that is left. -/
def fitBatches (l : List Room) : List Ask → Option (List Nat × List Room)
  | [] => some ([], l)
  | a :: r =>
    match bestRoom (l.filter fun x => x.fits a) with
    | none => none
    | some b =>
      let take (x : Room) : Room := if x.core = b.core then x.take a else x
      match fitBatches (l.map take) r with
      | none => none
      | some (cs, l) => some (b.core :: cs, l)

/-- Bytes of scratchpad in a context's bank groups on a die: 2 MiB each. -/
def State.spadTotal (s : State) (c die : Nat) : Nat :=
  2 ^ 21 * ((bitList (s.ctx c).own.banks).filter fun g => g / 32 == die).length

/-- Bytes of a context's scratchpad on a die that cluster regions take. -/
def State.spadUsed (s : State) (c die : Nat) : Nat :=
  (s.clusters.map fun e => if e.2.ctx = c ∧ e.2.die = some die ∧ !e.2.saved then e.2.size else 0).sum

/-- The dies on which a queue's launches may be placed (R236), by the context's presentation mode and the queue's
position. -/
def State.diesFor (s : State) (c qpos : Nat) : List Nat :=
  match (s.ctx c).pmode with
  | 1 => [2 * (qpos % 2), 2 * (qpos % 2) + 1]
  | 2 => [qpos % 4]
  | _ => [0, 1, 2, 3]

/-- A plan for one cluster: die, core of each batch, room left, scratchpad left by die (R77). -/
structure Plan where
  die : Nat
  cores : List Nat
  rooms : List Room
  spad : List Nat
  total : Nat
  deriving DecidableEq, Repr

/-- The plan of a cluster on one die. -/
def planOn (rooms : List Room) (spad : List Nat) (asks : List Ask) (size die : Nat) : Option Plan :=
  let here := rooms.filter fun r => r.core / 256 == die
  match fitBatches here asks with
  | none => none
  | some (cs, l) =>
    if spad.getD die 0 < size then none
    else some ⟨die, cs, (rooms.filter fun r => r.core / 256 != die) ++ l, spad.set die (spad.getD die 0 - size),
      (here.map fun r => if asks.all fun a => r.fits a then r.regs else 0).sum⟩

/-- The plan with the largest total, the first on a tie. -/
def bestPlan : List Plan → Option Plan
  | [] => none
  | p :: l =>
    match bestPlan l with
    | none => some p
    | some q => some (if p.total < q.total then q else p)

/-- The plan of a cluster over the dies it may go to (R77). -/
def planCluster (rooms : List Room) (spad : List Nat) (dies : List Nat) (asks : List Ask) (size : Nat) :
    Option Plan := bestPlan (dies.filterMap fun d => planOn rooms spad asks size d)

/-- Whether n clusters of the same shape all fit at once. -/
def fitsAll (dies : List Nat) (asks : List Ask) (size : Nat) : Nat → List Room → List Nat → Bool
  | 0, _, _ => true
  | n + 1, rooms, spad =>
    match planCluster rooms spad dies asks size with
    | none => false
    | some p => fitsAll dies asks size n p.rooms p.spad

/-- Free scratchpad by die. -/
def State.spadFree (s : State) (c : Nat) : List Nat := (List.range 4).map fun d => s.spadTotal c d - s.spadUsed c d

/-- What a batch asks: what it was launched with, or what its image holds. -/
def Batch.ask (b : Batch) : Ask :=
  if b.image.isEmpty then ⟨b.trays * b.regs, b.trays, []⟩
  else ⟨(b.image.map fun e => e.2.n).sum, b.image.length, b.tiles.map (·.1)⟩

/-- The batches of a cluster that are to be placed. -/
def State.unplaced (s : State) (k : Cluster) : List Nat :=
  k.batches.filter fun b =>
    match s.batches.get? b with
    | some x => x.core.isNone
    | none => false

/-- What the batches ask. -/
def State.asks (s : State) (l : List Nat) : List Ask := l.filterMap fun b => (s.batches.get? b).map Batch.ask

/-- A cluster with its records waiting goes to a die: to its region's, or to the one R77 picks. -/
def State.planOf (s : State) (rooms : List Room) (spad : List Nat) (qpos : Nat) (k : Cluster) : Option Plan :=
  let a := s.asks (s.unplaced k)
  match k.die with
  | some d => planOn rooms spad a 0 d
  | none => planCluster rooms spad (s.diesFor k.ctx qpos) a k.size

-- Starting trays (R35)

/-- A path slot that starts at a word. -/
def Path.start (pc : Pc) (m : Mask) : Path := ⟨pc, m, [], false, .no, none, none, false, false, none⟩

/-- A tray as it starts (R35): the identity words in s3–s7 and the constants in s64–s95. -/
def Tray.start (ctx batch idx core : Nat) (batchId : DWord) (clusterId launchId : Word) (dual : Bool) (n prio age : Nat)
    (consts : List Word) (code : BitVec 48) (launch : Mask) : Tray where
  ctx := ctx
  batch := batch
  idx := idx
  batchId := batchId
  clusterId := clusterId
  launchId := launchId
  dual := dual
  launch := launch
  live := launch
  n := n
  vwin := 0
  p0 := Path.start (code.extractLsb' 2 46) launch
  p1 := none
  sregs := (List.range 32).foldl (fun m i => smSet m (64 + i) (consts.getD i 0))
    ([(3, BitVec.ofNat 32 idx), (4, lo32 batchId), (5, hi32 batchId), (6, clusterId), (7, BitVec.ofNat 32 core)].foldl
      (fun m x => smSet m x.1 x.2) [])
  vregs := []
  fpctl := 0
  fpstat := 0
  chainFl := 0
  cause := 0
  epc := 0
  gangsel := 0
  gbatch := 0
  loads := 0
  stores := 0
  copies := 0
  matrix := 0
  seq := 0
  entryWord := some (code.extractLsb' 2 46)
  pend := []
  nextPend := 0
  obs := []
  stale := false
  wait := .run
  traps := []
  departing := none
  leave := none
  hslot := 0
  redeliver := false
  resumeAt := none
  async := []
  watch := false
  vhold := none
  tret := false
  forced := false
  prio := prio
  age := age
  pix := none

/-- The constant words of a batch: its launch's C0–C31, or with a continuation C0–C29 and the frame pointer (R35, R72). -/
def Batch.consts (b : Batch) (l : List Word) : List Word :=
  match b.cont with
  | none => l
  | some _ => l.take 30 ++ [b.frame.setWidth 32, (b.frame.extractLsb' 32 16).setWidth 32]

/-- The lowest free tray slots of a core. -/
def State.freeSlots (s : State) (core : Nat) : List Nat :=
  (List.range 32).filter fun i => (s.trays.get? (core * 32 + i)).isNone

/-- The placing of a batch on a core: the read-only sectors go where the last batch placed there was of another launch
(R163, R204). A launch is known by its order of acceptance; a batch of none differs from every launch. -/
def State.batchPlaced (s : State) (core lslot : Nat) : State :=
  let mine := (s.launches.get? lslot).map (·.order)
  let same := match s.cores.get? core with
    | some c => c.last.isSome && c.last == mine
    | none => false
  (if same then s else s.l1DropRo core).onCore core fun c => { c with last := mine }

/-- The start or return of a batch on a core is an acquire at the widest scope (R204). -/
def State.batchAcquire (s : State) (core : Nat) : State := (s.hear core).l1Inval core false

/-- The trays of a batch start (R35, R69): a failed input sets COPYERR in tray 0 before it issues, and a batch of
cancelled work receives HALTED (R86). -/
def State.startTrays (s : State) (id : Nat) (b : Batch) (core : Nat) : State :=
  let l := (s.launches.get? b.lslot)
  let consts := b.consts ((l.map (·.consts)).getD [])
  let lid : Word := (l.map fun x => BitVec.ofNat 32 (x.gen.toNat * 65536 + b.lslot)).getD 0
  let cl := ((s.clusters.get? b.cluster).map (·.clusterId)).getD 0
  let slots := s.freeSlots core
  let s := (List.range b.trays).foldl (fun s i =>
    s.setTray (core * 32 + slots.getD i 0) (Tray.start b.ctx id i core b.batchId cl lid b.dual b.regs b.prio b.age consts
      b.code (BitVec.allOnes 96))) s
  let s := { s with batches := s.batches.put id { b with started := true } }
  let s := if b.inErr then
      s.raise (core * 32 + slots.getD 0 0) 0 [.copyerr] (b.code.extractLsb' 2 46) false none
    else s
  if (l.map (·.cancelled)).getD false then
    { s with trays := s.trays.all' fun _ t => if t.batch = id then t.addAsync .halted .cancel else t }
  else s

/-- A saved tray as it returns: it is no longer leaving, and the mark of its departure is not part of the image (R407). -/
def Tray.back (t : Tray) : Tray := { t with leave := none, departing := none, tret := false, forced := false }

-- Placing clusters

/-- The declared inputs of a launch as its table gives them: source address, offset, length in bytes, stride in bytes
(R69), the reserved bits ignored (R4); none where the table cannot be read. -/
def State.inputTable (s : State) (c ptr n : Nat) : Option (List (Nat × Nat × Nat × Nat)) × State :=
  match s.engTake c ptr (16 * n) with
  | (none, s) => (none, s)
  | (some x, s) => (some ((List.range n).map fun k =>
      let e := x / 2 ^ (128 * k)
      (bits e 51 0, bits e 95 64, 256 * bits e 111 96, 256 * bits e 127 112)), s)

/-- Start the input copies of a batch that has been placed, by the table that was read at acceptance (R69, R273). -/
def State.startInputs (s : State) (id : Nat) (b : Batch) (core : Nat) : State :=
  match s.launches.get? b.lslot with
  | none => s
  | some l =>
    if b.started ∨ b.cont.isSome then s
    else
      let u := (s.copyUnit b.ctx core).getD 0
      let c := s.ctx b.ctx
      l.inputs.foldl (fun s x =>
        let k : CopyOp := ⟨true, x.1 + x.2.2.2 * b.batchId.toNat, b.cluster, x.2.1, x.2.2.1, 0, none, some id⟩
        let tag : Tag := ⟨b.ctx, c.gen, core, 0, b.prio, 1, 0, c.step, noVer⟩
        { s with nextId := s.nextId + 1, ops := s.ops ++ [⟨s.nextId, tag, u, id, 0, 0, 1, .copy k, none⟩] }) s

/-- A batch is placed on a core. -/
def State.placeBatch (s : State) (id core : Nat) : State :=
  match s.batches.get? id with
  | none => s
  | some b =>
    let b1 := { b with core := some core, age := s.nextId + 1, loading := !b.image.isEmpty }
    let s := { s with nextId := s.nextId + 1, batches := s.batches.put id b1 }.batchPlaced core b.lslot
    if b.age = 0 then s.startInputs id b1 core else s

/-- A saved region's bytes as the save area holds them (R394, R407); bytes that cannot be read stay as they were. -/
def State.regionBack (s : State) (k : Cluster) : SMap 8 :=
  match k.saved, k.area with
  | true, some (o, n) =>
    match s.upRd k.ctx ((s.ctx k.ctx).savebase.toNat + o + 32) (n - 32) with
    | some bs => smFill [] 0 bs.length fun i => bs.getD i 0
    | none => k.scr
  | _, _ => k.scr

/-- A cluster is placed by a plan: it leaves the ready queue. -/
def State.placeCluster (s : State) (id : Nat) (p : Plan) : State :=
  match s.clusters.get? id with
  | none => s
  | some k =>
    let l := s.unplaced k
    let s := { s with ready := s.ready.filter (· != id),
                      clusters := s.clusters.put id { k with die := some p.die, scr := s.regionBack k, saved := false, area := none } }
    (l.zip p.cores).foldl (fun s x => s.placeBatch x.1 x.2) s

/-- The queue position and the state of a launch that a cluster belongs to. -/
def State.launchOf (s : State) (k : Cluster) : Option Launch := s.launches.get? k.lslot

/-- The position of the queue a cluster's launch came from. -/
def State.qposOf (s : State) (k : Cluster) : Nat :=
  match s.launchOf k with
  | some l => l.qpos
  | none => 0

/-- The phase that is current in a job of a context (R65): of its phases that are not complete, the one named first. -/
def State.currentPhase (s : State) (c job : Nat) : Option Nat :=
  let l := s.hier.filter fun e => e.ctx == c && e.level == 2 && !e.complete && e.up == (3, job)
  (l.foldl (fun (a : Option HEntry) e =>
    match a with
    | some x => if e.order < x.order then some e else some x
    | none => some e) none).map (·.ident)

/-- A launch is held back until its phase is current (R65). -/
def State.phaseHeld (s : State) (l : Launch) : Bool :=
  l.job != 0 && l.phase != 0 &&
  match s.currentPhase l.ctx l.job with
  | some p => p != l.phase
  | none => false

/-- The clusters of a launch with batches waiting. -/
def State.waitingOf (s : State) (lslot : Nat) : List Nat :=
  s.ready.filter fun k => ((s.clusters.get? k).map fun x => x.lslot == lslot).getD false

/-- Whether a batch is leaving its core. -/
def State.isLeaving (s : State) (id : Nat) : Bool := s.trays.any fun e => e.2.batch == id && e.2.leave.isSome

/-- The batches that are placed and evicted together with a cluster's: its own, or those of its cooperative launch. -/
def State.together (s : State) (k : Cluster) : List Nat :=
  if k.coop then (s.clusters.filter fun e => e.2.coop && e.2.ctx == k.ctx && e.2.lslot == k.lslot).flatMap fun e => e.2.batches
  else k.batches

/-- A cluster holds a continuation batch, which has no declared inputs (R72). -/
def State.isCont (s : State) (k : Cluster) : Bool := k.batches.any fun b => ((s.batches.get? b).bind (·.cont)).isSome

/-- Whether a ready cluster may be considered at all (R65, R69, R83, R390); not while a batch that is to be placed with it
is still leaving its core (R150). -/
def State.eligible (s : State) (k : Cluster) : Bool :=
  (s.ctx k.ctx).st == .running && (s.ctx k.ctx).revoking == 0 && !(s.together k).any s.isLeaving &&
  match s.launchOf k with
  | none => true
  | some l => l.window.isNone && !s.phaseHeld l && (l.ninp == 0 || s.isCont k || (s.ctx k.ctx).own.copy != 0)

/-- A cooperative launch that waits holds back the context's less urgent and equally urgent work (R77); of several, the
one accepted first goes first. -/
def State.coopBlocks (s : State) (k : Cluster) : Bool :=
  s.ready.any fun i =>
    match s.clusters.get? i with
    | none => false
    | some x => x.coop && x.ctx == k.ctx && x.lslot != k.lslot && x.prio ≤ k.prio && s.eligible x &&
        (!k.coop || ((s.launchOf x).map (·.order)).getD 0 < ((s.launchOf k).map (·.order)).getD 0)

/-- The plans that place a record (R77): its cluster alone, or for a cooperative launch all its clusters at once. -/
def State.plansFor (s : State) (id : Nat) (k : Cluster) : Option (List (Nat × Plan)) :=
  let l := s.launchOf k
  let qpos := s.qposOf k
  let rooms := s.roomsNow k.ctx
  let spad := s.spadFree k.ctx
  if !k.coop then (s.planOf rooms spad qpos k).map fun p => [(id, p)]
  else if (l.map fun x => decide (x.expanded < x.nbatch)).getD false then none
  else
    ((s.waitingOf k.lslot).foldl (fun (a : Option (List (Nat × Plan) × List Room × List Nat)) i =>
      match a, s.clusters.get? i with
      | some (ps, rooms, spad), some x =>
        match s.planOf rooms spad qpos x with
        | some p => some (ps ++ [(i, p)], p.rooms, p.spad)
        | none => none
      | _, _ => none) (some ([], rooms, spad))).map (·.1)

/-- Whether the plan of a record lies with a die's dispatcher slice: the die of its first cluster. -/
def plansDie (l : List (Nat × Plan)) : Option Nat := l.head?.map fun x => x.2.die

/-- The first record of a priority that a die's slice can place (R76). -/
def State.placeable (s : State) (die prio : Nat) : Option (List (Nat × Plan)) :=
  s.ready.findSome? fun id =>
    match s.clusters.get? id with
    | none => none
    | some k =>
      if k.prio != prio || !s.eligible k || s.coopBlocks k then none
      else match s.plansFor id k with
        | some ps => if plansDie ps = some die then some ps else none
        | none => none

-- Partial eviction (R78, R298)

/-- Placed batches that have no tray yet go back to their queues (R78, R407). -/
def State.unplace (s : State) (p : Nat → Batch → Bool) : State :=
  let l := s.batches.filter fun e => e.2.core.isSome && (!e.2.started || e.2.loading) && p e.1 e.2
  l.foldl (fun s e =>
    { s with
      batches := s.batches.upd e.1 fun b => { b with core := none, loading := false },
      ready := if e.2.pixel then s.ready else e.2.cluster :: s.ready.filter (· != e.2.cluster) }) s

/-- A batch is evicted: its trays leave to be saved, and it leaves its core when all have; a batch without a tray yet goes
back at once. -/
def State.evictBatch (s : State) (id : Nat) : State :=
  let go (t : Tray) : Tray :=
    if t.batch = id ∧ t.leave.isNone ∧ t.wait ≠ .ended then { t with leave := some .evict } else t
  ({ s with trays := s.trays.all' fun _ t => go t }).unplace fun i _ => i == id

/-- A batch belongs to a cluster of one and to no cooperative launch (R78): as it was launched, whatever of its cluster has
completed. -/
def State.alone (s : State) (b : Batch) : Bool :=
  match s.clusters.get? b.cluster with
  | none => false
  | some k => !k.coop && (b.cont.isSome || match s.launches.get? b.lslot with
    | some l => l.clsc == 0
    | none => k.batches.length == 1)

/-- The batches that partial eviction may take from a core for work of a priority, youngest first (R78). -/
def State.evictable (s : State) (core prio : Nat) : List (Nat × Batch) :=
  let l := s.batches.filter fun e =>
    e.2.core == some core && e.2.started && !e.2.loading && prio < e.2.prio && !e.2.pixel && !s.isLeaving e.1 &&
    s.alone e.2
  l.foldl (fun (acc : List (Nat × Batch)) e =>
    acc.filter (fun x => e.2.age < x.2.age) ++ [e] ++ acc.filter fun x => !(e.2.age < x.2.age)) []

/-- The batches to evict from a core, youngest first, until a batch fits; none where it would not fit even so. -/
def evictions (a : Ask) (s : State) (core : Nat) : List (Nat × Batch) → Nat → Nat → List Nat → List Nat →
    Option (List Nat)
  | l, regs, slots, gone, acc =>
    let tiles := (s.tilesOn core).all fun x => !a.tiles.contains x.1 || gone.contains x.2
    if a.regs ≤ regs && a.slots ≤ slots && tiles then some acc
    else match l with
      | [] => none
      | e :: r =>
        let mine := s.trays.filter fun t => t.2.batch == e.1
        evictions a s core r (regs + (mine.map fun t => t.2.n).sum) (slots + mine.length) (e.1 :: gone) (acc ++ [e.1])

/-- The batches whose eviction makes room on one core of a die for a record of one batch, where enough strictly less urgent
work is there (R78); the empty list where what is already leaving makes the room. -/
def State.makeRoom (s : State) (die : Nat) (k : Cluster) : Option (List Nat) :=
  match s.unplaced k, s.asks (s.unplaced k) with
  | [_], [a] =>
    let dies := match k.die with
      | some d => [d]
      | none => s.diesFor k.ctx (s.qposOf k)
    if !dies.contains die || (k.die.isNone && (s.spadFree k.ctx).getD die 0 < k.size) then none
    else
      let rooms := (s.roomsNow k.ctx).filter fun r => r.core / 256 == die
      rooms.findSome? fun r =>
        let out := s.trays.filter fun t => t.1 / 32 == r.core && t.2.leave.isSome
        evictions a s r.core (s.evictable r.core k.prio) (r.regs + (out.map fun t => t.2.n).sum) (r.slots + out.length)
          (out.map fun t => t.2.batch) []
  | _, _ => none

/-- Make room on a die for the most urgent ready record that cannot be placed and for which room can be made, the oldest of
a priority first (R78). -/
def State.makeRooms (s : State) (die : Nat) : State :=
  let one (p : Nat) : Option (List Nat) := s.ready.findSome? fun id =>
    match s.clusters.get? id with
    | some k =>
      if k.prio == p && s.eligible k && !s.coopBlocks k && !k.coop && (s.plansFor id k).isNone then s.makeRoom die k else none
    | none => none
  match [0, 1, 2, 3].findSome? one with
  | some l => l.foldl (fun s b => s.evictBatch b) s
  | none => s

/-- The grants left to each priority in a slice's rotation (R76). -/
def State.creditsOf (s : State) (die : Nat) : List Nat :=
  let w := if s.fw.weights.isEmpty then [8, 4, 2, 1] else s.fw.weights
  match s.credits.get? die with
  | some l => if l.all (· == 0) then w else l
  | none => w

/-- BATCH_PLACE (R76–R78): a die's slice places a ready record. Among the priorities that have one it can place, the most
urgent with grants left in the rotation wins. Then it makes room for one that cannot be placed. -/
def execBatchPlace (die : Nat) (s : State) : Host.Outcome State Fault Refusal :=
  .next (State.makeRooms (
    let can := [0, 1, 2, 3].filter fun p => (s.placeable die p).isSome
    let cr := s.creditsOf die
    let w := if s.fw.weights.isEmpty then [8, 4, 2, 1] else s.fw.weights
    let pick := match can.find? fun p => 0 < cr.getD p 0 with
      | some p => some (p, cr)
      | none => can.head?.map fun p => (p, w)
    match pick with
    | some (p, cr) =>
      match s.placeable die p with
      | none => s
      | some l =>
        l.foldl (fun s x => s.placeCluster x.1 x.2)
          { s with credits := s.credits.put die (cr.set p (cr.getD p 0 - 1)) }
    | none => s) die)

end Sys2Proof.Machine
end

