-- ==== Sys2Proof/Machine/Stack.lean ====
section
/-!
DEFINITION. The stack engines: major 0x2F and the completion of its operations (R301–R310).
-/

namespace Sys2Proof.Machine

/-- The engine that coordinates a command from a core (R301): the lowest the context holds on the die, else the lowest
it holds. Stack engine k lies on die k ÷ 3 (Table 1.2). -/
def State.stackUnit (s : State) (c core : Nat) : Option Nat :=
  let own := (s.ctx c).own.stack
  match (List.range' (core / 256 * 3) 3).find? fun u => own.getLsbD u with
  | some u => some u
  | none => (List.range 12).find? fun u => own.getLsbD u

/-- The second quad of an HGATH, HRED or HCVT. -/
def Src.quadB (r : Src) (b : SB) : DWord × DWord :=
  (pair (r.sq b 0) (r.sq b 1), pair (r.sq b 2) (r.sq b 3))

/-- Addresses and the multiple each must be (R304): the cause of the first check that fails. -/
def addrCauses (l : List (Nat × Nat)) : List Cause :=
  if l.any fun x => 2 ^ 52 ≤ x.1 then [.page]
  else if l.any fun x => x.1 % x.2 != 0 then [.align]
  else []

/-- The shared form of HGATH, HRED and HCVT: legality, CAP, addresses, then the command (R301, R304). -/
def stackOp (i : Instr) (s : State) (f : Src → Option (List (Nat × Nat) × StackOp)) : Host.Outcome State Fault Refusal :=
  engine i.opnds s fun r t s =>
    match f r with
    | none => .early .illegal
    | some (addrs, k) =>
      match s.stackUnit t.ctx (r.key / 32) with
      | none => .early .cap
      | some u =>
        match addrCauses addrs with
        | [] =>
          if r.t.ctrFull .copies then .stay
          else
            let (t, s) := r.send t s 4 u noVer (some .copies) [] [] (.stack k)
            .ok t s
        | cs => .trap t s cs

/-- Counts run from 1 to 16,777,216 (R305–R307). -/
def countOk (n : Nat) : Bool := 1 ≤ n && n ≤ 16777216

/-- HGATH (R305). -/
def execHgath (a : BitVec 7) (b : SB) (s : State) : Host.Outcome State Fault Refusal :=
  stackOp (.hgath a b) s fun r =>
    let t := (r.s2 a).toNat
    let n := (r.sn a 2).toNat
    let w := (r.sn a 3).toNat
    let es := w % 8
    let x := (r.quadB b).1.toNat
    let y := (r.quadB b).2.toNat
    if 16 ≤ w || 5 < es || !countOk n then none
    else some ([(t, 2 ^ es), (x, if w / 8 = 1 then 8 else 4), (y, 2 ^ es)], .gath t n x y es (w / 8 == 1) 0 [])

/-- Bytes of an element of an HRED type (Table 13.3). -/
def redSize (typ : Nat) : Nat := if typ % 2 = 0 then 4 else 8

/-- HRED (R306). -/
def execHred (a : BitVec 7) (b : SB) (s : State) : Host.Outcome State Fault Refusal :=
  stackOp (.hred a b) s fun r =>
    let src := (r.s2 a).toNat
    let n := (r.sn a 2).toNat
    let w := (r.sn a 3).toNat
    let typ := w % 4
    let op := w / 4 % 8
    let y := (r.quadB b).1.toNat
    let rows := (r.sq b 2).toNat
    let mode1 := w / 32 == 1
    if 64 ≤ w || 5 < op || (2 < op && 2 ≤ typ) || !countOk n || rows == 0 || (if mode1 then 65536 else 1) < rows ||
        r.sq b 3 != 0 then none
    else some ([(src, redSize typ), (y, redSize typ)],
      if mode1 then .red src n y rows typ op else .red src 1 y n typ op)

/-- Bits of the source and destination elements of an HCVT code, whether it rounds and whether it has a SAT bit
(Table 13.4). -/
def cvtShape (code : Nat) : Nat × Nat × Bool :=
  match code with
  | 0 => (64, 32, true)
  | 1 => (32, 64, false)
  | 2 | 4 => (32, 16, true)
  | 3 | 5 => (16, 32, false)
  | 6 | 7 => (32, 8, true)
  | 8 => (32, 4, true)
  | 9 | 10 => (8, 32, false)
  | _ => (4, 32, false)

/-- HCVT (R307). -/
def execHcvt (a : BitVec 7) (b : SB) (s : State) : Host.Outcome State Fault Refusal :=
  stackOp (.hcvt a b) s fun r =>
    let src := (r.s2 a).toNat
    let n := (r.sn a 2).toNat
    let w := (r.sn a 3).toNat
    let code := w % 16
    let rm := w / 16 % 4
    let sat := w / 64 == 1
    let y := (r.quadB b).1.toNat
    let z := (r.quadB b).2.toNat
    let (sb, db, rounds) := cvtShape code
    if 128 ≤ w || 11 < code || rm == 3 || (!rounds && (rm != 0 || sat)) || !countOk n ||
        (if code < 6 then z != 0 else n % 32 != 0) then none
    else some ([(src, max (sb / 8) 1), (y, max (db / 8) 1), (z, 1)], .cvt src n y z code rm sat 0 [])

/-- The number of a context's operations that stack engine k holds, queued or running (R308). -/
def State.stackHeld (s : State) (c k : Nat) : Nat :=
  (s.ops.filter fun o => o.tag.ctx == c && o.tag.eng == 4 && o.unit == k && o.phase != 0 &&
    match o.body with
    | .stack _ => true
    | _ => false).length

/-- A count that HQRY reads (R308). -/
def State.stackCount (s : State) (c k j : Nat) : Word := smGet s.stackCounts ((16 * c + k) * 4 + j)

/-- HQRY (R308). -/
def execHqry (d : BitVec 7) (b : SB) (s : State) : Host.Outcome State Fault Refusal :=
  engine (Instr.hqry d b).opnds s fun r t s =>
    let k := (r.sb b).toNat
    let c := t.ctx
    if 11 < k then .early .illegal
    else match s.stackUnit c (r.key / 32) with
      | none => .early .cap
      | some u =>
        if r.t.ctrFull .loads then .stay
        else
          let (t, s) := r.ask t s 4 u (List.range' d.toNat 4) [] (.hqry d.toNat k)
          .ok t s

/-- HQRY as performed (R308). -/
def State.hqryGo (s : State) (o : Op) (d k : Nat) : State :=
  let n (j : Nat) : Word := s.stackCount o.tag.ctx k j
  s.opAnswer o (quadData d [BitVec.ofNat 32 (s.stackHeld o.tag.ctx k), n 0, n 1, n 2])

-- Performing operations

/-- Every byte an operation touches lies in local memory (R302). -/
def State.stackLocal (s : State) (o : Op) (va n : Nat) (need : Need) : Except XFault Unit :=
  (pieces va n).foldlM (fun _ p => do
    match ← s.locateWalk o.tag.ctx p.1 need with
    | .mem x => if 2 ^ 40 ≤ x.pa then xerr .nomem o.tag.ctx p.1 x.leaf else pure ()
    | _ => xerr .nomem o.tag.ctx p.1) ()

/-- A read of a stack engine (R302, R309). -/
def State.stackRd (s : State) (o : Op) (va n : Nat) : Except XFault (State × List EByte) := do
  s.stackLocal o va n needR
  s.opRd o va n

/-- What stops a write of a stack engine, before any of it (R302, R309). -/
def State.stackReady (s : State) (o : Op) (va n : Nat) : State × Option XFault :=
  match s.stackLocal o va n needW with
  | .error e => (s, some e)
  | .ok _ => s.engReady o.tag.ctx va n o.tag.step

/-- How a step of a stack operation ends: none, or the fault it met and whether a write met it (Table 9.6). -/
abbrev StepEnd := Option (Bool × XFault)

/-- A write of a stack engine: all of it, or nothing (R302, R309). -/
def State.stackWr (s : State) (o : Op) (va : Nat) (d : List EByte) : State × StepEnd :=
  match s.stackLocal o va d.length needW with
  | .error e => (s, some (true, e))
  | .ok _ =>
    let (s, e) := s.opWr o va d
    (s, e.map fun f => (true, f))

/-- The number bytes hold. -/
def eNat (d : List EByte) : Nat := natOf (d.map (·.1))

/-- Whether any byte is poisoned. -/
def ePoison (d : List EByte) : Bool := d.any (·.2)

/-- n bytes of a number, all poisoned or none. -/
def eBytes (n v : Nat) (p : Bool) : List EByte := (bytesOf n v).map fun b => (b, p)

/-- Add to a count that HQRY reads. -/
def State.stackAdd (s : State) (o : Op) (j n : Nat) : State :=
  let k := (16 * o.tag.ctx + o.unit) * 4 + j
  { s with stackCounts := smSet s.stackCounts k (smGet s.stackCounts k + BitVec.ofNat 32 n) }

/-- The poisoned sectors among bytes read from an address. -/
def poisonedOf (va : Nat) (d : List EByte) : List Nat :=
  ((pieces va d.length).filter fun p => ePoison ((d.drop (p.1 - va)).take p.2)).map fun p => p.1 / 64

/-- Poisoned source sectors that an operation meets count in s(d+3) of HQRY, each once in an operation (R308); `met` are
those it has met before. -/
def State.poisonMet (s : State) (o : Op) (met new : List Nat) : State × List Nat :=
  let l := (new.filter fun x => !met.contains x).eraseDups
  (s.stackAdd o 2 l.length, met ++ l)

/-- One element of HGATH (R305). -/
def State.gathStep (s : State) (o : Op) (t x y es : Nat) (wide : Bool) (met : List Nat) (i : Nat) :
    (State × List Nat) × StepEnd :=
  let e := 2 ^ es
  let iw := if wide then 8 else 4
  match (do
    let (s, k) ← s.stackRd o (x + iw * i) iw
    let at' := (t + eNat k * e) % 2 ^ 64
    let (s, d) ← s.stackRd o at' e
    pure (s, d.map fun (b : EByte) => (b.1, b.2 || ePoison k), poisonedOf (x + iw * i) k ++ poisonedOf at' d)) with
  | .error f => ((s, met), some (false, f))
  | .ok (s, d, bad) =>
    match s.stackWr o (y + e * i) d with
    | (s, some f) => ((s, met), some f)
    | (s, none) => (s.poisonMet o met bad, none)

/-- The exact sum of values rounded once to nearest even (R155, R306). -/
def exactAdd (f : Fmt) (xs : List FVal) : Nat :=
  let inf (s : Bool) : Bool := xs.any fun x => x == .inf s
  if xs.any FVal.isNan || (inf true && inf false) then f.qnan
  else if inf true then f.signed true (f.inf.getD 0)
  else if inf false then f.inf.getD 0
  else
    let lo := minExp xs
    let n := exactSum xs lo
    if n = 0 then f.signed (zeroSumSign .rne xs) 0 else (f.result .rne false (n < 0) n.natAbs lo).1

/-- A reduction of element patterns (R306). -/
def redValue (typ op : Nat) (xs : List Nat) : Nat :=
  let f := if typ = 2 then fmtF32 else fmtF64
  match xs with
  | [] => 0
  | x :: r =>
    if typ < 2 then r.foldl (fun a y => atomNew op (typ + 2) a y 0) x
    else if op = 0 then exactAdd f (xs.map f.val)
    else r.foldl (fun a y => (f.minMax (op == 2) (f.val a) (f.val y)).1) (f.pattern (f.val x))

/-- HRED (R306): every result, then one write. -/
def State.redGo (s : State) (o : Op) (src n y rows typ op : Nat) : State × StepEnd :=
  let z := redSize typ
  match s.stackRd o src (z * n * rows) with
  | .error e => (s, some (false, e))
  | .ok (s, d) =>
    let elems := (List.range (n * rows)).map fun i => (d.drop (z * i)).take z
    let out := (List.range n).flatMap fun j =>
      let col := (List.range rows).map fun k => elems.getD (k * n + j) []
      eBytes z (redValue typ op (col.map eNat)) (col.any ePoison)
    match s.stackWr o y out with
    | (s, some e) => (s, some e)
    | (s, none) => ((s.poisonMet o [] (poisonedOf src d)).1, none)

/-- The rounding mode of an HCVT control word. -/
def hcvtRm (rm : Nat) : RM := if rm = 0 then .rne else if rm = 1 then .rz else .rna

/-- One element of HCVT codes 0 to 5 (Table 13.4). -/
def cvtElem (code : Nat) (rm : RM) (sat : Bool) (x : Nat) : Nat :=
  match code with
  | 0 => (fmtF32.narrow rm sat (fmtF64.val x)).1
  | 1 => (fmtF64.convert .rne (fmtF32.val x)).1
  | 2 => (fmtBF16.narrow rm sat (fmtF32.val x)).1
  | 3 => (fmtF32.convert .rne (fmtBF16.val x)).1
  | 4 => (fmtF16.narrow rm sat (fmtF32.val x)).1
  | _ => (fmtF32.convert .rne (fmtF16.val x)).1

/-- The element format of a code with scales, and its largest exponent (R105). -/
def mxFmt (code : Nat) : QFmt × Int :=
  match (code - 6) % 3 with
  | 0 => (.e4m3, 8)
  | 1 => (.e5m2, 15)
  | _ => (.e2m1, 2)

/-- Numbers of n bits each as one, the first least significant (R91). -/
def packBits (n : Nat) (l : List Nat) : Nat := l.foldr (fun x a => x % 2 ^ n + 2 ^ n * a) 0

/-- The elements of n bits of a number. -/
def unpackBits (n k x : Nat) : List Nat := (List.range k).map fun i => x / 2 ^ (n * i) % 2 ^ n

/-- One element of HCVT, or one block of 32 for a code with scales, beginning at element i (R307). -/
def State.cvtStep (s : State) (o : Op) (src y z code : Nat) (rm : RM) (sat : Bool) (met : List Nat) (i : Nat) :
    (State × List Nat) × StepEnd :=
  let (sb, db, _) := cvtShape code
  let k := if code < 6 then 1 else 32
  let va := src + sb * i / 8
  match s.stackRd o va (sb * k / 8) with
  | .error e => ((s, met), some (false, e))
  | .ok (s, d) =>
    let done (s : State) (bad : List Nat) : (State × List Nat) × StepEnd :=
      (s.poisonMet o met (poisonedOf va d ++ bad), none)
    let put (s : State) (v : Nat) (p : Bool) : State × StepEnd :=
      s.stackWr o (y + db * i / 8) (eBytes (db * k / 8) v p)
    if code < 6 then
      match put s (cvtElem code rm sat (eNat d)) (ePoison d) with
      | (s, some e) => ((s, met), some e)
      | (s, none) => done s []
    else if code < 9 then
      let (q, emax) := mxFmt code
      let xs := (unpackBits 32 32 (eNat d)).map fmtF32.val
      let sc := (rowScale emax xs).1
      match s.stackReady o (z + i / 32) 1 with
      | (s, some e) => ((s, met), some (true, e))
      | (s, none) =>
        match put s (packBits db (xs.map fun x => (quantise q rm sat true sc x).1)) (ePoison d) with
        | (s, some e) => ((s, met), some e)
        | (s, none) =>
          match s.stackWr o (z + i / 32) (eBytes 1 sc (ePoison d)) with
          | (s, some e) => ((s, met), some e)
          | (s, none) => done s []
    else
      match s.stackRd o (z + i / 32) 1 with
      | .error e => ((s, met), some (false, e))
      | .ok (s, b) =>
        let q := (mxFmt code).1
        let v := packBits 32 ((unpackBits sb 32 (eNat d)).map fun x =>
          (dequant .rne false (eNat b) (q.fmt.val x)).1)
        match put s v (ePoison d || ePoison b) with
        | (s, some e) => ((s, met), some e)
        | (s, none) => done s (poisonedOf (z + i / 32) b)

/-- Units of an operation from element i on, `k` elements each, until it ends or one faults; `f` bounds the units. -/
def unitsRun (step : State → List Nat → Nat → (State × List Nat) × StepEnd) (n k : Nat) :
    Nat → State → List Nat → Nat → State × List Nat × Nat × StepEnd
  | 0, s, met, i => (s, met, i, none)
  | f + 1, s, met, i =>
    if n ≤ i then (s, met, i, none)
    else match step s met i with
      | ((s, met), some e) => (s, met, i, some e)
      | ((s, met), none) => unitsRun step n k f s met (i + k)

/-- An operation goes on until it completes or meets a fault. -/
def State.stackRun (s : State) (o : Op) : StackOp → State × StackOp × StepEnd
  | .gath t n x y es wide done met =>
    let (s, met, i, e) := unitsRun (fun s => s.gathStep o t x y es wide) n 1 (n + 1) s met done
    (s, .gath t n x y es wide i met, e)
  | .red src n y rows typ op =>
    let (s, e) := s.redGo o src n y rows typ op
    (s, .red src n y rows typ op, e)
  | .cvt src n y z code rm sat done met =>
    let (s, met, i, e) := unitsRun (fun s => s.cvtStep o src y z code (hcvtRm rm) sat) n (if code < 6 then 1 else 32)
      (n + 1) s met done
    (s, .cvt src n y z code rm sat i met, e)

/-- The elements an operation has written. -/
def StackOp.written : StackOp → Nat
  | .gath _ _ _ _ _ _ d _ => d
  | .red _ _ _ _ _ _ => 0
  | .cvt _ _ _ _ _ _ _ d _ => d

/-- STACK_OP_COMPLETE (R309): an accepted operation runs to its end; a replayable fault parks it. -/
def execStackOpComplete (op : Nat) (s : State) : Host.Outcome State Fault Refusal :=
  .next (match s.op? op with
    | none => s
    | some o =>
      if o.phase = 0 ∨ o.park.isSome then s
      else match o.body with
        | .stack k =>
          let (s, k, e) := s.stackRun o k
          match e with
          | none => (s.stackAdd o 0 1).opDone o [] none true
          | some (wr, f) =>
            let s := s.onOp o.id fun o => { o with body := .stack k }
            match s.opFault o f wr 16 with
            | (true, s) => s
            | (false, s) => ((s.stackAdd o 0 1).stackAdd o 1 1).opDone o [] (some (.copies, .copyerr)) true
        | _ => s)

end Sys2Proof.Machine
end

