-- ==== Sys2Proof/Machine/Collective.lean ====
section
/-!
DEFINITION. The collective engine, sending side: trigger counters, the posted-operation table, major 0x30, and the
units that leave and are answered (R311, R314–R321, R325–R331, R333–R335, R431).
-/

namespace Sys2Proof.Machine

-- Trigger counters (R315)

/-- A trigger counter. -/
def State.trig (s : State) (k : Nat) : Trig := (s.trigs.get? k).getD ⟨0, 0, 0⟩

/-- Change a trigger counter. -/
def State.onTrig (s : State) (k : Nat) (f : Trig → Trig) : State := { s with trigs := s.trigs.put k (f (s.trig k)) }

/-- A counter's value has reached a threshold (R315). -/
def reached (v t : Word) : Bool := (v - t).toNat < 2 ^ 31

/-- A counter ends a wait for a threshold (R327). -/
def State.trigReady (s : State) (k : Nat) (t : Word) : Bool := reached (s.trig k).value t || (s.trig k).err != 0

/-- The cause that a counter's ERRKIND names (R327). -/
def Trig.cause (t : Trig) : Cause := if t.kind = 1 then .remote else if t.kind = 2 then .timeout else .copyerr

/-- An error completion (R315). -/
def State.trigErr (s : State) (k kind : Nat) : State :=
  s.onTrig k fun t => { t with err := min 65535 (t.err + 1), kind := kind }

-- The posted-operation table (R316)

/-- The handle of an entry (R316). -/
def postHandle (gen : BitVec 16) (idx : Nat) : Word := BitVec.ofNat 32 (gen.toNat * 65536 + idx)

/-- The entry a handle names: its index, where the handle is not stale. -/
def State.byPostHandle (s : State) (h : Word) : Option (Nat × Posted) :=
  match s.posted.get? (h.toNat % 16384) with
  | none => none
  | some e => if postHandle e.gen (h.toNat % 16384) = h then some (h.toNat % 16384, e) else none

/-- Change an entry. -/
def State.onPost (s : State) (idx : Nat) (f : Posted → Posted) : State := { s with posted := s.posted.upd idx f }

/-- An entry becomes free: its generation advances, skipping 0xFFFF (R316). -/
def State.postFree (s : State) (idx : Nat) : State :=
  let g := smGet s.postedGen idx
  { s with posted := s.posted.del idx, postedGen := smSet s.postedGen idx (if g = 0xFFFE then 0 else g + 1) }

/-- The operation of a firing entry. -/
def State.postOp (s : State) (idx : Nat) : Option Op := s.ops.find? fun o => o.body == .post idx

-- Transfers and units (R311, R325)

/-- Source bytes that one unit of a wire form carries: whole blocks of 32 elements in at most 256 bytes (R311, R325). -/
def unitSpan (cmp : Nat) : Nat := if cmp = 0 then 256 else if cmp = 3 then 1920 else 896

/-- The units of a transfer. -/
def unitCount (cmp len : Nat) : Nat := (len + unitSpan cmp - 1) / unitSpan cmp

/-- Whether every unit of a transfer has been sent and answered (R431). -/
def PostPart.over (p : PostPart) (cmp : Nat) : Bool := unitCount cmp p.len ≤ p.next && p.sent.isEmpty

/-- The memory ranges of n bytes of a face from byte `off` of its packed form; the first argument bounds the rows
(R329). -/
def PostPart.runs (p : PostPart) : Nat → Nat → Nat → List (Nat × Nat)
  | 0, _, _ => []
  | f + 1, off, n =>
    if n = 0 then []
    else
      let row := p.nx * 2 ^ p.es
      let q := off / row
      let m := min n (row - off % row)
      (p.base + off % row + q % p.ny * p.rowp + q / p.ny * p.planep, m) :: PostPart.runs p f (off + m) (n - m)

/-- Read n bytes of a face. -/
def State.faceRead (s : State) (o : Op) (p : PostPart) (off n : Nat) : Except XFault (State × List EByte) :=
  (p.runs (n + 1) off n).foldlM (fun (acc : State × List EByte) r => do
    let (s, d) ← acc.1.opRd o r.1 r.2
    pure (s, acc.2 ++ d)) (s, [])

/-- A block of up to 128 source bytes in wire form: its scale, then 32 elements (R325). -/
def packBlock (cmp : Nat) (sat : Bool) (d : List EByte) : List EByte :=
  let (q, emax) := mxFmt (cmp + 5)
  let n := if cmp = 3 then 4 else 8
  let xs := (unpackBits 32 32 (eNat d)).map fmtF32.val
  let sc := (rowScale emax xs).1
  eBytes 1 sc (ePoison d) ++ eBytes (4 * n) (packBits n (xs.map fun x => (quantise q .rne sat true sc x).1)) (ePoison d)

/-- The wire form of a unit's source bytes (R325). -/
def packWire (cmp : Nat) (sat : Bool) (d : List EByte) : List EByte :=
  if cmp = 0 then d
  else (List.range ((d.length + 127) / 128)).flatMap fun i => packBlock cmp sat ((d.drop (128 * i)).take 128)

/-- A block of the wire form expanded to FP32 (R325). -/
def expandBlock (cmp : Nat) (d : List EByte) : List EByte :=
  let q := (mxFmt (cmp + 5)).1
  let n := if cmp = 3 then 4 else 8
  let sc := eNat (d.take 1)
  eBytes 128 (packBits 32 ((unpackBits n 32 (eNat (d.drop 1))).map fun x => (dequant .rne false sc (q.fmt.val x)).1))
    (ePoison d)

/-- A unit's bytes at the target, without padding (R325). -/
def expandWire (cmp len unit : Nat) (d : List EByte) : List EByte :=
  let b := if cmp = 3 then 17 else 33
  let x := if cmp = 0 then d
    else (List.range ((d.length + b - 1) / b)).flatMap fun i => expandBlock cmp ((d.drop (b * i)).take b)
  x.take (len - unitSpan cmp * unit)

-- Ports (R311, R314, R333)

/-- The live ports of a context. -/
def State.livePorts (s : State) (c : Nat) : List Nat := bitList ((s.ctx c).own.ual &&& ~~~s.portsDown)

/-- Units of a port that are unanswered: its replay window holds 512 (R333). -/
def State.portLoad (s : State) (port : Nat) : Nat :=
  (s.posted.map fun e => (e.2.parts.map fun p => (p.sent.filter fun u => u.2.1 == port).length).sum).sum

/-- The port that a context's next unit takes, in rotation: none where every live port's window is full, 17 where it has
no live port. -/
def State.nextPort (s : State) (c : Nat) : Option Nat :=
  match s.livePorts c with
  | [] => some 17
  | l =>
    let l := l.filter fun p => s.portLoad p < 512
    match l.find? fun p => (s.ctx c).uaNext ≤ p with
    | some p => some p
    | none => l.head?

/-- A unit leaves on a port, or takes the loopback (R311, R313). -/
def State.putUnit (s : State) (c port : Nat) (u : UaUnit) : State :=
  if port = 16 then { s with podLoop := s.podLoop ++ [u] }
  else if port = 17 then s
  else { s.onCtx c fun t => { t with uaNext := port + 1 } with podOut := s.podOut ++ [.unit port u] }

/-- Whether a transfer of a context's entry has a unit to send and a port that takes it (R333). -/
def State.partCan (s : State) (c cmp : Nat) (p : PostPart) : Bool :=
  p.next < unitCount cmp p.len && (p.tgt == s.podIdx || (s.nextPort c).isSome)

-- Firing (R316, R321)

/-- Change a transfer of an entry. -/
def Posted.onPart (e : Posted) (k : Nat) (f : PostPart → PostPart) : Posted :=
  { e with parts := (List.range e.parts.length).filterMap fun i =>
      (e.parts[i]?).map fun p => if i = k then f p else p }

/-- The first error of a transfer advances its counter's ERRCNT, once (R431). -/
def State.partErr (s : State) (idx k kind : Nat) : State :=
  match (s.posted.get? idx).bind fun e => (e.parts[k]?).map fun p => (e, p) with
  | none => s
  | some (e, p) =>
    if p.err != 0 then s else (s.onPost idx fun e => e.onPart k fun p => { p with err := kind }).trigErr e.cnt kind

/-- The unit a transfer sends next. -/
def Posted.unit (e : Posted) (s : State) (idx k : Nat) (p : PostPart) (wire : List EByte) : UaUnit :=
  ⟨s.podIdx, p.tgt, postHandle e.gen idx, k, p.next, (s.ctx e.ctx).pjob, p.ltag, e.kind == .contrib, e.typ, e.rop,
   e.rank, e.cmp, p.off, p.len, wire⟩

/-- Send the next unit of a firing entry: whether something was done. A replayable fault parks the entry, a terminal one
ends the transfer with error (R334). -/
def State.sendUnit (s : State) (o : Op) (idx : Nat) : Bool × State :=
  match s.posted.get? idx with
  | none => (false, s)
  | some e =>
    match (List.range e.parts.length).find? fun k =>
        ((e.parts[k]?).map (s.partCan e.ctx e.cmp)).getD false with
    | none => (false, s)
    | some k =>
      match e.parts[k]? with
      | none => (false, s)
      | some p =>
        match (if p.tgt = s.podIdx then some 16 else s.nextPort e.ctx) with
        | none => (false, s)
        | some port =>
          let at' := unitSpan e.cmp * p.next
          match s.faceRead o p at' (min (unitSpan e.cmp) (p.len - at')) with
          | .ok (s, d) =>
            let u := e.unit s idx k p (packWire e.cmp e.sat d)
            (true, State.putUnit { s.onPost idx fun e => e.onPart k fun p =>
              { p with next := p.next + 1, sent := p.sent.put p.next (port, s.nextId, u) } with nextId := s.nextId + 1 }
                e.ctx port u)
          | .error f =>
            match s.opFault o f false 64 with
            | (true, s) => (false, s)
            | (false, s) =>
              (true, (s.onPost idx fun e => e.onPart k fun p => { p with next := unitCount e.cmp p.len }).partErr idx k 3)

/-- An entry whose transfers are all over is complete: free, or HELD again (R316, R431). -/
def State.postSettle (s : State) (idx : Nat) : State :=
  match s.posted.get? idx, s.postOp idx with
  | some e, some o =>
    if e.parts.all fun p => p.over e.cmp then
      let s := s.dropOp o.id
      if e.persist then s.onPost idx fun e => { e with st := .held } else s.postFree idx
    else s
  | _, _ => s

/-- Send units of a firing entry until it parks, waits, or has sent them all; the first number bounds the units. -/
def State.sendRun (s : State) (o : Op) (idx : Nat) : Nat → State
  | 0 => s
  | n + 1 =>
    match s.sendUnit o idx with
    | (true, s) => State.sendRun s o idx n
    | (false, s) => s

/-- The units of an entry's transfers. -/
def Posted.units (e : Posted) : Nat := (e.parts.map fun p => unitCount e.cmp p.len).sum

/-- A firing entry goes on: it sends its units, and completes if nothing of it is outstanding. -/
def State.postGo (s : State) (idx : Nat) : State :=
  match s.posted.get? idx, s.postOp idx with
  | some e, some o => if o.park.isSome then s else (s.sendRun o idx (e.units + 1)).postSettle idx
  | _, _ => s

/-- An entry fires (R316). Its operation belongs to no tray. -/
def State.fire (s : State) (idx : Nat) : State :=
  match s.posted.get? idx with
  | none => s
  | some e =>
    let s := s.onPost idx fun e => { e with
      st := .firing, parts := e.parts.map fun p => { p with next := 0, sent := [], nacks := [], err := 0 } }
    let o : Op := ⟨s.nextId, e.tag, 0, s.nextId, 0, 0, 2, .post idx, none⟩
    State.postGo { s with nextId := s.nextId + 1, ops := s.ops ++ [o] } idx

/-- The entries armed on a counter, in arming order: order and index, threshold. -/
def State.armedOn (s : State) (k : Nat) : KMap (Nat × Word) :=
  s.posted.foldl (fun l e =>
    match e.2.st with
    | .armed c t ord => if c = k then KMap.put l ord (e.1, t) else l
    | _ => l) []

/-- The entries that a change of a counter makes eligible fire in arming order (R316). -/
def State.trigFire (s : State) (k : Nat) : State :=
  (s.armedOn k).foldl (fun s e =>
    if (s.trig k).err = 0 ∧ reached (s.trig k).value e.2.2 then s.fire e.2.1 else s) s

/-- A counter advances by n: eligible entries fire (R316, R330). -/
def State.trigAdd (s : State) (k : Nat) (n : Word) : State :=
  (s.onTrig k fun t => { t with value := t.value + n }).trigFire k

/-- An answer for a unit of a firing entry (R321, R335, R431): kind 0 an acknowledgement, else an error. -/
def State.podAnswer (s : State) (h : Word) (k unit kind : Nat) : State :=
  match s.byPostHandle h with
  | none => s
  | some (idx, e) =>
    match e.parts[k]? with
    | none => s
    | some p =>
      if e.st != .firing || (p.sent.get? unit).isNone then s
      else
        let s := s.onPost idx fun e => e.onPart k fun p =>
          { p with sent := p.sent.del unit, nacks := p.nacks.del unit }
        let s := if kind = 0 then s else s.partErr idx k kind
        let s := match (s.posted.get? idx).bind fun e => e.parts[k]? with
          | some p => if p.over e.cmp ∧ p.err = 0 then s.trigAdd e.cnt 1 else s
          | none => s
        s.postSettle idx

-- Major 0x30

/-- The common form of the commands of major 0x30: legality, CAP with the counters named, addresses, then the command is
sent (R318, R319). -/
def collOp (i : Instr) (s : State) (sdst : List Nat) (legal : Src → Bool) (counters : Src → List Nat)
    (addrs : Src → List (Nat × Nat)) (f : Src → Cmd) : Host.Outcome State Fault Refusal :=
  engine i.opnds s fun r t s =>
    let own := (s.ctx t.ctx).own
    if !legal r then .early .illegal
    else if own.ual = 0 ∨ (counters r).any fun k => !own.counters.getLsbD k then .early .cap
    else match addrCauses (addrs r) with
      | [] =>
        if r.t.ctrFull .loads then .stay
        else
          let (t, s) := r.ask t s 5 0 sdst [] (f r)
          .ok t s
      | cs => .plain t s cs

/-- A rejected handle or result (Table 14.6). -/
def postCode (n : Nat) : Word := 0xFFFF0000 + BitVec.ofNat 32 n

/-- The entries of a context. -/
def State.entriesOf (s : State) (c : Nat) : Nat := (s.posted.filter fun e => e.2.ctx == c).length

/-- A new entry: code 1 where the table is full or the quota reached. -/
def State.newPost (s : State) (e : Posted) : Option (Nat × State) :=
  match s.posted.firstFree 16384 with
  | none => none
  | some idx =>
    if s.ownBudget e.ctx (·.entq.toNat) ≤ s.entriesOf e.ctx then none
    else some (idx, { s with posted := s.posted.put idx { e with gen := smGet s.postedGen idx } })

/-- Whether a pod index names a package of the pod (Table 14.6). -/
def State.podHas (s : State) (tgt : Nat) : Bool := tgt ≤ s.fw.packages

/-- The fields of a CPOST or CPOSTR control word (Table 14.5). -/
structure PostCtl where
  now : Bool
  persist : Bool
  cblk : Bool
  skip : Bool
  ord : Bool
  typ : Nat
  rop : Nat
  sat : Bool
  cmp : Nat
  kind : Nat
  deriving DecidableEq, Repr

/-- A control word's fields. -/
def postCtl (w : Word) : PostCtl :=
  let x := w.toNat
  ⟨w.getLsbD 14, w.getLsbD 13, w.getLsbD 12, w.getLsbD 11, w.getLsbD 10, bits x 9 8, bits x 7 5, w.getLsbD 4,
   bits x 3 2, bits x 1 0⟩

/-- The kind that a CPOST, or with `red` a CPOSTR, makes. -/
def PostCtl.post (c : PostCtl) (red : Bool) : PostKind :=
  if red then (if c.kind = 0 then .contrib else .landr) else (if c.kind = 0 then .put else .land)

/-- The legality of a control word (Table 14.5, R320). -/
def PostCtl.legal (c : PostCtl) (w : Word) (k : PostKind) : Bool :=
  let plain := !c.cblk && !c.skip && !c.ord
  let noRed := c.typ == 0 && c.rop == 0
  let satOk := !c.sat || c.cmp != 0
  w.toNat < 2 ^ 15 && c.kind < 2 &&
  match k with
  | .put => plain && noRed && satOk
  | .contrib => plain && c.rop < 3 && satOk && (c.cmp == 0 || c.typ == 0)
  | .land => plain && noRed && !c.now && c.cmp == 0 && !c.sat
  | .landr =>
    !c.now && c.cmp == 0 && !c.sat && c.rop < 3 && (!c.skip || (c.ord && c.typ < 2)) && (!c.cblk || c.skip) &&
      (c.ord || 2 ≤ c.typ || c.rop == 0)

/-- The legality of the second quad and of the length (Table 14.7, R320). -/
def postQuadOk (k : PostKind) (typ len w0 w1 w2 w3 : Nat) : Bool :=
  let unit := if typ % 2 = 1 then 8 else 4
  len % unit == 0 && unit ≤ len && len ≤ 16777216 && w3 < 4096 &&
  match k with
  | .put => w0 < 2 ^ 26 && w2 == 0
  | .contrib => w0 < 2 ^ 26 && w1 == 0 && w2 < 1024
  | .land => w0 < 2 ^ 26 && w0 % 1024 == 0 && w2 == 0
  | .landr => w0 < 2 ^ 26 && w0 % 1024 == 0 && 1 ≤ w1 && w1 ≤ 1024 && w2 == 0

/-- The bytes of an element type. -/
def typSize (typ : Nat) : Nat := if typ % 2 = 1 then 8 else 4

/-- Where the count array of a SKIP landing lies (R323). -/
def countBase (buf len : Nat) : Nat := (buf + len + 15) / 16 * 16

/-- The counts of a SKIP landing. -/
def countNum (cblk : Bool) (typ len : Nat) : Nat :=
  let n := len / typSize typ
  if cblk then (n + 31) / 32 else n

/-- Whether n bytes of a context can be written, and none of them is poisoned (Table 14.6, 0x0004). -/
def State.canWrite (s : State) (c va n : Nat) : Bool :=
  let first := 65536 - va % 65536
  (va :: (List.range ((n - first + 65535) / 65536)).map fun i => va + first + 65536 * i).all fun a =>
    match s.locateWalk c a needW with
    | .ok (.mem x) => 2 ^ 40 ≤ x.pa || !s.poisonedIn x.pa (min (65536 - a % 65536) (va + n - a))
    | .ok _ => true
    | .error _ => false

/-- The operation and width of Table 7.7 that a landing's ROP and TYPE name. -/
def redWidth (typ : Nat) : Nat := match typ with
  | 0 => 6
  | 1 => 7
  | 2 => 2
  | _ => 3

/-- Writing a landing's elements with the identity (R324): a fault that it meets after the buffer was found writable. -/
def State.landIdentity (s : State) (c buf len typ rop : Nat) : State × Option XFault :=
  let z := typSize typ
  let d := (List.range (len / z)).flatMap fun _ => bytesOf z (atomIdentity rop (redWidth typ))
  s.engWrNow c buf (clean d) (s.ctx c).step

/-- CPOST and CPOSTR as performed (R320–R324): the handle or a code, or the fault that a landing's first values wait for. -/
def State.post (s : State) (c : Nat) (tag : Tag) (red : Bool) (src len : Nat) (w : Word) (w0 w1 w2 w3 : Nat) :
    Except XFault Word × State :=
  let k := postCtl w
  let kind := k.post red
  let ltag := BitVec.ofNat 16 (w0 / 1024)
  let send := kind == .put || kind == .contrib
  let part : PostPart :=
    ⟨w0 % 1024, ltag, if kind == .put then w1 else 0, src, len / 4, 1, 1, 2, 0, 0, len, 0, [], [], 0⟩
  let e : Posted := ⟨c, tag, 0, if send then .held else .posted, k.persist, kind, k.cmp, k.sat, k.typ, k.rop, k.ord,
    k.skip, k.cblk, w2, w3, if send then [part] else [], src, len, ltag, if send then 0 else w1, 0, []⟩
  match s.newPost e with
  | none => (.ok (postCode 1), s)
  | some (idx, s1) =>
    let h := postHandle (smGet s.postedGen idx) idx
    if send then
      if !s.podHas (w0 % 1024) then (.ok (postCode 2), s)
      else (.ok h, if k.now then s1.fire idx else s1)
    else if s.posted.any fun x => x.2.ctx == c && x.2.ltag == ltag && x.2.st == .posted then (.ok (postCode 3), s)
    else if !s.canWrite c src len ||
        (k.skip && !s.canWrite c (countBase src len) (2 * countNum k.cblk k.typ len)) then (.ok (postCode 4), s)
    else if kind == .landr && !k.ord then
      match s.landIdentity c src len k.typ k.rop with
      | (s, some f) => (.error f, s)
      | (s, none) => (.ok h, { s with posted := s1.posted })
    else (.ok h, s1)

/-- CPOST and CPOSTR at issue (R318–R320). -/
def postOpnd (i : Instr) (red : Bool) (d a : BitVec 7) (b : SB) (s : State) : Host.Outcome State Fault Refusal :=
  collOp i s [d.toNat]
    (fun r =>
      let c := postCtl (r.sn a 3)
      c.legal (r.sn a 3) (c.post red) &&
        postQuadOk (c.post red) c.typ (r.sn a 2).toNat (r.sq b 0).toNat (r.sq b 1).toNat (r.sq b 2).toNat (r.sq b 3).toNat)
    (fun r => [(r.sq b 3).toNat])
    (fun r =>
      let c := postCtl (r.sn a 3)
      [((r.s2 a).toNat, typSize c.typ)] ++ if c.post red = .put then [((r.sq b 1).toNat, 4)] else [])
    fun r => .post d.toNat red (r.s2 a).toNat (r.sn a 2).toNat (r.sn a 3) (r.sq b 0) (r.sq b 1) (r.sq b 2) (r.sq b 3)

/-- CPOST with KIND 0 (R321); KIND 1 in s(a+3) posts a landing (R322), as the word's registers say. -/
def execCpostPut (d a : BitVec 7) (b : SB) (s : State) : Host.Outcome State Fault Refusal :=
  postOpnd (.cpostPut d a b) false d a b s

/-- CPOST with KIND 1 (R322). -/
def execCpostLand (d a : BitVec 7) (b : SB) (s : State) : Host.Outcome State Fault Refusal :=
  postOpnd (.cpostPut d a b) false d a b s

/-- CPOSTR with KIND 0 (R323). -/
def execCpostrContrib (d a : BitVec 7) (b : SB) (s : State) : Host.Outcome State Fault Refusal :=
  postOpnd (.cpostrContrib d a b) true d a b s

/-- CPOSTR with KIND 1 (R323, R324). -/
def execCpostrLandr (d a : BitVec 7) (b : SB) (s : State) : Host.Outcome State Fault Refusal :=
  postOpnd (.cpostrContrib d a b) true d a b s

/-- The legality of a CARM's values (R326, Table 14.8). -/
def carmLegal (lo hi b : Word) : Bool :=
  let op := bits hi.toNat 31 30
  bits hi.toNat 29 12 == 0 &&
  match op with
  | 0 => true
  | 1 => bits hi.toNat 11 0 == 0 && b.toNat < 2
  | _ => lo == 0

/-- CARM on the entry that a handle names (Table 14.8). -/
def State.carmEntry (s : State) (c : Nat) (h : Word) (f : Nat → Posted → Option State) : Word × State :=
  match s.byPostHandle h with
  | none => (postCode 6, s)
  | some (idx, e) =>
    if e.ctx != c then (postCode 6, s)
    else match f idx e with
      | none => (postCode 7, s)
      | some s => (0, s)

/-- Whether an entry is HELD or ARMED. -/
def PostState.idle : PostState → Bool
  | .held => true
  | .armed _ _ _ => true
  | _ => false

/-- CARM as performed (R326). -/
def State.carm (s : State) (c : Nat) (lo hi b : Word) : Word × State :=
  let k := bits hi.toNat 11 0
  match bits hi.toNat 31 30 with
  | 0 => s.carmEntry c lo fun idx e =>
    if e.st != .held then none
    else
      let s := { s.onPost idx fun e => { e with st := .armed k b s.nextId } with nextId := s.nextId + 1 }
      some (if (s.trig k).err = 0 ∧ reached (s.trig k).value b then s.fire idx else s)
  | 1 => s.carmEntry c lo fun idx e =>
    if b = 0 then if e.st.idle then some (s.fire idx) else none
    else if e.st.idle || e.st == .posted then some (s.postFree idx) else none
  | 2 => ((s.trig k).value, (s.onTrig k fun _ => ⟨b, 0, 0⟩).trigFire k)
  | _ => ((s.trig k).value + b, s.trigAdd k b)

/-- CARM at issue (R319, R326). -/
def carmOpnd (i : Instr) (d a : BitVec 7) (b : SB) (s : State) : Host.Outcome State Fault Refusal :=
  collOp i s [d.toNat] (fun r => carmLegal (r.s a) (r.sn a 1) (r.sb b))
    (fun r => if bits (r.sn a 1).toNat 31 30 = 1 then [] else [bits (r.sn a 1).toNat 11 0]) (fun _ => [])
    fun r => .carm d.toNat (r.s a) (r.sn a 1) (r.sb b)

/-- CARM with OP 0, ARM (R326); the word's registers name the OP. -/
def execCarmArm (d a : BitVec 7) (b : SB) (s : State) : Host.Outcome State Fault Refusal :=
  carmOpnd (.carmArm d a b) d a b s

/-- CARM with OP 1 and b = 0, FIRE (R326). -/
def execCarmFire (d a : BitVec 7) (b : SB) (s : State) : Host.Outcome State Fault Refusal :=
  carmOpnd (.carmArm d a b) d a b s

/-- CARM with OP 1 and b = 1, FREE (R326). -/
def execCarmFree (d a : BitVec 7) (b : SB) (s : State) : Host.Outcome State Fault Refusal :=
  carmOpnd (.carmArm d a b) d a b s

/-- CARM with OP 2, SET (R326). -/
def execCarmSet (d a : BitVec 7) (b : SB) (s : State) : Host.Outcome State Fault Refusal :=
  carmOpnd (.carmArm d a b) d a b s

/-- CARM with OP 3, ADD (R326). -/
def execCarmAdd (d a : BitVec 7) (b : SB) (s : State) : Host.Outcome State Fault Refusal :=
  carmOpnd (.carmArm d a b) d a b s

/-- The halo header's fields (Table 14.9), its res0 bits ignored (R4): none where it is invalid. -/
def haloHeader (own : Units) (x : Nat) : Option (Nat × Nat × Nat × Nat × Nat × Bool × Nat × Bool × Bool × Nat) :=
  let base := x % 2 ^ 52
  let rowp := bits x 95 64
  let planep := bits x 127 96
  let w := bits x 159 128
  let lcnt := bits x 171 160
  let es := w % 8
  let cmp := bits w 4 3
  let n := bits w 10 6
  let sat := w / 32 % 2 == 1
  if (es ≠ 2 ∧ es ≠ 3) ∨ (cmp ≠ 0 ∧ es ≠ 2) ∨ (sat ∧ cmp = 0) ∨ n = 0 ∨ 26 < n ∨ !own.counters.getLsbD lcnt then none
  else some (base, rowp, planep, es, cmp, sat, n, w / 2 ^ 13 % 2 == 1, w / 2 ^ 14 % 2 == 1, lcnt)

/-- A neighbour record (Table 14.10), its res0 bits ignored (R4): none where it is invalid. -/
def haloPart (base rowp planep es x : Nat) : Option PostPart :=
  let h (lo : Nat) : Nat := x / 2 ^ lo % 65536
  let off := bits x 63 32
  if off % 4 ≠ 0 ∨ h 112 = 0 ∨ h 128 = 0 ∨ h 144 = 0 then none
  else some ⟨x % 1024, BitVec.ofNat 16 (x / 1024), off, base + h 64 * 2 ^ es + h 80 * rowp + h 96 * planep,
    h 112, h 128, h 144, es, rowp, planep, h 112 * h 128 * h 144 * 2 ^ es, 0, [], [], 0⟩

/-- CHALO as performed (R329). -/
def State.halo (s : State) (c : Nat) (tag : Tag) (va : Nat) : Word × State :=
  match s.engTake c va 64 with
  | (none, s) => (postCode 5, s)
  | (some x, s) =>
    match haloHeader (s.ctx c).own x with
    | none => (postCode 5, s)
    | some (base, rowp, planep, es, cmp, sat, n, persist, now, lcnt) =>
      match (List.range n).mapM fun i => (s.engNat c (va + 64 + 32 * i) 32).bind (haloPart base rowp planep es) with
      | none => (postCode 5, s)
      | some parts =>
        if parts.any fun p => !s.podHas p.tgt then (postCode 2, s)
        else match s.newPost ⟨c, tag, 0, .held, persist, .put, cmp, sat, 0, 0, false, false, false, 0, lcnt, parts, 0, 0, 0,
            0, 0, []⟩ with
          | none => (postCode 1, s)
          | some (idx, s1) => (postHandle (smGet s.postedGen idx) idx, if now then s1.fire idx else s1)

/-- CHALO (R329). -/
def execChalo (d a : BitVec 7) (s : State) : Host.Outcome State Fault Refusal :=
  collOp (.chalo d a) s [d.toNat] (fun _ => true) (fun _ => []) (fun r => [((r.s2 a).toNat, 64)])
    fun r => .halo d.toNat (r.s2 a).toNat

/-- CWAIT (R327): it waits at its word. -/
def execCwait (d a : BitVec 7) (b : SB) (s : State) : Host.Outcome State Fault Refusal :=
  engine (Instr.cwait d a b).opnds s fun r t s =>
    let k := (r.s a).toNat
    let own := (s.ctx t.ctx).own
    if 4096 ≤ k then .early .illegal
    else if own.ual = 0 ∨ !own.counters.getLsbD k then .early .cap
    else if !s.trigReady k (r.sb b) then .stay
    else
      let x := s.trig k
      let t := t.setSreg r.i d.toNat x.value
      let s := s.acquire (r.key / 32) t 4
      if x.err = 0 then .ok t s else .later t s [x.cause] none

/-- The wire bytes that a context's unexpected arrivals hold, in 256-byte units (R328, R332). -/
def State.heldUnits (s : State) (c : Nat) : Nat :=
  (s.ops.map fun o =>
    match o.body with
    | .arrive a =>
      if o.tag.ctx = c ∧ a.land.isNone ∧ !a.bad then (((a.got.map fun u => u.2.length).sum) + 255) / 256 else 0
    | _ => 0).sum

/-- The mask of a context's ports that are down, in ascending order among those it holds (R328). -/
def State.downMask (s : State) (c : Nat) : Nat :=
  let l := bitList (s.ctx c).own.ual
  ((List.range l.length).map fun i => if s.portsDown.getLsbD (l.getD i 0) then 2 ^ i else 0).sum

/-- CQRY (R328). -/
def execCqry (d : BitVec 7) (b : SB) (s : State) : Host.Outcome State Fault Refusal :=
  collOp (.cqry d b) s (List.range' d.toNat 4) (fun r => (r.sb b).toNat < 4096) (fun r => [(r.sb b).toNat]) (fun _ => [])
    fun r => .cqry d.toNat (r.sb b).toNat

/-- CQRY as performed (R328). -/
def State.cqry (s : State) (c k : Nat) : List Word :=
  let x := s.trig k
  [x.value, BitVec.ofNat 32 (x.kind * 65536 + x.err), BitVec.ofNat 32 (s.armedOn k).length,
   BitVec.ofNat 32 (s.downMask c * 65536 + min 65535 (s.heldUnits c))]

/-- The collective engine performs a command (R317). -/
def State.collGo (s : State) (o : Op) : Cmd → State
  | .post d red src len w w0 w1 w2 w3 =>
    match s.post o.tag.ctx o.tag red src len w w0.toNat w1.toNat w2.toNat w3.toNat with
    | (.ok v, s) => s.opAnswer o [.s d v]
    | (.error f, s) =>
      match s.cmdWait o f with
      | (true, s) => s
      | (false, s) => (s.dropOp o.id).opAnswer o [.s d (postCode 4)]
  | .carm d lo hi b =>
    let (v, s) := s.carm o.tag.ctx lo hi b
    s.opAnswer o [.s d v]
  | .halo d va =>
    let (v, s) := s.halo o.tag.ctx o.tag va
    s.opAnswer o [.s d v]
  | .cqry d k => s.opAnswer o (quadData d (s.cqry o.tag.ctx k))
  | _ => s

-- Answers from other packages

/-- UALINK_ACK (R321). -/
def execUalinkAck (handle : BitVec 32) (part unit : Nat) (s : State) : Host.Outcome State Fault Refusal :=
  .next (s.podAnswer handle part unit 0)

/-- UALINK_FAULT_COMPLETION (R335). -/
def execUalinkFaultCompletion (handle : BitVec 32) (part unit : Nat) (s : State) : Host.Outcome State Fault Refusal :=
  .next (s.podAnswer handle part unit 1)

/-- UALINK_UNIT_TIMEOUT (R335). -/
def execUalinkUnitTimeout (handle : BitVec 32) (part unit : Nat) (s : State) : Host.Outcome State Fault Refusal :=
  .next (s.podAnswer handle part unit 2)

/-- A unit of a firing entry that has not been answered. -/
def State.unitOut (s : State) (h : Word) (k unit : Nat) : Option (Nat × Posted × PostPart × Nat × UaUnit) :=
  match s.byPostHandle h with
  | none => none
  | some (idx, e) =>
    if e.st != .firing then none
    else (e.parts[k]?).bind fun p => (p.sent.get? unit).map fun u => (idx, e, p, u.1, u.2.2)

/-- A unit is refused (R333): it is kept for a resend, and the 64th refusal halts its context. -/
def State.podNack (s : State) (h : Word) (k unit : Nat) : State :=
  match s.unitOut h k unit with
  | none => s
  | some (idx, e, p, _, _) =>
    let n := ((p.nacks.get? unit).map (·.1)).getD 0 + 1
    let s := s.onPost idx fun e => e.onPart k fun p => { p with nacks := p.nacks.put unit (n, true) }
    if n < 64 then s
    else
      let s := s.faultRecord ⟨.nacklim, e.ctx, p.base, 0⟩ false
        ⟨e.ctx, e.tag.core, e.tag.tray, some e.tag, false, false, 0, 0, 0⟩
      s.haltLine e.ctx

/-- UALINK_NACK (R333). -/
def execUalinkNack (handle : BitVec 32) (part unit : Nat) (s : State) : Host.Outcome State Fault Refusal :=
  .next (s.podNack handle part unit)

/-- UALINK_RESEND (R333). -/
def execUalinkResend (handle : BitVec 32) (part unit : Nat) (s : State) : Host.Outcome State Fault Refusal :=
  .next (match s.unitOut handle part unit with
    | none => s
    | some (idx, e, p, port, u) =>
      match p.nacks.get? unit with
      | some (n, true) =>
        (s.onPost idx fun e => e.onPart part fun p => { p with nacks := p.nacks.put unit (n, false) }).putUnit e.ctx port u
      | _ => s)

/-- A sent unit that has no port: its order, entry, transfer, number and context. -/
structure Portless where
  order : Nat
  idx : Nat
  part : Nat
  unit : Nat
  ctx : Nat
  u : UaUnit
  deriving DecidableEq, Repr

/-- The sent units without a port whose context has a live port with room. -/
def State.portless (s : State) : List Portless :=
  s.posted.flatMap fun e =>
    if e.2.st != .firing || ((s.nextPort e.2.ctx).all fun q => q == 17) then []
    else (List.range e.2.parts.length).flatMap fun k =>
      ((((e.2.parts[k]?).map (·.sent)).getD []).filter fun u => u.2.1 == 17).map fun u =>
        ⟨u.2.2.1, e.1, k, u.1, e.2.ctx, u.2.2.2⟩

/-- The oldest unit without a port is resent, if one can be: on the next of its context's ports (R314). -/
def State.resendUnit (s : State) : Option State :=
  match firstBy (fun (a b : Portless) => decide (a.order < b.order)) s.portless with
  | none => none
  | some x =>
    (s.nextPort x.ctx).map fun q =>
      (s.onPost x.idx fun e => e.onPart x.part fun p => { p with sent := p.sent.put x.unit (q, x.order, x.u) }).putUnit
        x.ctx q x.u

/-- The unanswered units of a port have none: they are resent on other ports in their order (R314). -/
def State.movePort (s : State) (port : Nat) : State :=
  { s with posted := s.posted.all' fun _ e => { e with parts := e.parts.map fun p =>
      { p with sent := p.sent.all' fun _ u => if u.1 = port then (17, u.2) else u } } }

/-- UALINK_PORT_DOWN (R314). The hosts learn of it through HEALTH's degraded flag. -/
def execUalinkPortDown (port : Nat) (s : State) : Host.Outcome State Fault Refusal :=
  .next (if 16 ≤ port || s.portsDown.getLsbD port then s
    else State.movePort { s with portsDown := s.portsDown ||| 1#16 <<< port } port)

end Sys2Proof.Machine
end

