-- ==== Sys2Proof/Machine/Pod.lean ====
section
/-!
DEFINITION. The collective engine, receiving side: arrivals and landings, accesses from other packages, and failed links
between dies (R312, R313, R321–R325, R330–R332, R335, R336).
-/

namespace Sys2Proof.Machine

-- Answers to the sender

/-- The target answers a unit: an acknowledgement, or a fault completion (R321, R335). A unit of this package is answered
at once. -/
def State.answerUnit (s : State) (u : UaUnit) (unit : Nat) (ok : Bool) : State :=
  if u.src = s.podIdx then s.podAnswer u.handle u.part unit (if ok then 0 else 1)
  else { s with podOut := s.podOut ++
    [if ok then .ack u.src u.handle u.part unit else .fault u.src u.handle u.part unit] }

/-- The target refuses a unit (R333). -/
def State.nackUnit (s : State) (u : UaUnit) : State :=
  if u.src = s.podIdx then s.podNack u.handle u.part u.unit
  else { s with podOut := s.podOut ++ [.nack u.src u.handle u.part u.unit] }

-- Arrivals

/-- Change an arrival. -/
def State.onArr (s : State) (id : Nat) (f : PodArr → PodArr) : State :=
  s.onOp id fun o => match o.body with
    | .arrive a => { o with body := .arrive (f a) }
    | _ => o

/-- The arrival an operation is. -/
def State.arr (s : State) (id : Nat) : Option (Op × PodArr) :=
  match s.op? id with
  | none => none
  | some o => match o.body with
    | .arrive a => some (o, a)
    | _ => none

/-- The units of the transfer that an arrival's units belong to. -/
def PodArr.total (a : PodArr) : Nat := unitCount a.head.cmp a.head.len

/-- The arrival that a unit belongs to. -/
def State.arrivalOf (s : State) (u : UaUnit) : Option Nat :=
  (s.ops.find? fun o => match o.body with
    | .arrive a => a.head.src == u.src && a.head.handle == u.handle && a.head.part == u.part
    | _ => false).map (·.id)

/-- The posted landing of a context for a tag. -/
def State.landing (s : State) (c : Nat) (tag : BitVec 16) : Option (Nat × Posted) :=
  s.posted.find? fun e => e.2.ctx == c && e.2.st == .posted && e.2.ltag == tag

/-- An arrival that is refused or has failed, all of whose units have come, is over. -/
def State.arrEnd (s : State) (id : Nat) : State :=
  match s.arr id with
  | none => s
  | some (_, a) => if a.bad ∧ a.total ≤ a.seen.length then s.dropOp id else s

/-- An arrival is refused: every unit that has come is answered with a fault (R321, R323). -/
def State.arrRefuse (s : State) (id : Nat) : State :=
  match s.arr id with
  | none => s
  | some (_, a) =>
    let s := s.onArr id fun a => { a with bad := true, got := [] }
    (a.got.foldl (fun s u => s.answerUnit a.head u.1 false) s).arrEnd id

/-- Whether a landing takes a transfer (R321, R323). -/
def Posted.takes (e : Posted) (u : UaUnit) : Bool :=
  if u.contrib then
    e.kind == .landr && u.len == e.len && u.typ == e.typ && u.rop == e.rop && u.rank < e.expect &&
      !e.ranks.contains u.rank
  else e.kind == .land && u.off + u.len ≤ e.len

/-- An arrival is matched to a landing: its operation carries the tray that posted the landing (R321, R335). -/
def State.arrMatch (s : State) (id idx : Nat) (e : Posted) : State :=
  match s.arr id with
  | none => s
  | some (_, a) =>
    if !e.takes a.head then s.arrRefuse id
    else
      let s := (s.onArr id fun a => { a with land := some ⟨idx, e.gen, e.buf, e.cnt, e.ord⟩ }).onOp id fun o =>
        { o with tag := { o.tag with core := e.tag.core, tray := e.tag.tray, prio := e.tag.prio } }
      if a.head.contrib then s.onPost idx fun e => { e with ranks := a.head.rank :: e.ranks } else s

/-- Whether a landing reference still names a posted landing. -/
def State.landLive (s : State) (l : LandRef) : Option Posted :=
  match s.posted.get? l.idx with
  | none => none
  | some e => if e.gen = l.gen ∧ e.st = .posted then some e else none

/-- A landing ends: free, or POSTED again with its counts reset (R316, R322, R323). -/
def State.landEnd (s : State) (idx : Nat) : State :=
  match s.posted.get? idx with
  | none => s
  | some e =>
    if e.persist then s.onPost idx fun e => { e with arrivals := 0, ranks := [] } else s.postFree idx

/-- Every unit of an arrival that no fault has answered is acknowledged, and the arrival is over. -/
def State.arrAck (s : State) (id : Nat) : State :=
  match s.arr id with
  | none => s
  | some (_, a) =>
    (a.seen.foldl (fun s u => if a.failed.contains u then s else s.answerUnit a.head u true) s).dropOp id

/-- The contributions to a landing: operations in order of arrival. -/
def State.contribs (s : State) (l : LandRef) : List (Op × PodArr) :=
  s.ops.filterMap fun o => match o.body with
    | .arrive a => if a.head.contrib && a.land.map (fun x => (x.idx, x.gen)) == some (l.idx, l.gen) then some (o, a) else none
    | _ => none

/-- All G contributions of a landing are whole. -/
def State.allWhole (s : State) (l : LandRef) (g : Nat) : Bool :=
  ((s.contribs l).filter fun x => x.2.whole).length == g

/-- The bytes of a whole contribution. -/
def PodArr.bytes (a : PodArr) : List EByte :=
  a.got.flatMap fun u => expandWire a.head.cmp a.head.len u.1 u.2

-- Reduction (R323, R324)

/-- The format of a floating element type. -/
def typFmt (typ : Nat) : Fmt := if typ = 0 then fmtF32 else fmtF64

/-- `combine` of R323. -/
def combine (rop typ a b : Nat) : Nat :=
  if 2 ≤ typ then atomNew rop (redWidth typ) a b 0
  else
    let f := typFmt typ
    if rop = 0 then (f.add ⟨.rne, false⟩ (f.val a) (f.val b)).1 else (f.minMax (rop == 2) (f.val a) (f.val b)).1

/-- A floating result that is a NaN is the canonical NaN (R323). -/
def canonNan (typ x : Nat) : Nat :=
  if typ < 2 ∧ ((typFmt typ).val x).isNan then (typFmt typ).qnan else x

/-- The value and the count of one element over contributions in ascending rank, each with whether it is taken (R323). -/
def reduceElem (rop typ : Nat) (xs : List (Nat × Bool)) : Nat × Nat :=
  let acc := xs.foldl (fun (acc : Option Nat) x =>
    if x.2 || rop == 0 then
      let v := if x.2 then x.1 else 0
      some (match acc with
        | none => v
        | some a => combine rop typ a v)
    else acc) none
  (canonNan typ (acc.getD 0), (xs.filter (·.2)).length)

/-- The elements of a contribution: value, poison. -/
def elemsOf (z : Nat) (d : List EByte) : List (Nat × Bool) :=
  (List.range (d.length / z)).map fun i => (eNat ((d.drop (z * i)).take z), ePoison ((d.drop (z * i)).take z))

/-- The bytes an ordered reduction writes to the buffer, and to the count array (R323). -/
def reduceAll (e : Posted) (xs : List (List (Nat × Bool))) : List EByte × List EByte :=
  let z := typSize e.typ
  let n := e.len / z
  let nan (x : Nat) : Bool := e.typ < 2 && ((typFmt e.typ).val x).isNan
  let bad (x : List (Nat × Bool)) (i : Nat) : Bool :=
    if !e.skip then false
    else if e.cblk then ((x.drop (i / 32 * 32)).take 32).any fun y => nan y.1
    else nan (x.getD i (0, false)).1
  let res := (List.range n).map fun i =>
    (reduceElem e.rop e.typ (xs.map fun x => ((x.getD i (0, false)).1, !bad x i)), xs.any fun x => (x.getD i (0, false)).2)
  let counts := if e.cblk then (List.range ((n + 31) / 32)).map fun b => res.getD (32 * b) ((0, 0), false) else res
  (res.flatMap fun r => eBytes z r.1.1 r.2, if e.skip then counts.flatMap fun r => eBytes 2 r.1.2 false else [])

/-- A landing's contributions are complete: its counter and every contributor's advance (R323, R324). -/
def State.landrDone (s : State) (l : LandRef) : State :=
  let g := s.contribs l
  let s := (s.landEnd l.idx).trigAdd l.acnt 1
  g.foldl (fun s x => s.arrAck x.1.id) s

/-- The tag of an arrival takes the landing context's STEP when it writes (R330). -/
def State.nowTag (s : State) (o : Op) : Op :=
  { o with tag := { o.tag with step := (s.ctx o.tag.ctx).step, gen := (s.ctx o.tag.ctx).gen } }

/-- The ordered reduction of a landing whose contributions are whole, written by the operation of one of them (R323). -/
def State.reduceGo (s : State) (o : Op) (l : LandRef) (e : Posted) : State :=
  let z := typSize e.typ
  let g := s.contribs l
  let xs := (List.range e.expect).filterMap fun r => (g.find? fun x => x.2.head.rank == r).map fun x => elemsOf z x.2.bytes
  let (buf, cnt) := reduceAll e xs
  let o := s.nowTag o
  match (match s.opWr o e.buf buf with
    | (s, some f) => (s, some f)
    | (s, none) => if cnt.isEmpty then (s, none) else s.opWr o (countBase e.buf e.len) cnt) with
  | (s, none) => s.landrDone l
  | (s, some f) =>
    match s.opFault o f true 64 with
    | (true, s) => s
    | (false, s) => g.foldl (fun s x => s.arrRefuse x.1.id) s

/-- A RED at the home of its address, stamped as an engine's write (R206, R312, R324). -/
def State.redHome (s : State) (o : Op) (h w : Nat) (x : Xl) (v : Nat) : State :=
  let s := s.stamp o.tag.ctx x (s.engStep o.tag.ctx x o.tag.step)
  s.redAt ((s.homeDie x.pa).getD 0) o.tag.ctx h w x.pa v (x.ord != 1)

/-- One element of an unordered contribution as a RED (R324, R206). -/
def State.redElem (s : State) (o : Op) (rop typ va : Nat) (d : List EByte) : State :=
  match s.locateWalk o.tag.ctx va needW with
  | .ok (.mem x) =>
    let s := s.redHome o rop (redWidth typ) x (eNat d)
    if ePoison d then s.setPoison x.pa true else s
  | _ => s

/-- Write the bytes of one unit of an arrival at its landing (R321, R324, R330). -/
def State.unitWrite (s : State) (o : Op) (a : PodArr) (l : LandRef) (unit : Nat) (wire : List EByte) :
    State × Option XFault :=
  let o := s.nowTag o
  let d := expandWire a.head.cmp a.head.len unit wire
  let va := l.buf + a.head.off + unitSpan a.head.cmp * unit
  if a.head.contrib then
    let z := typSize a.head.typ
    match s.stackReady o va d.length with
    | (s, some f) => (s, some f)
    | (s, none) =>
      let s := (List.range (d.length / z)).foldl (fun s i =>
        s.redElem o a.head.rop a.head.typ (va + z * i) ((d.drop (z * i)).take z)) s
      (s.opLog o .engWr va d.length, none)
  else s.opWr o va d

/-- An arrival all of whose units have come and been dealt with (R321–R324). -/
def State.arrWhole (s : State) (id : Nat) : State :=
  match s.arr id with
  | none => s
  | some (o, a) =>
    match a.land with
    | none => s
    | some l =>
      if !a.failed.isEmpty then s.arrAck id
      else if a.head.contrib then
        let s := s.onArr id fun a => { a with whole := true }
        match s.landLive l with
        | none => s
        | some e =>
          if !s.allWhole l e.expect then s
          else if e.ord then s.reduceGo o l e
          else s.landrDone l
      else
        let s := match s.landLive l with
          | none => s
          | some e =>
            let s := s.onPost l.idx fun e => { e with arrivals := e.arrivals + 1 }
            if e.expect != 0 && e.arrivals + 1 == e.expect then s.landEnd l.idx else s
        (s.trigAdd l.acnt 1).arrAck id

/-- A matched arrival writes the units it has, and completes when all have come; the first number bounds the units. -/
def State.arrDrain (s : State) (id : Nat) : Nat → State
  | 0 => s
  | n + 1 =>
    match s.arr id with
    | none => s
    | some (o, a) =>
      match a.land with
      | none => s
      | some l =>
        let keep := a.head.contrib && l.ord
        if o.park.isSome then s
        else if a.whole then
          match s.landLive l with
          | some e => if e.ord && s.allWhole l e.expect then s.reduceGo o l e else s
          | none => s
        else if keep || a.got.isEmpty then if a.total ≤ a.seen.length then s.arrWhole id else s
        else
          match a.got with
          | [] => s
          | u :: _ =>
            match s.unitWrite o a l u.1 u.2 with
            | (s, none) => State.arrDrain (s.onArr id fun a => { a with got := a.got.del u.1 }) id n
            | (s, some f) =>
              match s.opFault o f true 64 with
              | (true, s) => s
              | (false, s) =>
                let s := s.onArr id fun a => { a with got := a.got.del u.1, failed := u.1 :: a.failed }
                State.arrDrain (s.answerUnit a.head u.1 false) id n

/-- The units an arrival may still have to write, and one step more. -/
def PodArr.fuel (a : PodArr) : Nat := a.got.length + 2

/-- A matched arrival goes on. -/
def State.arrGo (s : State) (id : Nat) : State :=
  match s.arr id with
  | none => s
  | some (_, a) => s.arrDrain id a.fuel

/-- Whether an arrival is held for a tag of a context (R332). -/
def State.heldFor (s : State) (c : Nat) (tag : BitVec 16) : Option Nat :=
  (s.ops.find? fun o => match o.body with
    | .arrive a => o.tag.ctx == c && a.head.tag == tag && a.land.isNone && !a.bad
    | _ => false).map (·.id)

/-- The context that a unit belongs to (R313). -/
def State.jobCtx (s : State) (pjob : BitVec 16) : Option Nat :=
  (s.ctxs.find? fun e => e.2.pjob == pjob && e.2.own.ual != 0 && e.2.st != .free).map (·.1)

/-- The tag of what the collective engine does for a context without a tray (R335). -/
def State.engTag (s : State) (c : Nat) : Tag := ⟨c, (s.ctx c).gen, 0, 0, 0, 5, 0, (s.ctx c).step, noVer⟩

/-- A record of a terminal fault of what arrives, in a context's terminal ring (R312, R313). -/
def State.arriveRecord (s : State) (k : FaultKind) (c addr : Nat) (wr : Bool) : State :=
  s.faultRecord ⟨k, c, addr, 0⟩ false ⟨c, 0, 0, some (s.engTag c), false, wr, 0, 0, 0⟩

/-- Whether a context is halting or halted, or being revoked: it takes no arrivals (R337). -/
def CtxState.closed : CtxState → Bool
  | .halting | .halted | .revoking => true
  | .free | .new | .running | .stopping | .stopped => false

/-- A unit of a transfer whose arrival is known: it is kept, held within the quota, or refused (R332, R333). -/
def State.unitKeep (s : State) (id : Nat) (u : UaUnit) (fresh : Bool) : State :=
  match s.arr id with
  | none => s
  | some (o, a) =>
    if a.seen.contains u.unit then s
    else if a.bad then
      (s.onArr id fun a => { a with seen := u.unit :: a.seen }).answerUnit u u.unit false |>.arrEnd id
    else
      let s1 := s.onArr id fun a => { a with seen := u.unit :: a.seen, got := a.got.put u.unit u.wire }
      if a.land.isSome then s1.arrGo id
      else if s.ownBudget o.tag.ctx (·.uaq.toNat) < s1.heldUnits o.tag.ctx then
        (if fresh then s.dropOp id else s).nackUnit u
      else s1

/-- A unit arrives (R313, R321, R332, R333). -/
def State.unitArrive (s : State) (u : UaUnit) : State :=
  match s.jobCtx u.pjob with
  | none => (s.arriveRecord .nomem 0 u.off true).answerUnit u u.unit false
  | some c =>
    if (s.ctx c).st.closed then s.answerUnit u u.unit false
    else match s.arrivalOf u with
      | some id => s.unitKeep id u false
      | none =>
        let o : Op := ⟨s.nextId, s.engTag c, 0, s.nextId, 0, 0, 1,
          .arrive ⟨{ u with unit := 0, wire := [] }, [], [], [], none, false, false⟩, none⟩
        let s1 := { s with nextId := s.nextId + 1, ops := s.ops ++ [o] }
        match s.landing c u.tag with
        | some (idx, e) =>
          if (s.heldFor c u.tag).isNone then
            let s2 := s1.arrMatch o.id idx e
            s2.unitKeep o.id u false
          else s1.unitKeep o.id u true
        | none => s1.unitKeep o.id u true

/-- UALINK_UNIT_ARRIVE (R321): a unit of another package, for this one. -/
def execUalinkUnitArrive (u : UaUnit) (s : State) : Host.Outcome State Fault Refusal :=
  .next (if u.src = s.podIdx ∨ u.dst ≠ s.podIdx then s else s.unitArrive u)

/-- One thing the collective engine does on its own: a unit on the loopback arrives, a held arrival is matched to its
landing, a matched arrival goes on after a park, or a firing entry sends. -/
def State.podStep (s : State) : Option State :=
  match s.podLoop with
  | u :: r => some (State.unitArrive { s with podLoop := r } u)
  | [] =>
    match s.resendUnit, s.posted.findSome? fun e =>
        if e.2.st = .posted then (s.heldFor e.2.ctx e.2.ltag).map fun id => (id, e) else none with
    | some s, _ => some s
    | none, some (id, e) => some ((s.arrMatch id e.1 e.2).arrGo id)
    | none, none =>
      match s.ops.find? fun o => o.park.isNone && match o.body with
          | .arrive a => a.land.isSome && ((!a.got.isEmpty && !a.whole &&
              !(a.head.contrib && (a.land.map (·.ord)).getD false)) ||
            (a.whole && match a.land with
              | some l => match s.landLive l with
                | some e => e.ord && s.allWhole l e.expect && (s.contribs l).all fun x => x.1.park.isNone
                | none => false
              | none => false))
          | .post idx => match s.posted.get? idx with
            | some e => e.parts.any (s.partCan e.ctx e.cmp)
            | none => false
          | _ => false with
      | none => none
      | some o =>
        match o.body with
        | .arrive _ => some (s.arrGo o.id)
        | .post idx => some (s.postGo idx)
        | _ => none

-- Accesses from other packages (R180, R312, R335)

/-- A pseudo-operation under which an access from another package is performed. -/
def State.remoteOp (s : State) (c : Nat) : Op := ⟨s.nextId, s.engTag c, 0, s.nextId, 0, 0, 1, .performed [], none⟩

/-- A write with a byte mask: the bytes of each run. -/
def maskRuns (l : List (Option EByte)) : List (Nat × List EByte) :=
  (List.range l.length).foldl (fun (acc : List (Nat × List EByte)) i =>
    match (l[i]?).join with
    | none => acc
    | some b =>
      match acc.reverse with
      | [] => [(i, [b])]
      | (j, d) :: r => if j + d.length = i then (r.reverse) ++ [(j, d ++ [b])] else acc ++ [(i, [b])]) []

/-- An atomic from another package, at the home agent (R180, R166, R168): its old value with its poison, or with `ret` false a
RED, which needs no right to read, meets no poison and answers nothing. -/
def State.remoteAtomic (s : State) (o : Op) (va h w x swp : Nat) (ret : Bool) : State × Except XFault (List EByte) :=
  let n := atomSize w
  match s.locateWalk o.tag.ctx va (if ret then needRW else needW) with
  | .error f => (s, .error f)
  | .ok (.mem xl) =>
    match s.stackReady o va n with
    | (s, some f) => (s, .error f)
    | (s, none) =>
      if !ret then (s.redHome o h w xl x, .ok [])
      else
        let s := (s.homeAtomic (xl.pa / 256)).stamp o.tag.ctx xl (s.engStep o.tag.ctx xl o.tag.step)
        let old := s.rd xl.pa n
        if s.poisoned xl.pa then (s, .ok (eBytes n old true))
        else (s.wr xl.pa n (atomNew h w old x swp), .ok (eBytes n old false))
  | .ok l =>
    let old := s.regRead l n
    (s.regWrite o.tag.ctx l n (atomNew h w old x swp), .ok (if ret then eBytes n old false else []))

/-- The access in the target context (R312): the state and the data of the answer. -/
def State.remoteDo (s : State) (o : Op) (va : Nat) : RemoteKind → State × Except XFault (List EByte)
  | .read n =>
    match s.opRd o va n with
    | .ok (s, d) => (s, .ok d)
    | .error f => (s, .error f)
  | .write l =>
    (maskRuns l).foldl (fun (acc : State × Except XFault (List EByte)) r =>
      match acc with
      | (s, .error f) => (s, .error f)
      | (s, .ok _) =>
        match s.opWr o (va + r.1) r.2 with
        | (s, none) => (s, .ok [])
        | (s, some f) => (s, .error f)) (s, .ok [])
  | .atomic h w x swp ret => s.remoteAtomic o va h w x swp ret

/-- Whether an entry of the landing map allows an access (Table 14.1). -/
def landAllows (e : Nat) : RemoteKind → Bool
  | .read _ => e / 2 % 2 == 1
  | .write _ => e / 4 % 2 == 1
  | .atomic _ _ _ _ _ => e / 8 % 2 == 1

/-- Whether an access writes. -/
def accWrites : RemoteKind → Bool
  | .read _ => false
  | .write _ => true
  | .atomic _ _ _ _ _ => true

/-- An access from another package (R312, R335): its answer leaves for the sender. -/
def State.remoteArrive (s : State) (r : RemoteAcc) : State :=
  let send (s : State) (m : PodMsg) : State := { s with podOut := s.podOut ++ [m] }
  let k := r.addr / 2 ^ 32 % 256
  let e := s.rd (s.fw.landBase + 16 * k) 8
  let c := bits e 31 20
  if k = 255 ∨ e % 2 = 0 then send (s.arriveRecord .nomem 0 r.addr (accWrites r.kind)) (.accFault r.src r.id false)
  else if !landAllows e r.kind then send (s.arriveRecord .perm c r.addr (accWrites r.kind)) (.accFault r.src r.id false)
  else
    let o := s.remoteOp c
    match s.remoteDo o (bits e 63 44 * 2 ^ 32 + r.addr % 2 ^ 32) r.kind with
    | (s, .ok d) => send s (.data r.src r.id d)
    | (s, .error f) =>
      if f.kind.replayable then send s (.accFault r.src r.id true)
      else send (s.opRecord o f false (accWrites r.kind) 0) (.accFault r.src r.id false)

/-- REMOTE_ACCESS_ARRIVE (R312). -/
def execRemoteAccessArrive (r : RemoteAcc) (s : State) : Host.Outcome State Fault Refusal :=
  .next (if s.stage = .s2 then s.remoteArrive r else s)

/-- REMOTE_RETRY_TIMEOUT (R335): the park ends, and the load is sent again. -/
def execRemoteRetryTimeout (tray : Nat) (s : State) : Host.Outcome State Fault Refusal :=
  .next (match s.trays.get? tray with
    | none => s
    | some t =>
      match t.wait with
      | .park p => if p.kind = .remoteretry then s.setTray tray { t with wait := .run } else s
      | _ => s)

-- Links between dies (R336)

/-- A bitmap without the n units of a die. -/
def cutDie {w : Nat} (b : BitVec w) (n die : Nat) : BitVec w :=
  b &&& ~~~(BitVec.ofNat w ((2 ^ n - 1) * 2 ^ (n * die)))

/-- The units of a set that do not lie on a die (R9, R336). -/
def Units.cutDie (u : Units) (die : Nat) : Units :=
  { u with
    groups := Machine.cutDie u.groups 32 die, banks := Machine.cutDie u.banks 32 die,
    ways := u.ways.filter fun e => e.1 / 32 != die, channels := Machine.cutDie u.channels 96 die,
    copy := Machine.cutDie u.copy 4 die, ual := Machine.cutDie u.ual 4 die, raster := Machine.cutDie u.raster 1 die,
    stack := Machine.cutDie u.stack 3 die }

/-- The outstanding loads of a tray that cross the link of a die, to its memory or from its cores to another's, complete
without data, and the tray traps at the first of them (R336). -/
def State.loseLoads (s : State) (key die : Nat) : State :=
  match s.trays.get? key with
  | none => s
  | some t =>
    match t.pend.filter fun p => p.kind == .load && p.homes.any fun h => (h == die) != (key / 32 / 256 == die) with
    | [] => s
    | p :: r =>
      let t1 := (p :: r).foldl (fun (t : Tray) p => (t.setData p.id []).complete p.id) t
      (s.setTray key t1).raise key (if p.path < 2 then p.path else 0) [.linkdown] p.pc false none

/-- LINK_DOWN (R336): outstanding loads from the die end, its units leave every grant, the contexts that hold a channel
of it halt, and the package reports degraded service. -/
def execLinkDown (die : Nat) (s : State) : Host.Outcome State Fault Refusal :=
  .next (if 4 ≤ die || s.down.getLsbD die then s
    else
      let hit := (s.ctxs.filter fun e => e.2.own.channels &&& ~~~(e.2.own.cutDie die).channels != 0).map (·.1)
      let s := { s with down := s.down ||| 1#4 <<< die }
      let s := s.trays.foldl (fun s e => s.loseLoads e.1 die) s
      let s := hit.foldl (fun s c => s.haltLine c) s
      let s := { s with ctxs := s.ctxs.all' fun _ c => { c with own := c.own.cutDie die } }
      s.hostEvent 3 1 (Config.eventField s.ticks 4) (2 ^ die) (Config.eventField s.ticks 12))

end Sys2Proof.Machine
end

