-- ==== Sys2Proof/Machine/Raster.lean ====
section
/-!
DEFINITION. Raster fronts: passes, streams, the forwarding of primitives, and rasterisation (R338–R352, R358–R362,
R364).
-/

namespace Sys2Proof.Machine

-- The descriptor (Tables 15.1, 15.2)

/-- A doubleword of the descriptor, by its byte. -/
def Pass.dw (p : Pass) (byte : Nat) : Nat := p.desc / 2 ^ (8 * byte) % 2 ^ 64

/-- WIDTH. -/
def Pass.width (p : Pass) : Nat := bits (p.dw 72) 46 32
/-- HEIGHT. -/
def Pass.height (p : Pass) : Nat := bits (p.dw 72) 61 47
/-- TCNT. -/
def Pass.tcnt (p : Pass) : Nat := bits (p.dw 80) 33 22
/-- NSTREAM, which is streams minus 1. -/
def Pass.nstream (p : Pass) : Nat := bits (p.dw 80) 7 0
/-- STATUS. -/
def Pass.status (p : Pass) : Nat := p.dw 112 % 2 ^ 52
/-- Tiles in a row. -/
def Pass.cols (p : Pass) : Nat := (p.width + 63) / 64
/-- Rows of tiles. -/
def Pass.rows (p : Pass) : Nat := (p.height + 63) / 64
/-- FMT of a target. -/
def Pass.fmt (p : Pass) (i : Nat) : Nat := bits (p.dw (16 * i)) 55 52

/-- Bytes of a pixel of a format (Table 15.2). -/
def pixelSize (fmt : Nat) : Nat := if fmt = 3 then 8 else if fmt = 4 then 16 else 4

/-- Bytes of a channel of a format. -/
def channelSize (fmt : Nat) : Nat := pixelSize fmt / 4

/-- A colour target breaks a rule of Table 15.2: a code that is illegal is so in an entry of no target too (DEDUCED), which has
no pixel size to align to. -/
def Pass.badTarget (p : Pass) (i : Nat) : Bool :=
  let a := p.dw (16 * i)
  let b := p.dw (16 * i + 8)
  let z := pixelSize (p.fmt i)
  let pitch := b % 2 ^ 32
  2 ^ 56 ≤ a || 2 ^ 53 ≤ b || 4 < p.fmt i ||
  5 < bits b 34 32 || 5 < bits b 37 35 || bits b 39 38 == 3 || 5 < bits b 42 40 || 5 < bits b 45 43 || bits b 47 46 == 3 ||
  p.fmt i != 0 && (a % 2 ^ 52 % z != 0 || pitch % z != 0 || pitch < p.width * z)

/-- A field is illegal or a reserved one is not zero (Table 15.4, 0x02). -/
def Pass.badField (p : Pass) : Bool :=
  (List.range 4).any p.badTarget ||
  2 ^ 57 ≤ p.dw 64 || p.dw 64 % 4 != 0 || 2 ^ 62 ≤ p.dw 72 || p.dw 72 % 4 != 0 || p.width == 0 || 16384 < p.width ||
  p.height == 0 || 16384 < p.height || 2 ^ 34 ≤ p.dw 80 || bits (p.dw 80) 9 8 == 3 || 2 ^ 48 ≤ p.dw 88 ||
  p.dw 88 % 4 != 0 || 2 ^ 52 ≤ p.dw 96 || 2 ^ 52 ≤ p.dw 104 || 2 ^ 52 ≤ p.dw 112 || p.dw 112 % 64 != 0 || p.dw 120 != 0

/-- The die that owns a tile (R343). -/
def Pass.owner (p : Pass) (tile : Nat) : Nat :=
  if p.map.isEmpty then
    p.fronts.getD ((tile % p.cols + 3 * (tile / p.cols)) % p.fronts.length) 0
  else (p.map.getD tile 0).toNat

/-- The home front of a stream (R344). -/
def Pass.home (p : Pass) (stream : Nat) : Nat := p.fronts.getD (stream % p.fronts.length) 0

/-- A stream. -/
def Pass.stream (p : Pass) (k : Nat) : RStream := (p.streams.get? k).getD ⟨0, false, 0⟩

/-- A tile. -/
def Pass.tile (p : Pass) (k : Nat) : RTile := (p.tiles.get? k).getD ⟨[], [], [], none⟩

/-- Change a pass. -/
def State.onPass (s : State) (k : Nat) (f : Pass → Pass) : State := { s with passes := s.passes.upd k f }

/-- Change a tile of a pass. -/
def Pass.onTile (p : Pass) (k : Nat) (f : RTile → RTile) : Pass := { p with tiles := p.tiles.put k (f (p.tile k)) }

-- The status block (R340)

/-- The 48 bytes of a status block (Table 15.3). -/
def Pass.statusBytes (p : Pass) (state : Nat) : List Byte :=
  bytesOf 8 (p.err * 256 + state) ++ bytesOf 8 p.primin ++ bytesOf 8 p.drop ++ bytesOf 8 p.late ++ bytesOf 8 p.dup ++
    p.nans.flatMap (bytesOf 2)

/-- A terminal fault record of a front (R340, R341). -/
def State.frontRecord (s : State) (f : XFault) (tag : Tag) (wr : Bool) : State :=
  s.faultRecord f false ⟨tag.ctx, tag.core, tag.tray, some tag, false, wr, 0, 0, 0⟩

/-- Write a pass's status block; whether it faulted (R340). -/
def State.statusWrite (s : State) (p : Pass) (state : Nat) : State × Bool :=
  match s.engWrNow p.ctx p.status (clean (p.statusBytes state)) (s.ctx p.ctx).step with
  | (s, none) => (s, false)
  | (s, some f) => (if p.noted then s else s.frontRecord f p.tag true, true)

-- Starting a pass (R338, R341)

/-- Read bytes of a context; poison counts as unreadable. -/
def State.frontRead (s : State) (c va n : Nat) : Except XFault (State × List Byte) := do
  let (s, d) ← s.engRd c va n
  if ePoison d then xerr .tablepoison c va else pure (s, d.map (·.1))

/-- The first failing condition of Table 15.4, but for those of reading: 0 if none. -/
def State.passError (s : State) (p : Pass) (readable : Bool) : Nat :=
  let own := (s.ctx p.ctx).own
  if !readable then 1
  else if p.badField then 2
  else if p.map.any fun b => 3 < b.toNat || !own.raster.getLsbD b.toNat then 3
  else if !own.counters.getLsbD p.tcnt then 4
  else if (List.range (p.cols * p.rows)).any fun k =>
      !(bitList own.groups).any fun g => g / 32 == p.owner k then 5
  else 0

/-- The live pass of a context's descriptor address. -/
def State.passAt (s : State) (c addr : Nat) : Option Nat :=
  (s.passes.find? fun e => e.2.ctx == c && e.2.addr == addr).map (·.1)

/-- The pass that a command names: the live one, or one that it starts (R338, R341). -/
def State.passFor (s : State) (tag : Tag) (addr : Nat) : Option Nat × State :=
  let c := tag.ctx
  match s.passAt c addr with
  | some k => (some k, s)
  | none =>
    match s.frontRead c addr 256 with
    | .error f => (none, s.frontRecord f tag false)
    | .ok (s, d) =>
      let p : Pass := ⟨c, addr, natOf d, tag, 0, bitList (s.ctx c).own.raster, [], 0, 0, 0, 0, [0, 0, 0, 0], [], [], [], [],
        [], false⟩
      match s.passes.firstFree 64 with
      | none => (none, (s.statusWrite { p with err := 6 } 3).1)
      | some k =>
        if 16 ≤ (s.passes.filter fun e => e.2.ctx == c).length then (none, (s.statusWrite { p with err := 6 } 3).1)
        else
          let (s, bad) := s.statusWrite p 1
          let (map, s) := if p.dw 104 = 0 then (some [], s)
            else match s.frontRead c (p.dw 104 % 2 ^ 52) (p.cols * p.rows) with
              | .ok (s, d) => (some d, s)
              | .error _ => (none, s)
          let (img, s) := if p.dw 96 = 0 then (true, s)
            else match s.frontRead c (p.dw 96 % 2 ^ 52) ((p.width + 7) / 8 * ((p.height + 7) / 8)) with
              | .ok (s, _) => (true, s)
              | .error _ => (false, s)
          let p := { p with map := map.getD [], noted := bad }
          let p := { p with err := s.passError p (map.isSome && img) }
          let (s, bad) := if p.err = 0 then (s, false) else s.statusWrite p 3
          (some k, { s with passes := s.passes.put k { p with noted := p.noted || bad } })

-- Primitives at the home front (R345, R347, R348)

/-- An FP32 coordinate snapped to 1/256 pixel (R348): none for a NaN or an infinity. -/
def snap (w : Word) : Option Int :=
  match fmtF32.val w.toNat with
  | .fin s m e =>
    let q := (finToInt .rne s m (e + 8)).1
    some (if s then -(q : Int) else q)
  | _ => none

/-- Whether a word is a finite FP32 value. -/
def isFin (w : Word) : Bool :=
  match fmtF32.val w.toNat with
  | .fin _ _ _ => true
  | _ => false

/-- Whether a word is a finite FP32 value above 0. -/
def isPos (w : Word) : Bool :=
  match fmtF32.val w.toNat with
  | .fin s m _ => !s && m != 0
  | _ => false

/-- Whether a snapped coordinate lies in [−32,768, 32,768). -/
def inGrid (v : Int) : Bool := -8388608 ≤ v && v < 8388608

/-- Edge function of the edge from vertex a to vertex b at a point (R349). -/
def RPrim.edge (p : RPrim) (a b : Nat) (x y : Int) : Int :=
  (p.xs.getD b 0 - p.xs.getD a 0) * (y - p.ys.getD a 0) - (p.ys.getD b 0 - p.ys.getD a 0) * (x - p.xs.getD a 0)

/-- Twice the signed area (R348). -/
def RPrim.area (p : RPrim) : Int :=
  (p.xs.getD 1 0 - p.xs.getD 0 0) * (p.ys.getD 2 0 - p.ys.getD 0 0) -
    (p.xs.getD 2 0 - p.xs.getD 0 0) * (p.ys.getD 1 0 - p.ys.getD 0 0)

/-- A list of three with its last two exchanged. -/
def swap12 {α : Type} : List α → List α
  | [a, b, c] => [a, c, b]
  | l => l

/-- Vertices 1 and 2 exchanged (R348). -/
def RPrim.flip (p : RPrim) : RPrim :=
  { p with
    xs := swap12 p.xs, ys := swap12 p.ys, zs := swap12 p.zs, rhws := swap12 p.rhws, front := false,
    attrs := (List.range (p.attrs.length / 3)).flatMap fun j => swap12 ((p.attrs.drop (3 * j)).take 3) }

/-- An emitted primitive as the home front takes it: none where R348 discards it. -/
def Emit.prim (e : Emit) (stream : Nat) : Option RPrim :=
  let v (i k : Nat) : Word := e.verts.getD (4 * i + k) 0
  match [0, 1, 2].mapM fun i => snap (v i 0), [0, 1, 2].mapM fun i => snap (v i 1) with
  | some xs, some ys =>
    if !(xs ++ ys).all inGrid || !([0, 1, 2].all fun i => isFin (v i 2) && isPos (v i 3)) || e.rate == 7 then none
    else some ⟨e.seq, stream, xs, ys, [v 0 2, v 1 2, v 2 2], [v 0 3, v 1 3, v 2 3], true, e.rate, e.attrs⟩
  | _, _ => none

/-- Width and height of a rate code (Table 15.5). -/
def rateDims (c : Nat) : Nat × Nat :=
  match c with
  | 1 => (1, 2)
  | 2 => (2, 1)
  | 3 => (2, 2)
  | 4 => (2, 4)
  | 5 => (4, 2)
  | 6 => (4, 4)
  | _ => (1, 1)

/-- The rate code of a width and height. -/
def rateCode (d : Nat × Nat) : Nat := ((List.range 7).find? fun c => rateDims c == d).getD 0

/-- Two rates joined by a combiner (R350). -/
def rateCombine (comb a b : Nat) : Nat :=
  let x := rateDims a
  let y := rateDims b
  match comb with
  | 0 => a
  | 1 => b
  | 2 => rateCode (max x.1 y.1, max x.2 y.2)
  | _ => rateCode (min x.1 y.1, min x.2 y.2)

/-- The tiles along an axis that a range of snapped coordinates touches, of n tiles in a target of `size` pixels (R347). -/
def tileSpan (l : List Int) (n size : Nat) : List Nat :=
  let lo := l.foldl min (l.headD 0)
  let hi := l.foldl max (l.headD 0)
  (List.range n).filter fun k => (16384 * (k : Int)) ≤ hi && lo < min (16384 * ((k : Int) + 1)) (256 * size)

/-- The tiles that a primitive's snapped bounding box touches (R347). -/
def Pass.touched (p : Pass) (q : RPrim) : List Nat :=
  (tileSpan q.ys p.rows p.height).flatMap fun ty => (tileSpan q.xs p.cols p.width).map fun tx => ty * p.cols + tx

/-- Send a message from a front to another. -/
def Pass.send (p : Pass) (src dst : Nat) (m : RMsg) : Pass :=
  { p with msgs := p.msgs.put (4 * src + dst) (((p.msgs.get? (4 * src + dst)).getD []) ++ [m]) }

/-- The home front accepts a primitive (R340, R345, R348). -/
def Pass.accept (p : Pass) (stream : Nat) (e : Emit) : Pass :=
  let p := { p with primin := p.primin + 1 }
  if p.err ≠ 0 then p
  else if p.nstream < stream then { p with drop := p.drop + 1 }
  else if (p.stream stream).closed || e.seq < (p.stream stream).w then { p with late := p.late + 1 }
  else match e.prim stream with
    | none => { p with drop := p.drop + 1 }
    | some q =>
      let a := q.area
      let cull := bits (p.dw 80) 9 8
      if a = 0 ∨ (cull = 1 ∧ a < 0) ∨ (cull = 2 ∧ 0 < a) then p
      else
        let q := if a < 0 then q.flip else q
        let q := { q with rate := rateCombine (bits (p.dw 80) 11 10) (p.stream stream).rate q.rate }
        (((p.touched q).map p.owner).eraseDups).foldl (fun p d => p.send (p.home stream) d (.prim q)) p

/-- A watermark at the home front (R345, R361): raised, or with `fin` closed. -/
def Pass.flush (p : Pass) (stream w : Nat) (fin : Bool) : Pass :=
  let x := p.stream stream
  let w := if fin then 2 ^ 48 else w
  if p.nstream < stream || (w ≤ x.w && (x.closed || !fin)) then p
  else
    let p := { p with streams := p.streams.put stream { x with w := max x.w w, closed := x.closed || fin } }
    p.fronts.foldl (fun p d => p.send (p.home stream) d (.mark stream (max x.w w))) p

/-- A draw rate at the home front (R362). -/
def Pass.setRate (p : Pass) (stream rate : Nat) : Pass :=
  if p.nstream < stream then p else { p with streams := p.streams.put stream { p.stream stream with rate := rate } }

-- GEMIT, GFLUSH, PXRATE (R358–R362)

/-- The checks of a command after its legality (R359): CAP, then the descriptor address. -/
def State.frontCheck (s : State) (c : Nat) (addr : Nat) : Option Cause ⊕ List Cause :=
  if (s.ctx c).own.raster = 0 then .inl (some .cap)
  else match addrCauses [(addr, 64)] with
    | [] => .inl none
    | l => .inr l

/-- A command of the issuing die's front (Table 1.4). -/
def frontOp (i : Instr) (s : State) (legal : Src → Bool) (addr : Src → Nat) (regs : Src → Option Bool)
    (f : Src → Cmd) : Host.Outcome State Fault Refusal :=
  engineLate i.opnds s fun r t s =>
    if r.t.p1.isSome || !legal r then .early .illegal
    else match s.frontCheck t.ctx (addr r) with
      | .inl (some c) => .early c
      | .inr cs => .trap t s cs
      | .inl none =>
        match regs r with
        | some true => .early .regovf
        | some false => .stay
        | none =>
          let (t, s) := r.order t s 6 (r.key / 32 / 256) (f r)
          .ok t s

/-- Whether a control quad's fields are legal: STREAM alone, END with `fin`, NATTR with `attr` (R358). -/
def quadLegal (w2 w3 : Word) (fin attr : Bool) : Bool :=
  w2.toNat < 2 ^ 14 && (fin || !w2.getLsbD 8) && (attr || bits w2.toNat 13 9 == 0) && w3 == 0

/-- The emission of a thread (R360). -/
def Src.emit (r : Src) (d a : BitVec 7) (nattr th : Nat) : Emit :=
  let hi := r.t.vreg (d.toNat + 1) th
  ⟨(r.v d th).toNat + 2 ^ 32 * (hi.toNat % 65536), bits hi.toNat 18 16,
   (List.range 12).map fun k => r.t.vreg (a.toNat + k) th,
   (List.range (3 * nattr)).map fun k => r.t.vreg (a.toNat + 12 + k) th⟩

/-- GEMIT (R360). -/
def execGemit (d a : BitVec 7) (b : SB) (s : State) : Host.Outcome State Fault Refusal :=
  let nattr (r : Src) : Nat := bits (r.sq b 2).toNat 13 9
  let block (r : Src) : Nat := 12 + 3 * nattr r
  frontOp (.gemit d a b) s
    (fun r => quadLegal (r.sq b 2) (r.sq b 3) false true && nattr r ≤ 16 && a.toNat + block r ≤ 128)
    (fun r => (pair (r.sq b 0) (r.sq b 1)).toNat)
    (fun r =>
      if r.t.n < r.t.vwin + d.toNat + 2 ∨ r.t.n < r.t.vwin + a.toNat + block r then some true
      else if r.t.pend.any fun p => p.vdst.any fun k => (List.range' (r.t.vwin + a.toNat) (block r)).contains k then
        some false
      else none)
    fun r => .emit (pair (r.sq b 0) (r.sq b 1)).toNat ((r.sq b 2).toNat % 256)
      ((maskThreads r.m0).map fun th => r.emit d a (nattr r) th)

/-- GFLUSH (R361). Accesses are performed when they issue, so the release has nothing left to wait for. -/
def execGflush (a : BitVec 7) (b : SB) (s : State) : Host.Outcome State Fault Refusal :=
  frontOp (.gflush a b) s
    (fun r => quadLegal (r.sn a 2) (r.sn a 3) true false && ((r.sn a 2).getLsbD 8 || (r.sbz64 b).toNat < 2 ^ 48))
    (fun r => (r.s2 a).toNat) (fun _ => none)
    fun r => .flush (r.s2 a).toNat ((r.sn a 2).toNat % 256) (r.sbz64 b).toNat ((r.sn a 2).getLsbD 8)

/-- PXRATE (R362). -/
def execPxrate (a : BitVec 7) (b : SB) (s : State) : Host.Outcome State Fault Refusal :=
  frontOp (.pxrate a b) s
    (fun r => quadLegal (r.sn a 2) (r.sn a 3) false false && (r.sb b).toNat < 7)
    (fun r => (r.s2 a).toNat) (fun _ => none)
    fun r => .rate (r.s2 a).toNat ((r.sn a 2).toNat % 256) (r.sb b).toNat

/-- A front performs a command on the pass that its descriptor address names (R338, R360–R362). -/
def State.frontGo (s : State) (o : Op) (k : Cmd) : State :=
  let on (addr : Nat) (f : Pass → Pass) : State :=
    match s.passFor o.tag addr with
    | (some n, s) => s.onPass n f
    | (none, s) => s
  match k with
  | .emit addr stream l => on addr fun p => l.foldl (fun p e => p.accept stream e) p
  | .flush addr stream w fin => on addr fun p => p.flush stream w fin
  | .rate addr stream r => on addr fun p => p.setRate stream r
  | _ => s

-- Messages between fronts (R346, R347)

/-- Take the first message from one front to another. -/
def Pass.takeMsg (p : Pass) (src dst : Nat) : Option (RMsg × Pass) :=
  match p.msgs.get? (4 * src + dst) with
  | some (m :: r) =>
    some (m, { p with msgs := if r.isEmpty then p.msgs.del (4 * src + dst) else p.msgs.put (4 * src + dst) r })
  | _ => none

/-- A primitive enters the bins of the owner's tiles that it touches; a duplicate is discarded (R345). -/
def Pass.enter (p : Pass) (dst : Nat) (q : RPrim) : Pass :=
  ((p.touched q).filter fun k => p.owner k == dst).foldl (fun p k =>
    if ((p.tile k).bin.get? q.seq).isSome then { p with dup := p.dup + 1 }
    else p.onTile k fun x => { x with bin := x.bin.put q.seq q }) p

/-- PRIMITIVE_ARRIVE (R347). -/
def execPrimitiveArrive (pass src dst : Nat) (s : State) : Host.Outcome State Fault Refusal :=
  .next (match (s.passes.get? pass).bind fun p => p.takeMsg src dst with
    | some (.prim q, p) => { s with passes := s.passes.put pass (p.enter dst q) }
    | _ => s)

/-- WATERMARK_ARRIVE (R346, R347). -/
def execWatermarkArrive (pass src dst : Nat) (s : State) : Host.Outcome State Fault Refusal :=
  .next (match (s.passes.get? pass).bind fun p => p.takeMsg src dst with
    | some (.mark st w, p) => { s with passes := s.passes.put pass { p with marks := p.marks.put (256 * dst + st) w } }
    | _ => s)

/-- The lowest primitive of a tile's bin, if it is ready (R346). -/
def Pass.readyPrim (p : Pass) (tile : Nat) : Option RPrim :=
  match (p.tile tile).bin with
  | [] => none
  | (_, q) :: _ =>
    if (List.range (p.nstream + 1)).all fun st => q.seq < (p.marks.get? (256 * p.owner tile + st)).getD 0 then some q
    else none

-- Rasterisation (R349–R351)

/-- An edge's value at a point counts as inside (R349). -/
def RPrim.inside (p : RPrim) (a b : Nat) (x y : Int) : Bool :=
  let e := p.edge a b x y
  let dy := p.ys.getD b 0 - p.ys.getD a 0
  let dx := p.xs.getD b 0 - p.xs.getD a 0
  0 < e || (e == 0 && ((dy == 0 && 0 < dx) || dy < 0))

/-- Fine pixel (x, y) of a pass's target is covered (R349). -/
def Pass.covered (p : Pass) (q : RPrim) (x y : Nat) : Bool :=
  let cx : Int := 256 * x + 128
  let cy : Int := 256 * y + 128
  x < p.width && y < p.height && q.inside 0 1 cx cy && q.inside 1 2 cx cy && q.inside 2 0 cx cy

/-- The coverage of a coarse pixel (R351, Table 15.7): bit 4 dy + dx. -/
def Pass.cover (p : Pass) (q : RPrim) (x y w h : Nat) : BitVec 16 :=
  BitVec.ofNat 16 (((List.range h).map fun dy => ((List.range w).map fun dx =>
    if p.covered q (x + dx) (y + dy) then 2 ^ (4 * dy + dx) else 0).sum).sum)

/-- The coarse quads of a primitive in the 8 × 8 region at (x, y), in row-major order (R351, R352). -/
def Pass.regionQuads (p : Pass) (q : RPrim) (x y rate : Nat) : List Quad :=
  let (w, h) := rateDims rate
  ((List.range (4 / h)).flatMap fun j => (List.range (4 / w)).map fun i =>
    let qx := x + 2 * w * i
    let qy := y + 2 * h * j
    (⟨q.seq, qx, qy, w, h,
      [p.cover q qx qy w h, p.cover q (qx + w) qy w h, p.cover q qx (qy + h) w h, p.cover q (qx + w) (qy + h) w h]⟩ :
      Quad)).filter fun k => k.cover.any fun c => c != 0

/-- The rate of a region (R350): its rate image byte is read now. -/
def State.regionRate (s : State) (p : Pass) (q : RPrim) (x y : Nat) : Nat × State :=
  if p.dw 96 = 0 then (q.rate, s)
  else
    let a := p.dw 96 % 2 ^ 52 + y / 8 * ((p.width + 7) / 8) + x / 8
    let (b, s) := match s.engTake p.ctx a 1 with
      | (some b, s) => (b, s)
      | (none, s) => ((Config.lostRate s.ticks a).toNat, s)
    (rateCombine (bits (p.dw 80) 13 12) q.rate (if 7 ≤ b then 0 else b), s)

/-- The quads of a primitive in a tile (R352). -/
def State.tileQuads (s : State) (p : Pass) (q : RPrim) (tile : Nat) : List Quad × State :=
  (List.range 64).foldl (fun (acc : List Quad × State) r =>
    let x := 64 * (tile % p.cols) + 8 * (r % 8)
    let y := 64 * (tile / p.cols) + 8 * (r / 8)
    if p.width ≤ x ∨ p.height ≤ y then acc
    else
      let (rate, s) := acc.2.regionRate p q x y
      (acc.1 ++ p.regionQuads q x y rate, s)) ([], s)

/-- TILE_RASTERISE (R346, R349, R352): the lowest ready primitive of a tile becomes quads; while a whole tray waits to be
placed the tile's rasterisation waits (R353). -/
def execTileRasterise (pass tile : Nat) (s : State) : Host.Outcome State Fault Refusal :=
  .next (match s.passes.get? pass with
    | none => s
    | some p =>
      match p.readyPrim tile with
      | none => s
      | some q =>
        if 24 ≤ (p.tile tile).quads.length then s
        else
          let (l, s) := s.tileQuads p q tile
          s.onPass pass fun p => p.onTile tile fun x =>
            { x with bin := x.bin.del q.seq, quads := x.quads ++ l,
                     prims := if l.isEmpty then x.prims else x.prims.put q.seq q })

-- Interpolation (R364)

/-- An exact ratio n ÷ d rounded once to a format, to nearest even; d is above 0. -/
def Fmt.ratio (f : Fmt) (n : Int) (d : Nat) : Nat :=
  if n = 0 then 0
  else
    let (m, e) := divSticky (f.mb + 4) n.natAbs 0 d 0
    (f.result .rne false (n < 0) m e).1

/-- A finite FP32 value times 2^149. -/
def fixed149 (w : Word) : Int :=
  match fmtF32.val w.toNat with
  | .fin s m e => scaled s m e (-149)
  | _ => 0

/-- The unnormalised barycentrics at a point (R349). -/
def RPrim.bary (p : RPrim) (x y : Int) : List Int := [p.edge 1 2 x y, p.edge 2 0 x y, p.edge 0 1 x y]

/-- A NaN made canonical. -/
def canonF32 (w : Word) : Word := if (fmtF32.val w.toNat).isNan then 0x7FC00000 else w

/-- Linear interpolation of three values at a point (R364). -/
def RPrim.linear (p : RPrim) (a : List Word) (x y : Int) : Word :=
  if !a.all isFin then 0x7FC00000
  else
    let l := p.bary x y
    BitVec.ofNat 32 (fmtF32.ratio ((l.zipWith (fun e v => e * fixed149 v) a).sum) (l.sum.toNat * 2 ^ 149))

/-- Perspective interpolation of three values at a point (R364). -/
def RPrim.persp (p : RPrim) (a : List Word) (x y : Int) : Word :=
  if !a.all isFin then 0x7FC00000
  else
    let r := (p.bary x y).zipWith (fun e w => e * fixed149 w) p.rhws
    let den := r.sum
    if den ≤ 0 then a.headD 0
    else BitVec.ofNat 32 (fmtF32.ratio ((r.zipWith (fun e v => e * fixed149 v) a).sum) (den.toNat * 2 ^ 149))

end Sys2Proof.Machine
end

