-- ==== Sys2Proof/Machine/Launch.lean ====
section
/-!
DEFINITION. The launch engine: queues and records (R64–R70), the hierarchy of work and its completion (R73–R75), the
aggregator (R83), continuation records (R71, R72, R84, R85), and the instructions of major 0x35 (R81–R88).
-/

namespace Sys2Proof.Machine

-- Launch records (Table 3.3)

/-- The 256 bytes of a launch record as a number. -/
structure Rec where
  raw : Nat
  deriving DecidableEq, Repr

/-- Bits hi..lo of the doubleword at a byte offset. -/
def Rec.f (r : Rec) (byte hi lo : Nat) : Nat := bits r.raw (8 * byte + hi) (8 * byte + lo)

/-- A res0 field is not zero (Table 3.3). -/
def Rec.badRes0 (r : Rec) : Bool :=
  r.f 0 63 51 != 0 || r.f 0 31 28 != 0 || r.f 8 63 48 != 0 || r.f 24 63 48 != 0 || r.f 32 63 52 != 0 ||
  r.f 40 63 52 != 0 || r.f 48 63 57 != 0 || r.raw / 2 ^ 1600 % 2 ^ 448 != 0

/-- Batches per cluster. -/
def Rec.cls (r : Rec) : Nat := r.f 0 50 43 + 1
/-- Trays per batch. -/
def Rec.trays (r : Rec) : Nat := r.f 0 42 38 + 1
/-- Registers per tray. -/
def Rec.regs (r : Rec) : Nat := 16 * (r.f 0 37 32 + 1)
/-- NBATCH. -/
def Rec.nbatch (r : Rec) : Nat := r.f 16 47 0
/-- Bytes of the cluster scratchpad region. -/
def Rec.spad (r : Rec) : Nat := 4096 * r.f 16 63 48
/-- COOP. -/
def Rec.coop (r : Rec) : Bool := r.f 0 18 18 == 1

/-- A launch as its record and its parent, if it is spawned, make it (R82): a child takes its parent's identifiers. -/
def Rec.launch (r : Rec) (c : Nat) (gen : BitVec 16) (qpos order : Nat) (parent : Option (Nat × Launch))
    (inputs : List (Nat × Nat × Nat × Nat)) : Launch where
  ctx := c
  gen := gen
  code := BitVec.ofNat 48 (r.f 8 47 0)
  clsc := r.f 0 50 43
  traysc := r.f 0 42 38
  regsc := r.f 0 37 32
  ninp := r.f 0 24 21
  agg := r.f 0 20 20 == 1
  dual := r.f 0 19 19 == 1
  coop := r.coop
  prio := r.f 0 17 16
  scrsz := r.f 16 63 48
  nbatch := r.nbatch
  event := r.f 24 47 32
  job := (parent.map fun p => p.2.job).getD (r.f 24 31 0)
  phase := (parent.map fun p => p.2.phase).getD (r.f 56 63 32)
  graph := (parent.map fun p => p.2.graph).getD (r.f 56 31 0)
  ccaddr := r.f 32 51 0
  inptr := r.f 40 51 0
  ind := r.f 48 51 0
  indlog := r.f 48 56 52
  inputs := inputs
  indNext := 0
  indHeld := none
  consts := (List.range 32).map fun k => BitVec.ofNat 32 (r.f (64 + 4 * k) 31 0)
  parent := parent.map (·.1)
  depth := (parent.map fun p => p.2.depth + 1).getD 0
  qpos := qpos
  count := r.nbatch
  expanded := 0
  underflow := false
  rejected := false
  misdir := false
  cancelled := false
  complete := false
  window := none
  order := order

/-- Write bits over those of a list of launches' flags. -/
def State.onLaunch (s : State) (slot : Nat) (f : Launch → Launch) : State :=
  { s with launches := s.launches.upd slot f }

-- The hierarchy table (R74)

/-- Change the hierarchy entry of a context, level and identifier. -/
def State.onHier (s : State) (c level id : Nat) (f : HEntry → HEntry) : State :=
  { s with hier := s.hier.map fun e => if e.ctx == c && e.level == level && e.ident == id then f e else e }

/-- The hierarchy entry of a context, level and identifier. -/
def State.hierOf (s : State) (c level id : Nat) : Option HEntry :=
  s.hier.find? fun e => e.ctx == c && e.level == level && e.ident == id

/-- The levels a launch names, from its graph up: level and identifier (R74). -/
def Launch.levels (l : Launch) : List (Nat × Nat) := [(1, l.graph), (2, l.phase), (3, l.job)].filter fun x => x.2 != 0

/-- Create the entries a launch names that do not exist, each counted in the one above, and count the launch in its
nearest level (R74). -/
def State.hierAdd (s : State) (l : Launch) : List (Nat × Nat) → Bool → State
  | [], _ => s
  | (lv, id) :: r, counts =>
    let bump (s : State) : State := if counts then s.onHier l.ctx lv id fun e => { e with count := e.count + 1 } else s
    match s.hierOf l.ctx lv id with
    | some _ => State.hierAdd (bump s) l r false
    | none =>
      let e : HEntry := ⟨l.ctx, lv, id, 0, false, false, false, false, false, false, r.headD (0, 0), l.order⟩
      State.hierAdd (bump { s with hier := s.hier ++ [e] }) l r true

/-- A level completes when it is closed, or cancelled, and its count is zero, and the level above counts it no more
(R74, R86); `n` levels at most. -/
def State.hierSettle (s : State) (c : Nat) : Nat → Nat × Nat → State
  | 0, _ => s
  | n + 1, (lv, id) =>
    match s.hierOf c lv id with
    | none => s
    | some e =>
      if (e.closed || e.cancelled) && e.count == 0 && !e.complete then
        let s := s.onHier c lv id fun e => { e with complete := true }
        if e.up.1 = 0 then s
        else
          State.hierSettle (s.onHier c e.up.1 e.up.2 fun x => { x with count := x.count - 1 }) c n e.up
      else s

/-- Set a flag of a launch and of every level it names (R87). -/
def State.flagLaunch (s : State) (slot : Nat) (f : Launch → Launch) (g : HEntry → HEntry) : State :=
  match s.launches.get? slot with
  | none => s
  | some l => l.levels.foldl (fun s x => s.onHier l.ctx x.1 x.2 g) (s.onLaunch slot f)

/-- A child or record of a launch was rejected (R87). -/
def State.flagRejected (s : State) (slot : Nat) : State :=
  s.flagLaunch slot (fun l => { l with rejected := true }) fun e => { e with rejected := true }

-- Completion (R73)

/-- The launch handle (R70). -/
def Launch.handle (l : Launch) (slot : Nat) : Nat := l.gen.toNat * 65536 + slot

/-- The add to the word at CCADDR (R73): an engine access of the launch's context; a fault of any kind, the want of a frame
among them, skips it and goes to the terminal ring, and the copy of a frozen page is waited for (R246). Of the tag the
spec gives the ENG field; CORE, TRAY and SEQ are 0 and VER names no version (DESIGN CHOICE). -/
def State.ccAdd (s : State) (l : Launch) : State :=
  if l.ccaddr = 0 then s
  else
    let c := s.ctx l.ctx
    let tag : Tag := ⟨l.ctx, c.gen, 0, 0, l.prio, 9, 0, c.step, noVer⟩
    let fail (s : State) (f : XFault) : State :=
      s.faultRecord f false ⟨l.ctx, 0, 0, some tag, false, true, 0, 0, 0⟩
    match s.engRd l.ctx l.ccaddr 8 with
    | .error f => fail s f
    | .ok (s, d) =>
      let v := natOf (d.map (·.1)) + 1
      let bad := d.any (·.2)
      match s.engWrNow l.ctx l.ccaddr ((bytesOf 8 v).map fun b => (b, bad)) c.step with
      | (s, none) => s
      | (s, some f) => fail s f

/-- A launch whose count is zero completes after the add at CCADDR: the event, and the counts of its level (R73). -/
def State.launchOver (s : State) (slot : Nat) (l : Launch) : State :=
  let s := s.onLaunch slot fun l => { l with complete := true, indHeld := none }
  let s := s.hostEvent 1 l.event l.ctx (l.handle slot) (if l.cancelled then 2 else 1)
  match l.levels with
  | [] => s
  | x :: _ => (s.onHier l.ctx x.1 x.2 fun e => { e with count := e.count - 1 }).hierSettle l.ctx 4 x

/-- A launch's count falls; at zero it completes: the release, the word at CCADDR, the event, and the counts of its level
and of its parent (R73). `n` bounds the chain of parents (R82). -/
def State.launchDrop (s : State) : Nat → Nat → Nat → State
  | 0, _, _ => s
  | n + 1, slot, k =>
    match s.launches.get? slot with
    | none => s
    | some l =>
      let l := { l with count := l.count - k }
      let s := s.onLaunch slot fun _ => l
      if l.count != 0 || l.complete then s
      else
        let s := (s.ccAdd l).launchOver slot l
        match l.parent with
        | some p => State.launchDrop s n p 1
        | none => s

/-- One unit of a launch's count is done. -/
def State.launchDec (s : State) (slot : Nat) : State := s.launchDrop 20 slot 1

-- Acceptance (R69, R77, R81, Table 3.7)

/-- Whether a launch fits on a context's whole grant (R77): with scratchpad, or as far as cores go. -/
def State.fitsGrant (s : State) (c qpos : Nat) (r : Rec) (withSpad : Bool) : Bool :=
  let n := if r.coop then r.nbatch / r.cls else 1
  if 32 * (s.coresOf c).length < n * r.cls * r.trays then false
  else
    let asks := List.replicate r.cls (⟨r.regs * r.trays, r.trays, []⟩ : Ask)
    fitsAll (s.diesFor c qpos) asks (if withSpad then r.spad else 0) n (s.roomsEmpty c)
      ((List.range 4).map fun d => s.spadTotal c d)

/-- The declared inputs of a record: code 0, with the table as it stands now, where they are valid (R69), else 0x0006 or
0x0008. An INPTR that is not 16-byte aligned is an invalid input, code 0x0006 (DESIGN CHOICE: Table 3.3 requires the
alignment and no rule names the code). -/
def State.inputsCheck (s : State) (c : Nat) (r : Rec) : Nat × List (Nat × Nat × Nat × Nat) × State :=
  let n := r.f 0 24 21
  if n = 0 then (0, [], s)
  else if 8 < n ∨ r.f 40 3 0 ≠ 0 ∨ (s.ctx c).own.copy = 0 then (6, [], s)
  else match s.inputTable c (r.f 40 51 0) n with
    | (none, s) => (8, [], s)
    | (some l, s) => (if l.any fun x => x.2.2.1 == 0 || r.spad < x.2.1 + x.2.2.1 then 6 else 0, l, s)

/-- The first condition of Table 3.7 that holds of a record, or 0; `cap` is the most urgent priority allowed. A child of a
batch that still runs of a cancelled launch is rejected with 0x000C, as work submitted to cancelled levels is (DESIGN
CHOICE: R86 names the levels). -/
def State.recCheck (s : State) (c qpos cap : Nat) (r : Rec) (parent : Option (Nat × Launch)) :
    Nat × List (Nat × Nat × Nat × Nat) × State :=
  let l := r.launch c 0 qpos 0 parent []
  if r.badRes0 then (1, [], s)
  else if 2048 < r.regs * r.trays then (2, [], s)
  else if r.nbatch = 0 ∨ r.nbatch % r.cls ≠ 0 then (3, [], s)
  else if !s.fitsGrant c qpos r false then (4, [], s)
  else if r.f 8 1 0 ≠ 0 then (5, [], s)
  else match s.inputsCheck c r with
    | (0, inputs, s) =>
      let es := l.levels.filterMap fun x => s.hierOf c x.1 x.2
      let spawned := parent.isSome
      let dead := (parent.map fun p => p.2.cancelled).getD false
      (if l.prio < cap then 7
       else if spawned && (s.launches.firstFree 65536).isNone then 9
       else if 16384 < r.f 16 63 48 ∨ !s.fitsGrant c qpos r true then 10
       else if 65536 < s.hier.length + (l.levels.length - es.length) then 11
       else if dead || es.any fun e => e.cancelled || (e.closed && !spawned) then 12
       else if 15 < l.depth then 13
       else 0, inputs, s)
    | k => k

/-- Accept a record that has passed its checks into a launch-table slot (R70, R74). -/
def State.acceptLaunch (s : State) (slot c qpos : Nat) (r : Rec) (parent : Option (Nat × Launch))
    (inputs : List (Nat × Nat × Nat × Nat)) : State :=
  let l := r.launch c (smGet s.launchGen slot) qpos s.launchOrder parent inputs
  let s := { s with launches := s.launches.put slot l, launchOrder := s.launchOrder + 1 }
  let s := s.hierAdd l l.levels true
  match parent with
  | some p => s.onLaunch p.1 fun x => { x with count := x.count + 1 }
  | none =>
    let close (s : State) (lv id bit : Nat) : State :=
      if id = 0 ∨ r.f 0 bit bit = 0 then s
      else (s.onHier c lv id fun e => { e with closed := true }).hierSettle c 4 (lv, id)
    close (close (close s 1 l.graph 25) 2 l.phase 26) 3 l.job 27

-- Launch queues (R66, R67)

/-- The context that holds a launch queue. -/
def State.queueOwner (s : State) (q : Nat) : Option Nat :=
  (s.ctxs.find? fun e => e.2.own.queues.getLsbD q && e.2.st != .free).map (·.1)

/-- Change a queue control block. -/
def State.onQcb (s : State) (q : Nat) (f : Qcb → Qcb) : State := { s with qcbs := s.qcbs.put q (f (s.qcb q)) }

/-- The position of a queue among those its context holds (R236). -/
def State.queuePos (s : State) (c q : Nat) : Nat := ((bitList (s.ctx c).own.queues).filter fun x => x < q).length

/-- What reading one slot of a queue comes to. -/
inductive SlotRes where
  /-- the queue goes on with its next slot -/
  | next
  /-- the record is not yet visible -/
  | hidden
  /-- no launch-table entry is free -/
  | full
  deriving DecidableEq, Repr

/-- Read, validate and accept the record in a queue's next slot (R67). -/
def State.readSlot (s : State) (c q : Nat) : SlotRes × State :=
  let b := s.qcb q
  let va := b.base.toNat + 256 * (b.ridx.toNat % 2 ^ b.slotlog.toNat)
  let done (s : State) (h : Nat) : SlotRes × State :=
    let s := (s.engWrNow c (va + 192) (clean (bytesOf 8 h)) (s.ctx c).step).1
    (.next, s.onQcb q fun b => { b with ridx := b.ridx + 1 })
  match s.engTake c va 256 with
  | (none, s) => done s 0xFFFF0008
  | (some x, s) =>
    let r : Rec := ⟨x⟩
    if r.f 0 15 0 ≠ b.ridx.toNat % 65536 then (.hidden, s)
    else match s.launches.firstFree 65536 with
      | none => (.full, s)
      | some slot =>
        let qpos := s.queuePos c q
        match s.recCheck c qpos b.pcap.toNat r none with
        | (0, l, s) => done (s.acceptLaunch slot c qpos r none l) ((smGet s.launchGen slot).toNat * 65536 + slot)
        | (k, _, s) => done s (0xFFFF0000 + k)

/-- The records of a queue, at most n, until none is left, one is not visible, the launch table is full (R67), or the queue
is disabled, after the record that was being read (R66). -/
def State.drainQueue (s : State) (c q : Nat) : Nat → State
  | 0 => s
  | n + 1 =>
    let b := s.qcb q
    if !b.en && b.qstate != 3 then s.onQcb q fun b => { b with qstate := 0 }
    else if b.ridx = b.widx then s.onQcb q fun b => { b with qstate := 1 }
    else match s.readSlot c q with
      | (.next, s) => State.drainQueue (s.onQcb q fun b => { b with qstate := 1 }) c q n
      | (.hidden, s) => s.onQcb q fun b => { b with qstate := if b.en then 1 else 0, waiting := true }
      | (.full, s) =>
        let s := s.onQcb q fun b => { b with qstate := 3 }
        if s.qwait.contains q then s else { s with qwait := s.qwait ++ [q] }

/-- The context of a queue takes no record while it halts or is revoked (R408, R412). -/
def State.queueHeld (s : State) (q : Nat) : Bool :=
  match s.queueOwner q with
  | none => true
  | some c => (s.ctx c).st == .halting || (s.ctx c).st == .halted || (s.ctx c).st == .revoking

/-- The launch engine examines a queue (R66, R67), unless it waits for a write to WIDX or for a launch-table entry. -/
def State.kick (s : State) (q : Nat) : State :=
  let b := s.qcb q
  let err (n : Nat) : State := s.onQcb q fun b => { b with qstate := 2, err := BitVec.ofNat 8 n }
  if (!b.en && b.qstate != 3) || b.qstate == 2 || b.waiting then s
  else match s.queueOwner q with
    | none => s
    | some c =>
      if s.queueHeld q then s
      else if b.slotlog.toNat < 4 ∨ 16 < b.slotlog.toNat ∨ b.base.toNat % 256 ≠ 0 then err 2
      else if 2 ^ b.slotlog.toNat < (b.widx - b.ridx).toNat then err 1
      else if s.qwait.contains q then s
      else s.drainQueue c q (2 ^ b.slotlog.toNat + 1)

/-- Launch-table entries that have become free go to the queues that wait, the one that has waited longest first (R67); n
bounds the queues. -/
def State.serveQueues (s : State) : Nat → State
  | 0 => s
  | n + 1 =>
    if (s.launches.firstFree 65536).isNone then s
    else match s.qwait.find? fun q => !s.queueHeld q with
      | none => s
      | some q => State.serveQueues (State.kick { s with qwait := s.qwait.filter (· != q) } q) n

/-- A write to WIDX makes the launch engine examine the queue (R67). -/
def State.doorbell (s : State) (q : Nat) : State := (s.onQcb q fun b => { b with waiting := false }).kick q

/-- EN goes from 0 to 1 (R66). A record that the queue was still reading is passed over with all before the present WIDX
(DESIGN CHOICE: R66 sets RIDX to WIDX, and says nothing of that record). -/
def State.enableQueue (s : State) (q : Nat) : State :=
  if (s.qcb q).en then s
  else
    { s.onQcb q fun b => { b with en := true, ridx := b.widx, qstate := 1, err := 0, waiting := false } with
      qwait := s.qwait.filter (· != q) }

/-- EN = 0 (R66): the queue is disabled after the record being read. -/
def State.disableQueue (s : State) (q : Nat) : State :=
  s.onQcb q fun b => { b with en := false, qstate := if b.qstate = 3 then 3 else 0 }

/-- A write to an aligned doubleword of a QCB (Table 3.2). -/
def State.qcbDword (s : State) (q k v : Nat) : State :=
  match k with
  | 0 =>
    if (s.qcb q).qstate = 0 then
      s.onQcb q fun b => { b with slotlog := BitVec.ofNat 5 (bits v 56 52), base := BitVec.ofNat 52 v }
    else s
  | 1 => (s.onQcb q fun b => { b with widx := BitVec.ofNat 32 v }).doorbell q
  | 4 =>
    let s := s.onQcb q fun b => { b with pcap := BitVec.ofNat 2 (bits v 2 1) }
    if v % 2 = 1 then s.enableQueue q else s.disableQueue q
  | _ => s

/-- Bytes written over those of a doubleword: n bytes of v at byte offset `off` of aligned doublewords, as they fall on
doubleword k. -/
def mergeDword (old off n v k : Nat) : Nat :=
  ((List.range 8).map fun i =>
    let a := 8 * k + i
    (if off ≤ a ∧ a < off + n then v / 256 ^ (a - off) % 256 else old / 256 ^ i % 256) * 256 ^ i).sum

/-- A write of n bytes to a QCB: each doubleword it touches takes its bytes in turn (R66). -/
def State.qcbWrite (s : State) (q off n v : Nat) : State :=
  ((List.range 8).filter fun k => off < 8 * k + 8 && 8 * k < off + n).foldl
    (fun s k => s.qcbDword q k (mergeDword ((s.qcb q).dword (8 * k)) off n v k)) s

/-- QUEUE_KICK (R67): WIDX was written. -/
def execQueueKick (q : Nat) (s : State) : Host.Outcome State Fault Refusal := .next (if q < 1024 then s.doorbell q else s)

/-- QUEUE_ENABLE (R66). -/
def execQueueEnable (q : Nat) (s : State) : Host.Outcome State Fault Refusal :=
  .next (if q < 1024 then s.enableQueue q else s)

/-- QUEUE_DISABLE (R66). -/
def execQueueDisable (q : Nat) (s : State) : Host.Outcome State Fault Refusal :=
  .next (if q < 1024 then s.disableQueue q else s)

/-- The next generation of a launch-table slot; 0xFFFF is never issued (R70). -/
def nextLaunchGen (g : BitVec 16) : BitVec 16 := if g = 0xFFFE then 0 else g + 1

/-- The next generation of a pool index; 0xFFF is never issued (R72). -/
def nextContGen (g : BitVec 12) : BitVec 12 := if g = 0xFFE then 0 else g + 1

/-- Free a continuation record (R72). -/
def Ctx.freeCont (t : Ctx) (i : Nat) : Ctx :=
  { t with conts := t.conts.del i, contGen := smSet t.contGen i (nextContGen (smGet t.contGen i)) }

/-- LAUNCH_SLOT_FREE (R70): a completed launch's slot is freed, its cancelled records with it, and queues that have waited
go on. -/
def execLaunchSlotFree (slot : Nat) (s : State) : Host.Outcome State Fault Refusal :=
  .next (match s.launches.get? slot with
    | none => s
    | some l =>
      if !l.complete then s
      else
        let dead := ((s.ctx l.ctx).conts.filter fun e => e.2.lslot == slot).map (·.1)
        let s := { s with launches := s.launches.del slot,
                          launchGen := smSet s.launchGen slot (nextLaunchGen (smGet s.launchGen slot)) }
        let s := s.onCtx l.ctx fun t => dead.foldl (fun t i => t.freeCont i) t
        s.serveQueues s.qwait.length)

/-- HIERARCHY_ENTRY_FREE (R74). -/
def execHierarchyEntryFree (ctx level id : Nat) (s : State) : Host.Outcome State Fault Refusal :=
  .next { s with hier := s.hier.filter fun e =>
    !(e.ctx == ctx && e.level == level && e.ident == id && e.complete) }

-- Expansion (R76)

/-- A new batch of a launch, not yet placed. -/
def Launch.batch (l : Launch) (slot cluster : Nat) (idx : DWord) (cont : Option Nat) (code frame : BitVec 48) : Batch where
  ctx := l.ctx
  lslot := slot
  cluster := cluster
  cont := cont
  code := code
  frame := frame
  prio := l.prio
  dual := l.dual
  trays := l.traysc + 1
  regs := 16 * (l.regsc + 1)
  batchId := idx
  core := none
  started := false
  inputs := if cont.isSome then 0 else l.ninp
  inErr := false
  age := 0
  image := []
  tiles := []
  saved := none
  offs := []
  loading := false
  pixel := false

/-- A new cluster of a launch: its batches join the ready queue (R64, R72). -/
def State.addCluster (s : State) (l : Launch) (slot : Nat) (clusterId : Word) (n : Nat) (mk : Nat → Nat → Batch) : State :=
  let id := s.nextId
  let bs := (List.range n).map fun i => (id + 1 + i, mk id i)
  let k : Cluster := ⟨l.ctx, slot, clusterId, none, l.prio, l.coop && (bs.all fun b => b.2.cont.isNone), bs.map (·.1),
    4096 * l.scrsz, [], [], [], false, none⟩
  { s with nextId := id + 1 + n, clusters := s.clusters.put id k, ready := s.ready ++ [id],
           batches := bs.foldl (fun m b => m.put b.1 b.2) s.batches }

/-- Batches of a launch that are expanded and not placed. -/
def State.unplacedOf (s : State) (slot : Nat) : Nat :=
  (s.batches.filter fun e => e.2.lslot == slot && e.2.core.isNone && !e.2.started && e.2.cont.isNone).length

/-- LAUNCH_EXPAND (R76): the next cluster of a launch, while at most 64 of its records are unplaced; the clusters of a
cooperative launch are all expanded before it is placed. A cluster of more than 64 batches is expanded when no record of
the launch is unplaced (DESIGN CHOICE: R76 bounds the unplaced records by 64 and expands whole clusters). -/
def execLaunchExpand (die slot : Nat) (s : State) : Host.Outcome State Fault Refusal :=
  .next (match s.launches.get? slot with
    | none => s
    | some l =>
      let n := l.clsc + 1
      let u := s.unplacedOf slot
      if 4 ≤ die || !s.dies.getLsbD die || !(s.diesFor l.ctx l.qpos).contains die || l.cancelled || l.window.isSome ||
          (s.ctx l.ctx).st != .running || l.nbatch ≤ l.expanded || !(l.coop || u == 0 || u + n ≤ 64) then s
      else
        let b0 := l.expanded
        (s.addCluster l slot (BitVec.ofNat 32 (b0 / n)) n fun k i =>
          l.batch slot k (BitVec.ofNat 64 (b0 + i)) none l.code 0).onLaunch slot fun l =>
            { l with expanded := l.expanded + n })

-- The aggregator (R83)

/-- Whether two children may share a merge window. -/
def Launch.mergesWith (a b : Launch) : Bool :=
  a.code == b.code && a.regsc == b.regsc && a.traysc == b.traysc && a.clsc == b.clsc && a.dual == b.dual &&
  a.prio == b.prio && a.scrsz == b.scrsz

/-- A merge window closes: its children go on as one grid (R83). -/
def State.closeWindow (s : State) (w : Nat) : State :=
  match s.windows.get? w with
  | none => s
  | some x => x.kids.foldl (fun s k => s.onLaunch k fun l => { l with window := none })
      { s with windows := s.windows.del w }

/-- The indirection entry a launch would give its next child, if it is free (R83). -/
def State.indFree (s : State) (p : Nat) (l : Launch) : Option Nat :=
  let i := l.indNext % 2 ^ l.indlog
  if l.ind = 0 ∨ l.indlog < 6 ∨ 16 < l.indlog then none
  else if s.launches.any fun e => e.2.parent == some p && e.2.indHeld == some i then none else some i

/-- An accepted child that may be merged joins a window (R83): the window open for its kind, or a new one. A write to the
indirection area that meets a fault is dropped, and the child stays in its window (DESIGN CHOICE: R83 names no fault). -/
def State.aggregate (s : State) (slot addr : Nat) : State :=
  match s.launches.get? slot with
  | none => s
  | some c =>
    match c.parent with
    | none => s
    | some p =>
      match s.launches.get? p with
      | none => s
      | some pl =>
        if !c.agg || c.coop || c.ninp != 0 || pl.ind == 0 then s
        else
          let open? := s.windows.find? fun e =>
            e.2.parent == p && ((e.2.kids.head?.bind fun k => s.launches.get? k).map fun l => l.mergesWith c).getD false
          match s.indFree p pl with
          | none =>
            match open? with
            | some (w, _) => s.closeWindow w
            | none => s
          | some i =>
            let (w, x) := open?.getD (s.nextId, ⟨p, [], 0⟩)
            let s := { s with nextId := s.nextId + 1, windows := s.windows.put w ⟨p, x.kids ++ [slot], x.total + c.nbatch⟩ }
            let s := s.onLaunch slot fun l => { l with window := some w, indHeld := some i }
            let s := s.onLaunch p fun l => { l with indNext := l.indNext + 1 }
            let e := bytesOf 4 x.total ++ bytesOf 4 c.nbatch ++ bytesOf 6 addr ++ bytesOf 2 x.kids.length
            let s := (s.engWrNow pl.ctx (pl.ind + 16 * i) (clean e) (s.ctx pl.ctx).step).1
            if x.kids.length + 1 = 4096 then s.closeWindow w else s

/-- AGGREGATOR_WINDOW_CLOSE (R83). -/
def execAggregatorWindowClose (w : Nat) (s : State) : Host.Outcome State Fault Refusal := .next (s.closeWindow w)

-- Continuation records (R71, R72, R84, R85)

/-- The 32 bytes of a batch record (Table 3.4). -/
def recordBytes (kind join code frame prio dual traysc regsc lslot : Nat) (batch : DWord) : List Byte :=
  bytesOf 8 (f2 join 48 code) ++ bytesOf 8 frame ++
  bytesOf 8 (f2 kind 30 (f2 prio 28 (f2 dual 27 (f2 traysc 22 (f2 regsc 16 lslot))))) ++ bytesOf 8 batch.toNat

/-- The address of a pool record, in the parent's space. -/
def Ctx.contAddr (t : Ctx) (i : Nat) : Nat := t.poolbase.toNat + 32 * i

/-- A continuation record as its memory holds it. -/
def State.contRead (s : State) (c i : Nat) : Option Nat := (s.upRd c ((s.ctx c).contAddr i) 32).map natOf

/-- Whether 32 bytes are those of a batch record of a kind and a launch (R394), the reserved bits ignored (R4). -/
def recordValid (kind x lslot : Nat) : Bool :=
  bits x 1 0 == 0 && bits x 159 158 == kind && bits x 143 128 == lslot &&
  16 * (bits x 149 144 + 1) * (bits x 154 150 + 1) ≤ 2048

/-- A record becomes ready: its batch, a cluster of one, waits to be placed (R72, R85). Bytes that are no record of its
launch are discarded (R394). -/
def State.contReady (s : State) (c i : Nat) (k : Cont) : State :=
  match s.contRead c i, s.launches.get? k.lslot with
  | some x, some l =>
    if recordValid 1 x k.lslot then
      let l1 := { l with prio := bits x 157 156, dual := bits x 155 155 == 1, traysc := bits x 154 150,
                         regsc := bits x 149 144, coop := false }
      s.addCluster l1 k.lslot 0xFFFFFFFF 1 fun id _ =>
        l1.batch k.lslot id (BitVec.ofNat 64 (bits x 255 192)) (some i) (BitVec.ofNat 48 x) (BitVec.ofNat 48 (x / 2 ^ 64))
    else ((s.onCtx c fun t => t.freeCont i).flagRejected k.lslot).launchDec k.lslot
  | none, some _ => ((s.onCtx c fun t => t.freeCont i).flagRejected k.lslot).launchDec k.lslot
  | _, none => s

/-- The launch of the issuing tray's batch. -/
def State.slotOf (s : State) (t : Tray) : Nat := ((s.batches.get? t.batch).map fun b => b.lslot).getD 0

/-- The dispatcher slice that takes a core's launch commands (Table 1.1). -/
def Src.slice (r : Src) : Nat := r.key / 32 / 256

/-- CONT (R84): sent to the launch engine. -/
def execCont (d a : BitVec 7) (b : SB) (s : State) : Host.Outcome State Fault Refusal :=
  engine (contOpnds d a b) s fun r t s =>
    if r.t.ctrFull .loads then .stay
    else
      let (t, s) := r.ask t s 9 r.slice [d.toNat] [] (.cont d.toNat (s.slotOf t) (r.s2 a) (r.sbz64 b))
      .ok t s

/-- CONT as performed (R84): the handle or the rejection, or the fault that its pool record waits for (R247). A batch of no launch, such as a pixel tray's, has no table entry
to count in: 0x0009; one of a cancelled launch, 0x000C; a pool record that cannot be written, 0x0008, the code of a record
that cannot be read (DESIGN CHOICE: R84 and Table 3.7 name none of these for CONT). -/
def State.contGo (s : State) (c batch slot w fp : Nat) : Except XFault Nat × State :=
  let code := w % 2 ^ 48
  let x := s.ctx c
  let no (k : Nat) : Except XFault Nat × State := (.ok (0xFFF00000 + k), s.flagRejected slot)
  match s.launches.get? slot, s.batches.get? batch with
  | some l, some bt =>
    match x.conts.firstFree (min x.pooln.toNat (2 ^ 20)) with
    | none => no (if code % 4 ≠ 0 then 5 else 9)
    | some i =>
      if code % 4 ≠ 0 then no 5
      else if l.cancelled then no 12
      else
        let rec32 := recordBytes 1 (w / 2 ^ 48) code (fp % 2 ^ 48) bt.prio bt.dual.toNat (bt.trays - 1)
          (bt.regs / 16 - 1) slot bt.batchId
        match s.upPut c (x.contAddr i) rec32 with
        | (s', some f) => if f.kind = .poolempty then (.error f, s') else no 8
        | (s, none) =>
          let k : Cont := ⟨smGet x.contGen i, slot, false, false⟩
          let s := (s.onCtx c fun x => { x with conts := x.conts.put i k }).onLaunch slot fun l =>
            { l with count := l.count + 1 }
          (.ok (k.gen.toNat * 2 ^ 20 + i), if w / 2 ^ 48 = 0 then s.contReady c i k else s)
  | _, _ => (.ok 0xFFF00009, s)

/-- One thread's decrement of a join counter (R85): the state, and the fault that its write waits for (R247). Where the record
in the pool cannot be read or written, nothing happens (DESIGN CHOICE: R85 names no such fault). -/
def State.joinDec (s : State) (c lslot h n : Nat) : State × Option XFault :=
  let i := h % 2 ^ 20
  let misdir := s.flagLaunch lslot (fun l => { l with misdir := true }) fun e => { e with misdir := true }
  match (s.ctx c).conts.get? i with
  | none => (misdir, none)
  | some k =>
    if k.gen.toNat ≠ h / 2 ^ 20 then (misdir, none)
    else if k.cancelled then (s, none)
    else if k.started then (misdir, none)
    else match s.contRead c i with
      | none => (s, none)
      | some x =>
        let old := bits x 63 48
        match s.upPut c ((s.ctx c).contAddr i + 6) (bytesOf 2 (old - n)) with
        | (s, some f) => (s, if f.kind = .poolempty then some f else none)
        | (s, none) =>
          let s := if old < n then
              s.flagLaunch k.lslot (fun l => { l with underflow := true }) fun e => { e with underflow := true }
            else s
          (if old ≤ n ∧ 0 < old then s.contReady c i k else s, none)

/-- JDEC as performed (R85): each thread's handle and amount in turn; while one waits the others wait behind it. -/
def State.jdecGo (s : State) (o : Op) (slot : Nat) : List (Nat × Nat) → State
  | [] => s
  | x :: r =>
    match s.joinDec o.tag.ctx slot x.1 x.2 with
    | (s, none) => State.jdecGo s o slot r
    | (s, some f) =>
      match s.cmdWait { o with body := .cmd (.jdec slot (x :: r)) } f with
      | (true, s) => s
      | (false, s) => State.jdecGo (s.dropOp o.id) o slot r

/-- JDEC (R85): each active thread's handle and amount, in ascending thread order. -/
def execJdec (a : BitVec 7) (b : VB) (s : State) : Host.Outcome State Fault Refusal :=
  engine (jdecOpnds a b) s fun r t s =>
    let (t, s) := r.order t s 9 r.slice
      (.jdec (s.slotOf t) ((maskThreads r.m0).map fun th => ((r.v a th).toNat, min (r.vb th b).toNat 65535)))
    .ok t s

/-- One thread's SPAWN (R82): its handle or rejection. A batch of no launch, such as a pixel tray's, has no launch to be the
parent: 0x0009 (DESIGN CHOICE: R82 names the issuing launch as parent and no code where there is none). -/
def State.spawnOne (s : State) (c slot va : Nat) : Nat × State :=
  match s.launches.get? slot with
  | none => (0xFFFF0009, s)
  | some p =>
    let no (s : State) (k : Nat) : Nat × State := (0xFFFF0000 + k, s.flagRejected slot)
    if va % 256 ≠ 0 then no s 1
    else match s.engTake c va 256 with
      | (none, s) => no s 8
      | (some x, s) =>
        match s.recCheck c p.qpos p.prio ⟨x⟩ (some (slot, p)) with
        | (0, l, s) =>
          match s.launches.firstFree 65536 with
          | none => no s 9
          | some k =>
            let s := s.acceptLaunch k c p.qpos ⟨x⟩ (some (slot, p)) l
            ((smGet s.launchGen k).toNat * 65536 + k, s.aggregate k va)
        | (k, _, s) => no s k

/-- SPAWN (R82): children are accepted in ascending thread order. -/
def execSpawn (d a : BitVec 7) (s : State) : Host.Outcome State Fault Refusal :=
  engine (spawnOpnds d a) s fun r t s =>
    if r.t.ctrFull .loads then .stay
    else
      let p := r.t.vwin + d.toNat
      let (t, s) := r.ask t s 9 r.slice [] [p]
        (.spawn p (s.slotOf t) ((maskThreads r.m0).map fun th => (th, (r.v2 a th).toNat)))
      .ok t s

/-- SPAWN as performed (R82): every thread's handle or rejection. -/
def State.spawnGo (s : State) (c slot p : Nat) (l : List (Nat × Nat)) : List RegWrite × State :=
  l.foldl (fun (acc : List RegWrite × State) x =>
    let (h, s) := acc.2.spawnOne c slot x.2
    (acc.1 ++ [.v (vkey p x.1) (BitVec.ofNat 32 h)], s)) ([], s)

-- Cancelling (R86)

/-- Whether a launch is among some launches or descends from one of them; n bounds the depth. -/
def State.descends (s : State) (l : List Nat) : Nat → Nat → Bool
  | 0, k => l.contains k
  | n + 1, k =>
    l.contains k ||
    match (s.launches.get? k).bind fun x => x.parent with
    | some p => State.descends s l n p
    | none => false

/-- A batch leaves its cluster: with its last batch the cluster gives its region back. -/
def State.leaveCluster (s : State) (id : Nat) (b : Batch) : State :=
  match s.clusters.get? b.cluster with
  | none => s
  | some k =>
    let l := k.batches.filter (· != id)
    { s with clusters := if l.isEmpty then s.clusters.del b.cluster else s.clusters.put b.cluster { k with batches := l } }

/-- A batch of cancelled work that has never started, or that is saved, ends: it never runs (R86). -/
def State.dropRecord (s : State) (id : Nat) : State :=
  match s.batches.get? id with
  | none => s
  | some b =>
    if b.started then { s with batches := s.batches.put id { b with image := [], tiles := [], saved := none } }
    else (({ s with batches := s.batches.del id }).leaveCluster id b).launchDec b.lslot

/-- The input copies of batches that never start stop as at a halt, with their engines' records (R86, R274). -/
def State.stopInputs (s : State) (c : Nat) (gone : List Nat) : State :=
  let mine := s.ops.filter fun o => match o.body with
    | .copy k => k.input.any fun b => gone.contains b
    | _ => false
  let done (o : Op) : Nat := match o.body with
    | .copy k => k.done
    | _ => 0
  let s := { s with ops := s.ops.filter fun o => !mine.contains o }
  ((mine.map (·.unit)).eraseDups).foldl (fun s u =>
    s.unitRecords c ⟨1, u, 3, 0, false, 0, 0, 0, 0⟩ ((mine.filter fun o => o.unit == u).map fun o => (some o.tag, done o)) 0) s

/-- Cancel one launch (R86): a batch that has been placed and not started goes back, and is dropped with the others. A tray that is about to be evicted runs, and receives HALTED. -/
def State.cancelLaunch (s : State) (slot : Nat) : State :=
  match s.launches.get? slot with
  | none => s
  | some l =>
    if l.complete || l.cancelled then s
    else
      let s := (s.onLaunch slot fun l => { l with cancelled := true, expanded := l.nbatch }).unplace fun _ b =>
        b.lslot == slot && !b.started
      let wait := s.waitingOf slot
      let gone := wait.flatMap fun k => ((s.clusters.get? k).map fun x => s.unplaced x).getD []
      let held := (s.ctx l.ctx).conts.filter fun e =>
        e.2.lslot == slot && !e.2.started && !e.2.cancelled && !s.batches.any fun b =>
          b.2.ctx == l.ctx && b.2.cont == some e.1
      let conts := (s.ctx l.ctx).conts.filter fun e => e.2.lslot == slot && !e.2.started
      let mine (t : Tray) : Bool := s.slotOf t == slot
      let halt (t : Tray) : Tray := (if t.leave == some .evict then { t with leave := none } else t).addAsync .halted .cancel
      let s := { s with
        ready := s.ready.filter fun k => !wait.contains k,
        trays := s.trays.all' fun _ t => if mine t then halt t else t }
      let idx : List Nat := conts.map (·.1)
      let s := s.onCtx l.ctx fun t => { t with
        conts := t.conts.all' fun i k => if idx.contains i then { k with cancelled := true } else k }
      let s := gone.foldl (fun s b => s.dropRecord b) (s.stopInputs l.ctx gone)
      s.launchDrop 20 slot (l.nbatch - l.expanded + held.length)

/-- Cancel launches and everything that descends from them, the youngest first. -/
def State.cancelAll (s : State) (l : List Nat) : State :=
  (((s.launches.map (·.1)).filter fun k => s.descends l 16 k).reverse).foldl (fun s k => s.cancelLaunch k) s

/-- The entries at or below a level's entry: it, and those that count in it. -/
def State.hierUnder (s : State) (c lv id : Nat) (e : HEntry) : Bool :=
  e.ctx == c && ((e.level == lv && e.ident == id) || e.up == (lv, id) ||
    (s.hierOf c e.up.1 e.up.2).any fun p => p.up == (lv, id))

/-- The launch that a handle names for a context, if it is not stale (R70, R81). -/
def State.byHandle (s : State) (c : Nat) (h : Word) : Option (Nat × Launch) :=
  match s.launches.get? (h.toNat % 65536) with
  | none => none
  | some l => if l.ctx = c ∧ l.gen.toNat = h.toNat / 65536 then some (h.toNat % 65536, l) else none

/-- LCANCEL (R86): sent to the launch engine. -/
def execLcancel (a : BitVec 7) (lvl : BitVec 8) (s : State) : Host.Outcome State Fault Refusal :=
  engine (lcancelOpnds a lvl) s fun r t s =>
    if !lvlOk a lvl then .early .illegal
    else
      let (t, s) := r.order t s 9 r.slice (.lcancel (s.slotOf t) lvl.toNat (r.s a))
      .ok t s

/-- LCANCEL as performed (R86): level 0 a launch by its handle, 4 the issuing batch's, 1 to 3 a graph, phase or job. -/
def State.lcancelGo (s : State) (c slot lvl : Nat) (id : Word) : State :=
  match lvl with
  | 0 =>
    match s.byHandle c id with
    | some (k, _) => s.cancelAll [k]
    | none => s
  | 4 => s.cancelAll [slot]
  | lv =>
    if id = 0 ∨ (s.hierOf c lv id.toNat).isNone then s
    else
      let keys : List (Nat × Nat) := (s.hier.filter fun e => s.hierUnder c lv id.toNat e).map fun e => (e.level, e.ident)
      let l : List Nat := s.launches.filterMap fun e =>
        if e.2.ctx = c ∧ e.2.levels.any fun p => keys.contains p then some e.1 else none
      let s := keys.foldl (fun s k => s.onHier c k.1 k.2 fun e => { e with cancelled := !e.complete || e.cancelled }) s
      let s := s.cancelAll l
      keys.foldl (fun s k => s.hierSettle c 4 k) s

/-- The two words of LSTAT (R87). -/
def statWords (count : Nat) (state : Nat) (closed underflow rejected misdir : Bool) : Nat × Nat :=
  (if 2 ^ 32 - 1 < count then 2 ^ 32 - 1 else count,
   f2 misdir.toNat 5 (f2 rejected.toNat 4 (f2 underflow.toNat 3 (f2 closed.toNat 2 state))))

/-- LSTAT of a launch. -/
def Launch.stat (l : Launch) : Nat × Nat :=
  statWords l.count (if l.cancelled then 2 else if l.complete then 1 else 0) false l.underflow l.rejected l.misdir

/-- LSTAT of a graph, phase or job. -/
def HEntry.stat (e : HEntry) : Nat × Nat :=
  statWords e.count (if e.cancelled then 2 else if e.complete then 1 else 0) e.closed e.underflow e.rejected e.misdir

/-- What LSTAT reports of a level and identifier, or of the launch in a slot, to a context (R87). -/
def State.lstat (s : State) (c slot lvl : Nat) (id : Word) : Nat × Nat :=
  let r : Option (Nat × Nat) := match lvl with
    | 0 => (s.byHandle c id).map fun (x : Nat × Launch) => x.2.stat
    | 4 => (s.launches.get? slot).map Launch.stat
    | lv => if id = 0 then none else (s.hierOf c lv id.toNat).map HEntry.stat
  r.getD (0, 3)

/-- LSTAT (R87): sent to the launch engine. -/
def execLstat (d a : BitVec 7) (lvl : BitVec 8) (s : State) : Host.Outcome State Fault Refusal :=
  engine (lstatOpnds d a lvl) s fun r t s =>
    if !lvlOk a lvl then .early .illegal
    else if r.t.ctrFull .loads then .stay
    else
      let (t, s) := r.ask t s 9 r.slice [d.toNat, d.toNat + 1] []
        (.lstat d.toNat (s.slotOf t) lvl.toNat (if lvl = 4 then 0 else r.s a))
      .ok t s

/-- LSTAT as performed (R75, R87): a report of completion is an acquire at the widest scope. -/
def State.lstatGo (s : State) (o : Op) (d slot lvl : Nat) (id : Word) : State :=
  let (n, st) := s.lstat o.tag.ctx slot lvl id
  let s := match s.trayOf o.batch o.tray with
    | some t => if st % 4 = 1 ∨ (st % 4 = 2 ∧ n = 0) then s.acquire o.tag.core t 4 else s
    | none => s
  s.opAnswer o [.s d (BitVec.ofNat 32 n), .s (d + 1) (BitVec.ofNat 32 st)]

/-- The launch engine performs a command (R82–R87). -/
def State.launchGo (s : State) (o : Op) : Cmd → State
  | .spawn p slot l =>
    let (data, s) := s.spawnGo o.tag.ctx slot p l
    s.opAnswer o data
  | .cont d slot w fp =>
    match s.contGo o.tag.ctx o.batch slot w.toNat fp.toNat with
    | (.ok v, s) => s.opAnswer o [.s d (BitVec.ofNat 32 v)]
    | (.error f, s) =>
      match s.cmdWait o f with
      | (true, s) => s
      | (false, s) => ((s.dropOp o.id).flagRejected slot).opAnswer o [.s d 0xFFF00008]
  | .jdec slot l => s.jdecGo o slot l
  | .lcancel slot lvl id => s.lcancelGo o.tag.ctx slot lvl id
  | .lstat d slot lvl id => s.lstatGo o d slot lvl id
  | _ => s

-- Ends of trays and batches (R73, R139)

/-- A batch is over (R73): its tiles are cleared (R32, R277), its cluster's region is given back with its last batch, its
continuation record is freed, and its launch's count falls. -/
def State.endBatch (s : State) (id : Nat) (b : Batch) : State :=
  let s := ({ s with
    batches := s.batches.del id,
    cores := s.cores.all' fun _ c => { c with tiles := c.tiles.filter fun e => e.2.batch != id } }).leaveCluster id b
  let s := match b.cont with
    | some i => s.onCtx b.ctx fun t => t.freeCont i
    | none => s
  if b.pixel then s else s.launchDec b.lslot

end Sys2Proof.Machine
end

