-- ==== Sys2Proof/Machine/Exit.lean ====
section
/-!
DEFINITION. EXIT and the end of a tray (R138, R139).
-/

namespace Sys2Proof.Machine

/-- Threads give up their shares. -/
def PixTray.release (x : PixTray) (m : Mask) : PixTray :=
  { x with threads := x.threads.all' fun th z => if m.getLsbD th then { z with holds := false } else z }

/-- Threads of a pixel tray that end, or run PXKILL, release their shares (R354, R366). -/
def Tray.releaseShares (t : Tray) (m : Mask) : Tray := { t with pix := t.pix.map fun x => x.release m }

/-- A path slot ceases to exist: what it has pending belongs to no slot, and the slot that remains is slot 0; if it waits
at a JOIN it continues after it (R138). The traps of the ceased slot's group go with it. -/
def Tray.dropSlot (t : Tray) (i : Nat) : Tray :=
  let q := t.path (1 - i)
  let q := if q.joinWait then { q with joinWait := false, pc := q.pc + 1 } else q
  let num (p : Pend) : Pend := { p with path := if p.path = i then 2 else if p.path = 1 - i then 0 else p.path }
  { t with p0 := q, p1 := none, pend := t.pend.map num, hslot := 0, traps := [], resumeAt := none }.settleGrp
    ((t.path i).redo.bind (·.grp))

/-- What a path slot of a dual-path tray does while its mask is zero (R138), `after` the word after its EXIT; n bounds the
entries of its stack. -/
def Tray.unwind (i : Nat) (after : Pc) : Nat → Tray → Tray
  | 0, t => t
  | n + 1, t =>
    let p := t.path i
    if p.mask ≠ 0 then t
    else match p.stack with
      | e :: st =>
        if !e.merge then
          Tray.unwind i after n (t.setPath i { p with
            mask := t.filterMask e.p, pc := e.ppc, stack := { e with merge := true } :: st })
        else
          let f := t.filterMask e.f
          let pc := match e.j with
            | some j => if f = 0 then p.pc else j + 1
            | none => p.pc
          Tray.unwind i after n (t.setPath i { p with mask := f, pc := pc, stack := st })
      | [] => if t.p1.isSome then t.dropSlot i else t.setPc i after

/-- Threads exit: they leave the live mask and both slots' masks, and give up their pixels' shares (R138, R354). -/
def Tray.exitThreads (t : Tray) (m : Mask) : Tray :=
  let t := ({ t with live := t.live &&& ~~~m }).releaseShares m
  let t := t.setPath 0 { t.p0 with mask := t.p0.mask &&& t.live }
  { t with p1 := t.p1.map fun p => { p with mask := p.mask &&& t.live } }

/-- A tray ends: it leaves the issue pool, barriers count it no more and its gang dissolves (R139, R140, R279). -/
def State.trayEnds (s : State) (key : Nat) : State :=
  match s.trays.get? key with
  | none => s
  | some t =>
    let s := s.setTray key { t with
      live := 0, wait := .ended, leave := none, departing := none, async := [], watch := false }
    ((s.dissolve key).releaseBar t.batch).releaseCbar (s.clusterIdOf t)

/-- A tray leaves its wait at once, its latch arrival withdrawn; its PC holds the waiting word (R405). A tray parked by a
reflection stays parked. -/
def State.leaveWait (s : State) (key : Nat) : State :=
  s.onTray key fun t =>
    match t.wait with
    | .latch a => t.withdraw a
    | .bar | .cbar | .yield _ _ _ _ _ | .park _ | .grow _ _ _ => { t with wait := .run }
    | .run | .reflected _ _ | .treflWait _ | .ended => t

/-- The asynchronous causes of a tray are set, precise at the word that slot 0 would issue next, with S = 0 (R405). -/
def State.takeAsync (s : State) (key : Nat) : State :=
  match s.trays.get? key with
  | none => s
  | some t =>
    if t.async.isEmpty then s
    else ((s.leaveWait key).onTray key fun t => { t with async := [] }).raise key 0 t.async t.p0.pc false none

/-- EXIT (R138, R139). -/
def execExit (s : State) : Host.Outcome State Fault Refusal :=
  issue Instr.exit.opnds s fun r t s =>
    let t := t.exitThreads r.m0
    let t := t.setPath r.i { t.path r.i with mask := 0 }
    let t := if r.t.dual then t.unwind r.i (t.path r.i).pc 40 else t
    if t.live = 0 then r.settle t s fun s => s.trayEnds r.key else .ok t s

end Sys2Proof.Machine
end

