-- ==== Sys2Proof/Machine/Save.lean ====
section
/-!
DEFINITION. Saving and restoring trays, batches and cluster regions (R407, R410, R394), the states a context reaches by
it (R390), and the start, return and end of batches (R69, R73, R139).
-/

namespace Sys2Proof.Machine

-- Tray images (Table 17.12)

/-- The wait that an image states. A tray that waits for a park, a latch or a grant of registers, or in its own slot,
performs its word again. -/
def Wait.ofCode (x : Nat) : Wait :=
  let pc := BitVec.ofNat 46 (bits x 49 4)
  match bits x 3 0 with
  | 1 => .bar
  | 2 => .cbar
  | 4 =>
    if bits x 95 95 = 1 then .yield 2 (BitVec.ofNat 32 (bits x 61 50)) (BitVec.ofNat 32 (bits x 93 62)) pc none
    else .yield (bits x 94 92) (BitVec.ofNat 32 (bits x 81 50)) 0 pc none
  | 7 =>
    if bits x 4 4 = 1 then .treflWait (bits x 95 64)
    else .reflected (bits x 95 64) (if bits x 8 8 = 1 then some (bits x 16 9) else none)
  | 9 => .yield 1 (BitVec.ofNat 32 (bits x 81 50)) 0 pc (some (bits x 88 82))
  | _ => .run

/-- A stack entry's 40 bytes; no J is written as bit 63 (R410). -/
def StackEntry.bytes (e : StackEntry) : List Byte :=
  bytesOf 12 e.f.toNat ++ bytesOf 12 e.p.toNat ++ bytesOf 8 (f2 e.merge.toNat 63 e.ppc.toNat) ++
  bytesOf 8 ((e.j.map BitVec.toNat).getD (2 ^ 63))

/-- The physical registers of a tray with a value that is not zero. -/
def Tray.present (t : Tray) : List Nat := ((t.vregs.map fun e => e.1 / 96).eraseDups).filter fun p => p < t.n

/-- A tray's image (Table 17.12). -/
def Tray.imageBytes (t : Tray) : List Byte :=
  let q := t.p1
  let l := t.present
  t.headBytes.flatten ++
  bytesOf 4 (f2 t.vwin 16 t.n) ++
  t.ctrBytes ++
  bytesOf 4 t.fpctl.toNat ++ bytesOf 4 t.fpstat.toNat ++ bytesOf 4 t.gangsel.toNat ++
  t.waitBytes ++
  bytesOf 12 ((q.map fun p => p.mask.toNat).getD 0) ++
  bytesOf 4 (f2 ((q.map fun p => p.stack.length).getD 0) 8 t.p0.stack.length) ++
  bytesOf 48 0 ++
  t.sregBytes.flatten ++
  bytesOf (8 * ((t.n + 63) / 64)) ((l.map fun p => 2 ^ p).sum) ++
  l.flatMap (fun p => (List.range 96).flatMap fun th => bytesOf 4 (t.phys p th).toNat) ++
  t.p0.stack.flatMap StackEntry.bytes ++ ((q.map fun p => p.stack.flatMap StackEntry.bytes).getD [])

/-- n bytes of an image as a number. -/
def imgNum (a : Array Byte) (off n : Nat) : Nat :=
  ((List.range n).map fun i => (a.getD (off + i) 0).toNat * 256 ^ i).sum

/-- A stack entry from its bytes. -/
def StackEntry.ofBytes (a : Array Byte) (off : Nat) : StackEntry :=
  let ppc := imgNum a (off + 24) 8
  let j := imgNum a (off + 32) 8
  ⟨BitVec.ofNat 96 (imgNum a off 12), BitVec.ofNat 96 (imgNum a (off + 12) 12), BitVec.ofNat 46 ppc,
    if j / 2 ^ 63 = 1 then none else some (BitVec.ofNat 46 j), ppc / 2 ^ 63 == 1⟩

/-- A path slot as an image has it, over what the core keeps of it. -/
def Path.ofImage (p : Path) (pc : Nat) (m : Mask) (st : List StackEntry) : Path :=
  { p with pc := BitVec.ofNat 46 pc, mask := m, stack := st }

/-- A path slot of which an image alone is known. -/
def Path.bare : Path := ⟨0, 0, [], false, .no, none, none, false, false, none⟩

/-- A tray with what its image holds (R394, R410), and where the image ends; none where it is no image of this tray. What it
waits for and what is pending of it the core keeps. -/
def Tray.ofImage (t : Tray) (a : Array Byte) (off : Nat) : Option (Tray × Nat) :=
  let n := imgNum a (off + 32) 4 % 2048
  let w := bits (imgNum a (off + 32) 4) 25 16
  let d := imgNum a (off + 76) 4
  let d0 := bits d 4 0
  let d1 := bits d 12 8
  let pc0 := imgNum a off 8
  let ctrs := imgNum a (off + 36) 4
  let two := pc0 / 2 ^ 63 = 1
  if n ≠ t.n ∨ a.size < off + 512 ∨ 16 < d0 ∨ 16 < d1 then none
  else
    let nw := (n + 63) / 64
    let map := imgNum a (off + 512) (8 * nw)
    let l := (List.range n).filter fun p => map / 2 ^ p % 2 = 1
    let at1 := off + 512 + 8 * nw
    let at2 := at1 + 384 * l.length
    let vregs : SMap 32 := ((List.range l.length).flatMap fun i =>
      (smTab (96 * l.getD i 0) 96 fun th => BitVec.ofNat 32 (imgNum a (at1 + 384 * i + 4 * th) 4)))
    let st (base k : Nat) : List StackEntry := (List.range k).map fun i => StackEntry.ofBytes a (base + 40 * i)
    let t1 := { t with
      p0 := t.p0.ofImage pc0 t.p0.mask (st at2 d0),
      p1 := if two then
          some ((t.p1.getD Path.bare).ofImage (imgNum a (off + 8) 8) (BitVec.ofNat 96 (imgNum a (off + 64) 12))
            (st (at2 + 40 * d0) d1))
        else none,
      epc := mkEpc (BitVec.ofNat 46 (imgNum a (off + 16) 8)) (imgNum a (off + 23) 1 / 128 == 1),
      loads := bits ctrs 5 0,
      stores := bits ctrs 11 6,
      copies := bits ctrs 17 12,
      matrix := bits ctrs 23 18,
      cause := BitVec.ofNat 64 (imgNum a (off + 24) 8 % 2 ^ 30),
      vwin := w,
      fpctl := BitVec.ofNat 7 (imgNum a (off + 40) 4),
      fpstat := BitVec.ofNat 5 (imgNum a (off + 44) 4),
      gangsel := BitVec.ofNat 32 (imgNum a (off + 48) 4 / 32 * 32),
      vregs := vregs }
    some ((List.range 96).foldl (fun t k => t.setSreg 0 k (BitVec.ofNat 32 (imgNum a (off + 128 + 4 * k) 4))) t1,
      at2 + 40 * (d0 + d1))

-- Batch images (Table 17.12)

/-- The launch-table slot in a batch's record; a pixel tray's batch has none and writes zero. -/
def Batch.slotField (b : Batch) : Nat := b.lslot % 65536

/-- The KIND of a batch's record. -/
def Batch.kind (b : Batch) : Nat := b.cont.isSome.toNat

/-- A tile's 3,072 bytes. -/
def Tile.bytes (x : Tile) : List Byte := (List.range 768).flatMap fun k => bytesOf 4 (smGet x.data k).toNat

/-- A batch's image: header, trays, tiles (R410). -/
def Batch.imageBytes (b : Batch) : List Byte :=
  let trays := b.image.map (·.2)
  let body := trays.flatMap Tray.imageBytes ++ b.tiles.flatMap fun e => e.2.bytes
  recordBytes b.kind 0 b.code.toNat b.frame.toNat b.prio b.dual.toNat (b.trays - 1) (b.regs / 16 - 1) b.slotField
    b.batchId ++
  bytesOf 4 trays.length ++ b.barBytes ++ bytesOf 4 (64 + body.length) ++
  bytesOf 4 ((b.tiles.map fun e => 2 ^ e.1).sum) ++ bytesOf 16 0 ++ body

/-- Where the image of each tray lies in a batch's image. -/
def Batch.trayOffs (b : Batch) : KMap Nat :=
  (b.image.foldl (fun (acc : KMap Nat × Nat) e => (acc.1 ++ [(e.1, acc.2)], acc.2 + e.2.imageBytes.length)) ([], 64)).1

/-- A batch's trays and tiles as its image in the save area has them; none where it no longer validates (R394). -/
def Batch.ofImage (b : Batch) (a : Array Byte) : Option Batch :=
  if !recordValid b.kind (imgNum a 0 32) b.slotField || imgNum a 32 4 % 64 != b.image.length || imgNum a 40 4 != a.size ||
      imgNum a 44 4 % 2 ^ 16 != (b.tiles.map fun e => 2 ^ e.1).sum then none
  else
    match b.image.foldl (fun (acc : Option (KMap Tray × Nat)) e =>
        match acc with
        | none => none
        | some (l, off) => (e.2.ofImage a off).map fun x => (l ++ [(e.1, x.1)], x.2)) (some ([], 64)) with
    | none => none
    | some (l, off) =>
      if off + 3072 * b.tiles.length ≠ a.size then none
      else some { b with
        image := l,
        tiles := (List.range b.tiles.length).filterMap fun i =>
          match b.tiles[i]? with
          | some (k, x) => some (k, { x with
              data := smTab 0 768 fun j => BitVec.ofNat 32 (imgNum a (off + 3072 * i + 4 * j) 4) })
          | none => none }

-- The save area

/-- What a context's save area holds: offset and size of each image and region. -/
def State.areas (s : State) (c : Nat) : List (Nat × Nat) :=
  s.batches.filterMap (fun e => if e.2.ctx = c then e.2.saved else none) ++
  s.clusters.filterMap fun e => if e.2.ctx = c then e.2.area else none

/-- The lowest 64-byte aligned offset of a save area with n bytes free. -/
def State.saveRoom (s : State) (c n : Nat) : Option Nat :=
  let l := s.areas c
  let fits (o : Nat) : Bool := o + n ≤ (s.ctx c).savesz.toNat * 2 ^ 20 && l.all fun a => o + n ≤ a.1 || a.1 + a.2 ≤ o
  ((0 :: l.map fun a => (a.1 + a.2 + 63) / 64 * 64).filter fits).foldl (fun (m : Option Nat) o =>
    match m with
    | some x => some (min x o)
    | none => some o) none

/-- Write an image to a context's save area: where it lies, `none` while the write waits for a frame or a migration (R229,
R247). Where the area has no room or cannot be written, the core's copy alone is kept. -/
def State.saveBytes (s : State) (c : Nat) (d : List Byte) : Option (Option (Nat × Nat)) × State :=
  match s.saveRoom c d.length with
  | none => (some none, s)
  | some o =>
    match s.upPut c ((s.ctx c).savebase.toNat + o) d with
    | (s, none) => (some (some (o, d.length)), s)
    | (s, some f) => (if f.kind = .poolempty ∨ f.kind = .migrating then none else some none, s)

-- The states of a context (R390, Table 17.3)

/-- A record of RTYPE 3 or 4, posted to the per-child ring of a context (R401, R408). -/
def State.ctxRecord (s : State) (c rtype : Nat) : State :=
  s.childRecord c (bytesOf 8 0 ++ bytesOf 8 (f2 rtype 56 c) ++ bytesOf 40 0 ++ bytesOf 8 (s.clock 0).toNat)

/-- Nothing of a context is resident: no tray, no placed batch, no cluster region (R390). -/
def State.allSaved (s : State) (c : Nat) : Bool :=
  (s.trays.all fun e => e.2.ctx != c) && (s.batches.all fun e => e.2.ctx != c || e.2.core.isNone) &&
  s.clusters.all fun e => e.2.ctx != c || e.2.die.isNone

/-- A context's descendants that stopped with it and were RUNNING return to RUNNING; n bounds the depth (R390). -/
def State.restart (s : State) (c : Nat) : Nat → State
  | 0 => s
  | n + 1 =>
    let l := (s.descendants c).filter fun d =>
      (s.ctx d).follow && (s.ctx d).st == .stopped && (s.ctx (s.ctx d).parent).st == .running
    State.restart (l.foldl (fun s d => s.onCtx d fun t => { t with st := .running, follow := false }) s) c n

/-- A context that is stopping or halting and has nothing left to do is stopped or halted (R390). A context that stopped
with an ancestor runs on if that runs again. -/
def State.settleCtx (s : State) (c : Nat) : State :=
  let t := s.ctx c
  match t.st with
  | .stopping =>
    if !s.allSaved c then s
    else
      let back := t.follow && (s.ctx t.parent).st == .running
      let s := s.onCtx c fun t => { t with
        st := if back then .running else .stopped, follow := t.follow && !back, quantumEnd := false }
      let s := if back then s.restart c 6 else s
      if t.quantumEnd then s.ctxRecord c 3 else s
  | .halting =>
    if t.stops.isEmpty && s.trays.all fun e => e.2.ctx != c then (s.onCtx c fun t => { t with st := .halted }).ctxRecord c 4
    else s
  | _ => s

/-- Every context settles. -/
def State.settleCtxs (s : State) : State := (s.ctxs.map (·.1)).foldl (fun s c => s.settleCtx c) s

-- Departing (R407, R410)

/-- A departed tray can be saved: every command it sent has been accepted and every result has landed (R22, R410), but for
those of a latch arrival, which is saved with it (R298); and its core's matrix engine holds no command of its batch. -/
def State.savable (s : State) (t : Tray) : Bool :=
  let kept : List Nat := match t.wait with
    | .latch a => a.pends
    | _ => []
  (t.pend.all fun p => kept.contains p.id || (p.kind == .op && p.sdst.isEmpty && p.vdst.isEmpty)) &&
  !s.ops.any fun o => o.batch == t.batch && ((o.tray == t.idx && o.phase == 0) || o.tag.eng == 2)

/-- A batch is of a cancelled launch. -/
def State.isCancelled (s : State) (b : Batch) : Bool := ((s.launches.get? b.lslot).map (·.cancelled)).getD false

/-- A batch whose trays have all departed or ended leaves its core: its image is written and its record waits again
(R410); its cluster stands first among those that wait. Of cancelled work nothing is kept (R86). -/
def State.batchLeaves (s : State) (id : Nat) : State :=
  match s.batches.get? id with
  | none => s
  | some b =>
    match b.core with
    | none => s
    | some core =>
      if b.image.isEmpty || b.loading || s.trays.any fun e => e.2.batch == id then s
      else
        let tiles := ((s.cores.get? core).map fun c => c.tiles.filter fun e => e.2.batch == id).getD []
        let b := { b with core := none, tiles := tiles }
        if s.isCancelled b then
          let s := s.onCore core fun c => { c with tiles := c.tiles.filter fun e => e.2.batch != id }
          { s with batches := s.batches.put id { b with image := [], tiles := [] } }
        else
        match s.saveBytes b.ctx b.imageBytes with
        | (none, s) => s
        | (some at?, s) =>
          let s := s.onCore core fun c => { c with tiles := c.tiles.filter fun e => e.2.batch != id }
          { s with
            batches := s.batches.put id { b with saved := at?, offs := if at?.isSome then b.trayOffs else [] },
            ready := if b.pixel then s.ready else b.cluster :: s.ready.filter (· != b.cluster) }

/-- A batch whose trays have all been taken and whose image could not be written yet tries again. -/
def State.batchRetry (s : State) (id : Nat) : State :=
  if (s.batches.get? id).any fun b => b.started && b.core.isSome then (s.batchLeaves id).settleCtxs else s

/-- Count a tray that a halt or a revocation has stopped on its core (Table 17.11). -/
def State.tally (s : State) (c core : Nat) (t : Tray) : State :=
  let up (w : StopWait) : StopWait :=
    if w.cls = 0 ∧ w.unit = core then
      { w with stopped := w.stopped + 1, tret := w.tret + t.tret.toNat, forced := w.forced + (t.forced && !t.tret).toNat }
    else w
  s.onCtx c fun x => { x with stops := x.stops.map up }

/-- TRAY_SAVE (R407, R410, R412): a tray that has left the issue pool is saved; the images of a context that is revoked
whole are discarded. A tray of cancelled work is not saved: CANCEL_FORCE_END ends it (R86). -/
def execTraySave (tray : Nat) (s : State) : Host.Outcome State Fault Refusal :=
  .next (match s.trays.get? tray with
    | none => s
    | some t =>
      match t.leave with
      | none => s
      | some .cancel => s
      | some why =>
        if (s.ctx t.ctx).st ≠ .revoking ∧ !s.savable t then s
        else
          let s := if why = .evict ∨ why = .slice then s else s.tally t.ctx (tray / 32) t
          let s := { s with trays := s.trays.del tray }
          if (s.ctx t.ctx).st = .revoking then s
          else
            (({ s with batches := s.batches.upd t.batch fun b =>
                { b with image := b.image.put t.idx t.back } }).batchLeaves t.batch).settleCtxs)

/-- Operations that copy to or from a cluster's region (R274). -/
def State.clusterBusy (s : State) (k : Nat) : Bool :=
  s.ops.any fun o =>
    match o.body with
    | .copy x => x.cluster == k
    | .member x => x.cluster == k
    | .matrix (.mma _ _ _ _ _ x _) => x == k
    | _ => false

/-- The bytes of a saved cluster region: a 32-byte header and its contents (R402). -/
def Cluster.imageBytes (k : Cluster) : List Byte :=
  bytesOf 4 k.clusterId.toNat ++ bytesOf 4 (k.lslot % 2 ^ 32) ++ bytesOf 8 k.size ++ bytesOf 16 0 ++
  (List.range k.size).map fun i => smGet k.scr i

/-- CLUSTER_REGION_SAVE (R407): the region of a cluster with nothing placed is saved once its copies have completed. -/
def execClusterRegionSave (cluster : Nat) (s : State) : Host.Outcome State Fault Refusal :=
  .next (match s.clusters.get? cluster with
    | none => s
    | some k =>
      if k.saved || k.die.isNone || s.clusterBusy cluster ||
          k.batches.any fun b => ((s.batches.get? b).map fun x => x.core.isSome).getD false then s
      else if (s.ctx k.ctx).st = .revoking then
        { s with clusters := s.clusters.put cluster { k with saved := true, die := none } }
      else
        match (if k.size = 0 then (some none, s) else s.saveBytes k.ctx k.imageBytes) with
        | (none, s) => s
        | (some at?, s) =>
          ({ s with clusters := s.clusters.put cluster { k with saved := true, die := none, area := at? } }).settleCtxs)

-- The start, return and end of batches

/-- The trays of a saved batch return to a core (R410): tiles, trays, and the causes that are still to be delivered. Those
of work that was cancelled meanwhile receive HALTED (R86). -/
def State.loadTrays (s : State) (id : Nat) (b : Batch) (core : Nat) : State :=
  let slots := s.freeSlots core
  let keyed := (b.image.map (·.2)).zip (slots.map fun i => core * 32 + i)
  let dead := s.isCancelled b
  let s := keyed.foldl (fun s x => s.setTray x.2 (if dead then x.1.back.addAsync .halted .cancel else x.1.back)) s
  let s := s.onCore core fun c => { c with tiles := b.tiles.foldl (fun l e => l.put e.1 e.2) c.tiles }
  let s := { s with batches := s.batches.put id { b with image := [], tiles := [], saved := none, offs := [], loading := false } }
  keyed.foldl (fun s x => if x.1.redeliver && x.1.wait.token?.isNone then s.redeliver x.2 else s) s

/-- A saved batch as the save area holds it now (R394). -/
def State.savedBatch (s : State) (b : Batch) : Option Batch :=
  match b.saved with
  | none => some b
  | some (o, n) =>
    match s.upRd b.ctx ((s.ctx b.ctx).savebase.toNat + o) n with
    | none => none
    | some l => b.ofImage l.toArray

/-- BATCH_START (R69, R78, R394): the trays of a placed batch start once its inputs have landed, or return from its image;
an image that no longer validates is discarded and its launch reports a rejected child. -/
def execBatchStart (batch : Nat) (s : State) : Host.Outcome State Fault Refusal :=
  .next (match s.batches.get? batch with
    | none => s
    | some b =>
      match b.core with
      | none => s
      | some core =>
        if b.loading then
          match s.savedBatch b with
          | some b => (s.loadTrays batch b core).batchAcquire core
          | none => (s.flagRejected b.lslot).endBatch batch b
        else if b.started || b.inputs != 0 || b.pixel then s
        else
          let s := match b.cont with
            | some i => s.onCtx b.ctx fun t => { t with conts := t.conts.upd i fun k => { k with started := true } }
            | none => s
          (s.startTrays batch b core).batchAcquire core)

/-- TRAY_RESOURCE_RETURN (R139): an ended tray whose results have landed gives back its slot and registers. -/
def execTrayResourceReturn (tray : Nat) (s : State) : Host.Outcome State Fault Refusal :=
  .next (match s.trays.get? tray with
    | none => s
    | some t =>
      if t.wait = .ended ∧ t.pend.all fun p => p.kind == .op && p.sdst.isEmpty && p.vdst.isEmpty then
        (({ s with trays := s.trays.del tray }).batchLeaves t.batch).settleCtxs
      else s)

/-- BATCH_COMPLETE (R73): every tray has exited and every operation has completed. -/
def execBatchComplete (batch : Nat) (s : State) : Host.Outcome State Fault Refusal :=
  .next (match s.batches.get? batch with
    | none => s
    | some b =>
      if !b.started || b.loading || !b.image.isEmpty || (s.trays.any fun e => e.2.batch == batch) ||
          (s.ops.any fun o => o.batch == batch) then s
      else (s.endBatch batch b).settleCtxs)

end Sys2Proof.Machine
end

