-- ==== Sys2Proof/Machine/Pixel.lean ====
section
/-!
DEFINITION. Pixel trays, pixel input and export, the ordering unit, blending and the end of a pass (R342, R351–R357,
R363–R368).
-/

namespace Sys2Proof.Machine

-- Positions (R351)

/-- The fine pixels of a coarse pixel that satisfy `f`, row by row. -/
def finePixels (x y w h : Nat) (f : Nat → Nat → Bool) : List (Nat × Nat) :=
  (List.range h).flatMap fun dy => ((List.range w).map fun dx => (x + dx, y + dy)).filter fun c => f c.1 c.2

/-- The first of the fine-pixel centres that is nearest to a point, in 1/256 pixel. -/
def nearest (cx cy : Int) (l : List (Nat × Nat)) : Int × Int :=
  let c (p : Nat × Nat) : Int × Int := (256 * (p.1 : Int) + 128, 256 * (p.2 : Int) + 128)
  let dist (p : Int × Int) : Nat := ((p.1 - cx) * (p.1 - cx) + (p.2 - cy) * (p.2 - cy)).toNat
  match l with
  | [] => (cx, cy)
  | p :: r => r.foldl (fun best q => if dist (c q) < dist best then c q else best) (c p)

/-- The shading position of a thread's coarse pixel (R351). -/
def Pass.shadeAt (p : Pass) (k : PixThread) : Int × Int :=
  let cx : Int := 256 * k.x + 128 * k.w
  let cy : Int := 256 * k.y + 128 * k.h
  if k.cover = 0 ∨ (k.x + k.w ≤ p.width ∧ k.y + k.h ≤ p.height) then (cx, cy)
  else nearest cx cy (finePixels k.x k.y k.w k.h fun x y => x < p.width && y < p.height)

/-- Fine pixel (x, y) is covered in a thread's coarse pixel. -/
def PixThread.covers (k : PixThread) (x y : Nat) : Bool := k.cover.getLsbD (4 * (y - k.y) + (x - k.x))

/-- The covered fine pixels of a thread. -/
def PixThread.pixels (k : PixThread) : List (Nat × Nat) := finePixels k.x k.y k.w k.h k.covers

/-- The centroid position (R351). -/
def Pass.centroidAt (p : Pass) (k : PixThread) : Int × Int :=
  let c := p.shadeAt k
  if k.cover = 0 then c else nearest c.1 c.2 k.pixels

/-- A position of 1/256 pixels as FP32. -/
def gridF32 (v : Int) : Word := BitVec.ofNat 32 (fmtF32.convert .rne (.fin (v < 0) v.natAbs (-8))).1

-- PXIN (R363)

/-- A system value of a thread (Table 15.7). -/
def Pass.sysValue (p : Pass) (q : RPrim) (k : PixThread) (n : Nat) : Word :=
  let c := p.shadeAt k
  match n with
  | 0 => gridF32 c.1
  | 1 => gridF32 c.2
  | 2 => q.linear q.zs c.1 c.2
  | 3 => k.cover.setWidth 32
  | 4 => BitVec.ofNat 32 q.seq
  | 5 => BitVec.ofNat 32 (q.seq / 2 ^ 32)
  | 6 => boolWord q.front
  | 7 => boolWord (k.cover == 0)
  | 8 => BitVec.ofNat 32 k.x
  | _ => BitVec.ofNat 32 k.y

/-- What PXIN gives a thread (R363, R364). -/
def Pass.pixIn (p : Pass) (q : RPrim) (k : PixThread) (mode : Nat) (cen : Bool) (n : Nat) : Word :=
  let a := (q.attrs.drop (3 * n)).take 3
  let c := if cen then p.centroidAt k else p.shadeAt k
  if mode = 3 then p.sysValue q k n
  else if a.length < 3 then 0
  else match mode with
    | 0 => q.persp a c.1 c.2
    | 1 => q.linear a c.1 c.2
    | _ => canonF32 (a.headD 0)

/-- The pixel tray an instruction of the pixel group runs in: none raises ILLEGAL (R359). -/
def Src.pixTray (r : Src) (s : State) : Option (PixTray × Pass) :=
  if r.t.p1.isSome then none
  else match r.t.pix with
    | none => none
    | some x => (s.passes.get? x.pass).map fun p => (x, p)

/-- PXIN (R363). -/
def execPxin (d : BitVec 7) (mode : BitVec 2) (cen : Bool) (k : BitVec 5) (s : State) :
    Host.Outcome State Fault Refusal :=
  engine (Instr.pxin d mode cen k).opnds s fun r t s =>
    match r.pixTray s with
    | none => .early .illegal
    | some (x, p) =>
      if r.t.ctrFull .loads then .stay
      else
        let data := (maskThreads r.m0).filterMap fun th =>
          (x.threads.get? th).bind fun z => (x.prims.get? z.seq).map fun q =>
            RegWrite.v (vkey (r.t.vwin + d.toNat) th) (p.pixIn q z mode.toNat cen k.toNat)
        let (t, s) := r.ask t s 6 (4 + r.key / 32) [] (r.group d 1) (.done data)
        .ok t s

-- PXOUT and PXKILL (R365, R366)

/-- PXKILL (R366). -/
def execPxkill (s : State) : Host.Outcome State Fault Refusal :=
  engine Instr.pxkill.opnds s fun r t s =>
    match r.pixTray s with
    | none => .early .illegal
    | some _ =>
      let (t, s) := r.order (t.releaseShares r.m0) s 6 (4 + r.key / 32) (.done [])
      .ok t s

/-- The address of a fine pixel in a colour target (R339). -/
def Pass.pixelVa (p : Pass) (i x y : Nat) : Nat :=
  p.dw (16 * i) % 2 ^ 52 + y * (p.dw (16 * i + 8) % 2 ^ 32) + x * pixelSize (p.fmt i)

/-- The address of a fine pixel's depth (R356). -/
def Pass.depthVa (p : Pass) (x y : Nat) : Nat := p.dw 64 % 2 ^ 52 + y * (p.dw 72 % 2 ^ 32) + 4 * x

/-- ZEN. -/
def Pass.zen (p : Pass) : Bool := bits (p.dw 64) 52 52 == 1
/-- ZWRITE. -/
def Pass.zwrite (p : Pass) : Bool := bits (p.dw 64) 53 53 == 1
/-- BLEND of a target. -/
def Pass.blend (p : Pass) (i : Nat) : Bool := bits (p.dw (16 * i + 8)) 48 48 == 1

/-- The colour targets in use. -/
def Pass.targets (p : Pass) : List Nat := (List.range 4).filter fun i => p.fmt i != 0

/-- Registers of the colour block (R365). -/
def Pass.block (p : Pass) : Nat := (p.targets.map fun i => 4 * i + 4).foldl max 0

/-- The addresses that a fine pixel's commit accesses, with what each needs; target 4 is the depth (R365). -/
def Pass.pixelNeeds (p : Pass) (x y : Nat) : List (Nat × Nat × Need) :=
  (p.targets.map fun i => (i, p.pixelVa i x y, if p.blend i then needRW else needW)) ++
  if p.zen then [(4, p.depthVa x y, if p.zwrite then needRW else needR)] else []

/-- Translate every address of an export (R365): fine pixels with their translations, or the first fault. -/
def State.exportAt (s : State) (core c : Nat) (step : Word) (p : Pass) (q : RPrim) (k : PixThread) :
    Except XFault (State × List PixelAt) :=
  k.pixels.foldlM (fun (acc : State × List PixelAt) px => do
    let (s, l) ← (p.pixelNeeds px.1 px.2).foldlM (fun (acc : State × KMap Xl) e => do
      match ← acc.1.locate core c e.2.1 e.2.2 with
      | .mem xl =>
        let s := acc.1.tlbFill core c e.2.1 xl
        if !e.2.2.w then pure (s, acc.2.put e.1 xl)
        else match ← s.cowCheck c e.2.1 xl step with
          | (s, none) => pure (s, acc.2.put e.1 xl)
          | (_, some kind) => xerr kind c e.2.1 xl.leaf
      | _ => xerr .nomem c e.2.1) (acc.1, ([] : KMap Xl))
    let z := q.linear q.zs (256 * (px.1 : Int) + 128) (256 * (px.2 : Int) + 128)
    pure (s, acc.2 ++ [⟨px.1, px.2, l.filter fun e => e.1 != 4, z, l.get? 4⟩])) (acc0 s)
where
  /-- Nothing translated yet. -/
  acc0 (s : State) : State × List PixelAt := (s, [])

/-- A copy of a versioned page that a write must wait for has begun: the state in which the fault of a failed export
translation leaves memory. -/
def State.exportCow (s : State) (core c : Nat) (step : Word) (p : Pass) (k : PixThread) : State :=
  k.pixels.foldl (fun s px => (p.pixelNeeds px.1 px.2).foldl (fun s e =>
    match s.locate core c e.2.1 e.2.2 with
    | .ok (.mem xl) =>
      if !e.2.2.w then s
      else match s.cowCheck c e.2.1 xl step with
        | .ok (s, _) => s
        | .error _ => s
    | _ => s) s) s

/-- The threads that take part in a PXOUT (R365). -/
def Src.exporters (r : Src) (x : PixTray) : List (Nat × PixThread) :=
  x.threads.filter fun e => r.todo.getLsbD e.1 && e.2.holds && e.2.cover != 0

/-- Translate the exports of every thread that takes part (R365), given each thread's colours. -/
def State.exportAll (s : State) (core : Nat) (t : Tray) (step : Word) (p : Pass) (x : PixTray) (colour : Nat → List Word)
    (l : List (Nat × PixThread)) : Except XFault (State × List Export) :=
  l.foldlM (fun (acc : State × List Export) e =>
    match x.prims.get? e.2.seq with
    | none => .ok acc
    | some q => do
      let (s, px) ← acc.1.exportAt core t.ctx step p q e.2
      pure (s, acc.2 ++ [⟨s.nextId + acc.2.length, t.batch, t.idx, t.nextPend, core, x.tile, e.2.seq, e.1, px,
        colour e.1⟩])) (s, [])

/-- PXOUT (R365). -/
def execPxout (a : BitVec 7) (s : State) : Host.Outcome State Fault Refusal :=
  engine (Instr.pxout a).opnds s fun r t s =>
    match r.pixTray s with
    | none => .early .illegal
    | some (x, p) =>
      let n := p.block
      let core := r.key / 32
      let l := r.exporters x
      if r.t.n < r.t.vwin + a.toNat + n then .early .regovf
      else if r.t.pend.any fun q => q.vdst.any fun k => (List.range' (r.t.vwin + a.toNat) n).contains k then .stay
      else
        let colour (th : Nat) : List Word := (List.range n).map fun j => r.t.vreg (a.toNat + j) th
        let nan (th : Nat) : Bool := p.targets.any fun i => (List.range 4).any fun c =>
          (fmtF32.val ((colour th).getD (4 * i + c) 0).toNat).isNan
        if r.t.fpctl.getLsbD 6 && l.any fun e => nan e.1 then .trap t s [.pxnan]
        else if r.t.ctrFull .stores && !l.isEmpty then .stay
        else
          match s.exportAll core t r.step p x colour l with
          | .error f =>
            let s := l.foldl (fun s e => s.exportCow core t.ctx r.step p e.2) s
            if f.kind.replayable then .park t s f true r.todo none else .fault t s f true r.todo
          | .ok (s, es) =>
            if es.isEmpty then
              let (t, s) := r.order t s 6 (4 + core) (.done [])
              .ok t s
            else
              let m := l.foldl (fun (m : Mask) e => m ||| maskBit e.1) 0
              let t := (t.addPend .op r.i (some .stores) [] [] none).releaseShares m
              let s := { s with nextId := s.nextId + es.length }.onPass x.pass fun p => { p with exports := p.exports ++ es }
              let (t, s) := r.log t s .store (l.flatMap fun e => e.2.pixels.flatMap fun px =>
                (p.pixelNeeds px.1 px.2).map fun y => ⟨e.1, y.2.1⟩) 4
              let (t, s) := r.order t s 6 (4 + core) (.done [])
              .ok t s

-- Blending (R355–R357)

/-- An exact channel value: a NaN, an infinity, or (−1)^neg × n ÷ d. -/
inductive Chan where
  | nan
  | inf (s : Bool)
  | rat (neg : Bool) (n d : Nat)
  deriving DecidableEq, Repr

/-- A floating value as a channel value. -/
def FVal.chan : FVal → Chan
  | .nan _ => .nan
  | .inf s => .inf s
  | .fin s m e => if e < 0 then .rat s m (2 ^ (-e).toNat) else .rat s (m * 2 ^ e.toNat) 1

/-- The signed numerator. -/
def signedNum (neg : Bool) (n : Nat) : Int := if neg then -(n : Int) else n

/-- x < y, with −0 below +0 (R355). -/
def Chan.below : Chan → Chan → Bool
  | .inf s, .inf t => s && !t
  | .inf s, .rat _ _ _ => s
  | .rat _ _ _, .inf t => !t
  | .rat s n d, .rat t m e =>
    signedNum s n * e < signedNum t m * d || (n == 0 && m == 0 && s && !t)
  | _, _ => false

/-- The minimum, or with `mx` the maximum: a NaN gives the other operand (R355). -/
def Chan.minMax (mx : Bool) (x y : Chan) : Chan :=
  if x = .nan then y else if y = .nan then x else if x.below y == mx then y else x

/-- A product: 0 × ∞ is a NaN. -/
def Chan.mul : Chan → Chan → Chan
  | .nan, _ => .nan
  | _, .nan => .nan
  | .inf s, .inf t => .inf (s != t)
  | .inf s, .rat t n _ => if n = 0 then .nan else .inf (s != t)
  | .rat s n _, .inf t => if n = 0 then .nan else .inf (s != t)
  | .rat s n d, .rat t m e => .rat (s != t) (n * m) (d * e)

/-- A sum: an exact zero is +0 but where both terms are −0 (R355). -/
def Chan.add : Chan → Chan → Chan
  | .nan, _ => .nan
  | _, .nan => .nan
  | .inf s, .inf t => if s = t then .inf s else .nan
  | .inf s, .rat _ _ _ => .inf s
  | .rat _ _ _, .inf t => .inf t
  | .rat s n d, .rat t m e =>
    let v := signedNum s n * e + signedNum t m * d
    .rat (v < 0 || (v == 0 && n == 0 && m == 0 && s && t)) v.natAbs (d * e)

/-- 1 − x. -/
def Chan.oneMinus : Chan → Chan
  | .rat s n d => Chan.add (.rat false 1 1) (.rat (!s) n d)
  | .inf s => .inf !s
  | .nan => .nan

/-- Clamped between −1, or 0 without `sgn`, and 1; a NaN stays (R355). -/
def Chan.clamp (sgn : Bool) (x : Chan) : Chan :=
  let lo : Chan := if sgn then .rat true 1 1 else .rat false 0 1
  if x = .nan then .nan else if x.below lo then lo else if (Chan.rat false 1 1).below x then .rat false 1 1 else x

/-- The exact value of a stored channel (R355): format 1 UNORM, 2 SNORM, 3 FP16, 4 FP32. -/
def storedChan (fmt x : Nat) : Chan :=
  match fmt with
  | 1 => .rat false x 255
  | 2 =>
    let v := toSigned 1 x
    if v < -127 then .rat true 1 1 else .rat (v < 0) v.natAbs 127
  | 3 => (fmtF16.val x).chan
  | _ => (fmtF32.val x).chan

/-- n ÷ d rounded to an integer, to nearest even. -/
def divRne (n d : Nat) : Nat :=
  let q := n / d
  let r := n % d
  if d < 2 * r ∨ (2 * r = d ∧ q % 2 = 1) then q + 1 else q

/-- A rational rounded once to a format, to nearest even, with its sign. -/
def Fmt.ofRat (f : Fmt) (s : Bool) (n d : Nat) : Nat :=
  if n = 0 then f.signed s 0
  else
    let (m, e) := divSticky (f.mb + 4) n 0 d 0
    (f.result .rne false s m e).1

/-- The stored form of a channel value, and whether it was a NaN (R355, R357). -/
def storeChan (fmt : Nat) (x : Chan) : Nat × Bool :=
  match fmt with
  | 1 =>
    match x.clamp false with
    | .rat _ n d => (divRne (255 * n) d, false)
    | _ => (0, true)
  | 2 =>
    match x.clamp true with
    | .rat s n d =>
      let q := divRne (127 * n) d
      (if s ∧ q ≠ 0 then 256 - q else q, false)
    | _ => (0, true)
  | k =>
    let f := if k = 3 then fmtF16 else fmtF32
    match x with
    | .nan => (f.qnan, true)
    | .inf s => (f.signed s (f.inf.getD 0), false)
    | .rat s n d => (f.ofRat s n d, false)

/-- A blend factor (Table 15.2). -/
def blendFactor (code : Nat) (sa da : Chan) : Chan :=
  match code with
  | 0 => .rat false 0 1
  | 1 => .rat false 1 1
  | 2 => sa
  | 3 => sa.oneMinus
  | 4 => da
  | _ => da.oneMinus

/-- The result of one channel of a target (R355): alpha has its own factors and operation. -/
def Pass.channel (p : Pass) (i c : Nat) (src dst : List Chan) : Chan :=
  let b := p.dw (16 * i + 8)
  let s := src.getD c .nan
  let d := dst.getD c .nan
  if !p.blend i then s
  else
    let op := if c = 3 then bits b 47 46 else bits b 39 38
    let fs := if c = 3 then bits b 42 40 else bits b 34 32
    let fd := if c = 3 then bits b 45 43 else bits b 37 35
    match op with
    | 0 => ((s.mul (blendFactor fs (src.getD 3 .nan) (dst.getD 3 .nan))).add
        (d.mul (blendFactor fd (src.getD 3 .nan) (dst.getD 3 .nan))))
    | 1 => s.minMax false d
    | _ => s.minMax true d

/-- The source channels of a target, clamped for normalised formats (R355). -/
def Pass.source (p : Pass) (i : Nat) (colours : List Word) : List Chan :=
  (List.range 4).map fun c =>
    let x := (fmtF32.val (colours.getD (4 * i + c) 0).toNat).chan
    if p.fmt i = 1 then x.clamp false else if p.fmt i = 2 then x.clamp true else x

/-- The depth comparison (R356). -/
def zPasses (zf : Nat) (z old : Word) : Bool :=
  let x := fmtF32.val z.toNat
  let y := fmtF32.val old.toNat
  let nan := x.isNan || y.isNan
  match zf with
  | 0 => false
  | 1 => !nan && x.lt y
  | 2 => x.eq y
  | 3 => !nan && !y.lt x
  | 4 => !nan && y.lt x
  | 5 => !nan && !x.eq y
  | 6 => !nan && !x.lt y
  | _ => true

/-- A place in memory for a commit's access. -/
def commitAt (x : Xl) (off : Nat) : Placed := ⟨0, 0, .mem { x with pa := x.pa + off }⟩

/-- A commit reads n bytes through the translation made at its PXOUT, as a load that uses no L1 does (R365, R367). -/
def State.commitRd (s : State) (core c : Nat) (x : Xl) (n : Nat) : Nat × State :=
  let s := s.serve core c 1 (requests [commitAt x 0] false) []
  (s.readAt core false (.mem x) n, s)

/-- A commit writes n bytes through the translation made at its PXOUT, stamped with the STEP at commit (R365, R367). -/
def State.commitWr (s : State) (core c : Nat) (x : Xl) (off n v : Nat) : State :=
  let p := commitAt x off
  (((s.stamp c x (s.ctx c).step).ownLines core c 1 [p]).putAt core c { x with pa := x.pa + off } n v).storeL1 core 0 [p]

/-- Write a fine pixel to a colour target; whether a NaN channel was written (R355, R357). -/
def State.blendPixel (s : State) (p : Pass) (e : Export) (px : PixelAt) (i : Nat) : State × Bool :=
  match px.targets.get? i with
  | none => (s, false)
  | some x =>
    let fmt := p.fmt i
    let z := channelSize fmt
    if p.blend i ∧ s.readsPoison (.mem x) (4 * z) then (s, false)
    else
      let (old, s) := if p.blend i then s.commitRd e.core p.ctx x (4 * z) else (0, s)
      let dst := (List.range 4).map fun c => storedChan fmt (old / 2 ^ (8 * z * c) % 2 ^ (8 * z))
      let src := p.source i e.colours
      let wmask := bits (p.dw (16 * i + 8)) 52 49
      (List.range 4).foldl (fun (acc : State × Bool) c =>
        if wmask / 2 ^ c % 2 = 0 then acc
        else
          let (v, nan) := storeChan fmt (p.channel i c src dst)
          (acc.1.commitWr e.core p.ctx x (z * c) z v, acc.2 || nan)) (s, false)

/-- Commit one fine pixel: the depth test, then every target; the NaN targets (R355, R356). -/
def State.commitPixel (s : State) (p : Pass) (e : Export) (px : PixelAt) : State × List Nat :=
  let (ok, s) := match px.depth with
    | none => (true, s)
    | some x =>
      let (old, s) := s.commitRd e.core p.ctx x 4
      let ok := zPasses (bits (p.dw 64) 56 54) px.z (BitVec.ofNat 32 old)
      (ok, if ok && p.zwrite then s.commitWr e.core p.ctx x 0 4 px.z.toNat else s)
  if !ok then (s, [])
  else p.targets.foldl (fun (acc : State × List Nat) i =>
    let (s, nan) := acc.1.blendPixel p e px i
    (s, if nan then acc.2 ++ [i] else acc.2)) (s, [])

-- The ordering unit (R354)

/-- The fine quads that hold covered pixels. -/
def fineQuads (l : List (Nat × Nat)) : List (Nat × Nat) := (l.map fun c => (c.1 / 2, c.2 / 2)).eraseDups

/-- The fine quads that an export writes. -/
def Export.quads (e : Export) : List (Nat × Nat) := fineQuads (e.pixels.map fun x => (x.x, x.y))

/-- Two lists have an element in common. -/
def meets {α : Type} [BEq α] (a b : List α) : Bool := a.any fun x => b.contains x

/-- The pixel trays of a tile, resident or saved. -/
def State.pixTrays (s : State) (pass tile : Nat) : List PixTray :=
  ((s.trays.map (·.2)) ++ s.batches.flatMap fun b => b.2.image.map (·.2)).filterMap fun t =>
    t.pix.bind fun x => if x.pass = pass ∧ x.tile = tile then some x else none

/-- An export waits for an older entry of one of its fine quads, or for an earlier thread of its PXOUT (R354). -/
def State.exportWaits (s : State) (pass : Nat) (p : Pass) (e : Export) : Bool :=
  let q := e.quads
  ((s.pixTrays pass e.tile).any fun x => x.threads.any fun z =>
    z.2.holds && z.2.seq < e.seq && meets (fineQuads z.2.pixels) q) ||
  p.exports.any fun o => o.tile == e.tile && o.id != e.id &&
    (o.seq < e.seq || (o.batch == e.batch && o.tray == e.tray && o.pend == e.pend && o.id < e.id)) && meets o.quads q

/-- EXPORT_COMMIT (R354–R357, R365). -/
def execExportCommit (pass k : Nat) (s : State) : Host.Outcome State Fault Refusal :=
  .next (match s.passes.get? pass with
    | none => s
    | some p =>
      match p.exports.find? fun e => e.id == k with
      | none => s
      | some e =>
        if s.exportWaits pass p e then s
        else
          let (s, nans) := e.pixels.foldl (fun (acc : State × List Nat) px =>
            let (s, l) := acc.1.commitPixel p e px
            (s, acc.2 ++ l)) (s, [])
          let left := p.exports.filter fun o => o.id != k
          let s := s.onPass pass fun p => { p with
            exports := left,
            nans := (List.range 4).map fun i => min 65535 (p.nans.getD i 0 + (nans.filter (· == i)).length) }
          if left.any fun o => o.batch == e.batch && o.tray == e.tray && o.pend == e.pend then s
          else s.onTrayOf e.batch e.tray fun t => t.complete e.pend)

-- Pixel trays (R352, R353)

/-- A pixel batch has no launch: this number is no launch's slot. -/
def noLaunch : Nat := 2 ^ 20

/-- The scoreboard entries of threads: their (primitive, fine quad) pairs. -/
def pixEntries (l : KMap PixThread) : List (Nat × Nat × Nat) :=
  l.flatMap fun z => if z.2.holds then (fineQuads z.2.pixels).map fun q => (z.2.seq, q) else []

/-- The pixel trays that keep reservations on a core: with their tiles' core (R353, R368). -/
def State.pixOn (s : State) (core : Nat) : List PixTray :=
  ((s.trays.map (·.2)) ++ s.batches.flatMap fun b => b.2.image.map (·.2)).filterMap fun t =>
    t.pix.bind fun x =>
      if ((s.passes.get? x.pass).bind fun p => (p.tile x.tile).core) = some core then some x else none

/-- The exports of a core that have not committed, with their passes. -/
def State.exportsOn (s : State) (core : Nat) : List (Nat × Export) :=
  s.passes.flatMap fun p => (p.2.exports.filter fun e => e.core == core).map fun e => (p.1, e)

/-- The export slots in use on a core: one for each thread of its pixel trays, and one for each export whose tray has ended
(R353). -/
def State.slotsOut (s : State) (core : Nat) : Nat :=
  ((s.pixOn core).map fun x => x.threads.length).sum +
    ((s.exportsOn core).filter fun e => (s.trayOf e.2.batch e.2.tray).isNone).length

/-- The scoreboard entries in use on a core: those that threads or exports still hold, by pass (R353, R354). -/
def State.entriesOut (s : State) (core : Nat) : List (Nat × Nat × Nat × Nat) :=
  (((s.pixOn core).flatMap fun x => (pixEntries x.threads).map fun e => (x.pass, e)) ++
    (s.exportsOn core).flatMap fun e => e.2.quads.map fun q => (e.1, e.2.seq, q)).eraseDups

/-- Whether a core has the export slots and scoreboard entries that a tray needs (R353). -/
def State.pixRoom (s : State) (core : Nat) (l : KMap PixThread) : Bool :=
  s.slotsOut core + l.length ≤ 1536 && (s.entriesOut core).length + (pixEntries l).eraseDups.length ≤ 2048

/-- The threads of a tray's quads (R352). -/
def quadThreads (l : List Quad) : KMap PixThread :=
  (List.range l.length).flatMap fun i =>
    match l[i]? with
    | none => []
    | some q => (List.range 4).map fun j =>
      let c := q.cover.getD j 0
      (4 * i + j, ⟨q.seq, q.x + q.w * (j % 2), q.y + q.h * (j / 2), q.w, q.h, c, c != 0⟩)

/-- A pixel tray starts (R353). -/
def State.startPixel (s : State) (pass tile core : Nat) (p : Pass) (l : List Quad) : State :=
  let id := s.nextId
  let regs := 16 * (bits (p.dw 80) 21 16 + 1)
  let code := BitVec.ofNat 48 (p.dw 88)
  let prio := bits (p.dw 80) 15 14
  let th := quadThreads l
  let seqs := (l.map (·.seq)).eraseDups
  let m := th.foldl (fun (m : Mask) e => m ||| maskBit e.1) 0
  let consts := (List.range 32).map fun i => BitVec.ofNat 32 (p.desc / 2 ^ (1024 + 32 * i))
  let bid := Config.pixelBatchId id
  let t0 := Tray.start p.ctx id 0 core bid 0xFFFFFFFF (BitVec.ofNat 32 pass) false regs prio id consts code m
  let ident := [(8, tile / p.cols * 65536 + tile % p.cols), (9, l.length), (10, seqs.length)]
  let t := { t0 with
    sregs := ident.foldl (fun r x => smSet r x.1 (BitVec.ofNat 32 x.2)) t0.sregs,
    pix := some ⟨pass, tile, (p.tile tile).prims.filter fun e => seqs.contains e.1, th⟩ }
  let b : Batch := ⟨p.ctx, noLaunch, id, none, code, 0, prio, false, 1, regs, bid, some core, true, 0, false, id, [], [],
    none, [], false, true⟩
  let rest := (p.tile tile).quads.drop l.length
  let s := { s with nextId := id + 1, batches := s.batches.put id b }
  let s := s.setTray (core * 32 + (s.freeSlots core).headD 0) t
  let s := s.onPass pass fun p => p.onTile tile fun x => { x with
    core := some core, quads := rest, prims := x.prims.filter fun e => rest.any fun q => q.seq == e.1 }
  (s.batchPlaced core noLaunch).batchAcquire core

/-- A tile has no pixel work in flight: no tray and no export (R353). -/
def State.tileIdle (s : State) (pass tile : Nat) (p : Pass) : Bool :=
  (s.pixTrays pass tile).isEmpty && !p.exports.any fun e => e.tile == tile

/-- A saved pixel tray of a tile returns to the tile's pixel core where it fits (R368): its batch. -/
def State.savedPixel (s : State) (pass tile : Nat) (p : Pass) : Option (Nat × Nat) :=
  match (p.tile tile).core with
  | none => none
  | some core =>
    (s.batches.find? fun e =>
      e.2.pixel && e.2.core.isNone && (e.2.image.any fun t => t.2.pix.any fun x => x.pass == pass && x.tile == tile) &&
      (s.ctx e.2.ctx).st == .running && (s.roomsNow e.2.ctx).any fun r => r.core == core && r.fits e.2.ask).map
        fun e => (e.1, core)

/-- PIXEL_TRAY_PLACE (R352, R353, R368): a saved tray of a tile returns to the tile's pixel core, or a closed tray of the
tile is placed there. -/
def execPixelTrayPlace (pass tile : Nat) (s : State) : Host.Outcome State Fault Refusal :=
  .next (match s.passes.get? pass with
    | none => s
    | some p =>
      let x := p.tile tile
      match s.savedPixel pass tile p with
      | some (b, core) => s.placeBatch b core
      | none =>
      if x.quads.isEmpty || (x.quads.length < 24 && (p.readyPrim tile).isSome) || (s.ctx p.ctx).st != .running then s
      else
        let l := x.quads.take 24
        let die := p.owner tile
        let fixed := if s.tileIdle pass tile p then none else x.core
        let ask : Ask := ⟨16 * (bits (p.dw 80) 21 16 + 1), 1, []⟩
        match bestRoom ((s.roomsNow p.ctx).filter fun r =>
            r.core / 256 == die && (match fixed with | some k => r.core == k | none => true) && r.fits ask) with
        | none => s
        | some r => if s.pixRoom r.core (quadThreads l) then s.startPixel pass tile r.core p l else s)

-- The end of a pass (R342)

/-- Whether a pass has ended. -/
def State.passOver (s : State) (k : Nat) (p : Pass) : Bool :=
  ((List.range (p.nstream + 1)).all fun st => (p.stream st).closed) && p.msgs.isEmpty && p.exports.isEmpty &&
  (p.tiles.all fun e => e.2.bin.isEmpty && e.2.quads.isEmpty) &&
  !((s.trays.map (·.2)) ++ s.batches.flatMap fun b => b.2.image.map (·.2)).any fun t =>
    t.pix.any fun x => x.pass == k

/-- PASS_END (R342). -/
def execPassEnd (pass : Nat) (s : State) : Host.Outcome State Fault Refusal :=
  .next (match s.passes.get? pass with
    | none => s
    | some p =>
      if !s.passOver pass p then s
      else
        let s := (s.statusWrite p (if p.err = 0 then 2 else 3)).1
        let s := { s with passes := s.passes.del pass }
        if (s.ctx p.ctx).own.counters.getLsbD p.tcnt then s.trigAdd p.tcnt 1 else s)

end Sys2Proof.Machine
end

