-- ==== Sys2Proof/Machine/MemInstr.lean ====
section
/-!
DEFINITION. The memory instructions: majors 0x20 to 0x28 and FENCE, CCTL and PREF of 0x29, and the events of the memory
engine (R157–R211, R255).
-/

namespace Sys2Proof.Machine

/-- The access size of a width (R54). -/
def memSize (w : BitVec 3) : Nat := 2 ^ min w.toNat 5

/-- The L1 class a hint fills with (R171). -/
def l1Class (h : Nat) : Nat := if h = 3 then 0 else if h = 4 then 2 else 1

/-- Whether a load with a hint uses L1 (Table 7.5). -/
def hintUsesL1 (h : Nat) : Bool := h == 0 || h == 2 || h == 3 || h == 4

/-- Threads whose access L1 does not serve. -/
def State.away (s : State) (core : Nat) (useL1 : Bool) (l : List Placed) : List Placed :=
  l.filter fun x =>
    match x.loc with
    | .mem xl => !(useL1 && xl.ord != 1 && s.l1Has core (xl.pa / 64))
    | _ => false

/-- Perform a load of checked threads (R162, R168–R172, R195, R199, R200): its data is what it reads now, its registers are
written at LOAD_COMPLETE. -/
def Src.load (r : Src) (t : Tray) (s : State) (d : BitVec 7) (n size h : Nat) (useL1 : Bool) (k : Checked) : Res :=
  let core := r.key / 32
  let k := s.remoteRetries t.ctx k
  if k.ok.isEmpty && k.park.isSome then k.finish .loads t s false
  else
    let s := s.forgetAll k.ok size
    let cs := s.loadCauses core size k.ok
    let q := requests k.ok useL1
    let fills := s.newFills core q
    let need := entriesFor fills q
    if !cs.isEmpty then .trap t s cs
    else if 8192 < s.entriesUsed core + need then .short need
    else
      let go (s : State) : Res :=
        let s := (s.exchange core (s.homeAgents (s.away core useL1 k.ok))).serve core t.ctx (hintPrio h) q fills
        let data := k.ok.flatMap fun x => regWrites (r.t.vwin + d.toNat) n x.th (s.readAt core useL1 x.loc size)
        let t := t.addPend .load r.i (some .loads) [] (r.group d n) (some data)
          (fills.map fun z => ⟨z, l1Class h, h == 2⟩) need r.pc (s.homesOf k.ok) r.grp
        let (t, s) := r.log t (s.onCore core fun c => { c with need := none }) .load (k.ok.map fun x => ⟨x.th, x.ea⟩) size
        k.finish .loads t (if h = 5 ∨ h = 6 then s.acquire core t 3 else s) false
      if h = 6 then r.inTurn s (s.accessCores t core k.ok) go else go s

/-- LD (R162). -/
def execLd (d a : BitVec 7) (w h : BitVec 3) (o : BitVec 5) (s : State) : Host.Outcome State Fault Refusal :=
  issue (Instr.ld d a w h o).opnds s fun r t s =>
    let l := r.lanes a (offsetOf o (memSize w))
    if r.ctrFull .loads then .stay
    else if misaligned l (memSize w) then .trap t s [.align]
    else match s.checkAll (r.key / 32) t.ctx needR l with
      | .error f => .fault t s f false r.todo
      | .ok k => r.load t (s.tlbFillAll (r.key / 32) t.ctx k.ok) d (memRegs w) (memSize w) h.toNat (hintUsesL1 h.toNat) k

/-- The leader of a row: its lowest thread of a mask (R164). -/
def rowLeader (m : Mask) (row : Nat) : Option Nat := (maskThreads m).find? fun th => th / 32 == row

/-- The block address of each row of an LDW: from its leader's registers, or kept since it parked (R164). -/
def Src.bases (r : Src) (a : BitVec 7) (off : DWord) : KMap Nat :=
  (List.range 3).filterMap fun row =>
    match r.redo?.bind fun x => x.bases.get? row with
    | some b => some (row, b)
    | none => (rowLeader r.m0 row).map fun l => (row, (r.v2 a l + off).toNat)

/-- The blocks of an LDW: for each row with a thread to perform, every lane's address (R164). -/
def Src.blocks (r : Src) (bases : KMap Nat) (size : Nat) : List Lane :=
  bases.flatMap fun e =>
    if (rowLeader r.todo e.1).isNone then []
    else (List.range 32).map fun j => ⟨32 * e.1 + j, (e.2 + j * size) % 2 ^ 64⟩

/-- A word that parks keeps the addresses of its rows' blocks. -/
def Res.withBases (x : Res) (r : Src) (bases : KMap Nat) : Res :=
  match x with
  | .park t s f wr left ctr => .park (t.setPath r.i { t.path r.i with redo := some ⟨r.pc, 0, none, bases⟩ }) s f wr left ctr
  | x => x

/-- LDW (R164). The whole block of a row is checked, and a terminal fault anywhere in it ends the instruction; a replayable
fault leaves the active threads that meet it (R160: DEDUCED, as inactive lanes are not read). -/
def execLdw (d a : BitVec 7) (w h : BitVec 3) (o : BitVec 5) (s : State) : Host.Outcome State Fault Refusal :=
  issue (Instr.ldw d a w h o).opnds s fun r t s =>
    let core := r.key / 32
    let bases := r.bases a (offsetOf o (32 * memSize w))
    let l := r.blocks bases (memSize w)
    if r.ctrFull .loads then .stay
    else if misaligned l (memSize w) then .trap t s [.align]
    else match s.checkAll core t.ctx needR l,
        s.checkAll core t.ctx needR (l.filter fun x => r.todo.getLsbD x.th) with
      | .ok _, .ok k =>
        (r.load t (s.tlbFillAll core t.ctx k.ok) d (memRegs w) (memSize w) h.toNat (hintUsesL1 h.toNat) k).withBases r bases
      | .error f, _ => .fault t s f false r.todo
      | .ok _, .error f => .fault t s f false r.todo

/-- Where a walk for an LDV of version w finds an address (R243, R255): the place, in the frame that serves w, and the
versions that the frame serves; none where no frame does. A slot that can hold no frame of the context serves nothing
(R242). -/
def State.walkV (s : State) (c ea : Nat) (w : Word) : Except XFault (Option (Loc × Option (Word × Option Word))) := do
  match ← s.locateWalk c ea needR with
  | .mem x =>
    let stamp := s.stampOf c x
    if 2 ^ 40 ≤ x.pa then xerr .nomem c ea x.leaf
    else if stamp ≤ w.toNat then pure (some (.mem x, some (BitVec.ofNat 32 stamp, none)))
    else if !x.vers then pure none
    else do
      let r ← s.chainRd c x.chain
      match serveAt stamp r w with
      | some (i + 1) =>
        let (_, size, _) ← s.ownLeaf c ea
        let y := r.slot i
        if y.frame % size != 0 || !s.frameOk c y.frame size then pure none
        else
          let pa ← s.upPa c (y.frame + ea % size) needR
          pure (some (.mem { x with pa := pa, size := 65536 }, some (y.low, some y.high)))
      | _ => pure none
  | l => pure (some (l, none))

/-- Where an LDV of version w finds an address: through the TLB, as long as the current frame's stamp is not above w, else by
a walk (R223, R255). -/
def State.locateV (s : State) (core c ea : Nat) (w : Word) : Except XFault (Option (Loc × Option (Word × Option Word))) :=
  match s.tlbFindV core c ea w with
  | some e =>
    if e.range.all (fun v => v.2.isNone) && w.toNat < s.stampOf c e.xl then s.walkV c ea w
    else .ok (some (s.physLoc (e.at ea), none))
  | none => s.walkV c ea w

/-- What the threads of an LDV find: whether some thread's version is gone, the accesses, and the state with the TLB filled.
The first terminal fault in thread order ends it; a replayable one leaves its thread (R160, R255). -/
def State.checkV (s : State) (core c : Nat) (w : Word) (l : List Lane) : Except XFault (Bool × Checked × State) :=
  l.foldlM (fun (acc : Bool × Checked × State) x =>
    let (gone, k, s) := acc
    match s.locateV core c x.ea w with
    | .ok none => .ok (true, k, s)
    | .ok (some (p, range)) =>
      let s := match p, range with
        | .mem xl, some v => s.tlbFill core c x.ea xl (some v)
        | _, _ => s
      .ok (gone, { k with ok := k.ok ++ [⟨x.th, x.ea, p⟩] }, s)
    | .error f => if f.kind.replayable then .ok (gone, k.leave x.th f, s) else .error f) (false, ⟨[], 0, none⟩, s)

/-- LDV (R255): per thread from the frame that serves the version in s(32 + O), or VGONE. -/
def execLdv (d a : BitVec 7) (w h : BitVec 3) (o : BitVec 5) (s : State) : Host.Outcome State Fault Refusal :=
  issue (Instr.ldv d a w h o).opnds s fun r t s =>
    let l := r.lanes a 0
    if r.ctrFull .loads then .stay
    else if misaligned l (memSize w) then .trap t s [.align]
    else match s.checkV (r.key / 32) t.ctx (r.t.sreg r.i (32 + o.toNat)) l with
      | .error f => .fault t s f false r.todo
      | .ok (true, _, s) => .trap t s [.vgone]
      | .ok (false, k, s) => r.load t s d (memRegs w) (memSize w) h.toNat false k

/-- The checks of an instruction that writes, before it is performed (R160, R246): the state, with the TLB filled and copies of
frozen pages begun, and the accesses. -/
def Src.stored (r : Src) (s : State) (l : List Lane) (need : Need) : Except XFault (State × Checked) := do
  let k ← s.checkAll (r.key / 32) r.t.ctx need l
  let (s, k) ← s.cowAll r.t.ctx r.step k
  pure (s.tlbFillAll (r.key / 32) r.t.ctx k.ok, k)

/-- The contexts whose ROOT an instruction writes: the first doubleword of their control page (R213). -/
def rootsOf (l : List Placed) : List Nat :=
  (l.filterMap fun x =>
    match x.loc with
    | .ctl c off => if off < 8 then some c else none
    | _ => none).eraseDups

/-- ST (R162, R168, R169, R171, R199, R200, R246). -/
def execSt (d a : BitVec 7) (w h : BitVec 3) (o : BitVec 5) (s : State) : Host.Outcome State Fault Refusal :=
  issue (Instr.st d a w h o).opnds s fun r t s =>
    let core := r.key / 32
    let n := memSize w
    let l := r.lanes a (offsetOf o n)
    if r.ctrFull .stores then .stay
    else if misaligned l n then .trap t s [.align]
    else match r.stored s l needW with
      | .error f => .fault t s f true r.todo
      | .ok (s, k) =>
        if k.ok.isEmpty && k.park.isSome then k.finish .stores t s true
        else
          let go (s : State) : Res :=
            let s := (s.exchange core (s.homeAgents k.ok)).ownLines core t.ctx (hintPrio h.toNat) k.ok
            let s := k.ok.foldl (fun s x =>
              s.storeAt core t.ctx r.step x n (r.regsNat d (memRegs w) x.th % 2 ^ (8 * n))) s
            let s := s.storeL1 core h.toNat k.ok
            let s := (wholeSectors ((localAddrs k.ok).filter fun pa => !s.unreachable core pa) n).foldl
              (fun s z => s.setPoison (64 * z) false) s
            let t := t.addPend .store r.i (some .stores) [] [] none (grp := r.grp) (roots := rootsOf k.ok)
            let t := { t with obs := t.obs ++ s.storeCauses k.ok }
            let (t, s) := r.log t s .store (k.ok.map fun x => ⟨x.th, x.ea⟩) n
            k.finish .stores t (if h = 6 then s.acquire core t 3 else s) true
          if h = 6 then r.inTurn s (s.accessCores t core k.ok) go else go s

/-- Scope 4 is illegal in four-device mode (R167, R188). -/
def scopeLegal (s : State) (c scope : Nat) : Bool := scope != 4 || (s.ctx c).pmode != 2

/-- ATOM (R166, R167). -/
def execAtom (d a : BitVec 7) (w h : BitVec 3) (o : BitVec 5) (s : State) : Host.Outcome State Fault Refusal :=
  issue (Instr.atom d a w h o).opnds s fun r t s =>
    let core := r.key / 32
    let n := atomSize w.toNat
    let scope := o.toNat % 8
    if !scopeLegal s t.ctx scope then .early .illegal
    else if r.ctrFull .loads then .stay
    else if misaligned (r.lanes a 0) n then .trap t s [.align]
    else match r.stored s (r.lanes a 0) needRW with
      | .error f => .fault t s f true r.todo
      | .ok (s, k) =>
        let k := s.remoteRetries t.ctx k
        let s := s.forgetAll k.ok n
        let cs := s.loadCauses core n k.ok
        if k.ok.isEmpty && k.park.isSome then k.finish .loads t s true
        else if !cs.isEmpty then .trap t s cs
        else
          let m := memRegs w
          let (data, s) := k.ok.foldl (fun (acc : List RegWrite × State) x =>
            let v := r.regsNat d (atomRegs w h) x.th
            let (old, s) := acc.2.atomAt core t.ctx r.step h.toNat w.toNat false x (v % 2 ^ (8 * n)) (v / 2 ^ (8 * n))
            (acc.1 ++ regWrites (r.t.vwin + d.toNat) m x.th old, s)) ([], s.exchange core (s.homeAgents k.ok))
          let t := t.addPend .load r.i (some .loads) [] (r.group d (atomRegs w h)) (some data) [] 0 r.pc
            (s.homesOf k.ok) r.grp
          let (t, s) := r.log t s .atomic (k.ok.map fun x => ⟨x.th, x.ea⟩) n
          k.finish .loads t (if o.toNat / 8 % 2 = 1 then s.acquire core t scope else s) true

/-- RED (R166, R167, R206). -/
def execRed (d a : BitVec 7) (w h : BitVec 3) (o : BitVec 5) (s : State) : Host.Outcome State Fault Refusal :=
  issue (Instr.red d a w h o).opnds s fun r t s =>
    let core := r.key / 32
    let n := atomSize w.toNat
    if !scopeLegal s t.ctx (o.toNat % 8) then .early .illegal
    else if r.ctrFull .stores then .stay
    else if misaligned (r.lanes a 0) n then .trap t s [.align]
    else match r.stored s (r.lanes a 0) needW with
      | .error f => .fault t s f true r.todo
      | .ok (s, k) =>
        if k.ok.isEmpty && k.park.isSome then k.finish .stores t s true
        else
          let s := k.ok.foldl (fun s x =>
            (s.atomAt core t.ctx r.step h.toNat w.toNat true x (r.regsNat d (memRegs w) x.th % 2 ^ (8 * n)) 0).2)
            ((s.exchange core (s.homeAgents k.ok)).updateLines core t.ctx k.ok)
          let t := t.addPend .store r.i (some .stores) [] [] none (grp := r.grp)
          let t := { t with obs := t.obs ++ s.storeCauses k.ok }
          let (t, s) := r.log t s .atomic (k.ok.map fun x => ⟨x.th, x.ea⟩) n
          k.finish .stores t s true

-- The scratchpad (R158, R165)

/-- The threads with their scratchpad offsets, which do not wrap (R158). -/
def Src.offsets (r : Src) (a : BitVec 7) (off : Int) : List (Nat × Int) :=
  (maskThreads r.todo).map fun th => (th, ((r.v a th).toNat : Int) + off)

/-- What the checks of scratchpad offsets raise: each of the two causes that some thread's offset meets (R158, R159). -/
def scratchCauses (l : List (Nat × Int)) (size region : Nat) : List Cause :=
  (if l.any fun x => x.2 % size != 0 then [.align] else []) ++
    if l.any fun x => x.2 < 0 || (region : Int) < x.2 + size then [.scratch] else []

/-- A scratchpad access is performed, with its hint at cluster scope (R161, R165): a message passes between the core and the
scratchpad, .sc waits for its turn, and .acq and .sc acquire. -/
def Src.spad (r : Src) (t : Tray) (s : State) (h : Nat) (acq : Bool) (go : State → Tray × State) : Res :=
  let core := r.key / 32
  let run (s : State) : Res :=
    let (t, s) := go (s.exchange core [spadAgent (s.clusterIdOf t)])
    .ok t (if acq then s.acquire core t 2 else s)
  if h = 6 then r.inTurn s (s.scopeCores t core 2) run else run s

/-- LDS (R165). -/
def execLds (d a : BitVec 7) (w h : BitVec 3) (o : BitVec 5) (s : State) : Host.Outcome State Fault Refusal :=
  issue (Instr.lds d a w h o).opnds s fun r t s =>
    let n := memSize w
    let k := s.clusterFor t
    let l := r.offsets a (o.toInt * n)
    if r.ctrFull .loads then .stay
    else match scratchCauses l n k.size with
      | [] =>
        if l.any fun x => k.poisoned x.2.toNat then .trap t s [.poison]
        else r.spad t s h.toNat (h != 0) fun s =>
          let data := l.flatMap fun x => regWrites (r.t.vwin + d.toNat) (memRegs w) x.1 (k.rd x.2.toNat n)
          (t.addPend .load r.i (some .loads) [] (r.group d (memRegs w)) (some data) (grp := r.grp), s)
      | cs => .trap t s cs

/-- STS (R165, R168). -/
def execSts (d a : BitVec 7) (w h : BitVec 3) (o : BitVec 5) (s : State) : Host.Outcome State Fault Refusal :=
  issue (Instr.sts d a w h o).opnds s fun r t s =>
    let n := memSize w
    let l := r.offsets a (o.toInt * n)
    if r.ctrFull .stores then .stay
    else match scratchCauses l n (s.clusterFor t).size with
      | [] => r.spad t s h.toNat (h == 6) fun s =>
        (t.addPend .store r.i (some .stores) [] [] none (grp := r.grp),
         s.onCluster (s.clusterIdOf t) fun k =>
          let k := l.foldl (fun k x => k.wr x.2.toNat n (r.regsNat d (memRegs w) x.1 % 2 ^ (8 * n))) k
          (wholeSectors (l.map fun x => x.2.toNat) n).foldl (fun k z => { k with poison := smSet k.poison z 0 }) k)
      | cs => .trap t s cs

/-- ATOMS (R166, R167). -/
def execAtoms (d a : BitVec 7) (w h : BitVec 3) (o : BitVec 5) (s : State) : Host.Outcome State Fault Refusal :=
  issue (Instr.atoms d a w h o).opnds s fun r t s =>
    let n := atomSize w.toNat
    let l := r.offsets a 0
    let k := s.clusterFor t
    if r.ctrFull .loads then .stay
    else match scratchCauses l n k.size with
      | [] =>
        if l.any fun x => k.poisoned x.2.toNat then .trap t s [.poison]
        else
          let (data, k) := l.foldl (fun (acc : List RegWrite × Cluster) x =>
            let v := r.regsNat d (atomRegs w h) x.1
            let old := acc.2.rd x.2.toNat n
            (acc.1 ++ regWrites (r.t.vwin + d.toNat) (memRegs w) x.1 old,
             acc.2.wr x.2.toNat n (atomNew h.toNat w.toNat old (v % 2 ^ (8 * n)) (v / 2 ^ (8 * n))))) ([], k)
          let s := (s.exchange (r.key / 32) [spadAgent (s.clusterIdOf t)]).onCluster (s.clusterIdOf t) fun _ => k
          let t := t.addPend .load r.i (some .loads) [] (r.group d (atomRegs w h)) (some data) (grp := r.grp)
          .ok t (if o.toNat / 8 % 2 = 1 then s.acquire (r.key / 32) t (o.toNat % 8) else s)
      | cs => .trap t s cs

-- FENCE, CCTL, PREF

/-- FENCE (R201–R204). Accesses are performed in program order as they issue, UO accesses too, which R185 allows, so that a
release has nothing left to wait for. -/
def execFence (kind scope : BitVec 3) (s : State) : Host.Outcome State Fault Refusal :=
  issue [] s fun r t s =>
    let core := r.key / 32
    let go (s : State) : Res := .ok t (if kind = 1 then s else s.acquire core t scope.toNat)
    if !scopeLegal s t.ctx scope.toNat then .early .illegal
    else if kind = 3 ∨ kind = 4 then r.inTurn s (s.scopeCores t core scope.toNat) go
    else go s

/-- The lines of a range, as virtual addresses (R178, R179). -/
def lineRange (a n : Nat) : List Nat := (List.range n).map fun i => a / 256 * 256 + 256 * i

/-- The physical line of an address a context may read in local memory. -/
def State.readableLine (s : State) (core c a : Nat) : Option Xl :=
  match s.locate core c a needR with
  | .ok (.mem x) => if x.pa < 2 ^ 40 then some x else none
  | _ => none

/-- CCTL.drop of a line: on every die, the copies in the context's own ways are written back; a line in U merges
(R179, R208). -/
def State.dropLine (s : State) (c ln : Nat) : State :=
  let s := s.mergeLine ln
  s.setLine ln (((s.lines.get? ln).getD []).filter fun e => e.2.owner != c)

/-- CCTL.lo of a line: on every die, the context's own copies become evict-first (R179). -/
def State.lowLine (s : State) (c ln : Nat) : State :=
  s.setLine ln (((s.lines.get? ln).getD []).all' fun _ k => if k.owner = c then { k with prio := 0 } else k)

/-- CCTL (R179, Table 7.7). -/
def execCctl (a : BitVec 7) (kind : BitVec 3) (n : BitVec 5) (s : State) : Host.Outcome State Fault Refusal :=
  issue (Instr.cctl a kind n).opnds s fun r t s =>
    let core := r.key / 32
    let ls := (lineRange (r.s2 a).toNat (n.toNat + 1)).filterMap fun x => s.readableLine core t.ctx x
    if kind.toNat = 0 then .ok t (s.l1Inval core true)
    else if kind.toNat = 1 then .ok t (ls.foldl (fun s x => s.l1DropRange core (x.pa / 256 * 256) 256) s)
    else if r.ctrFull .stores then .stay
    else
      let s := ls.foldl (fun s x =>
        if kind.toNat = 2 then s.dropLine t.ctx (x.pa / 256) else s.lowLine t.ctx (x.pa / 256)) s
      .ok (t.addPend .store r.i (some .stores) [] [] none (grp := r.grp)) s

/-- A prefetch of one line by PREF (R177, R178): dropped on SO pages and remote windows. -/
def State.prefLine (s : State) (core c tgt : Nat) (x : Xl) : State :=
  if x.ord = 1 || s.unreachable core x.pa then s
  else
    let ln := x.pa / 256
    let s := (s.count c 8 4).homeRead (core / 256) c ln (if tgt = 2 then 2 else 1) 15#4 false none
    if tgt = 0 then
      let wait := s.awaited core
      let lack := ((List.range 4).map fun i => 4 * ln + i).filter fun z => !s.l1Has core z && !wait.contains z
      lack.foldl (fun s z => s.l1Fill core ⟨z, 1, false⟩ (wait.map (· / 4))) s
    else s

/-- PREF (R178): its requests are dropped while no miss-status entry is free. -/
def execPref (a : BitVec 7) (tgt : BitVec 2) (n : BitVec 6) (s : State) : Host.Outcome State Fault Refusal :=
  issue (Instr.pref a tgt n).opnds s fun r t s =>
    let core := r.key / 32
    let ls := ((maskThreads r.m0).flatMap fun th =>
      (lineRange (r.v2 a th).toNat (n.toNat + 1)).map fun x => (th / 32, x)).eraseDups
    .ok t (if 8192 ≤ s.entriesUsed core then s
      else ls.foldl (fun s x =>
        match s.readableLine core t.ctx x.2 with
        | some xl => s.prefLine core t.ctx tgt.toNat xl
        | none => s) s)

-- Events of the memory engine

/-- Change a tray if a pending result of it satisfies a test. -/
def State.whenPend (s : State) (tray k : Nat) (ok : Tray → Pend → Bool) (f : Tray → Pend → State) : State :=
  match s.trays.get? tray with
  | none => s
  | some t =>
    match t.pend.find? fun p => p.id == k with
    | none => s
    | some p => if ok t p then f t p else s

/-- LOAD_COMPLETE (R162, R170, R171): the sectors are filled into L1, the registers are written, the counter falls. -/
def execLoadComplete (tray k : Nat) (s : State) : Host.Outcome State Fault Refusal :=
  .next (s.whenPend tray k (fun _ p => p.kind == .load) fun t p =>
    let busy := (s.awaited (tray / 32)).map (· / 4)
    p.fills.foldl (fun s f => s.l1Fill (tray / 32) f busy) (s.setTray tray (t.complete k)))

/-- STORE_COMPLETE (R162, R213): the stores counter falls. -/
def execStoreComplete (tray k : Nat) (s : State) : Host.Outcome State Fault Refusal :=
  .next (s.whenPend tray k (fun _ p => p.kind == .store && !s.rootsOut p) fun t _ => s.setTray tray (t.complete k))

/-- ENGINE_RESULT_LAND (R19): a result whose value is known arrives in its registers. -/
def execEngineResultLand (tray k : Nat) (s : State) : Host.Outcome State Fault Refusal :=
  .next (s.whenPend tray k (fun _ p => p.kind == .result && p.data.isSome) fun t _ => s.setTray tray (t.complete k))

/-- TURN_CLOCK_REPORT (R200). -/
def execTurnClockReport (core : Nat) (s : State) : Host.Outcome State Fault Refusal :=
  .next (s.onCore core fun c => { c with reported := s.turnOf core })

/-- Whether a line lies in local memory. -/
def State.lineOk (s : State) (ln : Nat) : Bool := s.localPa (256 * ln)

/-- HOME_READ (R205). -/
def execHomeRead (die ctx line : Nat) (s : State) : Host.Outcome State Fault Refusal :=
  .next (if s.lineOk line && die < 4 then s.homeRead die ctx line 1 15#4 true none else s)

/-- HOME_OWN (R205). -/
def execHomeOwn (die ctx line : Nat) (s : State) : Host.Outcome State Fault Refusal :=
  .next (if s.lineOk line && die < 4 then s.homeOwn die ctx line 1 15#4 none else s)

/-- HOME_ATOMIC (R205). -/
def execHomeAtomic (_die line : Nat) (s : State) : Host.Outcome State Fault Refusal :=
  .next (if s.lineOk line then s.homeAtomic line else s)

/-- HOME_UPDATE (R206, R207): an eligible tag only. -/
def execHomeUpdate (die ctx line : Nat) (op w : BitVec 3) (s : State) : Host.Outcome State Fault Refusal :=
  .next (if s.lineOk line && die < 4 && op.toNat < 6 && ([2, 3].contains w.toNat || op = 0 && 6 ≤ w.toNat) then
    s.homeUpdate die ctx line op.toNat w.toNat else s)

/-- HOME_EVICT (R205, R208). -/
def execHomeEvict (die line : Nat) (s : State) : Host.Outcome State Fault Refusal := .next (s.homeEvict die line)

/-- HOME_ENGINE_ACCESS (R205). -/
def execHomeEngineAccess (line : Nat) (wr : Bool) (s : State) : Host.Outcome State Fault Refusal :=
  .next (if s.lineOk line then s.homeEngine line wr else s)

/-- A line that a stream's prefetcher may fetch: up to 16 lines ahead of the latest demand access, in its page (R176), and
beyond what it has fetched (DEDUCED: it fetches a line once). -/
def Stream.ahead (t : Stream) (ctx ln : Nat) : Bool :=
  t.ctx == ctx && t.lo ≤ ln && ln ≤ t.hi &&
    if t.up then max t.last t.far < ln && ln ≤ t.last + 16 else ln < min t.last t.far && t.last ≤ ln + 16

/-- The streams of a bank after a line ahead of them has been fetched. -/
def Prefetcher.fetched (p : Prefetcher) (ctx ln : Nat) : Prefetcher :=
  { p with streams := p.streams.map fun x => if x.ahead ctx ln then { x with far := ln } else x }

/-- PREFETCH_ISSUE (R176, R177): a line ahead of a stream of one of the die's banks, which the die does not hold. -/
def execPrefetchIssue (die ctx line : Nat) (s : State) : Host.Outcome State Fault Refusal :=
  .next (if s.lineOk line && die < 4 && s.holdsWay ctx die && !s.fw.noPrefetch.contains ctx &&
      (s.copyAt line die).isNone &&
      s.prefetchers.any (fun e => e.1 / 32 == die && e.2.streams.any fun x => x.ahead ctx line)
    then
      let q := s.prefetchers.all' fun k p => if k / 32 = die then p.fetched ctx line else p
      { s.homePrefetch die ctx line with prefetchers := q }
    else s)

/-- UNCORRECTABLE_ERROR (R168, R209): the sector is poisoned. -/
def execUncorrectableError (pa : Nat) (s : State) : Host.Outcome State Fault Refusal :=
  .next (if s.localPa pa then s.setPoison pa true else s)

end Sys2Proof.Machine
end

