-- ==== Sys2Proof/Machine/Sampler.lean ====
section
/-!
DEFINITION. The march samplers: major 0x32 and the completion of its commands (R371–R385).
-/

namespace Sys2Proof.Machine

/-- What ends a sampler's read: a failed translation, or a cause (R384). -/
inductive SampErr where
  | fault (f : XFault)
  | cause (c : Cause)
  deriving DecidableEq, Repr

/-- A computation of the sampler: it collects the address and size of each read, or ends in an error. -/
abbrev Samp := StateT (List (Nat × Nat)) (Except SampErr)

/-- What a sampler reads with: the state, the context, the issuing core and the version (R383). -/
structure Reader where
  s : State
  c : Nat
  core : Nat
  w : Word

/-- A read within one sector: at the version as an LDV reads it, or the current frame (R383, R384). -/
def Reader.piece (r : Reader) (va n : Nat) : Except SampErr (List Byte) :=
  match (if r.w = noVer then (r.s.locateWalk r.c va needR).map some
      else (r.s.walkV r.c va r.w).map fun x => x.map (·.1)) with
  | .error f => .error (.fault f)
  | .ok none => .error (.cause .vgone)
  | .ok (some (.mem x)) =>
    if 2 ^ 40 ≤ x.pa then .error (.fault ⟨.nomem, r.c, va, x.leaf⟩)
    else if r.s.unreachable r.core x.pa then .error (.cause .linkdown)
    else if r.s.poisoned x.pa then .error (.cause .poison)
    else .ok (bytesOf n (r.s.rdAt x.pa n))
  | .ok (some l) => .ok (bytesOf n (r.s.regRead l n))

/-- A read of n bytes as a number. -/
def Reader.read (r : Reader) (va n : Nat) : Samp Nat := do
  let bs ← (pieces va n).foldlM (fun (acc : List Byte) p => do
    let b ← StateT.lift (r.piece p.1 p.2)
    modify fun l => l ++ [p]
    pure (acc ++ b)) []
  pure (natOf bs)

/-- A descriptor breaks its table (R374). -/
def sampIllegal {α : Type} : Samp α := StateT.lift (.error (.cause .illegal))

/-- An exact ratio n ÷ d rounded once to FP32 in a mode; d is above 0. -/
def ratioF32 (rm : RM) (n : Int) (d : Nat) : Word :=
  if n = 0 then 0
  else
    let (m, e) := divSticky 28 n.natAbs 0 d 0
    BitVec.ofNat 32 (fmtF32.result rm false (n < 0) m e).1

/-- A finite FP32 value in units of 2^-149. -/
def units149 (w : Word) : Int :=
  match fmtF32.val w.toNat with
  | .fin s m e => scaled s m e (-149)
  | _ => 0

/-- Whether an FP32 pattern is finite. -/
def finiteF32 (w : Word) : Bool :=
  match fmtF32.val w.toNat with
  | .fin _ _ _ => true
  | _ => false

/-- Whether an FP32 pattern is a NaN. -/
def nanF32 (w : Word) : Bool := (fmtF32.val w.toNat).isNan

-- MARCH (R375–R377)

/-- An exact time: n ÷ d, d above 0. -/
structure Time where
  n : Int
  d : Nat
  deriving DecidableEq, Repr

/-- One time is before another. -/
def Time.lt (a b : Time) : Bool := a.n * b.d < b.n * a.d

/-- The later of two times. -/
def Time.max (a b : Time) : Time := if a.lt b then b else a

/-- The earlier of two times. -/
def Time.min (a b : Time) : Time := if b.lt a then b else a

/-- A finite FP32 value as a time. -/
def Time.ofF32 (w : Word) : Time := ⟨units149 w, 2 ^ 149⟩

/-- A component of a ray: origin and direction in units of 2^-149 (R376). -/
structure Comp where
  o : Int
  d : Int
  deriving DecidableEq, Repr

/-- The time at which a component crosses plane k; its direction is not zero. -/
def Comp.cross (x : Comp) (k : Int) : Time :=
  let n := k * 2 ^ 149 - x.o
  if x.d < 0 then ⟨-n, x.d.natAbs⟩ else ⟨n, x.d.natAbs⟩

/-- The cell of edge `size` that holds o + (t + e)·d for all small e above 0 (R377). -/
def Comp.cell (x : Comp) (t : Time) (size : Nat) : Int :=
  let p := x.o * t.d + t.n * x.d
  let c : Int := 2 ^ 149 * t.d * size
  if x.d < 0 ∧ p % c = 0 then p / c - 1 else p / c

/-- The time at which a component leaves a cell; none where its direction is zero. -/
def Comp.leave (x : Comp) (i : Int) (size : Nat) : Option Time :=
  if x.d = 0 then none else some (x.cross (size * (if 0 < x.d then i + 1 else i)))

/-- A ray: its three components. -/
abbrev Ray := List Comp

/-- The cell a ray is in just after a time. -/
def Ray.cell (r : Ray) (t : Time) (size : Nat) : List Int := r.map fun x => x.cell t size

/-- When a ray leaves a cell, at `last` at the latest. -/
def Ray.leave (r : Ray) (i : List Int) (size : Nat) (last : Time) : Time :=
  (r.zip i).foldl (fun t x =>
    match x.1.leave x.2 size with
    | some q => t.min q
    | none => t) last

/-- An occupancy grid (Table 16.3). -/
structure Grid where
  bricks : Nat
  masks : Nat
  nb : List Nat
  deriving DecidableEq, Repr

/-- The exact interval of a ray in the grid box: none where it misses it (R377). -/
def Ray.box (r : Ray) (nb : List Nat) (t0 t1 : Time) : Option (Time × Time) :=
  (r.zip nb).foldl (fun (a : Option (Time × Time)) (x : Comp × Nat) =>
    match a with
    | none => none
    | some (t0, t1) =>
      if x.1.d = 0 then
        if 0 ≤ x.1.o ∧ x.1.o < 8 * x.2 * 2 ^ 149 then some (t0, t1) else none
      else
        let p := x.1.cross 0
        let q := x.1.cross (8 * x.2)
        some (t0.max (p.min q), t1.min (p.max q))) (some (t0, t1))

/-- A segment: its times and its brick's majorant. -/
abbrev Seg := Time × Time × Word

/-- The cells of an occupied brick from time t, a run of occupied cells open since `run`: the segments, and where the walk
stops for want of room (R377); the first argument bounds the cells. -/
def walkCells (r : Ray) (b : List Int) (mask : Nat) (maj : Word) (out : Time) (nmax : Nat) :
    Nat → Time → Option Time → List Seg → List Seg × Option Time
  | 0, _, _, segs => (segs, none)
  | f + 1, t, run, segs =>
    let close (a : Time) : List Seg × Option Time :=
      let l := segs ++ [(a, t, maj)]
      (l, if l.length = nmax then some t else none)
    if !t.lt out then
      match run with
      | some a => close a
      | none => (segs, none)
    else
      let c := r.cell t 1
      let nxt := r.leave c 1 out
      let at' (k : Nat) : Nat := (c.getD k 0 - 8 * b.getD k 0).toNat
      if mask / 2 ^ (64 * at' 2 + 8 * at' 1 + at' 0) % 2 = 1 then
        walkCells r b mask maj out nmax f nxt (some (run.getD t)) segs
      else match run with
        | some a =>
          match close a with
          | (l, none) => walkCells r b mask maj out nmax f nxt none l
          | res => res
        | none => walkCells r b mask maj out nmax f nxt none segs

/-- The bricks from time t: the segments, the bricks examined, and where the walk stops before t1 (R377). -/
def walkBricks (rd : Reader) (g : Grid) (r : Ray) (t1 : Time) (nmax : Nat) :
    Nat → Time → Nat → List Seg → Samp (List Seg × Nat × Option Time)
  | 0, _, n, segs => pure (segs, n, none)
  | f + 1, t, n, segs => do
    if !t.lt t1 then pure (segs, n, none)
    else
      let b := r.cell t 8
      let out := r.leave b 8 t1
      let k (i : Nat) : Nat := (b.getD i 0).toNat
      let e ← rd.read (g.bricks + 8 * ((k 2 * g.nb.getD 1 0 + k 1) * g.nb.getD 0 0 + k 0)) 8
      let (segs, stop) ←
        if e % 2 ^ 32 = 2 ^ 32 - 1 then pure (segs, none)
        else do
          let m ← rd.read (g.masks + 64 * (e % 2 ^ 32)) 64
          pure (walkCells r b m (BitVec.ofNat 32 (e / 2 ^ 32)) out nmax 32 t none segs)
      match stop with
      | some q => pure (segs, n + 1, some q)
      | none =>
        if n + 1 = 64 then pure (segs, n + 1, some out)
        else walkBricks rd g r t1 nmax f out (n + 1) segs

/-- The status word v(d): segments, reason, bricks examined (R377). -/
def marchStatus (n reason seen : Nat) : Word := BitVec.ofNat 32 (n + 16 * reason + 256 * seen)

/-- The 26 results of a march without a segment. -/
def marchNone (reason : Nat) : List Word := marchStatus 0 reason 0 :: 0x7F800000 :: List.replicate 24 0

/-- MARCH of one ray block (R376, R377): the 26 result words. `free` gives the results the spec does not state. -/
def marchRay (rd : Reader) (g : Grid) (nmax : Nat) (v : List Word) (free : Nat → Word) : Samp (List Word) :=
  let x (i : Nat) : Word := v.getD i 0
  let t := x 6
  let st := x 7
  let neg := st.msb && st != 0x80000000
  if v.any nanF32 || ([3, 4, 5].all fun i => (x i).setWidth 31 == 0) || neg then pure (marchNone 2)
  else if !finiteF32 st || t == 0xFF800000 then pure (marchNone 1)
  else if !(v.take 6).all finiteF32 then pure ((List.range 26).map free)
  else
    let r : Ray := (List.range 3).map fun i => ⟨units149 (x i), units149 (x (3 + i))⟩
    match r.box g.nb (Time.ofF32 st) (if finiteF32 t then Time.ofF32 t else ⟨2 ^ 600, 1⟩) with
    | none => pure (marchNone 1)
    | some (t0, t1) =>
      if !t0.lt t1 then pure (marchNone 1)
      else do
        let (segs, seen, stop) ← walkBricks rd g r t1 nmax 65 t0 0 []
        let reason := match stop with
          | some q => !q.lt t1
          | none => true
        let next := match stop with
          | some q => if reason then 0x7F800000 else ratioF32 .ru q.n q.d
          | none => 0x7F800000
        let out := segs.flatMap fun a => [ratioF32 .rne a.1.n a.1.d, ratioF32 .rne a.2.1.n a.2.1.d, a.2.2]
        pure (marchStatus segs.length reason.toNat seen :: next :: (out ++ List.replicate (24 - out.length) 0))

/-- Read and check a grid descriptor (Table 16.3). -/
def Reader.grid (rd : Reader) (va : Nat) : Samp Grid := do
  let x ← rd.read va 32
  let bricks := bits x 63 0
  let masks := bits x 127 64
  if 2 ^ 52 ≤ bricks || 2 ^ 52 ≤ masks || bits x 255 164 != 0 || bricks % 8 != 0 || masks % 64 != 0 then sampIllegal
  else pure ⟨bricks, masks, [bits x 139 128 + 1, bits x 151 140 + 1, bits x 163 152 + 1]⟩

-- Interpolation (R379, R381)

/-- Exact weights times values, rounded once to nearest even; weights are in units of 2^-447. -/
def weighted (f : Fmt) (l : List (Nat × FVal)) (free : Nat) : Nat :=
  let inf (s : Bool) : Bool := l.any fun x => x.1 != 0 && x.2 == .inf s
  let zero : Bool := l.any fun x => x.1 == 0 && (x.2 == .inf false || x.2 == .inf true)
  if l.any fun x => x.2.isNan then f.qnan
  else if inf true && inf false then f.qnan
  else if zero then free
  else if inf true then f.signed true (f.inf.getD 0)
  else if inf false then f.inf.getD 0
  else
    let lo := minExp (l.map (·.2))
    let n := (l.map fun x => (x.1 : Int) * exactSum [x.2] lo).sum
    if n = 0 then 0 else (f.result .rne false (n < 0) n.natAbs (lo - 447)).1

/-- The eight corners: for each, 0 or 1 per axis. -/
def corners : List (List Nat) := (List.range 8).map fun i => [i % 2, i / 2 % 2, i / 4]

/-- The weight of a corner, of fractions in units of 2^-149. -/
def cornerWeight (fr : List Nat) (c : List Nat) : Nat :=
  ((fr.zip c).map fun x => if x.2 = 1 then x.1 else 2 ^ 149 - x.1).prod

/-- A voxel field (Table 16.5). -/
structure Field where
  base : Nat
  n : List Nat
  border : Bool
  ch : Nat
  fmt : Nat
  deriving DecidableEq, Repr

/-- The format and size of a field's elements (Table 16.5). -/
def fieldFmt (k : Nat) : Fmt × Nat :=
  match k with
  | 0 => (fmtF32, 4)
  | 1 => (fmtF16, 2)
  | 2 => (fmtBF16, 2)
  | _ => (fmtF64, 8)

/-- Read and check a field descriptor (Table 16.5); NCH must not exceed CH (R378). -/
def Reader.field (rd : Reader) (va nch : Nat) : Samp Field := do
  let x ← rd.read va 32
  let base := bits x 63 0
  let n := [bits x 79 64, bits x 95 80, bits x 111 96]
  let fmt := bits x 131 128
  let ch := bits x 133 132 + 1
  if 2 ^ 52 ≤ base || bits x 127 112 != 0 || n.contains 0 || bits x 255 135 != 0 || 3 < fmt ||
      base % (fieldFmt fmt).2 != 0 || ch < nch then sampIllegal
  else pure ⟨base, n, bits x 134 134 == 1, ch, fmt⟩

/-- Channel c of the voxel at indices: clamped to the edge, or +0 outside (R379). -/
def Field.voxel (f : Field) (rd : Reader) (c : Nat) (ix : List Int) : Samp FVal :=
  let out := (ix.zip f.n).any fun x => x.1 < 0 || x.2 ≤ x.1
  if f.border && out then pure (.fin false 0 0)
  else do
    let k := (ix.zip f.n).map fun x => if x.1 < 0 then 0 else min x.1.toNat (x.2 - 1)
    let (fm, es) := fieldFmt f.fmt
    let i := (k.getD 2 0 * f.n.getD 1 0 + k.getD 1 0) * f.n.getD 0 0 + k.getD 0 0
    let v ← rd.read (f.base + (i * f.ch + c) * es) es
    pure (fm.val v)

/-- One channel of MSMP at a position (R379). -/
def Field.sample (f : Field) (rd : Reader) (near : Bool) (p : List Word) (c : Nat) (free : Nat → Word) : Samp Word :=
  if !p.all finiteF32 then pure 0x7FC00000
  else if near then do
    let v ← f.voxel rd c (p.map fun x => units149 x / 2 ^ 149)
    pure (BitVec.ofNat 32 (weighted fmtF32 [(2 ^ 447, v)] 0))
  else do
    let u := p.map fun x => units149 x - 2 ^ 148
    let i0 := u.map fun x => x / 2 ^ 149
    let fr := u.map fun x => (x % 2 ^ 149).toNat
    let l ← corners.mapM fun k => do
      let v ← f.voxel rd c ((i0.zip k).map fun x => x.1 + x.2)
      pure (cornerWeight fr k, v)
    pure (BitVec.ofNat 32 (weighted fmtF32 l (free c).toNat))

/-- A hash grid (Table 16.6). -/
structure HashGrid where
  base : Nat
  tlog : Nat
  res : List Nat
  deriving DecidableEq, Repr

/-- Read and check a hash-grid descriptor for l levels (Table 16.6). -/
def Reader.hashGrid (rd : Reader) (va l : Nat) : Samp HashGrid := do
  let x ← rd.read va 64
  let base := bits x 63 0
  let tlog := bits x 76 72
  let lv := bits x 67 64 + 1
  let res := (List.range lv).map fun i => x / 2 ^ (128 + 16 * i) % 65536
  if 2 ^ 52 ≤ base || base % 4 != 0 || bits x 71 68 != 0 || bits x 127 77 != 0 || x / 2 ^ 384 != 0 || tlog < 10 ||
      24 < tlog || lv < l || res.contains 0 then sampIllegal
  else pure ⟨base, tlog, res⟩

/-- A coordinate clamped to 0 to 1, in units of 2^-149 (R381). -/
def clamp01 (w : Word) : Nat :=
  if w.msb then 0 else min (2 ^ 149) (if finiteF32 w then (units149 w).toNat else 2 ^ 149)

/-- The entry of a corner of a level with resolution n (R381). -/
def HashGrid.entry (h : HashGrid) (n : Nat) (c : List Nat) : Nat :=
  let x := c.getD 0 0
  let y := c.getD 1 0
  let z := c.getD 2 0
  if (n + 1) ^ 3 ≤ 2 ^ h.tlog then x + y * (n + 1) + z * (n + 1) ^ 2
  else (x ^^^ (y * 0x9E3779B1 % 2 ^ 32) ^^^ (z * 0x85EBCA77 % 2 ^ 32)) % 2 ^ h.tlog

/-- One level of MHASH at a position (R381). -/
def HashGrid.level (h : HashGrid) (rd : Reader) (p : List Word) (l : Nat) (free : Nat → Word) : Samp Word :=
  if p.any nanF32 then pure 0x7E007E00
  else do
    let n := h.res.getD l 1
    let q := p.map fun x => clamp01 x * n
    let c0 := q.map fun x => min (x / 2 ^ 149) (n - 1)
    let fr := (q.zip c0).map fun x => x.1 - x.2 * 2 ^ 149
    let es ← corners.mapM fun k => do
      let e := h.entry n ((c0.zip k).map fun x => x.1 + x.2)
      let v ← rd.read (h.base + 4 * (l * 2 ^ h.tlog + e)) 4
      pure (cornerWeight fr k, v)
    let feat (j : Nat) : Nat :=
      weighted fmtF16 (es.map fun x => (x.1, fmtF16.val (x.2 / 2 ^ (16 * j) % 65536)))
        ((free l).toNat / 2 ^ (16 * j) % 65536)
    pure (BitVec.ofNat 32 (feat 1 * 65536 + feat 0))

-- Instructions

/-- Add to a count that MQRY reads. -/
def State.sampAdd (s : State) (c unit j n : Nat) : State :=
  let k := (128 * c + unit) * 4 + j
  { s with samplerCounts := smSet s.samplerCounts k (smGet s.samplerCounts k + BitVec.ofNat 32 n) }

/-- What the threads of a sampler command come to (R384): results, reads, and the threads a replayable fault leaves. -/
structure Sampled where
  out : List (Nat × List Word)
  reads : List (Nat × Nat)
  left : Mask
  park : Option XFault

/-- Run a command's threads; the first error other than a replayable fault ends it. -/
def sampAll (m : Mask) (f : Nat → Samp (List Word)) : Except SampErr Sampled :=
  (maskThreads m).foldlM (fun (k : Sampled) th =>
    match (f th).run [] with
    | .ok (v, l) => .ok { k with out := k.out ++ [(th, v)], reads := k.reads ++ l }
    | .error (.fault e) =>
      if e.kind.replayable then .ok { k with left := k.left ||| maskBit th, park := some (k.park.getD e) }
      else .error (.fault e)
    | .error e => .error e) ⟨[], [], 0, none⟩

/-- The reads of a command reach their homes and the access logs (R205, R211, R416). -/
def State.sampReads (s : State) (c core slot : Nat) (l : List (Nat × Nat)) : Bool × State :=
  l.eraseDups.foldl (fun (acc : Bool × State) p =>
    let s := match acc.2.locateWalk c p.1 needR with
      | .ok (.mem x) => if x.pa < 2 ^ 40 then acc.2.homeEngine (x.pa / 256) false else acc.2
      | _ => acc.2
    let (w, s) := s.logAccess c core slot .engRd p.1 p.2
    (acc.1 || w, s)) (false, s)

/-- Send a sampler command: `nres` result registers from d, `nop` operand registers from a, `ctl` whether the control word
is legal, `align` the descriptor's alignment, and `f` what a thread computes with the descriptor at an address (R373,
R374, R383). `note` counts for MQRY from the results. -/
def samplerOp (i : Instr) (s : State) (d a : BitVec 7) (b : SB) (form : Bool) (ctl : Word → Bool) (nres nop : Word → Nat)
    (align : Nat) (f : Reader → Nat → Word → List Word → (Nat → Word) → Samp (List Word))
    (note : List Word → Nat × Nat) : Host.Outcome State Fault Refusal :=
  engineLate i.opnds s fun r t s =>
    let desc := (pair (r.sq b 0) (r.sq b 1)).toNat
    let w := r.sq b 2
    let cw := r.sq b 3
    let nr := nres cw
    let no := nop cw
    let ops : List Opnd := [⟨.v, d.toNat, nr, false, true⟩, ⟨.v, a.toNat, no, true, false⟩]
    if r.t.p1.isSome || !form || !ctl cw then .early .illegal
    else if 2 ^ 52 ≤ desc then .plain t s [.page]
    else if desc % align != 0 then .plain t s [.align]
    else if 128 < d.toNat + nr || 128 < a.toNat + no || beyondN r.t ops then .early .regovf
    else if r.ctrFull .loads || scoreboard r.t r.i ops then .stay
    else
      let core := r.key / 32
      let unit := core / 8
      let rd : Reader := ⟨s, t.ctx, core, w⟩
      match sampAll r.todo fun th =>
          f rd desc cw ((List.range no).map fun j => r.t.vreg (a.toNat + j) th)
            fun k => Config.samplerOpen s.ticks th k with
      | .error (.fault e) => .fault t s e false r.todo
      | .error (.cause c) => .trap t (if c = .poison then s.sampAdd t.ctx unit 2 1 else s) [c]
      | .ok k =>
        let done (t : Tray) (s : State) : Res :=
          match k.park with
          | some e => .park t s e false k.left (some .loads)
          | none => .ok t s
        if k.out.isEmpty && k.park.isSome then done t s
        else
          let (hit, s) := s.sampReads t.ctx core (r.key % 32) k.reads
          let n := (k.out.map fun x => note x.2)
          let s := (s.sampAdd t.ctx unit 0 (n.map (·.1)).sum).sampAdd t.ctx unit 1 (n.map (·.2)).sum
          let data := k.out.flatMap fun x =>
            (List.range nr).map fun j => RegWrite.v (vkey (r.t.vwin + d.toNat + j) x.1) (x.2.getD j 0)
          let (t, s) := r.send { t with watch := t.watch || hit } s 7 unit w (some .loads) []
            (List.range' (r.t.vwin + d.toNat) nr) (.performed data)
          done t s

/-- What MQRY counts of a march: whether the ray is finished, and bricks examined. -/
def marchNote (v : List Word) : Nat × Nat :=
  let x := (v.headD 0).toNat
  (if x / 16 % 4 = 0 then 0 else 1, x / 256 % 128)

/-- MARCH (R377). -/
def execMarch (d a : BitVec 7) (b : SB) (s : State) : Host.Outcome State Fault Refusal :=
  samplerOp (.march d a b) s d a b (a.toNat % 8 == 0) (fun cw => 1 ≤ cw.toNat && cw.toNat ≤ 8) (fun _ => 26)
    (fun _ => 8) 32 (fun rd va cw v free => do
      let g ← rd.grid va
      marchRay rd g cw.toNat v free) marchNote

/-- MSMP (R379). -/
def execMsmp (d a : BitVec 7) (b : SB) (s : State) : Host.Outcome State Fault Refusal :=
  samplerOp (.msmp d a b) s d a b true (fun cw => cw.toNat < 8) (fun cw => cw.toNat % 4 + 1) (fun _ => 3) 32
    (fun rd va cw v free => do
      let f ← rd.field va (cw.toNat % 4 + 1)
      (List.range (cw.toNat % 4 + 1)).mapM fun c => f.sample rd (4 ≤ cw.toNat) v c free) fun _ => (0, 0)

/-- MHASH (R381). -/
def execMhash (d a : BitVec 7) (b : SB) (s : State) : Host.Outcome State Fault Refusal :=
  samplerOp (.mhash d a b) s d a b true (fun cw => 1 ≤ cw.toNat && cw.toNat ≤ 16) (fun cw => cw.toNat) (fun _ => 3) 64
    (fun rd va cw v free => do
      let h ← rd.hashGrid va cw.toNat
      (List.range cw.toNat).mapM fun l => h.level rd v l free) fun _ => (0, 0)

/-- The commands of a context that a sampler holds (R382). -/
def State.samplerHeld (s : State) (c unit : Nat) : Nat :=
  (s.ops.filter fun o => o.tag.ctx == c && o.tag.eng == 7 && o.unit == unit && o.phase != 0 && match o.body with
    | .performed _ => true
    | _ => false).length

/-- MQRY (R382). -/
def execMqry (d : BitVec 7) (s : State) : Host.Outcome State Fault Refusal :=
  engine (Instr.mqry d).opnds s fun r t s =>
    if r.t.p1.isSome || d.toNat % 4 != 0 then .early .illegal
    else if r.t.ctrFull .loads then .stay
    else
      let (t, s) := r.ask t s 7 (r.key / 32 / 8) (List.range' d.toNat 4) [] (.mqry d.toNat)
      .ok t s

/-- MQRY as performed (R382). -/
def State.mqryGo (s : State) (o : Op) (d : Nat) : State :=
  let n (j : Nat) : Word := smGet s.samplerCounts ((128 * o.tag.ctx + o.unit) * 4 + j)
  s.opAnswer o (quadData d [BitVec.ofNat 32 (s.samplerHeld o.tag.ctx o.unit), n 0, n 1, n 2])

/-- SAMPLER_OP_COMPLETE (R371, R383): the results of an accepted command land. -/
def execSamplerOpComplete (op : Nat) (s : State) : Host.Outcome State Fault Refusal :=
  .next (match s.op? op with
    | none => s
    | some o =>
      match o.body with
      | .performed data => if o.phase = 0 ∨ o.tag.eng ≠ 7 then s else s.opDone o data none false
      | _ => s)

end Sys2Proof.Machine
end

