-- ==== Sys2Proof/Machine/Copy.lean ====
section
/-!
DEFINITION. The copy engine: major 0x2C, MIGR, rings, and its events (R237–R239, R256, R258–R274).
-/

namespace Sys2Proof.Machine

-- Rings (R264–R271)

/-- A ring header (Table 11.2). -/
structure Ring where
  base : Nat
  slotsz : Nat
  st : Nat
  nslot : Nat
  w : Word
  f : Word
  rp : Word
  errseq : Word
  errcnt : Word
  deriving DecidableEq, Repr

/-- The ring at a header offset, or none where the header raises RING (R265). -/
def Cluster.ring (k : Cluster) (h : Nat) : Option Ring :=
  if h % 64 != 0 || k.size < h + 64 then none
  else
    let x := k.rd (h + 8) 4
    let word (off : Nat) : Word := BitVec.ofNat 32 (k.rd (h + off) 4)
    if x / 2 ^ 30 = 0 ∨ x / 2 ^ 30 = 3 ∨ x % 65536 = 0 then none
    else some ⟨k.rd h 4, k.rd (h + 4) 4, x / 2 ^ 30, x % 65536, word 16, word 20, word 24, word 28, word 32⟩

/-- Write the fields of a ring that its instructions and copies change. -/
def Cluster.putRing (k : Cluster) (h : Nat) (r : Ring) : Cluster :=
  (((((k.wr (h + 8) 4 (r.st * 2 ^ 30 + r.nslot)).wr (h + 16) 4 r.w.toNat).wr (h + 20) 4 r.f.toNat).wr (h + 24) 4
    r.rp.toNat).wr (h + 28) 4 r.errseq.toNat).wr (h + 32) 4 r.errcnt.toNat

/-- The offset of slot k (R264). -/
def Ring.slot (r : Ring) (k : Word) : Nat := r.base + r.slotsz * (k.toNat % r.nslot)

/-- One sequence number lies above another, modulo 2^32. -/
def seqAbove (a b : Word) : Bool := 0 < (a - b).toNat && (a - b).toNat < 2 ^ 31

/-- FPTR passes filled slots in claim order, and stops after an errored one (R268); n bounds the slots passed. -/
def Ring.advance (r : Ring) (h : Nat) : Nat → List (Nat × Word) → Ring × List (Nat × Word)
  | 0, l => (r, l)
  | n + 1, l =>
    if l.contains (h, r.f) && !(r.st == 2 && r.f == r.errseq + 1) then
      Ring.advance { r with f := r.f + 1 } h n (l.filter fun x => x != (h, r.f))
    else (r, l)

/-- A copy that claimed slot `seq` of a ring has completed (R268). -/
def Cluster.fillSlot (k : Cluster) (h : Nat) (seq : Word) (err : Bool) : Cluster :=
  match k.ring h with
  | none => k
  | some r =>
    let r := if err then { r with st := 2, errcnt := r.errcnt + 1,
                                  errseq := if r.st = 2 ∧ !seqAbove r.errseq seq then r.errseq else seq } else r
    let l := (h, seq) :: k.filled
    let (r, l) := r.advance h l.length l
    { k.putRing h r with filled := l }

/-- The offset of the ring header that a B code names. -/
def Src.hdr (r : Src) (b : SB) : Nat := (r.sb b).toNat

-- Copies

/-- The first check of a descriptor that fails (R259): ILLEGAL is found at issue, the others are precise at the word. -/
def copyCauses (g off len region : Nat) (spad : Bool) : List Cause :=
  if 2 ^ 52 ≤ g then [.page]
  else if g % 16 != 0 || (spad && off % 16 != 0) then [.align]
  else if spad && region < off + len then [.scratch]
  else []

/-- A length a descriptor may hold (R259). -/
def copyLenOk (len : Nat) : Bool := len % 16 == 0 && 16 ≤ len && len ≤ 16777216

/-- The fields of a copy descriptor: global address, offset, length (R259). -/
def Src.descriptor (r : Src) (a : BitVec 7) : Nat × Nat × Nat :=
  ((r.s2 a).toNat, (r.sn a 2).toNat, (r.sn a 3).toNat)

/-- Send a copy. -/
def Src.sendCopy (r : Src) (t : Tray) (s : State) (unit : Nat) (k : OpBody) : Res :=
  let (t, s) := r.send t s 1 unit noVer (some .copies) [] [] k
  .ok t s

/-- CPY (R260, R267): without a ring to offset P, with a ring into the slot it claims. -/
def execCpy (a : BitVec 7) (b : SB) (s : State) : Host.Outcome State Fault Refusal :=
  engine (Instr.cpy a b).opnds s fun r t s =>
    let (g, off, len) := r.descriptor a
    let cid := s.clusterIdOf t
    let k := s.clusterFor t
    if !copyLenOk len then .early .illegal
    else match s.copyUnit t.ctx (r.key / 32) with
      | none => .early .cap
      | some u =>
        if b = .zero then
          match copyCauses g off len k.size true with
          | [] => if r.t.ctrFull .copies then .stay
                  else r.sendCopy t s u (.copy ⟨true, g, cid, off, len, 0, none, none⟩)
          | cs => .trap t s cs
        else
          match copyCauses g off len k.size false with
          | [] =>
            match k.ring (r.hdr b) with
            | none => .trap t s [.ring]
            | some q =>
              if q.st = 2 ∨ q.slotsz < len then .trap t s [.ring]
              else if r.t.ctrFull .copies || (q.w - q.rp).toNat == q.nslot then .stay
              else if k.size < q.slot q.w + len then .trap t s [.scratch]
              else
                let s := s.onCluster cid fun k => k.putRing (r.hdr b) { q with w := q.w + 1 }
                r.sendCopy t s u (.copy ⟨true, g, cid, q.slot q.w, len, 0, some (r.hdr b, q.w), none⟩)
          | cs => .trap t s cs

/-- CPYS (R260). -/
def execCpys (a : BitVec 7) (s : State) : Host.Outcome State Fault Refusal :=
  engine (Instr.cpys a).opnds s fun r t s =>
    let (g, off, len) := r.descriptor a
    if !copyLenOk len then .early .illegal
    else match s.copyUnit t.ctx (r.key / 32) with
      | none => .early .cap
      | some u =>
        match copyCauses g off len (s.clusterFor t).size true with
        | [] => if r.t.ctrFull .copies then .stay
                else r.sendCopy t s u (.copy ⟨false, g, s.clusterIdOf t, off, len, 0, none, none⟩)
        | cs => .trap t s cs

/-- CPYM (R262): n − 1 in [3:0] of the group word, the rank in [7:4], the tag in [31:8]. -/
def execCpym (a : BitVec 7) (b : SB) (s : State) : Host.Outcome State Fault Refusal :=
  engine (Instr.cpym a b).opnds s fun r t s =>
    let (g, off, len) := r.descriptor a
    let w := (r.sb b).toNat
    let n := w % 16 + 1
    let rank := w / 16 % 16
    if !copyLenOk len || n ≤ rank || len % (16 * n) != 0 then .early .illegal
    else match s.copyUnit t.ctx (r.key / 32) with
      | none => .early .cap
      | some u =>
        match copyCauses g off len (s.clusterFor t).size true with
        | [] => if r.t.ctrFull .copies then .stay
                else r.sendCopy t s u
                  (.member ⟨g, s.clusterIdOf t, off, len, t.launchId, w / 256, n, rank, none, 0, false, false⟩)
        | cs => .trap t s cs

/-- Whether a copy that claimed a slot of a ring at a header has not completed (R266). -/
def State.claimsOut (s : State) (cluster h : Nat) : Bool :=
  s.ops.any fun o =>
    match o.body with
    | .copy k => k.cluster == cluster && (k.ring.map (·.1)) == some h
    | _ => false

/-- The status of RINIT (Table 11.3). -/
def State.rinitStatus (s : State) (cluster : Nat) (k : Cluster) (h base slotsz nslot : Nat) : Nat :=
  let last := base + slotsz * nslot
  if h % 64 != 0 || k.size < h + 64 then 1
  else if slotsz % 16 != 0 || slotsz < 16 || 16777216 < slotsz || base % 16 != 0 then 2
  else if nslot = 0 ∨ 65535 < nslot then 3
  else if k.size < last ∨ (base < h + 64 ∧ h < last) then 4
  else if s.claimsOut cluster h then 5
  else 0

/-- A ring instruction's common form: CAP, then its effect on the header, which it has where it issues, since RING is
precise at it and trays see claims and releases in program order (R265, R267, R271); a command brings its result, counted
in loads (R258). -/
def ringOp (i : Instr) (s : State) (sdst : List Nat) (f : Src → Tray → State → Except Cause (State × List Word)) :
    Host.Outcome State Fault Refusal :=
  engine i.opnds s fun r t s =>
    match s.copyUnit t.ctx (r.key / 32) with
    | none => .early .cap
    | some u =>
      if r.t.ctrFull .loads then .stay
      else match f r t s with
        | .error c => .trap t s [c]
        | .ok (s, vs) =>
          let (t, s) := r.ask t s 1 u sdst [] (.done ((sdst.zip vs).map fun x => .s x.1 x.2))
          .ok t s

/-- RINIT (R266). -/
def execRinit (d a : BitVec 7) (s : State) : Host.Outcome State Fault Refusal :=
  ringOp (.rinit d a) s [d.toNat] fun r t s =>
    let w (j : Nat) : Nat := (r.sn a j).toNat
    let cid := s.clusterIdOf t
    let st := s.rinitStatus cid (s.clusterFor t) (w 0) (w 1) (w 2) (w 3)
    if st = 0 then
      .ok (s.onCluster cid fun k =>
        { k.wr (w 0) 64 (w 1 + w 2 * 2 ^ 32 + (2 ^ 30 + w 3) * 2 ^ 64) with
          filled := k.filled.filter fun x => x.1 != w 0 }, [0])
    else .ok (s, [BitVec.ofNat 32 st])

/-- RREL (R270). -/
def execRrel (d : BitVec 7) (b : SB) (s : State) : Host.Outcome State Fault Refusal :=
  ringOp (.rrel d b) s [d.toNat] fun r t s =>
    match (s.clusterFor t).ring (r.hdr b) with
    | none => .error .ring
    | some q =>
      if q.rp = q.f then .error .ring
      else .ok (s.onCluster (s.clusterIdOf t) fun k => k.putRing (r.hdr b) { q with rp := q.rp + 1 }, [q.rp + 1])

/-- RQRY (R270): WPTR, FPTR, RPTR and STATE. -/
def execRqry (d : BitVec 7) (b : SB) (s : State) : Host.Outcome State Fault Refusal :=
  ringOp (.rqry d b) s (List.range' d.toNat 4) fun r t s =>
    match (s.clusterFor t).ring (r.hdr b) with
    | none => .error .ring
    | some q => .ok (s, [q.w, q.f, q.rp, BitVec.ofNat 32 q.st])

/-- What a wait on a ring finds (R269): RING, nothing filled, or the offset of slot RPTR and whether it is the errored
one. -/
inductive RingWait where
  | bad
  | empty
  | ready (off : Nat) (err : Bool)
  deriving DecidableEq, Repr

/-- A ring as RWAIT sees it (R265, R269). -/
def Cluster.ringWait (k : Cluster) (h : Nat) : RingWait :=
  match k.ring h with
  | none => .bad
  | some q =>
    if q.st = 2 ∧ seqAbove q.rp q.errseq then .bad
    else if (q.f - q.rp).toNat = 0 then .empty
    else .ready (q.slot q.rp) (q.st == 2 && q.rp == q.errseq)

/-- RWAIT (R269): the stall form waits at the word, the yield form leaves the issue pool until its continuation. -/
def execRwait (d a : BitVec 7) (b : SB) (s : State) : Host.Outcome State Fault Refusal :=
  engine (Instr.rwait d a b).opnds s fun r t s =>
    let cont := r.s2 a
    if a.toNat != 0 && r.t.p1.isSome then .early .illegal
    else match s.copyUnit t.ctx (r.key / 32) with
      | none => .early .cap
      | some _ =>
        let k := s.clusterFor t
        let ring := k.ringWait (r.hdr b)
        if ring = .bad then .trap t s [.ring]
        else if a.toNat != 0 && (2 ^ 46 ≤ cont.toNat || !s.targetOk (r.key / 32) t.ctx (cont.setWidth 46)) then .trap t s [.badtarget]
        else
          let t1 := if a.toNat = 0 then t else t.setPc r.i (cont.setWidth 46)
          match ring with
          | .bad => .trap t s [.ring]
          | .empty =>
            if a.toNat = 0 then .stay
            else .ok { t.setPc r.i r.pc with
              wait := .yield 1 (r.sb b) 0 (cont.setWidth 46) (some d.toNat) } s
          | .ready off err =>
            let t1 := t1.setSreg r.i d.toNat (BitVec.ofNat 32 off)
            let s := s.acquire (r.key / 32) t1 2
            if err then .later t1 s [.copyerr] none else .ok t1 s

-- Performing a copy (R260, R272)

/-- A byte range of a scratchpad region that a copy may touch. -/
def State.spadRead (s : State) (cluster off n : Nat) : List EByte :=
  match s.clusters.get? cluster with
  | none => clean (List.replicate n 0)
  | some k => k.read off n

/-- One unit of a copy: up to 256 bytes at `done` (R260). -/
def State.copyUnitStep (s : State) (o : Op) (k : CopyOp) (n : Nat) : State × Option XFault :=
  if k.toSpad then
    match s.opRd o (k.g + k.done) n with
    | .error e => (s, some e)
    | .ok (s, d) => (s.onCluster k.cluster fun c => c.write (k.off + k.done) d, none)
  else s.opWr o (k.g + k.done) (s.spadRead k.cluster (k.off + k.done) n)

/-- Units of a copy in ascending order until it ends or one faults: what is done, and the fault; `f` bounds the units. -/
def State.copyRun (s : State) (o : Op) : Nat → CopyOp → State × CopyOp × Option XFault
  | 0, k => (s, k, none)
  | f + 1, k =>
    if k.len ≤ k.done then (s, k, none)
    else
      let n := min 256 (k.len - k.done)
      match s.copyUnitStep o k n with
      | (s, some e) => (s, k, some e)
      | (s, none) => State.copyRun s o f { k with done := k.done + n }

/-- A declared input has landed, or failed (R69). -/
def State.inputDone (s : State) (batch : Nat) (err : Bool) : State :=
  { s with batches := s.batches.upd batch fun b => { b with inputs := b.inputs - 1, inErr := b.inErr || err } }

/-- A copy has completed, with or without error (R268, R272). -/
def State.copyFinish (s : State) (o : Op) (k : CopyOp) (err : Bool) : State :=
  let s := match k.ring with
    | some (h, seq) => s.onCluster k.cluster fun c => c.fillSlot h seq err
    | none => s
  match k.input with
  | some b => (s.dropOp o.id).inputDone b err
  | none => s.opDone o [] (if err then some (.copies, .copyerr) else none) (!k.toSpad)

/-- A copy goes on until it completes or parks. -/
def State.copyGo (s : State) (o : Op) (k : CopyOp) : State :=
  let (s, k, e) := s.copyRun o (k.len / 256 + 1) k
  match e with
  | none => s.copyFinish o k false
  | some f =>
    let s := s.onOp o.id fun o => { o with body := .copy k }
    match s.opFault o f (!k.toSpad) 16 with
    | (true, s) => s
    | (false, s) => s.copyFinish o k true

-- Shared fetch (R262, R263)

/-- The members of the group of a CPYM that have been accepted: of its own, once that has assembled, and otherwise of the one
that still assembles under its tag. -/
def State.members (s : State) (ctx : Nat) (m : MemberOp) : List (Op × MemberOp) :=
  s.ops.filterMap fun o =>
    match o.body with
    | .member k =>
      if o.tag.ctx == ctx && o.phase == 2 && k.launch == m.launch && k.tag == m.tag && k.n == m.n &&
          k.group == m.group then some (o, k) else none
    | _ => none

/-- The members that wait for their group in the table of a copy engine (R262). -/
def State.membersHeld (s : State) (unit : Nat) : Nat :=
  (s.ops.filter fun o => o.unit == unit && o.phase == 2 &&
    match o.body with
    | .member k => k.group.isNone
    | _ => false).length

/-- A member completes (R262, R263). -/
def State.memberDone (s : State) (o : Op) (err : Bool) : State :=
  s.opDone o [] (if err then some (.copies, .copyerr) else none) false

/-- A CPYM is accepted: it joins its group's table, or completes with error, and a whole group assembles (R262). -/
def State.memberAccept (s : State) (o : Op) (m : MemberOp) : State :=
  let g := s.members o.tag.ctx m
  if 256 ≤ s.membersHeld o.unit || g.any fun x => x.2.rank == m.rank then s.memberDone o true
  else
    let zero := if m.rank = 0 then some m else (g.find? fun x => x.2.rank == 0).map (·.2)
    let agrees (k : MemberOp) : Bool :=
      match zero with
      | some z => k.g == z.g && k.len == z.len
      | none => true
    let out := g.filter fun x => !agrees x.2
    let s := out.foldl (fun s x => s.memberDone x.1 true) s
    if !agrees m then s.memberDone o true
    else
      let s := s.onOp o.id fun o => { o with phase := 2 }
      let g := s.members o.tag.ctx m
      if g.length = m.n then
        g.foldl (fun s x => s.onOp x.1.id fun o => { o with body := .member { x.2 with group := some o.id } }) s
      else s

/-- One unit of a member's part, written into every member's region (R263). -/
def State.partRun (s : State) (o : Op) (g : List (Op × MemberOp)) : Nat → MemberOp → State × MemberOp × Option XFault
  | 0, m => (s, m, none)
  | f + 1, m =>
    let part := m.len / m.n
    if part ≤ m.done then (s, m, none)
    else
      let n := min 256 (part - m.done)
      let at' := m.rank * part + m.done
      match s.opRd o (m.g + at') n with
      | .error e => (s, m, some e)
      | .ok (s, d) =>
        let s := g.foldl (fun s x => s.onCluster x.2.cluster fun c => c.write (x.2.off + at') d) s
        State.partRun s o g f { m with done := m.done + n }

/-- The group completes once every part has landed or failed (R263). -/
def State.groupSettle (s : State) (ctx : Nat) (m : MemberOp) : State :=
  let g := s.members ctx m
  if g.all fun x => x.2.fin then
    let err := g.any fun x => x.2.err
    g.foldl (fun s x => s.memberDone x.1 err) s
  else s

/-- A member of an assembled group fetches its part (R263). -/
def State.memberGo (s : State) (o : Op) (m : MemberOp) : State :=
  if m.group.isNone || m.fin then s
  else
    let (s, m, e) := s.partRun o (s.members o.tag.ctx m) (m.len / 256 + 1) m
    match e with
    | none =>
      let m := { m with fin := true }
      (s.onOp o.id fun o => { o with body := .member m }).groupSettle o.tag.ctx m
    | some f =>
      let s := s.onOp o.id fun o => { o with body := .member m }
      match s.opFault o f false 16 with
      | (true, s) => s
      | (false, s) =>
        let m := { m with fin := true, err := true }
        (s.onOp o.id fun o => { o with body := .member m }).groupSettle o.tag.ctx m

/-- COPY_COMPLETE (R260, R263, R272): an accepted copy moves its bytes; a replayable fault parks it. -/
def execCopyComplete (op : Nat) (s : State) : Host.Outcome State Fault Refusal :=
  .next (match s.op? op with
    | none => s
    | some o =>
      if o.phase = 0 ∨ o.park.isSome then s
      else match o.body with
        | .copy k => s.copyGo o k
        | .member m => s.memberGo o m
        | _ => s)

/-- CPYM_GROUP_TIMEOUT (R262): a group that has not assembled 1 ms after its first member completes with error. -/
def execCpymGroupTimeout (op : Nat) (s : State) : Host.Outcome State Fault Refusal :=
  .next (match s.op? op with
    | none => s
    | some o =>
      match o.body with
      | .member m =>
        if o.phase != 2 || m.group.isSome then s
        else (s.members o.tag.ctx m).foldl (fun s x => s.memberDone x.1 true) s
      | _ => s)

-- MIGR (R237–R239)

/-- Whether a live pinned slice is served by the current frame of a page (R256). -/
def State.pinnedCurrent (s : State) (c : Nat) (p : OwnPage) : Bool :=
  (s.ctx c).slices.any fun e =>
    0 < e.2.pins && e.2.start < p.va + p.size && p.va < e.2.start + 65536 * e.2.len && p.stamp ≤ e.2.ver.toNat

/-- Whether a SNAP that has begun and not reached its freeze point holds a page in its range (R256). -/
def State.snapHolds (s : State) (c : Nat) (p : OwnPage) : Bool :=
  s.ops.any fun o => o.tag.ctx == c &&
    match o.body with
    | .snap _ (.snap start len _ _ _ true) => start < p.va + p.size && p.va < start + 65536 * len
    | _ => false

/-- Whether every part of a frame can be accessed as needed, in local memory if it is written (R238). -/
def State.frameReach (s : State) (c frame size : Nat) (need : Need) : Bool :=
  (List.range (size / 65536)).all fun i =>
    match s.framePa c (frame + 65536 * i) need with
    | some pa => !need.w || s.localPa pa
    | none => false

/-- Whether the destination frame of a migration can be written (Table 9.8, 0x06). -/
def State.migrDstOk (s : State) (c dst size : Nat) : Bool :=
  dst % size == 0 && s.frameReach c dst size needW && s.frameOk c dst size

/-- The checks of MIGR before any state changes (Table 9.8): the status, the leaf and the page size. -/
def State.migrCheck (s : State) (c va dst : Nat) : Nat × Nat × Nat :=
  if 2 ^ 52 ≤ va || (s.ctx c).inSheet va then (4, 0, 0)
  else match s.ownLeaf c va with
    | .error _ => (4, 0, 0)
    | .ok (pl, size, l) =>
      if l % 2 = 0 then (4, 0, 0)
      else if l / 2 ^ 7 % 2 = 1 then (3, pl, size)
      else if size = 2 ^ 32 then (5, pl, size)
      else if !s.migrDstOk c dst size then (6, pl, size)
      else
        let p : OwnPage := ⟨va - va % size, pl, size, l⟩
        let busy := match s.chainRd c p.chain with
          | .ok r => r.busy
          | .error _ => true
        if p.vers && (busy || s.snapHolds c p || s.pinnedCurrent c p) then (7, pl, size) else (0, pl, size)

/-- Write back and drop every cached line of n bytes of memory (R238). -/
def State.flushRange (s : State) (pa n : Nat) : State :=
  let s := ((s.lines.filter fun e => pa / 256 ≤ e.1 && e.1 < (pa + n) / 256).map (·.1)).foldl (fun s l => s.mergeLine l) s
  { s with lines := s.lines.filter fun e => !(pa / 256 ≤ e.1 && e.1 < (pa + n) / 256) }

/-- Flush a frame of a context's FRAME space. -/
def State.flushFrame (s : State) (c frame size : Nat) : State :=
  (List.range (size / 65536)).foldl (fun s i =>
    match s.framePa c (frame + 65536 * i) noNeed with
    | some a => if a < 2 ^ 40 then s.flushRange a 65536 else s
    | none => s) s

/-- MIGR (R237): the command goes to a copy engine, which performs it. -/
def execMigr (d a : BitVec 7) (b : SB) (s : State) : Host.Outcome State Fault Refusal :=
  engine (Instr.migr d a b).opnds s fun r t s =>
    match s.copyUnit t.ctx (r.key / 32) with
    | none => .early .cap
    | some u =>
      if r.t.ctrFull .copies then .stay
      else
        let (t, s) := r.send t s 1 u noVer (some .copies) [d.toNat, d.toNat + 1] []
          (.migr ⟨(r.s2 a).toNat, (r.sbz64 b).toNat, 0, 0, d.toNat⟩)
        .ok t s

/-- Whether any byte of a frame is poisoned. -/
def State.framePoison (s : State) (c frame size : Nat) : Bool :=
  (List.range (size / 65536)).any fun i =>
    match s.framePa c (frame + 65536 * i) noNeed with
    | some q =>
      if q < 2 ^ 40 then s.poisonedIn q 65536
      else (List.range 1024).any fun j => (s.remoteBytes (q + 64 * j) 64).any (·.2)
    | none => false

/-- The result of a migration in its pair (R238). -/
def migrResult (d dst st : Nat) : List RegWrite :=
  let x := BitVec.ofNat 64 (dst / 256 * 256 + (if st = 0 then 0 else dst % 256 ||| st))
  [.s d (lo32 x), .s (d + 1) (hi32 x)]

/-- A migration ends without the switch: the destination is scrubbed and MIG cleared (R238). -/
def State.migrFail (s : State) (o : Op) (k : MigrOp) (st : Nat) : State :=
  let s := (s.zeroFrame o.tag.ctx k.dst k.size).setLeafMig o.tag.ctx k.leaf false
  (s.opDone o (migrResult k.d k.dst st) none false).endParks k.leaf [.migrating]

/-- A migration begins (R238): a check fails, or MIG is set, the page's translations are discarded and its old frame is
written back. -/
def State.migrBegin (s : State) (o : Op) (k : MigrOp) : State :=
  let c := o.tag.ctx
  let (st, pl, size) := s.migrCheck c k.va k.dst
  if st != 0 then s.opDone o (migrResult k.d k.dst st) none false
  else
    let s := ((s.setLeafMig c pl true).invalidate c (k.va - k.va % size) size).flushFrame c
      (bits (s.tblRd pl 16) 55 20 * 65536) size
    s.onOp o.id fun o => { o with phase := 2, body := .migr { k with leaf := pl, size := size } }

/-- The page of a migration is copied, and the leaf switches to the destination in one write (R238). A frame that came from
the context's pool is in its chains no more (R393). -/
def State.migrSwitch (s : State) (o : Op) (k : MigrOp) : State :=
  let c := o.tag.ctx
  let old := bits (s.tblRd k.leaf 16) 55 20 * 65536
  if !s.frameReach c old k.size needR || !s.frameReach c k.dst k.size needW then s.migrFail o k 2
  else if s.framePoison c old k.size then s.migrFail o k 1
  else
    let s := s.copyFrame c old k.dst k.size
    let s := (s.setLeafFrame c k.leaf k.dst).setLeafMig c k.leaf false
    let s := s.onCtx c fun t => { t with frames := t.frames.del old }
    (s.opDone o (migrResult k.d old 0) none true).endParks k.leaf [.migrating]

/-- MIGR_COMPLETE (R238, R239): a migration begins, or, when no access by the old translation is left, ends. -/
def execMigrComplete (op : Nat) (s : State) : Host.Outcome State Fault Refusal :=
  .next (match s.op? op with
    | none => s
    | some o =>
      match o.body with
      | .migr k =>
        if o.phase = 0 then s
        else if o.phase = 1 then s.migrBegin o k
        else if s.exportsOut o.tag.ctx then s
        else s.migrSwitch o k
      | _ => s)

end Sys2Proof.Machine
end

