-- ==== Sys2Proof/Machine/Snapshot.lean ====
section
/-!
DEFINITION. The snapshot engines: major 0x2E, the completion of its commands, the switch of a copy-on-write and the
donation of frames (R245–R254).
-/

namespace Sys2Proof.Machine

/-- The result of a failed command (Table 10.5). -/
def snapFail (code : Nat) : Word := BitVec.ofNat 32 (0xFFFF0000 + code)

/-- Code 0x01 for a range: start, length in 64 KiB units (Table 10.5). -/
def snapRangeBad (start len : Nat) : Bool := start % 65536 != 0 || len == 0 || 2 ^ 52 < start + 65536 * len

/-- The versioned pages of a range that SNAP freezes (R251). -/
def State.frozenBy (s : State) (c start len : Nat) : List OwnPage :=
  (s.pagesIn c start len).filter fun p => p.vers && p.size ≤ 2 ^ 21

/-- The slice descriptors of a context (R248). -/
def Ctx.sliceCap (t : Ctx) : Nat := 2 ^ (t.sllog.toNat + 4)

/-- The index of a new slice: the lowest free one, if the context's table and the package have room (R248). -/
def State.sliceFree (s : State) (c : Nat) : Option Nat :=
  let t := s.ctx c
  if 8 < t.sllog.toNat ∨ 65536 ≤ (s.ctxs.map fun e => e.2.slices.length).sum then none
  else t.slices.firstFree t.sliceCap

/-- The checks of SNAP (Table 10.5), 0 where all pass. -/
def State.snapCheck (s : State) (c start len : Nat) (scope : Word) : Nat :=
  if snapRangeBad start len || 8 ≤ scope.toNat then 1
  else if 6 ≤ scope.toNat || !scopeLegal s c scope.toNat then 2
  else if (s.frozenBy c start len).any fun p => !(s.chainRd c p.chain).toBool then 3
  else if (s.sliceFree c).isNone then 4
  else 0

/-- Whether a SNAP or VSTEP of a context is outstanding: the next one waits for its point (R250). -/
def State.snapBusy (s : State) (c : Nat) : Bool :=
  s.ops.any fun o => o.tag.ctx == c &&
    match o.body with
    | .snap _ (.snap ..) => true
    | .snap _ (.step _) => true
    | _ => false

/-- Send a snapshot command to the issuing die's engine (R250): counted in copies, its results pending. -/
def Src.sendSnap (r : Src) (t : Tray) (s : State) (d : BitVec 7) (n : Nat) (ver : Word) (k : SnapOp) : Tray × State :=
  r.send t s 3 (r.key / 8192) ver (some .copies) (List.range' d.toNat n) [] (.snap d.toNat k)

/-- The common form of major 0x2E: illegal forms, then a command once the copies counter has room. -/
def snapOp (i : Instr) (s : State) (legal : Bool) (d : BitVec 7) (n : Nat) (f : Src → Word × SnapOp) :
    Host.Outcome State Fault Refusal :=
  engine i.opnds s fun r t s =>
    if !legal then .early .illegal
    else if r.t.ctrFull .copies then .stay
    else
      let (t, s) := r.sendSnap t s d n (f r).1 (f r).2
      .ok t s

/-- SNAP (R251). Its point is taken at issue: it waits for every earlier SNAP and VSTEP of the context, so that STEP is
then what it is compared with (R250). Its checks are made when it is performed; where one fails now and none does then, the
version below STEP is found there. -/
def execSnap (d a : BitVec 7) (b : SB) (s : State) : Host.Outcome State Fault Refusal :=
  engine (Instr.snap d a b).opnds s fun r t s =>
    let start := (r.s2 a).toNat
    let len := (r.sn a 2).toNat
    let scope := r.sn a 3
    let v := r.sb b
    if a.toNat % 4 != 0 then .early .illegal
    else if r.t.ctrFull .copies || s.snapBusy t.ctx then .stay
    else
      let below := v.ult (s.ctx t.ctx).step || v == 0xFFFFFFFF
      if s.snapCheck t.ctx start len scope = 0 ∧ below then .trap t s [.illegal]
      else
        let (t, s) := r.sendSnap t s d 1 v (.snap start len scope v below false)
        .ok t s

/-- SACQ (R252). -/
def execSacq (d : BitVec 7) (b : SB) (s : State) : Host.Outcome State Fault Refusal :=
  snapOp (.sacq d b) s true d 1 fun r => ((r.sb b).setWidth 16 |>.setWidth 32, .refs (r.sb b) true)

/-- SREL (R252). -/
def execSrel (d : BitVec 7) (b : SB) (s : State) : Host.Outcome State Fault Refusal :=
  snapOp (.srel d b) s true d 1 fun r => ((r.sb b).setWidth 16 |>.setWidth 32, .refs (r.sb b) false)

/-- VPIN (R252). -/
def execVpin (d : BitVec 7) (b : SB) (s : State) : Host.Outcome State Fault Refusal :=
  snapOp (.vpin d b) s true d 1 fun r => ((r.sb b).setWidth 16 |>.setWidth 32, .pins (r.sb b) true)

/-- VUNPIN (R252). -/
def execVunpin (d : BitVec 7) (b : SB) (s : State) : Host.Outcome State Fault Refusal :=
  snapOp (.vunpin d b) s true d 1 fun r => ((r.sb b).setWidth 16 |>.setWidth 32, .pins (r.sb b) false)

/-- VSTEP sets STEP (R253): the old STEP and the state. -/
def State.stepGo (s : State) (c : Nat) (v : Word) : Word × State :=
  let old := (s.ctx c).step
  (old, if old.ult v then (s.onCtx c fun t => { t with step := v }).clearStamped c else s)

/-- VSTEP (R253): its point is taken as SNAP's is; the tray's memory pipe is held until it has been performed. In a chain,
whose words issue together, it is accepted and performed as it issues, when no command of its core is before it, so that
a later word of the chain finds the new STEP (DEDUCED). -/
def execVstep (d : BitVec 7) (b : SB) (s : State) : Host.Outcome State Fault Refusal :=
  engine (Instr.vstep d b).opnds s fun r t s =>
    let v := r.sb b
    if r.t.ctrFull .copies || s.snapBusy t.ctx then .stay
    else if r.chain && s.replayCount (r.key / 32) != 0 then .stay
    else if v.ult (s.ctx t.ctx).step then .trap t s [.illegal]
    else if r.chain then
      let (old, s) := s.stepGo t.ctx v
      let (t, s) := r.send t s 3 (r.key / 8192) noVer (some .copies) [d.toNat] [] (.cmd (.done [.s d.toNat old]))
      .ok t s
    else
      let id := t.nextPend
      let (t, s) := r.sendSnap t s d 1 noVer (.step v)
      .ok { t with vhold := some id } s

/-- VQRY (R254). -/
def execVqry (d a : BitVec 7) (b : SB) (s : State) : Host.Outcome State Fault Refusal :=
  snapOp (.vqry d a b) s (a.toNat % 4 == 0 && d.toNat % 2 == 0) d 2 fun r =>
    (r.sn a 3, .query (r.s2 a).toNat (r.sn a 2).toNat (r.sn a 3) (r.sbz64 b).toNat (r.s d).toNat none)

-- Performing the commands

/-- The live slice a handle names: index and descriptor (R248). -/
def State.sliceOf (s : State) (c : Nat) (h : Word) : Option (Nat × Slice) :=
  let i := h.toNat % 65536
  match (s.ctx c).slices.get? i with
  | some x => if (smGet (s.ctx c).sliceGen i).toNat + 1 = h.toNat / 65536 then some (i, x) else none
  | none => none

/-- A slice's descriptor changes: the mirror follows, and what is due is retired (R248, R249). -/
def State.setSlice (s : State) (c i : Nat) (x : Slice) : State :=
  ((s.onCtx c fun t => { t with slices := t.slices.put i x }).sliceMirror c i).retireSlices c

/-- A count that moves by one within 0 to 65,535. -/
def stepCount (n : Nat) (up : Bool) : Option Nat :=
  if up then (if n = 65535 then none else some (n + 1)) else if n = 0 then none else some (n - 1)

/-- SACQ, SREL, VPIN and VUNPIN (R252): the result and the state. -/
def State.sliceCount (s : State) (c : Nat) (h : Word) (pins up : Bool) : Word × State :=
  match s.sliceOf c h with
  | none => (snapFail 5, s)
  | some (i, x) =>
    match stepCount (if pins then x.pins else x.refs) up with
    | none => (snapFail (if pins then 7 else 6), s)
    | some n => (BitVec.ofNat 32 n, s.setSlice c i (if pins then { x with pins := n } else { x with refs := n }))

/-- Merge the partials of a page's current frame. -/
def State.mergeFrame (s : State) (c : Nat) (p : OwnPage) : State :=
  (List.range (p.size / 65536)).foldl (fun s i =>
    match s.framePa c (bits p.l 55 20 * 65536 + 65536 * i) noNeed with
    | some a => if a < 2 ^ 40 then s.mergeSpan a 65536 else s
    | none => s) s

/-- Whether a migration or copy-on-write of a page of a range is in progress, or an access translated before has not been
performed (R251). -/
def State.rangeBusy (s : State) (c start len : Nat) : Bool :=
  s.exportsOut c ||
  (s.pagesIn c start len).any fun p =>
    p.l / 2 ^ 7 % 2 == 1 || p.vers && (match s.chainRd c p.chain with
      | .ok r => r.busy
      | .error _ => false)

/-- Freeze one page at version v (R251). -/
def State.freezePage (s : State) (c : Nat) (v : Word) (p : OwnPage) : State :=
  let s := (s.tlbDrop c p.va (p.va + p.size) (s.descendants c)).mergeFrame c p
  match s.chainRd c p.chain with
  | .ok r => s.chainWr c p.chain { r with frozen := true, frzv := v }
  | .error _ => s

/-- Start the eager copy of a page, if its chain has a free slot and its stack a frame (R246). -/
def State.eagerCopy (s : State) (c : Nat) (p : OwnPage) : State :=
  match s.chainRd c p.chain with
  | .error _ => s
  | .ok r =>
    if (r.slot 2).v then s
    else match s.popFrame c p.size with
      | none => s
      | some (f, s) =>
        let s := (s.chainWr c p.chain { r with busy := true }).pushMarked c
        { s with nextId := s.nextId + 1,
                 cows := s.cows.put s.nextId ⟨c, p.va, p.size, p.leaf, p.chain, bits p.l 55 20 * 65536, f, 0xFFFFFFFF,
                   true⟩ }

/-- The eager copies after a SNAP (R246): every page of its range whose stamp is above the version of the SNAP before. -/
def State.eagerCopies (s : State) (c : Nat) (prev : Option Word) (l : List OwnPage) : State :=
  if !(s.ctx c).eager then s
  else (l.filter fun p =>
      match prev with
      | some v => v.toNat < p.stamp
      | none => true).foldl (fun s p => s.eagerCopy c p) s

/-- The freeze point of a SNAP and what follows it (R251): the handle and the state. -/
def State.snapGo (s : State) (c core i start len : Nat) (v : Word) : Word × State :=
  let l := s.frozenBy c start len
  let prev := (s.ctx c).lastSnap
  let s := l.foldl (fun s p => s.freezePage c v p) s
  let s := (s.onCtx c fun t => { t with step := v + 1, lastSnap := some v }).clearStamped c
  let gen := (smGet (s.ctx c).sliceGen i).toNat + 1
  let s := s.setSlice c i ⟨start, len, v, 1, 0, s.clock core⟩
  (BitVec.ofNat 32 (gen * 65536 + i), s.eagerCopies c prev l)

/-- The entries of VQRY for the sheet addresses from `lo` below `hi`, per 64 KiB: address, size, size code, VERS, stamp. -/
def State.sheetEntries (s : State) (c lo hi : Nat) : List (Nat × Nat × Nat × Bool × Nat) :=
  let t := s.ctx c
  (List.range ((hi - lo) / 65536)).filterMap fun i =>
    let a := lo + 65536 * i
    match s.hwRd c (t.sstamp.toNat + 4 * ((a - t.sbase.toNat) / 65536)) 4 with
    | .ok w => some (a, 65536, 0, false, w)
    | .error _ => none

/-- The size code of a page (R254). -/
def sizeCode (n : Nat) : Nat := if n = 2 ^ 16 then 0 else if n = 2 ^ 21 then 1 else if n = 2 ^ 23 then 2 else 3

/-- What VQRY examines of a range, in ascending order (R254). A page that lies on both sides of the sheet's bounds is listed
once, at its own address. -/
def State.queryEntries (s : State) (c lo hi : Nat) : List (Nat × Nat × Nat × Bool × Nat) :=
  let t := s.ctx c
  let own (a b : Nat) : List (Nat × Nat × Nat × Bool × Nat) :=
    (s.pagesIn c a ((b - a) / 65536)).map fun p => (p.va, p.size, sizeCode p.size, p.vers, p.stamp)
  let pages := (own lo (min hi t.sbase.toNat) ++ own (max lo t.slimit.toNat) hi).eraseDups
  (pages.filter fun e => e.1 < t.sbase.toNat) ++
    s.sheetEntries c (max lo t.sbase.toNat) (min hi t.slimit.toNat) ++
    pages.filter fun e => t.sbase.toNat ≤ e.1

/-- VQRY writes its entries (R254), of which n have been written: the state, how many are written, the address of the first
that is not examined, if any, and the fault that a write has met. -/
def State.queryWrite (s : State) (o : Op) (w buf cap hi : Nat) :
    List (Nat × Nat × Nat × Bool × Nat) → Nat → State × Nat × Option Nat × Option XFault
  | [], n => (s, n, none, none)
  | (a, size, code, vers, stamp) :: r, n =>
    if stamp ≤ w then State.queryWrite s o w buf cap hi r n
    else
      match s.opWr o (buf + 8 * n) (clean (bytesOf 8 (f2 code 14 (a / 65536 * 65536) + vers.toNat))) with
      | (s, some f) => (s, n, some a, some f)
      | (s, none) =>
        if n + 1 = cap then
          let next := (r.head?.map (·.1)).getD (a + size)
          (s, n + 1, if min next (a + size) < hi then some (min next (a + size)) else none, none)
        else State.queryWrite s o w buf cap hi r (n + 1)

/-- A snapshot command is performed and complete. -/
def State.snapDone (s : State) (o : Op) (data : List RegWrite) : State := s.opDone o data none false

/-- The two results of VQRY: the count, and where it stopped for want of room (R254). -/
def queryResult (d n start : Nat) (stop : Option Nat) : List RegWrite :=
  [.s d (BitVec.ofNat 32 n),
   .s (d + 1) (match stop with
    | some a => BitVec.ofNat 32 (0x80000000 + (a - start) / 65536)
    | none => 0)]

/-- VQRY (R254). A buffer write waits inside it for a copy, a frame or a migration, which end by themselves (R229, R247); any
other fault ends it, with a record (R229). -/
def State.queryGo (s : State) (o : Op) (d start len : Nat) (w : Word) (buf cap : Nat) (prog : Option (Nat × Nat)) : State :=
  let hi := start + 65536 * len
  let (n, lo) := prog.getD (0, 0)
  if snapRangeBad start len then s.snapDone o [.s d (snapFail 1)]
  else if cap = 0 ∨ 65535 < cap ∨ buf % 8 ≠ 0 then s.snapDone o [.s d (snapFail 8)]
  else
    let (s, n, stop, f) :=
      s.queryWrite o w.toNat buf cap hi ((s.queryEntries o.tag.ctx start hi).filter fun e => lo ≤ e.1) n
    match f with
    | none => ((s.hear o.tag.core).l1Inval o.tag.core false).snapDone o (queryResult d n start stop)
    | some f =>
      if f.kind = .poolempty ∨ f.kind = .migrating then
        (s.onOp o.id fun o => { o with phase := 2, body := .snap d (.query start len w buf cap (some (n, stop.getD start))) }).opFault
          o f true 65536 |>.2
      else (s.opRecord o f false true 0).snapDone o [.s d (snapFail 9)]

/-- A SNAP at the head of its context's SNAPs and VSTEPs is performed (R251): its checks, the comparison with STEP, whose trap
its tray takes at the next issue group, then the wait for the copies and migrations of its range, and the freeze. -/
def State.snapAt (s : State) (o : Op) (d start len : Nat) (scope v : Word) (below : Bool) : State :=
  let c := o.tag.ctx
  let st := s.snapCheck c start len scope
  if st != 0 then s.snapDone o [.s d (snapFail st)]
  else if below then
    (s.snapDone o []).onTrayOf o.batch o.tray fun t => { t with async := t.async ++ [.illegal] }
  else if s.rangeBusy c start len then
    s.onOp o.id fun o => { o with phase := 2, body := .snap d (.snap start len scope v false true) }
  else
    let (h, s) := s.snapGo c o.tag.core ((s.sliceFree c).getD 0) start len v
    s.snapDone o [.s d h]

/-- SNAPSHOT_OP_COMPLETE (R250–R254): an accepted command is performed. -/
def execSnapshotOpComplete (op : Nat) (s : State) : Host.Outcome State Fault Refusal :=
  .next (match s.op? op with
    | none => s
    | some o =>
      if o.phase = 0 || o.park.isSome then s
      else
        let c := o.tag.ctx
        match o.body with
        | .snap d (.snap start len scope v below _) => s.snapAt o d start len scope v below
        | .snap d (.refs h up) =>
          let (x, s) := s.sliceCount c h false up
          s.snapDone o [.s d x]
        | .snap d (.pins h up) =>
          let (x, s) := s.sliceCount c h true up
          s.snapDone o [.s d x]
        | .snap d (.step v) =>
          let (x, s) := s.stepGo c v
          s.snapDone o [.s d x]
        | .snap d (.query start len w buf cap prog) => s.queryGo o d start len w buf cap prog
        | _ => s)

/-- COW_SWITCH (R246): the copy of a page ends and its leaf switches. -/
def execCowSwitch (op : Nat) (s : State) : Host.Outcome State Fault Refusal := .next (s.cowSwitch op)

-- Donation (R245)

/-- A donation is refused. -/
def State.refuseFrame (s : State) (c : Nat) : State := s.onCtx c fun t => { t with dref := t.dref + 1 }

/-- The frames a context may still be given: its quota less what its children hold of it and its own frames (R245, R393). -/
def State.framesLeft (s : State) (c : Nat) : Nat :=
  s.ownBudget c (·.frameq.toNat) - ((s.ctx c).frames.map (·.2)).sum

/-- A write to DONATE of one aligned doubleword (R245). A frame whose entry cannot be written to the stack is refused
(DESIGN CHOICE: the spec names no outcome). -/
def State.donate (s : State) (c : Nat) (entry : Nat) : State :=
  let size := if entry % 2 = 0 then 65536 else 2 ^ 21
  let frame := bits entry 51 16 * 65536
  let (n, cap, _) := (s.ctx c).stack size
  if frame % size != 0 || bits entry 15 1 != 0 || 2 ^ 52 ≤ entry || !s.frameOk c frame size || cap ≤ n ||
      s.framesLeft c < size / 65536 then s.refuseFrame c
  else match s.pushFrame c size frame with
    | none => s.refuseFrame c
    | some s => s.onCtx c fun t => { t with dacc := t.dacc + 1, frames := KMap.put t.frames frame (size / 65536) }

/-- DONATE_WRITE (R245). -/
def execDonateWrite (ctx : Nat) (entry : BitVec 64) (s : State) : Host.Outcome State Fault Refusal :=
  .next (if (s.ctxs.get? ctx).isSome then s.donate ctx entry.toNat else s)

end Sys2Proof.Machine
end

