-- ==== Sys2Proof/Machine/Stop.lean ====
section
/-!
DEFINITION. Slice ends, halts and what each unit does when it stops a context's work (R257, R274, R299, R310, R337, R369,
R385, R407–R409), and the forced end of cancelled trays (R86).
-/

namespace Sys2Proof.Machine

-- The end of a slice (R401, R407)

/-- The slice of one RUNNING context ends (R407). -/
def State.endSlice (s : State) (c : Nat) (follow quantum : Bool) : State :=
  let s := s.onCtx c fun t => { t with st := .stopping, follow := follow, quantumEnd := quantum }
  let s := { s with trays := s.trays.all' fun _ t => if t.ctx = c then t.addAsync .sliceend .slice else t }
  s.unplace fun _ b => b.ctx == c

/-- The slice of a context ends, and with it that of every descendant (R390, R393, R407). -/
def State.sliceEnd (s : State) (c : Nat) (quantum : Bool) : State :=
  let l := (s.descendants c).filter fun d => (s.ctx d).st == .running
  (l.foldl (fun s d => s.endSlice d true false) (s.endSlice c false quantum)).settleCtxs

/-- QUANTUM_EXPIRY (R401). -/
def execQuantumExpiry (ctx : Nat) (s : State) : Host.Outcome State Fault Refusal :=
  .next (if (s.ctx ctx).st = .running ∧ (s.ctx ctx).quantum ≠ 0 then s.sliceEnd ctx true else s)

/-- SLICE_BUDGET_EXPIRY (R407, R412): a departing tray whose budget runs out leaves by force, in its wait if it is in one. -/
def execSliceBudgetExpiry (tray : Nat) (s : State) : Host.Outcome State Fault Refusal :=
  .next (match s.trays.get? tray with
    | none => s
    | some t =>
      match t.departing with
      | none => s
      | some w =>
        if t.leave.isSome || t.wait == .ended || w == .cancel || !t.async.isEmpty then s
        else s.onTray tray fun t => { t with leave := some w, forced := true })

-- Stopping operations (R409)

/-- What a stop record says of an operation's progress: bytes, elements or entries written (R254, R274, R310), steps completed
(R299), or the status of a migration (R239). -/
def Op.progress (o : Op) : Nat :=
  match o.body with
  | .copy k => k.done
  | .member k => k.done
  | .stack k => k.written
  | .matrix k => k.stopAt o.id
  | .migr _ => 8
  | .snap _ (.query _ _ _ _ _ prog) => (prog.map (·.1)).getD 0
  | _ => 0

/-- The destination register of a context-engine command. -/
def CtxOp.d : CtxOp → Nat
  | .new d _ | .grant d _ _ _ | .revoke d _ _ _ _ | .run d _ _ _ _ _ _ | .stop d _ _ _ | .save d _ _ | .load d _ _
  | .query d _ _ | .scrub d _ _ _ | .alog d _ _ | .keysel d _ _ _ => d

/-- What the registers of an abandoned command of a snapshot engine receive: of a VQRY that has begun the entries written and
where it stopped (R257). -/
def SnapOp.abandoned (d : Nat) : SnapOp → List RegWrite
  | .query start _ _ _ _ (some (n, next)) => queryResult d n start (some next)
  | _ => [.s d 0xFFFF000A]

/-- The other members of an assembled group: they stop with the one that stops (R274). -/
def State.matesOf (s : State) (o : Op) : List Op :=
  match o.body with
  | .member m => if m.group.isNone then [] else ((s.members o.tag.ctx m).map (·.1)).filter fun x => x.id != o.id
  | _ => []

/-- The group of a member that stops copies no more; its members end with error when their own engines stop. -/
def State.holdMates (s : State) (o : Op) : State :=
  (s.matesOf o).foldl (fun s x => s.onOp x.id fun x => match x.body with
    | .member m => { x with body := .member { m with fin := true, err := true } }
    | _ => x) s

/-- An operation stops, or is discarded from a replay window: what it has written stands, and it counts no more. One that
is counted in copies leaves COPYERR; a migration that has begun scrubs its destination, and one that has not returns the
same status (DEDUCED); the registers that the spec names are written. -/
def State.stopOp (s : State) (o : Op) : State :=
  match o.body with
  | .copy k =>
    match k.input with
    | some b => (s.dropOp o.id).inputDone b true
    | none => s.opDone o [] (some (.copies, .copyerr)) (!k.toSpad)
  | .member _ => (s.holdMates o).opDone o [] (some (.copies, .copyerr)) false
  | .stack _ => s.opDone o [] (some (.copies, .copyerr)) true
  | .migr k => if o.phase = 2 then s.migrFail o k 8 else s.opDone o (migrResult k.d k.dst 8) none false
  | .matrix (.fence l) => (l.foldl (fun s x => s.onTrayOf o.batch x.1 fun t => t.complete x.2) s).dropOp o.id
  | .matrix k => ((if (s.matrixHead o.unit).any fun x => x.id == o.id then s.matrixStop o.unit o.batch o.id k else s).dropOp o.id)
  | .snap d k => s.opDone o (k.abandoned d) none false
  | .ctx k => s.opDone o [.s k.d 0xFFFF0007] none false
  | .cmd (.done data) => s.opDone o data none false
  | .cmd _ | .performed _ => s.opDone o [] none false
  | .post _ | .arrive _ => s

/-- Whether an engine that stops writes a record for an operation, or only counts it as discarded: a group of CPYM that is
still assembling, and the matrix commands behind the one in progress (R274, R299). -/
def stopsNamed (l : List Op) (o : Op) : Bool :=
  match o.body with
  | .member k => k.group.isSome
  | .matrix _ => (l.head?.map (·.id)) == some o.id
  | _ => true

/-- Whether an operation is a command that can be stopped: a revocation that has begun goes on, and posted operations and
arrivals belong to no tray. -/
def Op.stops (o : Op) : Bool :=
  match o.body with
  | .ctx (.revoke _ _ _ _ no) => no == 0
  | .post _ | .arrive _ => false
  | _ => true

/-- The operations of a context that an engine unit has accepted. -/
def State.opsAt (s : State) (c cls unit : Nat) : List Op :=
  s.ops.filter fun o => o.tag.ctx == c && o.tag.eng == cls && o.unit == unit && o.phase != 0 && o.stops

/-- Page copies in progress are abandoned: the new frame is zeroed and pushed back, once its stack has room, and the chain is
unchanged (R257). -/
def State.abandonCows (s : State) (c : Nat) : State :=
  (s.cows.filter fun e => e.2.ctx == c).foldl (fun s e =>
    let w := e.2
    let s := ({ s with cows := s.cows.del e.1 }).zeroFrame c w.new w.size
    let s := match s.pushFrame c w.size w.new with
      | some s => s
      | none => s.onCtx c fun t => { t with toPush := t.toPush ++ [(w.size, w.new)] }
    let s := match s.chainRd c w.chain with
      | .ok r => s.chainWr c w.chain { r with busy := false }
      | .error _ => s
    s.endParks w.leaf [.cow]) s

/-- The commands that an engine unit holds of a context are discarded: how many (R369, R409). -/
def State.discardAt (s : State) (c cls unit : Nat) : Nat × State :=
  let l := s.opsAt c cls unit
  (l.length, l.foldl (fun s o => s.stopOp o) s)

/-- The collective engine stops a context's entries that are FIRING, its commands are discarded, and arrivals in progress are
refused (R337). -/
def State.stopPosts (s : State) (c : Nat) (w : StopWait) : State :=
  let (n, s) := s.discardAt c 5 w.unit
  let l := s.posted.filter fun e => e.2.ctx == c && e.2.st == .firing
  let done (e : Posted) : Nat := (e.parts.map fun p => p.next).sum
  let recs := l.map fun e => (some e.2.tag, done e.2 + 2 ^ 64 * (postHandle e.2.gen e.1).toNat)
  let s := l.foldl (fun s e =>
    ({ s with ops := s.ops.filter fun o => decide (o.body ≠ OpBody.post e.1) }).onPost e.1 fun x => { x with st := .stopped }) s
  let arr := s.ops.filterMap fun o =>
    match o.body with
    | .arrive _ => if o.tag.ctx = c then some o.id else none
    | _ => none
  let s := arr.foldl (fun s i => s.arrRefuse i) s
  s.unitRecords c w recs n

/-- A raster front discards a context's commands and tears down its live passes, and their exports are discarded (R369). A
pass that several fronts serve is torn down, and recorded, by the first of them to stop. -/
def State.stopPasses (s : State) (c : Nat) (w : StopWait) : State :=
  let (n, s) := s.discardAt c 6 w.unit
  let l := s.passes.filter fun e => e.2.ctx == c && e.2.fronts.contains w.unit
  let s := { s with passes := s.passes.filter fun e => !(e.2.ctx == c && e.2.fronts.contains w.unit) }
  s.unitRecords c w (l.map fun e => (none, e.2.addr + 2 ^ 64 * e.2.primin)) n

/-- An engine unit stops a context's work and writes its records (Table 17.10, R409). -/
def State.stopEngine (s : State) (c : Nat) (w : StopWait) : State :=
  match w.cls with
  | 5 => s.stopPosts c w
  | 6 => s.stopPasses c w
  | cls =>
    let l := s.opsAt c cls w.unit
    let named := l.filter (stopsNamed l)
    let mates := if w.reason = 2 then (l.flatMap s.matesOf).filter fun x => !l.contains x else []
    let s := l.foldl (fun s o => s.stopOp o) s
    let s := mates.foldl (fun s o => s.stopOp o) s
    let s := if cls = 3 then s.abandonCows c else s
    s.unitRecords c w (named.map fun o => (some o.tag, o.progress)) (l.length - named.length)

/-- Discard a context's commands in a core's replay window: how many (R23). -/
def State.discardWindow (s : State) (c core : Nat) : Nat × State :=
  let l := s.ops.filter fun o => o.tag.ctx == c && o.tag.core == core && o.phase == 0
  (l.length, l.foldl (fun s o => s.stopOp o) s)

/-- A core stops a context at a halt: its commands in the replay window are discarded, and its trays receive HALTED, their
gangs dissolve, and they leave by force; results in flight land (R23, R279, R408). -/
def State.haltCore (s : State) (c core : Nat) : Nat × State :=
  let (n, s) := s.discardWindow c core
  let keys := (s.trays.filter fun e => e.2.ctx == c && e.1 / 32 == core).map (·.1)
  let s := keys.foldl (fun s k => s.takeAsync k) s
  let s := keys.foldl (fun s k => s.dissolve k) s
  (n, keys.foldl (fun s k =>
    s.onTray k fun t =>
      let t := (t.pend.filter fun p => p.kind != .op).foldl (fun t p => t.complete p.id) t
      if t.wait == .ended then t else { t with leave := some (t.leave.getD .halt), forced := true }) s)

/-- Whether a core still holds a tray of a context. -/
def State.coreHolds (s : State) (c core : Nat) : Bool :=
  s.trays.any fun e => e.2.ctx == c && e.1 / 32 == core && e.2.wait != .ended

/-- UNIT_STOP (R408, R409, Table 17.10): a unit stops a context's work, and writes its stop records; a core once its trays
have been saved. -/
def execUnitStop (cls unit ctx : Nat) (s : State) : Host.Outcome State Fault Refusal :=
  .next (match (s.ctx ctx).stops.find? fun w => w.cls == cls && w.unit == unit with
    | none => s
    | some w =>
      let drop (s : State) : State :=
        s.onCtx ctx fun t => { t with stops := t.stops.filter fun x =>
          !(x.cls == cls && x.unit == unit && x.reason == w.reason && x.revno == w.revno) }
      if cls ≠ 0 then ((drop s).stopEngine ctx w).settleCtxs
      else
        let (n, s) := if w.begun ∨ w.reason = 2 then (0, s) else s.haltCore ctx unit
        if s.coreHolds ctx unit then
          s.onCtx ctx fun t => { t with stops := t.stops.map fun x =>
            if x.cls = 0 ∧ x.unit = unit ∧ x.reason = w.reason ∧ x.revno = w.revno then
              { x with begun := true, discarded := x.discarded + n }
            else x }
        else
          ((drop s).stopRecord ⟨true, ctx, unit, w.reason, 0, (w.discarded + n, w.forced, w.tret, w.stopped), none, 0,
            w.revno⟩).settleCtxs)

/-- CANCEL_FORCE_END (R86): a cancelled tray still resident ends without save and its operations stop; each engine that
stops one, and the core if it discards a command, writes its records with REASON 3. -/
def execCancelForceEnd (tray : Nat) (s : State) : Host.Outcome State Fault Refusal :=
  .next (match s.trays.get? tray with
    | none => s
    | some t =>
      if t.departing ≠ some .cancel ∧ t.leave ≠ some .cancel then s
      else
        let mine := s.ops.filter fun o => o.batch == t.batch && o.tray == t.idx && o.tag.ctx == t.ctx && o.stops
        let mine := mine ++ (mine.flatMap s.matesOf).filter fun x => !mine.contains x
        let sent := mine.filter fun o => o.phase == 0
        let acc := mine.filter fun o => o.phase != 0
        let units := (acc.map fun o => (o.tag.eng, o.unit)).eraseDups
        let s := mine.foldl (fun s o => s.stopOp o) s
        let s := units.foldl (fun s u =>
          let here := acc.filter fun o => (o.tag.eng, o.unit) == u
          let named := here.filter (stopsNamed here)
          s.unitRecords t.ctx ⟨u.1, u.2, 3, 0, false, 0, 0, 0, 0⟩
            (named.map fun o => (some o.tag, o.progress)) (here.length - named.length)) s
        (if sent.isEmpty then s
         else s.stopRecord ⟨true, t.ctx, tray / 32, 3, 0, (sent.length, 0, 0, 1), none, 0, 0⟩).trayEnds tray)

end Sys2Proof.Machine
end

