-- ==== Sys2Proof/Machine/CtlWrite.lean ====
section
/-!
DEFINITION. Writes to control pages and queue control blocks and what they start (R66, R213, R224, R229, R244, R389), and
the time-outs of parks (R229, R247).
-/

namespace Sys2Proof.Machine

-- Invalidations (R224)

/-- A write to INVSEQ starts an invalidation, or queues it behind the one in progress: up to 16 wait (R224). -/
def State.invKick (s : State) (c : Nat) (n : Word) : State :=
  let t := s.ctx c
  if 17 ≤ t.invq.length then s
  else
    let s := s.onCtx c fun t => { t with invq := t.invq ++ [(n, t.invaddr, t.invlen)] }
    if t.invq.isEmpty then s.invalidate c t.invaddr.toNat (65536 * t.invlen.toNat) else s

/-- INVALIDATION_KICK (R224). -/
def execInvalidationKick (ctx : Nat) (seq : BitVec 32) (s : State) : Host.Outcome State Fault Refusal :=
  .next ((s.onCtx ctx fun t => { t with invseq := seq }).invKick ctx seq)

/-- INVALIDATION_COMPLETE (R224): every access through an old translation has been performed; INVDONE takes the number,
and the next one that waits starts. -/
def execInvalidationComplete (ctx : Nat) (s : State) : Host.Outcome State Fault Refusal :=
  .next (match (s.ctx ctx).invq with
    | [] => s
    | (n, _, _) :: r =>
      if s.exportsOut ctx then s
      else
        let s := s.onCtx ctx fun t => { t with invdone := n, invq := r }
        match r with
        | [] => s
        | (_, a, l) :: _ => s.invalidate ctx a.toNat (65536 * l.toNat))

/-- A write to ROOT, with the invalidation of the whole space that it takes effect as (R213). -/
def State.rootWrite (s : State) (c v : Nat) : State :=
  (s.onCtx c fun t => { t with root := BitVec.ofNat 52 v }).invalidate c 0 0

/-- ROOT_WRITE (R213). -/
def execRootWrite (ctx : Nat) (v : BitVec 64) (s : State) : Host.Outcome State Fault Refusal :=
  .next (s.rootWrite ctx v.toNat)

-- Parks (R229, R247)

/-- A token written to REPLAY of context c by `w`, which must be the context whose table faulted or an ancestor of it:
the park it names ends and its tray or operation walks again (R229). The writer 4,096 is the host, for the root. -/
def State.replay (s : State) (w c token : Nat) : State :=
  let num := token / 65536
  let slot := token / 1024 % 32
  let core := token % 1024
  let ok (f : Nat) : Bool := w == 4096 || f == w || s.isAncestor w f
  s.unpark (fun t p => t.ctx == c && p.num == num && p.home == core * 32 + slot && ok p.fctx)
    fun o p => o.tag.ctx == c && p.num == num && o.tag.core == core && o.tag.tray == slot && ok p.fctx

/-- REPLAY_WRITE (R229): written by the root, an ancestor of every context. -/
def execReplayWrite (ctx : Nat) (token : BitVec 32) (s : State) : Host.Outcome State Fault Refusal :=
  .next (s.replay 0 ctx token.toNat)

/-- A park of a tray becomes terminal: its record is of kind `kind`, and the cause is that of the kind it parked with. -/
def State.endPark (s : State) (key : Nat) (t : Tray) (p : Park) (kind : FaultKind) : State :=
  let q := t.path p.path
  let f : XFault := ⟨kind, p.fctx, p.addr, p.leaf⟩
  let m := ((q.redoAt q.pc).map (·.mask)).getD t.live
  let s := s.faultRecord f false ⟨t.ctx, key / 32, key % 32, none, p.fetch, p.wr, q.pc.toNat, m, 0⟩
  let s := s.onTray key fun t => { t with wait := .run }
  s.raise key p.path [p.kind.cause] q.pc q.single none

/-- The same of a saved tray (R229, R405): its image takes the cause. -/
def State.endSavedPark (s : State) (t : Tray) (p : Park) (kind : FaultKind) : State :=
  let q := t.path p.path
  let f : XFault := ⟨kind, p.fctx, p.addr, p.leaf⟩
  let m := ((q.redoAt q.pc).map (·.mask)).getD t.live
  let s := s.faultRecord f false ⟨t.ctx, p.home / 32, p.home % 32, none, p.fetch, p.wr, q.pc.toNat, m, 0⟩
  let c := s.ctx t.ctx
  s.onSaved t.batch t.idx fun t => t.savedCause c p.path p.kind.cause q.pc q.single

/-- The saved tray whose park names a core's tray slot. -/
def State.savedPark (s : State) (home : Nat) : Option (Tray × Park) :=
  s.batches.findSome? fun b => b.2.image.findSome? fun e =>
    match e.2.wait with
    | .park p => if p.home = home then some (e.2, p) else none
    | _ => none

/-- An operation gives up at a fault: it completes as its engine completes one that meets a terminal translation fault
(R263, R272, R309, R334, R330). -/
def State.opGiveUp (s : State) (o : Op) : State :=
  let s := s.onOp o.id fun o => { o with park := none }
  match o.body with
  | .copy k => s.copyFinish o k true
  | .member m =>
    let m := { m with fin := true, err := true }
    (s.onOp o.id fun o => { o with body := .member m }).groupSettle o.tag.ctx m
  | .stack _ => ((s.stackAdd o 0 1).stackAdd o 1 1).opDone o [] (some (.copies, .copyerr)) true
  | .post idx =>
    match s.posted.get? idx with
    | none => s
    | some e =>
      match (List.range e.parts.length).find? fun k =>
          ((e.parts[k]?).map fun p => decide (p.next < unitCount e.cmp p.len)).getD false with
      | none => s
      | some k =>
        ((s.onPost idx fun e => e.onPart k fun p => { p with next := unitCount e.cmp p.len }).partErr idx k 3).postGo idx
  | .arrive a =>
    if a.whole then
      match a.land with
      | none => s
      | some l => (s.contribs l).foldl (fun s x => s.arrRefuse x.1.id) s
    else match a.got with
      | [] => s
      | u :: _ =>
        let s := s.onArr o.id fun a => { a with got := a.got.del u.1, failed := u.1 :: a.failed }
        (s.answerUnit a.head u.1 false).arrGo o.id
  | .ctx _ => s.onOp o.id fun o => { o with phase := 3 }
  | .cmd (.cont d slot _ _) => ((s.dropOp o.id).flagRejected slot).opAnswer o [.s d 0xFFF00008]
  | .cmd (.jdec slot l) => (s.dropOp o.id).jdecGo o slot (l.drop 1)
  | .cmd (.post d _ _ _ _ _ _ _ _) => (s.dropOp o.id).opAnswer o [.s d (postCode 4)]
  | .snap d (.query _ _ _ _ _ _) => s.snapDone o [.s d (snapFail 9)]
  | .migr _ | .matrix _ | .snap _ _ | .performed _ | .cmd _ => s

/-- A park of an operation becomes terminal with a record of a kind. -/
def State.endOpPark (s : State) (o : Op) (p : Park) (kind : FaultKind) : State :=
  (s.opRecord o ⟨kind, p.fctx, p.addr, p.leaf⟩ false p.wr 0).opGiveUp o

/-- Act on the park of a tray, or with `op` of an operation, where it meets a condition. The tray is resident, or one whose
park was made in the slot that k names and that has been saved since. -/
def State.whenPark (s : State) (op : Bool) (k : Nat) (ok : Ctx → Park → Bool) (kind : FaultKind) : State :=
  if op then
    match s.op? k with
    | none => s
    | some o =>
      match o.park with
      | some p => if ok (s.ctx o.tag.ctx) p then s.endOpPark o p kind else s
      | none => s
  else
    let here := (s.trays.get? k).bind fun t =>
      match t.wait with
      | .park p => some (t, p)
      | _ => none
    match here with
    | some (t, p) => if ok (s.ctx t.ctx) p then s.endPark k t p kind else s
    | none =>
      match s.savedPark k with
      | some (t, p) => if ok (s.ctx t.ctx) p then s.endSavedPark t p kind else s
      | none => s

/-- PARK_TIMEOUT (R229): a park outlives PARKTO. -/
def execParkTimeout (op : Bool) (k : Nat) (s : State) : Host.Outcome State Fault Refusal :=
  .next (s.whenPark op k (fun c p => c.parkto != 0 && p.kind != .cow) .parktimeout)

/-- CHAIN_TIMEOUT (R247): a park for want of a frame or a chain slot outlives CHAINTO. -/
def execChainTimeout (op : Bool) (k : Nat) (s : State) : Host.Outcome State Fault Refusal :=
  .next (s.whenPark op k (fun c p => c.chainto != 0 && p.kind == .poolempty) .poolempty)

/-- FAULT_RECORD_DEFERRED (R231, R232): a die's reporting port grants one waiting record. -/
def execFaultRecordDeferred (die : Nat) (s : State) : Host.Outcome State Fault Refusal := .next (s.reportGrant die)

-- Fields (Tables 9.1, 10.2, 17.2)

/-- Whether bytes lo to hi − 1 of a doubleword are among those a write touches. -/
def touches (off n k lo hi : Nat) : Bool := off < 8 * k + hi && 8 * k + lo < off + n

/-- A ring field: its log and its address. -/
def ringField (v : Nat) : BitVec 4 × BitVec 52 := (BitVec.ofNat 4 (v / 2 ^ 60), BitVec.ofNat 52 v)

/-- A doubleword of a TCB is written (Table 9.1): `v` is the doubleword with the bytes written, `up` says that the writer
is the parent, or the host for the root; `seq` and `rep` that INVSEQ and REPLAY are among the bytes. -/
def State.tcbWrite (s : State) (w c k v : Nat) (up seq rep : Bool) : State :=
  match k with
  | 0 => s.rootWrite c v
  | 5 => s.onCtx c fun t => { t with sstamp := BitVec.ofNat 52 v }
  | 6 => s.onCtx c fun t => { t with chainbase := BitVec.ofNat 52 v }
  | 8 => s.onCtx c fun t => { t with rlog := (ringField v).1, rring := (ringField v).2 }
  | 9 => s.onCtx c fun t => { t with tlog := (ringField v).1, tring := (ringField v).2 }
  | 10 => if up then s.onCtx c fun t => { t with plog := (ringField v).1, pring := (ringField v).2 } else s
  | 11 => s.onCtx c fun t => { t with parkto := BitVec.ofNat 32 (v / 2 ^ 32) }
  | 12 => s.onCtx c fun t => { t with invaddr := BitVec.ofNat 52 v }
  | 13 =>
    let s := s.onCtx c fun t => { t with invlen := BitVec.ofNat 32 v, invseq := BitVec.ofNat 32 (v / 2 ^ 32) }
    if seq then s.invKick c (BitVec.ofNat 32 (v / 2 ^ 32)) else s
  | 14 => if rep then s.replay w c (v / 2 ^ 32) else s
  | _ => s

/-- A doubleword of an SCB is written (R244, Table 10.2); `whole` says that it is one aligned 8-byte write. -/
def State.scbWrite (s : State) (c k v : Nat) (whole : Bool) : State :=
  match k with
  | 0 => s.onCtx c fun t => if t.scnt = 0 then { t with spool := BitVec.ofNat 52 v } else t
  | 1 => if (s.ctx c).scnt = 0 then (s.onCtx c fun t => { t with scap := BitVec.ofNat 32 v }).pushMarked c else s
  | 2 => s.onCtx c fun t => if t.lcnt = 0 then { t with lpool := BitVec.ofNat 52 v } else t
  | 3 => if (s.ctx c).lcnt = 0 then (s.onCtx c fun t => { t with lcap := BitVec.ofNat 32 v }).pushMarked c else s
  | 4 => if whole then s.donate c v else s.refuseFrame c
  | 6 => s.onCtx c fun t => { t with
      chainto := BitVec.ofNat 32 (v / 2 ^ 32), scrubret := v / 4 % 2 == 1, eager := v / 2 % 2 == 1 }
  | 7 => s.onCtx c fun t =>
      if t.slices.isEmpty then { t with sllog := BitVec.ofNat 4 (v / 2 ^ 60), slbase := BitVec.ofNat 52 v } else t
  | _ => s

/-- A doubleword of a status block is written (R389, R426, Table 17.2); `host` says that ROOTWR writes it. -/
def State.statusWriteCtl (s : State) (c k v : Nat) (up host : Bool) : State :=
  let free := host && (s.ctx c).conts.isEmpty
  match k with
  | 1 => s.onCtx c fun t => { t with hmask := BitVec.ofNat 64 v }
  | 2 => s.onCtx c fun t => { t with handler := BitVec.ofNat 46 v }
  | 3 => if up then s.onCtx c fun t => { t with haltmask := BitVec.ofNat 64 v } else s
  | 4 => if up then s.onCtx c fun t => { t with slog := (ringField v).1, sring := (ringField v).2 } else s
  | 5 =>
    let b := v % 2 ^ 32
    if 1 ≤ b ∧ b ≤ 2 ^ 20 then s.onCtx c fun t => { t with slicebud := BitVec.ofNat 32 b } else s
  | 8 => if free then s.onCtx c fun t => { t with savebase := BitVec.ofNat 52 v } else s
  | 9 =>
    if free then s.onCtx c fun t => { t with savesz := BitVec.ofNat 32 v, pooln := BitVec.ofNat 32 (v / 2 ^ 32) } else s
  | 10 => if free then s.onCtx c fun t => { t with poolbase := BitVec.ofNat 52 v } else s
  | _ => s

/-- A write of n bytes of `v` at an offset of context c's control page by `w` (R213, R389); the writer 4,096 is the host.
Only the context and its ancestors write a page; RO fields keep their values. -/
def State.ctlWrite (s : State) (w c off n v : Nat) : State :=
  if !(s.ctxs.get? c).isSome || !(w == 4096 || w == c || s.isAncestor w c) then s
  else
    let host := w == 4096
    let up := if c = 0 then host else (s.ctx c).parent == w
    let whole := n == 8 && off % 8 == 0
    ((List.range (n / 8 + 2)).map fun i => off / 8 + i).foldl (fun s k =>
      if !touches off n k 0 8 then s
      else
        let x := mergeDword (s.ctlDword c (8 * k)) off n v k
        if k < 16 then s.tcbWrite w c k x up (touches off n k 4 8) (touches off n k 4 8)
        else if k < 32 then s.scbWrite c (k - 16) x whole
        else if k < 48 then
          if k = 37 && !touches off n k 0 4 then s else s.statusWriteCtl c (k - 32) x up host
        else s) s

/-- Act on a write that an access made to a control page or a queue control block (R66, R389). -/
def State.doPost (s : State) (p : Post) : State :=
  if p.queue then s.qcbWrite p.page p.off p.size p.value else s.ctlWrite p.writer p.page p.off p.size p.value

/-- REGISTER_WRITE (R389, R66, R312): an 8-byte write. Pages 0 to 4,095 are the contexts' control pages, 4,096 + q is the
control block of queue q, and 5,120 the landing map, which the root alone writes. -/
def execRegisterWrite (writer page off : Nat) (v : BitVec 64) (s : State) : Host.Outcome State Fault Refusal :=
  .next (
    if page < 4096 then s.ctlWrite writer page off 8 v.toNat
    else if page < 5120 then
      if s.queueOwner (page - 4096) = some writer then s.qcbWrite (page - 4096) off 8 v.toNat else s
    else if page = 5120 ∧ writer = 0 then s.landWrite off 8 v.toNat
    else s)

end Sys2Proof.Machine
end

