-- ==== Sys2Proof/Machine/Grant.lean ====
section
/-!
DEFINITION. Units of ownership and what grants do with them (R391–R394, R399, Tables 17.4, 17.5).
-/

namespace Sys2Proof.Machine

-- Units as sets

/-- Combine two sets of units bit by bit. -/
def Units.zip (f : (w : Nat) → BitVec w → BitVec w → BitVec w) (a b : Units) : Units :=
  ⟨f 128 a.groups b.groups, f 128 a.banks b.banks, smTab 0 128 fun i => f 16 (smGet a.ways i) (smGet b.ways i),
    f 384 a.channels b.channels, f 16 a.copy b.copy, f 16 a.ual b.ual, f 4 a.raster b.raster, f 12 a.stack b.stack,
    f 1024 a.queues b.queues, f 4096 a.counters b.counters, f 256 a.regions b.regions⟩

/-- The units of either set. -/
def Units.join (a b : Units) : Units := a.zip (fun _ x y => x ||| y) b
/-- The units of both. -/
def Units.meet (a b : Units) : Units := a.zip (fun _ x y => x &&& y) b
/-- The units of the first that are not in the second. -/
def Units.minus (a b : Units) : Units := a.zip (fun _ x y => x &&& ~~~y) b
/-- No unit. -/
def Units.isNone (a : Units) : Bool := a == Units.none

/-- How many units a kind has (Table 17.5); 0 for kinds that name none. -/
def kindCount (kind : Nat) : Nat :=
  match kind with
  | 1 | 2 | 3 => 128
  | 4 => 384
  | 5 | 6 => 16
  | 7 => 4
  | 8 => 12
  | 9 => 1024
  | 10 => 4096
  | 11 => 256
  | _ => 0

/-- The units of a kind as a bitmap; of kind 3 the banks with a way. -/
def Units.ofKind (u : Units) (kind : Nat) : Nat :=
  match kind with
  | 1 => u.groups.toNat
  | 2 => u.banks.toNat
  | 3 => u.cacheBanks
  | 4 => u.channels.toNat
  | 5 => u.copy.toNat
  | 6 => u.ual.toNat
  | 7 => u.raster.toNat
  | 8 => u.stack.toNat
  | 9 => u.queues.toNat
  | 10 => u.counters.toNat
  | 11 => u.regions.toNat
  | _ => 0

/-- The units a bitmap of a kind names, with the ways granted in each bank of kind 3. -/
def unitsOf (kind map ways : Nat) : Units :=
  let n := Units.none
  match kind with
  | 1 => { n with groups := BitVec.ofNat 128 map }
  | 2 => { n with banks := BitVec.ofNat 128 map }
  | 3 => { n with ways := smTab 0 128 fun i => if map / 2 ^ i % 2 = 1 then BitVec.ofNat 16 ways else 0 }
  | 4 => { n with channels := BitVec.ofNat 384 map }
  | 5 => { n with copy := BitVec.ofNat 16 map }
  | 6 => { n with ual := BitVec.ofNat 16 map }
  | 7 => { n with raster := BitVec.ofNat 4 map }
  | 8 => { n with stack := BitVec.ofNat 12 map }
  | 9 => { n with queues := BitVec.ofNat 1024 map }
  | 10 => { n with counters := BitVec.ofNat 4096 map }
  | 11 => { n with regions := BitVec.ofNat 256 map }
  | _ => n

/-- The dies of some memory channels. -/
def channelDies (b : BitVec 384) : BitVec 4 :=
  BitVec.ofNat 4 (((List.range 4).filter fun d => (bitList b).any fun c => channelDie c == d).map (2 ^ ·)).sum

-- Grant records (Table 17.4)

/-- The 64 bytes of a grant record as a number. -/
structure GrantRec where
  raw : Nat
  deriving DecidableEq, Repr

/-- KIND. -/
def GrantRec.kind (g : GrantRec) : Nat := bits g.raw 7 0
/-- Bits hi..lo of the doubleword at a byte offset. -/
def GrantRec.f (g : GrantRec) (byte hi lo : Nat) : Nat := bits g.raw (8 * byte + hi) (8 * byte + lo)
/-- The bitmap of units named. -/
def GrantRec.map (g : GrantRec) : Nat := g.raw / 2 ^ 256 * 2 ^ bits g.raw 31 16
/-- The units named. -/
def GrantRec.units (g : GrantRec) : Units := unitsOf g.kind g.map (g.f 8 15 0)

/-- A record of a mask kind is legal: its res0 fields, and every unit it names exists (R392). -/
def GrantRec.maskLegal (g : GrantRec) : Bool :=
  1 ≤ g.kind && g.kind ≤ 11 && g.f 0 15 8 == 0 && g.f 0 63 32 == 0 && g.map < 2 ^ kindCount g.kind &&
  (if g.kind = 3 ∨ g.kind = 6 ∨ g.kind = 11 then bits g.raw 255 80 == 0 else bits g.raw 255 64 == 0)

/-- A record of CTXGRANT is legal (R392, Table 17.5). -/
def GrantRec.legal (g : GrantRec) : Bool :=
  g.f 0 15 8 == 0 && g.f 0 63 32 == 0 &&
  match g.kind with
  | 0x10 => g.f 8 63 62 == 0 && g.f 16 63 56 == 0 && g.raw / 2 ^ 208 == 0
  | 0x11 =>
    g.f 8 63 52 == 0 && g.f 16 63 52 == 0 && g.raw / 2 ^ 268 == 0 && g.f 8 51 0 % 2 ^ 21 == 0 && g.f 16 51 0 % 2 ^ 21 == 0 &&
    g.f 24 63 0 % 2 ^ 21 == 0 && g.f 8 51 0 ≤ g.f 16 51 0 && g.f 16 51 0 ≤ 0x000FFFF000000000
  | 0x12 =>
    g.f 8 63 52 == 0 && g.f 16 63 32 == 0 && g.f 24 63 52 == 0 && g.raw / 2 ^ 288 == 0 && g.f 8 51 0 % 65536 == 0 &&
    g.f 24 51 0 % 65536 == 0 && g.f 32 31 0 ≤ 2 ^ 20
  | 0x0B => g.maskLegal && g.f 8 15 12 != 0
  | _ => g.maskLegal

-- Children

/-- The children of a context. -/
def State.children (s : State) (c : Nat) : List (Nat × Ctx) :=
  s.ctxs.filter fun e => e.1 != 0 && e.2.parent == c && e.2.st != .free

/-- Whether a number names a child. -/
def State.isChild (s : State) (c x : Nat) : Bool := (s.children c).any fun e => e.1 == x

/-- The key slots that a context's KEYSELs have bound and that are still bound (R393). -/
def State.keysBoundBy (s : State) (c : Nat) : Nat :=
  (s.keys.filter fun e => e.2.1 != 0 && (s.ctx e.2.1).parent == c).length

-- The checks of a grant (R391–R394)

/-- Units that a revocation in progress is taking from context c or a descendant, c among the revoked (R412). -/
def State.underRevocation (s : State) (c : Nat) : Units :=
  (s.lineage c).foldl (fun u a =>
    ((s.ctx a).revs.filter fun e => !e.2.complete && (s.lineage c).contains e.2.child).foldl (fun u e => u.join e.2.units) u)
    Units.none

/-- Whether units are busy with the issuer's work (R394). -/
def State.unitsBusy (s : State) (c : Nat) (u : Units) : Bool :=
  let own := (s.ctx c).own
  let opOn (cls : Nat) (m : Nat) : Bool := s.ops.any fun o => o.tag.ctx == c && o.tag.eng == cls && m / 2 ^ o.unit % 2 == 1
  (u.banks != 0 && (List.range 4).any fun d =>
    2 ^ 21 * ((bitList (own.banks &&& ~~~u.banks)).filter fun g => g / 32 == d).length < s.spadUsed c d) ||
  opOn 1 u.copy.toNat || opOn 4 u.stack.toNat || opOn 6 u.raster.toNat ||
  (s.posted.any fun e => e.2.ctx == c &&
    ((e.2.parts.any fun p => p.sent.any fun x => x.2.1 < 16 && u.ual.getLsbD x.2.1) ||
      match e.2.st with
      | .armed k _ _ => u.counters.getLsbD k
      | _ => false)) ||
  (s.passes.any fun e => e.2.ctx == c && e.2.fronts.any fun f => u.raster.getLsbD f) ||
  ((bitList u.queues).any fun q => (s.qcb q).widx != (s.qcb q).ridx || (s.qcb q).qstate == 3) ||
  u.regions.getLsbD 0

/-- Units that are unscrubbed and came from another context than the child (R394). -/
def State.unscrubbed (s : State) (c child : Nat) (u : Units) : Bool :=
  (s.ctx c).revs.any fun e =>
    e.2.complete && !e.2.scrubbed && (e.2.whole || e.2.child != child) && !(e.2.units.meet u).isNone

/-- A context with the values of a grant of kind 0x10 (Table 17.5). -/
def Ctx.setBudget (t : Ctx) (g : GrantRec) : Ctx :=
  { t with
    frameq := BitVec.ofNat 32 (g.f 8 31 0), uaq := BitVec.ofNat 16 (g.f 8 47 32), entq := BitVec.ofNat 14 (g.f 8 61 48),
    quantum := BitVec.ofNat 32 (g.f 16 31 0), bww := BitVec.ofNat 16 (g.f 16 39 32),
    childmax := BitVec.ofNat 16 (g.f 16 55 40), keymax := BitVec.ofNat 16 (g.f 24 15 0) }

/-- The budgets of a context keep their sums: what its children hold and what it uses itself is at most its own value; and no
child has a longer QUANTUM (R393). -/
def State.budgetSums (s : State) (c : Nat) : Bool :=
  let p := s.ctx c
  let kids := (s.children c).map (·.2)
  let sum (f : Ctx → Nat) : Nat := (kids.map f).sum
  sum (fun x => x.frameq.toNat) + (p.frames.map (·.2)).sum ≤ p.frameq.toNat &&
  sum (fun x => x.uaq.toNat) + s.heldUnits c ≤ p.uaq.toNat &&
  sum (fun x => x.entq.toNat) + (s.posted.filter fun e => e.2.ctx == c).length ≤ p.entq.toNat &&
  sum (fun x => x.childmax.toNat) + kids.length ≤ p.childmax.toNat &&
  sum (fun x => x.keymax.toNat) + s.keysBoundBy c ≤ p.keymax.toNat &&
  (p.quantum == 0 || kids.all fun x => x.quantum.toNat ≤ p.quantum.toNat)

/-- A grant of budgets breaks none of the sums, of the parent or of the child (R393; of the child too, which is a parent of its
own: DEDUCED). -/
def State.budgetOk (s : State) (c child : Nat) (g : GrantRec) : Bool :=
  let s := s.onCtx child fun t => t.setBudget g
  s.budgetSums c && s.budgetSums child

/-- The presentation-mode and channel rules of a region grant (R236, Table 17.5). -/
def State.regionGrantOk (s : State) (child : Nat) (g : GrantRec) : Bool :=
  let x := s.ctx child
  let m := g.f 8 15 12
  let dies := (List.range 4).filter fun d => m / 2 ^ d % 2 == 1
  (dies.all fun d => (channelDies x.own.channels).getLsbD d) &&
  match x.pmode with
  | 1 => m == m &&& 3 || m == m &&& 12
  | 2 => dies.length == 1
  | _ => true

/-- The sheet lies in the parent's, and in regions that the child or an ancestor holds (R219, R391). -/
def State.sheetOk (s : State) (c child : Nat) (g : GrantRec) : Bool :=
  let p := s.ctx c
  let b := g.f 8 51 0
  let l := g.f 16 51 0
  let off := g.f 24 63 0
  let at' (x : Nat) : Nat := (x + off) % 2 ^ 64
  b == l || (p.sbase.toNat ≤ at' b && at' l ≤ p.slimit.toNat && at' b ≤ at' l &&
    let pa := (at' b + p.csoff.toNat) % 2 ^ 64
    (List.range ((pa % 2 ^ 32 + (l - b) + 2 ^ 32 - 1) / 2 ^ 32)).all fun i =>
      let r := pa / 2 ^ 32 + i
      r < 256 && (child :: s.lineage c).any fun a => (s.ctx a).own.regions.getLsbD r)

/-- The save area covers core groups and bank groups: 7 MiB and 2 MiB each (Table 17.5). -/
def Ctx.saveCovers (t : Ctx) (u : Units) : Bool :=
  let h := t.own.join u
  7 * (bitList h.groups).length + 2 * (bitList h.banks).length ≤ t.savesz.toNat

/-- A PJOB that another context with ports uses (R313). -/
def State.pjobUsed (s : State) (child : Nat) (v : BitVec 16) : Bool :=
  s.ctxs.any fun e => e.1 != child && e.2.st != .free && e.2.own.ual != 0 && e.2.pjob == v

/-- The result code of a grant by context c to its child, 0 where it is performed (R392–R394, Table 17.7). -/
def State.grantCode (s : State) (c child : Nat) (g : GrantRec) : Nat :=
  let x := s.ctx child
  let u := g.units
  if !g.legal then 1
  else if g.kind = 0x11 then
    if x.st ≠ .new ∧ x.st ≠ .stopped then 7 else if s.sheetOk c child g then 0 else 9
  else if g.kind = 0x12 then if x.st ≠ .new then 7 else 0
  else if g.kind = 0x10 then if s.budgetOk c child g then 0 else 4
  else if !(u.minus (s.ctx c).own).isNone || !(u.meet (s.underRevocation c)).isNone then 4
  else if s.unscrubbed c child u then 6
  else if s.unitsBusy c u then 5
  else if g.kind = 6 ∧ s.pjobUsed child (BitVec.ofNat 16 (g.f 8 15 0)) then 9
  else if g.kind = 0x0B ∧ !s.regionGrantOk child g then 9
  else if (g.kind = 1 ∨ g.kind = 2) ∧ !x.saveCovers u then 7
  else 0

-- Ending own use of units

/-- Whether work of a context is on some core groups. -/
def State.onGroups (s : State) (c : Nat) (g : BitVec 128) : Bool :=
  (s.trays.any fun e => e.2.ctx == c && g.getLsbD (e.1 / 256)) ||
  s.batches.any fun e => e.2.ctx == c && match e.2.core with
    | some k => g.getLsbD (k / 8)
    | none => false

/-- The batches of a context on some core groups are evicted whole, and none is placed there (R394, R413). -/
def State.clearGroups (s : State) (c : Nat) (g : BitVec 128) : State :=
  let on (b : Batch) : Bool := b.ctx == c && match b.core with
    | some k => g.getLsbD (k / 8)
    | none => false
  let s := (s.onCtx c fun t => { t with noPlace := t.noPlace ||| g }).unplace fun _ b => on b
  ((s.batches.filter fun e => on e.2).map (·.1)).foldl (fun s b => s.evictBatch b) s

/-- Core groups take a context's batches again. -/
def State.freeGroups (s : State) (c : Nat) (g : BitVec 128) : State :=
  s.onCtx c fun t => { t with noPlace := t.noPlace &&& ~~~g }

/-- The lines in some ways of the dies' caches are written back and invalidated (R394, R412, R413). -/
def State.emptyUnits (s : State) (u : Units) : State := u.ways.foldl (fun s e => s.emptyWays e.1 e.2) s

/-- The lines in some ways of the dies' caches are discarded (R412). -/
def State.discardUnits (s : State) (u : Units) : State := u.ways.foldl (fun s e => s.dropWays e.1 e.2) s

/-- Give a context units, or take them; the dies of its channels follow (Table 9.1). -/
def State.setOwn (s : State) (c : Nat) (f : Units → Units) : State :=
  s.onCtx c fun t => { t with own := f t.own, diemask := channelDies (f t.own).channels }

/-- Units pass from a context to its child. -/
def State.passUnits (s : State) (c child : Nat) (u : Units) : State :=
  let s := s.emptyUnits u
  let s := (s.setOwn c fun o => o.minus u).setOwn child fun o => o.join u
  s.onCtx c fun t => { t with revs := t.revs.all' fun _ r => if r.scrubbed then r else { r with units := r.units.minus u } }

/-- Perform a grant that passed its checks (R399). -/
def State.grantGo (s : State) (c child : Nat) (g : GrantRec) : State :=
  match g.kind with
  | 0x10 => s.onCtx child fun t => t.setBudget g
  | 0x11 =>
    let p := s.ctx c
    (s.onCtx child fun t => { t with
      sbase := BitVec.ofNat 52 (g.f 8 51 0), slimit := BitVec.ofNat 52 (g.f 16 51 0), soff := BitVec.ofNat 64 (g.f 24 63 0),
      csoff := BitVec.ofNat 64 (g.f 24 63 0) + p.csoff, skey := BitVec.ofNat 12 (g.f 32 11 0) }).invalidate child 0 0
  | 0x12 => s.onCtx child fun t => { t with
      savebase := BitVec.ofNat 52 (g.f 8 51 0), savesz := BitVec.ofNat 32 (g.f 16 31 0),
      poolbase := BitVec.ofNat 52 (g.f 24 51 0), pooln := BitVec.ofNat 32 (g.f 32 31 0) }
  | k =>
    let s := (s.passUnits c child g.units).freeGroups c g.units.groups
    if k = 6 then s.onCtx child fun t => { t with pjob := BitVec.ofNat 16 (g.f 8 15 0) }
    else if k = 0x0B then
      let seed := BitVec.ofNat 12 (g.f 8 11 0)
      let m := g.f 8 15 12
      let chans := (bitList (s.ctx child).own.channels).filter fun ch => m / 2 ^ channelDie ch % 2 == 1
      let set := BitVec.ofNat 384 (chans.map (2 ^ ·)).sum
      (bitList g.units.regions).foldl (fun s r => { s with regions := s.regions.put r ⟨1, seed, set⟩ })
        (s.onCtx child fun t => { t with seed := seed })
    else s

end Sys2Proof.Machine
end

