-- ==== Sys2Proof/Machine/Sha.lean ====
section
/-!
DEFINITION. SHA-384, which digests context images and scrub receipts (R402, R413).
-/

namespace Sys2Proof.Machine

/-- Round constants 0 to 19. -/
def shaK0 : List DWord := [
  0x428A2F98D728AE22, 0x7137449123EF65CD, 0xB5C0FBCFEC4D3B2F, 0xE9B5DBA58189DBBC,
  0x3956C25BF348B538, 0x59F111F1B605D019, 0x923F82A4AF194F9B, 0xAB1C5ED5DA6D8118,
  0xD807AA98A3030242, 0x12835B0145706FBE, 0x243185BE4EE4B28C, 0x550C7DC3D5FFB4E2,
  0x72BE5D74F27B896F, 0x80DEB1FE3B1696B1, 0x9BDC06A725C71235, 0xC19BF174CF692694,
  0xE49B69C19EF14AD2, 0xEFBE4786384F25E3, 0x0FC19DC68B8CD5B5, 0x240CA1CC77AC9C65]

/-- Round constants 20 to 39. -/
def shaK1 : List DWord := [
  0x2DE92C6F592B0275, 0x4A7484AA6EA6E483, 0x5CB0A9DCBD41FBD4, 0x76F988DA831153B5,
  0x983E5152EE66DFAB, 0xA831C66D2DB43210, 0xB00327C898FB213F, 0xBF597FC7BEEF0EE4,
  0xC6E00BF33DA88FC2, 0xD5A79147930AA725, 0x06CA6351E003826F, 0x142929670A0E6E70,
  0x27B70A8546D22FFC, 0x2E1B21385C26C926, 0x4D2C6DFC5AC42AED, 0x53380D139D95B3DF,
  0x650A73548BAF63DE, 0x766A0ABB3C77B2A8, 0x81C2C92E47EDAEE6, 0x92722C851482353B]

/-- Round constants 40 to 59. -/
def shaK2 : List DWord := [
  0xA2BFE8A14CF10364, 0xA81A664BBC423001, 0xC24B8B70D0F89791, 0xC76C51A30654BE30,
  0xD192E819D6EF5218, 0xD69906245565A910, 0xF40E35855771202A, 0x106AA07032BBD1B8,
  0x19A4C116B8D2D0C8, 0x1E376C085141AB53, 0x2748774CDF8EEB99, 0x34B0BCB5E19B48A8,
  0x391C0CB3C5C95A63, 0x4ED8AA4AE3418ACB, 0x5B9CCA4F7763E373, 0x682E6FF3D6B2B8A3,
  0x748F82EE5DEFB2FC, 0x78A5636F43172F60, 0x84C87814A1F0AB72, 0x8CC702081A6439EC]

/-- Round constants 60 to 79. -/
def shaK3 : List DWord := [
  0x90BEFFFA23631E28, 0xA4506CEBDE82BDE9, 0xBEF9A3F7B2C67915, 0xC67178F2E372532B,
  0xCA273ECEEA26619C, 0xD186B8C721C0C207, 0xEADA7DD6CDE0EB1E, 0xF57D4F7FEE6ED178,
  0x06F067AA72176FBA, 0x0A637DC5A2C898A6, 0x113F9804BEF90DAE, 0x1B710B35131C471B,
  0x28DB77F523047D84, 0x32CAAB7B40C72493, 0x3C9EBE0A15C9BEBC, 0x431D67C49C100D4C,
  0x4CC5D4BECB3E42B6, 0x597F299CFC657E2A, 0x5FCB6FAB3AD6FAEC, 0x6C44198C4A475817]

/-- The 80 round constants: the first 64 fraction bits of the cube roots of the first 80 primes. -/
def shaK : List DWord := shaK0 ++ shaK1 ++ shaK2 ++ shaK3

/-- The initial digest words of SHA-384: the fraction bits of the square roots of the ninth to sixteenth primes. -/
def shaInit : List DWord := [
  0xCBBB9D5DC1059ED8, 0x629A292A367CD507, 0x9159015A3070DD17, 0x152FECD8F70E5939,
  0x67332667FFC00B31, 0x8EB44A8768581511, 0xDB0C2E0D64F98FA7, 0x47B5481DBEFA4FA4]

/-- The eight working words. -/
structure ShaState where
  a : DWord
  b : DWord
  c : DWord
  d : DWord
  e : DWord
  f : DWord
  g : DWord
  h : DWord
  deriving DecidableEq, Repr

/-- The big and small sigma functions. -/
def shaS0 (x : DWord) : DWord := x.rotateRight 28 ^^^ x.rotateRight 34 ^^^ x.rotateRight 39
/-- Of the word e. -/
def shaS1 (x : DWord) : DWord := x.rotateRight 14 ^^^ x.rotateRight 18 ^^^ x.rotateRight 41
/-- Of the schedule, 15 words back. -/
def shaT0 (x : DWord) : DWord := x.rotateRight 1 ^^^ x.rotateRight 8 ^^^ x >>> 7
/-- Of the schedule, 2 words back. -/
def shaT1 (x : DWord) : DWord := x.rotateRight 19 ^^^ x.rotateRight 61 ^^^ x >>> 6

/-- One round with a constant and a schedule word. -/
def ShaState.round (s : ShaState) (k w : DWord) : ShaState :=
  let t1 := s.h + shaS1 s.e + ((s.e &&& s.f) ^^^ (~~~s.e &&& s.g)) + k + w
  let t2 := shaS0 s.a + ((s.a &&& s.b) ^^^ (s.a &&& s.c) ^^^ (s.b &&& s.c))
  ⟨t1 + t2, s.a, s.b, s.c, s.d + t1, s.e, s.f, s.g⟩

/-- The rounds of a block, with the next sixteen words of its schedule. -/
def shaRounds : List DWord → ShaState → List DWord → ShaState
  | [], s, _ => s
  | k :: ks, s, w =>
    let next := shaT1 (w.getD 14 0) + w.getD 9 0 + shaT0 (w.getD 1 0) + w.getD 0 0
    shaRounds ks (s.round k (w.getD 0 0)) (w.drop 1 ++ [next])

/-- A block is added to the digest so far. -/
def ShaState.block (s : ShaState) (w : List DWord) : ShaState :=
  let r := shaRounds shaK s w
  ⟨s.a + r.a, s.b + r.b, s.c + r.c, s.d + r.d, s.e + r.e, s.f + r.f, s.g + r.g, s.h + r.h⟩

/-- The number eight bytes hold, the first most significant. -/
def beWord (l : List Byte) : DWord := l.foldl (fun a b => a * 256 + b.setWidth 64) 0

/-- The 16 words of a block of 128 bytes. -/
def shaWords (l : List Byte) : List DWord := (List.range 16).map fun i => beWord ((l.drop (8 * i)).take 8)

/-- The message with its padding. -/
def shaPad (m : List Byte) : List Byte :=
  m ++ [0x80#8] ++ List.replicate ((239 - m.length % 128) % 128) 0 ++
    (List.range 16).map fun i => BitVec.ofNat 8 (8 * m.length / 256 ^ (15 - i))

/-- The blocks of a padded message. -/
def shaBlocks : Nat → ShaState → List Byte → ShaState
  | 0, s, _ => s
  | n + 1, s, l => shaBlocks n (s.block (shaWords (l.take 128))) (l.drop 128)

/-- The eight bytes of a word, the first most significant. -/
def beBytes (w : DWord) : List Byte := (List.range 8).map fun i => (w >>> (56 - 8 * i)).setWidth 8

/-- The SHA-384 digest of a message: 48 bytes. -/
def sha384 (m : List Byte) : List Byte :=
  let i := shaInit
  let p := shaPad m
  let s := shaBlocks (p.length / 128)
    ⟨i.getD 0 0, i.getD 1 0, i.getD 2 0, i.getD 3 0, i.getD 4 0, i.getD 5 0, i.getD 6 0, i.getD 7 0⟩ p
  [s.a, s.b, s.c, s.d, s.e, s.f].flatMap beBytes

end Sys2Proof.Machine
end

