-- ==== Sys2Proof/Machine/Image.lean ====
section
/-!
DEFINITION. Context images: what CTXSAVE writes and CTXLOAD reads (R402).
-/

namespace Sys2Proof.Machine

-- CTXSAVE

/-- The trigger counters of a set of units, with their eight bytes each (Table 14.2). -/
def State.trigBytes (s : State) (u : Units) : List Byte :=
  (bitList u.counters).flatMap fun k =>
    let x := s.trig k
    bytesOf 8 (f2 x.value.toNat 32 (f2 x.kind 16 x.err))

/-- The saved batches of a context as the save area has them, and the clusters whose region has held scratchpad. -/
def State.imageBatches (s : State) (c : Nat) : List Batch :=
  (s.batches.filter fun e => e.2.ctx == c && !e.2.image.isEmpty).map fun e => (s.savedBatch e.2).getD e.2

/-- The cluster regions that belong to a context's image. -/
def State.imageClusters (s : State) (c : Nat) : List Cluster :=
  (s.clusters.filter fun e => e.2.ctx == c && e.2.size != 0 && (e.2.saved || e.2.die.isSome)).map (·.2)

/-- The bytes of a context's image after its header (R402). -/
def State.imageBody (s : State) (c : Nat) : List Byte :=
  (List.range 48).flatMap (fun k => bytesOf 8 (s.ctlDword c (8 * k))) ++ s.trigBytes (s.ctx c).own ++
    (s.imageBatches c).flatMap Batch.imageBytes ++ (s.imageClusters c).flatMap Cluster.imageBytes

/-- The image of a context (R402). -/
def State.ctxImage (s : State) (c : Nat) : List Byte :=
  let body := s.imageBody c
  bytesOf 8 (256 + body.length) ++ bytesOf 4 c ++ bytesOf 4 (f2 (s.ctx c).pmode 16 1) ++
    bytesOf 4 (s.imageBatches c).length ++ bytesOf 4 (s.imageClusters c).length ++
    bytesOf 4 (bitList (s.ctx c).own.counters).length ++ bytesOf 36 0 ++ sha384 body ++ bytesOf 144 0 ++ body

/-- Operations outstanding of a context in all engines (R402, R403). -/
def State.opsOf (s : State) (c : Nat) : Nat := (s.ops.filter fun o => o.tag.ctx == c).length

/-- A context can be saved: it is at rest and holds no child, operation, entry, pass or slice (R402). -/
def State.canSave (s : State) (c : Nat) : Bool :=
  ((s.ctx c).st == .stopped || (s.ctx c).st == .halted) && (s.children c).isEmpty && s.opsOf c == 0 &&
  (s.posted.all fun e => e.2.ctx != c) && (s.passes.all fun e => e.2.ctx != c) && (s.ctx c).slices.isEmpty

-- CTXLOAD

/-- A tray from its image alone, at an offset, and where it ends (R410). Its identity is what its registers hold; threads
that no mask of the image names are live or not as `Config.loadedLive` says. A word it waits at, a latch or a park, is
performed again, and counted again. -/
def loadedTray (c batch idx ticks : Nat) (batchId : DWord) (dual : Bool) (prio : Nat) (a : Array Byte) (off : Nat) :
    Option (Tray × Nat) :=
  let n := imgNum a (off + 32) 4 % 2048
  let t0 := Tray.start c batch idx 0 batchId 0 0 dual n prio 1 [] 0 (BitVec.allOnes 96)
  if n % 16 ≠ 0 ∨ n < 16 ∨ 1024 < n then none
  else match ({ t0 with entryWord := none }).ofImage a off with
    | none => none
    | some (t, e) =>
      let st (p : Path) : Mask := p.stack.foldl (fun m x => m ||| x.f ||| x.p) p.mask
      let m := st t.p0 ||| ((t.p1.map st).getD 0) ||| Config.loadedLive ticks off
      let back (c : Ctr) (n : Nat) : Nat := n - bits (imgNum a (off + 52) 12) (4 + c.number) (4 + c.number)
      let waits := [5, 10].contains (bits (imgNum a (off + 52) 12) 3 0)
      some ({ t with
        launch := m, live := m,
        clusterId := t.sreg 0 6,
        wait := Wait.ofCode (imgNum a (off + 52) 12),
        loads := if waits then back .loads t.loads else t.loads,
        stores := if waits then back .stores t.stores else t.stores,
        copies := if waits then back .copies t.copies else t.copies,
        matrix := if waits then back .matrix t.matrix else t.matrix,
        redeliver := t.cause != 0 }, e)

/-- The trays of a batch image, from an offset. -/
def loadedTrays (c batch ticks : Nat) (batchId : DWord) (dual : Bool) (prio : Nat) (a : Array Byte) :
    Nat → Nat → Nat → Option (KMap Tray × Nat)
  | 0, _, off => some ([], off)
  | k + 1, idx, off =>
    match loadedTray c batch idx ticks batchId dual prio a off with
    | none => none
    | some (t, e) =>
      (loadedTrays c batch ticks batchId dual prio a k (idx + 1) e).map fun r => ((idx, t) :: r.1, r.2)

/-- A batch from its image, and where it ends. It belongs to no launch of this package. -/
def loadedBatch (c id ticks : Nat) (a : Array Byte) (off : Nat) : Option (Batch × Nat × Nat) :=
  let x := imgNum a off 32
  let kind := bits x 159 158
  let n := imgNum a (off + 32) 4 % 64
  let size := imgNum a (off + 40) 4
  let map := imgNum a (off + 44) 4 % 65536
  let bid := BitVec.ofNat 64 (bits x 255 192)
  let dual := bits x 155 155 == 1
  let prio := bits x 157 156
  if !recordValid kind x (bits x 143 128) || 2 ≤ kind || n == 0 || 32 < n then none
  else match loadedTrays c id ticks bid dual prio a n 0 (off + 64) with
    | none => none
    | some (l, e) =>
      let tiles := (List.range 16).filter fun k => map / 2 ^ k % 2 = 1
      if e + 3072 * tiles.length ≠ off + size then none
      else some (⟨c, noLaunch, id, none, BitVec.ofNat 48 x, BitVec.ofNat 48 (x / 2 ^ 64), prio, dual, bits x 154 150 + 1,
        16 * (bits x 149 144 + 1), bid, none, true, 0, false, 1, l,
        (List.range tiles.length).filterMap (fun i => (tiles[i]?).map fun k =>
          (k, ⟨id, smTab 0 768 fun j => BitVec.ofNat 32 (imgNum a (e + 3072 * i + 4 * j) 4), false⟩)),
        none, [], false, false⟩, bits x 143 128, e + 3072 * tiles.length)

/-- The batches of an image, k of them from an offset, with their numbers, the launch-table slot of each and its cluster's
number as its first tray has it. -/
def loadedBatches (c ticks : Nat) (a : Array Byte) : Nat → Nat → Nat → Option (List (Nat × Batch × Nat) × Nat)
  | 0, _, off => some ([], off)
  | k + 1, id, off =>
    match loadedBatch c id ticks a off with
    | none => none
    | some (b, slot, e) => (loadedBatches c ticks a k (id + 1) e).map fun r => ((id, b, slot) :: r.1, r.2)

/-- A cluster region of an image: CLUSTERID, launch-table slot, size and bytes. -/
structure LoadedRegion where
  clusterId : Nat
  lslot : Nat
  size : Nat
  data : SMap 8
  deriving DecidableEq, Repr

/-- The regions of an image, k of them from an offset. -/
def loadedRegions (a : Array Byte) : Nat → Nat → Option (List LoadedRegion × Nat)
  | 0, off => some ([], off)
  | k + 1, off =>
    let size := imgNum a (off + 8) 8
    if a.size < off + 32 + size ∨ size % 4096 ≠ 0 then none
    else
      let r : LoadedRegion := ⟨imgNum a off 4, imgNum a (off + 4) 4, size, smTab 0 size fun i => a.getD (off + 32 + i) 0⟩
      (loadedRegions a k (off + 32 + size)).map fun x => (r :: x.1, x.2)

/-- The cluster of a batch in an image: its slot and the CLUSTERID its first tray holds. -/
def clusterOfLoaded (b : Batch) (slot : Nat) : Nat × Nat := (slot, ((b.image.head?).map fun e => e.2.clusterId.toNat).getD 0)

/-- Put the loaded batches into clusters, with their regions (R402, R410). -/
def State.addLoaded (s : State) (c : Nat) (bs : List (Nat × Batch × Nat)) (rs : List LoadedRegion) : State :=
  let keys := (bs.map fun x => clusterOfLoaded x.2.1 x.2.2).eraseDups
  keys.foldl (fun s k =>
    let mine := bs.filter fun x => clusterOfLoaded x.2.1 x.2.2 == k
    let r := rs.find? fun r => r.lslot == k.1 && r.clusterId == k.2
    let id := s.nextId
    let x : Cluster := ⟨c, noLaunch, BitVec.ofNat 32 k.2, none, ((mine.head?).map fun b => b.2.1.prio).getD 0, false,
      mine.map (·.1), (r.map (·.size)).getD 0, (r.map (·.data)).getD [], [], [], true, none⟩
    { s with
      nextId := id + 1,
      clusters := s.clusters.put id x,
      batches := mine.foldl (fun m b => m.put b.1 { b.2.1 with cluster := id }) s.batches,
      ready := s.ready ++ [id] }) s

/-- The fields of an image's control page that the context itself may write take their values (R402, R389). -/
def Ctx.loadPage (t : Ctx) (d : Nat → Nat) : Ctx :=
  { t with
    root := BitVec.ofNat 52 (d 0), sstamp := BitVec.ofNat 52 (d 5), chainbase := BitVec.ofNat 52 (d 6),
    rlog := (ringField (d 8)).1, rring := (ringField (d 8)).2, tlog := (ringField (d 9)).1, tring := (ringField (d 9)).2,
    parkto := BitVec.ofNat 32 (d 11 / 2 ^ 32), invaddr := BitVec.ofNat 52 (d 12),
    invseq := BitVec.ofNat 32 (d 13 / 2 ^ 32), invlen := BitVec.ofNat 32 (d 13), invdone := BitVec.ofNat 32 (d 14),
    spool := BitVec.ofNat 52 (d 16), scnt := BitVec.ofNat 32 (d 17 / 2 ^ 32), scap := BitVec.ofNat 32 (d 17),
    lpool := BitVec.ofNat 52 (d 18), lcnt := BitVec.ofNat 32 (d 19 / 2 ^ 32), lcap := BitVec.ofNat 32 (d 19),
    dacc := BitVec.ofNat 32 (d 21 / 2 ^ 32), dref := BitVec.ofNat 32 (d 21), chainto := BitVec.ofNat 32 (d 22 / 2 ^ 32),
    scrubret := d 22 / 4 % 2 == 1, eager := d 22 / 2 % 2 == 1,
    sllog := BitVec.ofNat 4 (d 23 / 2 ^ 60), slbase := BitVec.ofNat 52 (d 23),
    cowcnt := BitVec.ofNat 64 (d 24), retcnt := BitVec.ofNat 64 (d 25),
    hmask := BitVec.ofNat 64 (d 33), handler := BitVec.ofNat 46 (d 34), slicebud := BitVec.ofNat 32 (d 37) }

/-- The state after a CTXLOAD of an image into child x; none where the image is invalid or the child does not fit it
(R402). -/
def State.loadImageGo (s : State) (x : Nat) (a : Array Byte) : Option State :=
  let t := s.ctx x
  let nb := imgNum a 16 4
  let nr := imgNum a 20 4
  let nt := imgNum a 24 4
  let body := (a.toList).drop 256
  let counters := bitList t.own.counters
  if a.size < 640 || imgNum a 0 8 != a.size || imgNum a 8 4 / 4096 != 0 || imgNum a 12 4 % 65536 != 1 ||
      imgNum a 12 4 / 65536 != t.pmode || imgNum a 28 36 != 0 || imgNum a 112 144 != 0 ||
      (List.range 48).map (fun i => a.getD (64 + i) 0) != sha384 body || nt != counters.length then none
  else
    let page (k : Nat) : Nat := imgNum a (256 + 8 * k) 8
    let at0 := 640 + 8 * nt
    match loadedBatches x s.ticks a nb s.nextId at0 with
    | none => none
    | some (bs, at1) =>
      match loadedRegions a nr at1 with
      | none => none
      | some (rs, at2) =>
        let save := (bs.map fun b => b.2.1.imageBytes.length).sum + (rs.map (·.size)).sum
        if at2 ≠ a.size ∨ t.savesz.toNat * 2 ^ 20 < save ∨
            !bs.all (fun b => (s.roomsEmpty x).any fun r => r.fits b.2.1.ask) then none
        else
          let s := (List.range nt).foldl (fun s i =>
            let v := imgNum a (640 + 8 * i) 8
            s.onTrig (counters.getD i 0) fun _ => ⟨BitVec.ofNat 32 (v / 2 ^ 32), v % 65536, bits v 17 16⟩) s
          let s := { s with nextId := s.nextId + nb }
          some ((s.onCtx x fun t => { t.loadPage page with st := .stopped }).addLoaded x bs rs)

end Sys2Proof.Machine
end

