-- ==== Sys2Proof/Machine/Context.lean ====
section
/-!
DEFINITION. The context engine: the instructions of major 0x33, SCRUB, ALOG and KEYSEL (R396–R403, R412–R415), whose
checks and effects take place when the engine performs them.
-/

namespace Sys2Proof.Machine

-- Issue (R395–R397)

/-- The pair or literal of a B code that may be zero: nothing for code 0xFE. -/
def Src.pairOrNone (r : Src) (b : SB) : Option Nat := if b = .zero then none else some (r.sbz64 b).toNat

/-- Issue a command of the context engine: its operands are read, it is counted in `ctr` and its result is pending. -/
def ctxCommand (ops : List Opnd) (s : State) (ctr : Ctr) (d : BitVec 7) (n : Nat) (quota : State → Tray → Bool)
    (k : Src → Tray → CtxOp) : Host.Outcome State Fault Refusal :=
  engine ops s fun r t s =>
    if r.t.ctrFull ctr then .stay
    else if quota s t then .trap t s [.quota]
    else
      let (t, s) := r.send t s 8 0 noVer (some ctr) (List.range' d.toNat n) [] (.ctx (k r t))
      .ok t s

/-- No quota stands against a command. -/
def noQuota (_ : State) (_ : Tray) : Bool := false

/-- Commands of a kind that a context has in flight. -/
def State.inFlight (s : State) (c : Nat) (p : CtxOp → Bool) : Nat :=
  (s.ops.filter fun o => o.tag.ctx == c && match o.body with
    | .ctx k => p k
    | _ => false).length

/-- CTXNEW (R398, R396). -/
def execCtxnew (d : BitVec 7) (b : SB) (s : State) : Host.Outcome State Fault Refusal :=
  ctxCommand (Instr.ctxnew d b).opnds s .loads d 1
    (fun s t =>
      let n := s.inFlight t.ctx fun k => match k with
        | .new _ _ => true
        | _ => false
      s.ownBudget t.ctx (·.childmax.toNat) ≤ (s.children t.ctx).length + n)
    fun r _ => .new d.toNat (r.sb b)

/-- CTXGRANT (R392, R399). -/
def execCtxgrant (d a : BitVec 7) (b : SB) (s : State) : Host.Outcome State Fault Refusal :=
  ctxCommand (Instr.ctxgrant d a b).opnds s .loads d 1 noQuota fun r _ =>
    .grant d.toNat (r.s a).toNat (r.sbz64 b).toNat false

/-- CTXREVOKE (R412). -/
def execCtxrevoke (d a : BitVec 7) (b : SB) (s : State) : Host.Outcome State Fault Refusal :=
  ctxCommand (Instr.ctxrevoke d a b).opnds s .copies d 1 noQuota fun r _ =>
    .revoke d.toNat (r.s a).toNat (r.sn a 1).toNat (r.pairOrNone b) 0

/-- The command of a CTXRUN: child, the word's bits above it, token, reply and causes (R400). -/
def ctxrunOp (d a : BitVec 7) (b : SB) (r : Src) : CtxOp :=
  .run d.toNat ((r.s a).toNat % 4096) ((r.s a).toNat / 4096) (r.sn a 1).toNat (r.sn a 2) (r.sn a 3) (r.sbz64 b)

/-- CTXRUN with OP 0, run (R400). Which OP a CTXRUN has is in its register. -/
def execCtxrunRun (d a : BitVec 7) (b : SB) (s : State) : Host.Outcome State Fault Refusal :=
  ctxCommand (Instr.ctxrunRun d a b).opnds s .loads d 1 noQuota fun r _ => ctxrunOp d a b r

/-- CTXRUN with OP 1, resume (R400). -/
def execCtxrunResume (d a : BitVec 7) (b : SB) (s : State) : Host.Outcome State Fault Refusal :=
  ctxCommand (Instr.ctxrunRun d a b).opnds s .loads d 1 noQuota fun r _ => ctxrunOp d a b r

/-- CTXRUN with OP 2, resume with reply (R400). -/
def execCtxrunReply (d a : BitVec 7) (b : SB) (s : State) : Host.Outcome State Fault Refusal :=
  ctxCommand (Instr.ctxrunRun d a b).opnds s .loads d 1 noQuota fun r _ => ctxrunOp d a b r

/-- The command of a CTXSTOP: child and stop word (R401). -/
def ctxstopOp (d a : BitVec 7) (b : SB) (r : Src) : CtxOp := .stop d.toNat (r.s a).toNat (r.sb b) false

/-- CTXSTOP with HALT 0, the end of a slice (R401). Which it is stands in the stop word. -/
def execCtxstopSlice (d a : BitVec 7) (b : SB) (s : State) : Host.Outcome State Fault Refusal :=
  ctxCommand (Instr.ctxstopSlice d a b).opnds s .copies d 1 noQuota fun r _ => ctxstopOp d a b r

/-- CTXSTOP with HALT 1 (R401). -/
def execCtxstopHalt (d a : BitVec 7) (b : SB) (s : State) : Host.Outcome State Fault Refusal :=
  ctxCommand (Instr.ctxstopSlice d a b).opnds s .copies d 1 noQuota fun r _ => ctxstopOp d a b r

/-- CTXSAVE (R402). -/
def execCtxsave (d a : BitVec 7) (b : SB) (s : State) : Host.Outcome State Fault Refusal :=
  ctxCommand (Instr.ctxsave d a b).opnds s .copies d 1 noQuota fun r _ =>
    .save d.toNat (r.s a).toNat (r.sbz64 b).toNat

/-- CTXLOAD (R402). -/
def execCtxload (d a : BitVec 7) (b : SB) (s : State) : Host.Outcome State Fault Refusal :=
  ctxCommand (Instr.ctxload d a b).opnds s .copies d 1 noQuota fun r _ =>
    .load d.toNat (r.s a).toNat (r.sbz64 b).toNat

/-- CTXQ (R403). -/
def execCtxq (d a : BitVec 7) (b : SB) (s : State) : Host.Outcome State Fault Refusal :=
  ctxCommand (Instr.ctxq d a b).opnds s .loads d 4 noQuota fun r _ => .query d.toNat (r.s a).toNat (r.sb b).toNat

/-- SCRUB (R413). -/
def execScrub (d a : BitVec 7) (b : SB) (s : State) : Host.Outcome State Fault Refusal :=
  ctxCommand (scrubOpnds d a b) s .copies d 1 noQuota fun r _ => .scrub d.toNat (r.s a).toNat (r.sbz64 b).toNat false

/-- ALOG (R415). -/
def execAlog (d a : BitVec 7) (b : SB) (s : State) : Host.Outcome State Fault Refusal :=
  ctxCommand (alogOpnds d a b) s .loads d 1 noQuota fun r _ => .alog d.toNat (r.s a) (r.pairOrNone b)

/-- KEYSEL with a key blob, binding beyond KEYMAX refused (R414, R396). -/
def keyselCommand (d a : BitVec 7) (b : SB) (s : State) : Host.Outcome State Fault Refusal :=
  ctxCommand (keyselBindOpnds d a b) s .loads d 1
    (fun s t =>
      let n := s.inFlight t.ctx fun k => match k with
        | .keysel _ _ _ va => va.isSome
        | _ => false
      b != .zero && s.ownBudget t.ctx (·.keymax.toNat) ≤ s.keysBoundBy t.ctx + n)
    fun r _ => .keysel d.toNat (r.s a).toNat (r.sn a 1).toNat (r.pairOrNone b)

/-- KEYSEL, binding (R414). -/
def execKeyselBind (d a : BitVec 7) (b : SB) (s : State) : Host.Outcome State Fault Refusal := keyselCommand d a b s

/-- KEYSEL, unbinding: B is zero (R414). -/
def execKeyselUnbind (d a : BitVec 7) (b : SB) (s : State) : Host.Outcome State Fault Refusal := keyselCommand d a b s

-- Performing

/-- What performing a command comes to: the registers it returns, or nothing where it still takes time; and the state. -/
abbrev CtxRes := Option (List RegWrite) × State

/-- A command fails: 0xFFFF0000 + code in s(d), and nothing changes (R396). -/
def ctxFail (s : State) (d code : Nat) : CtxRes := (some [.s d (BitVec.ofNat 32 (0xFFFF0000 + code))], s)

/-- A command is done with a value in s(d). -/
def ctxDone (s : State) (d v : Nat) : CtxRes := (some [.s d (BitVec.ofNat 32 v)], s)

/-- A write of a command's result to its context's memory (R402, R413): it waits for a frame (R247); any other fault, and one
that such a wait ends with, is an error. The first component says that it is written. -/
def State.ctxWr (s : State) (o : Op) (va : Nat) (l : List Byte) : Option Bool × State :=
  if o.phase = 3 then (some false, s)
  else match s.opWr o va (clean l) with
    | (s, none) => (some true, s)
    | (s, some f) => if f.kind = .poolempty then (none, (s.opFault o f true 64).2) else (some false, s)

/-- What stands against such a write before it is made. -/
def State.ctxReady (s : State) (o : Op) (va n : Nat) : Option Bool × State :=
  if o.phase = 3 then (some false, s)
  else match s.engReady o.tag.ctx va n o.tag.step with
    | (s, none) => (some true, s)
    | (s, some f) => if f.kind = .poolempty then (none, (s.opFault o f true 64).2) else (some false, s)

/-- CTXNEW performed (R387, R398). -/
def State.newGo (s : State) (c d : Nat) (w : Word) : CtxRes :=
  let p := s.ctx c
  if 3 ≤ w.toNat then ctxFail s d 1
  else if w.toNat < p.pmode then ctxFail s d 9
  else match (List.range 4096).find? fun n => n != 0 && ((s.ctxs.get? n).map fun x => x.st == .free).getD true with
    | none => ctxFail s d 3
    | some n =>
      if 6 ≤ p.depth then ctxFail s d 3
      else
        let x : Ctx := { Ctx.blank with st := .new, parent := c, depth := p.depth + 1, pmode := w.toNat }
        ctxDone { s with ctxs := s.ctxs.put n x } d n

/-- CTXGRANT performed (R392–R394, R399): core groups with batches of the issuer wait until these are evicted. -/
def State.grantRun (s : State) (o : Op) (d child va : Nat) (begun : Bool) : CtxRes :=
  let c := o.tag.ctx
  if !s.isChild c child then ctxFail s d 2
  else match s.engTake c va 64 with
    | (none, s) => ctxFail s d 8
    | (some x, s) =>
      let g : GrantRec := ⟨x⟩
      let code := s.grantCode c child g
      if code ≠ 0 then ctxFail (if begun then s.freeGroups c g.units.groups else s) d code
      else if g.kind = 1 ∧ s.onGroups c g.units.groups then
        (none, if begun then s
               else (s.clearGroups c g.units.groups).onOp o.id fun o => { o with body := .ctx (.grant d child va true) })
      else ctxDone (s.grantGo c child g) d 0

-- CTXRUN (R400)

/-- The reply and the cleared causes of a tray that a resume names. -/
def Tray.replyRun (t : Tray) (reply : Option (Word × Word)) (m : DWord) : Tray :=
  let t := { t with cause := t.cause &&& ~~~m }
  match reply, t.wait with
  | some (x, y), .reflected _ (some k) => (t.setSreg t.hslot k x).setSreg t.hslot (k + 1) y
  | _, _ => t

/-- A tray parked by a reflection resumes (R400, R405): at EPC, or after a TREFL at the next word; causes that are left are
delivered. -/
def Tray.unreflect (t : Tray) : Tray :=
  let t1 := { t with wait := .run, redeliver := t.cause != 0 }
  match t.wait with
  | .reflected _ _ => if t.cause = 0 then t1.resume t1.hslot t1.epc else t1
  | _ => t1

/-- A tray may be resumed by OP 1, or by OP 2 where a SYS parked it (R400). -/
def Tray.resumable (t : Tray) (c token op : Nat) : Bool :=
  t.ctx == c && t.wait.token? == some token &&
  (op == 1 || match t.wait with
    | .reflected _ (some _) => true
    | _ => false)

/-- CTXRUN performed (R400); `op` is the register word above the child's number. The core of a tray that resumes acquires, as a
saved one does when it is placed (R397). -/
def State.runGo (s : State) (c d child op token : Nat) (r0 r1 : Word) (m : DWord) : CtxRes :=
  if !s.isChild c child then ctxFail s d 2
  else match op with
    | 0 =>
      if m ≠ 0 then ctxFail s d 1
      else if (s.ctx child).st ≠ .new ∧ (s.ctx child).st ≠ .stopped then ctxFail s d 7
      else ctxDone ((s.onCtx child fun t => { t with st := .running, follow := false }).restart child 6) d 0
    | 16 | 32 =>
      let k := op / 16
      let reply := if k = 2 then some (r0, r1) else none
      match s.trays.find? fun e => e.2.resumable child token k with
      | some e =>
        let s := ((s.setTray e.1 (e.2.replyRun reply m).unreflect).hear (e.1 / 32)).l1Inval (e.1 / 32) false
        ctxDone (if (e.2.replyRun reply m).cause = 0 then s else s.redeliver e.1) d 0
      | none =>
        if s.batches.any fun b => b.2.image.any fun e => e.2.resumable child token k then
          ctxDone (s.onSavedAll (fun t => t.resumable child token k) fun t => (t.replyRun reply m).unreflect) d 0
        else ctxFail s d 7
    | _ => ctxFail s d 1

/-- CTXSTOP performed (R401): it completes once the child is STOPPED or HALTED. -/
def State.stopRun (s : State) (o : Op) (d child : Nat) (w : Word) (begun : Bool) : CtxRes :=
  let st := (s.ctx child).st
  let begin' (s : State) : CtxRes :=
    (none, s.onOp o.id fun o => { o with body := .ctx (.stop d child w true) })
  if !s.isChild o.tag.ctx child then ctxFail s d 2
  else if begun then
    if (st == .stopped && !w.getLsbD 0) || st == .halted then ctxDone s d 0 else (none, s)
  else if w.getLsbD 0 then
    if st == .halted then ctxDone s d 0 else begin' (s.haltLine child)
  else if st != .running then ctxFail s d 7
  else begin' (s.sliceEnd child false)

/-- CTXSAVE performed (R402). -/
def State.saveGo (s : State) (o : Op) (d child va : Nat) : CtxRes :=
  if !s.isChild o.tag.ctx child then ctxFail s d 2
  else if !s.canSave child then ctxFail s d 7
  else
    let l := s.ctxImage child
    match s.ctxWr o va l with
    | (none, s) => (none, s)
    | (some true, s) => ctxDone s d ((l.length + 4095) / 4096)
    | (some false, s) => ctxFail s d 8

/-- CTXLOAD performed (R402). -/
def State.loadGo (s : State) (o : Op) (d child va : Nat) : CtxRes :=
  let c := o.tag.ctx
  if !s.isChild c child then ctxFail s d 2
  else if (s.ctx child).st ≠ .new then ctxFail s d 7
  else match s.engTake c va 8 with
    | (none, s) => ctxFail s d 8
    | (some size, s) =>
      if size < 640 ∨ 2 ^ 40 < size then ctxFail s d 12
      else match s.engRd c va size with
        | .error _ => ctxFail s d 8
        | .ok (s, l) =>
          if l.any (·.2) then ctxFail s d 8
          else match s.loadImageGo child (l.map (·.1)).toArray with
            | none => ctxFail s d 12
            | some s => ctxDone s d 0

/-- How many units a set holds, a cache bank counting once. -/
def Units.count (u : Units) : Nat :=
  ((List.range 11).map fun k => ((List.range (kindCount (k + 1))).filter fun i => u.ofKind (k + 1) / 2 ^ i % 2 = 1).length).sum

/-- The units that a revocation in progress on a context has not returned (R403). -/
def State.unitsOwed (s : State) (x : Nat) : Nat :=
  ((s.lineage x).map fun a =>
    (((s.ctx a).revs.filter fun e => !e.2.complete && (s.lineage x).contains e.2.child).map fun e => e.2.units.count).sum).sum

/-- CTXQ performed (R403). -/
def State.queryCtx (s : State) (c d x sel : Nat) : CtxRes :=
  if !s.isAncestor c x || (s.ctx x).st == .free then ctxFail s d 2
  else
    let t := s.ctx x
    let four (a b e f : Nat) : CtxRes :=
      (some [.s d (BitVec.ofNat 32 a), .s (d + 1) (BitVec.ofNat 32 b), .s (d + 2) (BitVec.ofNat 32 e),
        .s (d + 3) (BitVec.ofNat 32 f)], s)
    match sel with
    | 0 =>
      four t.st.code (s.trays.filter fun e => e.2.ctx == x).length
        (s.batches.filter fun e => e.2.ctx == x && e.2.core.isNone && !e.2.image.isEmpty).length (s.opsOf x)
    | 1 =>
      let going (y : Tray) : Bool := y.ctx == x && match y.departing, y.leave with
        | some (.revoke _), _ | _, some (.revoke _) => true
        | _, _ => false
      four t.revoking.toNat (s.trays.filter fun e => going e.2).length (s.unitsOwed x) 0
    | _ => ctxFail s d 1

-- CTXREVOKE (R412)

/-- A context and its descendants, the deepest first. -/
def State.subtree (s : State) (c : Nat) : List Nat :=
  let l := c :: s.descendants c
  [6, 5, 4, 3, 2, 1, 0].flatMap fun k => l.filter fun d => (s.ctx d).depth == k

/-- Every unit that a context's subtree holds. -/
def State.subtreeUnits (s : State) (c : Nat) : Units := (s.subtree c).foldl (fun u x => u.join (s.ctx x).own) Units.none

/-- Cores that a set of units takes away: those of its core groups. -/
def Units.hasCore (u : Units) (core : Nat) : Bool := u.groups.getLsbD (core / 8)

/-- The units that stop x's work in a partial revocation: the cores of its trays on the core groups, and the engines
(R412). -/
def State.partialStops (s : State) (x : Nat) (u : Units) : List (Nat × Nat) :=
  let own := (s.ctx x).own.meet u
  let cores := (s.trays.filterMap fun e => if e.2.ctx = x ∧ u.hasCore (e.1 / 32) then some (e.1 / 32) else none).eraseDups
  cores.map (fun k => (0, k)) ++ (bitList own.copy).map (fun k => (1, k)) ++ (bitList own.stack).map (fun k => (4, k)) ++
    (bitList own.raster).map fun k => (6, k)

/-- The batches of clusters of x whose region lies on a die that loses scratchpad. -/
def State.onLostSpad (s : State) (x : Nat) (u : Units) : List Nat :=
  (s.clusters.filter fun e => e.2.ctx == x && e.2.size != 0 && match e.2.die with
    | some d => (bitList u.banks).any fun g => g / 32 == d
    | none => false).flatMap fun e => e.2.batches

/-- A revocation begins at one context: placement stops, its units stop, REVOKE goes to its trays (R412). -/
def State.revokeAt (s : State) (x n : Nat) (whole : Bool) (u : Units) : State :=
  let l := if whole then s.unitsToStop x else s.partialStops x u
  let s := s.onCtx x fun t => { t with
    st := if whole then .revoking else t.st,
    revoking := BitVec.ofNat 32 n,
    noPlace := t.noPlace ||| u.groups,
    stops := t.stops ++ stopWaits l 2 n }
  let s := s.unplace fun _ b => b.ctx == x && (whole || match b.core with
    | some k => u.hasCore k
    | none => false)
  let s := { s with trays := s.trays.all' fun k t =>
    if t.ctx = x ∧ (whole ∨ u.hasCore (k / 32)) then t.addAsync .revoke (.revoke n) else t }
  if whole then s else (s.onLostSpad x u).foldl (fun s b => s.evictBatch b) s

/-- A revocation has nothing left to wait for at a context: its units have stopped, its trays have departed, and the
affected cluster regions are saved. -/
def State.revokedAt (s : State) (x n : Nat) (whole : Bool) (u : Units) : Bool :=
  ((s.ctx x).stops.all fun w => w.revno != n) &&
  (if whole then s.trays.all fun e => e.2.ctx != x else !s.onGroups x u.groups) &&
  (whole || s.clusters.all fun e => e.2.ctx != x || e.2.size == 0 || match e.2.die with
    | some d => !(bitList u.banks).any fun g => g / 32 == d
    | none => true)

/-- A checkpoint ends: its event of type 5 with the status (R428, R429). -/
def State.ckptEnd (s : State) (k : Nat) (x : Ckpt) (status : Nat) : State :=
  let s := { s with ckpts := s.ckpts.del k }
  let s := match x.slice with
    | some (h, _) => (s.sliceCount x.ctx (BitVec.ofNat 32 h) false false).2
    | none => s
  s.hostEvent 5 1 x.ctx x.tag.toNat status

/-- A context of a whole revocation becomes FREE: everything of it ends (R412). -/
def State.dropCtx (s : State) (x : Nat) : State :=
  let slots : List Nat := s.launches.filterMap fun e => if e.2.ctx = x then some e.1 else none
  let gone : List Nat := s.batches.filterMap fun e => if e.2.ctx = x then some e.1 else none
  let live := s.clusters.filter fun e => e.2.ctx != x
  let queues := (s.ctx x).own.queues
  let s := (s.ckpts.filter fun e => e.2.ctx == x).foldl (fun s e => s.ckptEnd e.1 e.2 1) s
  let s := (s.posted.filter fun e => e.2.ctx == x).foldl (fun s e => s.postFree e.1) s
  let s := s.tlbDrop x 0 (2 ^ 52) []
  { s with
    trays := s.trays.filter fun e => e.2.ctx != x,
    batches := s.batches.filter fun e => e.2.ctx != x,
    clusters := live,
    ready := s.ready.filter fun k => live.any fun e => e.1 == k,
    launches := s.launches.filter fun e => e.2.ctx != x,
    launchGen := slots.foldl (fun m k => smSet m k (nextLaunchGen (smGet m k))) s.launchGen,
    qwait := s.qwait.filter fun q => !queues.getLsbD q,
    hier := s.hier.filter fun e => e.ctx != x,
    windows := s.windows.filter fun e => !slots.contains e.2.parent,
    passes := s.passes.filter fun e => e.2.ctx != x,
    cows := s.cows.filter fun e => e.2.ctx != x,
    ops := s.ops.filter fun o => o.tag.ctx != x,
    records := s.records.filter fun r => r.ctx != x,
    rdma := s.rdma.filter fun e => s.qps.get? e.1 != some x,
    qps := s.qps.filter fun e => e.2 != x,
    stackCounts := s.stackCounts.filter fun e => e.1 / 64 != x,
    samplerCounts := s.samplerCounts.filter fun e => e.1 / 512 != x,
    cores := s.cores.all' fun _ c => { c with tiles := c.tiles.filter fun e => !gone.contains e.2.batch },
    ctxs := (s.ctxs.del x).all' fun _ t => { t with monitors := t.monitors.filter fun e => e.2.target != x } }

/-- A batch or cooperative launch that can no longer be resident whole is evicted whole (R412). -/
def State.evictUnfit (s : State) (x : Nat) : State :=
  (s.clusters.filter fun e => e.2.ctx == x && !(s.unplaced e.2).isEmpty &&
      (s.unplaced e.2).length < e.2.batches.length && (s.plansFor e.1 e.2).isNone).foldl (fun s e =>
    let bs := if e.2.coop then (s.clusters.filter fun y => y.2.lslot == e.2.lslot && y.2.ctx == x).flatMap fun y => y.2.batches
              else e.2.batches
    bs.foldl (fun s b => s.evictBatch b) s) s

/-- The units leave a context in a partial revocation, which goes on RUNNING (R412). -/
def State.revokeLeave (s : State) (x : Nat) (u : Units) : State :=
  let mine := (s.ctx x).own.meet u
  let s := s.emptyUnits mine
  let s := (s.setOwn x fun o => o.minus u).freeGroups x u.groups
  let s := s.onCtx x fun t => { t with revoking := 0 }
  let s := if mine.regions = 0 then s else s.invalidate x 0 0
  s.evictUnfit x

/-- The end of a revocation: the units leave, and pass to the issuer unscrubbed (R412). -/
def State.revokeEnd (s : State) (c child n : Nat) (whole : Bool) (u : Units) : State :=
  let l := s.subtree child
  let s := if whole then
      let s := l.foldl (fun s x => s.discardUnits (s.ctx x).own) s
      let s := l.foldl (fun s x => s.dropCtx x) s
      { s with keys := s.keys.filter fun e => !l.contains e.2.1 }
    else l.foldl (fun s x => s.revokeLeave x u) s
  let s := (s.setOwn c fun o => o.join u).onCtx c fun t => { t with
    revs := t.revs.upd n fun r => { r with complete := true } }
  if whole then s.serveQueues s.qwait.length else s

/-- CTXREVOKE performed (R412): its checks, then the revocation, which completes once every unit has been given up. -/
def State.revokeRun (s : State) (o : Op) (d child budget : Nat) (va : Option Nat) (no : Nat) : CtxRes :=
  let c := o.tag.ctx
  if no ≠ 0 then
    match (s.ctx c).revs.get? no with
    | none => ctxDone s d no
    | some r =>
      if (s.subtree child).all fun x => s.revokedAt x no r.whole r.units then
        ctxDone (s.revokeEnd c child no r.whole r.units) d no
      else (none, s)
  else if !s.isChild c child then ctxFail s d 2
  else if 2 ^ 20 < budget then ctxFail s d 1
  else
    let begin' (s : State) (whole : Bool) (u : Units) : CtxRes :=
      let n := ((s.ctx c).nrevoke + 1).toNat
      let l := s.subtree child
      let keys := if whole then (s.keys.filter fun e => l.contains e.2.1).map (·.1) else []
      let s := s.onCtx c fun t => { t with
        nrevoke := t.nrevoke + 1, revs := t.revs.put n ⟨child, whole, u, keys, false, false⟩ }
      let s := (l.filter fun x => whole || !((s.ctx x).own.meet u).isNone).foldl (fun s x => s.revokeAt x n whole u) s
      (none, s.onOp o.id fun o => { o with body := .ctx (.revoke d child budget va n) })
    match va with
    | none => begin' s true (s.subtreeUnits child)
    | some a =>
      match s.engTake c a 64 with
      | (none, s) => ctxFail s d 8
      | (some x, s) =>
        let g : GrantRec := ⟨x⟩
        if !g.maskLegal then ctxFail s d 1
        else if !(g.units.minus (s.subtreeUnits child)).isNone then ctxFail s d 4
        else begin' s false g.units

-- SCRUB (R413)

/-- The runs of consecutive numbers among the set bits of a bitmap below n: first and count. -/
def runsOf (map : Nat) (n : Nat) : List (Nat × Nat) :=
  ((List.range n).filter fun i => map / 2 ^ i % 2 = 1).foldl (fun l i =>
    match l.getLast? with
    | some (a, k) => if a + k = i then l.dropLast ++ [(a, k + 1)] else l ++ [(i, 1)]
    | none => [(i, 1)]) []

/-- The entries of a receipt: KIND, first unit and count, key slots last (Table 17.13). -/
def Revocation.entries (r : Revocation) : List (Nat × Nat × Nat) :=
  ((List.range 11).flatMap fun k => (runsOf (r.units.ofKind (k + 1)) (kindCount (k + 1))).map fun x => (k + 1, x.1, x.2)) ++
  (runsOf ((r.keys.map (2 ^ ·)).sum) 4096).map fun x => (12, x.1, x.2)

/-- The signed receipt of a revocation (Table 17.13). -/
def State.receipt (s : State) (c n : Nat) (r : Revocation) : List Byte :=
  let e := r.entries
  let head := bytesOf 4 (208 + 16 * e.length) ++ bytesOf 4 (f2 1 16 e.length) ++ bytesOf 4 c ++ bytesOf 4 r.child ++
    bytesOf 4 n ++ bytesOf 4 0 ++ bytesOf 8 (s.clock 0).toNat ++ (Config.serial ++ List.replicate 16 0).take 16 ++
    bytesOf 16 0 ++ e.flatMap fun x => bytesOf 4 x.1 ++ bytesOf 4 x.2.1 ++ bytesOf 4 x.2.2 ++ bytesOf 4 0
  let dig := sha384 head
  head ++ dig ++ ((Config.sign s.lasting.keyGen dig) ++ List.replicate 96 0).take 96

/-- The units of a revocation are cleared (R413). -/
def State.scrubUnits (s : State) (u : Units) : State :=
  let s := s.emptyUnits u
  let s := { s with
    cores := s.cores.all' fun k x => if u.hasCore k then { x with l1 := [], l1tick := 0, tlb := [], tiles := [], last := none } else x,
    qcbs := s.qcbs.filter fun e => !u.queues.getLsbD e.1,
    trigs := s.trigs.filter fun e => !u.counters.getLsbD e.1,
    lines := s.lines.filter fun e => !u.regions.getLsbD (e.1 * 256 / 2 ^ 32) }
  (bitList u.regions).foldl (fun s r => s.zeroBytes (r * 2 ^ 32) (2 ^ 32)) s

/-- The issuer's own use of scrubbed core groups and scratchpad has ended: the cluster regions on the dies of the bank
groups are saved (R413). -/
def State.scrubReady (s : State) (c : Nat) (u : Units) : Bool :=
  !s.onGroups c u.groups && (s.clusters.all fun e => e.2.ctx != c || e.2.size == 0 || match e.2.die with
    | some d => !(bitList u.banks).any fun g => g / 32 == d
    | none => true)

/-- SCRUB performed (R413): the units are cleared, then the receipt is written; one that cannot be written stops it before, but
for one whose translation the cleared regions held (DESIGN CHOICE: the units are clear then, and not marked clean). -/
def State.scrubRun (s : State) (o : Op) (d no va : Nat) (begun : Bool) : CtxRes :=
  let c := o.tag.ctx
  match (s.ctx c).revs.get? no with
    | none => ctxFail s d 13
    | some r =>
      if !r.complete || r.scrubbed then ctxFail s d 13
      else if va % 64 ≠ 0 then ctxFail s d 1
      else if !begun && !s.scrubReady c r.units then
        let s := (s.onLostSpad c r.units).foldl (fun s b => s.evictBatch b) (s.clearGroups c r.units.groups)
        (none, s.onOp o.id fun o => { o with body := .ctx (.scrub d no va true) })
      else if !s.scrubReady c r.units then (none, s)
      else
        let l := s.receipt c no r
        match s.ctxReady o va l.length with
        | (none, s) => (none, s)
        | (some false, s) => ctxFail (s.freeGroups c r.units.groups) d 8
        | (some true, s) =>
          match ((s.scrubUnits r.units).freeGroups c r.units.groups).ctxWr o va l with
          | (some true, s) =>
            ctxDone (s.onCtx c fun t => { t with revs := t.revs.upd no fun r => { r with scrubbed := true } }) d 0
          | (_, s) => ctxFail s d 8

-- ALOG and KEYSEL (R414, R415)

/-- ALOG performed (R415). -/
def State.alogGo (s : State) (c d : Nat) (w : Word) (va : Option Nat) : CtxRes :=
  let m := bits w.toNat 3 0
  let target := bits w.toNat 27 16
  if bits w.toNat 15 4 ≠ 0 ∨ bits w.toNat 31 28 ≠ 0 then ctxFail s d 1
  else if target ≠ c ∧ (!s.isAncestor c target || (s.ctx target).st == .free) then ctxFail s d 2
  else match va with
    | none => ctxDone (s.onCtx c fun t => { t with monitors := t.monitors.del m }) d 0
    | some a =>
      match s.engTake c a 32 with
      | (none, s) => ctxFail s d 8
      | (some x, s) =>
        let len := bits x 115 64
        let log := bits x 191 188
        let ring := bits x 179 128
        let trip := bits x 200 200 == 1
        if bits x 63 52 ≠ 0 ∨ bits x 127 116 ≠ 0 ∨ bits x 187 180 ≠ 0 ∨ bits x 199 198 ≠ 0 ∨ bits x 255 201 ≠ 0 ∨ len = 0 then
          ctxFail s d 1
        else if 13 ≤ log ∨ ring % 64 ≠ 0 ∨ (trip ∧ target ≠ c) then ctxFail s d 14
        else
          let k : Monitor := ⟨target, bits x 51 0, len, log, ring, BitVec.ofNat 6 (bits x 197 192), trip⟩
          ctxDone (s.onCtx c fun t => { t with monitors := t.monitors.put m k }) d 0

/-- Every line leaves the dies' caches, written back: those encrypted under a slot among them (R414; DESIGN CHOICE: the model
notes no line's slot, and any line may leave at any time). -/
def State.emptyCaches (s : State) : State :=
  s.lines.foldl (fun s e => e.2.foldl (fun s c => s.homeEvict c.1 e.1) s) s

/-- KEYSEL performed (R414). -/
def State.keyselGo (s : State) (c d child slot : Nat) (va : Option Nat) : CtxRes :=
  if !s.isChild c child then ctxFail s d 2
  else match va with
    | none =>
      if slot ≠ 0 ∧ (s.keys.get? slot).any fun x => x.1 == child then ctxDone { s.emptyCaches with keys := s.keys.del slot } d 0
      else ctxFail s d 2
    | some a =>
      match s.engTake c a 80 with
      | (none, s) => ctxFail s d 8
      | (some x, s) =>
        if bits x 63 0 ≠ 1 then ctxFail s d 1
        else match Config.unwrapKey (bytesOf 72 (x / 2 ^ 64)) with
          | none => ctxFail s d 10
          | some key =>
            let k := s.keys.freeFrom 1
            if 4096 ≤ k then ctxFail s d 11 else ctxDone { s with keys := s.keys.put k (child, key) } d k

-- Completion (R397)

/-- The context that a command names (R397). -/
def CtxOp.names : CtxOp → Option Nat
  | .new _ _ | .scrub _ _ _ _ => none
  | .grant _ x _ _ | .revoke _ x _ _ _ | .run _ x _ _ _ _ _ | .stop _ x _ _ | .save _ x _ | .load _ x _ | .query _ x _
  | .keysel _ x _ _ => some x
  | .alog _ w _ => some (bits w.toNat 27 16)

/-- The context a command of the context engine names. -/
def Op.names (o : Op) : Option Nat :=
  match o.body with
  | .ctx k => k.names
  | _ => none

/-- A command waits for an earlier-accepted one that names the same context, an ancestor or a descendant (R397). -/
def State.ctxWaits (s : State) (o : Op) (k : CtxOp) : Bool :=
  match k.names with
  | none => false
  | some x => (s.ops.takeWhile fun p => p.id != o.id).any fun p =>
      p.phase != 0 && match p.names with
        | some y => x == y || s.isAncestor x y || s.isAncestor y x
        | none => false

/-- Perform a command. -/
def State.ctxGo (s : State) (o : Op) (k : CtxOp) : CtxRes :=
  let c := o.tag.ctx
  match k with
  | .new d w => s.newGo c d w
  | .grant d x va b => s.grantRun o d x va b
  | .revoke d x n va no => s.revokeRun o d x n va no
  | .run d x op token r0 r1 m => s.runGo c d x op token r0 r1 m
  | .stop d x w b => s.stopRun o d x w b
  | .save d x va => s.saveGo o d x va
  | .load d x va => s.loadGo o d x va
  | .query d x sel => s.queryCtx c d x sel
  | .scrub d n va b => s.scrubRun o d n va b
  | .alog d w va => s.alogGo c d w va
  | .keysel d x slot va => s.keyselGo c d x slot va

/-- Observing a command's completion is an acquire; CTXQ takes no order (R397, R403). -/
def CtxOp.orders : CtxOp → Bool
  | .query _ _ _ => false
  | _ => true

/-- CONTEXT_OP_COMPLETE (R397): an accepted command is performed, or goes on; one that waits leaves the command queue (R18). -/
def execContextOpComplete (op : Nat) (s : State) : Host.Outcome State Fault Refusal :=
  .next (match s.op? op with
    | none => s
    | some o =>
      match o.body with
      | .ctx k =>
        let outside (s : State) : State := s.onOp op fun o => { o with phase := max o.phase 2 }
        if o.phase = 0 || o.park.isSome then s
        else if s.ctxWaits o k then outside s
        else match s.ctxGo o k with
          | (none, s) => outside s
          | (some data, s) =>
            let s := s.opDone o data none k.orders
            if k.orders then s.l1Inval o.tag.core false else s
      | _ => s)

end Sys2Proof.Machine
end

