-- ==== Sys2Proof/Machine/Host.lean ====
section
/-!
DEFINITION. The host's queue pairs, commands and checkpoints, the staged start, and power and cooling (R417–R430).
-/

namespace Sys2Proof.Machine

/-- Send something to a host or to the board controller. -/
def State.toHost (s : State) (m : HostMsg) : State := { s with hostOut := s.hostOut ++ [m] }

-- RDMA (R417, R418)

/-- A write in context c, from the piece that has still to be performed: the state, and with a fault the address at which
it goes on. -/
def State.rdmaWr (s : State) (c a : Nat) (d : List Byte) : List (Nat × Nat) → State × Option (XFault × Nat)
  | [] => (s, none)
  | p :: r =>
    match s.engWrPiece c p.1 (clean ((d.drop (p.1 - a)).take p.2)) (s.ctx c).step with
    | (s, none) => State.rdmaWr s c a d r
    | (s, some f) => (s, some (f, p.1))

/-- The accesses of a queue pair bound to context c, in arrival order: one that meets a replayable fault waits, and the
later ones behind it; one that meets a terminal fault or reads poison is answered by a remote-access NAK (R418). -/
def State.rdmaGo (s : State) (qp c : Nat) : List RdmaReq → State × List RdmaReq
  | [] => (s, [])
  | .write a d :: r =>
    match s.rdmaWr c a d (pieces a d.length) with
    | (s, none) => State.rdmaGo s qp c r
    | (s, some (f, at')) =>
      if f.kind.replayable then (s, .write at' (d.drop (at' - a)) :: r)
      else State.rdmaGo (s.toHost (.nak qp false)) qp c r
  | .read a n :: r =>
    match s.engRd c a n with
    | .ok (s, d) =>
      State.rdmaGo (s.toHost (if d.any (·.2) then .nak qp false else .readData qp (d.map (·.1)))) qp c r
    | .error f =>
      if f.kind.replayable then (s, .read a n :: r) else State.rdmaGo (s.toHost (.nak qp false)) qp c r

/-- Perform what waits on a queue pair, followed by new accesses. -/
def State.rdmaServe (s : State) (qp : Nat) (new : List RdmaReq) : State :=
  match s.qps.get? qp with
  | none => new.foldl (fun s _ => s.toHost (.nak qp false)) s
  | some c =>
    let (s, l) := s.rdmaGo qp c ((s.rdma.get? qp).getD [] ++ new)
    { s with rdma := if l.isEmpty then s.rdma.del qp else s.rdma.put qp l }

/-- Whether the ports answer (Table 18.5). -/
def State.answers (s : State) : Bool := s.stage != .off && s.stage != .power

/-- RDMA_WRITE (R418). -/
def execRdmaWrite (qp addr : Nat) (data : List (BitVec 8)) (s : State) : Host.Outcome State Fault Refusal :=
  .next (if s.answers then s.rdmaServe qp [.write addr data] else s)

/-- RDMA_READ (R418). -/
def execRdmaRead (qp addr len : Nat) (s : State) : Host.Outcome State Fault Refusal :=
  .next (if s.answers then s.rdmaServe qp [.read addr len] else s)

/-- UNSUPPORTED_REQUEST (R417). -/
def execUnsupportedRequest (qp : Nat) (s : State) : Host.Outcome State Fault Refusal :=
  .next (if s.answers then s.toHost (.nak qp true) else s)

-- Commands (R419–R421)

/-- The code of a stage, for IDENTIFY, ATTEST and event records. -/
def Stage.code : Stage → Nat
  | .off | .power | .s0 => 0
  | .s1 => 1
  | .s2 => 2
  | .hold => 3

/-- Whether an endpoint answers at this stage: A from S0, B from S1 on (Table 18.5). -/
def State.hears (s : State) (ep : Nat) : Bool :=
  match s.stage with
  | .off | .power => false
  | .s0 => ep == 0
  | .s1 | .hold | .s2 => ep == 0 || ep == 1

/-- The semaphore's word (R421). -/
def State.semWord (s : State) : DWord := BitVec.ofNat 64 (s.sem.seq.toNat * 2 ^ 32 + s.sem.owner)

/-- Respond to a command. -/
def State.respond (s : State) (h : CmdHdr) (status : Nat) (b : RespBody) : State :=
  s.toHost (.response h.ep h.tag status b)

/-- The status of the refusal rule for a caller and its SEQ, 0 where it holds the semaphore (R421). -/
def State.semStatus (s : State) (h : CmdHdr) : Nat :=
  if s.sem.owner = h.ep + 1 then if s.sem.seq = h.seq then 0 else 2
  else if s.sem.owner = 0 then 2
  else 1

/-- A command: refused at a stage that does not allow it, then, if it is exclusive, by the semaphore's refusal rule
(R420, R421); otherwise performed. -/
def State.command (s : State) (h : CmdHdr) (allowed exclusive : Bool) (f : State → State) : State :=
  if !s.hears h.ep then s
  else if !allowed then s.respond h 3 .none
  else if exclusive && s.semStatus h != 0 then s.respond h (s.semStatus h) .none
  else f s

/-- A command of every stage. -/
def State.always (s : State) (h : CmdHdr) (f : State → State) : State := s.command h true false f
/-- A command of stage S2. -/
def State.atS2 (s : State) (h : CmdHdr) (exclusive : Bool) (f : State → State) : State :=
  s.command h (s.stage == .s2) exclusive f
/-- An exclusive command of S1 hold and S2. -/
def State.atHold (s : State) (h : CmdHdr) (f : State → State) : State :=
  s.command h (s.stage == .s2 || s.stage == .hold) true f
/-- Done, or status 4 where an operand is malformed. -/
def State.doneIf (s : State) (h : CmdHdr) (ok : Bool) (f : State → State) : State :=
  if ok then (f s).respond h 0 .none else s.respond h 4 .none

/-- MALFORMED_COMMAND (R420, Table 18.2). -/
def execMalformedCommand (h : CmdHdr) (s : State) : Host.Outcome State Fault Refusal :=
  .next (if s.hears h.ep then s.respond h 4 .none else s)

/-- IDENTIFY (R419). -/
def execIdentify (h : CmdHdr) (s : State) : Host.Outcome State Fault Refusal :=
  .next (s.always h fun s => s.respond h 0 (.identify Config.part Config.serial Config.fuseRev s.stage.code))

/-- The firmware image that runs, where an image runs: its digest is that of the body behind the 512-byte header (R425,
R427). -/
def State.firmware (s : State) : List Byte × Nat :=
  match s.running with
  | some i => (sha384 (i.drop 512), Config.firmwareVersion i)
  | none => Config.noFirmware

/-- ATTEST (R427). -/
def execAttest (h : CmdHdr) (nonce : List (BitVec 8)) (s : State) : Host.Outcome State Fault Refusal :=
  .next (s.always h fun s =>
    if nonce.length != 48 then s.respond h 4 .none
    else
      let (dig, ver) := s.firmware
      let pub := Config.publicKey s.lasting.keyGen
      let all := nonce ++ Config.serial ++ dig ++ bytesOf 8 ver ++ bytesOf 8 s.stage.code ++ bytesOf 8 s.dies.toNat ++ pub
      s.respond h 0 (.attest nonce Config.serial dig ver s.stage.code s.dies pub (Config.sign s.lasting.keyGen all)))

/-- The package gives degraded service: a die is fenced or unreachable (R336, R424). -/
def State.degraded (s : State) : Bool := s.dies != 15#4 || s.down != 0#4

/-- HEALTH (R419, R424). -/
def execHealth (h : CmdHdr) (s : State) : Host.Outcome State Fault Refusal :=
  .next (s.always h fun s => s.respond h 0
    (.health ((bitList s.dies).map fun d => Config.temperature s.ticks d) (Config.power s.ticks) s.dies s.degraded))

/-- SEMACQ (R421). -/
def execSemacq (h : CmdHdr) (s : State) : Host.Outcome State Fault Refusal :=
  .next (s.always h fun s =>
    if s.sem.owner = 0 then
      let s := { s with sem := ⟨h.ep + 1, s.sem.seq + 1⟩ }
      s.respond h 0 (.sem s.semWord)
    else s.respond h 1 (.sem s.semWord))

/-- SEMREL (R421). -/
def execSemrel (h : CmdHdr) (s : State) : Host.Outcome State Fault Refusal :=
  .next (s.always h fun s =>
    if s.semStatus h = 0 then { s with sem := { s.sem with owner := 0 } }.respond h 0 .none
    else s.respond h (s.semStatus h) .none)

/-- SEMAPHORE_LEASE_EXPIRY (R421): not while a CKPT of the owner is being performed. -/
def execSemaphoreLeaseExpiry (s : State) : Host.Outcome State Fault Refusal :=
  .next (if s.ckpts.any fun e => e.2.ep + 1 == s.sem.owner then s else { s with sem := { s.sem with owner := 0 } })

/-- Whether a context number is in use. -/
def State.ctxLive (s : State) (c : Nat) : Bool := ((s.ctxs.get? c).map fun t => t.st != .free).getD false

/-- QPBIND (R418). -/
def execQpbind (h : CmdHdr) (qp ctx : Nat) (s : State) : Host.Outcome State Fault Refusal :=
  .next (s.atS2 h true fun s => s.doneIf h (decide (qp < 4096) && s.ctxLive ctx) fun s =>
    { s with qps := s.qps.put qp ctx })

/-- EVSET (R422). -/
def execEvset (h : CmdHdr) (ch qp mode logSlots addr : Nat) (s : State) : Host.Outcome State Fault Refusal :=
  .next (s.atS2 h false fun s =>
    s.doneIf h (decide (1 ≤ ch ∧ ch < 4096 ∧ qp < 4096 ∧ mode ≤ 1 ∧ (mode = 1 → 4 ≤ logSlots ∧ logSlots ≤ 16))) fun s =>
      { s with chans := s.chans.put ch ⟨qp, mode == 1, logSlots, addr, 0⟩ })

/-- ROOTRING (R422). -/
def execRootring (h : CmdHdr) (qp logSlots addr : Nat) (s : State) : Host.Outcome State Fault Refusal :=
  .next (s.atS2 h false fun s => s.doneIf h (decide (qp < 4096 ∧ 4 ≤ logSlots ∧ logSlots ≤ 16)) fun s =>
    { s with rootRings := s.rootRings.put h.ep ⟨qp, true, logSlots, addr, 0⟩ })

/-- An image that may run (R425). -/
def firmwareOk (image : List Byte) : Bool :=
  decide (512 ≤ image.length) && Config.firmwareSigned image && decide (Config.firmwareMin ≤ Config.firmwareVersion image)

/-- FWLOAD (R425): in S1 hold the image is taken for this start; in S2 it is written to flash. -/
def execFwload (h : CmdHdr) (image : List (BitVec 8)) (s : State) : Host.Outcome State Fault Refusal :=
  .next (s.atHold h fun s =>
    if !firmwareOk image then s.respond h 5 .none
    else if s.stage = .hold then { s with running := some image, stage := .s1 }.respond h 0 .none
    else { s with lasting := { s.lasting with flash := some image } }.respond h 0 .none)

/-- KEYROLL (R427): the old key signs the new public key. -/
def execKeyroll (h : CmdHdr) (s : State) : Host.Outcome State Fault Refusal :=
  .next (s.atS2 h true fun s =>
    let g := s.lasting.keyGen
    let pub := Config.publicKey (g + 1)
    { s with lasting := { s.lasting with keyGen := g + 1 } }.respond h 0 (.keys pub (Config.sign g pub)))

/-- ROOTWR (R426). -/
def execRootwr (h : CmdHdr) (off : Nat) (data : List (BitVec 8)) (s : State) : Host.Outcome State Fault Refusal :=
  .next (s.atS2 h true fun s => s.doneIf h (decide (off + data.length ≤ 65536)) fun s =>
    s.ctlWrite 4096 0 off data.length (natOf data))

/-- PODIDX (R426). -/
def execPodidx (h : CmdHdr) (idx : Nat) (s : State) : Host.Outcome State Fault Refusal :=
  .next (s.atHold h fun s => s.doneIf h (decide (idx < 1024)) fun s =>
    { s with lasting := { s.lasting with podIdx := idx } })

-- Checkpoints (R428, R429)

/-- CKPT (R428, R429): a full one needs its context STOPPED or HALTED with nothing outstanding; an incremental one takes a
reference to its slice. -/
def execCkpt (h : CmdHdr) (c : CkptArgs) (s : State) : Host.Outcome State Fault Refusal :=
  .next (s.atS2 h true fun s =>
    if !s.ctxLive c.ctx || 4096 ≤ c.qp || (s.ckpts.get? h.tag.toNat).isSome then s.respond h 4 .none
    else if c.handle = 0 then
      let st := (s.ctx c.ctx).st
      if (st = .stopped ∨ st = .halted) ∧ s.opsOf c.ctx = 0 then
        { s with ckpts := s.ckpts.put h.tag.toNat ⟨c.ctx, none, c.w, c.qp, c.base, c.list, h.ep, h.tag, 0, 2 ^ 36, 0, 0⟩ }.respond h 0 .none
      else s.respond h 6 (.code 7)
    else
      match s.sliceOf c.ctx c.handle with
      | none => s.respond h 4 .none
      | some (_, x) =>
        if x.refs = 65535 then s.respond h 6 (.code 6)
        else
          let s := (s.sliceCount c.ctx c.handle false true).2
          { s with ckpts := s.ckpts.put h.tag.toNat ⟨c.ctx, some (c.handle.toNat, x.ver), c.w, c.qp, c.base, c.list, h.ep, h.tag,
              x.start, x.len, x.start, 0⟩ }.respond h 0 .none)

/-- The bytes of a page as a checkpoint reads it, piece by piece: of the context's present content, or of a version as LDV
does (R255, R428); none where some piece cannot be read. -/
def State.ckptBytes (s : State) (c : Nat) (v : Option Word) (va size : Nat) : Option (List Byte) :=
  (pieces va size).foldlM (fun (acc : List Byte) p =>
    let at' : Except XFault (Option Loc) :=
      match v with
      | none => (s.locateWalk c p.1 needR).map some
      | some w => (s.walkV c p.1 w).map fun x => x.map (·.1)
    match at' with
    | .ok (some (.mem y)) =>
      if 2 ^ 40 ≤ y.pa then some (acc ++ (s.remoteBytes y.pa p.2).map (·.1))
      else some (acc ++ ((s.homeEngine (y.pa / 256) false).physRead y.pa p.2).map (·.1))
    | _ => none) []

/-- The pages a checkpoint has still to send: address, size, size code, VERS and stamp, as VQRY examines them (R254). -/
def State.ckptLeft (s : State) (x : Ckpt) : List (Nat × Nat × Nat × Bool × Nat) :=
  (s.queryEntries x.ctx x.start (x.start + 65536 * x.len)).filter fun e =>
    decide (x.next ≤ e.1) && (x.slice.isNone || decide (x.w.toNat < e.2.2.2.2))

/-- Send a page of a checkpoint and then its entry (R428). -/
def State.ckptPage (s : State) (k : Nat) (x : Ckpt) (e : Nat × Nat × Nat × Bool × Nat) : State :=
  let (va, size, code, vers, _) := e
  match s.ckptBytes x.ctx (x.slice.map (·.2)) va size with
  | none => { s with ckpts := s.ckpts.put k { x with next := va + size } }
  | some b =>
    { s with
      hostOut := s.hostOut ++ [.write x.qp (x.base + (va - x.start)) b,
        .write x.qp (x.list + 8 * x.sent) (bytesOf 8 (f2 code 14 (va / 65536 * 65536) + vers.toNat))],
      ckpts := s.ckpts.put k { x with next := va + size, sent := x.sent + 1 } }

/-- One page of a checkpoint is sent, if one is left. -/
def State.ckptStep (s : State) (k : Nat) : State :=
  match s.ckpts.get? k with
  | none => s
  | some x =>
    match s.ckptLeft x with
    | [] => s
    | e :: _ => s.ckptPage k x e

/-- End a checkpoint, if it is in progress (R429). -/
def State.ckptStop (s : State) (k status : Nat) : State :=
  match s.ckpts.get? k with
  | none => s
  | some x => s.ckptEnd k x status

/-- CKPTABORT (R429). -/
def execCkptabort (h : CmdHdr) (ck : Nat) (s : State) : Host.Outcome State Fault Refusal :=
  .next (s.atS2 h true fun s => s.doneIf h (s.ckpts.get? ck).isSome fun s => s.ckptStop ck 1)

/-- CKPT_COMPLETE (R428): the last pages and entries are written, and the checkpoint is done. -/
def execCkptComplete (ck : Nat) (s : State) : Host.Outcome State Fault Refusal :=
  .next (match s.ckpts.get? ck with
    | none => s
    | some x => ((s.ckptLeft x).foldl (fun s e =>
        match s.ckpts.get? ck with
        | none => s
        | some y => s.ckptPage ck y e) s).ckptStop ck 0)

/-- REMOTE_NAK (R429). -/
def execRemoteNak (ck : Nat) (s : State) : Host.Outcome State Fault Refusal := .next (s.ckptStop ck 2)

-- Staged start (R423–R426)

/-- POWER_GOOD (R423). -/
def execPowerGood (s : State) : Host.Outcome State Fault Refusal :=
  .next (if s.stage = .off then { s with stage := .power } else s)

/-- STAGE_S0_COMPLETE (R423, R424): the dies that passed; CLOCK starts at 0. -/
def execStageS0Complete (passed : BitVec 4) (s : State) : Host.Outcome State Fault Refusal :=
  .next (if s.stage = .power then { s with stage := .s0, dies := passed, now := 0 } else s)

/-- STAGE_S1_COMPLETE (R423–R425): memory is zeroed; where none is found in flash, or what is found may not run, the package
holds. If no die passes it stays at S0. -/
def execStageS1Complete (passed : BitVec 4) (fwValid : Bool) (s : State) : Host.Outcome State Fault Refusal :=
  .next (
    if s.stage ≠ .s0 then s
    else if s.dies &&& passed = 0 then { s with dies := 0 }
    else
      let image := s.lasting.flash.getD Config.bootFirmware
      let ok := fwValid && firmwareOk image
      { s with
        dies := s.dies &&& passed, stage := if ok then .s1 else .hold, running := if ok then some image else none,
        mem := [], poison := [], regions := directRegions })

/-- Every unit of Table 17.5. -/
def Units.all : Units :=
  ⟨BitVec.allOnes _, BitVec.allOnes _, smTab 0 128 fun _ => BitVec.allOnes _, BitVec.allOnes _, BitVec.allOnes _,
   BitVec.allOnes _, BitVec.allOnes _, BitVec.allOnes _, BitVec.allOnes _, BitVec.allOnes _, BitVec.allOnes _⟩

/-- The dies of a package that are fenced. -/
def fenced (dies : BitVec 4) : List Nat := (List.range 4).filter fun d => !dies.getLsbD d

/-- The units that are not fenced (R424, R426). -/
def rootUnits (dies : BitVec 4) : Units := (fenced dies).foldl (fun u d => u.cutDie d) Units.all

/-- The root context as it is created (R389, R426). -/
def rootCtx (dies : BitVec 4) (seed : BitVec 12) : Ctx :=
  { Ctx.blank with
    st := .running, own := rootUnits dies, diemask := dies, seed := seed,
    frameq := 12582912, uaq := 65535, entq := 16383, childmax := 4095, keymax := 4095, bww := 255 }

/-- The regions at S2, as firmware sets them (R234, R235). -/
def rootRegions (cfg : FwCfg) (dies : BitVec 4) : KMap Region :=
  if cfg.direct then directRegions else (List.range 256).map fun r => (r, ⟨1, cfg.seed, (rootUnits dies).channels⟩)

/-- The cores that are not fenced, as they start. -/
def rootCores (dies : BitVec 4) : KMap Core :=
  (List.range 1024).filterMap fun k => if dies.getLsbD (k / 256) then some (k, Core.init) else none

/-- STAGE_S2_REACHED (R422–R426): the root context is created, the pod index is applied. -/
def execStageS2Reached (cfg : FwCfg) (s : State) : Host.Outcome State Fault Refusal :=
  .next (if s.stage ≠ .s1 then s
    else
      let s := { s with
        stage := .s2, fw := cfg, podIdx := s.lasting.podIdx, keys := [(0, (0, Config.rootKey s.ticks))],
        regions := rootRegions cfg s.dies, cores := rootCores s.dies,
        ctxs := [(0, rootCtx s.dies (if cfg.direct then 0 else cfg.seed))] }
      let s := s.hostEvent 2 1 (Config.eventField s.ticks 4) 2 (Config.eventField s.ticks 12)
      if s.dies = 15#4 then s
      else s.hostEvent 3 1 (Config.eventField s.ticks 4) (~~~s.dies).toNat (Config.eventField s.ticks 12))

-- Power and cooling (R423, R430)

/-- A type-4 event (R422, R430). -/
def State.thermalEvent (s : State) : State :=
  s.hostEvent 4 1 (Config.eventField s.ticks 4) (Config.eventField s.ticks 8) (Config.eventField s.ticks 12)

/-- THERMAL_THROTTLE (R430). -/
def execThermalThrottle (die : Nat) (s : State) : Host.Outcome State Fault Refusal :=
  .next (if s.answers && s.dies.getLsbD die then
    { s with hot := s.hot ||| BitVec.ofNat 4 (2 ^ die) }.thermalEvent else s)

/-- BELOW_THROTTLE_TEMPERATURE (R430). -/
def execBelowThrottleTemperature (die : Nat) (s : State) : Host.Outcome State Fault Refusal :=
  .next { s with hot := s.hot &&& ~~~BitVec.ofNat 4 (2 ^ die) }

/-- THERMAL_TRIP (R430): every context halts, for REASON 4. -/
def execThermalTrip (s : State) : Host.Outcome State Fault Refusal :=
  .next (if s.answers then ((s.haltFor 0 4).thermalEvent).toHost .powerOff else s)

/-- POWER_LOSS (R423): only what is kept in flash and fuses outlives it, what has left the package, and what is still to come
from outside. -/
def execPowerLoss (s : State) : Host.Outcome State Fault Refusal :=
  .next { State.reset with
    lasting := s.lasting, ticks := s.ticks, inbox := s.inbox, hostOut := s.hostOut, podOut := s.podOut,
    remoteOut := s.remoteOut }

end Sys2Proof.Machine
end

