-- ==== Sys2Proof/Machine/Evict.lean ====
section
/-!
DEFINITION. Eviction against a deadlock of register growth (R150), urgency of a candidate (R79), and words that no
instruction is assigned to (R56).
-/

namespace Sys2Proof.Machine

/-- Parked on REGGROW and not leaving. -/
def Tray.growing (t : Tray) : Bool :=
  t.leave.isNone && match t.wait with
    | .grow _ _ _ => true
    | _ => false

/-- Waiting at BAR for a tray of its batch, or at CBAR for one of its cluster, that is among some stuck trays (R150). -/
def State.barStuck (s : State) (stuck : List Nat) (t : Tray) : Bool :=
  t.leave.isNone && match t.wait with
    | .bar => s.trays.any fun e => stuck.contains e.1 && e.2.batch == t.batch && e.2.wait != .bar
    | .cbar => s.trays.any fun e => stuck.contains e.1 && s.clusterIdOf e.2 == s.clusterIdOf t && e.2.wait != .cbar
    | _ => false

/-- The trays parked on REGGROW or waiting for such trays, after n rounds of adding (R150). -/
def State.stuckTrays (s : State) : Nat → List Nat
  | 0 => s.trays.filterMap fun e => if e.2.growing then some e.1 else none
  | n + 1 =>
    let l := State.stuckTrays s n
    s.trays.filterMap fun e => if l.contains e.1 || s.barStuck l e.2 then some e.1 else none

/-- Every resident tray of a core is parked on REGGROW or waits for one that is (R150). -/
def State.growDeadlock (s : State) (core : Nat) : Bool :=
  let l := s.stuckTrays s.trays.length
  s.trays.all fun e => e.1 / 32 != core || l.contains e.1

/-- The batches that leave with a batch: its cluster, if that has two or more, or its cooperative launch (R150). -/
def State.leaveTogether (s : State) (id : Nat) (b : Batch) : List Nat :=
  match s.clusters.get? b.cluster with
  | none => [id]
  | some k => s.together k

/-- The youngest of some batches. -/
def youngest : List (Nat × Batch) → Option (Nat × Batch)
  | [] => none
  | e :: r =>
    match youngest r with
    | none => some e
    | some x => some (if x.2.age < e.2.age then e else x)

/-- REGGROW_DEADLOCK_EVICT (R150). -/
def execReggrowDeadlockEvict (core : Nat) (s : State) : Host.Outcome State Fault Refusal :=
  .next (match oldestGrow (s.growQueue core) with
    | none => s
    | some (_, key, _, _) =>
      let held := (s.trays.get? key).map fun t => t.batch
      if !s.growDeadlock core then s
      else match youngest (s.batches.filter fun e =>
          e.2.core == some core && !held.any fun h => (s.leaveTogether e.1 e.2).contains h) with
        | none => s
        | some (id, b) => (s.leaveTogether id b).foldl (fun s x => s.evictBatch x) s)

/-- CANDIDATE_URGENT (R79): the path slots of a resident tray that could issue have not for 4,096 clocks. -/
def execCandidateUrgent (tray : Nat) (s : State) : Host.Outcome State Fault Refusal :=
  .next (s.onTray tray fun t =>
    if t.leave.isNone && t.wait == .run then
      { t with p0 := { t.p0 with since := some (s.now - 4096) },
               p1 := t.p1.map fun p => { p with since := some (s.now - 4096) } }
    else t)

/-- UNASSIGNED_ENCODING (R56). -/
def execUnassignedEncoding (word : BitVec 32) (s : State) : Host.Outcome State Fault Refusal :=
  let _ := word
  issue [] s fun _ _ _ => .early .illegal

end Sys2Proof.Machine
end

