-- ==== Sys2Proof/Machine/Port.lean ====
section
/-!
DEFINITION. The queues between the engine ports and the engines: acceptance, refusal and resending of commands (R14–R18).
-/

namespace Sys2Proof.Machine

/-- The entries of an engine's command queue (Table 1.1); pixel ordering, units 4 and up of class 6, has no queue of its
own and is given a front's. -/
def queueCap (eng : Nat) : Nat :=
  match eng with
  | 1 => 256
  | 2 => 16
  | 3 => 512
  | 4 => 128
  | 5 => 4096
  | 6 => 1024
  | 7 => 64
  | 8 => 256
  | _ => 1024

/-- The commands in a queue. -/
def State.queued (s : State) (eng unit : Nat) : Nat :=
  (s.ops.filter fun o => o.phase == 1 && o.tag.eng == eng && o.unit == unit).length

/-- Whether a queue takes a command of a core: it has a free entry, and another than the one it reserves for the sender
whose outstanding refusal is the earliest, where that is another (R14, R16). -/
def State.queueTakes (s : State) (core eng unit : Nat) : Bool :=
  let n := s.queued eng unit
  match s.refusals.find? fun x => x.eng == eng && x.unit == unit with
  | some x => if x.core = core then n < queueCap eng else n + 1 < queueCap eng
  | none => n < queueCap eng

/-- Whether a queue has refused a core's command and has not accepted it since. -/
def State.refuses (s : State) (core eng unit : Nat) : Bool :=
  s.refusals.any fun x => x.core == core && x.eng == eng && x.unit == unit

/-- A command that stays in its replay window until accepted; a context that is being halted or revoked sends none
(R408, R412). -/
def State.sendable (s : State) (core : Nat) (o : Op) : Bool :=
  o.tag.core == core && o.phase == 0 && (s.ctx o.tag.ctx).st.canHalt

/-- The oldest command that a core sends to a queue which has not refused it (R15). -/
def State.nextCommand (s : State) (core : Nat) : Option Op :=
  s.ops.find? fun o => s.sendable core o && !s.refuses core o.tag.eng o.unit

/-- An engine performs a command in one piece (R10). -/
def State.cmdGo (s : State) (o : Op) (k : Cmd) : State :=
  match k with
  | .done data => s.opAnswer o data
  | .post .. | .carm .. | .halo .. | .cqry .. => s.collGo o k
  | .emit .. | .flush .. | .rate .. => s.frontGo o k
  | .hqry d item => s.hqryGo o d item
  | .mqry d => s.mqryGo o d
  | .spawn .. | .cont .. | .jdec .. | .lcancel .. | .lstat .. => s.launchGo o k

/-- A command is accepted: it leaves its replay window for its queue, behind those accepted before. A CPYM goes on to its
group, and a command that is performed in one piece is performed by its engine at once (R15, R18). -/
def State.acceptOp (s : State) (o : Op) : State :=
  let o := { o with phase := 1 }
  let s := { s with ops := (s.ops.filter fun x => x.id != o.id) ++ [o] }
  match o.body with
  | .member m => s.memberAccept o m
  | .cmd k => (s.dropOp o.id).cmdGo o k
  | _ => s

/-- A command that has waited is performed again (R18). -/
def State.cmdResume (s : State) (id : Nat) : State :=
  match s.op? id with
  | none => s
  | some o => match o.body with
    | .cmd k => if o.phase = 2 ∧ o.park.isNone then (s.dropOp id).cmdGo o k else s
    | _ => s

/-- COMMAND_ACCEPT (R15, R17): the oldest command of a core is accepted, where its queue takes it. -/
def execCommandAccept (core : Nat) (s : State) : Host.Outcome State Fault Refusal :=
  .next (match s.nextCommand core with
    | none => s
    | some o => if s.queueTakes core o.tag.eng o.unit then s.acceptOp o else s)

/-- The back-off with which a core's first resend waits: what firmware set for it, by default 64 clocks (R16). -/
def State.backoffOf (s : State) (core : Nat) : Nat := max 16 (min 4096 ((s.fw.backoff.lookup core).getD 64))

/-- QUEUE_REFUSAL (R14, R15): a full queue refuses a core's oldest command, and every later one of the core until that is
resent. -/
def execQueueRefusal (core : Nat) (s : State) : Host.Outcome State Fault Refusal :=
  .next (match s.nextCommand core with
    | none => s
    | some o =>
      if s.queueTakes core o.tag.eng o.unit then s
      else { s with refusals := s.refusals ++ [⟨core, o.tag.eng, o.unit, s.backoffOf core⟩] })

/-- A core resends the held commands of a queue that refused it: the first is accepted, or refused again with twice the
back-off (R15, R16). -/
def State.resend (s : State) (x : QRefusal) : State :=
  match s.ops.find? fun o => s.sendable x.core o && o.tag.eng == x.eng && o.unit == x.unit with
  | none => { s with refusals := s.refusals.filter (· != x) }
  | some o =>
    if s.queueTakes x.core x.eng x.unit then { s with refusals := s.refusals.filter (· != x) }.acceptOp o
    else { s with refusals := s.refusals.map fun y => if y = x then { x with backoff := min 4096 (2 * x.backoff) } else y }

/-- QUEUE_RESEND (R15, R16): a core resends to a queue that refused it, first to one that takes its command. -/
def execQueueResend (core : Nat) (s : State) : Host.Outcome State Fault Refusal :=
  .next (let mine := s.refusals.filter fun x => x.core == core
    match mine.find? fun x => s.queueTakes core x.eng x.unit with
    | some x => s.resend x
    | none => match mine with
      | x :: _ => s.resend x
      | [] => s)

end Sys2Proof.Machine
end

