-- ==== Sys2Proof/Machine/ScalarAlu.lean ====
section
/-!
DEFINITION. The scalar pipe: majors 0x03 to 0x09 (R113–R117, R134), but for REGGROW and REGSHRINK.
-/

namespace Sys2Proof.Machine

/-- SADD (R113, Table 5.2): a + b. -/
def execSadd (d a : BitVec 7) (b : SB) (s : State) : Host.Outcome State Fault Refusal :=
  scalarOp (.sadd d a b) s d fun r => r.s a + r.sb b

/-- SSUB (R113, Table 5.2): a − b. -/
def execSsub (d a : BitVec 7) (b : SB) (s : State) : Host.Outcome State Fault Refusal :=
  scalarOp (.ssub d a b) s d fun r => r.s a - r.sb b

/-- SMUL (R113, Table 5.2): a × b, low word. -/
def execSmul (d a : BitVec 7) (b : SB) (s : State) : Host.Outcome State Fault Refusal :=
  scalarOp (.smul d a b) s d fun r => r.s a * r.sb b

/-- SMULH (R113, Table 5.2): high word of the signed product. -/
def execSmulh (d a : BitVec 7) (b : SB) (s : State) : Host.Outcome State Fault Refusal :=
  scalarOp (.smulh d a b) s d fun r => mulh32 (r.s a) (r.sb b)

/-- SAND (R113, Table 5.2): a AND b. -/
def execSand (d a : BitVec 7) (b : SB) (s : State) : Host.Outcome State Fault Refusal :=
  scalarOp (.sand d a b) s d fun r => r.s a &&& r.sb b

/-- SOR (R113, Table 5.2): a OR b. -/
def execSor (d a : BitVec 7) (b : SB) (s : State) : Host.Outcome State Fault Refusal :=
  scalarOp (.sor d a b) s d fun r => r.s a ||| r.sb b

/-- SXOR (R113, Table 5.2): a XOR b. -/
def execSxor (d a : BitVec 7) (b : SB) (s : State) : Host.Outcome State Fault Refusal :=
  scalarOp (.sxor d a b) s d fun r => r.s a ^^^ r.sb b

/-- SSHL (R113, Table 5.2): a shifted left. -/
def execSshl (d a : BitVec 7) (b : SB) (s : State) : Host.Outcome State Fault Refusal :=
  scalarOp (.sshl d a b) s d fun r => shl32 (r.s a) (r.sb b)

/-- SSHR (R113, Table 5.2): a shifted right, zero fill. -/
def execSshr (d a : BitVec 7) (b : SB) (s : State) : Host.Outcome State Fault Refusal :=
  scalarOp (.sshr d a b) s d fun r => shr32 (r.s a) (r.sb b)

/-- SSRA (R113, Table 5.2): a shifted right, sign fill. -/
def execSsra (d a : BitVec 7) (b : SB) (s : State) : Host.Outcome State Fault Refusal :=
  scalarOp (.ssra d a b) s d fun r => sra32 (r.s a) (r.sb b)

/-- SMIN (R113, Table 5.2): signed minimum. -/
def execSmin (d a : BitVec 7) (b : SB) (s : State) : Host.Outcome State Fault Refusal :=
  scalarOp (.smin d a b) s d fun r => smin32 (r.s a) (r.sb b)

/-- SMAX (R113, Table 5.2): signed maximum. -/
def execSmax (d a : BitVec 7) (b : SB) (s : State) : Host.Outcome State Fault Refusal :=
  scalarOp (.smax d a b) s d fun r => smax32 (r.s a) (r.sb b)

/-- SADD_I (R50, R113): a + b, b the widened IMM8. -/
def execSaddI (d a : BitVec 7) (imm : BitVec 8) (s : State) : Host.Outcome State Fault Refusal :=
  scalarOp (.saddI d a imm) s d fun r => r.s a + immS imm

/-- SSUB_I (R50, R113): a − b, b the widened IMM8. -/
def execSsubI (d a : BitVec 7) (imm : BitVec 8) (s : State) : Host.Outcome State Fault Refusal :=
  scalarOp (.ssubI d a imm) s d fun r => r.s a - immS imm

/-- SMUL_I (R50, R113): a × b, low word, b the widened IMM8. -/
def execSmulI (d a : BitVec 7) (imm : BitVec 8) (s : State) : Host.Outcome State Fault Refusal :=
  scalarOp (.smulI d a imm) s d fun r => r.s a * immS imm

/-- SMULH_I (R50, R113): high word of the signed product, b the widened IMM8. -/
def execSmulhI (d a : BitVec 7) (imm : BitVec 8) (s : State) : Host.Outcome State Fault Refusal :=
  scalarOp (.smulhI d a imm) s d fun r => mulh32 (r.s a) (immS imm)

/-- SAND_I (R50, R113): a AND b, b the widened IMM8. -/
def execSandI (d a : BitVec 7) (imm : BitVec 8) (s : State) : Host.Outcome State Fault Refusal :=
  scalarOp (.sandI d a imm) s d fun r => r.s a &&& immZ imm

/-- SOR_I (R50, R113): a OR b, b the widened IMM8. -/
def execSorI (d a : BitVec 7) (imm : BitVec 8) (s : State) : Host.Outcome State Fault Refusal :=
  scalarOp (.sorI d a imm) s d fun r => r.s a ||| immZ imm

/-- SXOR_I (R50, R113): a XOR b, b the widened IMM8. -/
def execSxorI (d a : BitVec 7) (imm : BitVec 8) (s : State) : Host.Outcome State Fault Refusal :=
  scalarOp (.sxorI d a imm) s d fun r => r.s a ^^^ immZ imm

/-- SSHL_I (R50, R113): a shifted left, b the widened IMM8. -/
def execSshlI (d a : BitVec 7) (imm : BitVec 8) (s : State) : Host.Outcome State Fault Refusal :=
  scalarOp (.sshlI d a imm) s d fun r => shl32 (r.s a) (immZ imm)

/-- SSHR_I (R50, R113): a shifted right, zero fill, b the widened IMM8. -/
def execSshrI (d a : BitVec 7) (imm : BitVec 8) (s : State) : Host.Outcome State Fault Refusal :=
  scalarOp (.sshrI d a imm) s d fun r => shr32 (r.s a) (immZ imm)

/-- SSRA_I (R50, R113): a shifted right, sign fill, b the widened IMM8. -/
def execSsraI (d a : BitVec 7) (imm : BitVec 8) (s : State) : Host.Outcome State Fault Refusal :=
  scalarOp (.ssraI d a imm) s d fun r => sra32 (r.s a) (immZ imm)

/-- SMIN_I (R50, R113): signed minimum, b the widened IMM8. -/
def execSminI (d a : BitVec 7) (imm : BitVec 8) (s : State) : Host.Outcome State Fault Refusal :=
  scalarOp (.sminI d a imm) s d fun r => smin32 (r.s a) (immS imm)

/-- SMAX_I (R50, R113): signed maximum, b the widened IMM8. -/
def execSmaxI (d a : BitVec 7) (imm : BitVec 8) (s : State) : Host.Outcome State Fault Refusal :=
  scalarOp (.smaxI d a imm) s d fun r => smax32 (r.s a) (immS imm)

/-- SMOV (R113): b. -/
def execSmov (d : BitVec 7) (b : SB) (s : State) : Host.Outcome State Fault Refusal :=
  scalarOp (.smov d b) s d fun r => r.sb b

/-- SMOV_I (R50, R113): the sign-extended IMM8. -/
def execSmovI (d : BitVec 7) (imm : BitVec 8) (s : State) : Host.Outcome State Fault Refusal :=
  scalarOp (.smovI d imm) s d fun _ => immS imm

/-- SADD64 (R113): the pair sum. -/
def execSadd64 (d a : BitVec 7) (b : SB) (s : State) : Host.Outcome State Fault Refusal :=
  scalarOp64 (.sadd64 d a b) s d fun r => r.s2 a + r.sb64 b

/-- SSUB64 (R113): the pair difference. -/
def execSsub64 (d a : BitVec 7) (b : SB) (s : State) : Host.Outcome State Fault Refusal :=
  scalarOp64 (.ssub64 d a b) s d fun r => r.s2 a - r.sb64 b

/-- SADD64_I (R50, R113). -/
def execSadd64I (d a : BitVec 7) (imm : BitVec 8) (s : State) : Host.Outcome State Fault Refusal :=
  scalarOp64 (.sadd64I d a imm) s d fun r => r.s2 a + immS64 imm

/-- SSUB64_I (R50, R113). -/
def execSsub64I (d a : BitVec 7) (imm : BitVec 8) (s : State) : Host.Outcome State Fault Refusal :=
  scalarOp64 (.ssub64I d a imm) s d fun r => r.s2 a - immS64 imm

/-- SSEL (R113): a if the old s(d) is not zero, else b. -/
def execSsel (d a : BitVec 7) (b : SB) (s : State) : Host.Outcome State Fault Refusal :=
  scalarOp (.ssel d a b) s d fun r => if r.s d = 0 then r.sb b else r.s a

/-- SCMP (R114): all ones if the condition holds, else zero. -/
def execScmp (cc : ICmp) (d a : BitVec 7) (b : SB) (s : State) : Host.Outcome State Fault Refusal :=
  scalarOp (.scmp cc d a b) s d fun r => boolWord (icmpHolds cc (r.s a) (r.sb b))

/-- What RDSR reads (Table 2.3, R116). -/
def Src.special (r : Src) (s : State) (n : Nat) : DWord :=
  let core := r.key / 32
  match n with
  | 0 => BitVec.ofNat 64 r.t.idx
  | 1 => r.t.batchId
  | 2 => r.t.clusterId.setWidth 64
  | 3 => r.t.launchId.setWidth 64
  | 4 => BitVec.ofNat 64 core
  | 5 => BitVec.ofNat 64 (core / 256)
  | 6 => BitVec.ofNat 64 r.t.ctx
  | 7 => (s.ctx r.t.ctx).step.setWidth 64
  | 8 => r.t.fpctl.setWidth 64
  | 9 => r.t.fpstat.setWidth 64
  | 10 => r.t.cause.setWidth 32 |>.setWidth 64
  | 11 => r.t.cause >>> 32
  | 12 => r.t.epc
  | 13 => BitVec.ofNat 64 r.t.vwin
  | 14 => r.t.gangsel.setWidth 64
  | _ => r.clock

/-- RDSR (R34, R116): copies a special register into s(d), or into a pair for BATCHID, EPC and CLOCK. -/
def execRdsr (d a : BitVec 7) (s : State) : Host.Outcome State Fault Refusal :=
  issue (Instr.rdsr d a).opnds s fun r t s =>
    let v := r.special s a.toNat
    .ok (if sprRegs a = 2 then t.setSpair r.i d.toNat v else t.setSreg r.i d.toNat (lo32 v)) s

/-- The bits of EPC that a write keeps: [45:0] and S (Table 2.3). -/
def epcBits : DWord := 0x80003FFFFFFFFFFF

/-- WRSR (R34, R98, R116): FPCTL, FPSTAT and EPC are writable; every other register is ILLEGAL. Flags that the chain's
words merge survive a WRSR of FPSTAT in it. -/
def execWrsr (a : BitVec 7) (b : SB) (s : State) : Host.Outcome State Fault Refusal :=
  issue (Instr.wrsr a b).opnds s fun r t s =>
    match a.toNat with
    | 8 => .ok { t with fpctl := (r.sb b).setWidth 7 } s
    | 9 => .ok { t with fpstat := (r.sb b).setWidth 5 ||| t.chainFl } s
    | 12 => .ok { t with epc := r.sbz64 b &&& epcBits } s
    | _ => .early .illegal

/-- VWIN (R117): the new window base must be a multiple of 32 below 1,024; ILLEGAL with two path slots. -/
def execVwin (b : SB) (s : State) : Host.Outcome State Fault Refusal :=
  issue (Instr.vwin b).opnds s fun r t s =>
    let v := (r.sb b).toNat
    if r.t.p1.isSome || v % 32 != 0 || 1024 ≤ v then .early .illegal else .ok { t with vwin := v } s

/-- Bits of a mask triple that are one. -/
def popMask (m : Mask) : Nat := (maskThreads m).length

/-- An instruction that writes a mask triple (R134). -/
def maskOp (i : Instr) (s : State) (d : BitVec 7) (f : Src → Mask) : Host.Outcome State Fault Refusal :=
  issueTray i.opnds s fun r t => t.setMreg r.i d.toNat (f r)

/-- MAND (R134, Table 6.2). -/
def execMand (d a : BitVec 7) (b : MB) (s : State) : Host.Outcome State Fault Refusal :=
  maskOp (.mand d a b) s d fun r => r.m a &&& r.mb b

/-- MOR (R134, Table 6.2). -/
def execMor (d a : BitVec 7) (b : MB) (s : State) : Host.Outcome State Fault Refusal :=
  maskOp (.mor d a b) s d fun r => r.m a ||| r.mb b

/-- MXOR (R134, Table 6.2). -/
def execMxor (d a : BitVec 7) (b : MB) (s : State) : Host.Outcome State Fault Refusal :=
  maskOp (.mxor d a b) s d fun r => r.m a ^^^ r.mb b

/-- MANDN (R134, Table 6.2). -/
def execMandn (d a : BitVec 7) (b : MB) (s : State) : Host.Outcome State Fault Refusal :=
  maskOp (.mandn d a b) s d fun r => r.m a &&& ~~~(r.mb b)

/-- MPOP (R134): the number of one bits. -/
def execMpop (d : BitVec 7) (b : MB) (s : State) : Host.Outcome State Fault Refusal :=
  scalarOp (.mpop d b) s d fun r => BitVec.ofNat 32 (popMask (r.mb b))

/-- MFIRST (R134): the lowest thread whose bit is one, or 0xFFFFFFFF. -/
def execMfirst (d : BitVec 7) (b : MB) (s : State) : Host.Outcome State Fault Refusal :=
  scalarOp (.mfirst d b) s d fun r => match (maskThreads (r.mb b)).head? with
    | some t => BitVec.ofNat 32 t
    | none => 0xFFFFFFFF

/-- MSET (R134): bit t is one when thread t is active and its v(a) is not zero. -/
def execMset (d a : BitVec 7) (s : State) : Host.Outcome State Fault Refusal :=
  maskOp (.mset d a) s d fun r =>
    BitVec.ofNat 96 ((maskThreads r.m0).map fun t => if r.v a t = 0 then 0 else 2 ^ t).sum

/-- MMOV (R134): b. -/
def execMmov (d : BitVec 7) (b : MB) (s : State) : Host.Outcome State Fault Refusal :=
  maskOp (.mmov d b) s d fun r => r.mb b

end Sys2Proof.Machine
end

