-- ==== Sys2Proof/Machine/Trap.lean ====
section
/-!
DEFINITION. The return from an exception and the other words of a handler: TRET, TREFL, TCLR (R406).
-/

namespace Sys2Proof.Machine

/-- TRET (R406): EPC is checked as a branch target, the mask's causes are cleared; with none left the tray departs if it is
marked, else it resumes at EPC; otherwise the remaining causes are delivered. -/
def execTret (b : SB) (s : State) : Host.Outcome State Fault Refusal :=
  engine (tretOpnds b) s fun r t s =>
    if !s.targetOk (r.key / 32) t.ctx (epcPc r.t.epc) (epcS r.t.epc) then .trap t s [.badtarget]
    else
      let t := { t with cause := t.cause &&& ~~~r.sbz64 b }
      if t.cause = 0 then .ok (t.resume r.i r.t.epc).departIfMarked s
      else r.settle t s fun s => s.redeliver r.key

/-- TREFL (R406): the mask's causes that are set are reflected and cleared, and the tray parks at the next word until it is
resumed. -/
def execTrefl (b : SB) (s : State) : Host.Outcome State Fault Refusal :=
  engine (treflOpnds b) s fun r t s =>
    let m := t.cause &&& r.sbz64 b
    if m = 0 then .ok t s
    else r.settle t s fun s =>
      (s.reflect r.key m 2 0 none true).onTray r.key fun t => { t with cause := t.cause &&& ~~~m }

/-- TCLR (R406). -/
def execTclr (b : SB) (s : State) : Host.Outcome State Fault Refusal :=
  engine (tclrOpnds b) s fun r t s => .ok { t with cause := t.cause &&& ~~~r.sbz64 b } s

end Sys2Proof.Machine
end

