-- ==== Sys2Proof/Machine/VectorAlu.lean ====
section
/-!
DEFINITION. Integer vector work and indexed registers: majors 0x0A to 0x10 (R118, R119, R151, R152).
-/

namespace Sys2Proof.Machine

/-- VADD (R118, Table 5.5): a + b. -/
def execVadd (d a : BitVec 7) (b : VB) (s : State) : Host.Outcome State Fault Refusal :=
  vectorOp (.vadd d a b) s d fun r th => r.v a th + r.vb th b

/-- VSUB (R118, Table 5.5): a − b. -/
def execVsub (d a : BitVec 7) (b : VB) (s : State) : Host.Outcome State Fault Refusal :=
  vectorOp (.vsub d a b) s d fun r th => r.v a th - r.vb th b

/-- VMUL (R118, Table 5.5): a × b, low word. -/
def execVmul (d a : BitVec 7) (b : VB) (s : State) : Host.Outcome State Fault Refusal :=
  vectorOp (.vmul d a b) s d fun r th => r.v a th * r.vb th b

/-- VMULH (R118, Table 5.5): high word of the signed product. -/
def execVmulh (d a : BitVec 7) (b : VB) (s : State) : Host.Outcome State Fault Refusal :=
  vectorOp (.vmulh d a b) s d fun r th => mulh32 (r.v a th) (r.vb th b)

/-- VMAD (R118, Table 5.5): a × old v(d) + b, low word. -/
def execVmad (d a : BitVec 7) (b : VB) (s : State) : Host.Outcome State Fault Refusal :=
  vectorOp (.vmad d a b) s d fun r th => r.v a th * r.v d th + r.vb th b

/-- VAND (R118, Table 5.5): a AND b. -/
def execVand (d a : BitVec 7) (b : VB) (s : State) : Host.Outcome State Fault Refusal :=
  vectorOp (.vand d a b) s d fun r th => r.v a th &&& r.vb th b

/-- VOR (R118, Table 5.5): a OR b. -/
def execVor (d a : BitVec 7) (b : VB) (s : State) : Host.Outcome State Fault Refusal :=
  vectorOp (.vor d a b) s d fun r th => r.v a th ||| r.vb th b

/-- VXOR (R118, Table 5.5): a XOR b. -/
def execVxor (d a : BitVec 7) (b : VB) (s : State) : Host.Outcome State Fault Refusal :=
  vectorOp (.vxor d a b) s d fun r th => r.v a th ^^^ r.vb th b

/-- VSHL (R118, Table 5.5): a shifted left. -/
def execVshl (d a : BitVec 7) (b : VB) (s : State) : Host.Outcome State Fault Refusal :=
  vectorOp (.vshl d a b) s d fun r th => shl32 (r.v a th) (r.vb th b)

/-- VSHR (R118, Table 5.5): a shifted right, zero fill. -/
def execVshr (d a : BitVec 7) (b : VB) (s : State) : Host.Outcome State Fault Refusal :=
  vectorOp (.vshr d a b) s d fun r th => shr32 (r.v a th) (r.vb th b)

/-- VSRA (R118, Table 5.5): a shifted right, sign fill. -/
def execVsra (d a : BitVec 7) (b : VB) (s : State) : Host.Outcome State Fault Refusal :=
  vectorOp (.vsra d a b) s d fun r th => sra32 (r.v a th) (r.vb th b)

/-- VMIN (R118, Table 5.5): signed minimum. -/
def execVmin (d a : BitVec 7) (b : VB) (s : State) : Host.Outcome State Fault Refusal :=
  vectorOp (.vmin d a b) s d fun r th => smin32 (r.v a th) (r.vb th b)

/-- VMAX (R118, Table 5.5): signed maximum. -/
def execVmax (d a : BitVec 7) (b : VB) (s : State) : Host.Outcome State Fault Refusal :=
  vectorOp (.vmax d a b) s d fun r th => smax32 (r.v a th) (r.vb th b)

/-- VADD_I (R50, R118): a + b, b the widened IMM8. -/
def execVaddI (d a : BitVec 7) (imm : BitVec 8) (s : State) : Host.Outcome State Fault Refusal :=
  vectorOp (.vaddI d a imm) s d fun r th => r.v a th + immS imm

/-- VSUB_I (R50, R118): a − b, b the widened IMM8. -/
def execVsubI (d a : BitVec 7) (imm : BitVec 8) (s : State) : Host.Outcome State Fault Refusal :=
  vectorOp (.vsubI d a imm) s d fun r th => r.v a th - immS imm

/-- VMUL_I (R50, R118): a × b, low word, b the widened IMM8. -/
def execVmulI (d a : BitVec 7) (imm : BitVec 8) (s : State) : Host.Outcome State Fault Refusal :=
  vectorOp (.vmulI d a imm) s d fun r th => r.v a th * immS imm

/-- VMULH_I (R50, R118): high word of the signed product, b the widened IMM8. -/
def execVmulhI (d a : BitVec 7) (imm : BitVec 8) (s : State) : Host.Outcome State Fault Refusal :=
  vectorOp (.vmulhI d a imm) s d fun r th => mulh32 (r.v a th) (immS imm)

/-- VMAD_I (R50, R118): a × old v(d) + b, low word, b the widened IMM8. -/
def execVmadI (d a : BitVec 7) (imm : BitVec 8) (s : State) : Host.Outcome State Fault Refusal :=
  vectorOp (.vmadI d a imm) s d fun r th => r.v a th * r.v d th + immS imm

/-- VAND_I (R50, R118): a AND b, b the widened IMM8. -/
def execVandI (d a : BitVec 7) (imm : BitVec 8) (s : State) : Host.Outcome State Fault Refusal :=
  vectorOp (.vandI d a imm) s d fun r th => r.v a th &&& immZ imm

/-- VOR_I (R50, R118): a OR b, b the widened IMM8. -/
def execVorI (d a : BitVec 7) (imm : BitVec 8) (s : State) : Host.Outcome State Fault Refusal :=
  vectorOp (.vorI d a imm) s d fun r th => r.v a th ||| immZ imm

/-- VXOR_I (R50, R118): a XOR b, b the widened IMM8. -/
def execVxorI (d a : BitVec 7) (imm : BitVec 8) (s : State) : Host.Outcome State Fault Refusal :=
  vectorOp (.vxorI d a imm) s d fun r th => r.v a th ^^^ immZ imm

/-- VSHL_I (R50, R118): a shifted left, b the widened IMM8. -/
def execVshlI (d a : BitVec 7) (imm : BitVec 8) (s : State) : Host.Outcome State Fault Refusal :=
  vectorOp (.vshlI d a imm) s d fun r th => shl32 (r.v a th) (immZ imm)

/-- VSHR_I (R50, R118): a shifted right, zero fill, b the widened IMM8. -/
def execVshrI (d a : BitVec 7) (imm : BitVec 8) (s : State) : Host.Outcome State Fault Refusal :=
  vectorOp (.vshrI d a imm) s d fun r th => shr32 (r.v a th) (immZ imm)

/-- VSRA_I (R50, R118): a shifted right, sign fill, b the widened IMM8. -/
def execVsraI (d a : BitVec 7) (imm : BitVec 8) (s : State) : Host.Outcome State Fault Refusal :=
  vectorOp (.vsraI d a imm) s d fun r th => sra32 (r.v a th) (immZ imm)

/-- VMIN_I (R50, R118): signed minimum, b the widened IMM8. -/
def execVminI (d a : BitVec 7) (imm : BitVec 8) (s : State) : Host.Outcome State Fault Refusal :=
  vectorOp (.vminI d a imm) s d fun r th => smin32 (r.v a th) (immS imm)

/-- VMAX_I (R50, R118): signed maximum, b the widened IMM8. -/
def execVmaxI (d a : BitVec 7) (imm : BitVec 8) (s : State) : Host.Outcome State Fault Refusal :=
  vectorOp (.vmaxI d a imm) s d fun r th => smax32 (r.v a th) (immS imm)

/-- VADD64 (R118, Table 5.5). -/
def execVadd64 (d a : BitVec 7) (b : VB) (s : State) : Host.Outcome State Fault Refusal :=
  vectorOp64 (.vadd64 d a b) s d fun r th => r.v2 a th + r.vb64 th b

/-- VADD64_I (R118, Table 5.5). -/
def execVadd64I (d a : BitVec 7) (imm : BitVec 8) (s : State) : Host.Outcome State Fault Refusal :=
  vectorOp64 (.vadd64I d a imm) s d fun r th => r.v2 a th + immS64 imm

/-- VMAD64 (R118, Table 5.5). -/
def execVmad64 (d a : BitVec 7) (b : VB) (s : State) : Host.Outcome State Fault Refusal :=
  vectorOp64 (.vmad64 d a b) s d fun r th => (r.v a th).signExtend 64 * r.v2 d th + r.vb64 th b

/-- VMAD64_I (R118, Table 5.5). -/
def execVmad64I (d a : BitVec 7) (imm : BitVec 8) (s : State) : Host.Outcome State Fault Refusal :=
  vectorOp64 (.vmad64I d a imm) s d fun r th => (r.v a th).signExtend 64 * r.v2 d th + immS64 imm

/-- VSEL (R118): a if the old v(d) is not zero, else b. -/
def execVsel (d a : BitVec 7) (b : VB) (s : State) : Host.Outcome State Fault Refusal :=
  vectorOp (.vsel d a b) s d fun r th => if r.v d th = 0 then r.vb th b else r.v a th

/-- VMOV (R118, Table 5.5). -/
def execVmov (d : BitVec 7) (b : VB) (s : State) : Host.Outcome State Fault Refusal :=
  vectorOp (.vmov d b) s d fun r th => r.vb th b

/-- VNOT (R118, Table 5.5). -/
def execVnot (d : BitVec 7) (b : VB) (s : State) : Host.Outcome State Fault Refusal :=
  vectorOp (.vnot d b) s d fun r th => ~~~(r.vb th b)

/-- VABS (R118, Table 5.5). -/
def execVabs (d : BitVec 7) (b : VB) (s : State) : Host.Outcome State Fault Refusal :=
  vectorOp (.vabs d b) s d fun r th => abs32 (r.vb th b)

/-- VCLZ (R118, Table 5.5). -/
def execVclz (d : BitVec 7) (b : VB) (s : State) : Host.Outcome State Fault Refusal :=
  vectorOp (.vclz d b) s d fun r th => clz32 (r.vb th b)

/-- VPOPC (R118, Table 5.5). -/
def execVpopc (d : BitVec 7) (b : VB) (s : State) : Host.Outcome State Fault Refusal :=
  vectorOp (.vpopc d b) s d fun r th => popc32 (r.vb th b)

/-- VBREV (R118, Table 5.5). -/
def execVbrev (d : BitVec 7) (b : VB) (s : State) : Host.Outcome State Fault Refusal :=
  vectorOp (.vbrev d b) s d fun r th => brev32 (r.vb th b)

/-- VBFE (R119). -/
def execVbfe (d a : BitVec 7) (b : VB) (s : State) : Host.Outcome State Fault Refusal :=
  vectorOp (.vbfe d a b) s d fun r th => bfe32 (r.v a th) (r.vb th b)

/-- VBFI (R119). -/
def execVbfi (d a : BitVec 7) (b : VB) (s : State) : Host.Outcome State Fault Refusal :=
  vectorOp (.vbfi d a b) s d fun r th => bfi32 (r.v d th) (r.v a th) (r.vb th b)

/-- VCMP (R118, Table 5.3). -/
def execVcmp (cc : ICmp) (d a : BitVec 7) (b : VB) (s : State) : Host.Outcome State Fault Refusal :=
  vectorOp (.vcmp cc d a b) s d fun r th => boolWord (icmpHolds cc (r.v a th) (r.vb th b))

/-- VIDX (R151, R152): thread t reads its physical register v(a) + b; REGOVF where any active thread's is at or beyond
N. It waits while a result is pending for one of them (R31). -/
def execVidx (d a : BitVec 7) (b : VB) (s : State) : Host.Outcome State Fault Refusal :=
  issue (Instr.vidx d a b).opnds s fun r t s =>
    let p (th : Nat) : Nat := (r.v a th + r.vb th b).toNat
    if (maskThreads r.m0).any fun th => r.t.n ≤ p th then .early .regovf
    else if (maskThreads r.m0).any fun th => r.t.bindsV (p th) then .stay
    else .ok (r.fill t d fun th => r.t.phys (p th) th) s

/-- VIDXW (R151, R152): thread t's physical register v(a) + b takes v(d). -/
def execVidxw (d a : BitVec 7) (b : VB) (s : State) : Host.Outcome State Fault Refusal :=
  issue (Instr.vidxw d a b).opnds s fun r t s =>
    let p (th : Nat) : Nat := (r.v a th + r.vb th b).toNat
    if (maskThreads r.m0).any fun th => r.t.n ≤ p th then .early .regovf
    else if (maskThreads r.m0).any fun th => r.t.bindsV (p th) then .stay
    else .ok { t with vregs := (maskThreads r.m0).foldl (fun m th => smSet m (vkey (p th) th) (r.v d th)) t.vregs } s

/-- VLANE (R151): the lane, the thread or the row of each active thread. -/
def execVlane (d : BitVec 7) (sel : BitVec 8) (s : State) : Host.Outcome State Fault Refusal :=
  issue (Instr.vlane d sel).opnds s fun r t s =>
    if 3 ≤ sel.toNat then .early .illegal
    else .ok (r.fill t d fun th =>
      BitVec.ofNat 32 (if sel.toNat = 0 then th % 32 else if sel.toNat = 1 then th else th / 32)) s

/-- VGETS (R151, R152): scalar register v(a) + b of each active thread; REGOVF above s95. -/
def execVgets (d a : BitVec 7) (b : VB) (s : State) : Host.Outcome State Fault Refusal :=
  issue (Instr.vgets d a b).opnds s fun r t s =>
    let p (th : Nat) : Nat := (r.v a th + r.vb th b).toNat
    if (maskThreads r.m0).any fun th => 96 ≤ p th then .early .regovf
    else if (maskThreads r.m0).any fun th => r.t.bindsS (p th) then .stay
    else .ok (r.fill t d fun th => r.t.sreg r.i (p th)) s

end Sys2Proof.Machine
end

