-- ==== Sys2Proof/Machine/Yield.lean ====
section
/-!
DEFINITION. YIELD and its wake (R144, R145), which also ends the yielding form of RWAIT (R269).
-/

namespace Sys2Proof.Machine

/-- What a wake condition comes to: it does not hold; its parameter is one that the observing instruction rejects; or it
holds, with the causes that instruction raises, the value it returns, and whether it acquires and at which scope. -/
inductive WakeRes where
  | waits
  | bad (c : Cause)
  | ready (causes : List Cause) (v : Word) (scope : Option Nat)
  deriving DecidableEq, Repr

/-- The limits in YIELD's parameter, at the places they have in WAITC's word (Table 6.6). -/
def cntLimits (w : Word) : Limits := ⟨bits w.toNat 24 20, bits w.toNat 19 15, bits w.toNat 14 10, bits w.toNat 9 5⟩

/-- The causes left for some counters. -/
def Tray.obsOf (t : Tray) (l : List Ctr) : List Cause := (t.obs.filter fun o => l.contains o.1).map (·.2)

/-- Evaluate a wake condition of Table 6.6 for a tray on a core; NONE holds once its 64 clocks have passed, which the wake
itself lets pass. A parameter that the observing instruction rejects is rejected (R145): CWAIT takes a counter number
of 12 bits (R319). -/
def State.wakeCheck (s : State) (core : Nat) (t : Tray) (cond : Nat) (p0 p1 : Word) (later : Bool) : WakeRes :=
  match cond with
  | 0 => if later then .ready [] 0 none else .waits
  | 1 =>
    if (s.copyUnit t.ctx core).isNone then .bad .cap
    else match (s.clusterFor t).ringWait p0.toNat with
      | .bad => .bad .ring
      | .empty => .waits
      | .ready off err => .ready (if err then [.copyerr] else []) (BitVec.ofNat 32 off) (some 2)
  | 2 =>
    let own := (s.ctx t.ctx).own
    let k := p0.toNat
    if 4096 ≤ k then .bad .illegal
    else if own.ual = 0 ∨ !own.counters.getLsbD k then .bad .cap
    else if !s.trigReady k p1 then .waits
    else .ready (if (s.trig k).err = 0 then [] else [(s.trig k).cause]) (s.trig k).value (some 4)
  | 3 => if t.under (cntLimits p0) then .ready (t.obsOf (cntLimits p0).observes) 0 none else .waits
  | _ =>
    let (n, st) := s.lstat t.ctx (s.slotOf t) 0 p0
    if st % 4 = 0 then .waits
    else .ready [] 0 (if st % 4 = 1 ∨ (st % 4 = 2 ∧ n = 0) then some 4 else none)

/-- The parameters a YIELD waits with: none are read for NONE, which waits for the CLOCK of 64 clocks later; TRIG reads two
registers, the others one (R144). -/
def State.yieldParams (s : State) (r : Src) (cond : BitVec 3) (p : BitVec 7) : Word × Word :=
  if cond = 0 then (lo32 (s.now + 64), hi32 (s.now + 64)) else (r.s p, if cond = 2 then r.sn p 1 else 0)

/-- At a wake from NONE its 64 clocks have passed: CLOCK is at least the one its parameters name, which is at most 64 ahead
(R144). -/
def State.wakeClock (s : State) (cond : Nat) (p0 p1 : Word) : State :=
  if cond = 0 ∧ (pair p0 p1 - s.now).toNat ≤ 64 then { s with now := pair p0 p1 } else s

/-- The tray and state as a wake leaves them, but for the PC: what the observing instruction joins and acquires, and the
causes it took from the tray (R145). -/
def State.wakeDone (s : State) (core : Nat) (t : Tray) (cond : Nat) (p0 : Word) (scope : Option Nat) : Tray × State :=
  let t := if cond = 3 then (t.takeObs (cntLimits p0).observes).2 else t
  let (t, s) := if cond = 3 then s.join core t else (t, s)
  match scope with
  | some k => (t, s.acquire core t k)
  | none => (t, s)

/-- YIELD (R144, R145). -/
def execYield (cond : BitVec 3) (p c : BitVec 7) (s : State) : Host.Outcome State Fault Refusal :=
  issue (Instr.yield cond p c).opnds s fun r t s =>
    let (p0, p1) := s.yieldParams r cond p
    let cont := r.s2 c
    if r.t.p1.isSome then .early .illegal
    else
      let res := s.wakeCheck (r.key / 32) t cond.toNat p0 p1 false
      if res = .bad .cap then .early .cap
      else if res = .bad .illegal then .early .illegal
      else if 2 ^ 46 ≤ cont.toNat || !s.targetOk (r.key / 32) t.ctx (cont.setWidth 46) then .trap t s [.badtarget]
      else match res with
        | .bad k => .trap t s [k]
        | .waits => .ok { t.setPc r.i r.pc with wait := .yield cond.toNat p0 p1 (cont.setWidth 46) none } s
        | .ready cs _ scope =>
          let (t, s) := s.wakeDone (r.key / 32) t cond.toNat p0 scope
          let t := t.setPc r.i (cont.setWidth 46)
          if cs.isEmpty then .ok t s else .later t s cs none

/-- YIELD_WAKE (R145): a yielded tray whose condition holds becomes a candidate at its continuation. -/
def execYieldWake (tray : Nat) (s : State) : Host.Outcome State Fault Refusal :=
  .next (match s.trays.get? tray with
    | none => s
    | some t =>
      match t.wait with
      | .yield cond p0 p1 cont dst =>
        if t.leave.isSome then s
        else
          let s := s.wakeClock cond p0 p1
          let go (cs : List Cause) (v : Word) (scope : Option Nat) : State :=
            let t := { t.setPc 0 cont with wait := .run }
            let t := match dst with
              | some d => t.setSreg 0 d v
              | none => t
            let (t, s) := s.wakeDone (tray / 32) t cond p0 scope
            let s := s.setTray tray t
            if cs.isEmpty then s else s.raise tray 0 cs cont false none
          match s.wakeCheck (tray / 32) t cond p0 p1 true with
          | .waits => s
          | .bad k => go [k] 0 none
          | .ready cs v scope => go cs v scope
      | _ => s)

end Sys2Proof.Machine
end

