-- ==== Sys2Proof/Machine/Dispatch.lean ====
section
/-!
DEFINITION. The one match that gives every instruction its meaning: one arm per constructor, one direct call each.
-/

namespace Sys2Proof.Machine

/-- What an instruction does in a state. -/
def exec (i : Instr) (s : State) : Host.Outcome State Fault Refusal :=
  match i with
  | .yield cond p c => Sys2Proof.Machine.execYield cond p c s
  | .waitc l st y m => Sys2Proof.Machine.execWaitc l st y m s
  | .trap x => Sys2Proof.Machine.execTrap x s
  | .sys x => Sys2Proof.Machine.execSys x s
  | .bra disp => Sys2Proof.Machine.execBra disp s
  | .bz x disp => Sys2Proof.Machine.execBz x disp s
  | .bnz x disp => Sys2Proof.Machine.execBnz x disp s
  | .bzm x disp => Sys2Proof.Machine.execBzm x disp s
  | .bnzm x disp => Sys2Proof.Machine.execBnzm x disp s
  | .brd x disp => Sys2Proof.Machine.execBrd x disp s
  | .call disp => Sys2Proof.Machine.execCall disp s
  | .calli x => Sys2Proof.Machine.execCalli x s
  | .ret x => Sys2Proof.Machine.execRet x s
  | .jmpi x => Sys2Proof.Machine.execJmpi x s
  | .loop x disp => Sys2Proof.Machine.execLoop x disp s
  | .sadd d a b => Sys2Proof.Machine.execSadd d a b s
  | .ssub d a b => Sys2Proof.Machine.execSsub d a b s
  | .smul d a b => Sys2Proof.Machine.execSmul d a b s
  | .smulh d a b => Sys2Proof.Machine.execSmulh d a b s
  | .sand d a b => Sys2Proof.Machine.execSand d a b s
  | .sor d a b => Sys2Proof.Machine.execSor d a b s
  | .sxor d a b => Sys2Proof.Machine.execSxor d a b s
  | .smov d b => Sys2Proof.Machine.execSmov d b s
  | .saddI d a imm => Sys2Proof.Machine.execSaddI d a imm s
  | .ssubI d a imm => Sys2Proof.Machine.execSsubI d a imm s
  | .smulI d a imm => Sys2Proof.Machine.execSmulI d a imm s
  | .smulhI d a imm => Sys2Proof.Machine.execSmulhI d a imm s
  | .sandI d a imm => Sys2Proof.Machine.execSandI d a imm s
  | .sorI d a imm => Sys2Proof.Machine.execSorI d a imm s
  | .sxorI d a imm => Sys2Proof.Machine.execSxorI d a imm s
  | .smovI d imm => Sys2Proof.Machine.execSmovI d imm s
  | .sshl d a b => Sys2Proof.Machine.execSshl d a b s
  | .sshr d a b => Sys2Proof.Machine.execSshr d a b s
  | .ssra d a b => Sys2Proof.Machine.execSsra d a b s
  | .smin d a b => Sys2Proof.Machine.execSmin d a b s
  | .smax d a b => Sys2Proof.Machine.execSmax d a b s
  | .sadd64 d a b => Sys2Proof.Machine.execSadd64 d a b s
  | .ssub64 d a b => Sys2Proof.Machine.execSsub64 d a b s
  | .ssel d a b => Sys2Proof.Machine.execSsel d a b s
  | .sshlI d a imm => Sys2Proof.Machine.execSshlI d a imm s
  | .sshrI d a imm => Sys2Proof.Machine.execSshrI d a imm s
  | .ssraI d a imm => Sys2Proof.Machine.execSsraI d a imm s
  | .sminI d a imm => Sys2Proof.Machine.execSminI d a imm s
  | .smaxI d a imm => Sys2Proof.Machine.execSmaxI d a imm s
  | .sadd64I d a imm => Sys2Proof.Machine.execSadd64I d a imm s
  | .ssub64I d a imm => Sys2Proof.Machine.execSsub64I d a imm s
  | .scmp cc d a b => Sys2Proof.Machine.execScmp cc d a b s
  | .mand d a b => Sys2Proof.Machine.execMand d a b s
  | .mor d a b => Sys2Proof.Machine.execMor d a b s
  | .mxor d a b => Sys2Proof.Machine.execMxor d a b s
  | .mandn d a b => Sys2Proof.Machine.execMandn d a b s
  | .mpop d b => Sys2Proof.Machine.execMpop d b s
  | .mfirst d b => Sys2Proof.Machine.execMfirst d b s
  | .mset d a => Sys2Proof.Machine.execMset d a s
  | .mmov d b => Sys2Proof.Machine.execMmov d b s
  | .rdsr d a => Sys2Proof.Machine.execRdsr d a s
  | .wrsr a b => Sys2Proof.Machine.execWrsr a b s
  | .vwin b => Sys2Proof.Machine.execVwin b s
  | .reggrow b => Sys2Proof.Machine.execReggrow b s
  | .regshrink b => Sys2Proof.Machine.execRegshrink b s
  | .vadd d a b => Sys2Proof.Machine.execVadd d a b s
  | .vsub d a b => Sys2Proof.Machine.execVsub d a b s
  | .vmul d a b => Sys2Proof.Machine.execVmul d a b s
  | .vmulh d a b => Sys2Proof.Machine.execVmulh d a b s
  | .vmad d a b => Sys2Proof.Machine.execVmad d a b s
  | .vand d a b => Sys2Proof.Machine.execVand d a b s
  | .vor d a b => Sys2Proof.Machine.execVor d a b s
  | .vxor d a b => Sys2Proof.Machine.execVxor d a b s
  | .vaddI d a imm => Sys2Proof.Machine.execVaddI d a imm s
  | .vsubI d a imm => Sys2Proof.Machine.execVsubI d a imm s
  | .vmulI d a imm => Sys2Proof.Machine.execVmulI d a imm s
  | .vmulhI d a imm => Sys2Proof.Machine.execVmulhI d a imm s
  | .vmadI d a imm => Sys2Proof.Machine.execVmadI d a imm s
  | .vandI d a imm => Sys2Proof.Machine.execVandI d a imm s
  | .vorI d a imm => Sys2Proof.Machine.execVorI d a imm s
  | .vxorI d a imm => Sys2Proof.Machine.execVxorI d a imm s
  | .vshl d a b => Sys2Proof.Machine.execVshl d a b s
  | .vshr d a b => Sys2Proof.Machine.execVshr d a b s
  | .vsra d a b => Sys2Proof.Machine.execVsra d a b s
  | .vmin d a b => Sys2Proof.Machine.execVmin d a b s
  | .vmax d a b => Sys2Proof.Machine.execVmax d a b s
  | .vadd64 d a b => Sys2Proof.Machine.execVadd64 d a b s
  | .vmad64 d a b => Sys2Proof.Machine.execVmad64 d a b s
  | .vsel d a b => Sys2Proof.Machine.execVsel d a b s
  | .vshlI d a imm => Sys2Proof.Machine.execVshlI d a imm s
  | .vshrI d a imm => Sys2Proof.Machine.execVshrI d a imm s
  | .vsraI d a imm => Sys2Proof.Machine.execVsraI d a imm s
  | .vminI d a imm => Sys2Proof.Machine.execVminI d a imm s
  | .vmaxI d a imm => Sys2Proof.Machine.execVmaxI d a imm s
  | .vadd64I d a imm => Sys2Proof.Machine.execVadd64I d a imm s
  | .vmad64I d a imm => Sys2Proof.Machine.execVmad64I d a imm s
  | .vmov d b => Sys2Proof.Machine.execVmov d b s
  | .vnot d b => Sys2Proof.Machine.execVnot d b s
  | .vabs d b => Sys2Proof.Machine.execVabs d b s
  | .vclz d b => Sys2Proof.Machine.execVclz d b s
  | .vpopc d b => Sys2Proof.Machine.execVpopc d b s
  | .vbrev d b => Sys2Proof.Machine.execVbrev d b s
  | .vbfe d a b => Sys2Proof.Machine.execVbfe d a b s
  | .vbfi d a b => Sys2Proof.Machine.execVbfi d a b s
  | .vcmp cc d a b => Sys2Proof.Machine.execVcmp cc d a b s
  | .vidx d a b => Sys2Proof.Machine.execVidx d a b s
  | .vidxw d a b => Sys2Proof.Machine.execVidxw d a b s
  | .vlane d sel => Sys2Proof.Machine.execVlane d sel s
  | .vgets d a b => Sys2Proof.Machine.execVgets d a b s
  | .fadd d a b => Sys2Proof.Machine.execFadd d a b s
  | .fsub d a b => Sys2Proof.Machine.execFsub d a b s
  | .fmul d a b => Sys2Proof.Machine.execFmul d a b s
  | .ffma d a b => Sys2Proof.Machine.execFfma d a b s
  | .ffms d a b => Sys2Proof.Machine.execFfms d a b s
  | .fnma d a b => Sys2Proof.Machine.execFnma d a b s
  | .fmin d a b => Sys2Proof.Machine.execFmin d a b s
  | .fmax d a b => Sys2Proof.Machine.execFmax d a b s
  | .faddI d a imm => Sys2Proof.Machine.execFaddI d a imm s
  | .fsubI d a imm => Sys2Proof.Machine.execFsubI d a imm s
  | .fmulI d a imm => Sys2Proof.Machine.execFmulI d a imm s
  | .ffmaI d a imm => Sys2Proof.Machine.execFfmaI d a imm s
  | .ffmsI d a imm => Sys2Proof.Machine.execFfmsI d a imm s
  | .fnmaI d a imm => Sys2Proof.Machine.execFnmaI d a imm s
  | .fminI d a imm => Sys2Proof.Machine.execFminI d a imm s
  | .fmaxI d a imm => Sys2Proof.Machine.execFmaxI d a imm s
  | .frcp d b => Sys2Proof.Machine.execFrcp d b s
  | .frsq d b => Sys2Proof.Machine.execFrsq d b s
  | .fsqrt d b => Sys2Proof.Machine.execFsqrt d b s
  | .fex2 d b => Sys2Proof.Machine.execFex2 d b s
  | .flg2 d b => Sys2Proof.Machine.execFlg2 d b s
  | .fsin d b => Sys2Proof.Machine.execFsin d b s
  | .fcos d b => Sys2Proof.Machine.execFcos d b s
  | .ftanh d b => Sys2Proof.Machine.execFtanh d b s
  | .fcmp cc d a b => Sys2Proof.Machine.execFcmp cc d a b s
  | .dadd d a b => Sys2Proof.Machine.execDadd d a b s
  | .dsub d a b => Sys2Proof.Machine.execDsub d a b s
  | .dmul d a b => Sys2Proof.Machine.execDmul d a b s
  | .dfma d a b => Sys2Proof.Machine.execDfma d a b s
  | .dfms d a b => Sys2Proof.Machine.execDfms d a b s
  | .dnma d a b => Sys2Proof.Machine.execDnma d a b s
  | .dmin d a b => Sys2Proof.Machine.execDmin d a b s
  | .dmax d a b => Sys2Proof.Machine.execDmax d a b s
  | .ddiv d a b => Sys2Proof.Machine.execDdiv d a b s
  | .dsqrt d b => Sys2Proof.Machine.execDsqrt d b s
  | .drcp d b => Sys2Proof.Machine.execDrcp d b s
  | .drsq d b => Sys2Proof.Machine.execDrsq d b s
  | .dfloor d b => Sys2Proof.Machine.execDfloor d b s
  | .dceil d b => Sys2Proof.Machine.execDceil d b s
  | .drne d b => Sys2Proof.Machine.execDrne d b s
  | .dtrunc d b => Sys2Proof.Machine.execDtrunc d b s
  | .dcmp cc d a b => Sys2Proof.Machine.execDcmp cc d a b s
  | .hadd2 d a b => Sys2Proof.Machine.execHadd2 d a b s
  | .hmul2 d a b => Sys2Proof.Machine.execHmul2 d a b s
  | .hfma2 d a b => Sys2Proof.Machine.execHfma2 d a b s
  | .hmax2 d a b => Sys2Proof.Machine.execHmax2 d a b s
  | .badd2 d a b => Sys2Proof.Machine.execBadd2 d a b s
  | .bmul2 d a b => Sys2Proof.Machine.execBmul2 d a b s
  | .bfma2 d a b => Sys2Proof.Machine.execBfma2 d a b s
  | .bmax2 d a b => Sys2Proof.Machine.execBmax2 d a b s
  | .cvtF32I32 d a rm u => Sys2Proof.Machine.execCvtF32I32 d a rm u s
  | .cvtI32F32 d a rm u => Sys2Proof.Machine.execCvtI32F32 d a rm u s
  | .cvtF64F32 d a => Sys2Proof.Machine.execCvtF64F32 d a s
  | .cvtF32F64 d a rm sat => Sys2Proof.Machine.execCvtF32F64 d a rm sat s
  | .cvtF64I32 d a u => Sys2Proof.Machine.execCvtF64I32 d a u s
  | .cvtI32F64 d a rm u => Sys2Proof.Machine.execCvtI32F64 d a rm u s
  | .cvtF32F16 d a h hi => Sys2Proof.Machine.execCvtF32F16 d a h hi s
  | .cvtF16F32 d a rm sat h => Sys2Proof.Machine.execCvtF16F32 d a rm sat h s
  | .cvtqE4m3 d a pos sat mx rm => Sys2Proof.Machine.execCvtqE4m3 d a pos sat mx rm s
  | .cvtqE5m2 d a pos sat mx rm => Sys2Proof.Machine.execCvtqE5m2 d a pos sat mx rm s
  | .cvtqE2m1 d a pos sat mx rm => Sys2Proof.Machine.execCvtqE2m1 d a pos sat mx rm s
  | .cvtqI8 d a pos mx rm => Sys2Proof.Machine.execCvtqI8 d a pos mx rm s
  | .scale d a fmt => Sys2Proof.Machine.execScale d a fmt s
  | .dq8 d a pos fmt mx rm => Sys2Proof.Machine.execDq8 d a pos fmt mx rm s
  | .dq4 d a pos mx rm => Sys2Proof.Machine.execDq4 d a pos mx rm s
  | .perm d a m p => Sys2Proof.Machine.execPerm d a m p s
  | .pup d a m p => Sys2Proof.Machine.execPup d a m p s
  | .pdn d a m p => Sys2Proof.Machine.execPdn d a m p s
  | .pxor d a m p => Sys2Proof.Machine.execPxor d a m p s
  | .pbcast d a m p => Sys2Proof.Machine.execPbcast d a m p s
  | .vote d a m p => Sys2Proof.Machine.execVote d a m p s
  | .redl d a m p => Sys2Proof.Machine.execRedl d a m p s
  | .scanl d a m p => Sys2Proof.Machine.execScanl d a m p s
  | .ld d a w h o => Sys2Proof.Machine.execLd d a w h o s
  | .st d a w h o => Sys2Proof.Machine.execSt d a w h o s
  | .ldv d a w h o => Sys2Proof.Machine.execLdv d a w h o s
  | .lds d a w h o => Sys2Proof.Machine.execLds d a w h o s
  | .sts d a w h o => Sys2Proof.Machine.execSts d a w h o s
  | .atom d a w h o => Sys2Proof.Machine.execAtom d a w h o s
  | .atoms d a w h o => Sys2Proof.Machine.execAtoms d a w h o s
  | .red d a w h o => Sys2Proof.Machine.execRed d a w h o s
  | .ldw d a w h o => Sys2Proof.Machine.execLdw d a w h o s
  | .fence kind scope => Sys2Proof.Machine.execFence kind scope s
  | .cctl a kind n => Sys2Proof.Machine.execCctl a kind n s
  | .pref a tgt n => Sys2Proof.Machine.execPref a tgt n s
  | .migr d a b => Sys2Proof.Machine.execMigr d a b s
  | .cpy a b => Sys2Proof.Machine.execCpy a b s
  | .cpym a b => Sys2Proof.Machine.execCpym a b s
  | .cpys a => Sys2Proof.Machine.execCpys a s
  | .rinit d a => Sys2Proof.Machine.execRinit d a s
  | .rwait d a b => Sys2Proof.Machine.execRwait d a b s
  | .rrel d b => Sys2Proof.Machine.execRrel d b s
  | .rqry d b => Sys2Proof.Machine.execRqry d b s
  | .gang d b => Sys2Proof.Machine.execGang d b s
  | .mma t a b => Sys2Proof.Machine.execMma t a b s
  | .mdist t a b => Sys2Proof.Machine.execMdist t a b s
  | .mtopk t src k => Sys2Proof.Machine.execMtopk t src k s
  | .mfence d => Sys2Proof.Machine.execMfence d s
  | .mzero b => Sys2Proof.Machine.execMzero b s
  | .mrd d t f64 peek => Sys2Proof.Machine.execMrd d t f64 peek s
  | .mwr t a f64 => Sys2Proof.Machine.execMwr t a f64 s
  | .snap d a b => Sys2Proof.Machine.execSnap d a b s
  | .sacq d b => Sys2Proof.Machine.execSacq d b s
  | .srel d b => Sys2Proof.Machine.execSrel d b s
  | .vstep d b => Sys2Proof.Machine.execVstep d b s
  | .vqry d a b => Sys2Proof.Machine.execVqry d a b s
  | .vpin d b => Sys2Proof.Machine.execVpin d b s
  | .vunpin d b => Sys2Proof.Machine.execVunpin d b s
  | .hgath a b => Sys2Proof.Machine.execHgath a b s
  | .hred a b => Sys2Proof.Machine.execHred a b s
  | .hcvt a b => Sys2Proof.Machine.execHcvt a b s
  | .hqry d b => Sys2Proof.Machine.execHqry d b s
  | .cpostPut d a b => Sys2Proof.Machine.execCpostPut d a b s
  | .cpostrContrib d a b => Sys2Proof.Machine.execCpostrContrib d a b s
  | .carmArm d a b => Sys2Proof.Machine.execCarmArm d a b s
  | .chalo d a => Sys2Proof.Machine.execChalo d a s
  | .cwait d a b => Sys2Proof.Machine.execCwait d a b s
  | .cqry d b => Sys2Proof.Machine.execCqry d b s
  | .gemit d a b => Sys2Proof.Machine.execGemit d a b s
  | .gflush a b => Sys2Proof.Machine.execGflush a b s
  | .pxin d mode cen k => Sys2Proof.Machine.execPxin d mode cen k s
  | .pxout a => Sys2Proof.Machine.execPxout a s
  | .pxrate a b => Sys2Proof.Machine.execPxrate a b s
  | .march d a b => Sys2Proof.Machine.execMarch d a b s
  | .msmp d a b => Sys2Proof.Machine.execMsmp d a b s
  | .mhash d a b => Sys2Proof.Machine.execMhash d a b s
  | .mqry d => Sys2Proof.Machine.execMqry d s
  | .ctxnew d b => Sys2Proof.Machine.execCtxnew d b s
  | .ctxgrant d a b => Sys2Proof.Machine.execCtxgrant d a b s
  | .ctxrevoke d a b => Sys2Proof.Machine.execCtxrevoke d a b s
  | .ctxrunRun d a b => Sys2Proof.Machine.execCtxrunRun d a b s
  | .ctxstopSlice d a b => Sys2Proof.Machine.execCtxstopSlice d a b s
  | .ctxsave d a b => Sys2Proof.Machine.execCtxsave d a b s
  | .ctxload d a b => Sys2Proof.Machine.execCtxload d a b s
  | .ctxq d a b => Sys2Proof.Machine.execCtxq d a b s
  | .tret b => Sys2Proof.Machine.execTret b s
  | .trefl b => Sys2Proof.Machine.execTrefl b s
  | .tclr b => Sys2Proof.Machine.execTclr b s
  | .scrub d a b => Sys2Proof.Machine.execScrub d a b s
  | .alog d a b => Sys2Proof.Machine.execAlog d a b s
  | .keyselBind d a b => Sys2Proof.Machine.execKeyselBind d a b s
  | .spawn d a => Sys2Proof.Machine.execSpawn d a s
  | .cont d a b => Sys2Proof.Machine.execCont d a b s
  | .jdec a b => Sys2Proof.Machine.execJdec a b s
  | .lcancel a lvl => Sys2Proof.Machine.execLcancel a lvl s
  | .lstat d a lvl => Sys2Proof.Machine.execLstat d a lvl s
  | .nop => Sys2Proof.Machine.execNop s
  | .exit => Sys2Proof.Machine.execExit s
  | .bar => Sys2Proof.Machine.execBar s
  | .cbar => Sys2Proof.Machine.execCbar s
  | .join => Sys2Proof.Machine.execJoin s
  | .pxkill => Sys2Proof.Machine.execPxkill s
  | .cpostLand d a b => Sys2Proof.Machine.execCpostLand d a b s
  | .cpostrLandr d a b => Sys2Proof.Machine.execCpostrLandr d a b s
  | .carmFire d a b => Sys2Proof.Machine.execCarmFire d a b s
  | .carmFree d a b => Sys2Proof.Machine.execCarmFree d a b s
  | .carmSet d a b => Sys2Proof.Machine.execCarmSet d a b s
  | .carmAdd d a b => Sys2Proof.Machine.execCarmAdd d a b s
  | .ctxrunResume d a b => Sys2Proof.Machine.execCtxrunResume d a b s
  | .ctxrunReply d a b => Sys2Proof.Machine.execCtxrunReply d a b s
  | .ctxstopHalt d a b => Sys2Proof.Machine.execCtxstopHalt d a b s
  | .keyselUnbind d a b => Sys2Proof.Machine.execKeyselUnbind d a b s
  | .queueKick q => Sys2Proof.Machine.execQueueKick q s
  | .queueEnable q => Sys2Proof.Machine.execQueueEnable q s
  | .queueDisable q => Sys2Proof.Machine.execQueueDisable q s
  | .launchSlotFree slot => Sys2Proof.Machine.execLaunchSlotFree slot s
  | .hierarchyEntryFree ctx level id => Sys2Proof.Machine.execHierarchyEntryFree ctx level id s
  | .aggregatorWindowClose w => Sys2Proof.Machine.execAggregatorWindowClose w s
  | .launchExpand die slot => Sys2Proof.Machine.execLaunchExpand die slot s
  | .batchPlace die => Sys2Proof.Machine.execBatchPlace die s
  | .batchStart batch => Sys2Proof.Machine.execBatchStart batch s
  | .batchComplete batch => Sys2Proof.Machine.execBatchComplete batch s
  | .cancelForceEnd tray => Sys2Proof.Machine.execCancelForceEnd tray s
  | .queueRefusal core => Sys2Proof.Machine.execQueueRefusal core s
  | .queueResend core => Sys2Proof.Machine.execQueueResend core s
  | .commandAccept core => Sys2Proof.Machine.execCommandAccept core s
  | .candidateUrgent tray => Sys2Proof.Machine.execCandidateUrgent tray s
  | .loadComplete tray k => Sys2Proof.Machine.execLoadComplete tray k s
  | .storeComplete tray k => Sys2Proof.Machine.execStoreComplete tray k s
  | .engineResultLand tray k => Sys2Proof.Machine.execEngineResultLand tray k s
  | .faultRecordDeferred die => Sys2Proof.Machine.execFaultRecordDeferred die s
  | .traySave tray => Sys2Proof.Machine.execTraySave tray s
  | .clusterRegionSave cluster => Sys2Proof.Machine.execClusterRegionSave cluster s
  | .yieldWake tray => Sys2Proof.Machine.execYieldWake tray s
  | .joinMerge tray => Sys2Proof.Machine.execJoinMerge tray s
  | .reggrowGrant core => Sys2Proof.Machine.execReggrowGrant core s
  | .reggrowDeadlockEvict core => Sys2Proof.Machine.execReggrowDeadlockEvict core s
  | .trayResourceReturn tray => Sys2Proof.Machine.execTrayResourceReturn tray s
  | .gangLatchTimeout tray => Sys2Proof.Machine.execGangLatchTimeout tray s
  | .replayWrite ctx token => Sys2Proof.Machine.execReplayWrite ctx token s
  | .parkTimeout op k => Sys2Proof.Machine.execParkTimeout op k s
  | .rootWrite ctx v => Sys2Proof.Machine.execRootWrite ctx v s
  | .invalidationKick ctx seq => Sys2Proof.Machine.execInvalidationKick ctx seq s
  | .invalidationComplete ctx => Sys2Proof.Machine.execInvalidationComplete ctx s
  | .homeRead die ctx line => Sys2Proof.Machine.execHomeRead die ctx line s
  | .homeOwn die ctx line => Sys2Proof.Machine.execHomeOwn die ctx line s
  | .homeAtomic die line => Sys2Proof.Machine.execHomeAtomic die line s
  | .homeUpdate die ctx line op w => Sys2Proof.Machine.execHomeUpdate die ctx line op w s
  | .homeEvict die line => Sys2Proof.Machine.execHomeEvict die line s
  | .homeEngineAccess line wr => Sys2Proof.Machine.execHomeEngineAccess line wr s
  | .turnClockReport core => Sys2Proof.Machine.execTurnClockReport core s
  | .prefetchIssue die ctx line => Sys2Proof.Machine.execPrefetchIssue die ctx line s
  | .donateWrite ctx entry => Sys2Proof.Machine.execDonateWrite ctx entry s
  | .cowSwitch op => Sys2Proof.Machine.execCowSwitch op s
  | .chainTimeout op k => Sys2Proof.Machine.execChainTimeout op k s
  | .snapshotOpComplete op => Sys2Proof.Machine.execSnapshotOpComplete op s
  | .migrComplete op => Sys2Proof.Machine.execMigrComplete op s
  | .copyComplete op => Sys2Proof.Machine.execCopyComplete op s
  | .cpymGroupTimeout op => Sys2Proof.Machine.execCpymGroupTimeout op s
  | .matrixOpComplete core => Sys2Proof.Machine.execMatrixOpComplete core s
  | .stackOpComplete op => Sys2Proof.Machine.execStackOpComplete op s
  | .samplerOpComplete op => Sys2Proof.Machine.execSamplerOpComplete op s
  | .contextOpComplete op => Sys2Proof.Machine.execContextOpComplete op s
  | .ualinkUnitArrive u => Sys2Proof.Machine.execUalinkUnitArrive u s
  | .remoteAccessArrive r => Sys2Proof.Machine.execRemoteAccessArrive r s
  | .ualinkAck handle part unit => Sys2Proof.Machine.execUalinkAck handle part unit s
  | .ualinkNack handle part unit => Sys2Proof.Machine.execUalinkNack handle part unit s
  | .ualinkResend handle part unit => Sys2Proof.Machine.execUalinkResend handle part unit s
  | .ualinkFaultCompletion handle part unit => Sys2Proof.Machine.execUalinkFaultCompletion handle part unit s
  | .ualinkUnitTimeout handle part unit => Sys2Proof.Machine.execUalinkUnitTimeout handle part unit s
  | .remoteRetryTimeout tray => Sys2Proof.Machine.execRemoteRetryTimeout tray s
  | .ualinkPortDown port => Sys2Proof.Machine.execUalinkPortDown port s
  | .linkDown die => Sys2Proof.Machine.execLinkDown die s
  | .primitiveArrive pass src dst => Sys2Proof.Machine.execPrimitiveArrive pass src dst s
  | .watermarkArrive pass src dst => Sys2Proof.Machine.execWatermarkArrive pass src dst s
  | .tileRasterise pass tile => Sys2Proof.Machine.execTileRasterise pass tile s
  | .pixelTrayPlace pass tile => Sys2Proof.Machine.execPixelTrayPlace pass tile s
  | .exportCommit pass k => Sys2Proof.Machine.execExportCommit pass k s
  | .passEnd pass => Sys2Proof.Machine.execPassEnd pass s
  | .quantumExpiry ctx => Sys2Proof.Machine.execQuantumExpiry ctx s
  | .sliceBudgetExpiry tray => Sys2Proof.Machine.execSliceBudgetExpiry tray s
  | .unitStop cls unit ctx => Sys2Proof.Machine.execUnitStop cls unit ctx s
  | .registerWrite writer page off v => Sys2Proof.Machine.execRegisterWrite writer page off v s
  | .rdmaWrite qp addr data => Sys2Proof.Machine.execRdmaWrite qp addr data s
  | .rdmaRead qp addr len => Sys2Proof.Machine.execRdmaRead qp addr len s
  | .unsupportedRequest qp => Sys2Proof.Machine.execUnsupportedRequest qp s
  | .identify h => Sys2Proof.Machine.execIdentify h s
  | .attest h nonce => Sys2Proof.Machine.execAttest h nonce s
  | .health h => Sys2Proof.Machine.execHealth h s
  | .semacq h => Sys2Proof.Machine.execSemacq h s
  | .semrel h => Sys2Proof.Machine.execSemrel h s
  | .qpbind h qp ctx => Sys2Proof.Machine.execQpbind h qp ctx s
  | .evset h ch qp mode logSlots addr => Sys2Proof.Machine.execEvset h ch qp mode logSlots addr s
  | .rootring h qp logSlots addr => Sys2Proof.Machine.execRootring h qp logSlots addr s
  | .fwload h image => Sys2Proof.Machine.execFwload h image s
  | .keyroll h => Sys2Proof.Machine.execKeyroll h s
  | .rootwr h off data => Sys2Proof.Machine.execRootwr h off data s
  | .podidx h idx => Sys2Proof.Machine.execPodidx h idx s
  | .ckpt h c => Sys2Proof.Machine.execCkpt h c s
  | .ckptabort h ck => Sys2Proof.Machine.execCkptabort h ck s
  | .ckptComplete ck => Sys2Proof.Machine.execCkptComplete ck s
  | .semaphoreLeaseExpiry => Sys2Proof.Machine.execSemaphoreLeaseExpiry s
  | .powerGood => Sys2Proof.Machine.execPowerGood s
  | .stageS0Complete passed => Sys2Proof.Machine.execStageS0Complete passed s
  | .stageS1Complete passed fwValid => Sys2Proof.Machine.execStageS1Complete passed fwValid s
  | .stageS2Reached cfg => Sys2Proof.Machine.execStageS2Reached cfg s
  | .thermalThrottle die => Sys2Proof.Machine.execThermalThrottle die s
  | .thermalTrip => Sys2Proof.Machine.execThermalTrip s
  | .unassignedEncoding word => Sys2Proof.Machine.execUnassignedEncoding word s
  | .uncorrectableError pa => Sys2Proof.Machine.execUncorrectableError pa s
  | .powerLoss => Sys2Proof.Machine.execPowerLoss s
  | .belowThrottleTemperature die => Sys2Proof.Machine.execBelowThrottleTemperature die s
  | .remoteNak ck => Sys2Proof.Machine.execRemoteNak ck s
  | .malformedCommand h => Sys2Proof.Machine.execMalformedCommand h s

end Sys2Proof.Machine
end

