-- ==== Sys2Proof/Machine/Issue.lean ====
section
/-!
DEFINITION. Issuing: the group at a path's PC is fetched, checked and performed (R37–R45, R405, R416).
-/

namespace Sys2Proof.Machine

/-- The meaning of an instruction of major 0x34 or 0x35: that of the constructor of `Instr` it is. -/
def runHigh (l : HighOp) (s : State) : Host.Outcome State Fault Refusal :=
  match l with
  | .tret b => execTret b s
  | .trefl b => execTrefl b s
  | .tclr b => execTclr b s
  | .scrub d a b => execScrub d a b s
  | .alog d a b => execAlog d a b s
  | .keyselBind d a b => execKeyselBind d a b s
  | .spawn d a => execSpawn d a s
  | .cont d a b => execCont d a b s
  | .jdec a b => execJdec a b s
  | .lcancel a lvl => execLcancel a lvl s
  | .lstat d a lvl => execLstat d a lvl s

/-- A decoded word runs as the instruction it is; a word that does not decode is ILLEGAL (R56). -/
def runWord (x : GWord) (s : State) : Host.Outcome State Fault Refusal :=
  match decodeWord x.w x.lit with
  | .ok (.core i) => exec i s
  | .ok (.high l) => runHigh l s
  | .error _ => execUnassignedEncoding x.w s

/-- Go on from a next state. -/
def andThen (o : Host.Outcome State Fault Refusal) (f : State → Host.Outcome State Fault Refusal) :
    Host.Outcome State Fault Refusal :=
  match o with
  | .next s => f s
  | .fault e => .fault e
  | .refused r => .refused r

/-- Issue one word of a group. -/
def State.runAt (s : State) (c : Cur) (x : GWord) : Host.Outcome State Fault Refusal := runWord x { s with cur := some c }

/-- The words of a chain in slot order, each reading the tray as it stood before the chain (R39). -/
def State.runChain (s : State) (c : Cur) : List GWord → Host.Outcome State Fault Refusal
  | [] => .next (s.endGroup c.key c.path)
  | x :: r => andThen (s.runAt { c with pc := x.pc } x) fun s => State.runChain s c r

/-- What issuing an instruction word starts from: no chain, nothing found. -/
def Cur.at (key path : Nat) (pc after : Pc) : Cur := ⟨key, path, pc, after, false, none, false, none, false⟩

/-- What examining a word before its chain issues shows: the check it fails, and whether it must wait (R45). -/
def State.probe (s : State) (c : Cur) (x : GWord) : Option Cause × Bool × State :=
  match s.runAt { c with pc := x.pc, probe := true } x with
  | .next s1 => ((s1.cur.bind fun k => k.found), ((s1.cur.map fun k => k.stalled).getD false), s1)
  | _ => (none, true, s)

/-- The place of a cause in the order of the checks at issue (R45): ILLEGAL, CAP, REGOVF, then any other. -/
def checkRank : Cause → Nat
  | .illegal => 0
  | .cap => 1
  | .regovf => 2
  | _ => 3

/-- Of the checks that the words of a chain fail, the first in order (R45). -/
def firstCheck : List Cause → Option Cause
  | [] => none
  | k :: r =>
    match firstCheck r with
    | none => some k
    | some j => some (if checkRank j < checkRank k then j else k)

/-- A chain of two or more words (R38, R39, R45, R79): a word that must wait holds all of it; then a check that fails traps
at its first word; otherwise every word takes effect. -/
def State.runGroup (s : State) (key path : Nat) (t : Tray) (g : Group) : Host.Outcome State Fault Refusal :=
  let c : Cur := { Cur.at key path 0 g.after with tied := true, snap := some t }
  let l := g.words.map fun x => s.probe c x
  match l.find? (·.2.1) with
  | some e => .next e.2.2
  | none =>
    match if chainOverlaps g.words (t.sreg path) then some .illegal else firstCheck (l.filterMap (·.1)) with
    | some k => .next (s.raise key path [k] ((g.words.head?.map (·.pc)).getD 0) false none)
    | none => s.runChain c g.words

/-- A VSTEP that is not performed holds the tray's memory pipe (R253), and so does a write to a ROOT that is not complete, as
later SO accesses wait for it (R183, R213). -/
def State.memHeld (s : State) (t : Tray) : Bool :=
  (t.vhold.map fun n => t.pend.any fun p => p.id == n).getD false || t.pend.any fun p => s.rootsOut p

/-- A core's memory pipe waits for miss-status entries and accepts no word (R170). -/
def State.pipeShort (s : State) (core : Nat) : Bool :=
  match (s.cores.get? core).bind (·.need) with
  | some n => 8192 < s.entriesUsed core + n
  | none => false

/-- A word of a group that its pipe does not take. -/
def State.pipeHeld (s : State) (key : Nat) (t : Tray) (g : Group) : Bool :=
  (s.memHeld t || s.pipeShort (key / 32)) && g.words.any fun x => pipeOf x.w == .memory

/-- Perform a group at a path (R38–R44). -/
def State.issueGroup (s : State) (key path : Nat) (t : Tray) (p : Path) (k : Word × Word × Word) :
    Host.Outcome State Fault Refusal :=
  let g := mkGroup k p.pc p.single
  if g.bad then .next (s.raise key path [.illegal] ((g.words.head?.map (·.pc)).getD p.pc) false none)
  else if s.pipeHeld key t g then .next s
  else match g.words with
    | [] => .next (s.onTray key fun t =>
        (t.advance (Cur.at key path p.pc g.after)).settleGrp ((t.path path).redo.bind (·.grp)))
    | [x] =>
      if p.single && inChain k p.pc then
        andThen (s.runAt { Cur.at key path x.pc g.after with tied := true } x) fun s => .next (s.endGroup key path)
      else s.runAt (Cur.at key path x.pc g.after) x
    | _ => s.runGroup key path t g

/-- A fetch that fails (R45, R215, R228): a replayable fault parks the tray at the word, a terminal one traps there. -/
def State.fetchFault (s : State) (key path : Nat) (t : Tray) (p : Path) (f : XFault) : State :=
  let left := if t.p1.isSome then p.mask &&& t.live else t.live
  if f.kind.replayable then s.parkTray key path f false true p.pc left
  else
    let s := s.faultRecord f false ⟨t.ctx, key / 32, key % 32, none, true, false, p.pc.toNat, left, 0⟩
    s.raise key path [f.kind.cause] p.pc p.single none

/-- Issue from the PC of a path: the fetch, the check of an entry word (R43), then the group. -/
def State.issueAt (s : State) (key path : Nat) (t : Tray) (p : Path) : Host.Outcome State Fault Refusal :=
  match s.packet (key / 32) t.ctx p.pc with
  | .error f => .next (s.fetchFault key path t p f)
  | .ok k =>
    let s := s.packetFill (key / 32) t.ctx p.pc
    if (p.entry || t.entryWord == some p.pc) && !s.targetOk (key / 32) t.ctx p.pc then
      .next (s.raise key path [.badtarget] p.pc false none)
    else s.issueGroup key path t p k

/-- Whether asynchronous causes are to be set in a tray (R405). -/
def Tray.mustTake (t : Tray) : Bool := !t.async.isEmpty && t.leave.isNone && t.wait != .ended

/-- The next issue group of a path; nothing where it is not a candidate. -/
def State.issuePath (s : State) (key path : Nat) : Host.Outcome State Fault Refusal :=
  match s.trays.get? key with
  | none => .next s
  | some t =>
    if t.mustTake then .next (s.takeAsync key)
    else if !t.mayIssue path then .next s
    else if t.live = 0 then .next (s.trayEnds key)
    else if t.watch then
      .next ((s.setTray key { t with watch := false }).raise key path [.watch] (t.path path).pc (t.path path).single none)
    else s.issueAt key path t (t.path path)

-- Whether a candidate is ready (R79)

/-- Whether a word waits: it is not ready, or waits for the other slot and has said so. -/
def State.wordWaits (s : State) (key path : Nat) (t : Tray) (g : Group) (x : GWord) : Bool :=
  let c : Cur := { Cur.at key path x.pc g.after with
    tied := g.words.length != 1, snap := if g.words.length = 1 then none else some t }
  let (_, w, s1) := s.probe c x
  w && ((s1.trays.get? key).map fun y =>
      (y.path path).cross == (t.path path).cross && (y.path path).turn == (t.path path).turn).getD true &&
    ((s1.cores.get? (key / 32)).map (·.need)) == ((s.cores.get? (key / 32)).map (·.need))

/-- Whether a path has something to issue now. -/
def State.pathReady (s : State) (key path : Nat) : Bool :=
  match s.trays.get? key with
  | none => false
  | some t =>
    if t.mustTake then true
    else if !t.mayIssue path then false
    else if t.live = 0 || t.watch then true
    else
      let p := t.path path
      match s.packet (key / 32) t.ctx p.pc with
      | .error _ => true
      | .ok k =>
        let g := mkGroup k p.pc p.single
        g.bad || !s.pipeHeld key t g && g.words.all fun x => !s.wordWaits key path t g x

end Sys2Proof.Machine
end

