-- ==== Sys2Proof/Machine/Select.lean ====
section
/-!
DEFINITION. What happens next: writes that wait to be acted on, events from outside, the issue selector's choice (R79), and
what the engines do by themselves.
-/

namespace Sys2Proof.Machine

/-- Clocks pass (R33, R112). -/
def State.tick (s : State) : State :=
  { s with now := s.now + BitVec.ofNat 64 (Config.clockGap s.ticks), ticks := s.ticks + 1, cur := none }

-- The issue selector (R79)

/-- A candidate: a path of a tray. -/
structure Cand where
  key : Nat
  path : Nat
  prio : Nat
  urgent : Bool
  age : Nat
  deriving DecidableEq, Repr

/-- A path slot has been a candidate without issuing for 4,096 clocks (R79). -/
def Path.urgent (p : Path) (now : DWord) : Bool :=
  match p.since with
  | some c => 4096 ≤ (now - c).toNat
  | none => false

/-- The paths of the resident trays that have something to issue. -/
def State.candidates (s : State) : List Cand :=
  s.trays.flatMap fun e => ([0, 1].filter fun i => s.pathReady e.1 i).map fun i =>
    ⟨e.1, i, e.2.prio, (e.2.path i).urgent s.now, e.2.age⟩

/-- The selectors note since when each path slot is a candidate (R79). -/
def State.noteCandidates (s : State) (l : List Cand) : State :=
  let note (key i : Nat) (p : Path) : Path :=
    { p with since := if l.any fun c => c.key == key && c.path == i then some (p.since.getD s.now) else none }
  { s with trays := s.trays.all' fun key t => { t with p0 := note key 0 t.p0, p1 := t.p1.map (note key 1) } }

/-- Whether a candidate goes before another of its core (R79): the more urgent priority, then urgent ones, then age, then
the lower tray slot; of the two path slots of a tray, the lower (DESIGN CHOICE: R79 breaks ties only between trays). -/
def Cand.before (a b : Cand) : Bool :=
  if a.prio != b.prio then a.prio < b.prio
  else if a.urgent != b.urgent then a.urgent
  else if a.age != b.age then a.age < b.age
  else a.key < b.key || (a.key == b.key && a.path < b.path)

/-- Whether a candidate is older than another. -/
def Cand.older (a b : Cand) : Bool :=
  if a.age != b.age then a.age < b.age else a.key < b.key || (a.key == b.key && a.path < b.path)

/-- The choice of one core's selector, and whether a less urgent candidate stood; on every 16th such turn it is the oldest
of the less urgent priorities (R79). -/
def pickOn (skips : Nat) (l : List Cand) : Option (Cand × Bool) :=
  match firstBy Cand.before l with
  | none => none
  | some a =>
    let less := l.filter fun b => a.prio < b.prio
    match firstBy Cand.older less with
    | none => some (a, false)
    | some b => some (if skips % 16 = 15 then b else a, true)

/-- The candidate that issues, and whether its core passes a less urgent one by or serves it in its turn: the cores take
turns. -/
def State.pick (s : State) (l : List Cand) : Option (Cand × Bool) :=
  match l[s.ticks / 2 % l.length]? with
  | none => none
  | some a =>
    pickOn (((s.cores.get? (a.key / 32)).map (·.skips)).getD 0) (l.filter fun b => b.key / 32 == a.key / 32)

/-- A path issues; it is a candidate anew. -/
def State.issueNext (s : State) (key path : Nat) : Host.Outcome State Fault Refusal :=
  (s.onTray key fun t => t.setPath path { t.path path with since := none }).issuePath key path

-- What the engines and cores do by themselves

/-- The events of one operation. -/
def opEvents (o : Op) : List (State → Host.Outcome State Fault Refusal) :=
  if o.phase = 0 then [execCommandAccept o.tag.core, execQueueRefusal o.tag.core, execQueueResend o.tag.core]
  else match o.body with
    | .copy _ | .member _ => [execCopyComplete o.id]
    | .migr _ => [execMigrComplete o.id]
    | .matrix _ => [execMatrixOpComplete o.unit]
    | .ctx _ => [execContextOpComplete o.id]
    | .stack _ => [execStackOpComplete o.id]
    | .snap _ _ => [execSnapshotOpComplete o.id]
    | .performed _ => [execSamplerOpComplete o.id]
    | .cmd _ => if o.park.isSome then [] else [fun s => .next (s.cmdResume o.id)]
    | .post _ | .arrive _ => []

/-- The events of one resident tray. -/
def trayEvents (key : Nat) (t : Tray) : List (State → Host.Outcome State Fault Refusal) :=
  t.pend.flatMap (fun p =>
    match p.kind with
    | .load => [execLoadComplete key p.id]
    | .store => [execStoreComplete key p.id]
    | .result => [execEngineResultLand key p.id]
    | .op => []) ++
  (match t.leave with
    | some .cancel => [execCancelForceEnd key]
    | some _ => [execTraySave key]
    | none => []) ++
  (match t.wait with
    | .yield _ _ _ _ _ => [execYieldWake key]
    | .grow _ _ _ => [execReggrowGrant (key / 32), execReggrowDeadlockEvict (key / 32)]
    | .ended => [execTrayResourceReturn key]
    | _ => []) ++
  (if t.p0.joinWait then [execJoinMerge key] else [])

/-- Whether a path slot of a tray waits for its turn (R200). -/
def Tray.inLine (t : Tray) : Bool := t.p0.turn.isSome || t.p1.any (·.turn.isSome)

/-- The events of a cache bank's prefetcher: for each stream the next line ahead that its die does not hold (R176). -/
def State.prefetchEvents (s : State) (bank : Nat) (p : Prefetcher) : List (State → Host.Outcome State Fault Refusal) :=
  p.streams.filterMap fun x =>
    let lines := ((List.range' 1 16).map fun i => if x.up then x.last + i else x.last - i).filter (x.ahead x.ctx)
    (lines.find? fun n => (s.copyAt n (bank / 32)).isNone).map fun n => execPrefetchIssue (bank / 32) x.ctx n

/-- The events of one context. -/
def ctxEvents (c : Nat) (t : Ctx) : List (State → Host.Outcome State Fault Refusal) :=
  (if t.invq.isEmpty then [] else [execInvalidationComplete c]) ++ t.stops.map fun w => execUnitStop w.cls w.unit c

/-- The events of one pass. -/
def passEvents (n : Nat) (p : Pass) : List (State → Host.Outcome State Fault Refusal) :=
  p.msgs.flatMap (fun e => [execPrimitiveArrive n (e.1 / 4) (e.1 % 4), execWatermarkArrive n (e.1 / 4) (e.1 % 4)]) ++
  p.tiles.flatMap (fun e => [execTileRasterise n e.1, execPixelTrayPlace n e.1]) ++
  p.exports.map (fun e => execExportCommit n e.id) ++ [execPassEnd n]

/-- Everything that some unit may do next by itself; what is not due leaves the state as it is. -/
def State.events (s : State) : List (State → Host.Outcome State Fault Refusal) :=
  s.ops.flatMap opEvents ++
  s.trays.flatMap (fun e => trayEvents e.1 e.2) ++
  s.ctxs.flatMap (fun e => ctxEvents e.1 e.2) ++
  s.passes.flatMap (fun e => passEvents e.1 e.2) ++
  s.prefetchers.flatMap (fun e => s.prefetchEvents e.1 e.2) ++
  (if s.trays.any fun e => e.2.inLine then s.cores.map fun e => execTurnClockReport e.1 else []) ++
  s.cows.map (fun e => execCowSwitch e.1) ++
  s.qcbs.map (fun e => fun s => .next (s.kick e.1)) ++
  s.launches.flatMap (fun e => (List.range 4).map fun d => execLaunchExpand d e.1) ++
  (if s.ready.isEmpty then [] else (List.range 4).map fun d => execBatchPlace d) ++
  s.batches.flatMap (fun e => [execBatchStart e.1, execBatchComplete e.1] ++
    if e.2.image.isEmpty then [] else [fun s => .next (s.batchRetry e.1)]) ++
  s.clusters.map (fun e => execClusterRegionSave e.1) ++
  s.records.map (fun r => execFaultRecordDeferred r.die) ++
  s.rdma.map (fun e => fun s => .next (s.rdmaServe e.1 [])) ++
  s.ckpts.flatMap (fun e => [fun s => .next (s.ckptStep e.1), execCkptComplete e.1]) ++
  (match s.podStep with
    | some _ => [fun s => .next ((s.podStep).getD s)]
    | none => [])

/-- One of them, in turn. -/
def State.runEvent (s : State) : Host.Outcome State Fault Refusal :=
  let l := s.events
  match l[s.ticks / 2 % l.length]? with
  | some f => f s
  | none => .next s

/-- A core issues, if one has something to issue; otherwise an engine acts. -/
def State.issueFirst (s : State) : Host.Outcome State Fault Refusal :=
  let l := s.candidates
  let s := s.noteCandidates l
  match s.pick l with
  | some (c, less) =>
    let s := if less then s.onCore (c.key / 32) fun k => { k with skips := (k.skips + 1) % 16 } else s
    s.issueNext c.key c.path
  | none => s.runEvent

/-- An engine acts, if one has something to do; otherwise a core issues. -/
def State.engineFirst (s : State) : Host.Outcome State Fault Refusal :=
  if s.events.isEmpty then s.issueFirst else s.runEvent

/-- An event from outside happens; what is no event does nothing. -/
def State.takeEvent (s : State) (e : Instr) : Host.Outcome State Fault Refusal :=
  match exec e s with
  | .next s => .next s
  | _ => .next s

/-- What happens in one step, the clocks having passed: a write that waits to be acted on, else an event from outside, else
the path the schedule names, else cores and engines in turn. -/
def State.advance (s : State) : Host.Outcome State Fault Refusal :=
  match s.posts with
  | p :: r => .next (State.doPost { s with posts := r } p)
  | [] =>
    match s.inbox with
    | e :: r => State.takeEvent { s with inbox := r } e
    | [] =>
      match s.sched with
      | n :: r => State.issueNext { s with sched := r } (n / 2) (n % 2)
      | [] => if s.ticks % 2 = 1 then s.issueFirst else s.engineFirst

/-- The current word is no part of the state between steps. -/
def settled (o : Host.Outcome State Fault Refusal) : Host.Outcome State Fault Refusal :=
  match o with
  | .next s => .next { s with cur := none }
  | .fault e => .fault e
  | .refused r => .refused r

end Sys2Proof.Machine
end

