-- ==== Sys2Proof/Machine/Load.lean ====
section
/-!
DEFINITION. Loading a program from outside: what stands for the start of the package, a launch by a host and the placing
of its one tray, so that the next step issues the first word (the log entry on State.reset says how a program comes to
run).
-/

namespace Sys2Proof.Machine

/-- Where the loader puts the root's tables, in local memory: the level-1 table, the level-2 table and a direct leaf of
4 GiB (R214, R215). The program lies from address 0. -/
def loadRoot : Nat := 0x4000
/-- The level-2 table. -/
def loadLevel2 : Nat := 0x8000
/-- The leaf. -/
def loadLeaf : Nat := 0x9000

/-- The bytes of a program and of the tables that map 4 GiB of the root's space to the first region, readable, writable and
executable. -/
def State.loadMem (s : State) (n w : Nat) : State :=
  let s := (s.wr loadRoot 8 (loadLevel2 + 1)).wr loadLevel2 8 (loadLeaf + 7)
  let s := (s.wr loadLeaf 8 0xF).wr (loadLeaf + 8) 8 0
  { s.wr 0 n w with poison := [] }

/-- The launch, cluster and batch of the loaded program. -/
def loadLaunch : Launch where
  ctx := 0
  gen := 0
  code := 0
  clsc := 0
  traysc := 0
  regsc := 0
  ninp := 0
  agg := false
  dual := false
  coop := false
  prio := 0
  scrsz := 0
  nbatch := 1
  event := 0
  job := 0
  phase := 0
  graph := 0
  ccaddr := 0
  inptr := 0
  ind := 0
  indlog := 0
  inputs := []
  indNext := 0
  indHeld := none
  consts := []
  parent := none
  depth := 0
  qpos := 0
  count := 1
  expanded := 1
  underflow := false
  rejected := false
  misdir := false
  cancelled := false
  complete := false
  window := none
  order := 0

/-- Its cluster, with 64 KiB of scratchpad. -/
def loadCluster : Cluster where
  ctx := 0
  lslot := 0
  clusterId := 0
  die := some 0
  prio := 0
  coop := false
  batches := [1]
  size := 65536
  scr := []
  poison := []
  filled := []
  saved := false
  area := none

/-- Its batch, placed on core 0 and started. -/
def loadBatch : Batch where
  ctx := 0
  lslot := 0
  cluster := 1
  cont := none
  code := 0
  frame := 0
  prio := 0
  dual := false
  trays := 1
  regs := 256
  batchId := 0
  core := some 0
  started := true
  inputs := 0
  inErr := false
  age := 1
  image := []
  tiles := []
  saved := none
  offs := []
  loading := false
  pixel := false

/-- Its one tray, of 96 threads with 256 registers each, about to issue the word at address 0. -/
def loadTray : Tray := Tray.start 0 1 0 0 0 0 0 false 256 0 1 [] 0 (BitVec.allOnes 96)

/-- Load a program of n bytes and choose its tray to issue next. -/
def State.load (s : State) (n w : Nat) : State :=
  let s := { s with
    stage := .s2, dies := 15#4, down := 0, regions := [(0, ⟨2, 0, 0⟩)], ctxs := [(0, { rootCtx 15#4 0 with root := 0x4000 })],
    keys := [(0, (0, 0))],
    cores := [(0, Core.init)], launches := [(0, loadLaunch)], clusters := [(1, loadCluster)], batches := [(1, loadBatch)],
    trays := [(0, loadTray)], nextId := max s.nextId 2, posts := [], inbox := [], sched := [0],
    fw := ⟨2 ^ 39, 2 ^ 39 + 65536, [], true, 0, 0, [], [], []⟩, cur := none }
  s.loadMem n w

end Sys2Proof.Machine
end

