-- ==== Sys2Proof/Machine/Step.lean ====
section
/-!
DEFINITION. One step of the machine, and the placing of an instruction where the next step fetches it.
-/

namespace Sys2Proof.Machine

/-- One step: clocks pass, then one thing happens. -/
def step (s : State) : Host.Outcome State Fault Refusal := settled s.tick.advance

/-- `s` with an instruction of `nbits` bits, followed by words of zeros, as the program of one tray that issues it next. -/
def State.withFetchWord (s : State) (nbits w : Nat) : State := s.load 12 (w % 2 ^ nbits)

end Sys2Proof.Machine
end

