-- ==== Sys2Proof/Safety.lean ====
section
/-!
DEFINITION. The terms the claims use: canonical forms of the state, a word that stands to issue, and what its completion
leaves.
-/

namespace Sys2Proof.Machine

/-- The sparse maps of the package's memory are in canonical form. -/
def State.memOk (s : State) : Prop := Memory.wf s.mem = true ∧ smWf s.poison = true

/-- An outcome is a next state. -/
def isNext (o : Host.Outcome State Fault Refusal) : Bool :=
  match o with
  | .next _ => true
  | .fault _ => false
  | .refused _ => false

/-- The word of tray `t` that `c` describes stands to issue with some register operands: it is performed and not only
examined, its operands are legal (R29–R32), no result is pending for them (R31) and they lie below N (R28). -/
structure Issuing (s : State) (c : Cur) (t : Tray) (ops : List Opnd) : Prop where
  cur : s.cur = some c
  performed : c.probe = false
  tray : s.trays.get? c.key = some t
  legal : ops.all Opnd.ok = true
  free : scoreboard (c.snap.getD t) c.path ops = false
  window : beyondN (c.snap.getD t) ops = false

/-- The state in which a word that found tray `old` has completed with tray `t`: it counts no more for what its path had
still to do (R142), and outside a chain it ends its group (R39, R44). -/
def State.completed (s : State) (c : Cur) (old t : Tray) : State := (s.setTray c.key (t.doneFrom old c.path)).finish c

/-- The state in which a word that found tray `old` has trapped with causes `cs`, tray `t` being what it leaves: the traps
are precise at its word, with S as given, and its path still has to do what it had (R44, R45). -/
def State.stopped (s : State) (c : Cur) (old t : Tray) (cs : List Cause) (single : Bool) : State :=
  (s.setTray c.key ((t.keepRedo old c.path).queueTrap cs c.pc single c.path none)).finish c

/-- Completed with the value v in scalar register d, the path at the word after the group. -/
def State.wroteS (s : State) (c : Cur) (t : Tray) (d : BitVec 7) (v : Word) : State :=
  s.completed c t ((t.advance c).setSreg c.path d.toNat v)

/-- Completed with the value v in scalar registers d and d + 1. -/
def State.wroteS2 (s : State) (c : Cur) (t : Tray) (d : BitVec 7) (v : DWord) : State :=
  s.completed c t ((t.advance c).setSpair c.path d.toNat v)

/-- Completed with the mask m in mask triple d. -/
def State.wroteM (s : State) (c : Cur) (t : Tray) (d : BitVec 7) (m : Mask) : State :=
  s.completed c t ((t.advance c).setMreg c.path d.toNat m)

/-- Completed with f th in window register d of each active thread th, the others unchanged (R109). -/
def State.wroteV (s : State) (c : Cur) (t : Tray) (d : BitVec 7) (f : Nat → Word) : State :=
  s.completed c t ((c.src s t).fill (t.advance c) d f)

/-- Completed with f th in window registers d and d + 1 of each active thread. -/
def State.wroteV2 (s : State) (c : Cur) (t : Tray) (d : BitVec 7) (f : Nat → DWord) : State :=
  s.completed c t ((c.src s t).fill2 (t.advance c) d f)

/-- The instruction that `c` describes completes in state s' whenever it stands to issue. -/
def Completes (s : State) (c : Cur) (t : Tray) (i : Instr) (s' : State) : Prop :=
  Issuing s c t i.opnds → exec i s = .next s'

/-- The flags that a function of the active threads meets (R97). -/
def metFlags (s : State) (c : Cur) (t : Tray) (f : Nat → Nat × FFlags) : FFlags :=
  orFlags (c.src s t).m0 fun th => (f th).2

/-- The traps that the window's FPCTL enables among them (R99). -/
def metTraps (s : State) (c : Cur) (t : Tray) (f : Nat → Nat × FFlags) : List Cause :=
  fpTraps (c.src s t).t.fpctl (metFlags s c t f)

/-- Completed with the value of f in window register d of each active thread and its flags merged into FPSTAT (R97, R98). -/
def State.wroteF (s : State) (c : Cur) (t : Tray) (d : BitVec 7) (f : Nat → Nat × FFlags) : State :=
  s.completed c t (((c.src s t).fill (t.advance c) d fun th => BitVec.ofNat 32 (f th).1).mergeFlags (metFlags s c t f))

/-- The same for a 64-bit value in registers d and d + 1. -/
def State.wroteF2 (s : State) (c : Cur) (t : Tray) (d : BitVec 7) (f : Nat → Nat × FFlags) : State :=
  s.completed c t (((c.src s t).fill2 (t.advance c) d fun th => BitVec.ofNat 64 (f th).1).mergeFlags (metFlags s c t f))

/-- An instruction that traps after issue with causes `cs`, precise at its word, and has no other effect: a floating-point
trap (R99), a branch target that is not legal (R42, R44). -/
def State.trapped (s : State) (c : Cur) (t : Tray) (cs : List Cause) : State := s.stopped c t (t.advance c) cs c.tied

/-- A floating-point instruction with function f of the threads and destination d completes, or traps, by R97 to R99. -/
def FloatResult (s : State) (c : Cur) (t : Tray) (i : Instr) (d : BitVec 7) (f : Nat → Nat × FFlags) : Prop :=
  Issuing s c t i.opnds →
    (metTraps s c t f = [] → exec i s = .next (s.wroteF c t d f)) ∧
    (∀ k cs, metTraps s c t f = k :: cs → exec i s = .next (s.trapped c t (k :: cs)))

/-- The same with a 64-bit result. -/
def FloatResult2 (s : State) (c : Cur) (t : Tray) (i : Instr) (d : BitVec 7) (f : Nat → Nat × FFlags) : Prop :=
  Issuing s c t i.opnds →
    (metTraps s c t f = [] → exec i s = .next (s.wroteF2 c t d f)) ∧
    (∀ k cs, metTraps s c t f = k :: cs → exec i s = .next (s.trapped c t (k :: cs)))

/-- The traps that FPCTL enables among the flags met by the threads of a mask (R99). -/
def metIn (s : State) (c : Cur) (t : Tray) (m : Mask) (f : Nat → Nat × FFlags) : List Cause :=
  fpTraps (c.src s t).t.fpctl (orFlags m fun th => (f th).2)

/-- Completed with the value of f in window register d of the threads of a mask, the flags they met merged (R153). -/
def State.wroteX (s : State) (c : Cur) (t : Tray) (d : BitVec 7) (m : Mask) (f : Nat → Nat × FFlags) : State :=
  s.completed c t (((t.advance c).fillPhys ((c.src s t).t.vwin + d.toNat) m fun th => BitVec.ofNat 32 (f th).1).mergeFlags
    (orFlags m fun th => (f th).2))

/-- The participants of both path slots (R154). -/
def Src.bothParts (r : Src) (m : BitVec 5) : Mask :=
  r.parts m ||| r.t.mreg (1 - r.i) m.toNat &&& (r.t.path (1 - r.i)).mask &&& r.t.live

/-- Completed for the participants of both path slots: the other slot will pass the word without executing it (R154). -/
def State.wroteBoth (s : State) (c : Cur) (t : Tray) (d : BitVec 7) (m : Mask) (f : Nat → Nat × FFlags) : State :=
  let t1 := ((t.advance c).fillPhys ((c.src s t).t.vwin + d.toNat) m fun th => BitVec.ofNat 32 (f th).1).mergeFlags
    (orFlags m fun th => (f th).2)
  s.completed c t (t1.setPath (1 - c.path) { t1.path (1 - c.path) with cross := .done c.pc })

/-- A cross-lane word of a tray with both path slots (R154). One that the other slot has performed for both is passed. With
the other slot waiting at this word it completes for the participants of both. Where its member mask reaches a live thread
of the other slot, it waits for that, unless the other waits at a JOIN or at another cross-lane word, or this slot may go
alone: then it completes for its own participants. -/
def Meets (s : State) (c : Cur) (t : Tray) (i : Instr) (d : BitVec 7) (m : BitVec 5) (f : Mask → Nat → Nat × FFlags) : Prop :=
  let r := c.src s t
  let p := r.t.path r.i
  let o := r.t.path (1 - r.i)
  let alone := metIn s c t (r.parts m) (f (r.parts m)) = [] → exec i s = .next (s.wroteX c t d (r.parts m) (f (r.parts m)))
  r.t.p1 ≠ none →
    (p.cross = .done c.pc → exec i s = .next (s.completed c t (t.advance c))) ∧
    (p.cross ≠ .done c.pc → o.cross = .waits c.pc → metIn s c t (r.bothParts m) (f (r.bothParts m)) = [] →
      exec i s = .next (s.wroteBoth c t d (r.bothParts m) (f (r.bothParts m)))) ∧
    (p.cross ≠ .done c.pc → (∀ pc, o.cross ≠ .waits pc) → r.crosses m = true → o.joinWait = false →
      p.cross ≠ .alone c.pc → exec i s = .next (s.setXwait c)) ∧
    (p.cross ≠ .done c.pc → (∀ pc, o.cross ≠ .waits pc) → o.joinWait = true ∨ p.cross = .alone c.pc → alone) ∧
    (p.cross ≠ .done c.pc → ∀ pc, o.cross = .waits pc → pc ≠ c.pc → alone)

/-- A control transfer: not taken, it comes to tray t1; taken, t1 goes on at the target, or BADTARGET is raised and the
word has no effect where the target is not legal (R42, R44). -/
def Jumps (s : State) (c : Cur) (t : Tray) (i : Instr) (taken legal : Bool) (target : Pc) (t1 : Tray) : Prop :=
  Issuing s c t i.opnds → exec i s = .next (
    if !taken then s.completed c t t1
    else if legal && s.targetOk (c.key / 32) (c.src s t).t.ctx target then s.completed c t (t1.setPc c.path target)
    else s.trapped c t [.badtarget])

/-- An instruction that raises `k` at issue and has no other effect (R44). -/
def RaisesEarly (s : State) (c : Cur) (i : Instr) (k : Cause) : Prop :=
  exec i s = .next (s.raise c.key c.path [k] c.pc false none)

/-- Completed, with the causes `cs` then set precise at the word where the path goes on (R145, R272, R406). -/
def State.completedRaising (s : State) (c : Cur) (old t : Tray) (cs : List Cause) (x : Option Nat) : State :=
  let t1 := t.doneFrom old c.path
  (s.setTray c.key (if cs = [] then t1 else t1.queueTrap cs (t.path c.path).pc false c.path x)).finish c

/-- Completed in a state where more than the tray has changed: the tray is t0 put there, `f` has acted on the whole. -/
def State.completedBy (s : State) (c : Cur) (old t0 : Tray) (f : State → State) : State :=
  (f (s.setTray c.key t0)).completed c old (((f (s.setTray c.key t0)).trays.get? c.key).getD t0)

/-- The tray after an instruction has been counted in a counter, where it had not been before it parked (R142). -/
def Src.counted (r : Src) (t : Tray) (k : Ctr) : Tray := if r.grp = none then t.setCtr k (t.ctr k + 1) else t

/-- What a load leaves in its tray: it is counted in loads, the registers vd are bound for `data` when it completes, and
nothing else changes but the watch mark of a monitor (R31, R142, R162). -/
def LoadSent (r : Src) (a t' : Tray) (vd : List Nat) (data : List RegWrite) : Prop :=
  ∃ (p : Pend) (w : Bool),
    t' = { r.counted a .loads with pend := a.pend ++ [p], nextPend := a.nextPend + 1, watch := w } ∧
    p.id = a.nextPend ∧ p.kind = .load ∧ p.path = r.i ∧ p.ctr = some .loads ∧ p.sdst = [] ∧ p.vdst = vd ∧ p.data = some data

/-- What a store leaves in its tray: it is counted in stores, no register is written or bound, and causes may be left for
the next wait on stores (R142, R162). -/
def StoreSent (r : Src) (a t' : Tray) : Prop :=
  ∃ (p : Pend) (w : Bool) (o : List (Ctr × Cause)),
    t' = { r.counted a .stores with pend := a.pend ++ [p], nextPend := a.nextPend + 1, watch := w, obs := o } ∧
    p.id = a.nextPend ∧ p.kind = .store ∧ p.path = r.i ∧ p.ctr = some .stores ∧ p.sdst = [] ∧ p.vdst = [] ∧ p.data = none

/-- The state in which an access is performed: for an .sc operation the turn that its path slot has taken has come, and its
core notes it (R199, R200); any other goes on as it is. -/
def Src.Goes (r : Src) (s : State) (sc : Prop) (cores : List Nat) (s1 : State) : Prop :=
  (¬sc ∧ s1 = s) ∨
  (sc ∧ ∃ n, (r.t.path r.i).turnAt r.pc = some n ∧ s.overtaken cores n (r.key / 32) = false ∧
    s.turnFree cores n (r.key / 32) = true ∧ s1 = s.onCore (r.key / 32) fun k => { k with done := n })

/-- The state in which a load's requests have been served: what its data is read from (R169–R171). -/
def State.served (s : State) (core ctx h : Nat) (useL1 : Bool) (l : List Placed) : State :=
  let q := requests l useL1
  (s.exchange core (s.homeAgents (s.away core useL1 l))).serve core ctx (hintPrio h) q (s.newFills core q)

/-- No line of the dies' caches has a partial to merge (R206). -/
def State.noPartials (s : State) : Prop := ∀ e ∈ s.lines, ∀ k ∈ e.2, k.2.st ≠ .u

/-- No monitor watches context c: none of its ancestors has one (R415). -/
def State.unwatched (s : State) (c : Nat) : Prop := ∀ a ∈ s.lineage c, (s.ctx a).monitors = []

/-- A load whose checks have come to state s0 with the checked threads k0 completes: it is sent, its data what its threads'
places hold, and memory is as the service of its requests leaves it. -/
def LoadCompletes (s s0 : State) (c : Cur) (t : Tray) (i : Instr) (d : BitVec 7) (n size h : Nat) (useL1 : Bool)
    (k0 : Checked) : Prop :=
  let r := c.src s t
  let core := c.key / 32
  let k := s0.remoteRetries t.ctx k0
  let s1 := s0.forgetAll k.ok size
  k.park = none → s1.loadCauses core size k.ok = [] →
  s1.entriesUsed core + entriesFor (s1.newFills core (requests k.ok useL1)) (requests k.ok useL1) ≤ 8192 →
  ∀ s2, r.Goes s1 (h = 6) (s1.accessCores (t.advance c) core k.ok) s2 →
  let s3 := s2.served core t.ctx h useL1 k.ok
  ∃ (t' : Tray) (s' : State), exec i s = .next (s'.completed c t t') ∧
    LoadSent r (t.advance c) t' (r.group d n)
      (k.ok.flatMap fun x => regWrites (r.t.vwin + d.toNat) n x.th (s3.readAt core useL1 x.loc size)) ∧
    (s3.unwatched t.ctx → s'.mem = s3.mem)

/-- Completed with a command sent to an engine unit from state s1: counted, its registers pending (R10, R19). -/
def State.sent (s1 : State) (c : Cur) (t : Tray) (r : Src) (eng unit : Nat) (ver : Word) (ctr : Option Ctr)
    (sdst vdst : List Nat) (body : OpBody) : State :=
  let q := r.send (t.advance c) s1 eng unit ver ctr sdst vdst body
  q.2.completed c t q.1

/-- Completed with a command sent that returns registers and is counted in loads (R10, R19). -/
def State.asked (s1 : State) (c : Cur) (t : Tray) (r : Src) (eng unit : Nat) (sdst vdst : List Nat) (k : Cmd) : State :=
  let q := r.ask (t.advance c) s1 eng unit sdst vdst k
  q.2.completed c t q.1

/-- The same with its values known at issue. -/
def State.answered (s1 : State) (c : Cur) (t : Tray) (r : Src) (eng unit : Nat) (sdst : List Nat) (vs : List Word) : State :=
  s1.asked c t r eng unit sdst [] (.done ((sdst.zip vs).map fun x => .s x.1 x.2))

/-- Completed with a command sent that returns nothing and is not counted; t1 is the tray that sends it. -/
def State.ordered (s1 : State) (c : Cur) (t t1 : Tray) (r : Src) (eng unit : Nat) (k : Cmd) : State :=
  let q := r.order t1 s1 eng unit k
  q.2.completed c t q.1

/-- A command o that its engine performs in one piece is accepted: it leaves the operations, and the state is as the engine's
performing it leaves it (R10, R14, R15). -/
def Performs (s : State) (o : Op) (s' : State) : Prop :=
  s.nextCommand o.tag.core = some o → s.queueTakes o.tag.core o.tag.eng o.unit = true →
  exec (.commandAccept o.tag.core) s = .next s'

/-- An engine word that stands to issue: the core's replay window has room too (R17). -/
def EngineIssuing (s : State) (c : Cur) (t : Tray) (i : Instr) : Prop :=
  Issuing s c t i.opnds ∧ s.replayFull (c.key / 32) = false

/-- A member arrives at its gang's latch, every waiting member showing the same word (R278): its counters are raised and it
waits there; the last to arrive releases all of them. -/
def Arrives (s : State) (c : Cur) (t : Tray) (i : Instr) (ctrs : List Ctr) (sdst : List Nat) (a : Arrival) : Prop :=
  let r := c.src s t
  let l := s.atLatch (c.key / 32) t.batch a.first a.n
  (∀ x ∈ l, x.2.word = a.word) →
  let t1 := ctrs.foldl (fun t k =>
    t.addPend (if k = .loads then .result else .op) c.path (some k) (if k = .loads then sdst else []) [] none) (t.advance c)
  let a1 := { a with pends := (List.range ctrs.length).map fun j => t.nextPend + j }
  exec i s = .next (s.completedBy c t { t1.setPc c.path c.pc with wait := .latch a1 } fun s =>
    if l.length + 1 < a.n then s else r.release s t.batch (s.clusterIdOf t) (l ++ [(c.key, a1)]) a.word)

/-- The words an MMA or MDIST reads as scratchpad descriptors (Table 12.6); zero for a register operand. -/
def mmaDesc (r : Src) (a : BitVec 7) (w : Word) : DWord × DWord :=
  let k := mmaCtl w
  (if k.aspad then r.s2 a else 0, if k.bspad then r.t.spair r.i k.breg else 0)

/-- The block registers that the issuing member supplies to an MMA or MDIST (R284). -/
def mmaMine (r : Src) (a : BitVec 7) (w : Word) : List (Nat × Nat) :=
  let k := mmaCtl w
  let n := gsN r.t.gangsel
  let q := gsRank r.t.gangsel
  (if k.aspad then [] else blockRegs n q false k.scales a.toNat) ++ if k.bspad then [] else blockRegs n q true k.scales k.breg

/-- Every check of an MMA or MDIST passes: legality, the gang and its tiles, registers, alignment and scratchpad ranges
(R283–R286, R296). -/
def MmaReady (s : State) (t : Tray) (r : Src) (tf a : BitVec 7) (w : Word) : Prop :=
  let k := mmaCtl w
  let d := mmaDesc r a w
  r.gangIllegal true = false ∧ k.legal w tf.toNat = true ∧ operandLegal k.aspad false k.scales a.toNat = true ∧
  operandLegal k.bspad true k.scales k.breg = true ∧
  scoreboard r.t r.i (((if k.aspad then [Opnd.sr a 2] else []) ++
    if k.bspad then [Opnd.sr (BitVec.ofNat 7 k.breg) 2] else []) ++
    (mmaMine r a w).map fun x => Opnd.vr (BitVec.ofNat 7 x.2) 1) = false ∧
  (k.aspad = true → descLegal d.1 k.scales = true) ∧ (k.bspad = true → descLegal d.2 k.scales = true) ∧
  r.t.holdsAll (if k.typ = 9 then [tf.toNat, tf.toNat + 1] else [tf.toNat]) = true ∧
  ((mmaMine r a w).all fun x => decide (r.t.vwin + x.2 < r.t.n)) = true ∧
  (k.aspad = true → (lo32 d.1).toNat % 16 = 0 ∧ descEnd d.1 24 k.cnt k.scales ≤ (s.clusterFor t).size) ∧
  (k.bspad = true → (lo32 d.2).toNat % 16 = 0 ∧ descEnd d.2 32 k.cnt k.scales ≤ (s.clusterFor t).size)

/-- A stack operation whose checks pass completes by sending its command (R304). -/
def Stacks (s : State) (c : Cur) (t : Tray) (i : Instr) (addrs : List (Nat × Nat)) (k : StackOp) : Prop :=
  ∀ u, EngineIssuing s c t i → s.stackUnit t.ctx (c.key / 32) = some u → addrCauses addrs = [] →
    (c.src s t).t.ctrFull .copies = false →
    exec i s = .next (s.sent c t (c.src s t) 4 u noVer (some .copies) [] [] (.stack k))

/-- A sampler command whose checks pass completes: its results, one list of words for each thread still to be performed,
are bound for nr window registers of the thread (R373, R374, R383). -/
def Samples (s : State) (c : Cur) (t : Tray) (i : Instr) (d a : BitVec 7) (b : SB) (nr no align : Nat)
    (f : Reader → Nat → Word → List Word → (Nat → Word) → Samp (List Word)) (note : List Word → Nat × Nat) : Prop :=
  let r := c.src s t
  let desc := (pair (r.sq b 0) (r.sq b 1)).toNat
  let core := c.key / 32
  let ops : List Opnd := [⟨.v, d.toNat, nr, false, true⟩, ⟨.v, a.toNat, no, true, false⟩]
  EngineIssuing s c t i → r.t.p1 = none → desc < 2 ^ 52 → desc % align = 0 → d.toNat + nr ≤ 128 → a.toNat + no ≤ 128 →
  beyondN r.t ops = false → scoreboard r.t c.path ops = false → r.ctrFull .loads = false →
  ∀ k, sampAll r.todo (fun th => f ⟨s, t.ctx, core, r.sq b 2⟩ desc (r.sq b 3)
      ((List.range no).map fun j => r.t.vreg (a.toNat + j) th) fun j => Config.samplerOpen s.ticks th j) = .ok k →
    k.park = none →
    let q := s.sampReads t.ctx core (c.key % 32) k.reads
    let n := k.out.map fun x => note x.2
    let s1 := (q.2.sampAdd t.ctx (core / 8) 0 (n.map (·.1)).sum).sampAdd t.ctx (core / 8) 1 (n.map (·.2)).sum
    let data := k.out.flatMap fun x => (List.range nr).map fun j => RegWrite.v (vkey (r.t.vwin + d.toNat + j) x.1) (x.2.getD j 0)
    let z := r.send { t.advance c with watch := t.watch || q.1 } s1 7 (core / 8) (r.sq b 2) (some .loads) []
      (List.range' (r.t.vwin + d.toNat) nr) (.performed data)
    exec i s = .next (z.2.completed c t z.1)

/-- A command of a front whose checks pass completes by being sent to the front of its core's die (R341, R359). -/
def Fronts (s : State) (c : Cur) (t : Tray) (i : Instr) (addr : Nat) (k : Cmd) : Prop :=
  let r := c.src s t
  EngineIssuing s c t i → r.t.p1 = none → (s.ctx t.ctx).own.raster ≠ 0 → addrCauses [(addr, 64)] = [] →
  exec i s = .next (s.ordered c t (t.advance c) r 6 (c.key / 32 / 256) k)

/-- A command of the collective engine whose checks pass completes by being sent, its registers bound (R317–R319). -/
def Collects (s : State) (c : Cur) (t : Tray) (i : Instr) (sdst counters : List Nat) (addrs : List (Nat × Nat))
    (k : Cmd) : Prop :=
  let own := (s.ctx t.ctx).own
  EngineIssuing s c t i → own.ual ≠ 0 → (counters.all fun k => own.counters.getLsbD k) = true → addrCauses addrs = [] →
  (c.src s t).t.ctrFull .loads = false → exec i s = .next (s.asked c t (c.src s t) 5 0 sdst [] k)

/-- CPOST and CPOSTR as their registers say, where the control word and the quad are legal (R318–R324). -/
def Posts (s : State) (c : Cur) (t : Tray) (i : Instr) (red : Bool) (d a : BitVec 7) (b : SB) : Prop :=
  let r := c.src s t
  let k := postCtl (r.sn a 3)
  k.legal (r.sn a 3) (k.post red) = true →
  postQuadOk (k.post red) k.typ (r.sn a 2).toNat (r.sq b 0).toNat (r.sq b 1).toNat (r.sq b 2).toNat (r.sq b 3).toNat = true →
  Collects s c t i [d.toNat] [(r.sq b 3).toNat]
    ([((r.s2 a).toNat, typSize k.typ)] ++ if k.post red = .put then [((r.sq b 1).toNat, 4)] else [])
    (.post d.toNat red (r.s2 a).toNat (r.sn a 2).toNat (r.sn a 3) (r.sq b 0) (r.sq b 1) (r.sq b 2) (r.sq b 3))

/-- A command of the context engine within its quota completes by being sent (R396, R397). -/
def Commands (s : State) (c : Cur) (t : Tray) (i : Instr) (ctr : Ctr) (d : BitVec 7) (n : Nat) (k : CtxOp) : Prop :=
  EngineIssuing s c t i → (c.src s t).t.ctrFull ctr = false →
  exec i s = .next (s.sent c t (c.src s t) 8 0 noVer (some ctr) (List.range' d.toNat n) [] (.ctx k))

/-- No trap and no park of an earlier word of the group is due when the word's group ends (R44). -/
def NothingDue (c : Cur) (t : Tray) : Prop := c.tied = true ∨ (t.traps = [] ∧ t.resumeAt = none)

/-- What a word outside memory leaves: between the two states nothing but the issuing tray has changed; of it only its path
and the check of its entry word, the scalar registers `sd` as its path sees them, the physical registers `vd` of the threads
in m0, with `fl` FPSTAT, and, where the path gives up what it had still to do, the counter of that (R142). -/
structure Frame (s s' : State) (c : Cur) (t : Tray) (sd vd : List Nat) (fl : Bool) : Prop where
  rest : s' = { s with trays := s'.trays }
  others : ∀ k, k ≠ c.key → s'.trays.get? k = s.trays.get? k
  own : ∃ t', s'.trays.get? c.key = some t' ∧
    t' = { t with
      p0 := t'.p0, p1 := t'.p1, sregs := t'.sregs, vregs := t'.vregs, fpstat := t'.fpstat, chainFl := t'.chainFl,
      entryWord := t'.entryWord, loads := t'.loads, stores := t'.stores, copies := t'.copies, matrix := t'.matrix } ∧
    (∀ k, k ∉ sd → t'.sreg c.path k = t.sreg c.path k) ∧
    (∀ p th, th < 96 → p ∉ vd ∨ (c.src s t).m0.getLsbD th = false → t'.phys p th = t.phys p th) ∧
    (fl = false → t'.fpstat = t.fpstat) ∧
    (∀ k, (∀ g, ((t.path c.path).redo.bind (·.grp)) ≠ some (g, k)) → t'.ctr k = t.ctr k)

/-- Whenever the instruction that `c` describes comes to a next state, it leaves everything but what is named. -/
def Keeps (s : State) (c : Cur) (t : Tray) (i : Instr) (sd vd : List Nat) : Prop :=
  NothingDue c t → Issuing s c t i.opnds → ∀ s', exec i s = .next s' → Frame s s' c t sd vd false

/-- The same for an instruction that may trap at itself (R42, R99): then the trap is all that happens. -/
def KeepsOrTraps (s : State) (c : Cur) (t : Tray) (i : Instr) (sd vd : List Nat) (fl : Bool) : Prop :=
  NothingDue c t → Issuing s c t i.opnds → ∀ s', exec i s = .next s' →
    (∃ cs, cs ≠ [] ∧ s' = s.trapped c t cs) ∨ Frame s s' c t sd vd fl

end Sys2Proof.Machine
end

