-- ==== Sys2Proof/Certificates/Slice0/Obligations.lean ====
section
/-!
DEFINITION. The statements about the model, for the provers.
-/

open Sys2Proof Sys2Proof.Machine

/-- Every scalar arithmetic, move and select instruction of majors 0x03 to 0x06, in every operand form, completes with
its result of Table 5.2 in s(d), or in the pair for SADD64 and SSUB64; MAND, MOR, MXOR, MANDN, MMOV and MSET complete
with their mask in the triple d, MPOP and MFIRST with the count or the lowest thread of their operand in s(d). The
path goes on at the word after the group. -/
def Obligations.ScalarResults : Prop :=
  ∀ (s : State) (c : Cur) (t : Tray),
    let r := c.src s t
    (∀ d a b, Completes s c t (.sadd d a b) (s.wroteS c t d (r.s a + r.sb b))) ∧
    (∀ d a b, Completes s c t (.ssub d a b) (s.wroteS c t d (r.s a - r.sb b))) ∧
    (∀ d a b, Completes s c t (.smul d a b) (s.wroteS c t d (r.s a * r.sb b))) ∧
    (∀ d a b, Completes s c t (.smulh d a b) (s.wroteS c t d (mulh32 (r.s a) (r.sb b)))) ∧
    (∀ d a b, Completes s c t (.sand d a b) (s.wroteS c t d (r.s a &&& r.sb b))) ∧
    (∀ d a b, Completes s c t (.sor d a b) (s.wroteS c t d (r.s a ||| r.sb b))) ∧
    (∀ d a b, Completes s c t (.sxor d a b) (s.wroteS c t d (r.s a ^^^ r.sb b))) ∧
    (∀ d a b, Completes s c t (.sshl d a b) (s.wroteS c t d (shl32 (r.s a) (r.sb b)))) ∧
    (∀ d a b, Completes s c t (.sshr d a b) (s.wroteS c t d (shr32 (r.s a) (r.sb b)))) ∧
    (∀ d a b, Completes s c t (.ssra d a b) (s.wroteS c t d (sra32 (r.s a) (r.sb b)))) ∧
    (∀ d a b, Completes s c t (.smin d a b) (s.wroteS c t d (smin32 (r.s a) (r.sb b)))) ∧
    (∀ d a b, Completes s c t (.smax d a b) (s.wroteS c t d (smax32 (r.s a) (r.sb b)))) ∧
    (∀ d a imm, Completes s c t (.saddI d a imm) (s.wroteS c t d (r.s a + immS imm))) ∧
    (∀ d a imm, Completes s c t (.ssubI d a imm) (s.wroteS c t d (r.s a - immS imm))) ∧
    (∀ d a imm, Completes s c t (.smulI d a imm) (s.wroteS c t d (r.s a * immS imm))) ∧
    (∀ d a imm, Completes s c t (.smulhI d a imm) (s.wroteS c t d (mulh32 (r.s a) (immS imm)))) ∧
    (∀ d a imm, Completes s c t (.sandI d a imm) (s.wroteS c t d (r.s a &&& immZ imm))) ∧
    (∀ d a imm, Completes s c t (.sorI d a imm) (s.wroteS c t d (r.s a ||| immZ imm))) ∧
    (∀ d a imm, Completes s c t (.sxorI d a imm) (s.wroteS c t d (r.s a ^^^ immZ imm))) ∧
    (∀ d a imm, Completes s c t (.sshlI d a imm) (s.wroteS c t d (shl32 (r.s a) (immZ imm)))) ∧
    (∀ d a imm, Completes s c t (.sshrI d a imm) (s.wroteS c t d (shr32 (r.s a) (immZ imm)))) ∧
    (∀ d a imm, Completes s c t (.ssraI d a imm) (s.wroteS c t d (sra32 (r.s a) (immZ imm)))) ∧
    (∀ d a imm, Completes s c t (.sminI d a imm) (s.wroteS c t d (smin32 (r.s a) (immS imm)))) ∧
    (∀ d a imm, Completes s c t (.smaxI d a imm) (s.wroteS c t d (smax32 (r.s a) (immS imm)))) ∧
    (∀ d b, Completes s c t (.smov d b) (s.wroteS c t d (r.sb b))) ∧
    (∀ d imm, Completes s c t (.smovI d imm) (s.wroteS c t d (immS imm))) ∧
    (∀ d a b, Completes s c t (.ssel d a b) (s.wroteS c t d (if r.s d = 0 then r.sb b else r.s a))) ∧
    (∀ d a b, Completes s c t (.sadd64 d a b) (s.wroteS2 c t d (r.s2 a + r.sb64 b))) ∧
    (∀ d a b, Completes s c t (.ssub64 d a b) (s.wroteS2 c t d (r.s2 a - r.sb64 b))) ∧
    (∀ d a imm, Completes s c t (.sadd64I d a imm) (s.wroteS2 c t d (r.s2 a + immS64 imm))) ∧
    (∀ d a imm, Completes s c t (.ssub64I d a imm) (s.wroteS2 c t d (r.s2 a - immS64 imm))) ∧
    (∀ d a b, Completes s c t (.mand d a b) (s.wroteM c t d (r.m a &&& r.mb b))) ∧
    (∀ d a b, Completes s c t (.mor d a b) (s.wroteM c t d (r.m a ||| r.mb b))) ∧
    (∀ d a b, Completes s c t (.mxor d a b) (s.wroteM c t d (r.m a ^^^ r.mb b))) ∧
    (∀ d a b, Completes s c t (.mandn d a b) (s.wroteM c t d (r.m a &&& ~~~(r.mb b)))) ∧
    (∀ d b, Completes s c t (.mmov d b) (s.wroteM c t d (r.mb b))) ∧
    (∀ d a, Completes s c t (.mset d a) (s.wroteM c t d (BitVec.ofNat 96 ((maskThreads r.m0).map fun t => if r.v a t = 0 then 0 else 2 ^ t).sum))) ∧
    (∀ d b, Completes s c t (.mpop d b) (s.wroteS c t d (BitVec.ofNat 32 (popMask (r.mb b))))) ∧
    (∀ d b, Completes s c t (.mfirst d b) (s.wroteS c t d (match (maskThreads (r.mb b)).head? with
        | some t => BitVec.ofNat 32 t
        | none => 0xFFFFFFFF)))

/-- SCMP completes with all ones in s(d) where a and b are in the relation of Table 5.3 that its condition names,
signed or unsigned as the table reads them, and with zero where they are not. -/
def Obligations.ScalarCompare : Prop :=
  ∀ (s : State) (c : Cur) (t : Tray) (d a : BitVec 7) (b : SB),
    let x := (c.src s t).s a
    let y := (c.src s t).sb b
    let by' (p : Bool) : State := s.wroteS c t d (if p then 0xFFFFFFFF else 0)
    Completes s c t (.scmp .eq d a b) (by' (decide (x = y))) ∧
    Completes s c t (.scmp .ne d a b) (by' (decide (x ≠ y))) ∧
    Completes s c t (.scmp .lt d a b) (by' (decide (x.toInt < y.toInt))) ∧
    Completes s c t (.scmp .le d a b) (by' (decide (x.toInt ≤ y.toInt))) ∧
    Completes s c t (.scmp .ltn d a b) (by' (decide (x.toNat < y.toNat))) ∧
    Completes s c t (.scmp .len d a b) (by' (decide (x.toNat ≤ y.toNat))) ∧
    Completes s c t (.scmp .gt d a b) (by' (decide (y.toInt < x.toInt))) ∧
    Completes s c t (.scmp .gtn d a b) (by' (decide (y.toNat < x.toNat)))

/-- Every integer vector instruction, in every operand form, completes with its result in v(d) of each active thread,
or in the pair for VADD64 and VMAD64, from the registers as they stood before the group; inactive threads and every
other register keep their values. -/
def Obligations.VectorResults : Prop :=
  ∀ (s : State) (c : Cur) (t : Tray),
    let r := c.src s t
    (∀ d a b, Completes s c t (.vadd d a b) (s.wroteV c t d (fun th => r.v a th + r.vb th b))) ∧
    (∀ d a b, Completes s c t (.vsub d a b) (s.wroteV c t d (fun th => r.v a th - r.vb th b))) ∧
    (∀ d a b, Completes s c t (.vmul d a b) (s.wroteV c t d (fun th => r.v a th * r.vb th b))) ∧
    (∀ d a b, Completes s c t (.vmulh d a b) (s.wroteV c t d (fun th => mulh32 (r.v a th) (r.vb th b)))) ∧
    (∀ d a b, Completes s c t (.vmad d a b) (s.wroteV c t d (fun th => r.v a th * r.v d th + r.vb th b))) ∧
    (∀ d a b, Completes s c t (.vand d a b) (s.wroteV c t d (fun th => r.v a th &&& r.vb th b))) ∧
    (∀ d a b, Completes s c t (.vor d a b) (s.wroteV c t d (fun th => r.v a th ||| r.vb th b))) ∧
    (∀ d a b, Completes s c t (.vxor d a b) (s.wroteV c t d (fun th => r.v a th ^^^ r.vb th b))) ∧
    (∀ d a b, Completes s c t (.vshl d a b) (s.wroteV c t d (fun th => shl32 (r.v a th) (r.vb th b)))) ∧
    (∀ d a b, Completes s c t (.vshr d a b) (s.wroteV c t d (fun th => shr32 (r.v a th) (r.vb th b)))) ∧
    (∀ d a b, Completes s c t (.vsra d a b) (s.wroteV c t d (fun th => sra32 (r.v a th) (r.vb th b)))) ∧
    (∀ d a b, Completes s c t (.vmin d a b) (s.wroteV c t d (fun th => smin32 (r.v a th) (r.vb th b)))) ∧
    (∀ d a b, Completes s c t (.vmax d a b) (s.wroteV c t d (fun th => smax32 (r.v a th) (r.vb th b)))) ∧
    (∀ d a imm, Completes s c t (.vaddI d a imm) (s.wroteV c t d (fun th => r.v a th + immS imm))) ∧
    (∀ d a imm, Completes s c t (.vsubI d a imm) (s.wroteV c t d (fun th => r.v a th - immS imm))) ∧
    (∀ d a imm, Completes s c t (.vmulI d a imm) (s.wroteV c t d (fun th => r.v a th * immS imm))) ∧
    (∀ d a imm, Completes s c t (.vmulhI d a imm) (s.wroteV c t d (fun th => mulh32 (r.v a th) (immS imm)))) ∧
    (∀ d a imm, Completes s c t (.vmadI d a imm) (s.wroteV c t d (fun th => r.v a th * r.v d th + immS imm))) ∧
    (∀ d a imm, Completes s c t (.vandI d a imm) (s.wroteV c t d (fun th => r.v a th &&& immZ imm))) ∧
    (∀ d a imm, Completes s c t (.vorI d a imm) (s.wroteV c t d (fun th => r.v a th ||| immZ imm))) ∧
    (∀ d a imm, Completes s c t (.vxorI d a imm) (s.wroteV c t d (fun th => r.v a th ^^^ immZ imm))) ∧
    (∀ d a imm, Completes s c t (.vshlI d a imm) (s.wroteV c t d (fun th => shl32 (r.v a th) (immZ imm)))) ∧
    (∀ d a imm, Completes s c t (.vshrI d a imm) (s.wroteV c t d (fun th => shr32 (r.v a th) (immZ imm)))) ∧
    (∀ d a imm, Completes s c t (.vsraI d a imm) (s.wroteV c t d (fun th => sra32 (r.v a th) (immZ imm)))) ∧
    (∀ d a imm, Completes s c t (.vminI d a imm) (s.wroteV c t d (fun th => smin32 (r.v a th) (immS imm)))) ∧
    (∀ d a imm, Completes s c t (.vmaxI d a imm) (s.wroteV c t d (fun th => smax32 (r.v a th) (immS imm)))) ∧
    (∀ d a b, Completes s c t (.vsel d a b) (s.wroteV c t d (fun th => if r.v d th = 0 then r.vb th b else r.v a th))) ∧
    (∀ d b, Completes s c t (.vmov d b) (s.wroteV c t d (fun th => r.vb th b))) ∧
    (∀ d a b, Completes s c t (.vadd64 d a b) (s.wroteV2 c t d (fun th => r.v2 a th + r.vb64 th b))) ∧
    (∀ d a imm, Completes s c t (.vadd64I d a imm) (s.wroteV2 c t d (fun th => r.v2 a th + immS64 imm))) ∧
    (∀ d a b, Completes s c t (.vmad64 d a b) (s.wroteV2 c t d (fun th => (r.v a th).signExtend 64 * r.v2 d th + r.vb64 th b))) ∧
    (∀ d a imm, Completes s c t (.vmad64I d a imm) (s.wroteV2 c t d (fun th => (r.v a th).signExtend 64 * r.v2 d th + immS64 imm))) ∧
    (∀ d b, Completes s c t (.vnot d b) (s.wroteV c t d (fun th => ~~~(r.vb th b)))) ∧
    (∀ d b, Completes s c t (.vabs d b) (s.wroteV c t d (fun th => abs32 (r.vb th b)))) ∧
    (∀ d b, Completes s c t (.vclz d b) (s.wroteV c t d (fun th => clz32 (r.vb th b)))) ∧
    (∀ d b, Completes s c t (.vpopc d b) (s.wroteV c t d (fun th => popc32 (r.vb th b)))) ∧
    (∀ d b, Completes s c t (.vbrev d b) (s.wroteV c t d (fun th => brev32 (r.vb th b)))) ∧
    (∀ d a b, Completes s c t (.vbfe d a b) (s.wroteV c t d (fun th => bfe32 (r.v a th) (r.vb th b)))) ∧
    (∀ d a b, Completes s c t (.vbfi d a b) (s.wroteV c t d (fun th => bfi32 (r.v d th) (r.v a th) (r.vb th b)))) ∧
    (∀ cc d a b, Completes s c t (.vcmp cc d a b) (s.wroteV c t d (fun th => boolWord (icmpHolds cc (r.v a th) (r.vb th b)))))

/-- Where no trap of an earlier word of the group is due, scalar, mask, integer vector, floating-point, packed and
conversion arithmetic, NOP and the branches, calls and returns change nothing of the package but the issuing tray, no
byte of memory among it, and of the tray only its path, its destination registers (for vectors those of the active
threads; CALL and CALLI write s62 and s63, LOOP its counter) and, for floating-point work, FPSTAT; a floating-point
instruction or a branch that traps changes no register. -/
def Obligations.RegisterFrames : Prop :=
  ∀ (s : State) (c : Cur) (t : Tray),
    let r := c.src s t
    (∀ d a b, Keeps s c t (.sadd d a b) [d.toNat] []) ∧
    (∀ d a b, Keeps s c t (.ssub d a b) [d.toNat] []) ∧
    (∀ d a b, Keeps s c t (.smul d a b) [d.toNat] []) ∧
    (∀ d a b, Keeps s c t (.smulh d a b) [d.toNat] []) ∧
    (∀ d a b, Keeps s c t (.sand d a b) [d.toNat] []) ∧
    (∀ d a b, Keeps s c t (.sor d a b) [d.toNat] []) ∧
    (∀ d a b, Keeps s c t (.sxor d a b) [d.toNat] []) ∧
    (∀ d a b, Keeps s c t (.sshl d a b) [d.toNat] []) ∧
    (∀ d a b, Keeps s c t (.sshr d a b) [d.toNat] []) ∧
    (∀ d a b, Keeps s c t (.ssra d a b) [d.toNat] []) ∧
    (∀ d a b, Keeps s c t (.smin d a b) [d.toNat] []) ∧
    (∀ d a b, Keeps s c t (.smax d a b) [d.toNat] []) ∧
    (∀ d a imm, Keeps s c t (.saddI d a imm) [d.toNat] []) ∧
    (∀ d a imm, Keeps s c t (.ssubI d a imm) [d.toNat] []) ∧
    (∀ d a imm, Keeps s c t (.smulI d a imm) [d.toNat] []) ∧
    (∀ d a imm, Keeps s c t (.smulhI d a imm) [d.toNat] []) ∧
    (∀ d a imm, Keeps s c t (.sandI d a imm) [d.toNat] []) ∧
    (∀ d a imm, Keeps s c t (.sorI d a imm) [d.toNat] []) ∧
    (∀ d a imm, Keeps s c t (.sxorI d a imm) [d.toNat] []) ∧
    (∀ d a imm, Keeps s c t (.sshlI d a imm) [d.toNat] []) ∧
    (∀ d a imm, Keeps s c t (.sshrI d a imm) [d.toNat] []) ∧
    (∀ d a imm, Keeps s c t (.ssraI d a imm) [d.toNat] []) ∧
    (∀ d a imm, Keeps s c t (.sminI d a imm) [d.toNat] []) ∧
    (∀ d a imm, Keeps s c t (.smaxI d a imm) [d.toNat] []) ∧
    (∀ d b, Keeps s c t (.smov d b) [d.toNat] []) ∧
    (∀ d imm, Keeps s c t (.smovI d imm) [d.toNat] []) ∧
    (∀ d a b, Keeps s c t (.ssel d a b) [d.toNat] []) ∧
    (∀ d a b, Keeps s c t (.sadd64 d a b) [d.toNat, d.toNat + 1] []) ∧
    (∀ d a b, Keeps s c t (.ssub64 d a b) [d.toNat, d.toNat + 1] []) ∧
    (∀ d a imm, Keeps s c t (.sadd64I d a imm) [d.toNat, d.toNat + 1] []) ∧
    (∀ d a imm, Keeps s c t (.ssub64I d a imm) [d.toNat, d.toNat + 1] []) ∧
    (∀ d a b, Keeps s c t (.mand d a b) [3 * d.toNat, 3 * d.toNat + 1, 3 * d.toNat + 2] []) ∧
    (∀ d a b, Keeps s c t (.mor d a b) [3 * d.toNat, 3 * d.toNat + 1, 3 * d.toNat + 2] []) ∧
    (∀ d a b, Keeps s c t (.mxor d a b) [3 * d.toNat, 3 * d.toNat + 1, 3 * d.toNat + 2] []) ∧
    (∀ d a b, Keeps s c t (.mandn d a b) [3 * d.toNat, 3 * d.toNat + 1, 3 * d.toNat + 2] []) ∧
    (∀ d b, Keeps s c t (.mmov d b) [3 * d.toNat, 3 * d.toNat + 1, 3 * d.toNat + 2] []) ∧
    (∀ d a, Keeps s c t (.mset d a) [3 * d.toNat, 3 * d.toNat + 1, 3 * d.toNat + 2] []) ∧
    (∀ d b, Keeps s c t (.mpop d b) [d.toNat] []) ∧
    (∀ d b, Keeps s c t (.mfirst d b) [d.toNat] []) ∧
    (∀ d a b, Keeps s c t (.vadd d a b) [] [r.t.vwin + d.toNat]) ∧
    (∀ d a b, Keeps s c t (.vsub d a b) [] [r.t.vwin + d.toNat]) ∧
    (∀ d a b, Keeps s c t (.vmul d a b) [] [r.t.vwin + d.toNat]) ∧
    (∀ d a b, Keeps s c t (.vmulh d a b) [] [r.t.vwin + d.toNat]) ∧
    (∀ d a b, Keeps s c t (.vmad d a b) [] [r.t.vwin + d.toNat]) ∧
    (∀ d a b, Keeps s c t (.vand d a b) [] [r.t.vwin + d.toNat]) ∧
    (∀ d a b, Keeps s c t (.vor d a b) [] [r.t.vwin + d.toNat]) ∧
    (∀ d a b, Keeps s c t (.vxor d a b) [] [r.t.vwin + d.toNat]) ∧
    (∀ d a b, Keeps s c t (.vshl d a b) [] [r.t.vwin + d.toNat]) ∧
    (∀ d a b, Keeps s c t (.vshr d a b) [] [r.t.vwin + d.toNat]) ∧
    (∀ d a b, Keeps s c t (.vsra d a b) [] [r.t.vwin + d.toNat]) ∧
    (∀ d a b, Keeps s c t (.vmin d a b) [] [r.t.vwin + d.toNat]) ∧
    (∀ d a b, Keeps s c t (.vmax d a b) [] [r.t.vwin + d.toNat]) ∧
    (∀ d a imm, Keeps s c t (.vaddI d a imm) [] [r.t.vwin + d.toNat]) ∧
    (∀ d a imm, Keeps s c t (.vsubI d a imm) [] [r.t.vwin + d.toNat]) ∧
    (∀ d a imm, Keeps s c t (.vmulI d a imm) [] [r.t.vwin + d.toNat]) ∧
    (∀ d a imm, Keeps s c t (.vmulhI d a imm) [] [r.t.vwin + d.toNat]) ∧
    (∀ d a imm, Keeps s c t (.vmadI d a imm) [] [r.t.vwin + d.toNat]) ∧
    (∀ d a imm, Keeps s c t (.vandI d a imm) [] [r.t.vwin + d.toNat]) ∧
    (∀ d a imm, Keeps s c t (.vorI d a imm) [] [r.t.vwin + d.toNat]) ∧
    (∀ d a imm, Keeps s c t (.vxorI d a imm) [] [r.t.vwin + d.toNat]) ∧
    (∀ d a imm, Keeps s c t (.vshlI d a imm) [] [r.t.vwin + d.toNat]) ∧
    (∀ d a imm, Keeps s c t (.vshrI d a imm) [] [r.t.vwin + d.toNat]) ∧
    (∀ d a imm, Keeps s c t (.vsraI d a imm) [] [r.t.vwin + d.toNat]) ∧
    (∀ d a imm, Keeps s c t (.vminI d a imm) [] [r.t.vwin + d.toNat]) ∧
    (∀ d a imm, Keeps s c t (.vmaxI d a imm) [] [r.t.vwin + d.toNat]) ∧
    (∀ d a b, Keeps s c t (.vsel d a b) [] [r.t.vwin + d.toNat]) ∧
    (∀ d b, Keeps s c t (.vmov d b) [] [r.t.vwin + d.toNat]) ∧
    (∀ d a b, Keeps s c t (.vadd64 d a b) [] [r.t.vwin + d.toNat, r.t.vwin + d.toNat + 1]) ∧
    (∀ d a imm, Keeps s c t (.vadd64I d a imm) [] [r.t.vwin + d.toNat, r.t.vwin + d.toNat + 1]) ∧
    (∀ d a b, Keeps s c t (.vmad64 d a b) [] [r.t.vwin + d.toNat, r.t.vwin + d.toNat + 1]) ∧
    (∀ d a imm, Keeps s c t (.vmad64I d a imm) [] [r.t.vwin + d.toNat, r.t.vwin + d.toNat + 1]) ∧
    (∀ d b, Keeps s c t (.vnot d b) [] [r.t.vwin + d.toNat]) ∧
    (∀ d b, Keeps s c t (.vabs d b) [] [r.t.vwin + d.toNat]) ∧
    (∀ d b, Keeps s c t (.vclz d b) [] [r.t.vwin + d.toNat]) ∧
    (∀ d b, Keeps s c t (.vpopc d b) [] [r.t.vwin + d.toNat]) ∧
    (∀ d b, Keeps s c t (.vbrev d b) [] [r.t.vwin + d.toNat]) ∧
    (∀ d a b, Keeps s c t (.vbfe d a b) [] [r.t.vwin + d.toNat]) ∧
    (∀ d a b, Keeps s c t (.vbfi d a b) [] [r.t.vwin + d.toNat]) ∧
    (∀ cc d a b, Keeps s c t (.vcmp cc d a b) [] [r.t.vwin + d.toNat]) ∧
    (∀ d a b, KeepsOrTraps s c t (.fadd d a b) [] [r.t.vwin + d.toNat] true) ∧
    (∀ d a b, KeepsOrTraps s c t (.fsub d a b) [] [r.t.vwin + d.toNat] true) ∧
    (∀ d a b, KeepsOrTraps s c t (.fmul d a b) [] [r.t.vwin + d.toNat] true) ∧
    (∀ d a b, KeepsOrTraps s c t (.ffma d a b) [] [r.t.vwin + d.toNat] true) ∧
    (∀ d a b, KeepsOrTraps s c t (.ffms d a b) [] [r.t.vwin + d.toNat] true) ∧
    (∀ d a b, KeepsOrTraps s c t (.fnma d a b) [] [r.t.vwin + d.toNat] true) ∧
    (∀ d a b, KeepsOrTraps s c t (.fmin d a b) [] [r.t.vwin + d.toNat] true) ∧
    (∀ d a b, KeepsOrTraps s c t (.fmax d a b) [] [r.t.vwin + d.toNat] true) ∧
    (∀ d a imm, KeepsOrTraps s c t (.faddI d a imm) [] [r.t.vwin + d.toNat] true) ∧
    (∀ d a imm, KeepsOrTraps s c t (.fsubI d a imm) [] [r.t.vwin + d.toNat] true) ∧
    (∀ d a imm, KeepsOrTraps s c t (.fmulI d a imm) [] [r.t.vwin + d.toNat] true) ∧
    (∀ d a imm, KeepsOrTraps s c t (.ffmaI d a imm) [] [r.t.vwin + d.toNat] true) ∧
    (∀ d a imm, KeepsOrTraps s c t (.ffmsI d a imm) [] [r.t.vwin + d.toNat] true) ∧
    (∀ d a imm, KeepsOrTraps s c t (.fnmaI d a imm) [] [r.t.vwin + d.toNat] true) ∧
    (∀ d a imm, KeepsOrTraps s c t (.fminI d a imm) [] [r.t.vwin + d.toNat] true) ∧
    (∀ d a imm, KeepsOrTraps s c t (.fmaxI d a imm) [] [r.t.vwin + d.toNat] true) ∧
    (∀ d b, KeepsOrTraps s c t (.frcp d b) [] [r.t.vwin + d.toNat] true) ∧
    (∀ d b, KeepsOrTraps s c t (.frsq d b) [] [r.t.vwin + d.toNat] true) ∧
    (∀ d b, KeepsOrTraps s c t (.fsqrt d b) [] [r.t.vwin + d.toNat] true) ∧
    (∀ d b, KeepsOrTraps s c t (.fex2 d b) [] [r.t.vwin + d.toNat] true) ∧
    (∀ d b, KeepsOrTraps s c t (.flg2 d b) [] [r.t.vwin + d.toNat] true) ∧
    (∀ d b, KeepsOrTraps s c t (.fsin d b) [] [r.t.vwin + d.toNat] true) ∧
    (∀ d b, KeepsOrTraps s c t (.fcos d b) [] [r.t.vwin + d.toNat] true) ∧
    (∀ d b, KeepsOrTraps s c t (.ftanh d b) [] [r.t.vwin + d.toNat] true) ∧
    (∀ cc d a b, KeepsOrTraps s c t (.fcmp cc d a b) [] [r.t.vwin + d.toNat] true) ∧
    (∀ d a b, KeepsOrTraps s c t (.dadd d a b) [] [r.t.vwin + d.toNat, r.t.vwin + d.toNat + 1] true) ∧
    (∀ d a b, KeepsOrTraps s c t (.dsub d a b) [] [r.t.vwin + d.toNat, r.t.vwin + d.toNat + 1] true) ∧
    (∀ d a b, KeepsOrTraps s c t (.dmul d a b) [] [r.t.vwin + d.toNat, r.t.vwin + d.toNat + 1] true) ∧
    (∀ d a b, KeepsOrTraps s c t (.dfma d a b) [] [r.t.vwin + d.toNat, r.t.vwin + d.toNat + 1] true) ∧
    (∀ d a b, KeepsOrTraps s c t (.dfms d a b) [] [r.t.vwin + d.toNat, r.t.vwin + d.toNat + 1] true) ∧
    (∀ d a b, KeepsOrTraps s c t (.dnma d a b) [] [r.t.vwin + d.toNat, r.t.vwin + d.toNat + 1] true) ∧
    (∀ d a b, KeepsOrTraps s c t (.dmin d a b) [] [r.t.vwin + d.toNat, r.t.vwin + d.toNat + 1] true) ∧
    (∀ d a b, KeepsOrTraps s c t (.dmax d a b) [] [r.t.vwin + d.toNat, r.t.vwin + d.toNat + 1] true) ∧
    (∀ d a b, KeepsOrTraps s c t (.ddiv d a b) [] [r.t.vwin + d.toNat, r.t.vwin + d.toNat + 1] true) ∧
    (∀ d b, KeepsOrTraps s c t (.dsqrt d b) [] [r.t.vwin + d.toNat, r.t.vwin + d.toNat + 1] true) ∧
    (∀ d b, KeepsOrTraps s c t (.drcp d b) [] [r.t.vwin + d.toNat, r.t.vwin + d.toNat + 1] true) ∧
    (∀ d b, KeepsOrTraps s c t (.drsq d b) [] [r.t.vwin + d.toNat, r.t.vwin + d.toNat + 1] true) ∧
    (∀ d b, KeepsOrTraps s c t (.dfloor d b) [] [r.t.vwin + d.toNat, r.t.vwin + d.toNat + 1] true) ∧
    (∀ d b, KeepsOrTraps s c t (.dceil d b) [] [r.t.vwin + d.toNat, r.t.vwin + d.toNat + 1] true) ∧
    (∀ d b, KeepsOrTraps s c t (.drne d b) [] [r.t.vwin + d.toNat, r.t.vwin + d.toNat + 1] true) ∧
    (∀ d b, KeepsOrTraps s c t (.dtrunc d b) [] [r.t.vwin + d.toNat, r.t.vwin + d.toNat + 1] true) ∧
    (∀ cc d a b, KeepsOrTraps s c t (.dcmp cc d a b) [] [r.t.vwin + d.toNat] true) ∧
    (∀ d a b, KeepsOrTraps s c t (.hadd2 d a b) [] [r.t.vwin + d.toNat] true) ∧
    (∀ d a b, KeepsOrTraps s c t (.hmul2 d a b) [] [r.t.vwin + d.toNat] true) ∧
    (∀ d a b, KeepsOrTraps s c t (.hfma2 d a b) [] [r.t.vwin + d.toNat] true) ∧
    (∀ d a b, KeepsOrTraps s c t (.hmax2 d a b) [] [r.t.vwin + d.toNat] true) ∧
    (∀ d a b, KeepsOrTraps s c t (.badd2 d a b) [] [r.t.vwin + d.toNat] true) ∧
    (∀ d a b, KeepsOrTraps s c t (.bmul2 d a b) [] [r.t.vwin + d.toNat] true) ∧
    (∀ d a b, KeepsOrTraps s c t (.bfma2 d a b) [] [r.t.vwin + d.toNat] true) ∧
    (∀ d a b, KeepsOrTraps s c t (.bmax2 d a b) [] [r.t.vwin + d.toNat] true) ∧
    (∀ d a rm u, KeepsOrTraps s c t (.cvtF32I32 d a rm u) [] [r.t.vwin + d.toNat] true) ∧
    (∀ d a rm u, KeepsOrTraps s c t (.cvtI32F32 d a rm u) [] [r.t.vwin + d.toNat] true) ∧
    (∀ d a, KeepsOrTraps s c t (.cvtF64F32 d a) [] [r.t.vwin + d.toNat, r.t.vwin + d.toNat + 1] true) ∧
    (∀ d a rm sat, KeepsOrTraps s c t (.cvtF32F64 d a rm sat) [] [r.t.vwin + d.toNat] true) ∧
    (∀ d a u, KeepsOrTraps s c t (.cvtF64I32 d a u) [] [r.t.vwin + d.toNat, r.t.vwin + d.toNat + 1] true) ∧
    (∀ d a rm u, KeepsOrTraps s c t (.cvtI32F64 d a rm u) [] [r.t.vwin + d.toNat] true) ∧
    (∀ d a h hi, KeepsOrTraps s c t (.cvtF32F16 d a h hi) [] [r.t.vwin + d.toNat] true) ∧
    (∀ d a rm sat h, KeepsOrTraps s c t (.cvtF16F32 d a rm sat h) [] [r.t.vwin + d.toNat] true) ∧
    (∀ d a fmt, KeepsOrTraps s c t (.scale d a fmt) [] [r.t.vwin + d.toNat] true) ∧
    (∀ d a pos fmt mx rm, KeepsOrTraps s c t (.dq8 d a pos fmt mx rm) [] [r.t.vwin + d.toNat] true) ∧
    (∀ d a pos mx rm, KeepsOrTraps s c t (.dq4 d a pos mx rm) [] [r.t.vwin + d.toNat] true) ∧
    (∀ cc d a b, Keeps s c t (.scmp cc d a b) [d.toNat] []) ∧ Keeps s c t .nop [] [] ∧
    (∀ disp, KeepsOrTraps s c t (.bra disp) [] [] false) ∧ (∀ x disp, KeepsOrTraps s c t (.bz x disp) [] [] false) ∧
    (∀ x disp, KeepsOrTraps s c t (.bnz x disp) [] [] false) ∧ (∀ x disp, KeepsOrTraps s c t (.bzm x disp) [] [] false) ∧
    (∀ x disp, KeepsOrTraps s c t (.bnzm x disp) [] [] false) ∧ (∀ x disp, KeepsOrTraps s c t (.loop x disp) [x.toNat] [] false) ∧
    (∀ disp, KeepsOrTraps s c t (.call disp) [62, 63] [] false) ∧ (∀ x, KeepsOrTraps s c t (.calli x) [62, 63] [] false) ∧
    (∀ x, KeepsOrTraps s c t (.ret x) [] [] false) ∧ ∀ x, KeepsOrTraps s c t (.jmpi x) [] [] false

/-- VIDX, VIDXW and VGETS complete with the register that each active thread names where every active thread names one
in range, wait while a result is still to land in one named, and raise REGOVF without effect where one is out of
range; VLANE completes with the lane, the thread or the row for its three selectors. -/
def Obligations.IndexedResults : Prop :=
  ∀ (s : State) (c : Cur) (t : Tray),
    let r := c.src s t
    (∀ d a b, Issuing s c t (Instr.vidx d a b).opnds →
      if (maskThreads r.m0).any fun th => decide (r.t.n ≤ (r.v a th + r.vb th b).toNat) then
        exec (.vidx d a b) s = .next (s.raise c.key c.path [.regovf] c.pc false none)
      else if (maskThreads r.m0).any fun th => r.t.bindsV (r.v a th + r.vb th b).toNat then exec (.vidx d a b) s = .next s
      else exec (.vidx d a b) s = .next (s.wroteV c t d fun th => r.t.phys (r.v a th + r.vb th b).toNat th)) ∧
    (∀ d a b, Issuing s c t (Instr.vidxw d a b).opnds →
      if (maskThreads r.m0).any fun th => decide (r.t.n ≤ (r.v a th + r.vb th b).toNat) then
        exec (.vidxw d a b) s = .next (s.raise c.key c.path [.regovf] c.pc false none)
      else if (maskThreads r.m0).any fun th => r.t.bindsV (r.v a th + r.vb th b).toNat then exec (.vidxw d a b) s = .next s
      else exec (.vidxw d a b) s = .next (s.completed c t { t.advance c with vregs :=
        ((maskThreads r.m0).foldl (fun m th => smSet m (vkey (r.v a th + r.vb th b).toNat th) (r.v d th))
          (t.advance c).vregs) })) ∧
    (∀ d a b, Issuing s c t (Instr.vgets d a b).opnds →
      if (maskThreads r.m0).any fun th => decide (96 ≤ (r.v a th + r.vb th b).toNat) then
        exec (.vgets d a b) s = .next (s.raise c.key c.path [.regovf] c.pc false none)
      else if (maskThreads r.m0).any fun th => r.t.bindsS (r.v a th + r.vb th b).toNat then exec (.vgets d a b) s = .next s
      else exec (.vgets d a b) s = .next (s.wroteV c t d fun th => r.t.sreg r.i (r.v a th + r.vb th b).toNat)) ∧
    (∀ d, Completes s c t (.vlane d 0) (s.wroteV c t d fun th => BitVec.ofNat 32 (th % 32))) ∧
    (∀ d, Completes s c t (.vlane d 1) (s.wroteV c t d fun th => BitVec.ofNat 32 th)) ∧
    (∀ d, Completes s c t (.vlane d 2) (s.wroteV c t d fun th => BitVec.ofNat 32 (th / 32)))

/-- Every FP32 instruction completes with the rounded result of Table 5.6 or 5.7 in v(d) of each active thread and
merges the flags met into FPSTAT, unless a trap that FPCTL enables is among them: then no thread is written, no flag
is merged and the trap is taken. -/
def Obligations.Float32Results : Prop :=
  ∀ (s : State) (c : Cur) (t : Tray),
    let r := c.src s t
    (∀ d a b, FloatResult s c t (.fadd d a b) d (fun th => fmtF32.add r.en (r.fa a th) (r.fb th b))) ∧
    (∀ d a b, FloatResult s c t (.fsub d a b) d (fun th => fmtF32.add r.en (r.fa a th) (r.fb th b).neg)) ∧
    (∀ d a b, FloatResult s c t (.fmul d a b) d (fun th => fmtF32.mul r.en (r.fa a th) (r.fb th b))) ∧
    (∀ d a b, FloatResult s c t (.ffma d a b) d (fun th => fmtF32.fma r.en (r.fa a th) (r.fa d th) (r.fb th b))) ∧
    (∀ d a b, FloatResult s c t (.ffms d a b) d (fun th => fmtF32.fma r.en (r.fa a th) (r.fa d th) (r.fb th b).neg)) ∧
    (∀ d a b, FloatResult s c t (.fnma d a b) d (fun th => fmtF32.fma r.en (r.fa a th).neg (r.fa d th) (r.fb th b))) ∧
    (∀ d a b, FloatResult s c t (.fmin d a b) d (fun th => fmtF32.minMax false (r.fa a th) (r.fb th b))) ∧
    (∀ d a b, FloatResult s c t (.fmax d a b) d (fun th => fmtF32.minMax true (r.fa a th) (r.fb th b))) ∧
    (∀ d a imm, FloatResult s c t (.faddI d a imm) d (fun th => fmtF32.add r.en (r.fa a th) (r.fi imm))) ∧
    (∀ d a imm, FloatResult s c t (.fsubI d a imm) d (fun th => fmtF32.add r.en (r.fa a th) (r.fi imm).neg)) ∧
    (∀ d a imm, FloatResult s c t (.fmulI d a imm) d (fun th => fmtF32.mul r.en (r.fa a th) (r.fi imm))) ∧
    (∀ d a imm, FloatResult s c t (.ffmaI d a imm) d (fun th => fmtF32.fma r.en (r.fa a th) (r.fa d th) (r.fi imm))) ∧
    (∀ d a imm, FloatResult s c t (.ffmsI d a imm) d (fun th => fmtF32.fma r.en (r.fa a th) (r.fa d th) (r.fi imm).neg)) ∧
    (∀ d a imm, FloatResult s c t (.fnmaI d a imm) d (fun th => fmtF32.fma r.en (r.fa a th).neg (r.fa d th) (r.fi imm))) ∧
    (∀ d a imm, FloatResult s c t (.fminI d a imm) d (fun th => fmtF32.minMax false (r.fa a th) (r.fi imm))) ∧
    (∀ d a imm, FloatResult s c t (.fmaxI d a imm) d (fun th => fmtF32.minMax true (r.fa a th) (r.fi imm))) ∧
    (∀ d b, FloatResult s c t (.frcp d b) d (fun th => fmtF32.rcp r.en (r.fb th b))) ∧
    (∀ d b, FloatResult s c t (.frsq d b) d (fun th => fmtF32.rsq r.en (r.fb th b))) ∧
    (∀ d b, FloatResult s c t (.fsqrt d b) d (fun th => fmtF32.sqrt r.en (r.fb th b))) ∧
    (∀ d b, FloatResult s c t (.fex2 d b) d (fun th => fmtF32.ex2 r.en (r.fb th b))) ∧
    (∀ d b, FloatResult s c t (.flg2 d b) d (fun th => fmtF32.lg2 r.en (r.fb th b))) ∧
    (∀ d b, FloatResult s c t (.fsin d b) d (fun th => fmtF32.trig r.en false (r.fb th b))) ∧
    (∀ d b, FloatResult s c t (.fcos d b) d (fun th => fmtF32.trig r.en true (r.fb th b))) ∧
    (∀ d b, FloatResult s c t (.ftanh d b) d (fun th => fmtF32.tanh r.en (r.fb th b))) ∧
    (∀ cc d a b, FloatResult s c t (.fcmp cc d a b) d (fun th => cmpWord (fcmpHolds cc (r.fa a th) (r.fb th b))))

/-- Every FP64 instruction completes with its correctly rounded result in a pair, DCMP with a word, and every packed
16-bit instruction with both halves computed on their own, flags and traps as for FP32. -/
def Obligations.Float64AndPackedResults : Prop :=
  ∀ (s : State) (c : Cur) (t : Tray),
    let r := c.src s t
    (∀ d a b, FloatResult2 s c t (.dadd d a b) d (fun th => fmtF64.add r.enD (r.da a th) (r.db th b))) ∧
    (∀ d a b, FloatResult2 s c t (.dsub d a b) d (fun th => fmtF64.add r.enD (r.da a th) (r.db th b).neg)) ∧
    (∀ d a b, FloatResult2 s c t (.dmul d a b) d (fun th => fmtF64.mul r.enD (r.da a th) (r.db th b))) ∧
    (∀ d a b, FloatResult2 s c t (.dfma d a b) d (fun th => fmtF64.fma r.enD (r.da a th) (r.da d th) (r.db th b))) ∧
    (∀ d a b, FloatResult2 s c t (.dfms d a b) d (fun th => fmtF64.fma r.enD (r.da a th) (r.da d th) (r.db th b).neg)) ∧
    (∀ d a b, FloatResult2 s c t (.dnma d a b) d (fun th => fmtF64.fma r.enD (r.da a th).neg (r.da d th) (r.db th b))) ∧
    (∀ d a b, FloatResult2 s c t (.dmin d a b) d (fun th => fmtF64.minMax false (r.da a th) (r.db th b))) ∧
    (∀ d a b, FloatResult2 s c t (.dmax d a b) d (fun th => fmtF64.minMax true (r.da a th) (r.db th b))) ∧
    (∀ d a b, FloatResult2 s c t (.ddiv d a b) d (fun th => fmtF64.div r.enD (r.da a th) (r.db th b))) ∧
    (∀ d b, FloatResult2 s c t (.dsqrt d b) d (fun th => fmtF64.sqrt r.enD (r.db th b))) ∧
    (∀ d b, FloatResult2 s c t (.drcp d b) d (fun th => fmtF64.rcp r.enD (r.db th b))) ∧
    (∀ d b, FloatResult2 s c t (.drsq d b) d (fun th => fmtF64.rsq r.enD (r.db th b))) ∧
    (∀ d b, FloatResult2 s c t (.dfloor d b) d (fun th => fmtF64.toIntegral .rd (r.db th b))) ∧
    (∀ d b, FloatResult2 s c t (.dceil d b) d (fun th => fmtF64.toIntegral .ru (r.db th b))) ∧
    (∀ d b, FloatResult2 s c t (.drne d b) d (fun th => fmtF64.toIntegral .rne (r.db th b))) ∧
    (∀ d b, FloatResult2 s c t (.dtrunc d b) d (fun th => fmtF64.toIntegral .rz (r.db th b))) ∧
    (∀ cc d a b, FloatResult s c t (.dcmp cc d a b) d (fun th => cmpWord (fcmpHolds cc (r.da a th) (r.db th b)))) ∧
    (∀ d a b, FloatResult s c t (.hadd2 d a b) d (fun th => packed fmtF16 (fun x y _ => fmtF16.add r.enD x y) (r.v a th) (r.vb th b) (r.v d th))) ∧
    (∀ d a b, FloatResult s c t (.hmul2 d a b) d (fun th => packed fmtF16 (fun x y _ => fmtF16.mul r.enD x y) (r.v a th) (r.vb th b) (r.v d th))) ∧
    (∀ d a b, FloatResult s c t (.hfma2 d a b) d (fun th => packed fmtF16 (fun x y z => fmtF16.fma r.enD x z y) (r.v a th) (r.vb th b) (r.v d th))) ∧
    (∀ d a b, FloatResult s c t (.hmax2 d a b) d (fun th => packed fmtF16 (fun x y _ => fmtF16.minMax true x y) (r.v a th) (r.vb th b) (r.v d th))) ∧
    (∀ d a b, FloatResult s c t (.badd2 d a b) d (fun th => packed fmtBF16 (fun x y _ => fmtBF16.add r.enD x y) (r.v a th) (r.vb th b) (r.v d th))) ∧
    (∀ d a b, FloatResult s c t (.bmul2 d a b) d (fun th => packed fmtBF16 (fun x y _ => fmtBF16.mul r.enD x y) (r.v a th) (r.vb th b) (r.v d th))) ∧
    (∀ d a b, FloatResult s c t (.bfma2 d a b) d (fun th => packed fmtBF16 (fun x y z => fmtBF16.fma r.enD x z y) (r.v a th) (r.vb th b) (r.v d th))) ∧
    (∀ d a b, FloatResult s c t (.bmax2 d a b) d (fun th => packed fmtBF16 (fun x y _ => fmtBF16.minMax true x y) (r.v a th) (r.vb th b) (r.v d th)))

/-- Every CVT, CVTQ, SCALE, DQ8 and DQ4 form completes with the converted value, flags and traps as for arithmetic;
CVTQ replaces one element of v(d) and keeps the others. -/
def Obligations.ConversionResults : Prop :=
  ∀ (s : State) (c : Cur) (t : Tray),
    let r := c.src s t
    (∀ d a rm u, FloatResult s c t (.cvtF32I32 d a rm u) d (fun th => fmtF32.convert (r.cvtRm rm) (intVal (intOf u (r.v a th))))) ∧
    (∀ d a rm u, FloatResult s c t (.cvtI32F32 d a rm u) d (fun th => let q := fToInt (r.cvtRm rm) u (fmtF32.val (r.v a th).toNat)
        (q.1.toNat, q.2))) ∧
    (∀ d a, FloatResult2 s c t (.cvtF64F32 d a) d (fun th => fmtF64.convert .rne (fmtF32.val (r.v a th).toNat))) ∧
    (∀ d a rm sat, FloatResult s c t (.cvtF32F64 d a rm sat) d (fun th => fmtF32.narrow (r.cvtRm rm) sat (r.da a th))) ∧
    (∀ d a u, FloatResult2 s c t (.cvtF64I32 d a u) d (fun th => fmtF64.convert .rne (intVal (intOf u (r.v a th))))) ∧
    (∀ d a rm u, FloatResult s c t (.cvtI32F64 d a rm u) d (fun th => let q := fToInt (r.cvtRm rm) u (r.da a th)
        (q.1.toNat, q.2))) ∧
    (∀ d a h hi, FloatResult s c t (.cvtF32F16 d a h hi) d (fun th => fmtF32.convert .rne ((halfFmt h).val (if hi then (r.v a th).toNat / 65536 else (r.v a th).toNat % 65536)))) ∧
    (∀ d a rm sat h, FloatResult s c t (.cvtF16F32 d a rm sat h) d (fun th => let p := (halfFmt h).narrow (r.cvtRm rm) sat (fmtF32.val (r.v a th).toNat)
        let q := (halfFmt h).narrow (r.cvtRm rm) sat (fmtF32.val (r.v (a + 1) th).toNat)
        (q.1 * 65536 + p.1, p.2 ||| q.2))) ∧
    (∀ d a fmt, FloatResult s c t (.scale d a fmt) d (fun th => let emax : Int := [8, 15, 2, 0].getD fmt.toNat 0
        rowScale emax ((rowThreads r.m0 (th / 32)).map fun t => fmtF32.val (r.v a t).toNat))) ∧
    (∀ d a pos fmt mx rm, FloatResult s c t (.dq8 d a pos fmt mx rm) d (fun th => let k := (r.v a th).toNat / 256 ^ pos.toNat % 256
        let v := if fmt.toNat = 0 then fmtE4M3.val k else if fmt.toNat = 1 then fmtE5M2.val k else i8Val k
        dequant (r.qRm rm) (fmt.toNat == 3 && mx) (r.scaleOf mx a th) v)) ∧
    (∀ d a pos mx rm, FloatResult s c t (.dq4 d a pos mx rm) d (fun th => dequant (r.qRm rm) false (r.scaleOf mx a th) (fmtE2M1.val ((r.v a th).toNat / 16 ^ pos.toNat % 16)))) ∧
    (∀ d a pos sat mx rm, FloatResult s c t (.cvtqE4m3 d a pos sat mx rm) d fun th =>
      let p := quantise .e4m3 (r.qRm rm) sat mx (r.scaleOf mx a th) (fmtF32.val (r.v a th).toNat)
      (putElem (r.v d th) pos.toNat 8 p.1, p.2)) ∧
    (∀ d a pos sat mx rm, FloatResult s c t (.cvtqE5m2 d a pos sat mx rm) d fun th =>
      let p := quantise .e5m2 (r.qRm rm) sat mx (r.scaleOf mx a th) (fmtF32.val (r.v a th).toNat)
      (putElem (r.v d th) pos.toNat 8 p.1, p.2)) ∧
    (∀ d a pos sat mx rm, FloatResult s c t (.cvtqE2m1 d a pos sat mx rm) d fun th =>
      let p := quantise .e2m1 (r.qRm rm) sat mx (r.scaleOf mx a th) (fmtF32.val (r.v a th).toNat)
      (putElem (r.v d th) pos.toNat 4 p.1, p.2)) ∧
    (∀ d a pos mx rm, FloatResult s c t (.cvtqI8 d a pos mx rm) d fun th =>
      let p := quantise .i8 (r.qRm rm) false mx (r.scaleOf mx a th) (fmtF32.val (r.v a th).toNat)
      (putElem (r.v d th) pos.toNat 8 p.1, p.2))

/-- Every cross-lane instruction whose member mask names no live thread of another path slot, none waiting at it,
completes with its function of Table 6.8 or 6.9 in v(d) of each participant (member, active and live), other threads
keeping their values, where no enabled floating-point trap is met. -/
def Obligations.CrossLaneResults : Prop :=
  ∀ (s : State) (c : Cur) (t : Tray),
    let r := c.src s t
    (∀ d a m p, Issuing s c t (Instr.perm d a m p).opnds → r.crosses m = false →
      (r.t.p1 = none ∨ (r.t.path (1 - r.i)).cross ≠ .waits c.pc) → (r.t.path r.i).cross ≠ .done c.pc →
      p.toNat < 2 → metIn s c t (r.parts m) (fun th => r.laneOr (r.parts m) a th (permLane p (r.v d th) th) (permLane p (r.v d th) th < 96)) = [] →
      exec (.perm d a m p) s = .next (s.wroteX c t d (r.parts m) (fun th => r.laneOr (r.parts m) a th (permLane p (r.v d th) th) (permLane p (r.v d th) th < 96)))) ∧
    (∀ d a m p, Issuing s c t (Instr.pup d a m p).opnds → r.crosses m = false →
      (r.t.p1 = none ∨ (r.t.path (1 - r.i)).cross ≠ .waits c.pc) → (r.t.path r.i).cross ≠ .done c.pc →
      p.toNat < 5 → metIn s c t (r.parts m) (fun th => r.laneOr (r.parts m) a th (th - 2 ^ p.toNat) (2 ^ p.toNat ≤ th % 32)) = [] →
      exec (.pup d a m p) s = .next (s.wroteX c t d (r.parts m) (fun th => r.laneOr (r.parts m) a th (th - 2 ^ p.toNat) (2 ^ p.toNat ≤ th % 32)))) ∧
    (∀ d a m p, Issuing s c t (Instr.pdn d a m p).opnds → r.crosses m = false →
      (r.t.p1 = none ∨ (r.t.path (1 - r.i)).cross ≠ .waits c.pc) → (r.t.path r.i).cross ≠ .done c.pc →
      p.toNat < 5 → metIn s c t (r.parts m) (fun th => r.laneOr (r.parts m) a th (th + 2 ^ p.toNat) (th % 32 + 2 ^ p.toNat < 32)) = [] →
      exec (.pdn d a m p) s = .next (s.wroteX c t d (r.parts m) (fun th => r.laneOr (r.parts m) a th (th + 2 ^ p.toNat) (th % 32 + 2 ^ p.toNat < 32)))) ∧
    (∀ d a m p, Issuing s c t (Instr.pxor d a m p).opnds → r.crosses m = false →
      (r.t.p1 = none ∨ (r.t.path (1 - r.i)).cross ≠ .waits c.pc) → (r.t.path r.i).cross ≠ .done c.pc →
      p.toNat < 5 → metIn s c t (r.parts m) (fun th => r.laneOr (r.parts m) a th (th / 32 * 32 + (th % 32 ^^^ 2 ^ p.toNat)) true) = [] →
      exec (.pxor d a m p) s = .next (s.wroteX c t d (r.parts m) (fun th => r.laneOr (r.parts m) a th (th / 32 * 32 + (th % 32 ^^^ 2 ^ p.toNat)) true))) ∧
    (∀ d a m p, Issuing s c t (Instr.pbcast d a m p).opnds → r.crosses m = false →
      (r.t.p1 = none ∨ (r.t.path (1 - r.i)).cross ≠ .waits c.pc) → (r.t.path r.i).cross ≠ .done c.pc →
      p.toNat < 2 → metIn s c t (r.parts m) (fun th => ((r.v a ((segment (p.toNat == 1) (r.parts m) th).headD th)).toNat, 0)) = [] →
      exec (.pbcast d a m p) s = .next (s.wroteX c t d (r.parts m) (fun th => ((r.v a ((segment (p.toNat == 1) (r.parts m) th).headD th)).toNat, 0)))) ∧
    (∀ d a m p, Issuing s c t (Instr.vote d a m p).opnds → r.crosses m = false →
      (r.t.p1 = none ∨ (r.t.path (1 - r.i)).cross ≠ .waits c.pc) → (r.t.path r.i).cross ≠ .done c.pc →
      p.toNat < 7 → metIn s c t (r.parts m) (fun th => (voteWord r a p.toNat (r.parts m) th, 0)) = [] →
      exec (.vote d a m p) s = .next (s.wroteX c t d (r.parts m) (fun th => (voteWord r a p.toNat (r.parts m) th, 0)))) ∧
    (∀ d a m p, Issuing s c t (Instr.redl d a m p).opnds → r.crosses m = false →
      (r.t.p1 = none ∨ (r.t.path (1 - r.i)).cross ≠ .waits c.pc) → (r.t.path r.i).cross ≠ .done c.pc →
      metIn s c t (r.parts m) (fun th => reduce r a (p.toNat % 4) (segment (p.toNat < 4) (r.parts m) th)) = [] →
      exec (.redl d a m p) s = .next (s.wroteX c t d (r.parts m) (fun th => reduce r a (p.toNat % 4) (segment (p.toNat < 4) (r.parts m) th)))) ∧
    (∀ d a m p, Issuing s c t (Instr.scanl d a m p).opnds → r.crosses m = false →
      (r.t.p1 = none ∨ (r.t.path (1 - r.i)).cross ≠ .waits c.pc) → (r.t.path r.i).cross ≠ .done c.pc →
      metIn s c t (r.parts m) (fun th => reduce r a (p.toNat % 4) ((segment (p.toNat < 4) (r.parts m) th).filter fun y => y ≤ th)) = [] →
      exec (.scanl d a m p) s = .next (s.wroteX c t d (r.parts m) (fun th => reduce r a (p.toNat % 4) ((segment (p.toNat < 4) (r.parts m) th).filter fun y => y ≤ th))))

/-- In dual-path mode with two slots a cross-lane word whose member mask names a live thread of the other slot waits
there until the other slot waits at the same word; then it completes for the participants of both slots at once and
the other slot passes the word without executing it again. It completes for its own participants where the other slot
waits at a JOIN or at another cross-lane word, or where it waited itself until the other came to wait at another. -/
def Obligations.CrossLaneConvergence : Prop :=
  ∀ (s : State) (c : Cur) (t : Tray),
    let r := c.src s t
    (∀ d a m p, Issuing s c t (Instr.perm d a m p).opnds → p.toNat < 2 → Meets s c t (.perm d a m p) d m fun q => fun th => r.laneOr q a th (permLane p (r.v d th) th) (permLane p (r.v d th) th < 96)) ∧
    (∀ d a m p, Issuing s c t (Instr.pup d a m p).opnds → p.toNat < 5 → Meets s c t (.pup d a m p) d m fun q => fun th => r.laneOr q a th (th - 2 ^ p.toNat) (2 ^ p.toNat ≤ th % 32)) ∧
    (∀ d a m p, Issuing s c t (Instr.pdn d a m p).opnds → p.toNat < 5 → Meets s c t (.pdn d a m p) d m fun q => fun th => r.laneOr q a th (th + 2 ^ p.toNat) (th % 32 + 2 ^ p.toNat < 32)) ∧
    (∀ d a m p, Issuing s c t (Instr.pxor d a m p).opnds → p.toNat < 5 → Meets s c t (.pxor d a m p) d m fun q => fun th => r.laneOr q a th (th / 32 * 32 + (th % 32 ^^^ 2 ^ p.toNat)) true) ∧
    (∀ d a m p, Issuing s c t (Instr.pbcast d a m p).opnds → p.toNat < 2 → Meets s c t (.pbcast d a m p) d m fun q => fun th => ((r.v a ((segment (p.toNat == 1) q th).headD th)).toNat, 0)) ∧
    (∀ d a m p, Issuing s c t (Instr.vote d a m p).opnds → p.toNat < 7 → Meets s c t (.vote d a m p) d m fun q => fun th => (voteWord r a p.toNat q th, 0)) ∧
    (∀ d a m p, Issuing s c t (Instr.redl d a m p).opnds → Meets s c t (.redl d a m p) d m fun q => fun th => reduce r a (p.toNat % 4) (segment (p.toNat < 4) q th)) ∧
    (∀ d a m p, Issuing s c t (Instr.scanl d a m p).opnds → Meets s c t (.scanl d a m p) d m fun q => fun th => reduce r a (p.toNat % 4) ((segment (p.toNat < 4) q th).filter fun y => y ≤ th))

/-- Every branch, call and return completes: not taken, the path goes on at the following word; taken, at its target
word, a call having written the address after it to s62 and s63 and LOOP its counter less one; a taken branch to a
target that is not legal raises BADTARGET and has no other effect. -/
def Obligations.BranchResults : Prop :=
  ∀ (s : State) (c : Cur) (t : Tray),
    let r := c.src s t
    (∀ disp, Jumps s c t (.bra disp) true true (r.target disp) (t.advance c)) ∧
    (∀ x disp, Jumps s c t (.bz x disp) (r.s x == 0) true (r.target disp) (t.advance c)) ∧
    (∀ x disp, Jumps s c t (.bnz x disp) (r.s x != 0) true (r.target disp) (t.advance c)) ∧
    (∀ x disp, Jumps s c t (.bzm x disp) (r.m x == 0) true (r.target disp) (t.advance c)) ∧
    (∀ x disp, Jumps s c t (.bnzm x disp) (r.m x != 0) true (r.target disp) (t.advance c)) ∧
    (∀ x disp, Jumps s c t (.loop x disp) (r.s x - 1 != 0) true (r.target disp)
      ((t.advance c).setSreg c.path x.toNat (r.s x - 1))) ∧
    (∀ disp, Jumps s c t (.call disp) true true (r.target disp)
      ((t.advance c).setSpair c.path 62 ((c.pc + 1).setWidth 64))) ∧
    (∀ x, Jumps s c t (.calli x) true ((r.s2 x).toNat < 2 ^ 46) ((r.s2 x).setWidth 46)
      ((t.advance c).setSpair c.path 62 ((c.pc + 1).setWidth 64))) ∧
    (∀ x, Jumps s c t (.ret x) true ((r.s2 x).toNat < 2 ^ 46) ((r.s2 x).setWidth 46) (t.advance c)) ∧
    (∀ x, Jumps s c t (.jmpi x) true ((r.s2 x).toNat < 2 ^ 46) ((r.s2 x).setWidth 46) (t.advance c))

/-- RDSR completes with each special register of Table 2.3 in s(d), or in the pair for BATCHID, EPC and CLOCK; WRSR
writes FPCTL, FPSTAT or EPC, keeping only the bits these registers have; VWIN sets the window base to a multiple of 32
below 1,024 and raises ILLEGAL for another value or in dual-path mode with two slots. -/
def Obligations.SpecialRegisterResults : Prop :=
  ∀ (s : State) (c : Cur) (t : Tray),
    let r := c.src s t
    (∀ d a, sprRegs a = 1 → Completes s c t (.rdsr d a) (s.wroteS c t d (lo32 (r.special s a.toNat)))) ∧
    (∀ d a, sprRegs a = 2 → Completes s c t (.rdsr d a) (s.wroteS2 c t d (r.special s a.toNat))) ∧
    (r.special s 0 = BitVec.ofNat 64 r.t.idx ∧ r.special s 1 = r.t.batchId ∧ r.special s 2 = r.t.clusterId.setWidth 64 ∧
      r.special s 3 = r.t.launchId.setWidth 64 ∧ r.special s 4 = BitVec.ofNat 64 (c.key / 32) ∧
      r.special s 5 = BitVec.ofNat 64 (c.key / 32 / 256) ∧ r.special s 6 = BitVec.ofNat 64 r.t.ctx ∧
      r.special s 7 = (s.ctx r.t.ctx).step.setWidth 64 ∧ r.special s 8 = r.t.fpctl.setWidth 64 ∧
      r.special s 9 = r.t.fpstat.setWidth 64 ∧ lo32 (r.special s 10) = r.t.cause.setWidth 32 ∧
      r.special s 11 = r.t.cause >>> 32 ∧ r.special s 12 = r.t.epc ∧ r.special s 13 = BitVec.ofNat 64 r.t.vwin ∧
      r.special s 14 = r.t.gangsel.setWidth 64 ∧ r.special s 15 = s.clock (c.key / 32)) ∧
    (∀ b, Completes s c t (.wrsr 8 b) (s.completed c t { t.advance c with fpctl := (r.sb b).setWidth 7 })) ∧
    (∀ b, Completes s c t (.wrsr 9 b)
      (s.completed c t { t.advance c with fpstat := (r.sb b).setWidth 5 ||| t.chainFl })) ∧
    (∀ b, Completes s c t (.wrsr 12 b) (s.completed c t { t.advance c with epc := r.sbz64 b &&& 0x80003FFFFFFFFFFF })) ∧
    (∀ b, Issuing s c t (Instr.vwin b).opnds →
      if r.t.p1 = none ∧ (r.sb b).toNat % 32 = 0 ∧ (r.sb b).toNat < 1024 then
        exec (.vwin b) s = .next (s.completed c t { t.advance c with vwin := (r.sb b).toNat })
      else RaisesEarly s c (.vwin b) .illegal)

/-- REGSHRINK to a legal smaller count completes and discards the registers beyond it, with the results still to land
there; REGGROW to a legal larger count completes at once where no request waits on the core and the grant leaves the
reserve whole, and otherwise the tray waits at its word, or raises REGOVF where its batch would hold more than 2,048;
the count it has changes nothing; a count that is not legal raises ILLEGAL; the grant event gives the oldest waiting
request its registers as soon as the core holds enough. -/
def Obligations.RegisterGrowthResults : Prop :=
  ∀ (s : State) (c : Cur) (t : Tray),
    let r := c.src s t
    (∀ b, Issuing s c t (Instr.regshrink b).opnds → r.t.p1 = none → r.chain = false →
      growLegal (r.sb b).toNat = true → (r.sb b).toNat ≤ r.t.n →
      exec (.regshrink b) s = .next (s.completed c t { t.advance c with
        n := (r.sb b).toNat, vregs := t.vregs.filter fun e => e.1 < 96 * (r.sb b).toNat,
        pend := t.pend.map fun p => { p with vdst := p.vdst.filter fun k => k < (r.sb b).toNat } })) ∧
    (∀ b, Issuing s c t (Instr.reggrow b).opnds → r.t.p1 = none → r.chain = false →
      growLegal (r.sb b).toNat = true → r.t.n < (r.sb b).toNat →
      s.batchRegs t.batch + ((r.sb b).toNat - t.n) ≤ 2048 →
      if s.growQueue (c.key / 32) = [] ∧ s.regsUsed (c.key / 32) + ((r.sb b).toNat - t.n) ≤ 1984 then
        exec (.reggrow b) s = .next (s.completed c t { t.advance c with n := (r.sb b).toNat })
      else exec (.reggrow b) s = .next ({ s with nextId := s.nextId + 1 }.completed c t
        { (t.advance c).setPc c.path c.pc with wait := .grow (r.sb b).toNat s.nextId ((t.advance c).path c.path).pc })) ∧
    (∀ b, Issuing s c t (Instr.reggrow b).opnds → r.t.p1 = none → r.chain = false → growLegal (r.sb b).toNat = true →
      ((r.sb b).toNat = r.t.n → exec (.reggrow b) s = .next (s.completed c t (t.advance c))) ∧
      (r.t.n < (r.sb b).toNat → 2048 < s.batchRegs t.batch + ((r.sb b).toNat - t.n) → RaisesEarly s c (.reggrow b) .regovf)) ∧
    (∀ b, Issuing s c t (Instr.reggrow b).opnds → growLegal (r.sb b).toNat = false → RaisesEarly s c (.reggrow b) .illegal) ∧
    (∀ b, Issuing s c t (Instr.regshrink b).opnds → growLegal (r.sb b).toNat = false →
      RaisesEarly s c (.regshrink b) .illegal) ∧
    (∀ core ord key n cont t', oldestGrow (s.growQueue core) = some (ord, key, n, cont) → s.trays.get? key = some t' →
      s.regsUsed core + (n - t'.n) ≤ 2048 →
      exec (.reggrowGrant core) s = .next (s.setTray key { t'.setPc 0 cont with n := n, wait := .run }))

/-- In dual-path mode BRD splits the active threads: none taken it goes on, all taken it branches, some taken it opens
slot 1 at the target or, with both slots or a stack in use, pushes the rest and branches. JOIN runs the pushed path,
pops a merged entry, goes on alone with an empty stack, or waits for the other slot; once both wait at one JOIN the
slots become one at the next word. Outside dual-path mode BRD and JOIN raise ILLEGAL. -/
def Obligations.DualPathResults : Prop :=
  ∀ (s : State) (c : Cur) (t : Tray),
    let r := c.src s t
    (∀ x disp, Issuing s c t (Instr.brd x disp).opnds → r.t.dual = true → r.m0 &&& r.m x = 0 →
      exec (.brd x disp) s = .next (s.completed c t (t.advance c))) ∧
    (∀ x disp, Issuing s c t (Instr.brd x disp).opnds → r.t.dual = true → r.m0 &&& r.m x ≠ 0 →
      r.m0 &&& ~~~r.m x = 0 → s.targetOk (c.key / 32) r.t.ctx (r.target disp) = true →
      exec (.brd x disp) s = .next (s.completed c t ((t.advance c).setPc c.path (r.target disp)))) ∧
    (∀ x disp, Issuing s c t (Instr.brd x disp).opnds → r.t.dual = true → r.m0 &&& r.m x ≠ 0 →
      r.m0 &&& ~~~r.m x ≠ 0 → s.targetOk (c.key / 32) r.t.ctx (r.target disp) = true →
      r.t.p1 = none → ((t.advance c).path c.path).stack = [] →
      exec (.brd x disp) s = .next (s.completed c t { (t.advance c).setMask 0 (r.m0 &&& ~~~r.m x) with
        p1 := some ⟨r.target disp, (t.advance c).filterMask (r.m0 &&& r.m x), [], false, .no, none, none, false, false, none⟩ })) ∧
    (∀ x disp, Issuing s c t (Instr.brd x disp).opnds → r.t.dual = true → r.m0 &&& r.m x ≠ 0 →
      r.m0 &&& ~~~r.m x ≠ 0 → s.targetOk (c.key / 32) r.t.ctx (r.target disp) = true → r.t.p1 ≠ none →
      let p := (t.advance c).path c.path
      p.stack.length < 16 →
      exec (.brd x disp) s = .next (s.completed c t ((((t.advance c).setPath c.path
        { p with stack := ⟨r.m0, r.m0 &&& ~~~r.m x, c.pc + 1, none, false⟩ :: p.stack }).setMask c.path
          (r.m0 &&& r.m x)).setPc c.path (r.target disp)))) ∧
    (Issuing s c t [] → r.t.dual = true →
      let p := (t.advance c).path c.path
      (∀ e st, p.stack = e :: st → e.merge = false →
        exec .join s = .next (s.completed c t (((t.advance c).setPath c.path
          { p with pc := e.ppc, stack := { e with j := some c.pc, merge := true } :: st }).setMask c.path e.p))) ∧
      (∀ e st, p.stack = e :: st → e.merge = true → e.j = none ∨ e.j = some c.pc →
        exec .join s = .next (s.completed c t (((t.advance c).setPath c.path { p with stack := st }).setMask c.path e.f))) ∧
      (p.stack = [] → r.t.p1 = none → exec .join s = .next (s.completed c t (t.advance c))) ∧
      (p.stack = [] → r.t.p1 ≠ none →
        exec .join s = .next (s.completed c t ((t.advance c).setPath c.path { p with pc := c.pc, joinWait := true })))) ∧
    (Issuing s c t [] → r.t.dual = false → RaisesEarly s c .join .illegal) ∧
    (∀ x disp, Issuing s c t (Instr.brd x disp).opnds → r.t.dual = false → RaisesEarly s c (.brd x disp) .illegal) ∧
    (∀ key t' p1, s.trays.get? key = some t' → t'.p1 = some p1 → t'.p0.joinWait = true → p1.joinWait = true →
      t'.wait = .run → t'.cause = 0 → t'.leave = none → (t'.pend.all fun p => p.sdst.isEmpty && p.vdst.isEmpty) = true →
      t'.p0.pc = p1.pc →
      exec (.joinMerge key) s = .next (s.setTray key { t' with
        p0 := { t'.p0 with mask := t'.filterMask (t'.p0.mask ||| p1.mask), pc := t'.p0.pc + 1, joinWait := false },
        p1 := none }))

/-- NOP completes with the path at the next word. BAR and CBAR make a tray wait at its word until every live tray of
its batch, or cluster, waits there, and the last to arrive lets all go on at their next words. WAITC waits while a
counter is above its limit and completes once none is. YIELD completes at its continuation where its condition holds,
and otherwise the tray waits until the wake event finds it holding; condition NONE reads no register and its wake
leaves CLOCK at least 64 clocks after the issue. EXIT ends the active threads: they leave the live mask and the masks
of both slots, a path slot of a dual-path tray whose mask is zero goes on with its stack, and with no live thread left
the tray ends. -/
def Obligations.WaitAndEndResults : Prop :=
  ∀ (s : State) (c : Cur) (t : Tray),
    let r := c.src s t
    (Issuing s c t [] → exec .nop s = .next (s.completed c t (t.advance c))) ∧
    (Issuing s c t [] → r.t.p1 = none →
      let t1 := { (t.advance c).setPc c.path c.pc with wait := .bar }
      exec .bar s = .next (s.completedBy c t t1 fun s => s.releaseBar t.batch)) ∧
    (Issuing s c t [] → r.t.p1 = none →
      let t1 := { (t.advance c).setPc c.path c.pc with wait := .cbar }
      exec .cbar s = .next (s.completedBy c t t1 fun s => s.releaseCbar (s.clusterIdOf t))) ∧
    (Issuing s c t [] → r.t.p1 ≠ none → RaisesEarly s c .bar .illegal ∧ RaisesEarly s c .cbar .illegal) ∧
    (∀ l st y m : BitVec 5, Issuing s c t [] →
      let lim : Limits := ⟨l.toNat, st.toNat, y.toNat, m.toNat⟩
      (r.t.under lim = false → exec (.waitc l st y m) s = .next s) ∧
      (r.t.under lim = true →
        let q := (t.advance c).takeObs lim.observes
        let j := s.join (c.key / 32) q.2
        exec (.waitc l st y m) s = .next (j.2.completedRaising c t j.1 q.1 none))) ∧
    (∀ cond p k, Issuing s c t (Instr.yield cond p k).opnds → r.t.p1 = none → (r.s2 k).toNat < 2 ^ 46 →
      s.targetOk (c.key / 32) t.ctx ((r.s2 k).setWidth 46) = true →
      let q := s.yieldParams r cond p
      (s.wakeCheck (c.key / 32) (t.advance c) cond.toNat q.1 q.2 false = .waits →
        exec (.yield cond p k) s = .next (s.completed c t { (t.advance c).setPc c.path c.pc with
          wait := .yield cond.toNat q.1 q.2 ((r.s2 k).setWidth 46) none })) ∧
      (∀ cs v scope, s.wakeCheck (c.key / 32) (t.advance c) cond.toNat q.1 q.2 false = .ready cs v scope →
        let d := s.wakeDone (c.key / 32) (t.advance c) cond.toNat q.1 scope
        exec (.yield cond p k) s = .next (d.2.completedRaising c t (d.1.setPc c.path ((r.s2 k).setWidth 46)) cs none))) ∧
    (∀ key t' cond p0 p1 cont v scope, s.trays.get? key = some t' → t'.wait = .yield cond p0 p1 cont none →
      t'.leave = none →
      let s := s.wakeClock cond p0 p1
      s.wakeCheck (key / 32) t' cond p0 p1 true = .ready [] v scope →
      let d := s.wakeDone (key / 32) { t'.setPc 0 cont with wait := .run } cond p0 scope
      exec (.yieldWake key) s = .next (d.2.setTray key d.1)) ∧
    (Issuing s c t Instr.exit.opnds →
      let t1 := ((t.advance c).exitThreads r.m0).setPath c.path
        { ((t.advance c).exitThreads r.m0).path c.path with mask := 0 }
      let t2 := if r.t.dual then t1.unwind c.path c.after 40 else t1
      (t2.live ≠ 0 → exec .exit s = .next (s.completed c t t2)) ∧
      (t2.live = 0 → exec .exit s = .next (s.completedBy c t t2 fun s => s.trayEnds c.key)))

/-- TRAP and SYS set TRAPI and SYSC with EPC at the following word. TCLR clears the causes of its mask. TRET with a
legal EPC clears the causes of its mask and, with none left, resumes at EPC or departs if marked; with some left they
are delivered. TREFL with no set cause in its mask only goes on; otherwise it reflects those causes and clears them.
-/
def Obligations.TrapInstructionResults : Prop :=
  ∀ (s : State) (c : Cur) (t : Tray),
    let r := c.src s t
    (∀ x, Completes s c t (.trap x) (s.completedRaising c t (t.advance c) [.trapi] (some x.toNat))) ∧
    (∀ x, Completes s c t (.sys x) (s.completedRaising c t (t.advance c) [.sysc] (some x.toNat))) ∧
    (∀ b, EngineIssuing s c t (.tclr b) →
      exec (.tclr b) s = .next (s.completed c t { t.advance c with cause := (t.advance c).cause &&& ~~~r.sbz64 b })) ∧
    (∀ b, EngineIssuing s c t (.tret b) → let a := t.advance c
      s.targetOk (c.key / 32) a.ctx (epcPc r.t.epc) (epcS r.t.epc) = false →
      exec (.tret b) s = .next (s.trapped c t [.badtarget])) ∧
    (∀ b, EngineIssuing s c t (.tret b) → let a := t.advance c
      s.targetOk (c.key / 32) a.ctx (epcPc r.t.epc) (epcS r.t.epc) = true → a.cause &&& ~~~r.sbz64 b = 0 →
      exec (.tret b) s = .next (s.completed c t
        ({ a with cause := a.cause &&& ~~~r.sbz64 b }.resume c.path r.t.epc).departIfMarked)) ∧
    (∀ b, EngineIssuing s c t (.tret b) → let a := t.advance c
      s.targetOk (c.key / 32) a.ctx (epcPc r.t.epc) (epcS r.t.epc) = true → a.cause &&& ~~~r.sbz64 b ≠ 0 →
      exec (.tret b) s = .next (s.completedBy c t { a with cause := a.cause &&& ~~~r.sbz64 b } fun s => s.redeliver c.key)) ∧
    (∀ b, EngineIssuing s c t (.trefl b) → (t.advance c).cause &&& r.sbz64 b = 0 →
      exec (.trefl b) s = .next (s.completed c t (t.advance c))) ∧
    (∀ b, EngineIssuing s c t (.trefl b) → let m := (t.advance c).cause &&& r.sbz64 b
      m ≠ 0 →
      exec (.trefl b) s = .next (s.completedBy c t (t.advance c) fun s =>
        (s.reflect c.key m 2 0 none true).onTray c.key fun t => { t with cause := t.cause &&& ~~~m }))

/-- A cause of a tray whose bitmap is zero, every set cause being handled and a handler installed, sets the cause bit,
saves the word address and S in EPC, and continues the path at the handler entry; a cause that is not handled is
reflected to the parent; a cause found while the bitmap is not zero leaves EPC as it is. -/
def Obligations.ExceptionEntry : Prop :=
  ∀ (s : State) (key path : Nat) (cs : List Cause) (pc : Pc) (single : Bool) (t : Tray), s.trays.get? key = some t →
    let h := (s.ctx t.ctx).handled
    let t0 := t.setPath path { t.path path with pc := pc, single := false, entry := false }
    (t.cause = 0 → causeBits cs &&& ~~~h = 0 → (s.ctx t.ctx).handler ≠ 0 →
      let t1 : Tray := { t0 with cause := causeBits cs, epc := mkEpc pc single, hslot := path }
      s.raise key path cs pc single none =
        s.setTray key (t1.setPath path { t1.path path with pc := (s.ctx t.ctx).handler, entry := true })) ∧
    (t.cause ≠ 0 → causeBits cs &&& departBits &&& ~~~h = 0 → (∀ n x, t.wait ≠ .reflected n x) →
      (t.cause ||| causeBits cs) &&& ~~~departBits ≠ 0 →
      s.raise key path cs pc single none =
        (s.setTray key { t0 with cause := t.cause ||| causeBits cs }).reflect key
          ((t.cause ||| causeBits cs) &&& ~~~departBits) 1 pc.toNat none false) ∧
    (t.cause = 0 → causeBits cs &&& departBits = 0 → causeBits cs &&& ~~~h ≠ 0 → (∀ n x, t.wait ≠ .reflected n x) →
      s.raise key path cs pc single none =
        (s.setTray key { t0 with cause := causeBits cs, epc := mkEpc pc single, hslot := path }).reflect key
          (causeBits cs) 1 0 none false)

/-- LD, LDW, LDV and LDS complete where the loads counter has room, every address is aligned, translates and is not
poisoned, the miss-status entries suffice and, for .sc, their turn has come: the instruction is counted once, the
registers of the destination group are bound for what the threads' places hold, and are written when the load
completes; no register and no other part of the tray changes until then. -/
def Obligations.LoadResults : Prop :=
  ∀ (s : State) (c : Cur) (t : Tray),
    let r := c.src s t
    (∀ d a w h o k, Issuing s c t (Instr.ld d a w h o).opnds → r.ctrFull .loads = false →
      misaligned (r.lanes a (offsetOf o (memSize w))) (memSize w) = false →
      s.checkAll (c.key / 32) t.ctx needR (r.lanes a (offsetOf o (memSize w))) = .ok k →
      LoadCompletes s (s.tlbFillAll (c.key / 32) t.ctx k.ok) c t (.ld d a w h o) d (memRegs w) (memSize w) h.toNat
        (hintUsesL1 h.toNat) k) ∧
    (∀ d a w h o k0 k, Issuing s c t (Instr.ldw d a w h o).opnds → r.ctrFull .loads = false →
      let l := r.blocks (r.bases a (offsetOf o (32 * memSize w))) (memSize w)
      misaligned l (memSize w) = false → s.checkAll (c.key / 32) t.ctx needR l = .ok k0 →
      s.checkAll (c.key / 32) t.ctx needR (l.filter fun x => r.todo.getLsbD x.th) = .ok k →
      LoadCompletes s (s.tlbFillAll (c.key / 32) t.ctx k.ok) c t (.ldw d a w h o) d (memRegs w) (memSize w) h.toNat
        (hintUsesL1 h.toNat) k) ∧
    (∀ d a w h o k s1, Issuing s c t (Instr.ldv d a w h o).opnds → r.ctrFull .loads = false →
      misaligned (r.lanes a 0) (memSize w) = false →
      s.checkV (c.key / 32) t.ctx (r.t.sreg c.path (32 + o.toNat)) (r.lanes a 0) = .ok (false, k, s1) →
      LoadCompletes s s1 c t (.ldv d a w h o) d (memRegs w) (memSize w) h.toNat false k) ∧
    (∀ d a w h o, Issuing s c t (Instr.lds d a w h o).opnds → r.ctrFull .loads = false →
      let l := r.offsets a (o.toInt * memSize w)
      let k := s.clusterFor t
      scratchCauses l (memSize w) k.size = [] → (l.any fun x => k.poisoned x.2.toNat) = false →
      ∀ s1, r.Goes s (h.toNat = 6) (s.scopeCores (t.advance c) (c.key / 32) 2) s1 →
      ∃ (t' : Tray) (s' : State), exec (.lds d a w h o) s = .next (s'.completed c t t') ∧
        LoadSent r (t.advance c) t' (r.group d (memRegs w))
          (l.flatMap fun x => regWrites (r.t.vwin + d.toNat) (memRegs w) x.1 (k.rd x.2.toNat (memSize w))) ∧
        s'.mem = s.mem ∧ s'.clusters = s.clusters)

/-- ST and STS complete where the stores counter has room, every address is aligned and translates, no thread waits
for a copy-on-write and, for .sc, their turn has come: the homes of the lines are asked, each thread's registers are
stored at its place in ascending thread order, the instruction is counted once in stores, and no register changes. STS
changes its cluster's scratchpad and no byte of memory. -/
def Obligations.StoreResults : Prop :=
  ∀ (s : State) (c : Cur) (t : Tray),
    let r := c.src s t
    (∀ d a w h o k s0, Issuing s c t (Instr.st d a w h o).opnds → r.ctrFull .stores = false →
      let n := memSize w
      let core := c.key / 32
      misaligned (r.lanes a (offsetOf o n)) n = false → r.stored s (r.lanes a (offsetOf o n)) needW = .ok (s0, k) →
      k.park = none → ∀ s1, r.Goes s0 (h.toNat = 6) (s0.accessCores (t.advance c) core k.ok) s1 →
      let s2 := k.ok.foldl (fun s x => s.storeAt core t.ctx r.step x n (r.regsNat d (memRegs w) x.th % 2 ^ (8 * n)))
        ((s1.exchange core (s1.homeAgents k.ok)).ownLines core t.ctx (hintPrio h.toNat) k.ok)
      ∃ (t' : Tray) (s' : State), exec (.st d a w h o) s = .next (s'.completed c t t') ∧ StoreSent r (t.advance c) t' ∧
        (s2.unwatched t.ctx → s'.mem = s2.mem)) ∧
    (∀ d a w h o, Issuing s c t (Instr.sts d a w h o).opnds → r.ctrFull .stores = false →
      let n := memSize w
      let l := r.offsets a (o.toInt * n)
      scratchCauses l n (s.clusterFor t).size = [] →
      ∀ s1, r.Goes s (h.toNat = 6) (s.scopeCores (t.advance c) (c.key / 32) 2) s1 →
      ∃ (t' : Tray) (s' : State), exec (.sts d a w h o) s = .next (s'.completed c t t') ∧ StoreSent r (t.advance c) t' ∧
        s'.mem = s.mem ∧
        ∀ k, s.clusters.get? (s.clusterIdOf t) = some k → ∃ k', s'.clusters.get? (s.clusterIdOf t) = some k' ∧
          k'.scr = (l.foldl (fun k x => k.wr x.2.toNat n (r.regsNat d (memRegs w) x.1 % 2 ^ (8 * n))) k).scr)

/-- A store of n bytes by a thread at a local address that can be reached makes those bytes the value's, the least
significant first, and while no line has partials to merge it and an atomic or RED there change no other byte of
memory but the stamps of the leaf entries that translate it. An ST none of whose threads waits for a copy-on-write
then completes with every byte of memory unchanged outside the n bytes from the physical address of each thread and
those stamps. -/
def Obligations.StoreFrame : Prop :=
  (∀ (s : State) (core ctx n v th ea : Nat) (step : Word) (xl : Xl),
    xl.pa < 2 ^ 40 → s.unreachable core xl.pa = false →
    let s' := s.storeAt core ctx step ⟨th, ea, .mem xl⟩ n v
    (∀ i, i < n → smGet s'.mem (xl.pa + i) = BitVec.ofNat 8 (v / 256 ^ i)) ∧
    (s.noPartials → ∀ a, (a < xl.pa ∨ xl.pa + n ≤ a) → (∀ e ∈ xl.levels, a < e.2 ∨ e.2 + 4 ≤ a) →
      smGet s'.mem a = smGet s.mem a)) ∧
    (∀ (s : State) (core ctx h w v swp th ea : Nat) (step : Word) (red : Bool) (xl : Xl), s.noPartials →
      let s' := (s.atomAt core ctx step h w red ⟨th, ea, .mem xl⟩ v swp).2
      ∀ a, (a < xl.pa ∨ xl.pa + atomSize w ≤ a) → (∀ e ∈ xl.levels, a < e.2 ∨ e.2 + 4 ≤ a) → smGet s'.mem a = smGet s.mem a) ∧
    (∀ (s : State) (c : Cur) (t : Tray) (d a : BitVec 7) (w h : BitVec 3) (o : BitVec 5) (k : Checked) (s0 s1 : State),
      let r := c.src s t
      let n := memSize w
      Issuing s c t (Instr.st d a w h o).opnds → NothingDue c t → r.ctrFull .stores = false →
      misaligned (r.lanes a (offsetOf o n)) n = false → r.stored s (r.lanes a (offsetOf o n)) needW = .ok (s0, k) →
      k.park = none → s0.mem = s.mem → s0.noPartials → s0.unwatched t.ctx →
      r.Goes s0 (h.toNat = 6) (s0.accessCores (t.advance c) (c.key / 32) k.ok) s1 →
      (∀ x ∈ k.ok, ∃ xl, x.loc = .mem xl) →
      ∃ s' : State, exec (.st d a w h o) s = .next s' ∧ ∀ b,
        (∀ x ∈ k.ok, ∀ xl, x.loc = .mem xl → (b < xl.pa ∨ xl.pa + n ≤ b) ∧ ∀ e ∈ xl.levels, b < e.2 ∨ e.2 + 4 ≤ b) →
        smGet s'.mem b = smGet s.mem b)

/-- ATOM and RED at legal scopes, and ATOMS in the scratchpad, complete: each thread in ascending order reads its
place and writes the new value of R166; ATOM and ATOMS bind the old values for their destination group, RED returns
none. -/
def Obligations.AtomicResults : Prop :=
  ∀ (s : State) (c : Cur) (t : Tray),
    let r := c.src s t
    (∀ d a w h o s0 k0, Issuing s c t (Instr.atom d a w h o).opnds → scopeLegal s t.ctx (o.toNat % 8) = true →
      r.ctrFull .loads = false → misaligned (r.lanes a 0) (atomSize w.toNat) = false →
      r.stored s (r.lanes a 0) needRW = .ok (s0, k0) →
      let n := atomSize w.toNat
      let core := c.key / 32
      let k := s0.remoteRetries t.ctx k0
      let s1 := s0.forgetAll k.ok n
      s1.loadCauses core n k.ok = [] → k.park = none →
      let q := k.ok.foldl (fun (acc : List RegWrite × State) x =>
        let v := r.regsNat d (atomRegs w h) x.th
        let p := acc.2.atomAt core t.ctx r.step h.toNat w.toNat false x (v % 2 ^ (8 * n)) (v / 2 ^ (8 * n))
        (acc.1 ++ regWrites (r.t.vwin + d.toNat) (memRegs w) x.th p.1, p.2)) ([], s1.exchange core (s1.homeAgents k.ok))
      ∃ (t' : Tray) (s' : State), exec (.atom d a w h o) s = .next (s'.completed c t t') ∧
        LoadSent r (t.advance c) t' (r.group d (atomRegs w h)) q.1 ∧ (q.2.unwatched t.ctx → s'.mem = q.2.mem)) ∧
    (∀ d a w h o s0 k, Issuing s c t (Instr.red d a w h o).opnds → scopeLegal s t.ctx (o.toNat % 8) = true →
      r.ctrFull .stores = false → misaligned (r.lanes a 0) (atomSize w.toNat) = false →
      r.stored s (r.lanes a 0) needW = .ok (s0, k) → k.park = none →
      let n := atomSize w.toNat
      let core := c.key / 32
      let s2 := k.ok.foldl (fun s x => (s.atomAt core t.ctx r.step h.toNat w.toNat true x
        (r.regsNat d (memRegs w) x.th % 2 ^ (8 * n)) 0).2)
          ((s0.exchange core (s0.homeAgents k.ok)).updateLines core t.ctx k.ok)
      ∃ (t' : Tray) (s' : State), exec (.red d a w h o) s = .next (s'.completed c t t') ∧ StoreSent r (t.advance c) t' ∧
        (s2.unwatched t.ctx → s'.mem = s2.mem)) ∧
    (∀ d a w h o, Issuing s c t (Instr.atoms d a w h o).opnds → r.ctrFull .loads = false →
      let n := atomSize w.toNat
      let l := r.offsets a 0
      let k := s.clusterFor t
      scratchCauses l n k.size = [] → (l.any fun x => k.poisoned x.2.toNat) = false →
      ∃ (t' : Tray) (s' : State) (data : List RegWrite), exec (.atoms d a w h o) s = .next (s'.completed c t t') ∧
        LoadSent r (t.advance c) t' (r.group d (atomRegs w h)) data ∧ s'.mem = s.mem ∧
        ∀ x, l = [x] → data = regWrites (r.t.vwin + d.toNat) (memRegs w) x.1 (k.rd x.2.toNat n) ∧
          (s.clusters.get? (s.clusterIdOf t) ≠ none → s'.clusters.get? (s.clusterIdOf t) =
            some (k.wr x.2.toNat n (atomNew h.toNat w.toNat (k.rd x.2.toNat n)
              (r.regsNat d (atomRegs w h) x.1 % 2 ^ (8 * n)) (r.regsNat d (atomRegs w h) x.1 / 2 ^ (8 * n))))))

/-- FENCE completes at every legal scope, with an acquire unless it only releases; where it is .sc it takes a turn,
waits for it, and completes when it has come; at a scope the device mode does not have it raises ILLEGAL. CCTL
completes, invalidating the L1 whole or in the lines named, or acting on the dies' copies as one counted store. PREF
completes and changes no tray. -/
def Obligations.FenceAndCacheResults : Prop :=
  ∀ (s : State) (c : Cur) (t : Tray),
    let r := c.src s t
    (∀ kind scope : BitVec 3, Issuing s c t [] → scopeLegal s t.ctx scope.toNat = true →
      let cores := s.scopeCores (t.advance c) (c.key / 32) scope.toNat
      (∀ s1, r.Goes s (kind = 3 ∨ kind = 4) cores s1 → exec (.fence kind scope) s = .next ((if kind = 1 then s1
        else s1.acquire (c.key / 32) (t.advance c) scope.toNat).completed c t (t.advance c))) ∧
      (kind = 3 ∨ kind = 4 →
        ((r.t.path r.i).turnAt c.pc = none → exec (.fence kind scope) s = .next (s.takeTurn c)) ∧
        ∀ n, (r.t.path r.i).turnAt c.pc = some n →
          (s.overtaken cores n (c.key / 32) = true → exec (.fence kind scope) s = .next (s.takeTurn c)) ∧
          (s.overtaken cores n (c.key / 32) = false → s.turnFree cores n (c.key / 32) = false →
            exec (.fence kind scope) s = .next s))) ∧
    (∀ kind scope, Issuing s c t [] → scopeLegal s t.ctx scope.toNat = false → RaisesEarly s c (.fence kind scope) .illegal) ∧
    (∀ a n, Issuing s c t (Instr.cctl a 0 n).opnds →
      exec (.cctl a 0 n) s = .next ((s.l1Inval (c.key / 32) true).completed c t (t.advance c))) ∧
    (∀ a n, Issuing s c t (Instr.cctl a 1 n).opnds →
      let ls := (lineRange (r.s2 a).toNat (n.toNat + 1)).filterMap fun x => s.readableLine (c.key / 32) t.ctx x
      exec (.cctl a 1 n) s = .next ((ls.foldl (fun s x =>
        s.l1DropRange (c.key / 32) (x.pa / 256 * 256) 256) s).completed c t (t.advance c))) ∧
    (∀ a kind n, Issuing s c t (Instr.cctl a kind n).opnds → 2 ≤ kind.toNat → r.ctrFull .stores = false →
      let ls := (lineRange (r.s2 a).toNat (n.toNat + 1)).filterMap fun x => s.readableLine (c.key / 32) t.ctx x
      let s' := ls.foldl (fun s x => if kind.toNat = 2 then s.dropLine t.ctx (x.pa / 256) else s.lowLine t.ctx (x.pa / 256)) s
      ∃ t' : Tray, exec (.cctl a kind n) s = .next (s'.completed c t t') ∧ StoreSent r (t.advance c) t' ∧ s'.cores = s.cores) ∧
    (∀ a tgt n, Issuing s c t (Instr.pref a tgt n).opnds →
      ∃ s' : State, exec (.pref a tgt n) s = .next (s'.completed c t (t.advance c)) ∧ s'.trays = s.trays ∧
        s'.clusters = s.clusters ∧ (8192 ≤ s.entriesUsed (c.key / 32) → s' = s))

/-- A pending load or result of a tray completes: its registers take their data in the order bound, and it is pending
no more; so does a store, but one that writes a ROOT, which waits for the exports of the old tables. The counter falls
by one when nothing of the counted instruction is left, and not before. A core's turn report makes its reported turn
the turn of its clock. -/
def Obligations.MemoryEventResults : Prop :=
  (∀ (s : State) (key k : Nat) (t : Tray) (p : Pend), s.trays.get? key = some t → (t.pend.find? fun q => q.id == k) = some p →
    (p.kind = .load → ∃ s' : State, exec (.loadComplete key k) s = .next s' ∧
      s'.trays = s.trays.put key (t.complete k) ∧ (s.noPartials → s'.mem = s.mem)) ∧
    (p.kind = .store → exec (.storeComplete key k) s = .next (if s.rootsOut p then s else s.setTray key (t.complete k))) ∧
    (p.kind = .result → p.data ≠ none → exec (.engineResultLand key k) s = .next (s.setTray key (t.complete k))) ∧
    ((t.complete k).pend.all fun q => q.id != k) = true ∧
    ∀ x, p.ctr = some x → (t.complete k).ctr x = t.ctr x -
      if { t with pend := t.pend.filter fun q => q.id != k }.holdsGrp p.grp then 0 else 1) ∧
    ∀ (s : State) core, exec (.turnClockReport core) s = .next (s.onCore core fun c => { c with reported := s.turnOf core })

/-- For a line of local memory that no die holds, a read by a context with a way makes the die's copy exclusive, an
own makes it the sole copy, modified, and an update with an eligible tag grants the partial, each in the requester's
ways at the priority of a plain request; the prefetcher of a stream ahead of which the line lies makes its copy evict-
first and its sectors prefetched. No byte of memory changes while no line has partials. An atomic and an engine's
write leave no copy, an eviction removes the die's; an uncorrectable error poisons the sector. -/
def Obligations.CoherenceEventResults : Prop :=
  ∀ (s : State) (die ctx line : Nat), s.lineOk line = true → die < 4 →
    let leaves (i : Instr) (st : CopyState) (prio : Nat) (op w : Nat) (pf : BitVec 4) : Prop :=
      ∃ (s' : State) (k : DieCopy), exec i s = .next s' ∧ (s.noPartials → s'.mem = s.mem) ∧
        s'.copyAt line die = some k ∧ k = ⟨st, ctx, prio, op, w, [], s.bankFor ctx die line, k.way, k.used, pf⟩ ∧
        ∀ d, d ≠ die → s'.copyAt line d = none
    (s.holdsWay ctx die = true → s.lines.get? line = none →
      leaves (.homeRead die ctx line) .e 1 0 0 0 ∧ leaves (.homeOwn die ctx line) .m 1 0 0 0 ∧
      (∀ op w : BitVec 3, op.toNat < 6 → w.toNat = 2 ∨ w.toNat = 3 ∨ op = 0 ∧ 6 ≤ w.toNat →
        leaves (.homeUpdate die ctx line op w) .u 1 op.toNat w.toNat 0) ∧
      (∀ p ∈ s.prefetchers, ∀ x ∈ p.2.streams, p.1 / 32 = die → x.ahead ctx line = true → ctx ∉ s.fw.noPrefetch →
        leaves (.prefetchIssue die ctx line) .e 0 0 0 15)) ∧
    (∃ s' : State, exec (.homeAtomic die line) s = .next s' ∧ ∀ d, s'.copyAt line d = none) ∧
    (∃ s' : State, exec (.homeEngineAccess line true) s = .next s' ∧ ∀ d, s'.copyAt line d = none) ∧
    (∃ s' : State, exec (.homeEvict die line) s = .next s' ∧ s'.copyAt line die = none) ∧
    (∀ pa, s.localPa pa = true → ∃ s' : State, exec (.uncorrectableError pa) s = .next s' ∧ s'.poisoned pa = true ∧ s'.mem = s.mem)

/-- CPY, in both forms, CPYS and CPYM with a legal descriptor complete by sending their copy, the ring form having
claimed the slot at WPTR; an accepted copy that meets no fault moves its bytes and completes, and a group that has not
assembled times out with error. -/
def Obligations.CopyResults : Prop :=
  ∀ (s : State) (c : Cur) (t : Tray),
    let r := c.src s t
    (∀ a u, EngineIssuing s c t (.cpy a .zero) → let d := r.descriptor a
      copyLenOk d.2.2 = true → s.copyUnit t.ctx (c.key / 32) = some u →
      copyCauses d.1 d.2.1 d.2.2 (s.clusterFor t).size true = [] → r.t.ctrFull .copies = false →
      exec (.cpy a .zero) s = .next (s.sent c t r 1 u noVer (some .copies) [] []
        (.copy ⟨true, d.1, s.clusterIdOf t, d.2.1, d.2.2, 0, none, none⟩))) ∧
    (∀ a b u q, EngineIssuing s c t (.cpy a b) → b ≠ .zero → let d := r.descriptor a
      copyLenOk d.2.2 = true → s.copyUnit t.ctx (c.key / 32) = some u →
      copyCauses d.1 d.2.1 d.2.2 (s.clusterFor t).size false = [] → (s.clusterFor t).ring (r.hdr b) = some q →
      q.st ≠ 2 → d.2.2 ≤ q.slotsz → r.t.ctrFull .copies = false → (q.w - q.rp).toNat ≠ q.nslot →
      q.slot q.w + d.2.2 ≤ (s.clusterFor t).size →
      exec (.cpy a b) s = .next ((s.onCluster (s.clusterIdOf t) fun k => k.putRing (r.hdr b) { q with w := q.w + 1 }).sent
        c t r 1 u noVer (some .copies) [] []
        (.copy ⟨true, d.1, s.clusterIdOf t, q.slot q.w, d.2.2, 0, some (r.hdr b, q.w), none⟩))) ∧
    (∀ a u, EngineIssuing s c t (.cpys a) → let d := r.descriptor a
      copyLenOk d.2.2 = true → s.copyUnit t.ctx (c.key / 32) = some u →
      copyCauses d.1 d.2.1 d.2.2 (s.clusterFor t).size true = [] → r.t.ctrFull .copies = false →
      exec (.cpys a) s = .next (s.sent c t r 1 u noVer (some .copies) [] []
        (.copy ⟨false, d.1, s.clusterIdOf t, d.2.1, d.2.2, 0, none, none⟩))) ∧
    (∀ a b u, EngineIssuing s c t (.cpym a b) → let d := r.descriptor a
      let n := (r.sb b).toNat % 16 + 1
      let rank := (r.sb b).toNat / 16 % 16
      copyLenOk d.2.2 = true → rank < n → d.2.2 % (16 * n) = 0 → s.copyUnit t.ctx (c.key / 32) = some u →
      copyCauses d.1 d.2.1 d.2.2 (s.clusterFor t).size true = [] → r.t.ctrFull .copies = false →
      exec (.cpym a b) s = .next (s.sent c t r 1 u noVer (some .copies) [] []
        (.member ⟨d.1, s.clusterIdOf t, d.2.1, d.2.2, t.launchId, (r.sb b).toNat / 256, n, rank, none, 0, false, false⟩))) ∧
    (∀ id o k s1 d, s.op? id = some o → o.phase ≠ 0 → o.park = none → o.body = .copy k → k.toSpad = true → k.done = 0 →
      0 < k.len → k.len ≤ 256 → s.opRd o k.g k.len = .ok (s1, d) →
      exec (.copyComplete id) s = .next ((s1.onCluster k.cluster fun x => x.write k.off d).copyFinish o
        { k with done := k.len } false)) ∧
    (∀ id o m, s.op? id = some o → o.body = .member m → o.phase = 2 → m.group = none →
      exec (.cpymGroupTimeout id) s = .next ((s.members o.tag.ctx m).foldl (fun s x => s.memberDone x.1 true) s))

/-- MIGR completes by sending its command. The engine begins it with its checks: where one fails it completes with
that status, the destination in its pair, and no table changes; where they pass the leaf is marked migrating, the
page's translations are discarded and the old frame is written back. Once no access by the old translation is left, a
source without poison is copied and the leaf switches to the destination, and it completes with the old frame and
status 0; a source with poison completes with status 1, the destination scrubbed. Where its tray is resident a
completion changes no memory. -/
def Obligations.MigrationResults : Prop :=
  ∀ (s : State) (c : Cur) (t : Tray),
    let r := c.src s t
    (∀ d a b u, EngineIssuing s c t (.migr d a b) → s.copyUnit t.ctx (c.key / 32) = some u → r.t.ctrFull .copies = false →
      exec (.migr d a b) s = .next (s.sent c t r 1 u noVer (some .copies) [d.toNat, d.toNat + 1] []
        (.migr ⟨(r.s2 a).toNat, (r.sbz64 b).toNat, 0, 0, d.toNat⟩))) ∧
    (∀ id o k st pl size, s.op? id = some o → o.body = .migr k → o.phase = 1 →
      s.migrCheck o.tag.ctx k.va k.dst = (st, pl, size) →
      (st ≠ 0 → exec (.migrComplete id) s = .next (s.opDone o (migrResult k.d k.dst st) none false)) ∧
      (st = 0 → exec (.migrComplete id) s = .next (
        (((s.setLeafMig o.tag.ctx pl true).invalidate o.tag.ctx (k.va - k.va % size) size).flushFrame o.tag.ctx
          (bits ((((s.setLeafMig o.tag.ctx pl true).invalidate o.tag.ctx (k.va - k.va % size) size)).tblRd pl 16) 55 20 * 65536)
          size).onOp o.id fun o => { o with phase := 2, body := .migr { k with leaf := pl, size := size } }))) ∧
    (∀ id o k, s.op? id = some o → o.body = .migr k → o.phase = 2 → s.exportsOut o.tag.ctx = false →
      let old := bits (s.tblRd k.leaf 16) 55 20 * 65536
      s.frameReach o.tag.ctx old k.size needR = true → s.frameReach o.tag.ctx k.dst k.size needW = true →
      (s.framePoison o.tag.ctx old k.size = false →
        exec (.migrComplete id) s = .next ((((((s.copyFrame o.tag.ctx old k.dst k.size).setLeafFrame o.tag.ctx k.leaf
          k.dst).setLeafMig o.tag.ctx k.leaf false).onCtx o.tag.ctx fun t => { t with frames := t.frames.del old }).opDone o
            (migrResult k.d old 0) none true).endParks k.leaf [.migrating])) ∧
      (s.framePoison o.tag.ctx old k.size = true →
        exec (.migrComplete id) s = .next ((((s.zeroFrame o.tag.ctx k.dst k.size).setLeafMig o.tag.ctx k.leaf false).opDone o
          (migrResult k.d k.dst 1) none false).endParks k.leaf [.migrating]))) ∧
    (∀ o data err wrote key t', s.trays.get? key = some t' → t'.batch = o.batch → t'.idx = o.tray →
      (s.opDone o data err wrote).mem = s.mem ∧ (s.opDone o data err wrote).op? o.id = none)

/-- RINIT completes with the status of Table 11.3, having written a fresh header where it is 0; RQRY with WPTR, FPTR,
RPTR and STATE; RREL with RPTR advanced where a filled slot is held, and RING where none is; RWAIT waits while the
ring is empty and otherwise writes the offset of the slot at RPTR and goes on. -/
def Obligations.RingResults : Prop :=
  ∀ (s : State) (c : Cur) (t : Tray),
    let r := c.src s t
    (∀ d a u, EngineIssuing s c t (.rinit d a) → s.copyUnit t.ctx (c.key / 32) = some u → r.t.ctrFull .loads = false →
      let w := fun j => (r.sn a j).toNat
      let st := s.rinitStatus (s.clusterIdOf t) (s.clusterFor t) (w 0) (w 1) (w 2) (w 3)
      exec (.rinit d a) s = .next ((if st = 0 then s.onCluster (s.clusterIdOf t) fun k =>
          { k.wr (w 0) 64 (w 1 + w 2 * 2 ^ 32 + (2 ^ 30 + w 3) * 2 ^ 64) with filled := k.filled.filter fun x => x.1 != w 0 }
        else s).answered c t r 1 u [d.toNat] [BitVec.ofNat 32 st])) ∧
    (∀ d b u q, EngineIssuing s c t (.rqry d b) → s.copyUnit t.ctx (c.key / 32) = some u → r.t.ctrFull .loads = false →
      (s.clusterFor t).ring (r.hdr b) = some q →
      exec (.rqry d b) s = .next (s.answered c t r 1 u (List.range' d.toNat 4) [q.w, q.f, q.rp, BitVec.ofNat 32 q.st])) ∧
    (∀ d b u q, EngineIssuing s c t (.rrel d b) → s.copyUnit t.ctx (c.key / 32) = some u → r.t.ctrFull .loads = false →
      (s.clusterFor t).ring (r.hdr b) = some q →
      exec (.rrel d b) s = .next (if q.rp = q.f then s.trapped c t [.ring]
        else (s.onCluster (s.clusterIdOf t) fun k => k.putRing (r.hdr b) { q with rp := q.rp + 1 }).answered c t r
          1 u [d.toNat] [q.rp + 1])) ∧
    (∀ d b u, EngineIssuing s c t (.rwait d 0 b) → s.copyUnit t.ctx (c.key / 32) = some u →
      ((s.clusterFor t).ringWait (r.hdr b) = .bad → exec (.rwait d 0 b) s = .next (s.trapped c t [.ring])) ∧
      ((s.clusterFor t).ringWait (r.hdr b) = .empty → exec (.rwait d 0 b) s = .next s) ∧
      (∀ off err, (s.clusterFor t).ringWait (r.hdr b) = .ready off err →
        let t1 := (t.advance c).setSreg c.path d.toNat (BitVec.ofNat 32 off)
        exec (.rwait d 0 b) s = .next ((s.acquire (c.key / 32) t1 2).completedRaising c t t1
          (if err then [.copyerr] else []) none))) ∧
    (∀ d a b u, EngineIssuing s c t (.rwait d a b) → a ≠ 0 → r.t.p1 = none → s.copyUnit t.ctx (c.key / 32) = some u →
      (r.s2 a).toNat < 2 ^ 46 → s.targetOk (c.key / 32) t.ctx ((r.s2 a).setWidth 46) = true →
      (s.clusterFor t).ringWait (r.hdr b) = .empty →
      exec (.rwait d a b) s = .next (s.completed c t { (t.advance c).setPc c.path c.pc with
        wait := .yield 1 (r.sb b) 0 ((r.s2 a).setWidth 46) (some d.toNat) }))

/-- Sending a command appends one operation with the next number, the tag of the issuing tray and no park to the
operations of the package, in the core's replay window, advances the tray's sequence number, counts the command, where
it was not counted before a park, and binds its registers; memory and every register keep their values. The oldest
command of a core for a queue that has not refused it leaves the replay window and stands last among the operations,
where the queue takes it; a full queue refuses it, and holds every later command of the core for it back until it is
resent; the first held one is then accepted, or refused again with twice the back-off. -/
def Obligations.EngineCommandResults : Prop :=
  (∀ (s : State) (c : Cur) (t : Tray) (eng unit : Nat) (ver : Word) (x : Ctr) (sdst vdst : List Nat) (body : OpBody),
      let r := c.src s t
      let a := t.advance c
      let q := r.send a s eng unit ver (some x) sdst vdst body
      q.2 = { s with nextId := s.nextId + 1, ops := s.ops ++ [⟨s.nextId,
        ⟨t.ctx, (s.ctx t.ctx).gen, c.key / 32, c.key % 32, t.prio, eng, t.seq, (s.ctx t.ctx).step, ver⟩,
        unit, t.batch, t.idx, t.nextPend, 0, body, none⟩] } ∧
      q.1.seq = t.seq + 1 ∧ q.1.ctr x = (if r.grp = none then t.ctr x + 1 else t.ctr x) ∧ q.1.vregs = t.vregs ∧
      q.1.sregs = t.sregs ∧ q.1.pend = t.pend ++ [⟨t.nextPend, .op, c.path, sdst, vdst, none, some x, [], 0, 0, [],
        (r.grp.map (·.1)).getD t.nextPend, []⟩]) ∧
    ∀ (s : State) (core : Nat),
    (∀ o, s.nextCommand core = some o →
      (s.queueTakes core o.tag.eng o.unit = true → (∀ m, o.body ≠ .member m) → (∀ k, o.body ≠ .cmd k) →
        exec (.commandAccept core) s = .next { s with ops := (s.ops.filter fun x => x.id != o.id) ++ [{ o with phase := 1 }] }) ∧
      (s.queueTakes core o.tag.eng o.unit = false → exec (.commandAccept core) s = .next s ∧
        exec (.queueRefusal core) s = .next { s with
          refusals := s.refusals ++ [⟨core, o.tag.eng, o.unit, s.backoffOf core⟩] } ∧
        ∀ x, State.nextCommand { s with refusals := s.refusals ++ [⟨core, o.tag.eng, o.unit, s.backoffOf core⟩] } core = some x →
          (x.tag.eng, x.unit) ≠ (o.tag.eng, o.unit))) ∧
    (∀ x o, let mine := s.refusals.filter fun y => y.core == core
      (s.ops.find? fun o => s.sendable core o && o.tag.eng == x.eng && o.unit == x.unit) = some o →
      ((mine.find? fun y => s.queueTakes core y.eng y.unit) = some x →
        exec (.queueResend core) s = .next ({ s with refusals := s.refusals.filter (· != x) }.acceptOp o)) ∧
      ((mine.find? fun y => s.queueTakes core y.eng y.unit) = none → mine.head? = some x →
        exec (.queueResend core) s = .next { s with refusals := s.refusals.map fun y =>
          if y = x then { x with backoff := min 4096 (2 * x.backoff) } else y }))

/-- GANG with value 0 and no gang completes with 0; with a gang, or forming one, and MMA, MDIST, MTOPK and MFENCE
whose checks pass, the member arrives at its latch with its word and waits there, and the last member releases all. A
time-out of a latch makes the member leave it with cause GANG. -/
def Obligations.MatrixGangResults : Prop :=
  ∀ (s : State) (c : Cur) (t : Tray),
    let r := c.src s t
    (∀ d b, EngineIssuing s c t (.gang d b) → r.gangIllegal true = false → r.sb b = 0 → gsN r.t.gangsel = 0 →
      r.t.ctrFull .loads = false → exec (.gang d b) s = .next (s.answered c t r 2 (c.key / 32) [d.toNat] [0])) ∧
    (∀ d b, EngineIssuing s c t (.gang d b) → r.gangIllegal true = false → gsN r.t.gangsel = 0 →
      let v := r.sb b
      2 ≤ gsN v → gsN v ≤ 6 → gsFirst v + gsN v ≤ ((s.batches.get? t.batch).map (·.trays)).getD 0 →
      gsFirst v ≤ t.idx → t.idx < gsFirst v + gsN v → bits v.toNat 7 0 = 0 → gsMask v ≠ 0 → r.t.ctrFull .loads = false →
      Arrives s c t (.gang d b) [.loads] [d.toNat]
        ⟨gsFirst v, gsN v, t.idx - gsFirst v, .gang d.toNat b v, c.pc, ((t.advance c).path c.path).pc, [], []⟩) ∧
    (∀ d b, EngineIssuing s c t (.gang d b) → r.gangIllegal true = false → gsN r.t.gangsel ≠ 0 → r.sb b = 0 →
      r.t.ctrFull .loads = false →
      Arrives s c t (.gang d b) [.loads] [d.toNat] (r.member (t.advance c) (.gang d.toNat b 0) [])) ∧
    (∀ tf a b, EngineIssuing s c t (.mma tf a b) → MmaReady s t r tf a (r.sb b) → ∃ regs,
      Arrives s c t (.mma tf a b) [] [] (r.member (t.advance c) (.mma false tf.toNat a.toNat b (r.sb b)
        (mmaDesc r a (r.sb b)).1 (mmaDesc r a (r.sb b)).2) regs)) ∧
    (∀ tf a b, EngineIssuing s c t (.mdist tf a b) → MmaReady s t r tf a (r.sb b) → ∃ regs,
      Arrives s c t (.mdist tf a b) [] [] (r.member (t.advance c) (.mma true tf.toNat a.toNat b (r.sb b)
        (mmaDesc r a (r.sb b)).1 (mmaDesc r a (r.sb b)).2) regs)) ∧
    (∀ tf src k, EngineIssuing s c t (.mtopk tf src k) → r.gangIllegal true = false → tf ≠ src → k.toNat < 96 →
      let sel := r.sn (k.setWidth 7) 1
      0 < bits sel.toNat 4 0 → bits sel.toNat 4 0 ≤ 16 → sel.toNat < 64 → r.t.holdsAll [tf.toNat, src.toNat] = true →
      Arrives s c t (.mtopk tf src k) [] []
        (r.member (t.advance c) (.mtopk tf.toNat src.toNat k.toNat (r.s (k.setWidth 7)) sel) [])) ∧
    (∀ d, EngineIssuing s c t (.mfence d) → r.gangIllegal true = false → gsN r.t.gangsel ≠ 0 →
      r.t.ctrFull .loads = false → r.t.ctrFull .matrix = false →
      Arrives s c t (.mfence d) [.loads, .matrix] [d.toNat] (r.member (t.advance c) (.mfence d.toNat) [])) ∧
    (∀ key t' a, s.trays.get? key = some t' → t'.wait = .latch a →
      exec (.gangLatchTimeout key) s = .next ((s.onTray key fun t => t.withdraw a).raise key 0 [.gang] a.pc false none))

/-- MZERO and MWR whose tiles the gang holds complete by sending their operation; MRD sends a command that brings the
tile elements of the active threads to the registers it binds, a pair for each FP64 element; the oldest accepted
operation of a core completes with its effect on the tiles and leaves. A fill puts its value in every element, an MWR
changes the elements of its mask only. -/
def Obligations.MatrixTileResults : Prop :=
  ∀ (s : State) (c : Cur) (t : Tray),
    let r := c.src s t
    (∀ b, EngineIssuing s c t (.mzero b) → r.gangIllegal false = false → bits (r.sb b).toNat 17 16 ≠ 3 →
      (r.sb b).toNat < 2 ^ 18 → r.t.holdsAll (bitList ((r.sb b).setWidth 16)) = true → (r.sb b).setWidth 16 ≠ 0#16 →
      let q := r.matrixOp (t.advance c) s (.zero (r.sb b))
      exec (.mzero b) s = .next (q.2.completed c t q.1)) ∧
    (∀ tf a, EngineIssuing s c t (.mwr tf a false) → r.gangIllegal false = false → r.t.holdsAll [tf.toNat] = true →
      let q := r.matrixOp (t.advance c) s (.write tf.toNat r.m0
        (smTab 0 768 fun k => r.t.vreg (a.toNat + 1 * (k / 96) + 0) (k % 96)) none)
      exec (.mwr tf a false) s = .next (q.2.completed c t q.1)) ∧
    (∀ tf a, EngineIssuing s c t (.mwr tf a true) → r.gangIllegal false = false → tf.toNat % 2 = 0 →
      r.t.holdsAll [tf.toNat, tf.toNat + 1] = true →
      let q := r.matrixOp (t.advance c) s (.write tf.toNat r.m0
        (smTab 0 768 fun k => r.t.vreg (a.toNat + 2 * (k / 96) + 0) (k % 96))
        (some (smTab 0 768 fun k => r.t.vreg (a.toNat + 2 * (k / 96) + 1) (k % 96))))
      exec (.mwr tf a true) s = .next (q.2.completed c t q.1)) ∧
    (∀ d tf peek, EngineIssuing s c t (.mrd d tf false peek) → r.gangIllegal false = false →
      r.t.holdsAll [tf.toNat] = true → r.t.ctrFull .loads = false →
      (peek = true ∨ s.tilesBusy (c.key / 32) [tf.toNat] = false) → (s.tile (c.key / 32) tf.toNat).poison = false →
      exec (.mrd d tf false peek) s = .next (s.asked c t r 2 (c.key / 32) [] (List.range' (r.t.vwin + d.toNat) 8)
        (.done ((List.range 8).flatMap fun q => (maskThreads r.m0).map fun th =>
          .v (vkey (r.t.vwin + d.toNat + 1 * q + 0) th) (smGet (s.tile (c.key / 32) tf.toNat).data (96 * q + th)))))) ∧
    (∀ d tf peek, EngineIssuing s c t (.mrd d tf true peek) → r.gangIllegal false = false → tf.toNat % 2 = 0 →
      r.t.holdsAll [tf.toNat, tf.toNat + 1] = true → r.t.ctrFull .loads = false →
      (peek = true ∨ s.tilesBusy (c.key / 32) [tf.toNat, tf.toNat + 1] = false) →
      (s.tile (c.key / 32) tf.toNat).poison = false → (s.tile (c.key / 32) (tf.toNat + 1)).poison = false →
      let part (q j : Nat) : List RegWrite := (maskThreads r.m0).map fun th =>
        .v (vkey (r.t.vwin + d.toNat + 2 * q + j) th) (smGet (s.tile (c.key / 32) (tf.toNat + j)).data (96 * q + th))
      exec (.mrd d tf true peek) s = .next (s.asked c t r 2 (c.key / 32) [] (List.range' (r.t.vwin + d.toNat) 16)
        (.done ((List.range 8).flatMap fun q => part q 0 ++ part q 1)))) ∧
    (∀ core o k, s.matrixHead core = some o → o.body = .matrix k →
      exec (.matrixOpComplete core) s = .next ((s.matrixGo core o.batch k).dropOp o.id)) ∧
    (∀ (x : Tile) (m : Mask) (d : SMap 32) (k : Nat), k < 768 →
      smGet (writeTile x m d).data k = if m.getLsbD (k % 96) then smGet d k else smGet x.data k) ∧
    (∀ k, k < 768 → smGet (fillTile 0) k = 0 ∧ smGet (fillTile 2) k = (if k % 32 < 16 then 0x7FFFFFFF else 0xFFFFFFFF))

/-- SNAP, SACQ, SREL, VPIN, VUNPIN, VSTEP and VQRY complete by sending their command to the die's snapshot engine,
counted in copies with their destination bound; a SNAP or VSTEP waits for an earlier one of its context, and a version
below STEP raises ILLEGAL. VSTEP holds its tray's memory pipe until it has been performed; in a chain it is performed
as it issues (the model's choice, so that a later word of the chain finds the new STEP). -/
def Obligations.SnapshotResults : Prop :=
  ∀ (s : State) (c : Cur) (t : Tray),
    let r := c.src s t
    (∀ d a b, EngineIssuing s c t (.snap d a b) → a.toNat % 4 = 0 → r.t.ctrFull .copies = false → s.snapBusy t.ctx = false →
      let below := (r.sb b).ult (s.ctx t.ctx).step || r.sb b == 0xFFFFFFFF
      (s.snapCheck t.ctx (r.s2 a).toNat (r.sn a 2).toNat (r.sn a 3) = 0 → below = false) →
      exec (.snap d a b) s = .next (s.sent c t r 3 (c.key / 8192) (r.sb b) (some .copies) [d.toNat] []
        (.snap d.toNat (.snap (r.s2 a).toNat (r.sn a 2).toNat (r.sn a 3) (r.sb b) below false)))) ∧
    (∀ d a b, EngineIssuing s c t (.snap d a b) → a.toNat % 4 = 0 → r.t.ctrFull .copies = false → s.snapBusy t.ctx = false →
      s.snapCheck t.ctx (r.s2 a).toNat (r.sn a 2).toNat (r.sn a 3) = 0 →
      (r.sb b).ult (s.ctx t.ctx).step = true ∨ r.sb b = 0xFFFFFFFF →
      exec (.snap d a b) s = .next (s.trapped c t [.illegal])) ∧
    (∀ d b, EngineIssuing s c t (.sacq d b) → r.t.ctrFull .copies = false →
      exec (.sacq d b) s = .next (s.sent c t r 3 (c.key / 8192) ((r.sb b).setWidth 16 |>.setWidth 32) (some .copies)
        [d.toNat] [] (.snap d.toNat (.refs (r.sb b) true)))) ∧
    (∀ d b, EngineIssuing s c t (.srel d b) → r.t.ctrFull .copies = false →
      exec (.srel d b) s = .next (s.sent c t r 3 (c.key / 8192) ((r.sb b).setWidth 16 |>.setWidth 32) (some .copies)
        [d.toNat] [] (.snap d.toNat (.refs (r.sb b) false)))) ∧
    (∀ d b, EngineIssuing s c t (.vpin d b) → r.t.ctrFull .copies = false →
      exec (.vpin d b) s = .next (s.sent c t r 3 (c.key / 8192) ((r.sb b).setWidth 16 |>.setWidth 32) (some .copies)
        [d.toNat] [] (.snap d.toNat (.pins (r.sb b) true)))) ∧
    (∀ d b, EngineIssuing s c t (.vunpin d b) → r.t.ctrFull .copies = false →
      exec (.vunpin d b) s = .next (s.sent c t r 3 (c.key / 8192) ((r.sb b).setWidth 16 |>.setWidth 32) (some .copies)
        [d.toNat] [] (.snap d.toNat (.pins (r.sb b) false)))) ∧
    (∀ d b, EngineIssuing s c t (.vstep d b) → r.t.ctrFull .copies = false → s.snapBusy t.ctx = false → r.chain = false →
      exec (.vstep d b) s = .next (if (r.sb b).ult (s.ctx t.ctx).step then s.trapped c t [.illegal]
        else
          let q := r.send (t.advance c) s 3 (c.key / 8192) noVer (some .copies) [d.toNat] [] (.snap d.toNat (.step (r.sb b)))
          q.2.completed c t { q.1 with vhold := some t.nextPend })) ∧
    (∀ d b, EngineIssuing s c t (.vstep d b) → r.t.ctrFull .copies = false → s.snapBusy t.ctx = false → r.chain = true →
      s.replayCount (c.key / 32) = 0 → (r.sb b).ult (s.ctx t.ctx).step = false →
      let q := s.stepGo t.ctx (r.sb b)
      exec (.vstep d b) s = .next (q.2.sent c t r 3 (c.key / 8192) noVer (some .copies) [d.toNat] []
        (.cmd (.done [.s d.toNat q.1])))) ∧
    (∀ d a b, EngineIssuing s c t (.vqry d a b) → a.toNat % 4 = 0 → d.toNat % 2 = 0 → r.t.ctrFull .copies = false →
      exec (.vqry d a b) s = .next (s.sent c t r 3 (c.key / 8192) (r.sn a 3) (some .copies) [d.toNat, d.toNat + 1] []
        (.snap d.toNat (.query (r.s2 a).toNat (r.sn a 2).toNat (r.sn a 3) (r.sbz64 b).toNat (r.s d).toNat none))))

/-- An accepted SNAP whose checks fail completes with its failure code, one whose checks pass and whose range is at
rest with its handle; SACQ, SREL, VPIN and VUNPIN with the new count; VSTEP with the old STEP; VQRY with what it
wrote. A copy-on-write switches the leaf to the new frame with the old one at the head of the chain; a donated frame
that is legal enters the pool and is counted. -/
def Obligations.SnapshotEventResults : Prop :=
  ∀ (s : State), (∀ (id : Nat) (o : Op), s.op? id = some o → o.phase ≠ 0 →
    let c := o.tag.ctx
    (o.park = none → ∀ d start len scope v below g, o.body = .snap d (.snap start len scope v below g) →
      let k := s.snapCheck c start len scope
      (k ≠ 0 → exec (.snapshotOpComplete id) s = .next (s.opDone o [.s d (BitVec.ofNat 32 (0xFFFF0000 + k))] none false)) ∧
      (k = 0 → below = false → s.rangeBusy c start len = false →
        let q := s.snapGo c o.tag.core ((s.sliceFree c).getD 0) start len v
        exec (.snapshotOpComplete id) s = .next (q.2.opDone o [.s d q.1] none false))) ∧
    (o.park = none → ∀ d h up i x, s.sliceOf c h = some (i, x) →
      (o.body = .snap d (.refs h up) → ∀ n, stepCount x.refs up = some n →
        exec (.snapshotOpComplete id) s = .next ((s.setSlice c i { x with refs := n }).opDone o [.s d (BitVec.ofNat 32 n)]
          none false)) ∧
      (o.body = .snap d (.pins h up) → ∀ n, stepCount x.pins up = some n →
        exec (.snapshotOpComplete id) s = .next ((s.setSlice c i { x with pins := n }).opDone o [.s d (BitVec.ofNat 32 n)]
          none false))) ∧
    (o.park = none → ∀ d v, o.body = .snap d (.step v) → (s.ctx c).step.ult v = true →
      exec (.snapshotOpComplete id) s = .next (((s.onCtx c fun t => { t with step := v }).clearStamped c).opDone o
        [.s d (s.ctx c).step] none false)) ∧
    (o.park = none → ∀ d start len w buf cap prog, o.body = .snap d (.query start len w buf cap prog) →
      (snapRangeBad start len = true → exec (.snapshotOpComplete id) s = .next (s.opDone o [.s d 0xFFFF0001] none false)) ∧
      (snapRangeBad start len = false → cap = 0 ∨ 65535 < cap ∨ buf % 8 ≠ 0 →
        exec (.snapshotOpComplete id) s = .next (s.opDone o [.s d 0xFFFF0008] none false)) ∧
      (snapRangeBad start len = false → 0 < cap → cap ≤ 65535 → buf % 8 = 0 →
        let q := s.queryWrite o w.toNat buf cap (start + 65536 * len)
          ((s.queryEntries c start (start + 65536 * len)).filter fun e => (prog.getD (0, 0)).2 ≤ e.1) (prog.getD (0, 0)).1
        q.2.2.2 = none → exec (.snapshotOpComplete id) s = .next (((q.1.hear o.tag.core).l1Inval o.tag.core false).opDone o
          [.s d (BitVec.ofNat 32 q.2.1), .s (d + 1) ((q.2.2.1.map fun a =>
            BitVec.ofNat 32 (0x80000000 + (a - start) / 65536)).getD 0)] none false)))) ∧
    (∀ k w ch, s.cows.get? k = some w → { s with cows := s.cows.del k }.chainRd w.ctx w.chain = .ok ch →
      let s0 := { s with cows := s.cows.del k }
      let s1 := s0.copyFrame w.ctx w.old w.new w.size
      let s2 := s1.chainWr w.ctx w.chain
        ⟨false, false, 0, ⟨true, w.old, BitVec.ofNat 32 (s0.tblRd (w.leaf + 8) 4), w.high⟩ :: ch.slots.take 2⟩
      let s3 := s2.setLeafFrame w.ctx w.leaf w.new
      exec (.cowSwitch k) s = .next (((s3.tlbDrop w.ctx w.page (w.page + w.size) (s3.descendants w.ctx)).onCtx w.ctx fun t =>
        { t with cowcnt := t.cowcnt + 1 }).endParks w.leaf [.cow, .poolempty])) ∧
    (∀ (x : Nat) (e : BitVec 64) (s1 : State), (s.ctxs.get? x).isSome = true →
      let size := if e.toNat % 2 = 0 then 65536 else 2 ^ 21
      let frame := bits e.toNat 51 16 * 65536
      frame % size = 0 → bits e.toNat 15 1 = 0 → e.toNat < 2 ^ 52 → s.frameOk x frame size = true →
      ((s.ctx x).stack size).1 < ((s.ctx x).stack size).2.1 → size / 65536 ≤ s.framesLeft x →
      s.pushFrame x size frame = some s1 →
      exec (.donateWrite x e) s = .next (s1.onCtx x fun t =>
        { t with dacc := t.dacc + 1, frames := KMap.put t.frames frame (size / 65536) }))

/-- An invalidation that finds none in progress starts at once, and when it completes INVDONE takes its number; a
write of ROOT sets ROOT and flushes the context's translations; a replay wakes the parked tray its token names and no
other park; a park that outlives its limit becomes terminal with its record and cause; the oldest retryable record of
a die whose port has no other to grant leaves as its ring takes it; a register write acts on the page it names. -/
def Obligations.TranslationEventResults : Prop :=
  ∀ (s : State) (x : Nat),
    (∀ (t : Ctx) (n : BitVec 32), s.ctxs.get? x = some t → t.invq = [] →
      exec (.invalidationKick x n) s = .next (((s.onCtx x fun t => { t with invseq := n }).onCtx x fun t =>
        { t with invq := t.invq ++ [(n, t.invaddr, t.invlen)] }).invalidate x t.invaddr.toNat (65536 * t.invlen.toNat))) ∧
    (∀ n a l, (s.ctx x).invq = [(n, a, l)] → s.exportsOut x = false →
      exec (.invalidationComplete x) s = .next (s.onCtx x fun t => { t with invdone := n, invq := [] })) ∧
    (∀ v : BitVec 64, s.ctxs.get? x ≠ none → ∃ s' : State, exec (.rootWrite x v) s = .next s' ∧
      (s'.ctx x).root = BitVec.ofNat 52 v.toNat ∧ s'.mem = s.mem ∧
      ∀ e ∈ s'.cores, ∀ y ∈ e.2.tlb, y.ctx = x → 2 ^ 52 ≤ y.page ∨ y.page + y.xl.size = 0) ∧
    (∀ (token : BitVec 32) (key : Nat) (t : Tray) (p : Park), s.trays.get? key = some t → t.wait = .park p →
      p.fctx = 0 ∨ s.isAncestor 0 p.fctx = true →
      ∃ s' : State, exec (.replayWrite x token) s = .next s' ∧ s'.mem = s.mem ∧
        s'.trays.get? key = some (if t.ctx = x ∧ p.num = token.toNat / 65536 ∧
          p.home = token.toNat % 1024 * 32 + token.toNat / 1024 % 32 then { t with wait := .run } else t)) ∧
    (∀ key t p, s.trays.get? key = some t → t.wait = .park p →
      ((s.ctx t.ctx).parkto ≠ 0 → p.kind ≠ .cow →
        exec (.parkTimeout false key) s = .next (s.endPark key t p .parktimeout)) ∧
      ((s.ctx t.ctx).chainto ≠ 0 → p.kind = .poolempty →
        exec (.chainTimeout false key) s = .next (s.endPark key t p .poolempty))) ∧
    (∀ die i q, s.grantOf die 0 = none → s.grantOf die 1 = some i → s.grantOf die 2 = none → s.records[i]? = some q →
      ∃ turns,
        let w := State.ringPut { s with reportTurns := turns, records := s.records.eraseIdx i } q.ctx
          (s.ctx q.ctx).rring.toNat (s.ctx q.ctx).rlog.toNat q.bytes
        w.1 = .done → exec (.faultRecordDeferred die) s = .next w.2) ∧
    (∀ (w off : Nat) (v : BitVec 64),
      (∀ page, page < 4096 → exec (.registerWrite w page off v) s = .next (s.ctlWrite w page off 8 v.toNat)) ∧
      (∀ q, q < 1024 → s.queueOwner q = some w → exec (.registerWrite w (4096 + q) off v) s = .next (s.qcbWrite q off 8 v.toNat)) ∧
      exec (.registerWrite 0 5120 off v) s = .next (s.landWrite off 8 v.toNat))

/-- HGATH, HRED and HCVT with legal operands complete by sending their operation; HQRY by sending its command, whose
performing answers with what the unit holds and its three counts; an accepted operation that meets no fault completes
and counts one operation done. -/
def Obligations.StackResults : Prop :=
  ∀ (s : State) (c : Cur) (t : Tray),
    let r := c.src s t
    (∀ a b, let x := (r.sn a 3).toNat
      x < 16 → x % 8 ≤ 5 → countOk (r.sn a 2).toNat = true →
      Stacks s c t (.hgath a b)
        [((r.s2 a).toNat, 2 ^ (x % 8)), ((r.quadB b).1.toNat, if x / 8 = 1 then 8 else 4), ((r.quadB b).2.toNat, 2 ^ (x % 8))]
        (.gath (r.s2 a).toNat (r.sn a 2).toNat (r.quadB b).1.toNat (r.quadB b).2.toNat (x % 8) (x / 8 == 1) 0 [])) ∧
    (∀ a b, let x := (r.sn a 3).toNat
      let rows := (r.sq b 2).toNat
      x < 64 → x / 4 % 8 ≤ 5 → (x / 4 % 8 ≤ 2 ∨ x % 4 < 2) → countOk (r.sn a 2).toNat = true → rows ≠ 0 → r.sq b 3 = 0 →
      (x / 32 = 1 → rows ≤ 65536 → Stacks s c t (.hred a b)
        [((r.s2 a).toNat, redSize (x % 4)), ((r.quadB b).1.toNat, redSize (x % 4))]
        (.red (r.s2 a).toNat (r.sn a 2).toNat (r.quadB b).1.toNat rows (x % 4) (x / 4 % 8))) ∧
      (x / 32 = 0 → rows = 1 → Stacks s c t (.hred a b)
        [((r.s2 a).toNat, redSize (x % 4)), ((r.quadB b).1.toNat, redSize (x % 4))]
        (.red (r.s2 a).toNat 1 (r.quadB b).1.toNat (r.sn a 2).toNat (x % 4) (x / 4 % 8)))) ∧
    (∀ a b, let x := (r.sn a 3).toNat
      let y := (r.quadB b).1.toNat
      let z := (r.quadB b).2.toNat
      let q := cvtShape (x % 16)
      x < 128 → x % 16 ≤ 11 → x / 16 % 4 ≠ 3 → (q.2.2 = false → x / 16 % 4 = 0 ∧ x / 64 = 0) →
      countOk (r.sn a 2).toNat = true → (if x % 16 < 6 then z = 0 else (r.sn a 2).toNat % 32 = 0) →
      Stacks s c t (.hcvt a b) [((r.s2 a).toNat, max (q.1 / 8) 1), (y, max (q.2.1 / 8) 1), (z, 1)]
        (.cvt (r.s2 a).toNat (r.sn a 2).toNat y z (x % 16) (x / 16 % 4) (x / 64 == 1) 0 [])) ∧
    (∀ d b u, EngineIssuing s c t (.hqry d b) → let k := (r.sb b).toNat
      k ≤ 11 → s.stackUnit t.ctx (c.key / 32) = some u → r.t.ctrFull .loads = false →
      exec (.hqry d b) s = .next (s.asked c t r 4 u (List.range' d.toNat 4) [] (.hqry d.toNat k))) ∧
    (∀ o d k, o.body = .cmd (.hqry d k) → let s0 := s.dropOp o.id
      Performs s o (s0.onTrayOf o.batch o.tray fun t => t.answer o.pend ((List.range' d 4).zip
        [BitVec.ofNat 32 (s0.stackHeld o.tag.ctx k), s0.stackCount o.tag.ctx k 0, s0.stackCount o.tag.ctx k 1,
          s0.stackCount o.tag.ctx k 2] |>.map fun x => .s x.1 x.2))) ∧
    (∀ id o k k1 s1, s.op? id = some o → o.phase ≠ 0 → o.park = none → o.body = .stack k →
      s.stackRun o k = (s1, k1, none) →
      exec (.stackOpComplete id) s = .next ((s1.stackAdd o 0 1).opDone o [] none true))

/-- MARCH, MSMP and MHASH with a legal control word, descriptor and registers complete with their results bound for
the window registers of each thread performed; MQRY completes by sending its command, whose performing answers with
what the unit holds and its counts; the completion of an accepted command lands its results. The values the spec
leaves open are free. -/
def Obligations.SamplerResults : Prop :=
  ∀ (s : State) (c : Cur) (t : Tray),
    let r := c.src s t
    (∀ d a b, a.toNat % 8 = 0 → 1 ≤ (r.sq b 3).toNat → (r.sq b 3).toNat ≤ 8 →
      Samples s c t (.march d a b) d a b 26 8 32 (fun rd va cw v free => do
        let g ← rd.grid va
        marchRay rd g cw.toNat v free) marchNote) ∧
    (∀ d a b, (r.sq b 3).toNat < 8 →
      Samples s c t (.msmp d a b) d a b ((r.sq b 3).toNat % 4 + 1) 3 32 (fun rd va cw v free => do
        let f ← rd.field va (cw.toNat % 4 + 1)
        (List.range (cw.toNat % 4 + 1)).mapM fun k => f.sample rd (4 ≤ cw.toNat) v k free) fun _ => (0, 0)) ∧
    (∀ d a b, 1 ≤ (r.sq b 3).toNat → (r.sq b 3).toNat ≤ 16 →
      Samples s c t (.mhash d a b) d a b (r.sq b 3).toNat 3 64 (fun rd va cw v free => do
        let h ← rd.hashGrid va cw.toNat
        (List.range cw.toNat).mapM fun l => h.level rd v l free) fun _ => (0, 0)) ∧
    (∀ d, EngineIssuing s c t (.mqry d) → r.t.p1 = none → d.toNat % 4 = 0 → r.t.ctrFull .loads = false →
      exec (.mqry d) s = .next (s.asked c t r 7 (c.key / 32 / 8) (List.range' d.toNat 4) [] (.mqry d.toNat))) ∧
    (∀ o d, o.body = .cmd (.mqry d) → let s0 := s.dropOp o.id
      Performs s o (s0.onTrayOf o.batch o.tray fun t => t.answer o.pend (((List.range' d 4).zip
        (BitVec.ofNat 32 (s0.samplerHeld o.tag.ctx o.unit) ::
          [0, 1, 2].map fun j => smGet s.samplerCounts ((128 * o.tag.ctx + o.unit) * 4 + j))).map fun x => .s x.1 x.2))) ∧
    (∀ id o data, s.op? id = some o → o.body = .performed data → o.phase ≠ 0 → o.tag.eng = 7 →
      exec (.samplerOpComplete id) s = .next (s.opDone o data none false))

/-- GEMIT, GFLUSH and PXRATE with a legal quad complete by sending their command to the die's front, which performs it
on the pass its descriptor names: the active threads' emissions enter its stream in ascending order, the stream is
flushed, or a draw rate is set. PXIN binds its register for the attribute of each active thread's pixel, PXOUT exports
the colours of the threads that hold one, and PXKILL gives up the active threads' shares; outside a pixel tray these
are ILLEGAL. -/
def Obligations.RasterInstructionResults : Prop :=
  ∀ (s : State) (c : Cur) (t : Tray),
    let r := c.src s t
    (∀ d a b, let n := bits (r.sq b 2).toNat 13 9
      quadLegal (r.sq b 2) (r.sq b 3) false true = true → n ≤ 16 → a.toNat + (12 + 3 * n) ≤ 128 →
      r.t.vwin + a.toNat + (12 + 3 * n) ≤ r.t.n →
      (r.t.pend.any fun p => p.vdst.any fun k => (List.range' (r.t.vwin + a.toNat) (12 + 3 * n)).contains k) = false →
      let addr := (pair (r.sq b 0) (r.sq b 1)).toNat
      Fronts s c t (.gemit d a b) addr (.emit addr ((r.sq b 2).toNat % 256) ((maskThreads r.m0).map fun th => r.emit d a n th))) ∧
    (∀ a b, quadLegal (r.sn a 2) (r.sn a 3) true false = true →
      ((r.sn a 2).getLsbD 8 = true ∨ (r.sbz64 b).toNat < 2 ^ 48) →
      Fronts s c t (.gflush a b) (r.s2 a).toNat
        (.flush (r.s2 a).toNat ((r.sn a 2).toNat % 256) (r.sbz64 b).toNat ((r.sn a 2).getLsbD 8))) ∧
    (∀ a b, quadLegal (r.sn a 2) (r.sn a 3) false false = true → (r.sb b).toNat < 7 →
      Fronts s c t (.pxrate a b) (r.s2 a).toNat (.rate (r.s2 a).toNat ((r.sn a 2).toNat % 256) (r.sb b).toNat)) ∧
    (∀ o addr n s1, (s.dropOp o.id).passFor o.tag addr = (some n, s1) →
      (∀ st l, o.body = .cmd (.emit addr st l) → Performs s o (s1.onPass n fun p => l.foldl (fun p e => p.accept st e) p)) ∧
      (∀ st w fin, o.body = .cmd (.flush addr st w fin) → Performs s o (s1.onPass n fun p => p.flush st w fin)) ∧
      (∀ st x, o.body = .cmd (.rate addr st x) → Performs s o (s1.onPass n fun p => p.setRate st x))) ∧
    (∀ d mode cen k x p, EngineIssuing s c t (.pxin d mode cen k) → r.pixTray s = some (x, p) → r.t.ctrFull .loads = false →
      exec (.pxin d mode cen k) s = .next (s.asked c t r 6 (4 + c.key / 32) [] (r.group d 1)
        (.done ((maskThreads r.m0).filterMap fun th => (x.threads.get? th).bind fun z => (x.prims.get? z.seq).map fun q =>
          RegWrite.v (vkey (r.t.vwin + d.toNat) th) (p.pixIn q z mode.toNat cen k.toNat))))) ∧
    (∀ x p, EngineIssuing s c t Instr.pxkill → r.pixTray s = some (x, p) →
      exec .pxkill s = .next (s.ordered c t ((t.advance c).releaseShares r.m0) r 6 (4 + c.key / 32) (.done []))) ∧
    (∀ a x p, EngineIssuing s c t (.pxout a) → r.pixTray s = some (x, p) → r.exporters x = [] →
      r.t.vwin + a.toNat + p.block ≤ r.t.n →
      (r.t.pend.any fun q => q.vdst.any fun k => (List.range' (r.t.vwin + a.toNat) p.block).contains k) = false →
      s.exportAll (c.key / 32) (t.advance c) r.step p x
        (fun th => (List.range p.block).map fun j => r.t.vreg (a.toNat + j) th) [] = .ok (s, []) →
      exec (.pxout a) s = .next (s.ordered c t (t.advance c) r 6 (4 + c.key / 32) (.done []))) ∧
    (∀ a x p s1 e es, EngineIssuing s c t (.pxout a) → r.pixTray s = some (x, p) →
      r.t.vwin + a.toNat + p.block ≤ r.t.n →
      (r.t.pend.any fun q => q.vdst.any fun k => (List.range' (r.t.vwin + a.toNat) p.block).contains k) = false →
      r.t.fpctl.getLsbD 6 = false → r.t.ctrFull .stores = false →
      s.exportAll (c.key / 32) (t.advance c) r.step p x
        (fun th => (List.range p.block).map fun j => r.t.vreg (a.toNat + j) th) (r.exporters x) = .ok (s1, e :: es) →
      s1.unwatched t.ctx →
      exec (.pxout a) s = .next (({ s1 with nextId := s1.nextId + (e :: es).length }.onPass x.pass fun p =>
          { p with exports := p.exports ++ e :: es }).ordered c t
        (((t.advance c).addPend .op c.path (some .stores) [] [] none).releaseShares
          ((r.exporters x).foldl (fun (m : Mask) (e : Nat × PixThread) => m ||| maskBit e.1) 0)) r 6 (4 + c.key / 32)
        (.done []))) ∧
    (r.pixTray s = none → (∀ d mode cen k, EngineIssuing s c t (.pxin d mode cen k) →
        RaisesEarly s c (.pxin d mode cen k) .illegal) ∧
      (∀ a, EngineIssuing s c t (.pxout a) → RaisesEarly s c (.pxout a) .illegal) ∧
      (EngineIssuing s c t .pxkill → RaisesEarly s c .pxkill .illegal))

/-- A primitive or a watermark that arrives enters its front; the lowest ready primitive of a tile with room becomes
quads; a tile whose quads are closed, with room on its core, starts a pixel tray; an export of a resident tray that
waits for no earlier one is committed, and the last of an instruction completes it; a pass that is over writes its
status and counts on its trigger. -/
def Obligations.RasterEventResults : Prop :=
  ∀ (s : State) (pass : Nat) (p : Pass), s.passes.get? pass = some p →
    (∀ src dst q p1, p.takeMsg src dst = some (.prim q, p1) →
      exec (.primitiveArrive pass src dst) s = .next { s with passes := s.passes.put pass (p1.enter dst q) }) ∧
    (∀ src dst st w p1, p.takeMsg src dst = some (.mark st w, p1) →
      exec (.watermarkArrive pass src dst) s = .next { s with
        passes := s.passes.put pass { p1 with marks := p1.marks.put (256 * dst + st) w } }) ∧
    (∀ tile q, p.readyPrim tile = some q → (p.tile tile).quads.length < 24 →
      let l := s.tileQuads p q tile
      exec (.tileRasterise pass tile) s = .next (l.2.onPass pass fun p => p.onTile tile fun x =>
        { x with bin := x.bin.del q.seq, quads := x.quads ++ l.1,
                 prims := if l.1.isEmpty then x.prims else x.prims.put q.seq q })) ∧
    (∀ tile r, s.savedPixel pass tile p = none → 24 ≤ (p.tile tile).quads.length ∨ (p.tile tile).quads ≠ [] ∧ p.readyPrim tile = none →
      (s.ctx p.ctx).st = .running →
      let fixed := if s.tileIdle pass tile p then none else (p.tile tile).core
      bestRoom ((s.roomsNow p.ctx).filter fun r => r.core / 256 == p.owner tile &&
        (match fixed with | some k => r.core == k | none => true) && r.fits ⟨16 * (bits (p.dw 80) 21 16 + 1), 1, []⟩) = some r →
      s.pixRoom r.core (quadThreads ((p.tile tile).quads.take 24)) = true →
      exec (.pixelTrayPlace pass tile) s = .next (s.startPixel pass tile r.core p ((p.tile tile).quads.take 24))) ∧
    (∀ k e, (p.exports.find? fun e => e.id == k) = some e → s.exportWaits pass p e = false →
      (∃ x ∈ s.trays, x.2.batch = e.batch ∧ x.2.idx = e.tray) →
      ∃ (s' : State) (p' : Pass), exec (.exportCommit pass k) s = .next s' ∧ s'.passes.get? pass = some p' ∧
        (p'.exports = p.exports.filter fun o => o.id != k)) ∧
    (s.passOver pass p = true →
      let s1 := (s.statusWrite p (if p.err = 0 then 2 else 3)).1
      let s2 := { s1 with passes := s1.passes.del pass }
      exec (.passEnd pass) s = .next (if (s2.ctx p.ctx).own.counters.getLsbD p.tcnt then s2.trigAdd p.tcnt 1 else s2))

/-- FENCE whose turn, if it needs one, has come, and CCTL of the issuing core's L1, complete and leave everything but
their path and the cores; CCTL of the dies' copies and PREF complete and leave every other tray, the clusters and the
passes. A message that arrives leaves its queue, a tile rasterised loses the primitive from its bin, a pixel tray
placed is one batch more, an export committed leaves the queue of its pass and a pass that ends is gone: each event
completes and leaves every other pass, and but for exports, status and rate images memory. -/
def Obligations.OrderingAndPassFrames : Prop :=
  ∀ (s : State),
    (∀ (c : Cur) (t : Tray), NothingDue c t →
      let r := c.src s t
      (∀ kind scope : BitVec 3, Issuing s c t [] → scopeLegal s t.ctx scope.toNat = true →
        (∃ s1, r.Goes s (kind = 3 ∨ kind = 4) (s.scopeCores (t.advance c) (c.key / 32) scope.toNat) s1) →
        ∃ s' : State, exec (.fence kind scope) s = .next s' ∧ Frame { s with cores := s'.cores } s' c t [] [] false) ∧
      (∀ (a : BitVec 7) (kind : BitVec 3) (n : BitVec 5), Issuing s c t (Instr.cctl a kind n).opnds → kind.toNat ≤ 1 →
        ∃ s' : State, exec (.cctl a kind n) s = .next s' ∧ Frame { s with cores := s'.cores } s' c t [] [] false) ∧
      (∀ (a : BitVec 7) (kind : BitVec 3) (n : BitVec 5), Issuing s c t (Instr.cctl a kind n).opnds → 2 ≤ kind.toNat →
        r.ctrFull .stores = false → ∃ s' : State, exec (.cctl a kind n) s = .next s' ∧ s'.passes = s.passes ∧
          s'.clusters = s.clusters ∧ ∀ k, k ≠ c.key → s'.trays.get? k = s.trays.get? k) ∧
      (∀ (a : BitVec 7) (tgt : BitVec 2) (n : BitVec 6), Issuing s c t (Instr.pref a tgt n).opnds →
        ∃ s' : State, exec (.pref a tgt n) s = .next s' ∧ s'.passes = s.passes ∧
          s'.clusters = s.clusters ∧ ∀ k, k ≠ c.key → s'.trays.get? k = s.trays.get? k)) ∧
    ∀ (pass : Nat) (p : Pass), s.passes.get? pass = some p →
      (∀ src dst q l, p.msgs.get? (4 * src + dst) = some (.prim q :: l) →
        ∃ (s' : State) (p' : Pass), exec (.primitiveArrive pass src dst) s = .next s' ∧ s' = { s with passes := s'.passes } ∧
          (∀ n, n ≠ pass → s'.passes.get? n = s.passes.get? n) ∧ s'.passes.get? pass = some p' ∧
          p'.msgs.get? (4 * src + dst) = if l = [] then none else some l) ∧
      (∀ src dst st w l, p.msgs.get? (4 * src + dst) = some (.mark st w :: l) →
        ∃ (s' : State) (p' : Pass), exec (.watermarkArrive pass src dst) s = .next s' ∧ s' = { s with passes := s'.passes } ∧
          (∀ n, n ≠ pass → s'.passes.get? n = s.passes.get? n) ∧ s'.passes.get? pass = some p' ∧
          p'.msgs.get? (4 * src + dst) = (if l = [] then none else some l) ∧ p'.marks.get? (256 * dst + st) = some w) ∧
      (∀ tile q, p.readyPrim tile = some q → (p.tile tile).quads.length < 24 → p.dw 96 = 0 →
        ∃ (s' : State) (p' : Pass), exec (.tileRasterise pass tile) s = .next s' ∧ s' = { s with passes := s'.passes } ∧
          (∀ n, n ≠ pass → s'.passes.get? n = s.passes.get? n) ∧ s'.passes.get? pass = some p' ∧
          (p'.tile tile).bin.get? q.seq = none) ∧
      (∀ tile r, s.savedPixel pass tile p = none → 24 ≤ (p.tile tile).quads.length → (s.ctx p.ctx).st = .running →
        bestRoom ((s.roomsNow p.ctx).filter fun r => r.core / 256 == p.owner tile &&
          (match if s.tileIdle pass tile p then none else (p.tile tile).core with | some k => r.core == k | none => true) &&
          r.fits ⟨16 * (bits (p.dw 80) 21 16 + 1), 1, []⟩) = some r →
        s.pixRoom r.core (quadThreads ((p.tile tile).quads.take 24)) = true →
        ∃ (s' : State) (b : Batch), exec (.pixelTrayPlace pass tile) s = .next s' ∧ s'.mem = s.mem ∧ s'.ops = s.ops ∧
          (∀ n, n ≠ pass → s'.passes.get? n = s.passes.get? n) ∧ s'.batches = s.batches.put s.nextId b ∧ b.pixel = true) ∧
      (∀ k e, (p.exports.find? fun e => e.id == k) = some e → s.exportWaits pass p e = false →
        ∃ (s1 : State) (left : List Export) (nans : List Nat), exec (.exportCommit pass k) s = .next (
          let s2 := s1.onPass pass fun p => { p with exports := left, nans := nans }
          if left.any fun o => o.batch == e.batch && o.tray == e.tray && o.pend == e.pend then s2
          else s2.onTrayOf e.batch e.tray fun t => t.complete e.pend) ∧ left = p.exports.filter fun o => o.id != k) ∧
      (s.passOver pass p = true → ∃ s1 : State, s1.passes.get? pass = none ∧
        (exec (.passEnd pass) s = .next s1 ∨ exec (.passEnd pass) s = .next (s1.trigAdd p.tcnt 1)))

/-- Every form of CPOST and CPOSTR, CARM and CHALO whose checks pass completes by sending its command with s(d) bound
for the result, and so does CQRY. CWAIT waits until its counter is reached or has an error, then takes its value and
acquires at system scope. -/
def Obligations.CollectiveResults : Prop :=
  ∀ (s : State) (c : Cur) (t : Tray),
    let r := c.src s t
    (∀ d a b, Posts s c t (.cpostPut d a b) false d a b) ∧
    (∀ d a b, Posts s c t (.cpostLand d a b) false d a b) ∧
    (∀ d a b, Posts s c t (.cpostrContrib d a b) true d a b) ∧
    (∀ d a b, Posts s c t (.cpostrLandr d a b) true d a b) ∧
    (∀ d a b, carmLegal (r.s a) (r.sn a 1) (r.sb b) = true → let hi := r.sn a 1
      let k := bits hi.toNat 11 0
      let cmd := Cmd.carm d.toNat (r.s a) hi (r.sb b)
      (bits hi.toNat 31 30 = 0 → Collects s c t (.carmArm d a b) [d.toNat] [k] [] cmd) ∧
      (bits hi.toNat 31 30 = 1 → r.sb b = 0 → Collects s c t (.carmFire d a b) [d.toNat] [] [] cmd) ∧
      (bits hi.toNat 31 30 = 1 → r.sb b ≠ 0 → Collects s c t (.carmFree d a b) [d.toNat] [] [] cmd) ∧
      (bits hi.toNat 31 30 = 2 → Collects s c t (.carmSet d a b) [d.toNat] [k] [] cmd) ∧
      (bits hi.toNat 31 30 = 3 → Collects s c t (.carmAdd d a b) [d.toNat] [k] [] cmd)) ∧
    (∀ d a, Collects s c t (.chalo d a) [d.toNat] [] [((r.s2 a).toNat, 64)] (.halo d.toNat (r.s2 a).toNat)) ∧
    (∀ d a b, EngineIssuing s c t (.cwait d a b) → let k := (r.s a).toNat
      k < 4096 → (s.ctx t.ctx).own.ual ≠ 0 → (s.ctx t.ctx).own.counters.getLsbD k = true →
      (s.trigReady k (r.sb b) = false → exec (.cwait d a b) s = .next s) ∧
      (s.trigReady k (r.sb b) = true → let t1 := (t.advance c).setSreg c.path d.toNat (s.trig k).value
        exec (.cwait d a b) s = .next ((s.acquire (c.key / 32) t1 4).completedRaising c t t1
          (if (s.trig k).err = 0 then [] else [(s.trig k).cause]) none))) ∧
    (∀ d b, (r.sb b).toNat < 4096 →
      Collects s c t (.cqry d b) (List.range' d.toNat 4) [(r.sb b).toNat] [] (.cqry d.toNat (r.sb b).toNat))

/-- A CPOST or CPOSTR as performed answers with its handle or its code. CARM arms an entry that is held, and fires it
at once where its counter is reached without error; fires an entry that is held or armed; frees one that is held,
armed or posted; a handle that names none of the context's answers 6 and one in another state 7; SET returns the old
value of a counter and sets it without error, ADD the new one. CHALO posts its faces, CQRY answers with the counter's
state. -/
def Obligations.CollectiveCommandResults : Prop :=
  ∀ (s : State) (o : Op),
    let s0 := s.dropOp o.id
    let ans := fun (d : Nat) (q : Word × State) => q.2.onTrayOf o.batch o.tray fun t => t.answer o.pend [.s d q.1]
    (∀ d red src len w w0 w1 w2 w3 v s1, o.body = .cmd (.post d red src len w w0 w1 w2 w3) →
      s0.post o.tag.ctx o.tag red src len w w0.toNat w1.toNat w2.toNat w3.toNat = (.ok v, s1) → Performs s o (ans d (v, s1))) ∧
    (∀ d lo hi b, o.body = .cmd (.carm d lo hi b) → let k := bits hi.toNat 11 0
      (bits hi.toNat 31 30 = 2 → Performs s o (ans d ((s0.trig k).value, (s0.onTrig k fun _ => ⟨b, 0, 0⟩).trigFire k))) ∧
      (bits hi.toNat 31 30 = 3 → Performs s o (ans d ((s0.trig k).value + b, s0.trigAdd k b))) ∧
      (bits hi.toNat 31 30 < 2 →
        (s0.byPostHandle lo = none → Performs s o (ans d (postCode 6, s0))) ∧
        ∀ idx e, s0.byPostHandle lo = some (idx, e) →
          (e.ctx ≠ o.tag.ctx → Performs s o (ans d (postCode 6, s0))) ∧
          (e.ctx = o.tag.ctx →
            (bits hi.toNat 31 30 = 0 → e.st ≠ .held → Performs s o (ans d (postCode 7, s0))) ∧
            (bits hi.toNat 31 30 = 0 → e.st = .held →
              let s1 : State := { s0.onPost idx fun e => { e with st := .armed k b s0.nextId } with nextId := s0.nextId + 1 }
              Performs s o (ans d (0, (if (s1.trig k).err = 0 ∧ reached (s1.trig k).value b = true then s1.fire idx else s1)))) ∧
            (bits hi.toNat 31 30 = 1 → b = 0 → e.st.idle = true → Performs s o (ans d (0, s0.fire idx))) ∧
            (bits hi.toNat 31 30 = 1 → b = 0 → e.st.idle = false → Performs s o (ans d (postCode 7, s0))) ∧
            (bits hi.toNat 31 30 = 1 → b ≠ 0 → e.st.idle = true ∨ e.st = .posted → Performs s o (ans d (0, s0.postFree idx))) ∧
            (bits hi.toNat 31 30 = 1 → b ≠ 0 → e.st.idle = false → e.st ≠ .posted →
              Performs s o (ans d (postCode 7, s0)))))) ∧
    (∀ d va, o.body = .cmd (.halo d va) → Performs s o (ans d (s0.halo o.tag.ctx o.tag va))) ∧
    (∀ d k, o.body = .cmd (.cqry d k) → Performs s o (s0.onTrayOf o.batch o.tray fun t => t.answer o.pend
      (((List.range' d 4).zip [(s0.trig k).value, BitVec.ofNat 32 ((s0.trig k).kind * 65536 + (s0.trig k).err),
        BitVec.ofNat 32 (s0.armedOn k).length,
        BitVec.ofNat 32 (s0.downMask o.tag.ctx * 65536 + min 65535 (s0.heldUnits o.tag.ctx))]).map fun x => .s x.1 x.2)))

/-- A unit that arrives for this package is taken; an answer to an outstanding unit, an acknowledgement, a fault or a
time-out, ends it, counts its error and settles its entry; a refused unit is kept and resent; an access from another
package is performed at stage S2; a park for a remote retry ends at its time-out; a port or a die that fails is
marked. -/
def Obligations.PodEventResults : Prop :=
  ∀ (s : State),
    (∀ u : UaUnit, u.src ≠ s.podIdx → u.dst = s.podIdx → exec (.ualinkUnitArrive u) s = .next (s.unitArrive u)) ∧
    (∀ a : RemoteAcc, s.stage = .s2 → exec (.remoteAccessArrive a) s = .next (s.remoteArrive a)) ∧
    (∀ (h : Word) (k unit idx : Nat) (e : Posted) (p : PostPart), s.byPostHandle h = some (idx, e) → e.parts[k]? = some p →
      e.st = .firing → (p.sent.get? unit).isSome = true →
      let ans := fun (kind : Nat) =>
        let s1 := s.onPost idx fun e => e.onPart k fun p => { p with sent := p.sent.del unit, nacks := p.nacks.del unit }
        let s2 := if kind = 0 then s1 else s1.partErr idx k kind
        let s3 := match (s2.posted.get? idx).bind fun e => e.parts[k]? with
          | some p => if p.over e.cmp ∧ p.err = 0 then s2.trigAdd e.cnt 1 else s2
          | none => s2
        s3.postSettle idx
      exec (.ualinkAck h k unit) s = .next (ans 0) ∧ exec (.ualinkFaultCompletion h k unit) s = .next (ans 1) ∧
      exec (.ualinkUnitTimeout h k unit) s = .next (ans 2)) ∧
    (∀ (h : Word) (k unit idx port : Nat) (e : Posted) (p : PostPart) (u : UaUnit),
      s.unitOut h k unit = some (idx, e, p, port, u) →
      (let n := ((p.nacks.get? unit).map (·.1)).getD 0 + 1
       n < 64 → exec (.ualinkNack h k unit) s = .next (s.onPost idx fun e => e.onPart k fun p =>
         { p with nacks := p.nacks.put unit (n, true) })) ∧
      (∀ n, p.nacks.get? unit = some (n, true) → exec (.ualinkResend h k unit) s = .next
        ((s.onPost idx fun e => e.onPart k fun p => { p with nacks := p.nacks.put unit (n, false) }).putUnit e.ctx port u))) ∧
    (∀ key t p, s.trays.get? key = some t → t.wait = .park p → p.kind = .remoteretry →
      exec (.remoteRetryTimeout key) s = .next (s.setTray key { t with wait := .run })) ∧
    (∀ port, port < 16 → s.portsDown.getLsbD port = false → ∃ s' : State, exec (.ualinkPortDown port) s = .next s' ∧
      s'.portsDown.getLsbD port = true ∧ s'.mem = s.mem) ∧
    (∀ die, die < 4 → s.down.getLsbD die = false → ∃ s' : State, exec (.linkDown die) s = .next s' ∧
      s'.down.getLsbD die = true ∧ ∀ e ∈ s'.ctxs, e.2.own.channels &&& ~~~(e.2.own.cutDie die).channels = 0)

/-- CTXNEW and KEYSEL within their quota, CTXGRANT, CTXREVOKE, CTXRUN and CTXSTOP in each of their forms, CTXSAVE,
CTXLOAD, CTXQ, SCRUB and ALOG complete by sending their command with the operands read, counted and with its result
pending; CTXNEW and KEYSEL beyond their quota raise QUOTA. -/
def Obligations.ContextResults : Prop :=
  ∀ (s : State) (c : Cur) (t : Tray),
    let r := c.src s t
    (∀ d b, EngineIssuing s c t (.ctxnew d b) → r.t.ctrFull .loads = false →
      let n := (s.children t.ctx).length + s.inFlight t.ctx fun k => match k with
        | .new _ _ => true
        | _ => false
      exec (.ctxnew d b) s = .next (if s.ownBudget t.ctx (·.childmax.toNat) ≤ n then s.trapped c t [.quota]
        else s.sent c t r 8 0 noVer (some .loads) [d.toNat] [] (.ctx (.new d.toNat (r.sb b))))) ∧
    (∀ d a b, Commands s c t (.ctxgrant d a b) .loads d 1 (.grant d.toNat (r.s a).toNat (r.sbz64 b).toNat false)) ∧
    (∀ d a b, Commands s c t (.ctxrevoke d a b) .copies d 1
      (.revoke d.toNat (r.s a).toNat (r.sn a 1).toNat (if b = .zero then none else some (r.sbz64 b).toNat) 0)) ∧
    (∀ d a b, let w := (r.s a).toNat
      let k : CtxOp := .run d.toNat (w % 4096) (w / 4096) (r.sn a 1).toNat (r.sn a 2) (r.sn a 3) (r.sbz64 b)
      Commands s c t (.ctxrunRun d a b) .loads d 1 k ∧ Commands s c t (.ctxrunResume d a b) .loads d 1 k ∧
      Commands s c t (.ctxrunReply d a b) .loads d 1 k) ∧
    (∀ d a b, Commands s c t (.ctxstopSlice d a b) .copies d 1 (.stop d.toNat (r.s a).toNat (r.sb b) false) ∧
      Commands s c t (.ctxstopHalt d a b) .copies d 1 (.stop d.toNat (r.s a).toNat (r.sb b) false)) ∧
    (∀ d a b, Commands s c t (.ctxsave d a b) .copies d 1 (.save d.toNat (r.s a).toNat (r.sbz64 b).toNat)) ∧
    (∀ d a b, Commands s c t (.ctxload d a b) .copies d 1 (.load d.toNat (r.s a).toNat (r.sbz64 b).toNat)) ∧
    (∀ d a b, Commands s c t (.ctxq d a b) .loads d 4 (.query d.toNat (r.s a).toNat (r.sb b).toNat)) ∧
    (∀ d a b, Commands s c t (.scrub d a b) .copies d 1 (.scrub d.toNat (r.s a).toNat (r.sbz64 b).toNat false)) ∧
    (∀ d a b, Commands s c t (.alog d a b) .loads d 1
      (.alog d.toNat (r.s a) (if b = .zero then none else some (r.sbz64 b).toNat))) ∧
    (∀ d a b, let n := s.keysBoundBy t.ctx + s.inFlight t.ctx fun k => match k with
        | .keysel _ _ _ va => va.isSome
        | _ => false
      (b ≠ .zero → n < s.ownBudget t.ctx (·.keymax.toNat) → Commands s c t (.keyselBind d a b) .loads d 1
        (.keysel d.toNat (r.s a).toNat (r.sn a 1).toNat (some (r.sbz64 b).toNat))) ∧
      Commands s c t (.keyselUnbind d a .zero) .loads d 1 (.keysel d.toNat (r.s a).toNat (r.sn a 1).toNat none))

/-- An accepted command that waits for another, or that takes more time, stays and leaves the command queue; one that
waits for no other is performed, and its registers take its result and it completes, with an acquire where it orders
memory. CTXNEW makes the lowest free number a NEW child of its issuer one level deeper, and a device mode that is not
one fails with code 1 and changes nothing. -/
def Obligations.ContextCommandResults : Prop :=
  ∀ (s : State),
    (∀ id o k, s.op? id = some o → o.body = .ctx k → o.phase ≠ 0 → o.park = none →
      let outside := fun (s1 : State) => s1.onOp id fun o => { o with phase := max o.phase 2 }
      (s.ctxWaits o k = true → exec (.contextOpComplete id) s = .next (outside s)) ∧
      (∀ s1, s.ctxWaits o k = false → s.ctxGo o k = (none, s1) → exec (.contextOpComplete id) s = .next (outside s1)) ∧
      (∀ data s1, s.ctxWaits o k = false → s.ctxGo o k = (some data, s1) → exec (.contextOpComplete id) s = .next (
        if k.orders then (s1.opDone o data none true).l1Inval o.tag.core false else s1.opDone o data none false))) ∧
    (∀ c d n (w : Word), w.toNat < 3 → (s.ctx c).pmode ≤ w.toNat → (s.ctx c).depth < 6 →
      ((List.range 4096).find? fun n => n != 0 && ((s.ctxs.get? n).map fun x => x.st == .free).getD true) = some n →
      ∃ s1 : State, s.newGo c d w = (some [.s d (BitVec.ofNat 32 n)], s1) ∧ (s1.ctx n).st = .new ∧ (s1.ctx n).parent = c ∧
        (s1.ctx n).depth = (s.ctx c).depth + 1 ∧ (s1.ctx n).own = Units.none ∧ ∀ x, x ≠ n → s1.ctx x = s.ctx x) ∧
    (∀ c d (w : Word), 3 ≤ w.toNat → s.newGo c d w = (some [.s d 0xFFFF0001], s))

/-- SPAWN, CONT and LSTAT complete by sending a command that returns registers and is counted in loads, JDEC and
LCANCEL by sending one that returns none. As performed: SPAWN answers with a handle for each active thread's child in
ascending order; CONT with the handle of the record it has written and counted, or with its failure code; JDEC lowers
the join counts of the active threads' records; LCANCEL cancels the launch, or the issuing one, that it names, and
nothing where it names none; LSTAT answers with the count and state of what it names, with an acquire where that is
complete. An illegal level of LCANCEL or LSTAT raises ILLEGAL. -/
def Obligations.LaunchResults : Prop :=
  ∀ (s : State) (c : Cur) (t : Tray),
    let r := c.src s t
    (∀ d a, EngineIssuing s c t (.spawn d a) → r.t.ctrFull .loads = false →
      exec (.spawn d a) s = .next (s.asked c t r 9 (c.key / 32 / 256) [] [r.t.vwin + d.toNat]
        (.spawn (r.t.vwin + d.toNat) (s.slotOf (t.advance c)) ((maskThreads r.m0).map fun th => (th, (r.v2 a th).toNat))))) ∧
    (∀ d a b, EngineIssuing s c t (.cont d a b) → r.t.ctrFull .loads = false →
      exec (.cont d a b) s = .next (s.asked c t r 9 (c.key / 32 / 256) [d.toNat] []
        (.cont d.toNat (s.slotOf (t.advance c)) (r.s2 a) (r.sbz64 b)))) ∧
    (∀ a b, EngineIssuing s c t (.jdec a b) →
      exec (.jdec a b) s = .next (s.ordered c t (t.advance c) r 9 (c.key / 32 / 256) (.jdec (s.slotOf (t.advance c))
        ((maskThreads r.m0).map fun th => ((r.v a th).toNat, min (r.vb th b).toNat 65535))))) ∧
    (∀ a lvl, EngineIssuing s c t (.lcancel a lvl) →
      (lvlOk a lvl = true → exec (.lcancel a lvl) s = .next (s.ordered c t (t.advance c) r 9 (c.key / 32 / 256)
        (.lcancel (s.slotOf (t.advance c)) lvl.toNat (r.s a)))) ∧
      (lvlOk a lvl = false → RaisesEarly s c (.lcancel a lvl) .illegal)) ∧
    (∀ d a lvl, EngineIssuing s c t (.lstat d a lvl) →
      (lvlOk a lvl = true → r.t.ctrFull .loads = false →
        exec (.lstat d a lvl) s = .next (s.asked c t r 9 (c.key / 32 / 256) [d.toNat, d.toNat + 1] []
          (.lstat d.toNat (s.slotOf (t.advance c)) lvl.toNat (if lvl = 4 then 0 else r.s a)))) ∧
      (lvlOk a lvl = false → RaisesEarly s c (.lstat d a lvl) .illegal)) ∧
    (∀ o p slot l, o.body = .cmd (.spawn p slot l) →
      let q := l.foldl (fun (acc : List RegWrite × State) x =>
        let y := acc.2.spawnOne o.tag.ctx slot x.2
        (acc.1 ++ [.v (vkey p x.1) (BitVec.ofNat 32 y.1)], y.2)) ([], s.dropOp o.id)
      Performs s o (q.2.onTrayOf o.batch o.tray fun t => t.answer o.pend q.1)) ∧
    (∀ o d slot w fp, o.body = .cmd (.cont d slot w fp) →
      let s0 := s.dropOp o.id
      let x := s0.ctx o.tag.ctx
      let ans := fun (h : Nat) (s1 : State) => s1.onTrayOf o.batch o.tray fun t => t.answer o.pend [.s d (BitVec.ofNat 32 h)]
      (s.launches.get? slot = none → Performs s o (ans 0xFFF00009 s0)) ∧
      ∀ l bt i s1, s.launches.get? slot = some l → s.batches.get? o.batch = some bt →
        x.conts.firstFree (min x.pooln.toNat (2 ^ 20)) = some i → w.toNat % 2 ^ 48 % 4 = 0 → l.cancelled = false →
        s0.upPut o.tag.ctx (x.contAddr i) (recordBytes 1 (w.toNat / 2 ^ 48) (w.toNat % 2 ^ 48) (fp.toNat % 2 ^ 48) bt.prio
          bt.dual.toNat (bt.trays - 1) (bt.regs / 16 - 1) slot bt.batchId) = (s1, none) →
        let k : Cont := ⟨smGet x.contGen i, slot, false, false⟩
        let s2 := (s1.onCtx o.tag.ctx fun y => { y with conts := y.conts.put i k }).onLaunch slot fun l => { l with count := l.count + 1 }
        Performs s o (ans (k.gen.toNat * 2 ^ 20 + i) (if w.toNat / 2 ^ 48 = 0 then s2.contReady o.tag.ctx i k else s2))) ∧
    (∀ o slot l s1, o.body = .cmd (.jdec slot l) →
      l.foldl (fun (acc : State × Option XFault) x =>
        if acc.2.isSome then acc else acc.1.joinDec o.tag.ctx slot x.1 x.2) (s.dropOp o.id, none) = (s1, none) →
      Performs s o s1) ∧
    (∀ o slot lvl id, o.body = .cmd (.lcancel slot lvl id) →
      let s0 := s.dropOp o.id
      (lvl = 0 → ∀ k l, s0.byHandle o.tag.ctx id = some (k, l) → Performs s o (s0.cancelAll [k])) ∧
      (lvl = 0 → s0.byHandle o.tag.ctx id = none → Performs s o s0) ∧
      (lvl = 4 → Performs s o (s0.cancelAll [slot])) ∧
      (lvl ≠ 0 → lvl ≠ 4 → (id = 0 ∨ s0.hierOf o.tag.ctx lvl id.toNat = none) → Performs s o s0)) ∧
    (∀ o d slot lvl id t, o.body = .cmd (.lstat d slot lvl id) → s.trayOf o.batch o.tray = some t →
      let s0 := s.dropOp o.id
      let q := s0.lstat o.tag.ctx slot lvl id
      let s1 := if q.2 % 4 = 1 ∨ (q.2 % 4 = 2 ∧ q.1 = 0) then s0.acquire o.tag.core t 4 else s0
      Performs s o (s1.onTrayOf o.batch o.tray fun t => t.answer o.pend
        [.s d (BitVec.ofNat 32 q.1), .s (d + 1) (BitVec.ofNat 32 q.2)]))

/-- A kick of an enabled queue whose slots are legal drains it; enabling a queue makes it idle at its write index with
no error, disabling it makes it disabled, after the record being read where there is one. A completed launch's slot is
freed with its generation advanced; a completed level of the hierarchy is freed; a running launch with room expands
its next cluster; an aggregator window closes. -/
def Obligations.LaunchEventResults : Prop :=
  ∀ (s : State),
    (∀ q c, q < 1024 → (s.qcb q).en = true → (s.qcb q).qstate ≠ 2 → s.queueOwner q = some c → (s.ctx c).st = .running →
      4 ≤ (s.qcb q).slotlog.toNat → (s.qcb q).slotlog.toNat ≤ 16 → (s.qcb q).base.toNat % 256 = 0 →
      ((s.qcb q).widx - (s.qcb q).ridx).toNat ≤ 2 ^ (s.qcb q).slotlog.toNat → s.qwait.contains q = false →
      exec (.queueKick q) s = .next ((s.onQcb q fun b => { b with waiting := false }).drainQueue c q (2 ^ (s.qcb q).slotlog.toNat + 1))) ∧
    (∀ q, q < 1024 → (s.qcb q).en = false → exec (.queueEnable q) s = .next { (s.onQcb q fun b =>
      { b with en := true, ridx := b.widx, qstate := 1, err := 0, waiting := false }) with qwait := s.qwait.filter (· != q) }) ∧
    (∀ q, q < 1024 → exec (.queueDisable q) s = .next (s.onQcb q fun b => { b with en := false, qstate := if b.qstate = 3 then 3 else 0 })) ∧
    (∀ slot l, s.launches.get? slot = some l → l.complete = true → s.qwait = [] →
      ∃ s1 : State, exec (.launchSlotFree slot) s = .next s1 ∧ s1.launches.get? slot = none ∧
        smGet s1.launchGen slot = nextLaunchGen (smGet s.launchGen slot) ∧ s1.mem = s.mem) ∧
    (∀ ctx level id, ∃ s1 : State, exec (.hierarchyEntryFree ctx level id) s = .next s1 ∧ s1.mem = s.mem ∧
      s1.trays = s.trays ∧ ∀ e, e ∈ s1.hier ↔ e ∈ s.hier ∧ ¬(e.ctx = ctx ∧ e.level = level ∧ e.ident = id ∧ e.complete = true)) ∧
    (∀ die slot l, s.launches.get? slot = some l → die < 4 → s.dies.getLsbD die = true →
      (s.diesFor l.ctx l.qpos).contains die = true → l.cancelled = false → l.window = none → (s.ctx l.ctx).st = .running →
      l.expanded < l.nbatch → (l.coop = true ∨ s.unplacedOf slot = 0 ∨ s.unplacedOf slot + (l.clsc + 1) ≤ 64) →
      exec (.launchExpand die slot) s = .next ((s.addCluster l slot (BitVec.ofNat 32 (l.expanded / (l.clsc + 1))) (l.clsc + 1)
        fun k i => l.batch slot k (BitVec.ofNat 64 (l.expanded + i)) none l.code 0).onLaunch slot fun y =>
          { y with expanded := y.expanded + (l.clsc + 1) })) ∧
    (∀ w, exec (.aggregatorWindowClose w) s = .next (s.closeWindow w))

/-- A die places the ready record that the rotation of priorities picks, then makes room for one it cannot place; a
placed batch whose inputs have landed starts its trays with an acquire; an ended tray whose results have landed gives
back its slot; a batch with no tray and no operation left ends; a leaving tray is saved into its batch's image; the
region of a cluster with nothing placed is saved; a cancelled tray ends without save, with a stop record where
commands of it were discarded. -/
def Obligations.BatchEventResults : Prop :=
  ∀ (s : State),
    (∀ die p l, ([0, 1, 2, 3].filter fun p => (s.placeable die p).isSome).find? (fun p => 0 < (s.creditsOf die).getD p 0) = some p →
      s.placeable die p = some l →
      let left := (s.creditsOf die).set p ((s.creditsOf die).getD p 0 - 1)
      exec (.batchPlace die) s =
        .next (State.makeRooms (l.foldl (fun s x => s.placeCluster x.1 x.2) { s with credits := s.credits.put die left }) die)) ∧
    (∀ k b core, s.batches.get? k = some b → b.core = some core → b.loading = false → b.started = false → b.inputs = 0 →
      b.pixel = false → b.cont = none →
      exec (.batchStart k) s = .next ((s.startTrays k b core).batchAcquire core)) ∧
    (∀ key t, s.trays.get? key = some t → t.wait = .ended → (t.pend.all fun p => p.kind == .op && p.sdst.isEmpty && p.vdst.isEmpty) = true →
      exec (.trayResourceReturn key) s = .next ((({ s with trays := s.trays.del key }).batchLeaves t.batch).settleCtxs)) ∧
    (∀ k b, s.batches.get? k = some b → b.started = true → b.loading = false → b.image = [] →
      (s.trays.any fun e => e.2.batch == k) = false → (s.ops.any fun o => o.batch == k) = false →
      exec (.batchComplete k) s = .next ((s.endBatch k b).settleCtxs)) ∧
    (∀ key t, s.trays.get? key = some t → t.leave = some .slice → (s.ctx t.ctx).st ≠ .revoking → s.savable t = true →
      let s1 := { s with trays := s.trays.del key }
      let keep : Batch → Batch := fun b => { b with image := b.image.put t.idx t.back }
      exec (.traySave key) s = .next ((({ s1 with batches := s1.batches.upd t.batch keep }).batchLeaves t.batch).settleCtxs)) ∧
    (∀ x k die, s.clusters.get? x = some k → k.saved = false → k.die = some die → s.clusterBusy x = false →
      (k.batches.any fun b => ((s.batches.get? b).map fun y => y.core.isSome).getD false) = false →
      (s.ctx k.ctx).st ≠ .revoking → k.size = 0 →
      let k1 : Cluster := { k with saved := true, die := none, area := none }
      exec (.clusterRegionSave x) s = .next (({ s with clusters := s.clusters.put x k1 }).settleCtxs)) ∧
    (∀ key t, s.trays.get? key = some t → (t.departing = some .cancel ∨ t.leave = some .cancel) →
      let mine := s.ops.filter fun o => o.batch == t.batch && o.tray == t.idx && o.tag.ctx == t.ctx && o.stops
      (mine = [] → exec (.cancelForceEnd key) s = .next (s.trayEnds key)) ∧
      (mine ≠ [] → (∀ o ∈ mine, o.phase = 0 ∧ s.matesOf o = []) → exec (.cancelForceEnd key) s = .next (
        ((mine.foldl (fun s o => s.stopOp o) s).stopRecord ⟨true, t.ctx, key / 32, 3, 0, (mine.length, 0, 0, 1), none, 0, 0⟩).trayEnds
          key)))

/-- The path slots of a candidate become urgent, having stood for 4,096 clocks, and nothing else of it changes; a core
whose trays are all stuck behind register growth evicts its youngest batch with those that leave with it; the quantum
of a running context ends its slice; a departing tray leaves by force when its budget runs out; a unit other than a
core stops a context's work and writes its records. A word of an unassigned encoding raises ILLEGAL. -/
def Obligations.CoreAndStopEventResults : Prop :=
  ∀ (s : State),
    (∀ key t, s.trays.get? key = some t → t.leave = none → t.wait = .run →
      exec (.candidateUrgent key) s = .next (s.setTray key { t with
        p0 := { t.p0 with since := some (s.now - 4096) }, p1 := t.p1.map fun p => { p with since := some (s.now - 4096) } })) ∧
    (∀ core ord key n pc id b, oldestGrow (s.growQueue core) = some (ord, key, n, pc) → s.growDeadlock core = true →
      (let held := (s.trays.get? key).map fun t => t.batch
       youngest (s.batches.filter fun e => e.2.core == some core && !held.any fun h => (s.leaveTogether e.1 e.2).contains h) =
         some (id, b)) →
      exec (.reggrowDeadlockEvict core) s = .next ((s.leaveTogether id b).foldl (fun s x => s.evictBatch x) s)) ∧
    (∀ x, (s.ctx x).st = .running → (s.ctx x).quantum ≠ 0 → exec (.quantumExpiry x) s = .next (s.sliceEnd x true)) ∧
    (∀ key t w, s.trays.get? key = some t → t.departing = some w → t.leave = none → t.wait ≠ .ended → w ≠ .cancel →
      t.async = [] →
      exec (.sliceBudgetExpiry key) s = .next (s.setTray key { t with leave := some w, forced := true })) ∧
    (∀ cls unit x w, cls ≠ 0 → ((s.ctx x).stops.find? fun w => w.cls == cls && w.unit == unit) = some w →
      exec (.unitStop cls unit x) s = .next (((s.onCtx x fun t => { t with stops := t.stops.filter fun y =>
        !(y.cls == cls && y.unit == unit && y.reason == w.reason && y.revno == w.revno) }).stopEngine x w).settleCtxs)) ∧
    (∀ (c : Cur) (t : Tray) (w : BitVec 32), Issuing s c t [] → RaisesEarly s c (.unassignedEncoding w) .illegal)

/-- A command of an endpoint that is heard, at a stage that Table 18.1 does not allow it, is refused with status 3 and
has no other effect: QPBIND, EVSET, ROOTRING, KEYROLL, ROOTWR, CKPT and CKPTABORT at every stage but S2, FWLOAD and
PODIDX at every stage but S1 hold and S2. -/
def Obligations.CommandNotAllowed : Prop :=
  ∀ (s : State) (h : CmdHdr), s.hears h.ep = true →
    let refused := Host.Outcome.next (s.toHost (.response h.ep h.tag 3 .none))
    (s.stage ≠ .s2 →
      (∀ qp x, exec (.qpbind h qp x) s = refused) ∧ (∀ ch qp m l a, exec (.evset h ch qp m l a) s = refused) ∧
      (∀ qp l a, exec (.rootring h qp l a) s = refused) ∧ exec (.keyroll h) s = refused ∧
      (∀ off d, exec (.rootwr h off d) s = refused) ∧ (∀ k, exec (.ckpt h k) s = refused) ∧
      (∀ k, exec (.ckptabort h k) s = refused)) ∧
    (s.stage ≠ .s2 → s.stage ≠ .hold →
      (∀ i, exec (.fwload h i) s = refused) ∧ (∀ i, exec (.podidx h i) s = refused))

/-- IDENTIFY, ATTEST over a 48-byte nonce and HEALTH answer what they report; SEMACQ takes a free semaphore with its
SEQ advanced and answers its word, or status 1 where it is held; SEMREL frees it. With the semaphore held at S2,
QPBIND binds a queue pair, FWLOAD writes valid firmware to flash, KEYROLL advances the identity key, ROOTWR writes the
root's control page and PODIDX keeps the pod index; EVSET and ROOTRING configure their rings; a malformed command is
answered with status 4. An exclusive command or a SEMREL from an endpoint that does not hold the semaphore under its
SEQ changes nothing but for its answer: status 1 where the other endpoint is OWNER, 2 otherwise. -/
def Obligations.HostCommandResults : Prop :=
  ∀ (s : State) (h : CmdHdr), s.hears h.ep = true →
    let answer (s : State) (status : Nat) (b : RespBody) : State := s.toHost (.response h.ep h.tag status b)
    let word (q : Semaphore) : BitVec 64 := BitVec.ofNat 64 (q.seq.toNat * 2 ^ 32 + q.owner)
    exec (.malformedCommand h) s = .next (answer s 4 .none) ∧
    exec (.identify h) s = .next (answer s 0 (.identify Config.part Config.serial Config.fuseRev s.stage.code)) ∧
    (∀ nonce, nonce.length = 48 →
      let pub := Config.publicKey s.lasting.keyGen
      exec (.attest h nonce) s = .next (answer s 0 (.attest nonce Config.serial s.firmware.1 s.firmware.2 s.stage.code s.dies pub
        (Config.sign s.lasting.keyGen (nonce ++ Config.serial ++ s.firmware.1 ++ bytesOf 8 s.firmware.2 ++
          bytesOf 8 s.stage.code ++ bytesOf 8 s.dies.toNat ++ pub))))) ∧
    exec (.health h) s = .next (answer s 0 (.health ((bitList s.dies).map fun d => Config.temperature s.ticks d)
      (Config.power s.ticks) s.dies (s.dies != 15#4 || s.down != 0#4))) ∧
    (s.sem.owner = 0 → exec (.semacq h) s =
      .next (answer { s with sem := ⟨h.ep + 1, s.sem.seq + 1⟩ } 0 (.sem (word ⟨h.ep + 1, s.sem.seq + 1⟩)))) ∧
    (s.sem.owner ≠ 0 → exec (.semacq h) s = .next (answer s 1 (.sem (word s.sem)))) ∧
    (s.sem = ⟨h.ep + 1, h.seq⟩ → exec (.semrel h) s = .next (answer { s with sem := ⟨0, h.seq⟩ } 0 .none)) ∧
    (s.stage = .s2 → s.sem = ⟨h.ep + 1, h.seq⟩ →
      (∀ qp x, qp < 4096 → s.ctxLive x = true →
        exec (.qpbind h qp x) s = .next (answer { s with qps := s.qps.put qp x } 0 .none)) ∧
      (∀ i, firmwareOk i = true → exec (.fwload h i) s =
        .next (answer { s with lasting := { s.lasting with flash := some i } } 0 .none)) ∧
      (∀ i, firmwareOk i = false → exec (.fwload h i) s = .next (answer s 5 .none)) ∧
      exec (.keyroll h) s = .next (answer { s with lasting := { s.lasting with keyGen := s.lasting.keyGen + 1 } } 0
        (.keys (Config.publicKey (s.lasting.keyGen + 1)) (Config.sign s.lasting.keyGen (Config.publicKey (s.lasting.keyGen + 1))))) ∧
      (∀ off d, off + d.length ≤ 65536 → exec (.rootwr h off d) s =
        .next (answer (s.ctlWrite 4096 0 off d.length (natOf d)) 0 .none)) ∧
      (∀ i, i < 1024 → exec (.podidx h i) s = .next (answer { s with lasting := { s.lasting with podIdx := i } } 0 .none))) ∧
    (s.stage = .s2 →
      (∀ ch qp mode l a, 1 ≤ ch → ch < 4096 → qp < 4096 → mode ≤ 1 → (mode = 1 → 4 ≤ l ∧ l ≤ 16) →
        exec (.evset h ch qp mode l a) s = .next (answer { s with chans := s.chans.put ch ⟨qp, mode == 1, l, a, 0⟩ } 0 .none)) ∧
      (∀ qp l a, qp < 4096 → 4 ≤ l → l ≤ 16 →
        exec (.rootring h qp l a) s = .next (answer { s with rootRings := s.rootRings.put h.ep ⟨qp, true, l, a, 0⟩ } 0 .none))) ∧
    (∀ i, s.stage = .hold → s.sem = ⟨h.ep + 1, h.seq⟩ → firmwareOk i = true →
      exec (.fwload h i) s = .next (answer { s with running := some i, stage := .s1 } 0 .none)) ∧
    (s.stage = .s2 → ¬(s.sem.owner = h.ep + 1 ∧ s.sem.seq = h.seq) →
      let refused := Host.Outcome.next (answer s (if s.sem.owner ≠ 0 ∧ s.sem.owner ≠ h.ep + 1 then 1 else 2) .none)
      exec (.semrel h) s = refused ∧ (∀ qp x, exec (.qpbind h qp x) s = refused) ∧ (∀ i, exec (.fwload h i) s = refused) ∧
        exec (.keyroll h) s = refused ∧ (∀ off d, exec (.rootwr h off d) s = refused) ∧ (∀ i, exec (.podidx h i) s = refused) ∧
        (∀ k, exec (.ckpt h k) s = refused) ∧ ∀ k, exec (.ckptabort h k) s = refused)

/-- With the ports answering, an access through an unbound queue pair is answered by a NAK and changes nothing else; a
write through a bound one that meets no fault is performed in the context bound, stamped with its STEP; a read of what
can be read returns its bytes, or a NAK where some are poisoned; an unsupported request is answered by an invalid-
request NAK. -/
def Obligations.HostAccessResults : Prop :=
  ∀ (s : State) (qp : Nat), s.stage ≠ .off → s.stage ≠ .power →
    exec (.unsupportedRequest qp) s = .next (s.toHost (.nak qp true)) ∧
    (s.qps.get? qp = none → (∀ a d, exec (.rdmaWrite qp a d) s = .next (s.toHost (.nak qp false))) ∧
      ∀ a n, exec (.rdmaRead qp a n) s = .next (s.toHost (.nak qp false))) ∧
    (∀ x, s.qps.get? qp = some x → s.rdma.get? qp = none →
      (∀ a d s1, s.rdmaWr x a d (pieces a d.length) = (s1, none) →
        exec (.rdmaWrite qp a d) s = .next { s1 with rdma := s1.rdma.del qp }) ∧
      (∀ a n s1 bs, s.engRd x a n = .ok (s1, bs) →
        let m : HostMsg := if bs.any (·.2) then .nak qp false else .readData qp (bs.map (·.1))
        exec (.rdmaRead qp a n) s = .next { s1.toHost m with rdma := s1.rdma.del qp }))

/-- With the semaphore held at S2, a full CKPT of a stopped or halted context without operations begins one over the
whole of its space, and one of another context is refused with status 6 and code 7; an incremental one begins over its
slice's range at its version with a reference taken. CKPTABORT ends one with status 1, CKPT_COMPLETE, once no page is
left, with status 0, and REMOTE_NAK with status 2. The lease frees the semaphore unless a checkpoint of its owner is
in progress. -/
def Obligations.CheckpointResults : Prop :=
  ∀ (s : State) (h : CmdHdr) (k : CkptArgs),
    (s.stage = .s2 → h.ep < 2 → s.sem = ⟨h.ep + 1, h.seq⟩ → s.ctxLive k.ctx = true → k.qp < 4096 → s.ckpts.get? h.tag.toNat = none →
      (k.handle = 0 → ((s.ctx k.ctx).st = .stopped ∨ (s.ctx k.ctx).st = .halted) → s.opsOf k.ctx = 0 →
        let k1 : Ckpt := ⟨k.ctx, none, k.w, k.qp, k.base, k.list, h.ep, h.tag, 0, 2 ^ 36, 0, 0⟩
        exec (.ckpt h k) s = .next ({ s with ckpts := s.ckpts.put h.tag.toNat k1 }.toHost (.response h.ep h.tag 0 .none))) ∧
      (k.handle = 0 → (s.ctx k.ctx).st = .running →
        exec (.ckpt h k) s = .next (s.toHost (.response h.ep h.tag 6 (.code 7)))) ∧
      (∀ j x, k.handle ≠ 0 → s.sliceOf k.ctx k.handle = some (j, x) → x.refs ≠ 65535 →
        let s1 := (s.sliceCount k.ctx k.handle false true).2
        let k1 : Ckpt := ⟨k.ctx, some (k.handle.toNat, x.ver), k.w, k.qp, k.base, k.list, h.ep, h.tag, x.start, x.len, x.start, 0⟩
        exec (.ckpt h k) s = .next ({ s1 with ckpts := s1.ckpts.put h.tag.toNat k1 }.toHost (.response h.ep h.tag 0 .none)))) ∧
    (∀ n x, s.ckpts.get? n = some x →
      (s.stage = .s2 → h.ep < 2 → s.sem = ⟨h.ep + 1, h.seq⟩ →
        exec (.ckptabort h n) s = .next ((s.ckptEnd n x 1).toHost (.response h.ep h.tag 0 .none))) ∧
      (s.ckptLeft x = [] → exec (.ckptComplete n) s = .next (s.ckptEnd n x 0)) ∧
      exec (.remoteNak n) s = .next (s.ckptEnd n x 2)) ∧
    ((∀ e ∈ s.ckpts, e.2.ep + 1 ≠ s.sem.owner) → exec .semaphoreLeaseExpiry s = .next { s with sem := ⟨0, s.sem.seq⟩ })

/-- The stages follow each other from power-good; at S0 CLOCK starts at 0; S1 goes on where the firmware may run, else
holds, and leaves memory zero, every region direct and no die that has failed; S2 creates the root context, running at
depth 0 and PMODE 0 with the budgets of the whole package and the units of the dies present, and applies the pod
index; an event of another stage changes nothing. A die above its throttle temperature is marked until it is below it;
a trip halts the root and every context under it and asks for removal of power; without power only what is lasting
stays. -/
def Obligations.StartAndPowerResults : Prop :=
  ∀ (s : State),
    (s.stage = .off → exec .powerGood s = .next { s with stage := .power }) ∧
    (s.stage ≠ .off → exec .powerGood s = .next s) ∧
    (∀ p, s.stage = .power → exec (.stageS0Complete p) s = .next { s with stage := .s0, dies := p, now := 0 }) ∧
    (∀ p, s.stage ≠ .power → exec (.stageS0Complete p) s = .next s) ∧
    (∀ p ok, s.stage = .s0 → s.dies &&& p ≠ 0 → ∃ s' : State, exec (.stageS1Complete p ok) s = .next s' ∧
      s'.stage = (if ok && firmwareOk (s.lasting.flash.getD Config.bootFirmware) then .s1 else .hold) ∧ s'.dies = s.dies &&& p ∧ (∀ a, smGet s'.mem a = 0) ∧
      (∀ a, s'.poisoned a = false) ∧ ∀ r < 256, s'.regions.get? r = some ⟨2, 0, 0⟩) ∧
    (∀ p ok, s.stage ≠ .s0 → exec (.stageS1Complete p ok) s = .next s) ∧
    (∀ cfg, s.stage = .s1 → ∃ s' : State, exec (.stageS2Reached cfg) s = .next s' ∧ s'.stage = .s2 ∧ s'.fw = cfg ∧
      s'.podIdx = s.lasting.podIdx ∧ s'.dies = s.dies ∧ s'.mem = s.mem ∧
      let r := s'.ctx 0
      r.st = .running ∧ r.depth = 0 ∧ r.pmode = 0 ∧ r.frameq = 12582912 ∧ r.uaq = 65535 ∧ r.entq = 16383 ∧
      r.childmax = 4095 ∧ r.keymax = 4095 ∧ r.bww = 255 ∧ r.quantum = 0 ∧ r.savebase = 0 ∧ r.savesz = 0 ∧ r.poolbase = 0 ∧
      r.pooln = 0 ∧ r.own = rootUnits s.dies ∧
      (∀ n, (rootUnits s.dies).channels.getLsbD n = true ↔ n < 384 ∧ s.dies.getLsbD (n / 96) = true) ∧
      ∀ n, (rootUnits s.dies).copy.getLsbD n = true ↔ n < 16 ∧ s.dies.getLsbD (n / 4) = true) ∧
    (∀ cfg, s.stage ≠ .s1 → exec (.stageS2Reached cfg) s = .next s) ∧
    (∀ die : Nat, die < 4 → s.answers = true → s.dies.getLsbD die = true → ∃ s' : State, exec (.thermalThrottle die) s = .next s' ∧
      s'.hot = s.hot ||| BitVec.ofNat 4 (2 ^ die) ∧ s'.mem = s.mem ∧ s'.trays = s.trays ∧ s'.ctxs = s.ctxs) ∧
    (∀ die : Nat, exec (.belowThrottleTemperature die) s = .next { s with hot := s.hot &&& ~~~BitVec.ofNat 4 (2 ^ die) }) ∧
    (s.answers = true → ∃ s' : State, exec .thermalTrip s = .next s' ∧ HostMsg.powerOff ∈ s'.hostOut ∧
      s'.ctxs = (s.haltFor 0 4).ctxs ∧ s'.trays = (s.haltFor 0 4).trays ∧ s'.mem = s.mem) ∧
    (∃ s' : State, exec .powerLoss s = .next s' ∧ s'.lasting = s.lasting ∧ s'.stage = .off ∧ s'.mem = [] ∧ s'.ctxs = [] ∧
      s'.trays = [] ∧ s'.hostOut = s.hostOut)

/-- RDSR and WRSR of a number from 0x10 to 0x7F, WRSR of a register marked RO, and a 64-bit access whose scalar field
is odd raise a precise ILLEGAL trap and do nothing else. -/
def Obligations.SpecialRegisterNumbers : Prop :=
  ∀ (s : State) (c : Cur) (t : Tray), s.cur = some c → c.probe = false → s.trays.get? c.key = some t →
    (∀ d a : BitVec 7, 16 ≤ a.toNat → RaisesEarly s c (.rdsr d a) .illegal) ∧
    (∀ (a : BitVec 7) (b : SB), 16 ≤ a.toNat → RaisesEarly s c (.wrsr a b) .illegal) ∧
    (∀ (a : BitVec 7) (b : SB), a.toNat < 16 → a ≠ 8 → a ≠ 9 → a ≠ 12 → Issuing s c t (Instr.wrsr a b).opnds →
      RaisesEarly s c (.wrsr a b) .illegal) ∧
    (∀ d a : BitVec 7, a = 1 ∨ a = 12 ∨ a = 15 → d.toNat % 2 = 1 → RaisesEarly s c (.rdsr d a) .illegal) ∧
    (∀ k : BitVec 7, k.toNat % 2 = 1 → RaisesEarly s c (.wrsr 12 (.sreg k)) .illegal)

/-- Every instruction that has a word: with a register field that is out of range or misaligned it raises a precise
ILLEGAL trap; with a register that a result is still to land in it waits and changes nothing; and, if it issues to the
engine pipe, it waits and changes nothing while the core's replay window holds 64 commands. -/
def Obligations.IssueChecks : Prop :=
  ∀ (s : State) (c : Cur) (t : Tray) (i : Instr) (ws : Word × Word), encode i = some ws →
    s.cur = some c → c.probe = false → s.trays.get? c.key = some t →
    (s.replayFull (c.key / 32) = false → i.opnds.all Opnd.ok = false → RaisesEarly s c i .illegal) ∧
    (s.replayFull (c.key / 32) = false → i.opnds.all Opnd.ok = true → scoreboard (c.snap.getD t) c.path i.opnds = true →
      exec i s = .next s) ∧
    (64 ≤ s.replayCount (c.key / 32) → pipeOf ws.1 = .engine → exec i s = .next s)

/-- No word whose MAJ is 0x1C to 0x1F, 0x2A, 0x2B or 0x36 to 0x3F decodes, nor does one whose function Table 2.8 marks
reserved; a word that does not decode, issued alone, raises a precise ILLEGAL trap at itself and does nothing else. -/
def Obligations.WordsWithoutInstruction : Prop :=
  (∀ w lit : Word, (let m := w.toNat / 2 ^ 25 % 64
      28 ≤ m ∧ m ≤ 31 ∨ m = 42 ∨ m = 43 ∨ 54 ≤ m) → ∃ e, decode w lit = .error e) ∧
    (∀ w lit : Word, (let m := w.toNat / 2 ^ 25 % 64
      let f := w.toNat % 8
      (m = 1 ∧ f = 7) ∨ (m = 2 ∧ 5 ≤ f) ∨ (m = 9 ∧ 5 ≤ f) ∨ (m = 26 ∧ f = 7) ∨ (m = 41 ∧ 4 ≤ f) ∨
      (m = 49 ∧ 6 ≤ f) ∨ (m = 50 ∧ 4 ≤ f) ∨ (m = 52 ∧ 6 ≤ f) ∨ (m = 53 ∧ 5 ≤ f)) → ∃ e, decode w lit = .error e) ∧
    ∀ (s : State) (c : Cur) (t : Tray) (x : GWord) (e : DecodeError), decode x.w x.lit = .error e → c.probe = false →
      s.trays.get? c.key = some t →
      s.runAt c x = .next ({ s with cur := some c }.raise c.key c.path [.illegal] c.pc false none)

/-- A step in which nothing waits from outside and the schedule names a path that may issue performs the instruction
that the word at the path's PC decodes to, alone in its group, with the clocks advanced, the schedule one shorter, the
path a candidate anew and what the fetch brings held by the core; an event from outside that comes to a next state is
performed by the step that takes it. -/
def Obligations.StepRunsTheWord : Prop :=
  ∀ (s : State),
    (∀ (key path : Nat) (rest : List Nat) (t : Tray) (k : Word × Word × Word) (x : GWord) (after : Pc) (i : Instr),
      s.posts = [] → s.inbox = [] → s.sched = (2 * key + path) :: rest → path < 2 → s.trays.get? key = some t →
      t.mustTake = false → t.mayIssue path = true → t.live ≠ 0 → t.watch = false → (t.path path).single = false →
      let pc := (t.path path).pc
      let s1 := State.onTray { s.tick with sched := rest } key fun t => t.setPath path { t.path path with since := none }
      let s2 := s1.packetFill (key / 32) t.ctx pc
      s1.packet (key / 32) t.ctx pc = .ok k →
      ((t.path path).entry = false ∧ t.entryWord ≠ some pc ∨ s2.targetOk (key / 32) t.ctx pc = true) →
      mkGroup k pc false = ⟨[x], after, false⟩ → s2.pipeHeld key t ⟨[x], after, false⟩ = false → decode x.w x.lit = .ok i →
      step s = settled (exec i { s2 with cur := some (Cur.at key path x.pc after) })) ∧
    (∀ (e : Instr) (rest : List Instr) (s1 : State), s.posts = [] → s.inbox = e :: rest →
      exec e { s.tick with inbox := rest } = .next s1 → step s = .next { s1 with cur := none })

/-- For every instruction that has a word and every operand value, well-formed fields decode from the encoded words to
the instruction itself, or to the first row of its word for the rows that share one. -/
def Obligations.EncodeDecode : Prop :=
  ∀ (i : Instr) (w lit : Word), i.wf = true → encode i = some (w, lit) → decode w lit = .ok i.primary

/-- From every state whose memory and poison marks are in canonical form (addresses strictly rising, nothing listed
that reads as an unlisted address does), a step that comes to a next state comes to one in that form. -/
def Obligations.MemoryFormKept : Prop :=
  ∀ (s s' : State), s.memOk → step s = .next s' → s'.memOk

/-- Right after reset the package is without power, every byte of memory reads as zero (the model's choice for what
nothing has written, log entry 2; memory is zeroed at S1 before anything can read it), memory is in canonical form,
and a command of a host has no answer. -/
def Obligations.MemoryFormAtReset : Prop :=
  State.reset.memOk ∧ State.reset.stage = .off ∧ (∀ a, smGet State.reset.mem a = 0) ∧
    ∀ h : CmdHdr, exec (.identify h) State.reset = .next State.reset

/-- Words that the spec writes out decode to the instructions it gives for them: one for each of the scalar, float,
control, memory, mask, cross-lane, fence, copy, snapshot, matrix, collective, raster and launch families. -/
def Obligations.DecodedWords : Prop :=
  decode 0x08204008 0 = .ok (.saddI 8 8 1) ∧ decode 0x240401E2 0 = .ok (.fmulI 1 0 60) ∧
    decode 0x220C17F8 0x3DCCCCCD = .ok (.fadd 3 2 (.lit 0x3DCCCCCD)) ∧ decode 0x02240011 0 = .ok (.bz 9 2) ∧
    decode 0x00000001 0 = .ok .exit ∧ decode 0x01FF83E3 0 = .ok (.waitc 31 31 0 31) ∧ decode 0x40182200 0 = .ok (.ld 6 4 2 0 0) ∧
    decode 0x4E282714 0 = .ok (.red 10 4 7 0 20) ∧ decode 0x52000060 0 = .ok (.fence 0 3) ∧
    decode 0x36509806 0 = .ok (.redl 20 19 0 0) ∧ decode 0x58004060 0 = .ok (.cpy 8 (.sreg 12)) ∧
    decode 0x5C2207F8 6 = .ok (.snap 8 64 (.lit 6)) ∧ decode 0x5A0007FD 3 = .ok (.mzero (.lit 3)) ∧
    decode 0x6052121C 0 = .ok (.cwait 20 66 (.sreg 67)) ∧ decode 0x62084040 0 = .ok (.gemit 2 8 (.sreg 8)) ∧
    decode 0x6A221221 0 = .ok (.cont 8 66 (.sreg 68))
end

