-- ==== Sys2Proof/Laws/Maps.lean ====
section
/-!
SUPPORT. What the finite maps do: reading after a write, and the canonical form of the sparse maps.
-/

namespace Sys2Proof.Laws

open Sys2Proof.Machine

variable {α : Type} {w : Nat}

/-- Reading the key just put. -/
@[simp] theorem get_put_same (m : KMap α) (k : Nat) (v : α) : (m.put k v).get? k = some v := by
  induction m with
  | nil => simp [KMap.put, KMap.get?]
  | cons e r ih => obtain ⟨k', v'⟩ := e; unfold KMap.put; split_ifs <;> simp_all [KMap.get?]

/-- Reading another key than the one put. -/
theorem get_put_ne (m : KMap α) {k j : Nat} (v : α) (h : j ≠ k) : (m.put k v).get? j = m.get? j := by
  induction m with
  | nil => simp [KMap.put, KMap.get?, h]
  | cons e r ih => obtain ⟨k', v'⟩ := e; unfold KMap.put; split_ifs <;> simp_all [KMap.get?]

/-- Reading a map filtered by key. -/
theorem get_filter (m : KMap α) (p : Nat → Bool) (k : Nat) :
    KMap.get? (m.filter fun e => p e.1) k = if p k then m.get? k else none := by
  induction m with
  | nil => simp [KMap.get?]
  | cons e r ih =>
    obtain ⟨k', v'⟩ := e
    simp only [List.filter_cons, KMap.get?]
    by_cases hp : p k' <;> by_cases hk : k = k' <;> simp_all [KMap.get?]

/-- Reading a removed key. -/
@[simp] theorem get_del_same (m : KMap α) (k : Nat) : (m.del k).get? k = none := by
  have h := get_filter m (fun j => j != k) k
  simpa [KMap.del] using h

/-- Reading another key than the one removed. -/
theorem get_del_ne (m : KMap α) {k j : Nat} (h : j ≠ k) : (m.del k).get? j = m.get? j := by
  have e := get_filter m (fun i => i != k) j
  simpa [KMap.del, h] using e

/-- Changing the record under a key. -/
theorem get_upd (m : KMap α) (k j : Nat) (f : α → α) :
    (m.upd k f).get? j = if j = k then (m.get? k).map f else m.get? j := by
  unfold KMap.upd
  split
  · rename_i v hv
    by_cases h : j = k
    · subst h; simp [hv]
    · simp [h, get_put_ne]
  · rename_i hv
    by_cases h : j = k
    · subst h; simp [hv]
    · simp [h]

/-- Reading after two maps are joined. -/
theorem get_append (m n : KMap α) (k : Nat) : KMap.get? (m ++ n) k = (m.get? k).or (n.get? k) := by
  induction m with
  | nil => simp [KMap.get?]
  | cons e r ih => obtain ⟨k', v'⟩ := e; simp only [List.cons_append, KMap.get?]; split_ifs <;> simp [ih]

/-- Reading the key just written. -/
@[simp] theorem smGet_smSet_same (m : SMap w) (k : Nat) (v : BitVec w) : smGet (smSet m k v) k = v := by
  unfold smGet smSet
  split_ifs with h <;> simp [h]

/-- Reading another key than the one written. -/
theorem smGet_smSet_ne (m : SMap w) {k j : Nat} (v : BitVec w) (h : j ≠ k) : smGet (smSet m k v) j = smGet m j := by
  unfold smGet smSet
  split_ifs <;> simp [get_del_ne, get_put_ne, h]

/-- Reading a written table. -/
theorem smGet_smTab (lo n : Nat) (f : Nat → BitVec w) (k : Nat) :
    smGet (smTab lo n f) k = if lo ≤ k ∧ k < lo + n then f (k - lo) else 0 := by
  unfold smGet smTab
  induction n with
  | zero => simp [KMap.get?]
  | succ n ih =>
    rw [List.range_succ, List.filterMap_append, get_append]
    by_cases hz : f n = 0
    · simp only [List.filterMap_cons, hz, if_pos, List.filterMap_nil]
      simp only [KMap.get?, Option.or_none]
      rw [ih]
      by_cases h : lo ≤ k ∧ k < lo + n
      · rw [if_pos h, if_pos (by omega)]
      · rw [if_neg h]
        by_cases hk : k = lo + n
        · subst hk; simp [hz]
        · rw [if_neg (by omega)]
    · simp only [List.filterMap_cons, hz, if_neg, List.filterMap_nil, not_false_eq_true, KMap.get?]
      by_cases hk : k = lo + n
      · subst hk
        have : KMap.get? (List.filterMap (fun i => if f i = 0 then none else some (lo + i, f i)) (List.range n)) (lo + n) =
            none := by
          have hn : ∀ m : List (Nat × BitVec w), (∀ e ∈ m, e.1 ≠ lo + n) → KMap.get? m (lo + n) = none := by
            intro m
            induction m with
            | nil => intro _; rfl
            | cons e r ih2 =>
              intro he
              obtain ⟨k', v'⟩ := e
              have h1 := he (k', v') (by simp)
              simp only [KMap.get?]
              rw [if_neg (Ne.symm h1)]
              exact ih2 fun e he2 => he e (by simp [he2])
          apply hn
          intro e he
          simp only [List.mem_filterMap, List.mem_range] at he
          obtain ⟨i, hi, h2⟩ := he
          split_ifs at h2
          simp only [Option.some.injEq] at h2
          rw [← h2]
          simp only
          omega
        rw [this]; simp
      · simp only [if_neg hk, Option.or_none]
        rw [ih]
        by_cases h : lo ≤ k ∧ k < lo + n
        · rw [if_pos h, if_pos (by omega)]
        · rw [if_neg h, if_neg (by omega)]

/-- Reading after a fill: the new values inside, the old ones outside. -/
theorem smGet_smFill (m : SMap w) (lo n : Nat) (f : Nat → BitVec w) (k : Nat) :
    smGet (smFill m lo n f) k = if lo ≤ k ∧ k < lo + n then f (k - lo) else smGet m k := by
  have ht := smGet_smTab lo n f k
  unfold smGet at ht
  unfold smGet smFill
  rw [get_append, get_append]
  have h1 := get_filter m (fun j => decide (j < lo)) k
  have h2 := get_filter m (fun j => decide (lo + n ≤ j)) k
  rw [h1, h2]
  by_cases hin : lo ≤ k ∧ k < lo + n
  · rw [if_pos hin] at ht ⊢
    have a : ¬ k < lo := by omega
    have b : ¬ lo + n ≤ k := by omega
    simp only [a, b, decide_false, Bool.false_eq_true, if_false, Option.none_or, Option.or_none]
    exact ht
  · rw [if_neg hin] at ht ⊢
    have hnone : KMap.get? (smTab lo n f) k = none := by
      by_contra hc
      obtain ⟨v, hv⟩ := Option.ne_none_iff_exists'.mp hc
      have hmem : ∀ m : List (Nat × BitVec w), KMap.get? m k = some v → (k, v) ∈ m := by
        intro m
        induction m with
        | nil => intro h; simp [KMap.get?] at h
        | cons e r ih =>
          intro h
          obtain ⟨k', v'⟩ := e
          simp only [KMap.get?] at h
          split_ifs at h with hk
          · simp only [Option.some.injEq] at h; subst hk; subst h; simp
          · exact List.mem_cons_of_mem _ (ih h)
      have := hmem _ hv
      simp only [smTab, List.mem_filterMap, List.mem_range] at this
      obtain ⟨i, hi, h3⟩ := this
      split_ifs at h3
      simp only [Option.some.injEq, Prod.mk.injEq] at h3
      omega
    rw [hnone]
    by_cases a : k < lo
    · have b : ¬ lo + n ≤ k := by omega
      simp [a, b]
    · have b : lo + n ≤ k := by omega
      simp [a, b]

-- The canonical form

/-- The canonical form in other words: keys strictly rising, no listed value zero. -/
theorem smWf_iff (m : SMap w) : smWf m = true ↔ m.Pairwise (fun a b => a.1 < b.1) ∧ ∀ e ∈ m, e.2 ≠ 0 := by
  induction m with
  | nil => simp [smWf]
  | cons e r ih =>
    obtain ⟨k, v⟩ := e
    cases r with
    | nil => simp [smWf]
    | cons e' r' =>
      obtain ⟨k', v'⟩ := e'
      have hu : smWf ((k, v) :: (k', v') :: r') = (v != 0 && k < k' && smWf ((k', v') :: r')) := rfl
      rw [hu, Bool.and_eq_true, Bool.and_eq_true, ih, List.pairwise_cons]
      simp only [bne_iff_ne, ne_eq, decide_eq_true_eq, List.mem_cons, forall_eq_or_imp, List.pairwise_cons]
      constructor
      · rintro ⟨⟨hv, hk⟩, ⟨h1, h2⟩, h3, h4⟩
        exact ⟨⟨⟨hk, fun a ha => lt_trans hk (h1 a ha)⟩, h1, h2⟩, hv, h3, h4⟩
      · rintro ⟨⟨⟨hk, _⟩, h1, h2⟩, hv, h3, h4⟩
        exact ⟨⟨hv, hk⟩, ⟨h1, h2⟩, h3, h4⟩

/-- Removing a key keeps the form. -/
theorem smWf_del (m : SMap w) (k : Nat) (h : smWf m = true) : smWf (KMap.del m k) = true := by
  rw [smWf_iff] at h ⊢
  exact ⟨h.1.filter _, fun e he => h.2 e (List.mem_of_mem_filter he)⟩

/-- The entries of a map with an entry put. -/
theorem mem_put (m : KMap α) (k : Nat) (v : α) (e : Nat × α) (h : e ∈ m.put k v) : e = (k, v) ∨ e ∈ m := by
  induction m with
  | nil => simpa [KMap.put] using h
  | cons a r ih =>
    obtain ⟨k', v'⟩ := a
    unfold KMap.put at h
    split_ifs at h
    · simp only [List.mem_cons] at h ⊢; tauto
    · simp only [List.mem_cons] at h ⊢; tauto
    · simp only [List.mem_cons] at h ⊢
      rcases h with h | h
      · tauto
      · have := ih h; tauto

/-- Putting an entry keeps keys rising. -/
theorem pairwise_put (m : KMap α) (k : Nat) (v : α) (h : m.Pairwise (fun a b => a.1 < b.1)) :
    (m.put k v).Pairwise (fun a b => a.1 < b.1) := by
  induction m with
  | nil => simp [KMap.put]
  | cons a r ih =>
    obtain ⟨k', v'⟩ := a
    rw [List.pairwise_cons] at h
    unfold KMap.put
    split_ifs with h1 h2
    · subst h1; exact List.pairwise_cons.mpr ⟨h.1, h.2⟩
    · refine List.pairwise_cons.mpr ⟨?_, List.pairwise_cons.mpr ⟨h.1, h.2⟩⟩
      intro b hb
      rcases List.mem_cons.mp hb with rfl | hb
      · exact h2
      · exact lt_trans h2 (h.1 b hb)
    · refine List.pairwise_cons.mpr ⟨?_, ih h.2⟩
      intro b hb
      rcases mem_put r k v b hb with rfl | hb
      · simp only; omega
      · exact h.1 b hb

/-- Writing a key keeps the form. -/
theorem smWf_smSet (m : SMap w) (k : Nat) (v : BitVec w) (h : smWf m = true) : smWf (smSet m k v) = true := by
  unfold smSet
  split_ifs with hv
  · exact smWf_del m k h
  · rw [smWf_iff] at h ⊢
    refine ⟨pairwise_put m k v h.1, ?_⟩
    intro e he
    rcases mem_put m k v e he with rfl | he
    · exact hv
    · exact h.2 e he

/-- A written table is in the form, and its keys lie in its range. -/
theorem smTab_form (lo n : Nat) (f : Nat → BitVec w) :
    (smTab lo n f).Pairwise (fun a b => a.1 < b.1) ∧ ∀ e ∈ smTab lo n f, e.2 ≠ 0 ∧ lo ≤ e.1 ∧ e.1 < lo + n := by
  constructor
  · unfold smTab
    refine List.Pairwise.filterMap _ ?_ (List.pairwise_lt_range (n := n))
    intro a b hab c hc d hd
    split_ifs at hc hd
    simp only [Option.some.injEq] at hc hd
    subst hc; subst hd
    simp only
    omega
  · intro e he
    simp only [smTab, List.mem_filterMap, List.mem_range] at he
    obtain ⟨i, hi, h⟩ := he
    split_ifs at h with hz
    simp only [Option.some.injEq] at h
    subst h
    exact ⟨hz, by simp, by simp only; omega⟩

/-- Three parts of a map with rising keys, one after the other. -/
theorem smWf_three (a b c : SMap w) (lo hi : Nat) (ha : smWf a = true) (hb : smWf b = true) (hc : smWf c = true)
    (ha' : ∀ e ∈ a, e.1 < lo) (hb' : ∀ e ∈ b, lo ≤ e.1 ∧ e.1 < hi) (hc' : ∀ e ∈ c, hi ≤ e.1) (hlh : lo ≤ hi) :
    smWf (a ++ b ++ c) = true := by
  rw [smWf_iff] at *
  refine ⟨?_, ?_⟩
  · rw [List.pairwise_append, List.pairwise_append]
    refine ⟨⟨ha.1, hb.1, fun x hx y hy => ?_⟩, hc.1, fun x hx y hy => ?_⟩
    · have := ha' x hx; have := hb' y hy; omega
    · have h2 := hc' y hy
      rcases List.mem_append.mp hx with hx | hx
      · have := ha' x hx; omega
      · have := hb' x hx; omega
  · intro e he
    rcases List.mem_append.mp he with he | he
    · rcases List.mem_append.mp he with he | he
      · exact ha.2 e he
      · exact hb.2 e he
    · exact hc.2 e he

/-- Filtering keeps the form. -/
theorem smWf_filter (m : SMap w) (p : Nat × BitVec w → Bool) (h : smWf m = true) : smWf (m.filter p) = true := by
  rw [smWf_iff] at h ⊢
  exact ⟨h.1.filter _, fun e he => h.2 e (List.mem_of_mem_filter he)⟩

/-- A fill keeps the form. -/
theorem smWf_smFill (m : SMap w) (lo n : Nat) (f : Nat → BitVec w) (h : smWf m = true) :
    smWf (smFill m lo n f) = true := by
  have ht := smTab_form lo n f
  unfold smFill
  refine smWf_three _ _ _ lo (lo + n) (smWf_filter _ _ h) ?_ (smWf_filter _ _ h) ?_ ?_ ?_ (by omega)
  · rw [smWf_iff]; exact ⟨ht.1, fun e he => (ht.2 e he).1⟩
  · intro e he; simpa using (List.mem_filter.mp he).2
  · intro e he; exact (ht.2 e he).2
  · intro e he; simpa using (List.mem_filter.mp he).2

/-- A move keeps the form. -/
theorem smWf_smMove (m : SMap w) (src dst n : Nat) (h : smWf m = true) : smWf (smMove m src dst n) = true := by
  unfold smMove
  refine smWf_three _ _ _ dst (dst + n) (smWf_filter _ _ h) ?_ (smWf_filter _ _ h) ?_ ?_ ?_ (by omega)
  · rw [smWf_iff] at h ⊢
    refine ⟨?_, ?_⟩
    · rw [List.pairwise_map]
      refine (List.Pairwise.and_mem.mp (h.1.filter _)).imp ?_
      rintro a b ⟨ha, hb, hab⟩
      have h1 := (List.mem_filter.mp ha).2
      have h2 := (List.mem_filter.mp hb).2
      simp only [Bool.and_eq_true, decide_eq_true_eq] at h1 h2
      simp only
      omega
    · intro e he
      obtain ⟨x, hx, rfl⟩ := List.mem_map.mp he
      exact h.2 x (List.mem_of_mem_filter hx)
  · intro e he; simpa using (List.mem_filter.mp he).2
  · intro e he
    obtain ⟨x, hx, rfl⟩ := List.mem_map.mp he
    have h1 := (List.mem_filter.mp hx).2
    simp only [Bool.and_eq_true, decide_eq_true_eq] at h1
    simp only
    omega
  · intro e he; simpa using (List.mem_filter.mp he).2

/-- Filtering out a range keeps the form. -/
theorem smWf_cut (m : SMap w) (lo hi : Nat) (hlh : lo ≤ hi) (h : smWf m = true) :
    smWf ((m.filter fun e => e.1 < lo) ++ m.filter fun e => hi ≤ e.1) = true := by
  have := smWf_three (m.filter fun e => e.1 < lo) [] (m.filter fun e => hi ≤ e.1) lo hi (smWf_filter _ _ h) rfl
    (smWf_filter _ _ h) (fun e he => by simpa using (List.mem_filter.mp he).2) (by simp)
    (fun e he => by simpa using (List.mem_filter.mp he).2) hlh
  simpa using this

end Sys2Proof.Laws
end

