-- ==== Sys2Proof/Laws/State.lean ====
section
/-!
SUPPORT. One lemma per field and per update: what the named updates of the state and of a tray leave.
-/

namespace Sys2Proof.Laws

open Sys2Proof.Machine

@[simp] theorem setTray_stage (s : State) (key : Nat) (t : Tray) : (s.setTray key t).stage = s.stage := rfl
@[simp] theorem setTray_dies (s : State) (key : Nat) (t : Tray) : (s.setTray key t).dies = s.dies := rfl
@[simp] theorem setTray_down (s : State) (key : Nat) (t : Tray) : (s.setTray key t).down = s.down := rfl
@[simp] theorem setTray_now (s : State) (key : Nat) (t : Tray) : (s.setTray key t).now = s.now := rfl
@[simp] theorem setTray_ticks (s : State) (key : Nat) (t : Tray) : (s.setTray key t).ticks = s.ticks := rfl
@[simp] theorem setTray_mem (s : State) (key : Nat) (t : Tray) : (s.setTray key t).mem = s.mem := rfl
@[simp] theorem setTray_poison (s : State) (key : Nat) (t : Tray) : (s.setTray key t).poison = s.poison := rfl
@[simp] theorem setTray_regions (s : State) (key : Nat) (t : Tray) : (s.setTray key t).regions = s.regions := rfl
@[simp] theorem setTray_lines (s : State) (key : Nat) (t : Tray) : (s.setTray key t).lines = s.lines := rfl
@[simp] theorem setTray_cacheTick (s : State) (key : Nat) (t : Tray) : (s.setTray key t).cacheTick = s.cacheTick := rfl
@[simp] theorem setTray_prefetchers (s : State) (key : Nat) (t : Tray) : (s.setTray key t).prefetchers = s.prefetchers := rfl
@[simp] theorem setTray_agents (s : State) (key : Nat) (t : Tray) : (s.setTray key t).agents = s.agents := rfl
@[simp] theorem setTray_remoteKnown (s : State) (key : Nat) (t : Tray) : (s.setTray key t).remoteKnown = s.remoteKnown := rfl
@[simp] theorem setTray_ctxs (s : State) (key : Nat) (t : Tray) : (s.setTray key t).ctxs = s.ctxs := rfl
@[simp] theorem setTray_keys (s : State) (key : Nat) (t : Tray) : (s.setTray key t).keys = s.keys := rfl
@[simp] theorem setTray_qcbs (s : State) (key : Nat) (t : Tray) : (s.setTray key t).qcbs = s.qcbs := rfl
@[simp] theorem setTray_qwait (s : State) (key : Nat) (t : Tray) : (s.setTray key t).qwait = s.qwait := rfl
@[simp] theorem setTray_launches (s : State) (key : Nat) (t : Tray) : (s.setTray key t).launches = s.launches := rfl
@[simp] theorem setTray_launchGen (s : State) (key : Nat) (t : Tray) : (s.setTray key t).launchGen = s.launchGen := rfl
@[simp] theorem setTray_launchOrder (s : State) (key : Nat) (t : Tray) : (s.setTray key t).launchOrder = s.launchOrder := rfl
@[simp] theorem setTray_hier (s : State) (key : Nat) (t : Tray) : (s.setTray key t).hier = s.hier := rfl
@[simp] theorem setTray_windows (s : State) (key : Nat) (t : Tray) : (s.setTray key t).windows = s.windows := rfl
@[simp] theorem setTray_clusters (s : State) (key : Nat) (t : Tray) : (s.setTray key t).clusters = s.clusters := rfl
@[simp] theorem setTray_batches (s : State) (key : Nat) (t : Tray) : (s.setTray key t).batches = s.batches := rfl
@[simp] theorem setTray_ready (s : State) (key : Nat) (t : Tray) : (s.setTray key t).ready = s.ready := rfl
@[simp] theorem setTray_credits (s : State) (key : Nat) (t : Tray) : (s.setTray key t).credits = s.credits := rfl
@[simp] theorem setTray_nextId (s : State) (key : Nat) (t : Tray) : (s.setTray key t).nextId = s.nextId := rfl
@[simp] theorem setTray_cores (s : State) (key : Nat) (t : Tray) : (s.setTray key t).cores = s.cores := rfl
@[simp] theorem setTray_trays (s : State) (key : Nat) (t : Tray) : (s.setTray key t).trays = s.trays.put key t := rfl
@[simp] theorem setTray_ops (s : State) (key : Nat) (t : Tray) : (s.setTray key t).ops = s.ops := rfl
@[simp] theorem setTray_refusals (s : State) (key : Nat) (t : Tray) : (s.setTray key t).refusals = s.refusals := rfl
@[simp] theorem setTray_stackCounts (s : State) (key : Nat) (t : Tray) : (s.setTray key t).stackCounts = s.stackCounts := rfl
@[simp] theorem setTray_samplerCounts (s : State) (key : Nat) (t : Tray) : (s.setTray key t).samplerCounts = s.samplerCounts := rfl
@[simp] theorem setTray_trigs (s : State) (key : Nat) (t : Tray) : (s.setTray key t).trigs = s.trigs := rfl
@[simp] theorem setTray_posted (s : State) (key : Nat) (t : Tray) : (s.setTray key t).posted = s.posted := rfl
@[simp] theorem setTray_postedGen (s : State) (key : Nat) (t : Tray) : (s.setTray key t).postedGen = s.postedGen := rfl
@[simp] theorem setTray_podLoop (s : State) (key : Nat) (t : Tray) : (s.setTray key t).podLoop = s.podLoop := rfl
@[simp] theorem setTray_podOut (s : State) (key : Nat) (t : Tray) : (s.setTray key t).podOut = s.podOut := rfl
@[simp] theorem setTray_portsDown (s : State) (key : Nat) (t : Tray) : (s.setTray key t).portsDown = s.portsDown := rfl
@[simp] theorem setTray_passes (s : State) (key : Nat) (t : Tray) : (s.setTray key t).passes = s.passes := rfl
@[simp] theorem setTray_cur (s : State) (key : Nat) (t : Tray) : (s.setTray key t).cur = s.cur := rfl
@[simp] theorem setTray_inbox (s : State) (key : Nat) (t : Tray) : (s.setTray key t).inbox = s.inbox := rfl
@[simp] theorem setTray_sched (s : State) (key : Nat) (t : Tray) : (s.setTray key t).sched = s.sched := rfl
@[simp] theorem setTray_hostOut (s : State) (key : Nat) (t : Tray) : (s.setTray key t).hostOut = s.hostOut := rfl
@[simp] theorem setTray_posts (s : State) (key : Nat) (t : Tray) : (s.setTray key t).posts = s.posts := rfl
@[simp] theorem setTray_remoteOut (s : State) (key : Nat) (t : Tray) : (s.setTray key t).remoteOut = s.remoteOut := rfl
@[simp] theorem setTray_cows (s : State) (key : Nat) (t : Tray) : (s.setTray key t).cows = s.cows := rfl
@[simp] theorem setTray_records (s : State) (key : Nat) (t : Tray) : (s.setTray key t).records = s.records := rfl
@[simp] theorem setTray_reportTurns (s : State) (key : Nat) (t : Tray) : (s.setTray key t).reportTurns = s.reportTurns := rfl
@[simp] theorem setTray_sem (s : State) (key : Nat) (t : Tray) : (s.setTray key t).sem = s.sem := rfl
@[simp] theorem setTray_qps (s : State) (key : Nat) (t : Tray) : (s.setTray key t).qps = s.qps := rfl
@[simp] theorem setTray_rdma (s : State) (key : Nat) (t : Tray) : (s.setTray key t).rdma = s.rdma := rfl
@[simp] theorem setTray_chans (s : State) (key : Nat) (t : Tray) : (s.setTray key t).chans = s.chans := rfl
@[simp] theorem setTray_rootRings (s : State) (key : Nat) (t : Tray) : (s.setTray key t).rootRings = s.rootRings := rfl
@[simp] theorem setTray_ckpts (s : State) (key : Nat) (t : Tray) : (s.setTray key t).ckpts = s.ckpts := rfl
@[simp] theorem setTray_running (s : State) (key : Nat) (t : Tray) : (s.setTray key t).running = s.running := rfl
@[simp] theorem setTray_podIdx (s : State) (key : Nat) (t : Tray) : (s.setTray key t).podIdx = s.podIdx := rfl
@[simp] theorem setTray_hot (s : State) (key : Nat) (t : Tray) : (s.setTray key t).hot = s.hot := rfl
@[simp] theorem setTray_lasting (s : State) (key : Nat) (t : Tray) : (s.setTray key t).lasting = s.lasting := rfl
@[simp] theorem setTray_fw (s : State) (key : Nat) (t : Tray) : (s.setTray key t).fw = s.fw := rfl

@[simp] theorem onTray_stage (s : State) (key : Nat) (f : Tray → Tray) : (s.onTray key f).stage = s.stage := rfl
@[simp] theorem onTray_dies (s : State) (key : Nat) (f : Tray → Tray) : (s.onTray key f).dies = s.dies := rfl
@[simp] theorem onTray_down (s : State) (key : Nat) (f : Tray → Tray) : (s.onTray key f).down = s.down := rfl
@[simp] theorem onTray_now (s : State) (key : Nat) (f : Tray → Tray) : (s.onTray key f).now = s.now := rfl
@[simp] theorem onTray_ticks (s : State) (key : Nat) (f : Tray → Tray) : (s.onTray key f).ticks = s.ticks := rfl
@[simp] theorem onTray_mem (s : State) (key : Nat) (f : Tray → Tray) : (s.onTray key f).mem = s.mem := rfl
@[simp] theorem onTray_poison (s : State) (key : Nat) (f : Tray → Tray) : (s.onTray key f).poison = s.poison := rfl
@[simp] theorem onTray_regions (s : State) (key : Nat) (f : Tray → Tray) : (s.onTray key f).regions = s.regions := rfl
@[simp] theorem onTray_lines (s : State) (key : Nat) (f : Tray → Tray) : (s.onTray key f).lines = s.lines := rfl
@[simp] theorem onTray_cacheTick (s : State) (key : Nat) (f : Tray → Tray) : (s.onTray key f).cacheTick = s.cacheTick := rfl
@[simp] theorem onTray_prefetchers (s : State) (key : Nat) (f : Tray → Tray) : (s.onTray key f).prefetchers = s.prefetchers := rfl
@[simp] theorem onTray_agents (s : State) (key : Nat) (f : Tray → Tray) : (s.onTray key f).agents = s.agents := rfl
@[simp] theorem onTray_remoteKnown (s : State) (key : Nat) (f : Tray → Tray) : (s.onTray key f).remoteKnown = s.remoteKnown := rfl
@[simp] theorem onTray_ctxs (s : State) (key : Nat) (f : Tray → Tray) : (s.onTray key f).ctxs = s.ctxs := rfl
@[simp] theorem onTray_keys (s : State) (key : Nat) (f : Tray → Tray) : (s.onTray key f).keys = s.keys := rfl
@[simp] theorem onTray_qcbs (s : State) (key : Nat) (f : Tray → Tray) : (s.onTray key f).qcbs = s.qcbs := rfl
@[simp] theorem onTray_qwait (s : State) (key : Nat) (f : Tray → Tray) : (s.onTray key f).qwait = s.qwait := rfl
@[simp] theorem onTray_launches (s : State) (key : Nat) (f : Tray → Tray) : (s.onTray key f).launches = s.launches := rfl
@[simp] theorem onTray_launchGen (s : State) (key : Nat) (f : Tray → Tray) : (s.onTray key f).launchGen = s.launchGen := rfl
@[simp] theorem onTray_launchOrder (s : State) (key : Nat) (f : Tray → Tray) : (s.onTray key f).launchOrder = s.launchOrder := rfl
@[simp] theorem onTray_hier (s : State) (key : Nat) (f : Tray → Tray) : (s.onTray key f).hier = s.hier := rfl
@[simp] theorem onTray_windows (s : State) (key : Nat) (f : Tray → Tray) : (s.onTray key f).windows = s.windows := rfl
@[simp] theorem onTray_clusters (s : State) (key : Nat) (f : Tray → Tray) : (s.onTray key f).clusters = s.clusters := rfl
@[simp] theorem onTray_batches (s : State) (key : Nat) (f : Tray → Tray) : (s.onTray key f).batches = s.batches := rfl
@[simp] theorem onTray_ready (s : State) (key : Nat) (f : Tray → Tray) : (s.onTray key f).ready = s.ready := rfl
@[simp] theorem onTray_credits (s : State) (key : Nat) (f : Tray → Tray) : (s.onTray key f).credits = s.credits := rfl
@[simp] theorem onTray_nextId (s : State) (key : Nat) (f : Tray → Tray) : (s.onTray key f).nextId = s.nextId := rfl
@[simp] theorem onTray_cores (s : State) (key : Nat) (f : Tray → Tray) : (s.onTray key f).cores = s.cores := rfl
@[simp] theorem onTray_trays (s : State) (key : Nat) (f : Tray → Tray) : (s.onTray key f).trays = s.trays.upd key f := rfl
@[simp] theorem onTray_ops (s : State) (key : Nat) (f : Tray → Tray) : (s.onTray key f).ops = s.ops := rfl
@[simp] theorem onTray_refusals (s : State) (key : Nat) (f : Tray → Tray) : (s.onTray key f).refusals = s.refusals := rfl
@[simp] theorem onTray_stackCounts (s : State) (key : Nat) (f : Tray → Tray) : (s.onTray key f).stackCounts = s.stackCounts := rfl
@[simp] theorem onTray_samplerCounts (s : State) (key : Nat) (f : Tray → Tray) : (s.onTray key f).samplerCounts = s.samplerCounts := rfl
@[simp] theorem onTray_trigs (s : State) (key : Nat) (f : Tray → Tray) : (s.onTray key f).trigs = s.trigs := rfl
@[simp] theorem onTray_posted (s : State) (key : Nat) (f : Tray → Tray) : (s.onTray key f).posted = s.posted := rfl
@[simp] theorem onTray_postedGen (s : State) (key : Nat) (f : Tray → Tray) : (s.onTray key f).postedGen = s.postedGen := rfl
@[simp] theorem onTray_podLoop (s : State) (key : Nat) (f : Tray → Tray) : (s.onTray key f).podLoop = s.podLoop := rfl
@[simp] theorem onTray_podOut (s : State) (key : Nat) (f : Tray → Tray) : (s.onTray key f).podOut = s.podOut := rfl
@[simp] theorem onTray_portsDown (s : State) (key : Nat) (f : Tray → Tray) : (s.onTray key f).portsDown = s.portsDown := rfl
@[simp] theorem onTray_passes (s : State) (key : Nat) (f : Tray → Tray) : (s.onTray key f).passes = s.passes := rfl
@[simp] theorem onTray_cur (s : State) (key : Nat) (f : Tray → Tray) : (s.onTray key f).cur = s.cur := rfl
@[simp] theorem onTray_inbox (s : State) (key : Nat) (f : Tray → Tray) : (s.onTray key f).inbox = s.inbox := rfl
@[simp] theorem onTray_sched (s : State) (key : Nat) (f : Tray → Tray) : (s.onTray key f).sched = s.sched := rfl
@[simp] theorem onTray_hostOut (s : State) (key : Nat) (f : Tray → Tray) : (s.onTray key f).hostOut = s.hostOut := rfl
@[simp] theorem onTray_posts (s : State) (key : Nat) (f : Tray → Tray) : (s.onTray key f).posts = s.posts := rfl
@[simp] theorem onTray_remoteOut (s : State) (key : Nat) (f : Tray → Tray) : (s.onTray key f).remoteOut = s.remoteOut := rfl
@[simp] theorem onTray_cows (s : State) (key : Nat) (f : Tray → Tray) : (s.onTray key f).cows = s.cows := rfl
@[simp] theorem onTray_records (s : State) (key : Nat) (f : Tray → Tray) : (s.onTray key f).records = s.records := rfl
@[simp] theorem onTray_reportTurns (s : State) (key : Nat) (f : Tray → Tray) : (s.onTray key f).reportTurns = s.reportTurns := rfl
@[simp] theorem onTray_sem (s : State) (key : Nat) (f : Tray → Tray) : (s.onTray key f).sem = s.sem := rfl
@[simp] theorem onTray_qps (s : State) (key : Nat) (f : Tray → Tray) : (s.onTray key f).qps = s.qps := rfl
@[simp] theorem onTray_rdma (s : State) (key : Nat) (f : Tray → Tray) : (s.onTray key f).rdma = s.rdma := rfl
@[simp] theorem onTray_chans (s : State) (key : Nat) (f : Tray → Tray) : (s.onTray key f).chans = s.chans := rfl
@[simp] theorem onTray_rootRings (s : State) (key : Nat) (f : Tray → Tray) : (s.onTray key f).rootRings = s.rootRings := rfl
@[simp] theorem onTray_ckpts (s : State) (key : Nat) (f : Tray → Tray) : (s.onTray key f).ckpts = s.ckpts := rfl
@[simp] theorem onTray_running (s : State) (key : Nat) (f : Tray → Tray) : (s.onTray key f).running = s.running := rfl
@[simp] theorem onTray_podIdx (s : State) (key : Nat) (f : Tray → Tray) : (s.onTray key f).podIdx = s.podIdx := rfl
@[simp] theorem onTray_hot (s : State) (key : Nat) (f : Tray → Tray) : (s.onTray key f).hot = s.hot := rfl
@[simp] theorem onTray_lasting (s : State) (key : Nat) (f : Tray → Tray) : (s.onTray key f).lasting = s.lasting := rfl
@[simp] theorem onTray_fw (s : State) (key : Nat) (f : Tray → Tray) : (s.onTray key f).fw = s.fw := rfl

@[simp] theorem onCtx_stage (s : State) (c : Nat) (f : Ctx → Ctx) : (s.onCtx c f).stage = s.stage := rfl
@[simp] theorem onCtx_dies (s : State) (c : Nat) (f : Ctx → Ctx) : (s.onCtx c f).dies = s.dies := rfl
@[simp] theorem onCtx_down (s : State) (c : Nat) (f : Ctx → Ctx) : (s.onCtx c f).down = s.down := rfl
@[simp] theorem onCtx_now (s : State) (c : Nat) (f : Ctx → Ctx) : (s.onCtx c f).now = s.now := rfl
@[simp] theorem onCtx_ticks (s : State) (c : Nat) (f : Ctx → Ctx) : (s.onCtx c f).ticks = s.ticks := rfl
@[simp] theorem onCtx_mem (s : State) (c : Nat) (f : Ctx → Ctx) : (s.onCtx c f).mem = s.mem := rfl
@[simp] theorem onCtx_poison (s : State) (c : Nat) (f : Ctx → Ctx) : (s.onCtx c f).poison = s.poison := rfl
@[simp] theorem onCtx_regions (s : State) (c : Nat) (f : Ctx → Ctx) : (s.onCtx c f).regions = s.regions := rfl
@[simp] theorem onCtx_lines (s : State) (c : Nat) (f : Ctx → Ctx) : (s.onCtx c f).lines = s.lines := rfl
@[simp] theorem onCtx_cacheTick (s : State) (c : Nat) (f : Ctx → Ctx) : (s.onCtx c f).cacheTick = s.cacheTick := rfl
@[simp] theorem onCtx_prefetchers (s : State) (c : Nat) (f : Ctx → Ctx) : (s.onCtx c f).prefetchers = s.prefetchers := rfl
@[simp] theorem onCtx_agents (s : State) (c : Nat) (f : Ctx → Ctx) : (s.onCtx c f).agents = s.agents := rfl
@[simp] theorem onCtx_remoteKnown (s : State) (c : Nat) (f : Ctx → Ctx) : (s.onCtx c f).remoteKnown = s.remoteKnown := rfl
@[simp] theorem onCtx_ctxs (s : State) (c : Nat) (f : Ctx → Ctx) : (s.onCtx c f).ctxs = s.ctxs.upd c f := rfl
@[simp] theorem onCtx_keys (s : State) (c : Nat) (f : Ctx → Ctx) : (s.onCtx c f).keys = s.keys := rfl
@[simp] theorem onCtx_qcbs (s : State) (c : Nat) (f : Ctx → Ctx) : (s.onCtx c f).qcbs = s.qcbs := rfl
@[simp] theorem onCtx_qwait (s : State) (c : Nat) (f : Ctx → Ctx) : (s.onCtx c f).qwait = s.qwait := rfl
@[simp] theorem onCtx_launches (s : State) (c : Nat) (f : Ctx → Ctx) : (s.onCtx c f).launches = s.launches := rfl
@[simp] theorem onCtx_launchGen (s : State) (c : Nat) (f : Ctx → Ctx) : (s.onCtx c f).launchGen = s.launchGen := rfl
@[simp] theorem onCtx_launchOrder (s : State) (c : Nat) (f : Ctx → Ctx) : (s.onCtx c f).launchOrder = s.launchOrder := rfl
@[simp] theorem onCtx_hier (s : State) (c : Nat) (f : Ctx → Ctx) : (s.onCtx c f).hier = s.hier := rfl
@[simp] theorem onCtx_windows (s : State) (c : Nat) (f : Ctx → Ctx) : (s.onCtx c f).windows = s.windows := rfl
@[simp] theorem onCtx_clusters (s : State) (c : Nat) (f : Ctx → Ctx) : (s.onCtx c f).clusters = s.clusters := rfl
@[simp] theorem onCtx_batches (s : State) (c : Nat) (f : Ctx → Ctx) : (s.onCtx c f).batches = s.batches := rfl
@[simp] theorem onCtx_ready (s : State) (c : Nat) (f : Ctx → Ctx) : (s.onCtx c f).ready = s.ready := rfl
@[simp] theorem onCtx_credits (s : State) (c : Nat) (f : Ctx → Ctx) : (s.onCtx c f).credits = s.credits := rfl
@[simp] theorem onCtx_nextId (s : State) (c : Nat) (f : Ctx → Ctx) : (s.onCtx c f).nextId = s.nextId := rfl
@[simp] theorem onCtx_cores (s : State) (c : Nat) (f : Ctx → Ctx) : (s.onCtx c f).cores = s.cores := rfl
@[simp] theorem onCtx_trays (s : State) (c : Nat) (f : Ctx → Ctx) : (s.onCtx c f).trays = s.trays := rfl
@[simp] theorem onCtx_ops (s : State) (c : Nat) (f : Ctx → Ctx) : (s.onCtx c f).ops = s.ops := rfl
@[simp] theorem onCtx_refusals (s : State) (c : Nat) (f : Ctx → Ctx) : (s.onCtx c f).refusals = s.refusals := rfl
@[simp] theorem onCtx_stackCounts (s : State) (c : Nat) (f : Ctx → Ctx) : (s.onCtx c f).stackCounts = s.stackCounts := rfl
@[simp] theorem onCtx_samplerCounts (s : State) (c : Nat) (f : Ctx → Ctx) : (s.onCtx c f).samplerCounts = s.samplerCounts := rfl
@[simp] theorem onCtx_trigs (s : State) (c : Nat) (f : Ctx → Ctx) : (s.onCtx c f).trigs = s.trigs := rfl
@[simp] theorem onCtx_posted (s : State) (c : Nat) (f : Ctx → Ctx) : (s.onCtx c f).posted = s.posted := rfl
@[simp] theorem onCtx_postedGen (s : State) (c : Nat) (f : Ctx → Ctx) : (s.onCtx c f).postedGen = s.postedGen := rfl
@[simp] theorem onCtx_podLoop (s : State) (c : Nat) (f : Ctx → Ctx) : (s.onCtx c f).podLoop = s.podLoop := rfl
@[simp] theorem onCtx_podOut (s : State) (c : Nat) (f : Ctx → Ctx) : (s.onCtx c f).podOut = s.podOut := rfl
@[simp] theorem onCtx_portsDown (s : State) (c : Nat) (f : Ctx → Ctx) : (s.onCtx c f).portsDown = s.portsDown := rfl
@[simp] theorem onCtx_passes (s : State) (c : Nat) (f : Ctx → Ctx) : (s.onCtx c f).passes = s.passes := rfl
@[simp] theorem onCtx_cur (s : State) (c : Nat) (f : Ctx → Ctx) : (s.onCtx c f).cur = s.cur := rfl
@[simp] theorem onCtx_inbox (s : State) (c : Nat) (f : Ctx → Ctx) : (s.onCtx c f).inbox = s.inbox := rfl
@[simp] theorem onCtx_sched (s : State) (c : Nat) (f : Ctx → Ctx) : (s.onCtx c f).sched = s.sched := rfl
@[simp] theorem onCtx_hostOut (s : State) (c : Nat) (f : Ctx → Ctx) : (s.onCtx c f).hostOut = s.hostOut := rfl
@[simp] theorem onCtx_posts (s : State) (c : Nat) (f : Ctx → Ctx) : (s.onCtx c f).posts = s.posts := rfl
@[simp] theorem onCtx_remoteOut (s : State) (c : Nat) (f : Ctx → Ctx) : (s.onCtx c f).remoteOut = s.remoteOut := rfl
@[simp] theorem onCtx_cows (s : State) (c : Nat) (f : Ctx → Ctx) : (s.onCtx c f).cows = s.cows := rfl
@[simp] theorem onCtx_records (s : State) (c : Nat) (f : Ctx → Ctx) : (s.onCtx c f).records = s.records := rfl
@[simp] theorem onCtx_reportTurns (s : State) (c : Nat) (f : Ctx → Ctx) : (s.onCtx c f).reportTurns = s.reportTurns := rfl
@[simp] theorem onCtx_sem (s : State) (c : Nat) (f : Ctx → Ctx) : (s.onCtx c f).sem = s.sem := rfl
@[simp] theorem onCtx_qps (s : State) (c : Nat) (f : Ctx → Ctx) : (s.onCtx c f).qps = s.qps := rfl
@[simp] theorem onCtx_rdma (s : State) (c : Nat) (f : Ctx → Ctx) : (s.onCtx c f).rdma = s.rdma := rfl
@[simp] theorem onCtx_chans (s : State) (c : Nat) (f : Ctx → Ctx) : (s.onCtx c f).chans = s.chans := rfl
@[simp] theorem onCtx_rootRings (s : State) (c : Nat) (f : Ctx → Ctx) : (s.onCtx c f).rootRings = s.rootRings := rfl
@[simp] theorem onCtx_ckpts (s : State) (c : Nat) (f : Ctx → Ctx) : (s.onCtx c f).ckpts = s.ckpts := rfl
@[simp] theorem onCtx_running (s : State) (c : Nat) (f : Ctx → Ctx) : (s.onCtx c f).running = s.running := rfl
@[simp] theorem onCtx_podIdx (s : State) (c : Nat) (f : Ctx → Ctx) : (s.onCtx c f).podIdx = s.podIdx := rfl
@[simp] theorem onCtx_hot (s : State) (c : Nat) (f : Ctx → Ctx) : (s.onCtx c f).hot = s.hot := rfl
@[simp] theorem onCtx_lasting (s : State) (c : Nat) (f : Ctx → Ctx) : (s.onCtx c f).lasting = s.lasting := rfl
@[simp] theorem onCtx_fw (s : State) (c : Nat) (f : Ctx → Ctx) : (s.onCtx c f).fw = s.fw := rfl

@[simp] theorem onCore_stage (s : State) (k : Nat) (f : Core → Core) : (s.onCore k f).stage = s.stage := rfl
@[simp] theorem onCore_dies (s : State) (k : Nat) (f : Core → Core) : (s.onCore k f).dies = s.dies := rfl
@[simp] theorem onCore_down (s : State) (k : Nat) (f : Core → Core) : (s.onCore k f).down = s.down := rfl
@[simp] theorem onCore_now (s : State) (k : Nat) (f : Core → Core) : (s.onCore k f).now = s.now := rfl
@[simp] theorem onCore_ticks (s : State) (k : Nat) (f : Core → Core) : (s.onCore k f).ticks = s.ticks := rfl
@[simp] theorem onCore_mem (s : State) (k : Nat) (f : Core → Core) : (s.onCore k f).mem = s.mem := rfl
@[simp] theorem onCore_poison (s : State) (k : Nat) (f : Core → Core) : (s.onCore k f).poison = s.poison := rfl
@[simp] theorem onCore_regions (s : State) (k : Nat) (f : Core → Core) : (s.onCore k f).regions = s.regions := rfl
@[simp] theorem onCore_lines (s : State) (k : Nat) (f : Core → Core) : (s.onCore k f).lines = s.lines := rfl
@[simp] theorem onCore_cacheTick (s : State) (k : Nat) (f : Core → Core) : (s.onCore k f).cacheTick = s.cacheTick := rfl
@[simp] theorem onCore_prefetchers (s : State) (k : Nat) (f : Core → Core) : (s.onCore k f).prefetchers = s.prefetchers := rfl
@[simp] theorem onCore_agents (s : State) (k : Nat) (f : Core → Core) : (s.onCore k f).agents = s.agents := rfl
@[simp] theorem onCore_remoteKnown (s : State) (k : Nat) (f : Core → Core) : (s.onCore k f).remoteKnown = s.remoteKnown := rfl
@[simp] theorem onCore_ctxs (s : State) (k : Nat) (f : Core → Core) : (s.onCore k f).ctxs = s.ctxs := rfl
@[simp] theorem onCore_keys (s : State) (k : Nat) (f : Core → Core) : (s.onCore k f).keys = s.keys := rfl
@[simp] theorem onCore_qcbs (s : State) (k : Nat) (f : Core → Core) : (s.onCore k f).qcbs = s.qcbs := rfl
@[simp] theorem onCore_qwait (s : State) (k : Nat) (f : Core → Core) : (s.onCore k f).qwait = s.qwait := rfl
@[simp] theorem onCore_launches (s : State) (k : Nat) (f : Core → Core) : (s.onCore k f).launches = s.launches := rfl
@[simp] theorem onCore_launchGen (s : State) (k : Nat) (f : Core → Core) : (s.onCore k f).launchGen = s.launchGen := rfl
@[simp] theorem onCore_launchOrder (s : State) (k : Nat) (f : Core → Core) : (s.onCore k f).launchOrder = s.launchOrder := rfl
@[simp] theorem onCore_hier (s : State) (k : Nat) (f : Core → Core) : (s.onCore k f).hier = s.hier := rfl
@[simp] theorem onCore_windows (s : State) (k : Nat) (f : Core → Core) : (s.onCore k f).windows = s.windows := rfl
@[simp] theorem onCore_clusters (s : State) (k : Nat) (f : Core → Core) : (s.onCore k f).clusters = s.clusters := rfl
@[simp] theorem onCore_batches (s : State) (k : Nat) (f : Core → Core) : (s.onCore k f).batches = s.batches := rfl
@[simp] theorem onCore_ready (s : State) (k : Nat) (f : Core → Core) : (s.onCore k f).ready = s.ready := rfl
@[simp] theorem onCore_credits (s : State) (k : Nat) (f : Core → Core) : (s.onCore k f).credits = s.credits := rfl
@[simp] theorem onCore_nextId (s : State) (k : Nat) (f : Core → Core) : (s.onCore k f).nextId = s.nextId := rfl
@[simp] theorem onCore_cores (s : State) (k : Nat) (f : Core → Core) : (s.onCore k f).cores = s.cores.upd k f := rfl
@[simp] theorem onCore_trays (s : State) (k : Nat) (f : Core → Core) : (s.onCore k f).trays = s.trays := rfl
@[simp] theorem onCore_ops (s : State) (k : Nat) (f : Core → Core) : (s.onCore k f).ops = s.ops := rfl
@[simp] theorem onCore_refusals (s : State) (k : Nat) (f : Core → Core) : (s.onCore k f).refusals = s.refusals := rfl
@[simp] theorem onCore_stackCounts (s : State) (k : Nat) (f : Core → Core) : (s.onCore k f).stackCounts = s.stackCounts := rfl
@[simp] theorem onCore_samplerCounts (s : State) (k : Nat) (f : Core → Core) : (s.onCore k f).samplerCounts = s.samplerCounts := rfl
@[simp] theorem onCore_trigs (s : State) (k : Nat) (f : Core → Core) : (s.onCore k f).trigs = s.trigs := rfl
@[simp] theorem onCore_posted (s : State) (k : Nat) (f : Core → Core) : (s.onCore k f).posted = s.posted := rfl
@[simp] theorem onCore_postedGen (s : State) (k : Nat) (f : Core → Core) : (s.onCore k f).postedGen = s.postedGen := rfl
@[simp] theorem onCore_podLoop (s : State) (k : Nat) (f : Core → Core) : (s.onCore k f).podLoop = s.podLoop := rfl
@[simp] theorem onCore_podOut (s : State) (k : Nat) (f : Core → Core) : (s.onCore k f).podOut = s.podOut := rfl
@[simp] theorem onCore_portsDown (s : State) (k : Nat) (f : Core → Core) : (s.onCore k f).portsDown = s.portsDown := rfl
@[simp] theorem onCore_passes (s : State) (k : Nat) (f : Core → Core) : (s.onCore k f).passes = s.passes := rfl
@[simp] theorem onCore_cur (s : State) (k : Nat) (f : Core → Core) : (s.onCore k f).cur = s.cur := rfl
@[simp] theorem onCore_inbox (s : State) (k : Nat) (f : Core → Core) : (s.onCore k f).inbox = s.inbox := rfl
@[simp] theorem onCore_sched (s : State) (k : Nat) (f : Core → Core) : (s.onCore k f).sched = s.sched := rfl
@[simp] theorem onCore_hostOut (s : State) (k : Nat) (f : Core → Core) : (s.onCore k f).hostOut = s.hostOut := rfl
@[simp] theorem onCore_posts (s : State) (k : Nat) (f : Core → Core) : (s.onCore k f).posts = s.posts := rfl
@[simp] theorem onCore_remoteOut (s : State) (k : Nat) (f : Core → Core) : (s.onCore k f).remoteOut = s.remoteOut := rfl
@[simp] theorem onCore_cows (s : State) (k : Nat) (f : Core → Core) : (s.onCore k f).cows = s.cows := rfl
@[simp] theorem onCore_records (s : State) (k : Nat) (f : Core → Core) : (s.onCore k f).records = s.records := rfl
@[simp] theorem onCore_reportTurns (s : State) (k : Nat) (f : Core → Core) : (s.onCore k f).reportTurns = s.reportTurns := rfl
@[simp] theorem onCore_sem (s : State) (k : Nat) (f : Core → Core) : (s.onCore k f).sem = s.sem := rfl
@[simp] theorem onCore_qps (s : State) (k : Nat) (f : Core → Core) : (s.onCore k f).qps = s.qps := rfl
@[simp] theorem onCore_rdma (s : State) (k : Nat) (f : Core → Core) : (s.onCore k f).rdma = s.rdma := rfl
@[simp] theorem onCore_chans (s : State) (k : Nat) (f : Core → Core) : (s.onCore k f).chans = s.chans := rfl
@[simp] theorem onCore_rootRings (s : State) (k : Nat) (f : Core → Core) : (s.onCore k f).rootRings = s.rootRings := rfl
@[simp] theorem onCore_ckpts (s : State) (k : Nat) (f : Core → Core) : (s.onCore k f).ckpts = s.ckpts := rfl
@[simp] theorem onCore_running (s : State) (k : Nat) (f : Core → Core) : (s.onCore k f).running = s.running := rfl
@[simp] theorem onCore_podIdx (s : State) (k : Nat) (f : Core → Core) : (s.onCore k f).podIdx = s.podIdx := rfl
@[simp] theorem onCore_hot (s : State) (k : Nat) (f : Core → Core) : (s.onCore k f).hot = s.hot := rfl
@[simp] theorem onCore_lasting (s : State) (k : Nat) (f : Core → Core) : (s.onCore k f).lasting = s.lasting := rfl
@[simp] theorem onCore_fw (s : State) (k : Nat) (f : Core → Core) : (s.onCore k f).fw = s.fw := rfl

@[simp] theorem wrBytes_stage (s : State) (pa : Nat) (bs : List Byte) : (s.wrBytes pa bs).stage = s.stage := rfl
@[simp] theorem wrBytes_dies (s : State) (pa : Nat) (bs : List Byte) : (s.wrBytes pa bs).dies = s.dies := rfl
@[simp] theorem wrBytes_down (s : State) (pa : Nat) (bs : List Byte) : (s.wrBytes pa bs).down = s.down := rfl
@[simp] theorem wrBytes_now (s : State) (pa : Nat) (bs : List Byte) : (s.wrBytes pa bs).now = s.now := rfl
@[simp] theorem wrBytes_ticks (s : State) (pa : Nat) (bs : List Byte) : (s.wrBytes pa bs).ticks = s.ticks := rfl
@[simp] theorem wrBytes_poison (s : State) (pa : Nat) (bs : List Byte) : (s.wrBytes pa bs).poison = s.poison := rfl
@[simp] theorem wrBytes_regions (s : State) (pa : Nat) (bs : List Byte) : (s.wrBytes pa bs).regions = s.regions := rfl
@[simp] theorem wrBytes_lines (s : State) (pa : Nat) (bs : List Byte) : (s.wrBytes pa bs).lines = s.lines := rfl
@[simp] theorem wrBytes_cacheTick (s : State) (pa : Nat) (bs : List Byte) : (s.wrBytes pa bs).cacheTick = s.cacheTick := rfl
@[simp] theorem wrBytes_prefetchers (s : State) (pa : Nat) (bs : List Byte) : (s.wrBytes pa bs).prefetchers = s.prefetchers := rfl
@[simp] theorem wrBytes_agents (s : State) (pa : Nat) (bs : List Byte) : (s.wrBytes pa bs).agents = s.agents := rfl
@[simp] theorem wrBytes_remoteKnown (s : State) (pa : Nat) (bs : List Byte) : (s.wrBytes pa bs).remoteKnown = s.remoteKnown := rfl
@[simp] theorem wrBytes_ctxs (s : State) (pa : Nat) (bs : List Byte) : (s.wrBytes pa bs).ctxs = s.ctxs := rfl
@[simp] theorem wrBytes_keys (s : State) (pa : Nat) (bs : List Byte) : (s.wrBytes pa bs).keys = s.keys := rfl
@[simp] theorem wrBytes_qcbs (s : State) (pa : Nat) (bs : List Byte) : (s.wrBytes pa bs).qcbs = s.qcbs := rfl
@[simp] theorem wrBytes_qwait (s : State) (pa : Nat) (bs : List Byte) : (s.wrBytes pa bs).qwait = s.qwait := rfl
@[simp] theorem wrBytes_launches (s : State) (pa : Nat) (bs : List Byte) : (s.wrBytes pa bs).launches = s.launches := rfl
@[simp] theorem wrBytes_launchGen (s : State) (pa : Nat) (bs : List Byte) : (s.wrBytes pa bs).launchGen = s.launchGen := rfl
@[simp] theorem wrBytes_launchOrder (s : State) (pa : Nat) (bs : List Byte) : (s.wrBytes pa bs).launchOrder = s.launchOrder := rfl
@[simp] theorem wrBytes_hier (s : State) (pa : Nat) (bs : List Byte) : (s.wrBytes pa bs).hier = s.hier := rfl
@[simp] theorem wrBytes_windows (s : State) (pa : Nat) (bs : List Byte) : (s.wrBytes pa bs).windows = s.windows := rfl
@[simp] theorem wrBytes_clusters (s : State) (pa : Nat) (bs : List Byte) : (s.wrBytes pa bs).clusters = s.clusters := rfl
@[simp] theorem wrBytes_batches (s : State) (pa : Nat) (bs : List Byte) : (s.wrBytes pa bs).batches = s.batches := rfl
@[simp] theorem wrBytes_ready (s : State) (pa : Nat) (bs : List Byte) : (s.wrBytes pa bs).ready = s.ready := rfl
@[simp] theorem wrBytes_credits (s : State) (pa : Nat) (bs : List Byte) : (s.wrBytes pa bs).credits = s.credits := rfl
@[simp] theorem wrBytes_nextId (s : State) (pa : Nat) (bs : List Byte) : (s.wrBytes pa bs).nextId = s.nextId := rfl
@[simp] theorem wrBytes_cores (s : State) (pa : Nat) (bs : List Byte) : (s.wrBytes pa bs).cores = s.cores := rfl
@[simp] theorem wrBytes_trays (s : State) (pa : Nat) (bs : List Byte) : (s.wrBytes pa bs).trays = s.trays := rfl
@[simp] theorem wrBytes_ops (s : State) (pa : Nat) (bs : List Byte) : (s.wrBytes pa bs).ops = s.ops := rfl
@[simp] theorem wrBytes_refusals (s : State) (pa : Nat) (bs : List Byte) : (s.wrBytes pa bs).refusals = s.refusals := rfl
@[simp] theorem wrBytes_stackCounts (s : State) (pa : Nat) (bs : List Byte) : (s.wrBytes pa bs).stackCounts = s.stackCounts := rfl
@[simp] theorem wrBytes_samplerCounts (s : State) (pa : Nat) (bs : List Byte) : (s.wrBytes pa bs).samplerCounts = s.samplerCounts := rfl
@[simp] theorem wrBytes_trigs (s : State) (pa : Nat) (bs : List Byte) : (s.wrBytes pa bs).trigs = s.trigs := rfl
@[simp] theorem wrBytes_posted (s : State) (pa : Nat) (bs : List Byte) : (s.wrBytes pa bs).posted = s.posted := rfl
@[simp] theorem wrBytes_postedGen (s : State) (pa : Nat) (bs : List Byte) : (s.wrBytes pa bs).postedGen = s.postedGen := rfl
@[simp] theorem wrBytes_podLoop (s : State) (pa : Nat) (bs : List Byte) : (s.wrBytes pa bs).podLoop = s.podLoop := rfl
@[simp] theorem wrBytes_podOut (s : State) (pa : Nat) (bs : List Byte) : (s.wrBytes pa bs).podOut = s.podOut := rfl
@[simp] theorem wrBytes_portsDown (s : State) (pa : Nat) (bs : List Byte) : (s.wrBytes pa bs).portsDown = s.portsDown := rfl
@[simp] theorem wrBytes_passes (s : State) (pa : Nat) (bs : List Byte) : (s.wrBytes pa bs).passes = s.passes := rfl
@[simp] theorem wrBytes_cur (s : State) (pa : Nat) (bs : List Byte) : (s.wrBytes pa bs).cur = s.cur := rfl
@[simp] theorem wrBytes_inbox (s : State) (pa : Nat) (bs : List Byte) : (s.wrBytes pa bs).inbox = s.inbox := rfl
@[simp] theorem wrBytes_sched (s : State) (pa : Nat) (bs : List Byte) : (s.wrBytes pa bs).sched = s.sched := rfl
@[simp] theorem wrBytes_hostOut (s : State) (pa : Nat) (bs : List Byte) : (s.wrBytes pa bs).hostOut = s.hostOut := rfl
@[simp] theorem wrBytes_posts (s : State) (pa : Nat) (bs : List Byte) : (s.wrBytes pa bs).posts = s.posts := rfl
@[simp] theorem wrBytes_remoteOut (s : State) (pa : Nat) (bs : List Byte) : (s.wrBytes pa bs).remoteOut = s.remoteOut := rfl
@[simp] theorem wrBytes_cows (s : State) (pa : Nat) (bs : List Byte) : (s.wrBytes pa bs).cows = s.cows := rfl
@[simp] theorem wrBytes_records (s : State) (pa : Nat) (bs : List Byte) : (s.wrBytes pa bs).records = s.records := rfl
@[simp] theorem wrBytes_reportTurns (s : State) (pa : Nat) (bs : List Byte) : (s.wrBytes pa bs).reportTurns = s.reportTurns := rfl
@[simp] theorem wrBytes_sem (s : State) (pa : Nat) (bs : List Byte) : (s.wrBytes pa bs).sem = s.sem := rfl
@[simp] theorem wrBytes_qps (s : State) (pa : Nat) (bs : List Byte) : (s.wrBytes pa bs).qps = s.qps := rfl
@[simp] theorem wrBytes_rdma (s : State) (pa : Nat) (bs : List Byte) : (s.wrBytes pa bs).rdma = s.rdma := rfl
@[simp] theorem wrBytes_chans (s : State) (pa : Nat) (bs : List Byte) : (s.wrBytes pa bs).chans = s.chans := rfl
@[simp] theorem wrBytes_rootRings (s : State) (pa : Nat) (bs : List Byte) : (s.wrBytes pa bs).rootRings = s.rootRings := rfl
@[simp] theorem wrBytes_ckpts (s : State) (pa : Nat) (bs : List Byte) : (s.wrBytes pa bs).ckpts = s.ckpts := rfl
@[simp] theorem wrBytes_running (s : State) (pa : Nat) (bs : List Byte) : (s.wrBytes pa bs).running = s.running := rfl
@[simp] theorem wrBytes_podIdx (s : State) (pa : Nat) (bs : List Byte) : (s.wrBytes pa bs).podIdx = s.podIdx := rfl
@[simp] theorem wrBytes_hot (s : State) (pa : Nat) (bs : List Byte) : (s.wrBytes pa bs).hot = s.hot := rfl
@[simp] theorem wrBytes_lasting (s : State) (pa : Nat) (bs : List Byte) : (s.wrBytes pa bs).lasting = s.lasting := rfl
@[simp] theorem wrBytes_fw (s : State) (pa : Nat) (bs : List Byte) : (s.wrBytes pa bs).fw = s.fw := rfl

@[simp] theorem wr_stage (s : State) (pa n v : Nat) : (s.wr pa n v).stage = s.stage := rfl
@[simp] theorem wr_dies (s : State) (pa n v : Nat) : (s.wr pa n v).dies = s.dies := rfl
@[simp] theorem wr_down (s : State) (pa n v : Nat) : (s.wr pa n v).down = s.down := rfl
@[simp] theorem wr_now (s : State) (pa n v : Nat) : (s.wr pa n v).now = s.now := rfl
@[simp] theorem wr_ticks (s : State) (pa n v : Nat) : (s.wr pa n v).ticks = s.ticks := rfl
@[simp] theorem wr_poison (s : State) (pa n v : Nat) : (s.wr pa n v).poison = s.poison := rfl
@[simp] theorem wr_regions (s : State) (pa n v : Nat) : (s.wr pa n v).regions = s.regions := rfl
@[simp] theorem wr_lines (s : State) (pa n v : Nat) : (s.wr pa n v).lines = s.lines := rfl
@[simp] theorem wr_cacheTick (s : State) (pa n v : Nat) : (s.wr pa n v).cacheTick = s.cacheTick := rfl
@[simp] theorem wr_prefetchers (s : State) (pa n v : Nat) : (s.wr pa n v).prefetchers = s.prefetchers := rfl
@[simp] theorem wr_agents (s : State) (pa n v : Nat) : (s.wr pa n v).agents = s.agents := rfl
@[simp] theorem wr_remoteKnown (s : State) (pa n v : Nat) : (s.wr pa n v).remoteKnown = s.remoteKnown := rfl
@[simp] theorem wr_ctxs (s : State) (pa n v : Nat) : (s.wr pa n v).ctxs = s.ctxs := rfl
@[simp] theorem wr_keys (s : State) (pa n v : Nat) : (s.wr pa n v).keys = s.keys := rfl
@[simp] theorem wr_qcbs (s : State) (pa n v : Nat) : (s.wr pa n v).qcbs = s.qcbs := rfl
@[simp] theorem wr_qwait (s : State) (pa n v : Nat) : (s.wr pa n v).qwait = s.qwait := rfl
@[simp] theorem wr_launches (s : State) (pa n v : Nat) : (s.wr pa n v).launches = s.launches := rfl
@[simp] theorem wr_launchGen (s : State) (pa n v : Nat) : (s.wr pa n v).launchGen = s.launchGen := rfl
@[simp] theorem wr_launchOrder (s : State) (pa n v : Nat) : (s.wr pa n v).launchOrder = s.launchOrder := rfl
@[simp] theorem wr_hier (s : State) (pa n v : Nat) : (s.wr pa n v).hier = s.hier := rfl
@[simp] theorem wr_windows (s : State) (pa n v : Nat) : (s.wr pa n v).windows = s.windows := rfl
@[simp] theorem wr_clusters (s : State) (pa n v : Nat) : (s.wr pa n v).clusters = s.clusters := rfl
@[simp] theorem wr_batches (s : State) (pa n v : Nat) : (s.wr pa n v).batches = s.batches := rfl
@[simp] theorem wr_ready (s : State) (pa n v : Nat) : (s.wr pa n v).ready = s.ready := rfl
@[simp] theorem wr_credits (s : State) (pa n v : Nat) : (s.wr pa n v).credits = s.credits := rfl
@[simp] theorem wr_nextId (s : State) (pa n v : Nat) : (s.wr pa n v).nextId = s.nextId := rfl
@[simp] theorem wr_cores (s : State) (pa n v : Nat) : (s.wr pa n v).cores = s.cores := rfl
@[simp] theorem wr_trays (s : State) (pa n v : Nat) : (s.wr pa n v).trays = s.trays := rfl
@[simp] theorem wr_ops (s : State) (pa n v : Nat) : (s.wr pa n v).ops = s.ops := rfl
@[simp] theorem wr_refusals (s : State) (pa n v : Nat) : (s.wr pa n v).refusals = s.refusals := rfl
@[simp] theorem wr_stackCounts (s : State) (pa n v : Nat) : (s.wr pa n v).stackCounts = s.stackCounts := rfl
@[simp] theorem wr_samplerCounts (s : State) (pa n v : Nat) : (s.wr pa n v).samplerCounts = s.samplerCounts := rfl
@[simp] theorem wr_trigs (s : State) (pa n v : Nat) : (s.wr pa n v).trigs = s.trigs := rfl
@[simp] theorem wr_posted (s : State) (pa n v : Nat) : (s.wr pa n v).posted = s.posted := rfl
@[simp] theorem wr_postedGen (s : State) (pa n v : Nat) : (s.wr pa n v).postedGen = s.postedGen := rfl
@[simp] theorem wr_podLoop (s : State) (pa n v : Nat) : (s.wr pa n v).podLoop = s.podLoop := rfl
@[simp] theorem wr_podOut (s : State) (pa n v : Nat) : (s.wr pa n v).podOut = s.podOut := rfl
@[simp] theorem wr_portsDown (s : State) (pa n v : Nat) : (s.wr pa n v).portsDown = s.portsDown := rfl
@[simp] theorem wr_passes (s : State) (pa n v : Nat) : (s.wr pa n v).passes = s.passes := rfl
@[simp] theorem wr_cur (s : State) (pa n v : Nat) : (s.wr pa n v).cur = s.cur := rfl
@[simp] theorem wr_inbox (s : State) (pa n v : Nat) : (s.wr pa n v).inbox = s.inbox := rfl
@[simp] theorem wr_sched (s : State) (pa n v : Nat) : (s.wr pa n v).sched = s.sched := rfl
@[simp] theorem wr_hostOut (s : State) (pa n v : Nat) : (s.wr pa n v).hostOut = s.hostOut := rfl
@[simp] theorem wr_posts (s : State) (pa n v : Nat) : (s.wr pa n v).posts = s.posts := rfl
@[simp] theorem wr_remoteOut (s : State) (pa n v : Nat) : (s.wr pa n v).remoteOut = s.remoteOut := rfl
@[simp] theorem wr_cows (s : State) (pa n v : Nat) : (s.wr pa n v).cows = s.cows := rfl
@[simp] theorem wr_records (s : State) (pa n v : Nat) : (s.wr pa n v).records = s.records := rfl
@[simp] theorem wr_reportTurns (s : State) (pa n v : Nat) : (s.wr pa n v).reportTurns = s.reportTurns := rfl
@[simp] theorem wr_sem (s : State) (pa n v : Nat) : (s.wr pa n v).sem = s.sem := rfl
@[simp] theorem wr_qps (s : State) (pa n v : Nat) : (s.wr pa n v).qps = s.qps := rfl
@[simp] theorem wr_rdma (s : State) (pa n v : Nat) : (s.wr pa n v).rdma = s.rdma := rfl
@[simp] theorem wr_chans (s : State) (pa n v : Nat) : (s.wr pa n v).chans = s.chans := rfl
@[simp] theorem wr_rootRings (s : State) (pa n v : Nat) : (s.wr pa n v).rootRings = s.rootRings := rfl
@[simp] theorem wr_ckpts (s : State) (pa n v : Nat) : (s.wr pa n v).ckpts = s.ckpts := rfl
@[simp] theorem wr_running (s : State) (pa n v : Nat) : (s.wr pa n v).running = s.running := rfl
@[simp] theorem wr_podIdx (s : State) (pa n v : Nat) : (s.wr pa n v).podIdx = s.podIdx := rfl
@[simp] theorem wr_hot (s : State) (pa n v : Nat) : (s.wr pa n v).hot = s.hot := rfl
@[simp] theorem wr_lasting (s : State) (pa n v : Nat) : (s.wr pa n v).lasting = s.lasting := rfl
@[simp] theorem wr_fw (s : State) (pa n v : Nat) : (s.wr pa n v).fw = s.fw := rfl

/-- Reading the tray just replaced. -/
@[simp] theorem setTray_get (s : State) (key : Nat) (t : Tray) : (s.setTray key t).trays.get? key = some t := by
  simp [get_put_same]

/-- Reading another tray. -/
theorem setTray_get_ne (s : State) {key j : Nat} (t : Tray) (h : j ≠ key) :
    (s.setTray key t).trays.get? j = s.trays.get? j := by
  simp [get_put_ne _ _ h]

/-- Replacing an entry twice. -/
theorem put_put {α : Type} (m : KMap α) (k : Nat) (a b : α) : (m.put k a).put k b = m.put k b := by
  induction m with
  | nil => simp [KMap.put]
  | cons e r ih =>
    obtain ⟨k', v'⟩ := e
    by_cases h1 : k = k'
    · subst h1; simp [KMap.put]
    · by_cases h2 : k < k'
      · simp [KMap.put, h1, h2]
      · simp [KMap.put, h1, h2, ih]

/-- Replacing a tray twice keeps the second. -/
@[simp] theorem setTray_setTray (s : State) (key : Nat) (a b : Tray) : (s.setTray key a).setTray key b = s.setTray key b := by
  simp [State.setTray, put_put]

-- The tray

@[simp] theorem setPath_ctx (t : Tray) (i : Nat) (p : Path) : (t.setPath i p).ctx = t.ctx := by unfold Tray.setPath; split <;> rfl
@[simp] theorem setPath_batch (t : Tray) (i : Nat) (p : Path) : (t.setPath i p).batch = t.batch := by unfold Tray.setPath; split <;> rfl
@[simp] theorem setPath_idx (t : Tray) (i : Nat) (p : Path) : (t.setPath i p).idx = t.idx := by unfold Tray.setPath; split <;> rfl
@[simp] theorem setPath_batchId (t : Tray) (i : Nat) (p : Path) : (t.setPath i p).batchId = t.batchId := by unfold Tray.setPath; split <;> rfl
@[simp] theorem setPath_clusterId (t : Tray) (i : Nat) (p : Path) : (t.setPath i p).clusterId = t.clusterId := by unfold Tray.setPath; split <;> rfl
@[simp] theorem setPath_launchId (t : Tray) (i : Nat) (p : Path) : (t.setPath i p).launchId = t.launchId := by unfold Tray.setPath; split <;> rfl
@[simp] theorem setPath_dual (t : Tray) (i : Nat) (p : Path) : (t.setPath i p).dual = t.dual := by unfold Tray.setPath; split <;> rfl
@[simp] theorem setPath_launch (t : Tray) (i : Nat) (p : Path) : (t.setPath i p).launch = t.launch := by unfold Tray.setPath; split <;> rfl
@[simp] theorem setPath_live (t : Tray) (i : Nat) (p : Path) : (t.setPath i p).live = t.live := by unfold Tray.setPath; split <;> rfl
@[simp] theorem setPath_n (t : Tray) (i : Nat) (p : Path) : (t.setPath i p).n = t.n := by unfold Tray.setPath; split <;> rfl
@[simp] theorem setPath_vwin (t : Tray) (i : Nat) (p : Path) : (t.setPath i p).vwin = t.vwin := by unfold Tray.setPath; split <;> rfl
@[simp] theorem setPath_sregs (t : Tray) (i : Nat) (p : Path) : (t.setPath i p).sregs = t.sregs := by unfold Tray.setPath; split <;> rfl
@[simp] theorem setPath_vregs (t : Tray) (i : Nat) (p : Path) : (t.setPath i p).vregs = t.vregs := by unfold Tray.setPath; split <;> rfl
@[simp] theorem setPath_fpctl (t : Tray) (i : Nat) (p : Path) : (t.setPath i p).fpctl = t.fpctl := by unfold Tray.setPath; split <;> rfl
@[simp] theorem setPath_fpstat (t : Tray) (i : Nat) (p : Path) : (t.setPath i p).fpstat = t.fpstat := by unfold Tray.setPath; split <;> rfl
@[simp] theorem setPath_chainFl (t : Tray) (i : Nat) (p : Path) : (t.setPath i p).chainFl = t.chainFl := by unfold Tray.setPath; split <;> rfl
@[simp] theorem setPath_cause (t : Tray) (i : Nat) (p : Path) : (t.setPath i p).cause = t.cause := by unfold Tray.setPath; split <;> rfl
@[simp] theorem setPath_epc (t : Tray) (i : Nat) (p : Path) : (t.setPath i p).epc = t.epc := by unfold Tray.setPath; split <;> rfl
@[simp] theorem setPath_gangsel (t : Tray) (i : Nat) (p : Path) : (t.setPath i p).gangsel = t.gangsel := by unfold Tray.setPath; split <;> rfl
@[simp] theorem setPath_gbatch (t : Tray) (i : Nat) (p : Path) : (t.setPath i p).gbatch = t.gbatch := by unfold Tray.setPath; split <;> rfl
@[simp] theorem setPath_loads (t : Tray) (i : Nat) (p : Path) : (t.setPath i p).loads = t.loads := by unfold Tray.setPath; split <;> rfl
@[simp] theorem setPath_stores (t : Tray) (i : Nat) (p : Path) : (t.setPath i p).stores = t.stores := by unfold Tray.setPath; split <;> rfl
@[simp] theorem setPath_copies (t : Tray) (i : Nat) (p : Path) : (t.setPath i p).copies = t.copies := by unfold Tray.setPath; split <;> rfl
@[simp] theorem setPath_matrix (t : Tray) (i : Nat) (p : Path) : (t.setPath i p).matrix = t.matrix := by unfold Tray.setPath; split <;> rfl
@[simp] theorem setPath_seq (t : Tray) (i : Nat) (p : Path) : (t.setPath i p).seq = t.seq := by unfold Tray.setPath; split <;> rfl
@[simp] theorem setPath_pend (t : Tray) (i : Nat) (p : Path) : (t.setPath i p).pend = t.pend := by unfold Tray.setPath; split <;> rfl
@[simp] theorem setPath_nextPend (t : Tray) (i : Nat) (p : Path) : (t.setPath i p).nextPend = t.nextPend := by unfold Tray.setPath; split <;> rfl
@[simp] theorem setPath_obs (t : Tray) (i : Nat) (p : Path) : (t.setPath i p).obs = t.obs := by unfold Tray.setPath; split <;> rfl
@[simp] theorem setPath_stale (t : Tray) (i : Nat) (p : Path) : (t.setPath i p).stale = t.stale := by unfold Tray.setPath; split <;> rfl
@[simp] theorem setPath_wait (t : Tray) (i : Nat) (p : Path) : (t.setPath i p).wait = t.wait := by unfold Tray.setPath; split <;> rfl
@[simp] theorem setPath_traps (t : Tray) (i : Nat) (p : Path) : (t.setPath i p).traps = t.traps := by unfold Tray.setPath; split <;> rfl
@[simp] theorem setPath_departing (t : Tray) (i : Nat) (p : Path) : (t.setPath i p).departing = t.departing := by unfold Tray.setPath; split <;> rfl
@[simp] theorem setPath_leave (t : Tray) (i : Nat) (p : Path) : (t.setPath i p).leave = t.leave := by unfold Tray.setPath; split <;> rfl
@[simp] theorem setPath_hslot (t : Tray) (i : Nat) (p : Path) : (t.setPath i p).hslot = t.hslot := by unfold Tray.setPath; split <;> rfl
@[simp] theorem setPath_redeliver (t : Tray) (i : Nat) (p : Path) : (t.setPath i p).redeliver = t.redeliver := by unfold Tray.setPath; split <;> rfl
@[simp] theorem setPath_resumeAt (t : Tray) (i : Nat) (p : Path) : (t.setPath i p).resumeAt = t.resumeAt := by unfold Tray.setPath; split <;> rfl
@[simp] theorem setPath_entryWord (t : Tray) (i : Nat) (p : Path) : (t.setPath i p).entryWord = t.entryWord := by unfold Tray.setPath; split <;> rfl
@[simp] theorem setPath_async (t : Tray) (i : Nat) (p : Path) : (t.setPath i p).async = t.async := by unfold Tray.setPath; split <;> rfl
@[simp] theorem setPath_watch (t : Tray) (i : Nat) (p : Path) : (t.setPath i p).watch = t.watch := by unfold Tray.setPath; split <;> rfl
@[simp] theorem setPath_vhold (t : Tray) (i : Nat) (p : Path) : (t.setPath i p).vhold = t.vhold := by unfold Tray.setPath; split <;> rfl
@[simp] theorem setPath_tret (t : Tray) (i : Nat) (p : Path) : (t.setPath i p).tret = t.tret := by unfold Tray.setPath; split <;> rfl
@[simp] theorem setPath_forced (t : Tray) (i : Nat) (p : Path) : (t.setPath i p).forced = t.forced := by unfold Tray.setPath; split <;> rfl
@[simp] theorem setPath_prio (t : Tray) (i : Nat) (p : Path) : (t.setPath i p).prio = t.prio := by unfold Tray.setPath; split <;> rfl
@[simp] theorem setPath_age (t : Tray) (i : Nat) (p : Path) : (t.setPath i p).age = t.age := by unfold Tray.setPath; split <;> rfl
@[simp] theorem setPath_pix (t : Tray) (i : Nat) (p : Path) : (t.setPath i p).pix = t.pix := by unfold Tray.setPath; split <;> rfl

/-- A write to a scalar register above the mask leaves the rest of the tray. -/
theorem setSreg_high (t : Tray) (i k : Nat) (v : Word) (h : 3 ≤ k) : t.setSreg i k v = { t with sregs := smSet t.sregs k v } := by
  unfold Tray.setSreg
  rw [if_neg (by omega)]

@[simp] theorem setSreg_ctx (t : Tray) (i k : Nat) (v : Word) : (t.setSreg i k v).ctx = t.ctx := by unfold Tray.setSreg; split <;> simp
@[simp] theorem setSreg_batch (t : Tray) (i k : Nat) (v : Word) : (t.setSreg i k v).batch = t.batch := by unfold Tray.setSreg; split <;> simp
@[simp] theorem setSreg_idx (t : Tray) (i k : Nat) (v : Word) : (t.setSreg i k v).idx = t.idx := by unfold Tray.setSreg; split <;> simp
@[simp] theorem setSreg_batchId (t : Tray) (i k : Nat) (v : Word) : (t.setSreg i k v).batchId = t.batchId := by unfold Tray.setSreg; split <;> simp
@[simp] theorem setSreg_clusterId (t : Tray) (i k : Nat) (v : Word) : (t.setSreg i k v).clusterId = t.clusterId := by unfold Tray.setSreg; split <;> simp
@[simp] theorem setSreg_launchId (t : Tray) (i k : Nat) (v : Word) : (t.setSreg i k v).launchId = t.launchId := by unfold Tray.setSreg; split <;> simp
@[simp] theorem setSreg_dual (t : Tray) (i k : Nat) (v : Word) : (t.setSreg i k v).dual = t.dual := by unfold Tray.setSreg; split <;> simp
@[simp] theorem setSreg_launch (t : Tray) (i k : Nat) (v : Word) : (t.setSreg i k v).launch = t.launch := by unfold Tray.setSreg; split <;> simp
@[simp] theorem setSreg_live (t : Tray) (i k : Nat) (v : Word) : (t.setSreg i k v).live = t.live := by unfold Tray.setSreg; split <;> simp
@[simp] theorem setSreg_n (t : Tray) (i k : Nat) (v : Word) : (t.setSreg i k v).n = t.n := by unfold Tray.setSreg; split <;> simp
@[simp] theorem setSreg_vwin (t : Tray) (i k : Nat) (v : Word) : (t.setSreg i k v).vwin = t.vwin := by unfold Tray.setSreg; split <;> simp
@[simp] theorem setSreg_vregs (t : Tray) (i k : Nat) (v : Word) : (t.setSreg i k v).vregs = t.vregs := by unfold Tray.setSreg; split <;> simp
@[simp] theorem setSreg_fpctl (t : Tray) (i k : Nat) (v : Word) : (t.setSreg i k v).fpctl = t.fpctl := by unfold Tray.setSreg; split <;> simp
@[simp] theorem setSreg_fpstat (t : Tray) (i k : Nat) (v : Word) : (t.setSreg i k v).fpstat = t.fpstat := by unfold Tray.setSreg; split <;> simp
@[simp] theorem setSreg_chainFl (t : Tray) (i k : Nat) (v : Word) : (t.setSreg i k v).chainFl = t.chainFl := by unfold Tray.setSreg; split <;> simp
@[simp] theorem setSreg_cause (t : Tray) (i k : Nat) (v : Word) : (t.setSreg i k v).cause = t.cause := by unfold Tray.setSreg; split <;> simp
@[simp] theorem setSreg_epc (t : Tray) (i k : Nat) (v : Word) : (t.setSreg i k v).epc = t.epc := by unfold Tray.setSreg; split <;> simp
@[simp] theorem setSreg_gangsel (t : Tray) (i k : Nat) (v : Word) : (t.setSreg i k v).gangsel = t.gangsel := by unfold Tray.setSreg; split <;> simp
@[simp] theorem setSreg_gbatch (t : Tray) (i k : Nat) (v : Word) : (t.setSreg i k v).gbatch = t.gbatch := by unfold Tray.setSreg; split <;> simp
@[simp] theorem setSreg_loads (t : Tray) (i k : Nat) (v : Word) : (t.setSreg i k v).loads = t.loads := by unfold Tray.setSreg; split <;> simp
@[simp] theorem setSreg_stores (t : Tray) (i k : Nat) (v : Word) : (t.setSreg i k v).stores = t.stores := by unfold Tray.setSreg; split <;> simp
@[simp] theorem setSreg_copies (t : Tray) (i k : Nat) (v : Word) : (t.setSreg i k v).copies = t.copies := by unfold Tray.setSreg; split <;> simp
@[simp] theorem setSreg_matrix (t : Tray) (i k : Nat) (v : Word) : (t.setSreg i k v).matrix = t.matrix := by unfold Tray.setSreg; split <;> simp
@[simp] theorem setSreg_seq (t : Tray) (i k : Nat) (v : Word) : (t.setSreg i k v).seq = t.seq := by unfold Tray.setSreg; split <;> simp
@[simp] theorem setSreg_pend (t : Tray) (i k : Nat) (v : Word) : (t.setSreg i k v).pend = t.pend := by unfold Tray.setSreg; split <;> simp
@[simp] theorem setSreg_nextPend (t : Tray) (i k : Nat) (v : Word) : (t.setSreg i k v).nextPend = t.nextPend := by unfold Tray.setSreg; split <;> simp
@[simp] theorem setSreg_obs (t : Tray) (i k : Nat) (v : Word) : (t.setSreg i k v).obs = t.obs := by unfold Tray.setSreg; split <;> simp
@[simp] theorem setSreg_stale (t : Tray) (i k : Nat) (v : Word) : (t.setSreg i k v).stale = t.stale := by unfold Tray.setSreg; split <;> simp
@[simp] theorem setSreg_wait (t : Tray) (i k : Nat) (v : Word) : (t.setSreg i k v).wait = t.wait := by unfold Tray.setSreg; split <;> simp
@[simp] theorem setSreg_traps (t : Tray) (i k : Nat) (v : Word) : (t.setSreg i k v).traps = t.traps := by unfold Tray.setSreg; split <;> simp
@[simp] theorem setSreg_departing (t : Tray) (i k : Nat) (v : Word) : (t.setSreg i k v).departing = t.departing := by unfold Tray.setSreg; split <;> simp
@[simp] theorem setSreg_leave (t : Tray) (i k : Nat) (v : Word) : (t.setSreg i k v).leave = t.leave := by unfold Tray.setSreg; split <;> simp
@[simp] theorem setSreg_hslot (t : Tray) (i k : Nat) (v : Word) : (t.setSreg i k v).hslot = t.hslot := by unfold Tray.setSreg; split <;> simp
@[simp] theorem setSreg_redeliver (t : Tray) (i k : Nat) (v : Word) : (t.setSreg i k v).redeliver = t.redeliver := by unfold Tray.setSreg; split <;> simp
@[simp] theorem setSreg_resumeAt (t : Tray) (i k : Nat) (v : Word) : (t.setSreg i k v).resumeAt = t.resumeAt := by unfold Tray.setSreg; split <;> simp
@[simp] theorem setSreg_entryWord (t : Tray) (i k : Nat) (v : Word) : (t.setSreg i k v).entryWord = t.entryWord := by unfold Tray.setSreg; split <;> simp
@[simp] theorem setSreg_async (t : Tray) (i k : Nat) (v : Word) : (t.setSreg i k v).async = t.async := by unfold Tray.setSreg; split <;> simp
@[simp] theorem setSreg_watch (t : Tray) (i k : Nat) (v : Word) : (t.setSreg i k v).watch = t.watch := by unfold Tray.setSreg; split <;> simp
@[simp] theorem setSreg_vhold (t : Tray) (i k : Nat) (v : Word) : (t.setSreg i k v).vhold = t.vhold := by unfold Tray.setSreg; split <;> simp
@[simp] theorem setSreg_tret (t : Tray) (i k : Nat) (v : Word) : (t.setSreg i k v).tret = t.tret := by unfold Tray.setSreg; split <;> simp
@[simp] theorem setSreg_forced (t : Tray) (i k : Nat) (v : Word) : (t.setSreg i k v).forced = t.forced := by unfold Tray.setSreg; split <;> simp
@[simp] theorem setSreg_prio (t : Tray) (i k : Nat) (v : Word) : (t.setSreg i k v).prio = t.prio := by unfold Tray.setSreg; split <;> simp
@[simp] theorem setSreg_age (t : Tray) (i k : Nat) (v : Word) : (t.setSreg i k v).age = t.age := by unfold Tray.setSreg; split <;> simp
@[simp] theorem setSreg_pix (t : Tray) (i k : Nat) (v : Word) : (t.setSreg i k v).pix = t.pix := by unfold Tray.setSreg; split <;> simp

-- The tray with its path at the word after the group differs in its paths and in the check of its entry word.
@[simp] theorem advance_ctx (t : Tray) (c : Cur) : (t.advance c).ctx = t.ctx := by simp [Tray.advance]
@[simp] theorem advance_batch (t : Tray) (c : Cur) : (t.advance c).batch = t.batch := by simp [Tray.advance]
@[simp] theorem advance_idx (t : Tray) (c : Cur) : (t.advance c).idx = t.idx := by simp [Tray.advance]
@[simp] theorem advance_batchId (t : Tray) (c : Cur) : (t.advance c).batchId = t.batchId := by simp [Tray.advance]
@[simp] theorem advance_clusterId (t : Tray) (c : Cur) : (t.advance c).clusterId = t.clusterId := by simp [Tray.advance]
@[simp] theorem advance_launchId (t : Tray) (c : Cur) : (t.advance c).launchId = t.launchId := by simp [Tray.advance]
@[simp] theorem advance_dual (t : Tray) (c : Cur) : (t.advance c).dual = t.dual := by simp [Tray.advance]
@[simp] theorem advance_launch (t : Tray) (c : Cur) : (t.advance c).launch = t.launch := by simp [Tray.advance]
@[simp] theorem advance_live (t : Tray) (c : Cur) : (t.advance c).live = t.live := by simp [Tray.advance]
@[simp] theorem advance_n (t : Tray) (c : Cur) : (t.advance c).n = t.n := by simp [Tray.advance]
@[simp] theorem advance_vwin (t : Tray) (c : Cur) : (t.advance c).vwin = t.vwin := by simp [Tray.advance]
@[simp] theorem advance_sregs (t : Tray) (c : Cur) : (t.advance c).sregs = t.sregs := by simp [Tray.advance]
@[simp] theorem advance_vregs (t : Tray) (c : Cur) : (t.advance c).vregs = t.vregs := by simp [Tray.advance]
@[simp] theorem advance_fpctl (t : Tray) (c : Cur) : (t.advance c).fpctl = t.fpctl := by simp [Tray.advance]
@[simp] theorem advance_fpstat (t : Tray) (c : Cur) : (t.advance c).fpstat = t.fpstat := by simp [Tray.advance]
@[simp] theorem advance_chainFl (t : Tray) (c : Cur) : (t.advance c).chainFl = t.chainFl := by simp [Tray.advance]
@[simp] theorem advance_cause (t : Tray) (c : Cur) : (t.advance c).cause = t.cause := by simp [Tray.advance]
@[simp] theorem advance_epc (t : Tray) (c : Cur) : (t.advance c).epc = t.epc := by simp [Tray.advance]
@[simp] theorem advance_gangsel (t : Tray) (c : Cur) : (t.advance c).gangsel = t.gangsel := by simp [Tray.advance]
@[simp] theorem advance_gbatch (t : Tray) (c : Cur) : (t.advance c).gbatch = t.gbatch := by simp [Tray.advance]
@[simp] theorem advance_loads (t : Tray) (c : Cur) : (t.advance c).loads = t.loads := by simp [Tray.advance]
@[simp] theorem advance_stores (t : Tray) (c : Cur) : (t.advance c).stores = t.stores := by simp [Tray.advance]
@[simp] theorem advance_copies (t : Tray) (c : Cur) : (t.advance c).copies = t.copies := by simp [Tray.advance]
@[simp] theorem advance_matrix (t : Tray) (c : Cur) : (t.advance c).matrix = t.matrix := by simp [Tray.advance]
@[simp] theorem advance_seq (t : Tray) (c : Cur) : (t.advance c).seq = t.seq := by simp [Tray.advance]
@[simp] theorem advance_pend (t : Tray) (c : Cur) : (t.advance c).pend = t.pend := by simp [Tray.advance]
@[simp] theorem advance_nextPend (t : Tray) (c : Cur) : (t.advance c).nextPend = t.nextPend := by simp [Tray.advance]
@[simp] theorem advance_obs (t : Tray) (c : Cur) : (t.advance c).obs = t.obs := by simp [Tray.advance]
@[simp] theorem advance_stale (t : Tray) (c : Cur) : (t.advance c).stale = t.stale := by simp [Tray.advance]
@[simp] theorem advance_wait (t : Tray) (c : Cur) : (t.advance c).wait = t.wait := by simp [Tray.advance]
@[simp] theorem advance_traps (t : Tray) (c : Cur) : (t.advance c).traps = t.traps := by simp [Tray.advance]
@[simp] theorem advance_departing (t : Tray) (c : Cur) : (t.advance c).departing = t.departing := by simp [Tray.advance]
@[simp] theorem advance_leave (t : Tray) (c : Cur) : (t.advance c).leave = t.leave := by simp [Tray.advance]
@[simp] theorem advance_hslot (t : Tray) (c : Cur) : (t.advance c).hslot = t.hslot := by simp [Tray.advance]
@[simp] theorem advance_redeliver (t : Tray) (c : Cur) : (t.advance c).redeliver = t.redeliver := by simp [Tray.advance]
@[simp] theorem advance_resumeAt (t : Tray) (c : Cur) : (t.advance c).resumeAt = t.resumeAt := by simp [Tray.advance]
@[simp] theorem advance_async (t : Tray) (c : Cur) : (t.advance c).async = t.async := by simp [Tray.advance]
@[simp] theorem advance_watch (t : Tray) (c : Cur) : (t.advance c).watch = t.watch := by simp [Tray.advance]
@[simp] theorem advance_vhold (t : Tray) (c : Cur) : (t.advance c).vhold = t.vhold := by simp [Tray.advance]
@[simp] theorem advance_tret (t : Tray) (c : Cur) : (t.advance c).tret = t.tret := by simp [Tray.advance]
@[simp] theorem advance_forced (t : Tray) (c : Cur) : (t.advance c).forced = t.forced := by simp [Tray.advance]
@[simp] theorem advance_prio (t : Tray) (c : Cur) : (t.advance c).prio = t.prio := by simp [Tray.advance]
@[simp] theorem advance_age (t : Tray) (c : Cur) : (t.advance c).age = t.age := by simp [Tray.advance]
@[simp] theorem advance_pix (t : Tray) (c : Cur) : (t.advance c).pix = t.pix := by simp [Tray.advance]

-- A counter is set.
@[simp] theorem setCtr_ctx (t : Tray) (k : Ctr) (n : Nat) : (t.setCtr k n).ctx = t.ctx := by cases k <;> rfl
@[simp] theorem setCtr_batch (t : Tray) (k : Ctr) (n : Nat) : (t.setCtr k n).batch = t.batch := by cases k <;> rfl
@[simp] theorem setCtr_idx (t : Tray) (k : Ctr) (n : Nat) : (t.setCtr k n).idx = t.idx := by cases k <;> rfl
@[simp] theorem setCtr_batchId (t : Tray) (k : Ctr) (n : Nat) : (t.setCtr k n).batchId = t.batchId := by cases k <;> rfl
@[simp] theorem setCtr_clusterId (t : Tray) (k : Ctr) (n : Nat) : (t.setCtr k n).clusterId = t.clusterId := by cases k <;> rfl
@[simp] theorem setCtr_launchId (t : Tray) (k : Ctr) (n : Nat) : (t.setCtr k n).launchId = t.launchId := by cases k <;> rfl
@[simp] theorem setCtr_dual (t : Tray) (k : Ctr) (n : Nat) : (t.setCtr k n).dual = t.dual := by cases k <;> rfl
@[simp] theorem setCtr_launch (t : Tray) (k : Ctr) (n : Nat) : (t.setCtr k n).launch = t.launch := by cases k <;> rfl
@[simp] theorem setCtr_live (t : Tray) (k : Ctr) (n : Nat) : (t.setCtr k n).live = t.live := by cases k <;> rfl
@[simp] theorem setCtr_n (t : Tray) (k : Ctr) (n : Nat) : (t.setCtr k n).n = t.n := by cases k <;> rfl
@[simp] theorem setCtr_vwin (t : Tray) (k : Ctr) (n : Nat) : (t.setCtr k n).vwin = t.vwin := by cases k <;> rfl
@[simp] theorem setCtr_p0 (t : Tray) (k : Ctr) (n : Nat) : (t.setCtr k n).p0 = t.p0 := by cases k <;> rfl
@[simp] theorem setCtr_p1 (t : Tray) (k : Ctr) (n : Nat) : (t.setCtr k n).p1 = t.p1 := by cases k <;> rfl
@[simp] theorem setCtr_sregs (t : Tray) (k : Ctr) (n : Nat) : (t.setCtr k n).sregs = t.sregs := by cases k <;> rfl
@[simp] theorem setCtr_vregs (t : Tray) (k : Ctr) (n : Nat) : (t.setCtr k n).vregs = t.vregs := by cases k <;> rfl
@[simp] theorem setCtr_fpctl (t : Tray) (k : Ctr) (n : Nat) : (t.setCtr k n).fpctl = t.fpctl := by cases k <;> rfl
@[simp] theorem setCtr_fpstat (t : Tray) (k : Ctr) (n : Nat) : (t.setCtr k n).fpstat = t.fpstat := by cases k <;> rfl
@[simp] theorem setCtr_chainFl (t : Tray) (k : Ctr) (n : Nat) : (t.setCtr k n).chainFl = t.chainFl := by cases k <;> rfl
@[simp] theorem setCtr_cause (t : Tray) (k : Ctr) (n : Nat) : (t.setCtr k n).cause = t.cause := by cases k <;> rfl
@[simp] theorem setCtr_epc (t : Tray) (k : Ctr) (n : Nat) : (t.setCtr k n).epc = t.epc := by cases k <;> rfl
@[simp] theorem setCtr_gangsel (t : Tray) (k : Ctr) (n : Nat) : (t.setCtr k n).gangsel = t.gangsel := by cases k <;> rfl
@[simp] theorem setCtr_gbatch (t : Tray) (k : Ctr) (n : Nat) : (t.setCtr k n).gbatch = t.gbatch := by cases k <;> rfl
@[simp] theorem setCtr_seq (t : Tray) (k : Ctr) (n : Nat) : (t.setCtr k n).seq = t.seq := by cases k <;> rfl
@[simp] theorem setCtr_pend (t : Tray) (k : Ctr) (n : Nat) : (t.setCtr k n).pend = t.pend := by cases k <;> rfl
@[simp] theorem setCtr_nextPend (t : Tray) (k : Ctr) (n : Nat) : (t.setCtr k n).nextPend = t.nextPend := by cases k <;> rfl
@[simp] theorem setCtr_obs (t : Tray) (k : Ctr) (n : Nat) : (t.setCtr k n).obs = t.obs := by cases k <;> rfl
@[simp] theorem setCtr_stale (t : Tray) (k : Ctr) (n : Nat) : (t.setCtr k n).stale = t.stale := by cases k <;> rfl
@[simp] theorem setCtr_wait (t : Tray) (k : Ctr) (n : Nat) : (t.setCtr k n).wait = t.wait := by cases k <;> rfl
@[simp] theorem setCtr_traps (t : Tray) (k : Ctr) (n : Nat) : (t.setCtr k n).traps = t.traps := by cases k <;> rfl
@[simp] theorem setCtr_departing (t : Tray) (k : Ctr) (n : Nat) : (t.setCtr k n).departing = t.departing := by cases k <;> rfl
@[simp] theorem setCtr_leave (t : Tray) (k : Ctr) (n : Nat) : (t.setCtr k n).leave = t.leave := by cases k <;> rfl
@[simp] theorem setCtr_hslot (t : Tray) (k : Ctr) (n : Nat) : (t.setCtr k n).hslot = t.hslot := by cases k <;> rfl
@[simp] theorem setCtr_redeliver (t : Tray) (k : Ctr) (n : Nat) : (t.setCtr k n).redeliver = t.redeliver := by cases k <;> rfl
@[simp] theorem setCtr_resumeAt (t : Tray) (k : Ctr) (n : Nat) : (t.setCtr k n).resumeAt = t.resumeAt := by cases k <;> rfl
@[simp] theorem setCtr_entryWord (t : Tray) (k : Ctr) (n : Nat) : (t.setCtr k n).entryWord = t.entryWord := by cases k <;> rfl
@[simp] theorem setCtr_async (t : Tray) (k : Ctr) (n : Nat) : (t.setCtr k n).async = t.async := by cases k <;> rfl
@[simp] theorem setCtr_watch (t : Tray) (k : Ctr) (n : Nat) : (t.setCtr k n).watch = t.watch := by cases k <;> rfl
@[simp] theorem setCtr_vhold (t : Tray) (k : Ctr) (n : Nat) : (t.setCtr k n).vhold = t.vhold := by cases k <;> rfl
@[simp] theorem setCtr_tret (t : Tray) (k : Ctr) (n : Nat) : (t.setCtr k n).tret = t.tret := by cases k <;> rfl
@[simp] theorem setCtr_forced (t : Tray) (k : Ctr) (n : Nat) : (t.setCtr k n).forced = t.forced := by cases k <;> rfl
@[simp] theorem setCtr_prio (t : Tray) (k : Ctr) (n : Nat) : (t.setCtr k n).prio = t.prio := by cases k <;> rfl
@[simp] theorem setCtr_age (t : Tray) (k : Ctr) (n : Nat) : (t.setCtr k n).age = t.age := by cases k <;> rfl
@[simp] theorem setCtr_pix (t : Tray) (k : Ctr) (n : Nat) : (t.setCtr k n).pix = t.pix := by cases k <;> rfl

/-- The counter that was set. -/
@[simp] theorem setCtr_ctr_same (t : Tray) (k : Ctr) (n : Nat) : (t.setCtr k n).ctr k = n := by cases k <;> rfl

/-- Another counter. -/
theorem setCtr_ctr_ne (t : Tray) {k j : Ctr} (n : Nat) (h : j ≠ k) : (t.setCtr k n).ctr j = t.ctr j := by
  cases k <;> cases j <;> first | rfl | exact absurd rfl h

-- A counter falls, or not.
@[simp] theorem settleGrp_ctx (t : Tray) (g : Option (Nat × Ctr)) : (t.settleGrp g).ctx = t.ctx := by unfold Tray.settleGrp; split <;> [rfl; split <;> simp]
@[simp] theorem settleGrp_batch (t : Tray) (g : Option (Nat × Ctr)) : (t.settleGrp g).batch = t.batch := by unfold Tray.settleGrp; split <;> [rfl; split <;> simp]
@[simp] theorem settleGrp_idx (t : Tray) (g : Option (Nat × Ctr)) : (t.settleGrp g).idx = t.idx := by unfold Tray.settleGrp; split <;> [rfl; split <;> simp]
@[simp] theorem settleGrp_batchId (t : Tray) (g : Option (Nat × Ctr)) : (t.settleGrp g).batchId = t.batchId := by unfold Tray.settleGrp; split <;> [rfl; split <;> simp]
@[simp] theorem settleGrp_clusterId (t : Tray) (g : Option (Nat × Ctr)) : (t.settleGrp g).clusterId = t.clusterId := by unfold Tray.settleGrp; split <;> [rfl; split <;> simp]
@[simp] theorem settleGrp_launchId (t : Tray) (g : Option (Nat × Ctr)) : (t.settleGrp g).launchId = t.launchId := by unfold Tray.settleGrp; split <;> [rfl; split <;> simp]
@[simp] theorem settleGrp_dual (t : Tray) (g : Option (Nat × Ctr)) : (t.settleGrp g).dual = t.dual := by unfold Tray.settleGrp; split <;> [rfl; split <;> simp]
@[simp] theorem settleGrp_launch (t : Tray) (g : Option (Nat × Ctr)) : (t.settleGrp g).launch = t.launch := by unfold Tray.settleGrp; split <;> [rfl; split <;> simp]
@[simp] theorem settleGrp_live (t : Tray) (g : Option (Nat × Ctr)) : (t.settleGrp g).live = t.live := by unfold Tray.settleGrp; split <;> [rfl; split <;> simp]
@[simp] theorem settleGrp_n (t : Tray) (g : Option (Nat × Ctr)) : (t.settleGrp g).n = t.n := by unfold Tray.settleGrp; split <;> [rfl; split <;> simp]
@[simp] theorem settleGrp_vwin (t : Tray) (g : Option (Nat × Ctr)) : (t.settleGrp g).vwin = t.vwin := by unfold Tray.settleGrp; split <;> [rfl; split <;> simp]
@[simp] theorem settleGrp_p0 (t : Tray) (g : Option (Nat × Ctr)) : (t.settleGrp g).p0 = t.p0 := by unfold Tray.settleGrp; split <;> [rfl; split <;> simp]
@[simp] theorem settleGrp_p1 (t : Tray) (g : Option (Nat × Ctr)) : (t.settleGrp g).p1 = t.p1 := by unfold Tray.settleGrp; split <;> [rfl; split <;> simp]
@[simp] theorem settleGrp_sregs (t : Tray) (g : Option (Nat × Ctr)) : (t.settleGrp g).sregs = t.sregs := by unfold Tray.settleGrp; split <;> [rfl; split <;> simp]
@[simp] theorem settleGrp_vregs (t : Tray) (g : Option (Nat × Ctr)) : (t.settleGrp g).vregs = t.vregs := by unfold Tray.settleGrp; split <;> [rfl; split <;> simp]
@[simp] theorem settleGrp_fpctl (t : Tray) (g : Option (Nat × Ctr)) : (t.settleGrp g).fpctl = t.fpctl := by unfold Tray.settleGrp; split <;> [rfl; split <;> simp]
@[simp] theorem settleGrp_fpstat (t : Tray) (g : Option (Nat × Ctr)) : (t.settleGrp g).fpstat = t.fpstat := by unfold Tray.settleGrp; split <;> [rfl; split <;> simp]
@[simp] theorem settleGrp_chainFl (t : Tray) (g : Option (Nat × Ctr)) : (t.settleGrp g).chainFl = t.chainFl := by unfold Tray.settleGrp; split <;> [rfl; split <;> simp]
@[simp] theorem settleGrp_cause (t : Tray) (g : Option (Nat × Ctr)) : (t.settleGrp g).cause = t.cause := by unfold Tray.settleGrp; split <;> [rfl; split <;> simp]
@[simp] theorem settleGrp_epc (t : Tray) (g : Option (Nat × Ctr)) : (t.settleGrp g).epc = t.epc := by unfold Tray.settleGrp; split <;> [rfl; split <;> simp]
@[simp] theorem settleGrp_gangsel (t : Tray) (g : Option (Nat × Ctr)) : (t.settleGrp g).gangsel = t.gangsel := by unfold Tray.settleGrp; split <;> [rfl; split <;> simp]
@[simp] theorem settleGrp_gbatch (t : Tray) (g : Option (Nat × Ctr)) : (t.settleGrp g).gbatch = t.gbatch := by unfold Tray.settleGrp; split <;> [rfl; split <;> simp]
@[simp] theorem settleGrp_seq (t : Tray) (g : Option (Nat × Ctr)) : (t.settleGrp g).seq = t.seq := by unfold Tray.settleGrp; split <;> [rfl; split <;> simp]
@[simp] theorem settleGrp_pend (t : Tray) (g : Option (Nat × Ctr)) : (t.settleGrp g).pend = t.pend := by unfold Tray.settleGrp; split <;> [rfl; split <;> simp]
@[simp] theorem settleGrp_nextPend (t : Tray) (g : Option (Nat × Ctr)) : (t.settleGrp g).nextPend = t.nextPend := by unfold Tray.settleGrp; split <;> [rfl; split <;> simp]
@[simp] theorem settleGrp_obs (t : Tray) (g : Option (Nat × Ctr)) : (t.settleGrp g).obs = t.obs := by unfold Tray.settleGrp; split <;> [rfl; split <;> simp]
@[simp] theorem settleGrp_stale (t : Tray) (g : Option (Nat × Ctr)) : (t.settleGrp g).stale = t.stale := by unfold Tray.settleGrp; split <;> [rfl; split <;> simp]
@[simp] theorem settleGrp_wait (t : Tray) (g : Option (Nat × Ctr)) : (t.settleGrp g).wait = t.wait := by unfold Tray.settleGrp; split <;> [rfl; split <;> simp]
@[simp] theorem settleGrp_traps (t : Tray) (g : Option (Nat × Ctr)) : (t.settleGrp g).traps = t.traps := by unfold Tray.settleGrp; split <;> [rfl; split <;> simp]
@[simp] theorem settleGrp_departing (t : Tray) (g : Option (Nat × Ctr)) : (t.settleGrp g).departing = t.departing := by unfold Tray.settleGrp; split <;> [rfl; split <;> simp]
@[simp] theorem settleGrp_leave (t : Tray) (g : Option (Nat × Ctr)) : (t.settleGrp g).leave = t.leave := by unfold Tray.settleGrp; split <;> [rfl; split <;> simp]
@[simp] theorem settleGrp_hslot (t : Tray) (g : Option (Nat × Ctr)) : (t.settleGrp g).hslot = t.hslot := by unfold Tray.settleGrp; split <;> [rfl; split <;> simp]
@[simp] theorem settleGrp_redeliver (t : Tray) (g : Option (Nat × Ctr)) : (t.settleGrp g).redeliver = t.redeliver := by unfold Tray.settleGrp; split <;> [rfl; split <;> simp]
@[simp] theorem settleGrp_resumeAt (t : Tray) (g : Option (Nat × Ctr)) : (t.settleGrp g).resumeAt = t.resumeAt := by unfold Tray.settleGrp; split <;> [rfl; split <;> simp]
@[simp] theorem settleGrp_entryWord (t : Tray) (g : Option (Nat × Ctr)) : (t.settleGrp g).entryWord = t.entryWord := by unfold Tray.settleGrp; split <;> [rfl; split <;> simp]
@[simp] theorem settleGrp_async (t : Tray) (g : Option (Nat × Ctr)) : (t.settleGrp g).async = t.async := by unfold Tray.settleGrp; split <;> [rfl; split <;> simp]
@[simp] theorem settleGrp_watch (t : Tray) (g : Option (Nat × Ctr)) : (t.settleGrp g).watch = t.watch := by unfold Tray.settleGrp; split <;> [rfl; split <;> simp]
@[simp] theorem settleGrp_vhold (t : Tray) (g : Option (Nat × Ctr)) : (t.settleGrp g).vhold = t.vhold := by unfold Tray.settleGrp; split <;> [rfl; split <;> simp]
@[simp] theorem settleGrp_tret (t : Tray) (g : Option (Nat × Ctr)) : (t.settleGrp g).tret = t.tret := by unfold Tray.settleGrp; split <;> [rfl; split <;> simp]
@[simp] theorem settleGrp_forced (t : Tray) (g : Option (Nat × Ctr)) : (t.settleGrp g).forced = t.forced := by unfold Tray.settleGrp; split <;> [rfl; split <;> simp]
@[simp] theorem settleGrp_prio (t : Tray) (g : Option (Nat × Ctr)) : (t.settleGrp g).prio = t.prio := by unfold Tray.settleGrp; split <;> [rfl; split <;> simp]
@[simp] theorem settleGrp_age (t : Tray) (g : Option (Nat × Ctr)) : (t.settleGrp g).age = t.age := by unfold Tray.settleGrp; split <;> [rfl; split <;> simp]
@[simp] theorem settleGrp_pix (t : Tray) (g : Option (Nat × Ctr)) : (t.settleGrp g).pix = t.pix := by unfold Tray.settleGrp; split <;> [rfl; split <;> simp]

/-- A path with nothing to be done again settles nothing. -/
theorem doneFrom_none (t old : Tray) (path : Nat) (h : (old.path path).redo.bind (·.grp) = none) :
    t.doneFrom old path = t := by
  simp [Tray.doneFrom, h, Tray.settleGrp]

-- A trap is queued.
@[simp] theorem queueTrap_ctx (t : Tray) (cs : List Cause) (epc : Pc) (b : Bool) (path : Nat) (x : Option Nat) : (t.queueTrap cs epc b path x).ctx = t.ctx := by rfl
@[simp] theorem queueTrap_batch (t : Tray) (cs : List Cause) (epc : Pc) (b : Bool) (path : Nat) (x : Option Nat) : (t.queueTrap cs epc b path x).batch = t.batch := by rfl
@[simp] theorem queueTrap_idx (t : Tray) (cs : List Cause) (epc : Pc) (b : Bool) (path : Nat) (x : Option Nat) : (t.queueTrap cs epc b path x).idx = t.idx := by rfl
@[simp] theorem queueTrap_batchId (t : Tray) (cs : List Cause) (epc : Pc) (b : Bool) (path : Nat) (x : Option Nat) : (t.queueTrap cs epc b path x).batchId = t.batchId := by rfl
@[simp] theorem queueTrap_clusterId (t : Tray) (cs : List Cause) (epc : Pc) (b : Bool) (path : Nat) (x : Option Nat) : (t.queueTrap cs epc b path x).clusterId = t.clusterId := by rfl
@[simp] theorem queueTrap_launchId (t : Tray) (cs : List Cause) (epc : Pc) (b : Bool) (path : Nat) (x : Option Nat) : (t.queueTrap cs epc b path x).launchId = t.launchId := by rfl
@[simp] theorem queueTrap_dual (t : Tray) (cs : List Cause) (epc : Pc) (b : Bool) (path : Nat) (x : Option Nat) : (t.queueTrap cs epc b path x).dual = t.dual := by rfl
@[simp] theorem queueTrap_launch (t : Tray) (cs : List Cause) (epc : Pc) (b : Bool) (path : Nat) (x : Option Nat) : (t.queueTrap cs epc b path x).launch = t.launch := by rfl
@[simp] theorem queueTrap_live (t : Tray) (cs : List Cause) (epc : Pc) (b : Bool) (path : Nat) (x : Option Nat) : (t.queueTrap cs epc b path x).live = t.live := by rfl
@[simp] theorem queueTrap_n (t : Tray) (cs : List Cause) (epc : Pc) (b : Bool) (path : Nat) (x : Option Nat) : (t.queueTrap cs epc b path x).n = t.n := by rfl
@[simp] theorem queueTrap_vwin (t : Tray) (cs : List Cause) (epc : Pc) (b : Bool) (path : Nat) (x : Option Nat) : (t.queueTrap cs epc b path x).vwin = t.vwin := by rfl
@[simp] theorem queueTrap_p0 (t : Tray) (cs : List Cause) (epc : Pc) (b : Bool) (path : Nat) (x : Option Nat) : (t.queueTrap cs epc b path x).p0 = t.p0 := by rfl
@[simp] theorem queueTrap_p1 (t : Tray) (cs : List Cause) (epc : Pc) (b : Bool) (path : Nat) (x : Option Nat) : (t.queueTrap cs epc b path x).p1 = t.p1 := by rfl
@[simp] theorem queueTrap_sregs (t : Tray) (cs : List Cause) (epc : Pc) (b : Bool) (path : Nat) (x : Option Nat) : (t.queueTrap cs epc b path x).sregs = t.sregs := by rfl
@[simp] theorem queueTrap_vregs (t : Tray) (cs : List Cause) (epc : Pc) (b : Bool) (path : Nat) (x : Option Nat) : (t.queueTrap cs epc b path x).vregs = t.vregs := by rfl
@[simp] theorem queueTrap_fpctl (t : Tray) (cs : List Cause) (epc : Pc) (b : Bool) (path : Nat) (x : Option Nat) : (t.queueTrap cs epc b path x).fpctl = t.fpctl := by rfl
@[simp] theorem queueTrap_fpstat (t : Tray) (cs : List Cause) (epc : Pc) (b : Bool) (path : Nat) (x : Option Nat) : (t.queueTrap cs epc b path x).fpstat = t.fpstat := by rfl
@[simp] theorem queueTrap_chainFl (t : Tray) (cs : List Cause) (epc : Pc) (b : Bool) (path : Nat) (x : Option Nat) : (t.queueTrap cs epc b path x).chainFl = t.chainFl := by rfl
@[simp] theorem queueTrap_cause (t : Tray) (cs : List Cause) (epc : Pc) (b : Bool) (path : Nat) (x : Option Nat) : (t.queueTrap cs epc b path x).cause = t.cause := by rfl
@[simp] theorem queueTrap_epc (t : Tray) (cs : List Cause) (epc : Pc) (b : Bool) (path : Nat) (x : Option Nat) : (t.queueTrap cs epc b path x).epc = t.epc := by rfl
@[simp] theorem queueTrap_gangsel (t : Tray) (cs : List Cause) (epc : Pc) (b : Bool) (path : Nat) (x : Option Nat) : (t.queueTrap cs epc b path x).gangsel = t.gangsel := by rfl
@[simp] theorem queueTrap_gbatch (t : Tray) (cs : List Cause) (epc : Pc) (b : Bool) (path : Nat) (x : Option Nat) : (t.queueTrap cs epc b path x).gbatch = t.gbatch := by rfl
@[simp] theorem queueTrap_loads (t : Tray) (cs : List Cause) (epc : Pc) (b : Bool) (path : Nat) (x : Option Nat) : (t.queueTrap cs epc b path x).loads = t.loads := by rfl
@[simp] theorem queueTrap_stores (t : Tray) (cs : List Cause) (epc : Pc) (b : Bool) (path : Nat) (x : Option Nat) : (t.queueTrap cs epc b path x).stores = t.stores := by rfl
@[simp] theorem queueTrap_copies (t : Tray) (cs : List Cause) (epc : Pc) (b : Bool) (path : Nat) (x : Option Nat) : (t.queueTrap cs epc b path x).copies = t.copies := by rfl
@[simp] theorem queueTrap_matrix (t : Tray) (cs : List Cause) (epc : Pc) (b : Bool) (path : Nat) (x : Option Nat) : (t.queueTrap cs epc b path x).matrix = t.matrix := by rfl
@[simp] theorem queueTrap_seq (t : Tray) (cs : List Cause) (epc : Pc) (b : Bool) (path : Nat) (x : Option Nat) : (t.queueTrap cs epc b path x).seq = t.seq := by rfl
@[simp] theorem queueTrap_pend (t : Tray) (cs : List Cause) (epc : Pc) (b : Bool) (path : Nat) (x : Option Nat) : (t.queueTrap cs epc b path x).pend = t.pend := by rfl
@[simp] theorem queueTrap_nextPend (t : Tray) (cs : List Cause) (epc : Pc) (b : Bool) (path : Nat) (x : Option Nat) : (t.queueTrap cs epc b path x).nextPend = t.nextPend := by rfl
@[simp] theorem queueTrap_obs (t : Tray) (cs : List Cause) (epc : Pc) (b : Bool) (path : Nat) (x : Option Nat) : (t.queueTrap cs epc b path x).obs = t.obs := by rfl
@[simp] theorem queueTrap_stale (t : Tray) (cs : List Cause) (epc : Pc) (b : Bool) (path : Nat) (x : Option Nat) : (t.queueTrap cs epc b path x).stale = t.stale := by rfl
@[simp] theorem queueTrap_wait (t : Tray) (cs : List Cause) (epc : Pc) (b : Bool) (path : Nat) (x : Option Nat) : (t.queueTrap cs epc b path x).wait = t.wait := by rfl
@[simp] theorem queueTrap_departing (t : Tray) (cs : List Cause) (epc : Pc) (b : Bool) (path : Nat) (x : Option Nat) : (t.queueTrap cs epc b path x).departing = t.departing := by rfl
@[simp] theorem queueTrap_leave (t : Tray) (cs : List Cause) (epc : Pc) (b : Bool) (path : Nat) (x : Option Nat) : (t.queueTrap cs epc b path x).leave = t.leave := by rfl
@[simp] theorem queueTrap_hslot (t : Tray) (cs : List Cause) (epc : Pc) (b : Bool) (path : Nat) (x : Option Nat) : (t.queueTrap cs epc b path x).hslot = t.hslot := by rfl
@[simp] theorem queueTrap_redeliver (t : Tray) (cs : List Cause) (epc : Pc) (b : Bool) (path : Nat) (x : Option Nat) : (t.queueTrap cs epc b path x).redeliver = t.redeliver := by rfl
@[simp] theorem queueTrap_resumeAt (t : Tray) (cs : List Cause) (epc : Pc) (b : Bool) (path : Nat) (x : Option Nat) : (t.queueTrap cs epc b path x).resumeAt = t.resumeAt := by rfl
@[simp] theorem queueTrap_entryWord (t : Tray) (cs : List Cause) (epc : Pc) (b : Bool) (path : Nat) (x : Option Nat) : (t.queueTrap cs epc b path x).entryWord = t.entryWord := by rfl
@[simp] theorem queueTrap_async (t : Tray) (cs : List Cause) (epc : Pc) (b : Bool) (path : Nat) (x : Option Nat) : (t.queueTrap cs epc b path x).async = t.async := by rfl
@[simp] theorem queueTrap_watch (t : Tray) (cs : List Cause) (epc : Pc) (b : Bool) (path : Nat) (x : Option Nat) : (t.queueTrap cs epc b path x).watch = t.watch := by rfl
@[simp] theorem queueTrap_vhold (t : Tray) (cs : List Cause) (epc : Pc) (b : Bool) (path : Nat) (x : Option Nat) : (t.queueTrap cs epc b path x).vhold = t.vhold := by rfl
@[simp] theorem queueTrap_tret (t : Tray) (cs : List Cause) (epc : Pc) (b : Bool) (path : Nat) (x : Option Nat) : (t.queueTrap cs epc b path x).tret = t.tret := by rfl
@[simp] theorem queueTrap_forced (t : Tray) (cs : List Cause) (epc : Pc) (b : Bool) (path : Nat) (x : Option Nat) : (t.queueTrap cs epc b path x).forced = t.forced := by rfl
@[simp] theorem queueTrap_prio (t : Tray) (cs : List Cause) (epc : Pc) (b : Bool) (path : Nat) (x : Option Nat) : (t.queueTrap cs epc b path x).prio = t.prio := by rfl
@[simp] theorem queueTrap_age (t : Tray) (cs : List Cause) (epc : Pc) (b : Bool) (path : Nat) (x : Option Nat) : (t.queueTrap cs epc b path x).age = t.age := by rfl
@[simp] theorem queueTrap_pix (t : Tray) (cs : List Cause) (epc : Pc) (b : Bool) (path : Nat) (x : Option Nat) : (t.queueTrap cs epc b path x).pix = t.pix := by rfl

end Sys2Proof.Laws
end

