-- ==== Sys2Proof/Laws/Issue.lean ====
section
/-!
SUPPORT. What issuing a word does, result by result: the provers cite these and do not unfold `issue`.
-/

namespace Sys2Proof.Laws

open Sys2Proof Sys2Proof.Machine

variable {s : State} {c : Cur} {t : Tray} {ops : List Opnd} {body : Src → Tray → State → Res}

/-- A word that stands to issue, and whose own checks pass, comes to what its body says. -/
theorem issue_run (h : Issuing s c t ops) {r : Res} (hb : body (c.src s t) (t.advance c) s = r)
    (hr : ∀ k, r ≠ .early k) : issue ops s body = r.outcome c t s := by
  have h1 : scoreboard (c.src s t).t c.path ops = false := h.free
  have h2 : beyondN (c.src s t).t ops = false := h.window
  unfold issue
  simp only [h.cur, h.tray, h.legal, h1, h2, hb, Bool.not_true, Bool.false_eq_true, if_false]

/-- Its effects are those of the body. -/
theorem issue_ok (h : Issuing s c t ops) {t' : Tray} {s' : State}
    (hb : body (c.src s t) (t.advance c) s = .ok t' s') : issue ops s body = .next (s'.completed c t t') := by
  rw [issue_run h hb (by simp)]
  simp [Res.outcome, Res.perform, h.performed, State.completed]

/-- A trap found at issue takes the trap and has no other effect (R44). -/
theorem issue_early (h : Issuing s c t ops) {k : Cause}
    (hb : body (c.src s t) (t.advance c) s = .early k) :
    issue ops s body = .next (s.raise c.key c.path [k] c.pc false none) := by
  have h1 : scoreboard (c.src s t).t c.path ops = false := h.free
  unfold issue
  simp only [h.cur, h.tray, h.legal, h1, hb, Bool.not_true, Bool.false_eq_true, if_false]
  simp [Res.outcome, Res.perform, h.performed]

/-- An operand form that is not legal raises ILLEGAL, whatever the body (R45, R48). -/
theorem issue_illegal (hc : s.cur = some c) (hp : c.probe = false) (ht : s.trays.get? c.key = some t)
    (hl : ops.all Opnd.ok = false) : issue ops s body = .next (s.raise c.key c.path [.illegal] c.pc false none) := by
  unfold issue
  simp only [hc, ht, hl, Bool.not_false, if_true]
  simp [Res.outcome, Res.perform, hp]

/-- A word with a register still pending waits: nothing changes (R31). -/
theorem issue_waits (hc : s.cur = some c) (hp : c.probe = false) (ht : s.trays.get? c.key = some t)
    (hl : ops.all Opnd.ok = true) (hs : scoreboard (c.snap.getD t) c.path ops = true) : issue ops s body = .next s := by
  have h1 : scoreboard (c.src s t).t c.path ops = true := hs
  unfold issue
  simp only [hc, ht, hl, h1, Bool.not_true, Bool.false_eq_true, if_false, if_true]
  simp [Res.outcome, Res.perform, hp]

/-- A register at or beyond N raises REGOVF where nothing before it in the order fails (R28, R45). -/
theorem issue_beyond (hc : s.cur = some c) (hp : c.probe = false) (ht : s.trays.get? c.key = some t)
    (hl : ops.all Opnd.ok = true) (hs : scoreboard (c.snap.getD t) c.path ops = false)
    (hw : beyondN (c.snap.getD t) ops = true) (hb : ∀ k, body (c.src s t) (t.advance c) s ≠ .early k) :
    issue ops s body = .next (s.raise c.key c.path [.regovf] c.pc false none) := by
  have h1 : scoreboard (c.src s t).t c.path ops = false := hs
  have h2 : beyondN (c.src s t).t ops = true := hw
  unfold issue
  simp only [hc, ht, hl, h1, h2, Bool.not_true, Bool.false_eq_true, if_false, if_true]
  simp [Res.outcome, Res.perform, hp]

/-- Where a word's sources are read: on its path, at its address, for its tray. -/
@[simp] theorem src_path : (c.src s t).i = c.path := rfl
@[simp] theorem src_pc : (c.src s t).pc = c.pc := rfl
@[simp] theorem src_key : (c.src s t).key = c.key := rfl

/-- Causes set precise at the word where the path goes on (R145, R272, R406). -/
theorem issue_later (h : Issuing s c t ops) {t' : Tray} {s' : State} {k : Cause} {cs : List Cause} {x : Option Nat}
    (hb : body (c.src s t) (t.advance c) s = .later t' s' (k :: cs) x) :
    issue ops s body = .next (s'.completedRaising c t t' (k :: cs) x) := by
  rw [issue_run h hb (by simp)]
  simp [Res.outcome, Res.perform, h.performed, State.completedRaising]

/-- A word that is not a candidate waits and changes nothing. -/
theorem issue_stay (h : Issuing s c t ops) (hb : body (c.src s t) (t.advance c) s = .stay) :
    issue ops s body = .next s := by
  rw [issue_run h hb (by simp)]
  simp [Res.outcome, Res.perform, h.performed]

/-- A cross-lane word that waits for the other slot (R154). -/
theorem issue_converge (h : Issuing s c t ops) (hb : body (c.src s t) (t.advance c) s = .converge) :
    issue ops s body = .next (s.setXwait c) := by
  rw [issue_run h hb (by simp)]
  simp [Res.outcome, Res.perform, h.performed]

/-- An instruction whose effects are on the tray alone. -/
theorem issueTray_ok (h : Issuing s c t ops) (f : Src → Tray → Tray) :
    issueTray ops s f = .next (s.completed c t (f (c.src s t) (t.advance c))) := by
  unfold issueTray
  exact issue_ok (body := fun r t s => .ok (f r t) s) h rfl

/-- A trap after issue (R44). -/
theorem issue_trap (h : Issuing s c t ops) {t' : Tray} {s' : State} {cs : List Cause}
    (hb : body (c.src s t) (t.advance c) s = .trap t' s' cs) :
    issue ops s body = .next (s'.stopped c t t' cs c.tied) := by
  rw [issue_run h hb (by simp)]
  simp [Res.outcome, Res.perform, h.performed, State.stopped]

/-- A trap after issue with S = 0 wherever the word stands (R319). -/
theorem issue_plain (h : Issuing s c t ops) {t' : Tray} {s' : State} {cs : List Cause}
    (hb : body (c.src s t) (t.advance c) s = .plain t' s' cs) :
    issue ops s body = .next (s'.stopped c t t' cs false) := by
  rw [issue_run h hb (by simp)]
  simp [Res.outcome, Res.perform, h.performed, State.stopped]

/-- An .sc operation takes a turn and waits for it (R199, R200). -/
theorem issue_claim (h : Issuing s c t ops) (hb : body (c.src s t) (t.advance c) s = .claim) :
    issue ops s body = .next (s.takeTurn c) := by
  rw [issue_run h hb (by simp)]
  simp [Res.outcome, Res.perform, h.performed]

/-- A word of a chain leaves the end of its group to the chain. -/
theorem completed_tied (h : c.tied = true) (old t' : Tray) :
    s.completed c old t' = s.setTray c.key (t'.doneFrom old c.path) := by
  simp [State.completed, State.finish, h]

/-- A word outside a chain, with nothing to be done again, no trap and no park, ends its group: the tray stands as its effects
left it. -/
theorem completed_alone (h : c.tied = false) {old t' : Tray} (h0 : (old.path c.path).redo.bind (·.grp) = none)
    (h1 : t'.traps = []) (h2 : t'.resumeAt = none) :
    s.completed c old t' = s.setTray c.key { t' with chainFl := 0 } := by
  simp only [State.completed, State.finish, h, Bool.false_eq_true, if_false, State.endGroup, setTray_get,
    doneFrom_none t' old c.path h0, h2]
  have e : (if (t'.wait == Wait.ended) = true then [] else t'.traps) = [] := by rw [h1]; split <;> rfl
  rw [e]
  simp [h1]

end Sys2Proof.Laws
end

