-- ==== Sys2Proof/Laws/Alu.lean ====
section
/-!
SUPPORT. What each shape of arithmetic instruction comes to when its word stands to issue.
-/

namespace Sys2Proof.Laws

open Sys2Proof Sys2Proof.Machine

variable {s : State} {c : Cur} {t : Tray} {i : Instr} {d : BitVec 7}

/-- A scalar instruction writes its value to one scalar register. -/
theorem scalarOp_ok (f : Src → Word) (h : Issuing s c t i.opnds) :
    scalarOp i s d f = .next (s.wroteS c t d (f (c.src s t))) := issueTray_ok h _

/-- A scalar instruction with a 64-bit result writes a pair. -/
theorem scalarOp64_ok (f : Src → DWord) (h : Issuing s c t i.opnds) :
    scalarOp64 i s d f = .next (s.wroteS2 c t d (f (c.src s t))) := issueTray_ok h _

/-- A mask instruction writes one mask triple. -/
theorem maskOp_ok (f : Src → Mask) (h : Issuing s c t i.opnds) :
    maskOp i s d f = .next (s.wroteM c t d (f (c.src s t))) := issueTray_ok h _

/-- A vector instruction writes one window register of each active thread. -/
theorem vectorOp_ok (f : Src → Nat → Word) (h : Issuing s c t i.opnds) :
    vectorOp i s d f = .next (s.wroteV c t d (f (c.src s t))) := issueTray_ok h _

/-- A vector instruction with a 64-bit result writes a pair of each active thread. -/
theorem vectorOp64_ok (f : Src → Nat → DWord) (h : Issuing s c t i.opnds) :
    vectorOp64 i s d f = .next (s.wroteV2 c t d (f (c.src s t))) := issueTray_ok h _

/-- A floating-point instruction writes and merges its flags, or traps and does neither. -/
theorem floatOp_ok (f : Src → Nat → Nat × FFlags) (h : Issuing s c t i.opnds) :
    (metTraps s c t (f (c.src s t)) = [] → floatOp i s d f = .next (s.wroteF c t d (f (c.src s t)))) ∧
    (∀ k cs, metTraps s c t (f (c.src s t)) = k :: cs → floatOp i s d f = .next (s.trapped c t (k :: cs))) := by
  constructor
  · intro he
    refine issue_ok h ?_
    have he' : fpTraps (c.src s t).t.fpctl (orFlags (c.src s t).m0 fun th => (f (c.src s t) th).2) = [] := he
    simp only [he']
    rfl
  · intro k cs he
    refine issue_trap h ?_
    have he' : fpTraps (c.src s t).t.fpctl (orFlags (c.src s t).m0 fun th => (f (c.src s t) th).2) = k :: cs := he
    simp only [he']

/-- The same with a 64-bit result. -/
theorem floatOp64_ok (f : Src → Nat → Nat × FFlags) (h : Issuing s c t i.opnds) :
    (metTraps s c t (f (c.src s t)) = [] → floatOp64 i s d f = .next (s.wroteF2 c t d (f (c.src s t)))) ∧
    (∀ k cs, metTraps s c t (f (c.src s t)) = k :: cs → floatOp64 i s d f = .next (s.trapped c t (k :: cs))) := by
  constructor
  · intro he
    refine issue_ok h ?_
    have he' : fpTraps (c.src s t).t.fpctl (orFlags (c.src s t).m0 fun th => (f (c.src s t) th).2) = [] := he
    simp only [he']
    rfl
  · intro k cs he
    refine issue_trap h ?_
    have he' : fpTraps (c.src s t).t.fpctl (orFlags (c.src s t).m0 fun th => (f (c.src s t) th).2) = k :: cs := he
    simp only [he']

end Sys2Proof.Laws
end

