-- ==== Sys2Proof/Laws/Encoding.lean ====
section
/-!
SUPPORT. The fields of an encoded word, and the B codes of operands: what decoding reads is what encoding packed.
-/

namespace Sys2Proof.Laws

open Sys2Proof

/-- A field of a word given as a number. -/
theorem fld_ofNat (n lo k : Nat) (h : n < 2 ^ 32) : fld (BitVec.ofNat 32 n) lo k = BitVec.ofNat k (n / 2 ^ lo) := by
  simp only [fld, BitVec.toNat_ofNat, Nat.mod_eq_of_lt h]

section packV
variable (m : BitVec 6) (d a : BitVec 7) (b : BitVec 8) (f : BitVec 3)

theorem packV_lt : m.toNat * 2 ^ 25 + d.toNat * 2 ^ 18 + a.toNat * 2 ^ 11 + b.toNat * 2 ^ 3 + f.toNat < 2 ^ 32 := by
  have := m.isLt; have := d.isLt; have := a.isLt; have := b.isLt; have := f.isLt; omega

@[simp] theorem fMaj_packV : fMaj (packV m d a b f) = m := by
  apply BitVec.eq_of_toNat_eq
  rw [fMaj, packV, fld_ofNat _ _ _ (packV_lt m d a b f), BitVec.toNat_ofNat]
  have := m.isLt; have := d.isLt; have := a.isLt; have := b.isLt; have := f.isLt; omega
@[simp] theorem fD_packV : fD (packV m d a b f) = d := by
  apply BitVec.eq_of_toNat_eq
  rw [fD, packV, fld_ofNat _ _ _ (packV_lt m d a b f), BitVec.toNat_ofNat]
  have := m.isLt; have := d.isLt; have := a.isLt; have := b.isLt; have := f.isLt; omega
@[simp] theorem fA_packV : fA (packV m d a b f) = a := by
  apply BitVec.eq_of_toNat_eq
  rw [fA, packV, fld_ofNat _ _ _ (packV_lt m d a b f), BitVec.toNat_ofNat]
  have := m.isLt; have := d.isLt; have := a.isLt; have := b.isLt; have := f.isLt; omega
@[simp] theorem fB_packV : fB (packV m d a b f) = b := by
  apply BitVec.eq_of_toNat_eq
  rw [fB, packV, fld_ofNat _ _ _ (packV_lt m d a b f), BitVec.toNat_ofNat]
  have := m.isLt; have := d.isLt; have := a.isLt; have := b.isLt; have := f.isLt; omega
@[simp] theorem fF_packV : fF (packV m d a b f) = f := by
  apply BitVec.eq_of_toNat_eq
  rw [fF, packV, fld_ofNat _ _ _ (packV_lt m d a b f), BitVec.toNat_ofNat]
  have := m.isLt; have := d.isLt; have := a.isLt; have := b.isLt; have := f.isLt; omega
theorem fDisp_packV : (fDisp (packV m d a b f)).toNat = a.toNat * 256 + b.toNat := by
  rw [fDisp, packV, fld_ofNat _ _ _ (packV_lt m d a b f), BitVec.toNat_ofNat]
  have := m.isLt; have := d.isLt; have := a.isLt; have := b.isLt; have := f.isLt; omega
@[simp] theorem subB_packV (lo n : Nat) : subB (packV m d a b f) lo n = BitVec.ofNat n (b.toNat / 2 ^ lo) := by
  rw [subB, fB_packV]
end packV

section packB
variable (m : BitVec 6) (x : BitVec 7) (d : BitVec 15) (f : BitVec 3)

theorem packB_lt : m.toNat * 2 ^ 25 + x.toNat * 2 ^ 18 + d.toNat * 2 ^ 3 + f.toNat < 2 ^ 32 := by
  have := m.isLt; have := d.isLt; have := x.isLt; have := f.isLt; omega

@[simp] theorem fMaj_packB : fMaj (packB m x d f) = m := by
  apply BitVec.eq_of_toNat_eq
  rw [fMaj, packB, fld_ofNat _ _ _ (packB_lt m x d f), BitVec.toNat_ofNat]
  have := m.isLt; have := d.isLt; have := x.isLt; have := f.isLt; omega
@[simp] theorem fD_packB : fD (packB m x d f) = x := by
  apply BitVec.eq_of_toNat_eq
  rw [fD, packB, fld_ofNat _ _ _ (packB_lt m x d f), BitVec.toNat_ofNat]
  have := m.isLt; have := d.isLt; have := x.isLt; have := f.isLt; omega
@[simp] theorem fDisp_packB : fDisp (packB m x d f) = d := by
  apply BitVec.eq_of_toNat_eq
  rw [fDisp, packB, fld_ofNat _ _ _ (packB_lt m x d f), BitVec.toNat_ofNat]
  have := m.isLt; have := d.isLt; have := x.isLt; have := f.isLt; omega
@[simp] theorem fF_packB : fF (packB m x d f) = f := by
  apply BitVec.eq_of_toNat_eq
  rw [fF, packB, fld_ofNat _ _ _ (packB_lt m x d f), BitVec.toNat_ofNat]
  have := m.isLt; have := d.isLt; have := x.isLt; have := f.isLt; omega
end packB

section packK
variable (m : BitVec 6) (k : Nat) (f : BitVec 3)

theorem packK_lt (h : k < 2 ^ 22) : m.toNat * 2 ^ 25 + k * 2 ^ 3 + f.toNat < 2 ^ 32 := by
  have := m.isLt; have := f.isLt; omega

theorem fMaj_packK (h : k < 2 ^ 22) : fMaj (packK m k f) = m := by
  apply BitVec.eq_of_toNat_eq
  rw [fMaj, packK, fld_ofNat _ _ _ (packK_lt m k f h), BitVec.toNat_ofNat]
  have := m.isLt; have := f.isLt; omega
theorem fF_packK (h : k < 2 ^ 22) : fF (packK m k f) = f := by
  apply BitVec.eq_of_toNat_eq
  rw [fF, packK, fld_ofNat _ _ _ (packK_lt m k f h), BitVec.toNat_ofNat]
  have := m.isLt; have := f.isLt; omega
theorem subK_packK (h : k < 2 ^ 22) (lo n : Nat) : subK (packK m k f) lo n = BitVec.ofNat n (k / 2 ^ lo) := by
  have e : (fld (packK m k f) 3 22).toNat = k := by
    rw [packK, fld_ofNat _ _ _ (packK_lt m k f h), BitVec.toNat_ofNat]
    have := m.isLt; have := f.isLt; omega
  rw [subK, e]
end packK

section packM
variable (m : BitVec 6) (d a : BitVec 7) (w h : BitVec 3) (o : BitVec 5)

theorem packM_lt : m.toNat * 2 ^ 25 + d.toNat * 2 ^ 18 + a.toNat * 2 ^ 11 + w.toNat * 2 ^ 8 + h.toNat * 2 ^ 5 + o.toNat <
    2 ^ 32 := by
  have := m.isLt; have := d.isLt; have := a.isLt; have := w.isLt; have := h.isLt; have := o.isLt; omega

@[simp] theorem fMaj_packM : fMaj (packM m d a w h o) = m := by
  apply BitVec.eq_of_toNat_eq
  rw [fMaj, packM, fld_ofNat _ _ _ (packM_lt m d a w h o), BitVec.toNat_ofNat]
  have := m.isLt; have := d.isLt; have := a.isLt; have := w.isLt; have := h.isLt; have := o.isLt; omega
@[simp] theorem fD_packM : fD (packM m d a w h o) = d := by
  apply BitVec.eq_of_toNat_eq
  rw [fD, packM, fld_ofNat _ _ _ (packM_lt m d a w h o), BitVec.toNat_ofNat]
  have := m.isLt; have := d.isLt; have := a.isLt; have := w.isLt; have := h.isLt; have := o.isLt; omega
@[simp] theorem fA_packM : fA (packM m d a w h o) = a := by
  apply BitVec.eq_of_toNat_eq
  rw [fA, packM, fld_ofNat _ _ _ (packM_lt m d a w h o), BitVec.toNat_ofNat]
  have := m.isLt; have := d.isLt; have := a.isLt; have := w.isLt; have := h.isLt; have := o.isLt; omega
@[simp] theorem fW_packM : fW (packM m d a w h o) = w := by
  apply BitVec.eq_of_toNat_eq
  rw [fW, packM, fld_ofNat _ _ _ (packM_lt m d a w h o), BitVec.toNat_ofNat]
  have := m.isLt; have := d.isLt; have := a.isLt; have := w.isLt; have := h.isLt; have := o.isLt; omega
@[simp] theorem fH_packM : fH (packM m d a w h o) = h := by
  apply BitVec.eq_of_toNat_eq
  rw [fH, packM, fld_ofNat _ _ _ (packM_lt m d a w h o), BitVec.toNat_ofNat]
  have := m.isLt; have := d.isLt; have := a.isLt; have := w.isLt; have := h.isLt; have := o.isLt; omega
@[simp] theorem fO_packM : fO (packM m d a w h o) = o := by
  apply BitVec.eq_of_toNat_eq
  rw [fO, packM, fld_ofNat _ _ _ (packM_lt m d a w h o), BitVec.toNat_ofNat]
  have := m.isLt; have := d.isLt; have := a.isLt; have := w.isLt; have := h.isLt; have := o.isLt; omega
end packM

/-- A legal scalar operand is read back from its B code. -/
theorem SB_ofCode_code (b : SB) (n : Nat) (hn : 1 ≤ n) (h : (b.opnds n).all Opnd.ok = true) : SB.ofCode b.code b.word = some b := by
  cases b with
  | sreg k =>
    have hk : k.toNat < 96 := by
      simp [SB.opnds, Opnd.sr, Opnd.ok] at h; omega
    have e : (k.setWidth 8).toNat = k.toNat := by simp; omega
    simp only [SB.ofCode, SB.code, e, hk, if_true]
    congr 1
    congr 1
    apply BitVec.eq_of_toNat_eq
    simp
  | zero => rfl
  | lit w => rfl

/-- A legal vector operand is read back from its B code. -/
theorem VB_ofCode_code (b : VB) (n : Nat) (hn : 1 ≤ n) (h : (b.opnds n).all Opnd.ok = true) : VB.ofCode b.code b.word = some b := by
  cases b with
  | vreg k =>
    have hk := k.isLt
    have e : (k.setWidth 8).toNat = k.toNat := by simp; omega
    simp only [VB.ofCode, VB.code, e]
    rw [if_pos (by omega)]
    congr 1
    congr 1
    apply BitVec.eq_of_toNat_eq
    simp
  | bcast k =>
    have hk : k.toNat < 96 := by
      simp [VB.opnds, Opnd.sr, Opnd.ok] at h; omega
    have e : (k.setWidth 8 + 0x80).toNat = k.toNat + 128 := by simp [BitVec.toNat_add]; omega
    simp only [VB.ofCode, VB.code, e]
    rw [if_neg (by omega), if_pos (by omega)]
    congr 1
    congr 1
    apply BitVec.eq_of_toNat_eq
    rw [BitVec.toNat_setWidth, e]
    omega
  | zero => rfl
  | lit w => rfl

/-- A mask operand is read back from its B code. -/
theorem MB_ofCode_code (b : MB) : MB.ofCode b.code b.word = some b := by
  cases b with
  | tri k =>
    have hk := k.isLt
    have e : (k.setWidth 8).toNat = k.toNat := by simp; omega
    simp only [MB.ofCode, MB.code, e]
    rw [if_pos (by omega)]
    congr 1
    congr 1
    apply BitVec.eq_of_toNat_eq
    simp
  | zero => rfl
  | lit w => rfl

/-- A word of a major below 0x34 that reads as a well-formed instruction decodes to it. -/
theorem decode_core {w lit : Word} {i : Instr} (hm : (fMaj w).toNat < 0x34) (hr : decodeRaw w lit = .ok i) (hw : i.wf = true) :
    decode w lit = .ok i := by
  have h1 : ((fMaj w).toNat == 0x34) = false := by simp; omega
  have h2 : ((fMaj w).toNat == 0x35) = false := by simp; omega
  have e : readWord w lit = .ok (.core i) := by
    simp only [readWord, h1, h2, hr]; rfl
  have hw' : (Decoded.core i).wf = true := hw
  simp only [decode, decodeWord, e, hw', if_true]
  rfl

/-- Decoding what is encoded answers the instruction, or the first row of its word for the rows that share one. -/
def RoundTrip (i : Instr) : Prop := i.wf = true → ∀ ws, encode i = some ws → decode ws.1 ws.2 = .ok i.primary

/-- The operands of a well-formed instruction are legal. -/
theorem wf_all {i : Instr} (h : i.wf = true) : i.opnds.all Opnd.ok = true := by
  simp only [Instr.wf, Bool.and_eq_true] at h
  exact h.1

/-- The last operands of a well-formed instruction are legal. -/
theorem wf_tail {i : Instr} {l m : List Opnd} (h : i.wf = true) (e : i.opnds = l ++ m) : m.all Opnd.ok = true := by
  have q := wf_all h
  rw [e, List.all_append, Bool.and_eq_true] at q
  exact q.2

/-- A scalar operand of a packed word is read back. -/
theorem SB_packed (m : BitVec 6) (d a : BitVec 7) (f : BitVec 3) (b : SB) (n : Nat) (hn : 1 ≤ n)
    (h : (b.opnds n).all Opnd.ok = true) : SB.ofCode (fB (packV m d a b.code f)) b.word = some b := by
  rw [fB_packV]; exact SB_ofCode_code b n hn h

/-- A vector operand of a packed word is read back. -/
theorem VB_packed (m : BitVec 6) (d a : BitVec 7) (f : BitVec 3) (b : VB) (n : Nat) (hn : 1 ≤ n)
    (h : (b.opnds n).all Opnd.ok = true) : VB.ofCode (fB (packV m d a b.code f)) b.word = some b := by
  rw [fB_packV]; exact VB_ofCode_code b n hn h

/-- A mask operand of a packed word is read back. -/
theorem MB_packed (m : BitVec 6) (d a : BitVec 7) (f : BitVec 3) (b : MB) :
    MB.ofCode (fB (packV m d a b.code f)) b.word = some b := by
  rw [fB_packV]; exact MB_ofCode_code b

/-- An instruction or event without a word. -/
theorem of_none {i : Instr} (e : encode i = none) : RoundTrip i := by
  intro _ ws h; rw [e] at h; cases h

/-- Rows that share a word with the first row of it are well formed where that is. -/
theorem primary_wf (i : Instr) (h : i.wf = true) : i.primary.wf = true := by
  cases i <;> first | exact h | (simp only [Instr.wf, Instr.primary] at h ⊢; exact h)

/-- An instruction of major 0x34. -/
theorem of_34 {i : Instr} {w lit : Word} {l : HighOp} (e : encode i = some (w, lit)) (hm : fMaj w = 0x34#6)
    (hp : i.primary = l.instr) (hw : i.wf = true → (Decoded.high l).wf = true) (hd : i.wf = true → decMaj34 w lit = .ok l) :
    RoundTrip i := by
  intro h ws he
  rw [e] at he; cases he
  rw [hp]
  have e1 : readWord w lit = .ok (.high l) := by
    simp only [readWord, hm, hd h]; rfl
  simp only [decode, decodeWord, e1, hw h, if_true]
  rfl

/-- An instruction of major 0x35. -/
theorem of_35 {i : Instr} {w lit : Word} {l : HighOp} (e : encode i = some (w, lit)) (hm : fMaj w = 0x35#6)
    (hp : i.primary = l.instr) (hw : i.wf = true → (Decoded.high l).wf = true) (hd : i.wf = true → decMaj35 w lit = .ok l) :
    RoundTrip i := by
  intro h ws he
  rw [e] at he; cases he
  rw [hp]
  have e1 : readWord w lit = .ok (.high l) := by
    simp only [readWord, hm, hd h]; rfl
  simp only [decode, decodeWord, e1, hw h, if_true]
  rfl

/-- An instruction of a major below 0x34. -/
theorem of_raw {i j : Instr} {w lit : Word} {m : BitVec 6} (e : encode i = some (w, lit)) (hm : fMaj w = m) (hl : m.toNat < 0x34)
    (hp : i.primary = j) (hd : i.wf = true → decodeRaw w lit = .ok j) : RoundTrip i := by
  intro h ws hw
  rw [e] at hw; cases hw
  rw [hp]
  exact decode_core (by rw [hm]; exact hl) (hd h) (hp ▸ primary_wf i h)

-- Which major a word is read by

theorem raw_00 {w lit : Word} (h : fMaj w = 0#6) : decodeRaw w lit = decMaj00 w lit := by unfold decodeRaw; rw [h]; rfl
theorem raw_01 {w lit : Word} (h : fMaj w = 1#6) : decodeRaw w lit = decMaj01 w lit := by unfold decodeRaw; rw [h]; rfl
theorem raw_02 {w lit : Word} (h : fMaj w = 2#6) : decodeRaw w lit = decMaj02 w lit := by unfold decodeRaw; rw [h]; rfl
theorem raw_03 {w lit : Word} (h : fMaj w = 3#6) : decodeRaw w lit = decMaj03 w lit := by unfold decodeRaw; rw [h]; rfl
theorem raw_04 {w lit : Word} (h : fMaj w = 4#6) : decodeRaw w lit = decMaj04 w lit := by unfold decodeRaw; rw [h]; rfl
theorem raw_05 {w lit : Word} (h : fMaj w = 5#6) : decodeRaw w lit = decMaj05 w lit := by unfold decodeRaw; rw [h]; rfl
theorem raw_06 {w lit : Word} (h : fMaj w = 6#6) : decodeRaw w lit = decMaj06 w lit := by unfold decodeRaw; rw [h]; rfl
theorem raw_07 {w lit : Word} (h : fMaj w = 7#6) : decodeRaw w lit = decMaj07 w lit := by unfold decodeRaw; rw [h]; rfl
theorem raw_08 {w lit : Word} (h : fMaj w = 8#6) : decodeRaw w lit = decMaj08 w lit := by unfold decodeRaw; rw [h]; rfl
theorem raw_09 {w lit : Word} (h : fMaj w = 9#6) : decodeRaw w lit = decMaj09 w lit := by unfold decodeRaw; rw [h]; rfl
theorem raw_0A {w lit : Word} (h : fMaj w = 10#6) : decodeRaw w lit = decMaj0A w lit := by unfold decodeRaw; rw [h]; rfl
theorem raw_0B {w lit : Word} (h : fMaj w = 11#6) : decodeRaw w lit = decMaj0B w lit := by unfold decodeRaw; rw [h]; rfl
theorem raw_0C {w lit : Word} (h : fMaj w = 12#6) : decodeRaw w lit = decMaj0C w lit := by unfold decodeRaw; rw [h]; rfl
theorem raw_0D {w lit : Word} (h : fMaj w = 13#6) : decodeRaw w lit = decMaj0D w lit := by unfold decodeRaw; rw [h]; rfl
theorem raw_0E {w lit : Word} (h : fMaj w = 14#6) : decodeRaw w lit = decMaj0E w lit := by unfold decodeRaw; rw [h]; rfl
theorem raw_0F {w lit : Word} (h : fMaj w = 15#6) : decodeRaw w lit = decMaj0F w lit := by unfold decodeRaw; rw [h]; rfl
theorem raw_10 {w lit : Word} (h : fMaj w = 16#6) : decodeRaw w lit = decMaj10 w lit := by unfold decodeRaw; rw [h]; rfl
theorem raw_11 {w lit : Word} (h : fMaj w = 17#6) : decodeRaw w lit = decMaj11 w lit := by unfold decodeRaw; rw [h]; rfl
theorem raw_12 {w lit : Word} (h : fMaj w = 18#6) : decodeRaw w lit = decMaj12 w lit := by unfold decodeRaw; rw [h]; rfl
theorem raw_13 {w lit : Word} (h : fMaj w = 19#6) : decodeRaw w lit = decMaj13 w lit := by unfold decodeRaw; rw [h]; rfl
theorem raw_14 {w lit : Word} (h : fMaj w = 20#6) : decodeRaw w lit = decMaj14 w lit := by unfold decodeRaw; rw [h]; rfl
theorem raw_15 {w lit : Word} (h : fMaj w = 21#6) : decodeRaw w lit = decMaj15 w lit := by unfold decodeRaw; rw [h]; rfl
theorem raw_16 {w lit : Word} (h : fMaj w = 22#6) : decodeRaw w lit = decMaj16 w lit := by unfold decodeRaw; rw [h]; rfl
theorem raw_17 {w lit : Word} (h : fMaj w = 23#6) : decodeRaw w lit = decMaj17 w lit := by unfold decodeRaw; rw [h]; rfl
theorem raw_18 {w lit : Word} (h : fMaj w = 24#6) : decodeRaw w lit = decMaj18 w lit := by unfold decodeRaw; rw [h]; rfl
theorem raw_19 {w lit : Word} (h : fMaj w = 25#6) : decodeRaw w lit = decMaj19 w lit := by unfold decodeRaw; rw [h]; rfl
theorem raw_1A {w lit : Word} (h : fMaj w = 26#6) : decodeRaw w lit = decMaj1A w lit := by unfold decodeRaw; rw [h]; rfl
theorem raw_1B {w lit : Word} (h : fMaj w = 27#6) : decodeRaw w lit = decMaj1B w lit := by unfold decodeRaw; rw [h]; rfl
theorem raw_20 {w lit : Word} (h : fMaj w = 32#6) : decodeRaw w lit = .ok (.ld (fD w) (fA w) (fW w) (fH w) (fO w)) := by
  unfold decodeRaw; rw [h]; rfl
theorem raw_21 {w lit : Word} (h : fMaj w = 33#6) : decodeRaw w lit = .ok (.st (fD w) (fA w) (fW w) (fH w) (fO w)) := by
  unfold decodeRaw; rw [h]; rfl
theorem raw_22 {w lit : Word} (h : fMaj w = 34#6) : decodeRaw w lit = .ok (.ldv (fD w) (fA w) (fW w) (fH w) (fO w)) := by
  unfold decodeRaw; rw [h]; rfl
theorem raw_23 {w lit : Word} (h : fMaj w = 35#6) : decodeRaw w lit = .ok (.lds (fD w) (fA w) (fW w) (fH w) (fO w)) := by
  unfold decodeRaw; rw [h]; rfl
theorem raw_24 {w lit : Word} (h : fMaj w = 36#6) : decodeRaw w lit = .ok (.sts (fD w) (fA w) (fW w) (fH w) (fO w)) := by
  unfold decodeRaw; rw [h]; rfl
theorem raw_25 {w lit : Word} (h : fMaj w = 37#6) : decodeRaw w lit = .ok (.atom (fD w) (fA w) (fW w) (fH w) (fO w)) := by
  unfold decodeRaw; rw [h]; rfl
theorem raw_26 {w lit : Word} (h : fMaj w = 38#6) : decodeRaw w lit = .ok (.atoms (fD w) (fA w) (fW w) (fH w) (fO w)) := by
  unfold decodeRaw; rw [h]; rfl
theorem raw_27 {w lit : Word} (h : fMaj w = 39#6) : decodeRaw w lit = .ok (.red (fD w) (fA w) (fW w) (fH w) (fO w)) := by
  unfold decodeRaw; rw [h]; rfl
theorem raw_28 {w lit : Word} (h : fMaj w = 40#6) : decodeRaw w lit = .ok (.ldw (fD w) (fA w) (fW w) (fH w) (fO w)) := by
  unfold decodeRaw; rw [h]; rfl
theorem raw_29 {w lit : Word} (h : fMaj w = 41#6) : decodeRaw w lit = decMaj29 w lit := by unfold decodeRaw; rw [h]; rfl
theorem raw_2C {w lit : Word} (h : fMaj w = 44#6) : decodeRaw w lit = decMaj2C w lit := by unfold decodeRaw; rw [h]; rfl
theorem raw_2D {w lit : Word} (h : fMaj w = 45#6) : decodeRaw w lit = decMaj2D w lit := by unfold decodeRaw; rw [h]; rfl
theorem raw_2E {w lit : Word} (h : fMaj w = 46#6) : decodeRaw w lit = decMaj2E w lit := by unfold decodeRaw; rw [h]; rfl
theorem raw_2F {w lit : Word} (h : fMaj w = 47#6) : decodeRaw w lit = decMaj2F w lit := by unfold decodeRaw; rw [h]; rfl
theorem raw_30 {w lit : Word} (h : fMaj w = 48#6) : decodeRaw w lit = decMaj30 w lit := by unfold decodeRaw; rw [h]; rfl
theorem raw_31 {w lit : Word} (h : fMaj w = 49#6) : decodeRaw w lit = decMaj31 w lit := by unfold decodeRaw; rw [h]; rfl
theorem raw_32 {w lit : Word} (h : fMaj w = 50#6) : decodeRaw w lit = decMaj32 w lit := by unfold decodeRaw; rw [h]; rfl
theorem raw_33 {w lit : Word} (h : fMaj w = 51#6) : decodeRaw w lit = decMaj33 w lit := by unfold decodeRaw; rw [h]; rfl

end Sys2Proof.Laws
end

