-- ==== Sys2Proof/Laws/Engine.lean ====
section
/-!
SUPPORT. What issuing a word of the engine pipe does, result by result.
-/

namespace Sys2Proof.Laws

open Sys2Proof Sys2Proof.Machine

variable {s : State} {c : Cur} {t : Tray} {i : Instr} {body : Src → Tray → State → Res}

/-- The cluster of a tray does not depend on its paths. -/
@[simp] theorem clusterIdOf_advance : s.clusterIdOf (t.advance c) = s.clusterIdOf t := by simp [State.clusterIdOf]
@[simp] theorem clusterFor_advance : s.clusterFor (t.advance c) = s.clusterFor t := by simp [State.clusterFor]

/-- With room in the replay window an engine word issues like any other. -/
theorem engine_eq (hc : s.cur = some c) (hf : s.replayFull (c.key / 32) = false) (ops : List Opnd) :
    engine ops s body = issue ops s body := by
  simp [engine, hc, hf]

/-- With the replay window full an engine word waits and changes nothing (R17). -/
theorem engine_full (hc : s.cur = some c) (hp : c.probe = false) (hf : s.replayFull (c.key / 32) = true) (ops : List Opnd) :
    engine ops s body = .next s := by
  simp [engine, hc, hf, hp]

/-- Its effects are those of the body. -/
theorem engine_ok (h : EngineIssuing s c t i) {t' : Tray} {s' : State}
    (hb : body (c.src s t) (t.advance c) s = .ok t' s') : engine i.opnds s body = .next (s'.completed c t t') := by
  rw [engine_eq h.1.cur h.2]
  exact issue_ok h.1 hb

/-- A trap found at issue. -/
theorem engine_early (h : EngineIssuing s c t i) {k : Cause} (hb : body (c.src s t) (t.advance c) s = .early k) :
    engine i.opnds s body = .next (s.raise c.key c.path [k] c.pc false none) := by
  rw [engine_eq h.1.cur h.2]
  exact issue_early h.1 hb

/-- A trap after issue. -/
theorem engine_trap (h : EngineIssuing s c t i) {t' : Tray} {s' : State} {cs : List Cause}
    (hb : body (c.src s t) (t.advance c) s = .trap t' s' cs) :
    engine i.opnds s body = .next (s'.stopped c t t' cs c.tied) := by
  rw [engine_eq h.1.cur h.2]
  exact issue_trap h.1 hb

/-- Causes set precise at the word where the path goes on. -/
theorem engine_later (h : EngineIssuing s c t i) {t' : Tray} {s' : State} {k : Cause} {cs : List Cause} {x : Option Nat}
    (hb : body (c.src s t) (t.advance c) s = .later t' s' (k :: cs) x) :
    engine i.opnds s body = .next (s'.completedRaising c t t' (k :: cs) x) := by
  rw [engine_eq h.1.cur h.2]
  exact issue_later h.1 hb

/-- A word that is not a candidate waits and changes nothing. -/
theorem engine_stay (h : EngineIssuing s c t i) (hb : body (c.src s t) (t.advance c) s = .stay) :
    engine i.opnds s body = .next s := by
  rw [engine_eq h.1.cur h.2]
  exact issue_stay h.1 hb

/-- The operands that are not window registers pass what all of them pass. -/
theorem all_filter {p : Opnd → Bool} {q : Opnd → Bool} {l : List Opnd} (h : l.all p = true) : (l.filter q).all p = true := by
  rw [List.all_eq_true] at h ⊢
  exact fun o ho => h o (List.mem_of_mem_filter ho)

/-- No operand of a part meets what none of the whole meets. -/
theorem any_filter {p : Opnd → Bool} {q : Opnd → Bool} {l : List Opnd} (h : l.any p = false) : (l.filter q).any p = false := by
  rw [List.any_eq_false] at h ⊢
  exact fun o ho => h o (List.mem_of_mem_filter ho)

/-- A part of a word's operands waits for nothing that the whole does not wait for. -/
theorem scoreboard_filter {t : Tray} {k : Nat} {l : List Opnd} (q : Opnd → Bool) (h : scoreboard t k l = false) :
    scoreboard t k (l.filter q) = false := by
  unfold scoreboard at h ⊢
  rw [List.any_eq_false] at h ⊢
  intro p hp hc
  apply h p hp
  rw [Bool.or_eq_true, List.any_eq_true, List.any_eq_true] at hc ⊢
  rcases hc with ⟨k, hk, hk'⟩ | ⟨k, hk, hk'⟩
  · refine Or.inl ⟨k, hk, ?_⟩
    rw [Bool.or_eq_true] at hk' ⊢
    rcases hk' with h1 | h1
    · exact Or.inl h1
    · rw [List.any_eq_true] at h1 ⊢
      obtain ⟨o, ho, ho'⟩ := h1
      exact Or.inr ⟨o, List.mem_of_mem_filter ho, ho'⟩
  · refine Or.inr ⟨k, hk, ?_⟩
    rw [List.any_eq_true] at hk' ⊢
    obtain ⟨o, ho, ho'⟩ := hk'
    exact ⟨o, List.mem_of_mem_filter ho, ho'⟩

/-- A word that stands to issue does so with some of its operands. -/
theorem Issuing.filter {ops : List Opnd} (h : Issuing s c t ops) (q : Opnd → Bool) : Issuing s c t (ops.filter q) :=
  ⟨h.cur, h.performed, h.tray, all_filter h.legal, scoreboard_filter q h.free, any_filter h.window⟩

/-- An engine word that checks its window registers itself comes to what its body says. -/
theorem engineLate_run (h : EngineIssuing s c t i) {r : Res} (hb : body (c.src s t) (t.advance c) s = r)
    (hr : ∀ k, r ≠ .early k) : engineLate i.opnds s body = r.outcome c t s := by
  unfold engineLate
  rw [engine_eq h.1.cur h.2]
  have hl := h.1.legal
  have hs : scoreboard (c.src s t).t c.path i.opnds = false := h.1.free
  refine issue_run (Issuing.filter h.1 _) ?_ hr
  simp [hl, hs, hb]

end Sys2Proof.Laws
end

