-- ==== Sys2Proof/Laws/Frame.lean ====
section
/-!
SUPPORT. What a register write leaves unchanged, and the frame of a word whose effects are on its tray alone.
-/

namespace Sys2Proof.Laws

open Sys2Proof Sys2Proof.Machine

/-- The path that was just set. -/
@[simp] theorem setPath_path_same (t : Tray) (i : Nat) (p : Path) : (t.setPath i p).path i = p := by
  unfold Tray.setPath Tray.path
  by_cases h : i = 0
  · simp [h]
  · cases e : t.p1 <;> simp [h, e]

/-- Slot 1 exists after a path is set exactly where it did before. -/
@[simp] theorem setPath_p1_isNone (t : Tray) (i : Nat) (p : Path) : (t.setPath i p).p1.isNone = t.p1.isNone := by
  unfold Tray.setPath
  split
  · rfl
  · rename_i h; simp at h; cases e : t.p1 <;> simp_all

/-- Setting a path changes the paths of its tray alone. -/
theorem setPath_form (t : Tray) (i : Nat) (p : Path) :
    t.setPath i p = { t with p0 := (t.setPath i p).p0, p1 := (t.setPath i p).p1 } := by
  unfold Tray.setPath; split <;> rfl

/-- The bits of a mask after a word is put in. -/
theorem maskWord_bit (m : Mask) (k : Nat) (v : Word) (n : Nat) (hn : n < 96) :
    (maskWord m k v).getLsbD n = if 32 * k ≤ n ∧ n < 32 * k + 32 then v.getLsbD (n - 32 * k) else m.getLsbD n := by
  have e : ∀ n, (0xFFFFFFFF#96).getLsbD n = decide (n < 32) := by
    intro n
    by_cases hn : n < 96
    · revert n; decide
    · rw [BitVec.getLsbD_of_ge _ _ (by omega)]; symm; simp; omega
  unfold maskWord
  simp only [BitVec.getLsbD_or, BitVec.getLsbD_and, BitVec.getLsbD_not, BitVec.getLsbD_shiftLeft, BitVec.getLsbD_setWidth, e,
    hn, decide_true, Bool.true_and]
  by_cases h1 : 32 * k ≤ n
  · by_cases h2 : n < 32 * k + 32
    · simp [h1, h2, show ¬n < 32 * k by omega, show n - 32 * k < 32 by omega, show n - 32 * k < 96 by omega]
    · simp [h2, show ¬n < 32 * k by omega, show ¬n - 32 * k < 32 by omega,
        BitVec.getLsbD_of_ge v (n - 32 * k) (by omega)]
  · simp [h1, show n < 32 * k by omega]

/-- A word of a mask that is not the one put in keeps its value. -/
theorem maskWord_ne (m : Mask) {k j : Nat} (v : Word) (hj : j < 3) (h : j ≠ k) :
    (maskWord m k v).extractLsb' (32 * j) 32 = m.extractLsb' (32 * j) 32 := by
  apply BitVec.eq_of_getLsbD_eq
  intro i hi
  rw [BitVec.getLsbD_extractLsb', BitVec.getLsbD_extractLsb', maskWord_bit _ _ _ _ (by omega), if_neg (by omega)]

/-- A scalar register that is not the one written keeps its value as the path sees it. -/
theorem setSreg_ne (t : Tray) (i : Nat) {k j : Nat} (v : Word) (h : j ≠ k) : (t.setSreg i k v).sreg i j = t.sreg i j := by
  unfold Tray.setSreg Tray.sreg
  by_cases hk : k < 3
  · by_cases hj : j < 3
    · simp only [hk, hj, if_true, setPath_path_same]
      exact maskWord_ne _ _ hj h
    · simp [hk, hj]
  · by_cases hj : j < 3
    · simp only [hk, hj, if_true, if_false]
      rfl
    · simp only [hk, hj, if_false]
      exact smGet_smSet_ne _ _ h

/-- Writing a scalar register changes paths and scalar registers alone. -/
theorem setSreg_form (t : Tray) (i k : Nat) (v : Word) :
    t.setSreg i k v = { t with p0 := (t.setSreg i k v).p0, p1 := (t.setSreg i k v).p1, sregs := (t.setSreg i k v).sregs } := by
  unfold Tray.setSreg Tray.setPath; split
  · split <;> rfl
  · rfl

end Sys2Proof.Laws
end

