-- ==== Sys2Proof/Laws/Memory.lean ====
section
/-!
SUPPORT. What the memory operations do: the byte read after each, and the canonical form that each keeps.
-/

namespace Sys2Proof.Laws

open Sys2Proof.Machine

/-- A byte after a number is written. -/
theorem wr_byte (s : State) (pa n v a : Nat) :
    smGet (s.wr pa n v).mem a = if pa ≤ a ∧ a < pa + n then BitVec.ofNat 8 (v / 256 ^ (a - pa)) else smGet s.mem a :=
  smGet_smFill s.mem pa n _ a

/-- A byte after bytes are written. -/
theorem wrBytes_byte (s : State) (pa : Nat) (bs : List Byte) (a : Nat) :
    smGet (s.wrBytes pa bs).mem a = if pa ≤ a ∧ a < pa + bs.length then bs.getD (a - pa) 0 else smGet s.mem a :=
  smGet_smFill s.mem pa bs.length _ a

/-- The number read from a map whose bytes are those of v. -/
theorem smNat_bytes (m : SMap 8) (lo n v : Nat) (h : ∀ i < n, smGet m (lo + i) = BitVec.ofNat 8 (v / 256 ^ i)) :
    smNat m lo n = v % 256 ^ n := by
  induction n generalizing lo v with
  | zero => simp [smNat, Nat.mod_one]
  | succ n ih =>
    have h0 := h 0 (by omega)
    have hr := ih (lo + 1) (v / 256) fun i hi => by
      have := h (i + 1) (by omega)
      rw [show lo + 1 + i = lo + (i + 1) by omega, this, Nat.div_div_eq_div_mul, pow_succ']
    simp only [smNat, hr]
    simp only [Nat.add_zero, pow_zero, Nat.div_one] at h0
    have e : v % (256 * 256 ^ n) = v % 256 + 256 * (v / 256 % 256 ^ n) := Nat.mod_mul
    rw [h0, BitVec.toNat_ofNat, pow_succ' 256 n, e]
    norm_num

/-- Reading what was just written. -/
theorem rd_wr (s : State) (pa n v : Nat) : (s.wr pa n v).rd pa n = v % 256 ^ n := by
  apply smNat_bytes
  intro i hi
  rw [wr_byte, if_pos (by omega)]
  simp

/-- Every memory operation keeps the canonical form. -/
theorem memOk_wr {s : State} (h : s.memOk) (pa n v : Nat) : (s.wr pa n v).memOk := ⟨smWf_smFill _ _ _ _ h.1, h.2⟩

theorem memOk_wrBytes {s : State} (h : s.memOk) (pa : Nat) (bs : List Byte) : (s.wrBytes pa bs).memOk :=
  ⟨smWf_smFill _ _ _ _ h.1, h.2⟩

theorem memOk_setPoison {s : State} (h : s.memOk) (pa : Nat) (p : Bool) : (s.setPoison pa p).memOk :=
  ⟨h.1, smWf_smSet _ _ _ h.2⟩

theorem memOk_copyBytes {s : State} (h : s.memOk) (src dst n : Nat) : (s.copyBytes src dst n).memOk :=
  ⟨smWf_smMove _ _ _ _ h.1, smWf_smMove _ _ _ _ h.2⟩

theorem memOk_zeroBytes {s : State} (h : s.memOk) (pa n : Nat) : (s.zeroBytes pa n).memOk :=
  ⟨smWf_cut _ _ _ (by omega) h.1, smWf_cut _ _ _ (by omega) h.2⟩

/-- The form holds after reset. -/
theorem memOk_reset : State.reset.memOk := ⟨rfl, rfl⟩

end Sys2Proof.Laws
end

