-- ==== Sys2Proof/Laws/PerInstr.lean ====
section
/-!
SUPPORT. For each instruction: well-formed fields decode from the encoded words to the instruction (R46, R55). An event of
the table has no words.
-/

namespace Sys2Proof.Laws

open Sys2Proof

/-- Decoding what is encoded answers the instruction, or the first row of its word for the rows that share one. -/
def Encoding.Statement (i : Instr) : Prop := RoundTrip i

namespace Encoding

theorem yield (cond : BitVec 3) (p : BitVec 7) (c : BitVec 7) : Encoding.Statement (.yield cond p c) := by
  have hk : cond.toNat * 2 ^ 19 + p.toNat * 2 ^ 12 + c.toNat * 2 ^ 5 < 2 ^ 22 := by have := cond.isLt; have := p.isLt; have := c.isLt; omega
  refine of_raw (j := (.yield cond p c)) rfl (fMaj_packK _ _ _ hk) (by decide) rfl fun h => ?_
  rw [raw_00 (fMaj_packK 0 _ _ hk)]; unfold decMaj00; rw [fF_packK _ _ _ hk]
  have s0 : subK (packK 0 (cond.toNat * 2 ^ 19 + p.toNat * 2 ^ 12 + c.toNat * 2 ^ 5) 2) 0 5 = 0#5 := by
    rw [subK_packK _ _ _ hk]; apply BitVec.eq_of_toNat_eq; simp only [BitVec.toNat_ofNat]; have := cond.isLt; have := p.isLt; have := c.isLt; omega
  have s19 : subK (packK 0 (cond.toNat * 2 ^ 19 + p.toNat * 2 ^ 12 + c.toNat * 2 ^ 5) 2) 19 3 = cond := by
    rw [subK_packK _ _ _ hk]; apply BitVec.eq_of_toNat_eq; simp only [BitVec.toNat_ofNat]; have := cond.isLt; have := p.isLt; have := c.isLt; omega
  have s12 : subK (packK 0 (cond.toNat * 2 ^ 19 + p.toNat * 2 ^ 12 + c.toNat * 2 ^ 5) 2) 12 7 = p := by
    rw [subK_packK _ _ _ hk]; apply BitVec.eq_of_toNat_eq; simp only [BitVec.toNat_ofNat]; have := cond.isLt; have := p.isLt; have := c.isLt; omega
  have s5 : subK (packK 0 (cond.toNat * 2 ^ 19 + p.toNat * 2 ^ 12 + c.toNat * 2 ^ 5) 2) 5 7 = c := by
    rw [subK_packK _ _ _ hk]; apply BitVec.eq_of_toNat_eq; simp only [BitVec.toNat_ofNat]; have := cond.isLt; have := p.isLt; have := c.isLt; omega
  simp only [s0, s19, s12, s5, res0]; rfl
theorem waitc (l : BitVec 5) (st : BitVec 5) (y : BitVec 5) (m : BitVec 5) : Encoding.Statement (.waitc l st y m) := by
  have hk : l.toNat * 2 ^ 17 + st.toNat * 2 ^ 12 + y.toNat * 2 ^ 7 + m.toNat * 2 ^ 2 < 2 ^ 22 := by have := l.isLt; have := st.isLt; have := y.isLt; have := m.isLt; omega
  refine of_raw (j := (.waitc l st y m)) rfl (fMaj_packK _ _ _ hk) (by decide) rfl fun h => ?_
  rw [raw_00 (fMaj_packK 0 _ _ hk)]; unfold decMaj00; rw [fF_packK _ _ _ hk]
  have s0 : subK (packK 0 (l.toNat * 2 ^ 17 + st.toNat * 2 ^ 12 + y.toNat * 2 ^ 7 + m.toNat * 2 ^ 2) 3) 0 2 = 0#2 := by
    rw [subK_packK _ _ _ hk]; apply BitVec.eq_of_toNat_eq; simp only [BitVec.toNat_ofNat]; have := l.isLt; have := st.isLt; have := y.isLt; have := m.isLt; omega
  have s17 : subK (packK 0 (l.toNat * 2 ^ 17 + st.toNat * 2 ^ 12 + y.toNat * 2 ^ 7 + m.toNat * 2 ^ 2) 3) 17 5 = l := by
    rw [subK_packK _ _ _ hk]; apply BitVec.eq_of_toNat_eq; simp only [BitVec.toNat_ofNat]; have := l.isLt; have := st.isLt; have := y.isLt; have := m.isLt; omega
  have s12 : subK (packK 0 (l.toNat * 2 ^ 17 + st.toNat * 2 ^ 12 + y.toNat * 2 ^ 7 + m.toNat * 2 ^ 2) 3) 12 5 = st := by
    rw [subK_packK _ _ _ hk]; apply BitVec.eq_of_toNat_eq; simp only [BitVec.toNat_ofNat]; have := l.isLt; have := st.isLt; have := y.isLt; have := m.isLt; omega
  have s7 : subK (packK 0 (l.toNat * 2 ^ 17 + st.toNat * 2 ^ 12 + y.toNat * 2 ^ 7 + m.toNat * 2 ^ 2) 3) 7 5 = y := by
    rw [subK_packK _ _ _ hk]; apply BitVec.eq_of_toNat_eq; simp only [BitVec.toNat_ofNat]; have := l.isLt; have := st.isLt; have := y.isLt; have := m.isLt; omega
  have s2 : subK (packK 0 (l.toNat * 2 ^ 17 + st.toNat * 2 ^ 12 + y.toNat * 2 ^ 7 + m.toNat * 2 ^ 2) 3) 2 5 = m := by
    rw [subK_packK _ _ _ hk]; apply BitVec.eq_of_toNat_eq; simp only [BitVec.toNat_ofNat]; have := l.isLt; have := st.isLt; have := y.isLt; have := m.isLt; omega
  simp only [s0, s17, s12, s7, s2, res0]; rfl
theorem trap (x : BitVec 7) : Encoding.Statement (.trap x) := by
  have key : ∀ word lit : Word, fMaj word = 0#6 → fD word = x → fDisp word = 0#15 → fF word = 6#3 → decodeRaw word lit = .ok (.trap x) := by
    intro word lit hfMaj hfD hfDisp hfF
    rw [raw_00 hfMaj]; unfold decMaj00; rw [hfF]
    simp only [hfD, hfDisp, res0]; rfl
  exact of_raw (j := (.trap x)) rfl (fMaj_packB _ _ _ _) (by decide) rfl fun h => key _ _ (fMaj_packB _ _ _ _) (fD_packB _ _ _ _) (fDisp_packB _ _ _ _) (fF_packB _ _ _ _)
theorem sys (x : BitVec 7) : Encoding.Statement (.sys x) := by
  have key : ∀ word lit : Word, fMaj word = 0#6 → fD word = x → fDisp word = 0#15 → fF word = 7#3 → decodeRaw word lit = .ok (.sys x) := by
    intro word lit hfMaj hfD hfDisp hfF
    rw [raw_00 hfMaj]; unfold decMaj00; rw [hfF]
    simp only [hfD, hfDisp, res0]; rfl
  exact of_raw (j := (.sys x)) rfl (fMaj_packB _ _ _ _) (by decide) rfl fun h => key _ _ (fMaj_packB _ _ _ _) (fD_packB _ _ _ _) (fDisp_packB _ _ _ _) (fF_packB _ _ _ _)
theorem bra (disp : BitVec 15) : Encoding.Statement (.bra disp) := by
  have key : ∀ word lit : Word, fMaj word = 1#6 → fD word = 0#7 → fDisp word = disp → fF word = 0#3 → decodeRaw word lit = .ok (.bra disp) := by
    intro word lit hfMaj hfD hfDisp hfF
    rw [raw_01 hfMaj]; unfold decMaj01; rw [hfF]
    simp only [hfD, hfDisp, res0]; rfl
  exact of_raw (j := (.bra disp)) rfl (fMaj_packB _ _ _ _) (by decide) rfl fun h => key _ _ (fMaj_packB _ _ _ _) (fD_packB _ _ _ _) (fDisp_packB _ _ _ _) (fF_packB _ _ _ _)
theorem bz (x : BitVec 7) (disp : BitVec 15) : Encoding.Statement (.bz x disp) := by
  have key : ∀ word lit : Word, fMaj word = 1#6 → fD word = x → fDisp word = disp → fF word = 1#3 → decodeRaw word lit = .ok (.bz x disp) := by
    intro word lit hfMaj hfD hfDisp hfF
    rw [raw_01 hfMaj]; unfold decMaj01; rw [hfF]
    simp only [hfD, hfDisp, res0]; rfl
  exact of_raw (j := (.bz x disp)) rfl (fMaj_packB _ _ _ _) (by decide) rfl fun h => key _ _ (fMaj_packB _ _ _ _) (fD_packB _ _ _ _) (fDisp_packB _ _ _ _) (fF_packB _ _ _ _)
theorem bnz (x : BitVec 7) (disp : BitVec 15) : Encoding.Statement (.bnz x disp) := by
  have key : ∀ word lit : Word, fMaj word = 1#6 → fD word = x → fDisp word = disp → fF word = 2#3 → decodeRaw word lit = .ok (.bnz x disp) := by
    intro word lit hfMaj hfD hfDisp hfF
    rw [raw_01 hfMaj]; unfold decMaj01; rw [hfF]
    simp only [hfD, hfDisp, res0]; rfl
  exact of_raw (j := (.bnz x disp)) rfl (fMaj_packB _ _ _ _) (by decide) rfl fun h => key _ _ (fMaj_packB _ _ _ _) (fD_packB _ _ _ _) (fDisp_packB _ _ _ _) (fF_packB _ _ _ _)
theorem bzm (x : BitVec 7) (disp : BitVec 15) : Encoding.Statement (.bzm x disp) := by
  have key : ∀ word lit : Word, fMaj word = 1#6 → fD word = x → fDisp word = disp → fF word = 3#3 → decodeRaw word lit = .ok (.bzm x disp) := by
    intro word lit hfMaj hfD hfDisp hfF
    rw [raw_01 hfMaj]; unfold decMaj01; rw [hfF]
    simp only [hfD, hfDisp, res0]; rfl
  exact of_raw (j := (.bzm x disp)) rfl (fMaj_packB _ _ _ _) (by decide) rfl fun h => key _ _ (fMaj_packB _ _ _ _) (fD_packB _ _ _ _) (fDisp_packB _ _ _ _) (fF_packB _ _ _ _)
theorem bnzm (x : BitVec 7) (disp : BitVec 15) : Encoding.Statement (.bnzm x disp) := by
  have key : ∀ word lit : Word, fMaj word = 1#6 → fD word = x → fDisp word = disp → fF word = 4#3 → decodeRaw word lit = .ok (.bnzm x disp) := by
    intro word lit hfMaj hfD hfDisp hfF
    rw [raw_01 hfMaj]; unfold decMaj01; rw [hfF]
    simp only [hfD, hfDisp, res0]; rfl
  exact of_raw (j := (.bnzm x disp)) rfl (fMaj_packB _ _ _ _) (by decide) rfl fun h => key _ _ (fMaj_packB _ _ _ _) (fD_packB _ _ _ _) (fDisp_packB _ _ _ _) (fF_packB _ _ _ _)
theorem brd (x : BitVec 7) (disp : BitVec 15) : Encoding.Statement (.brd x disp) := by
  have key : ∀ word lit : Word, fMaj word = 1#6 → fD word = x → fDisp word = disp → fF word = 5#3 → decodeRaw word lit = .ok (.brd x disp) := by
    intro word lit hfMaj hfD hfDisp hfF
    rw [raw_01 hfMaj]; unfold decMaj01; rw [hfF]
    simp only [hfD, hfDisp, res0]; rfl
  exact of_raw (j := (.brd x disp)) rfl (fMaj_packB _ _ _ _) (by decide) rfl fun h => key _ _ (fMaj_packB _ _ _ _) (fD_packB _ _ _ _) (fDisp_packB _ _ _ _) (fF_packB _ _ _ _)
theorem call (disp : BitVec 15) : Encoding.Statement (.call disp) := by
  have key : ∀ word lit : Word, fMaj word = 2#6 → fD word = 0#7 → fDisp word = disp → fF word = 0#3 → decodeRaw word lit = .ok (.call disp) := by
    intro word lit hfMaj hfD hfDisp hfF
    rw [raw_02 hfMaj]; unfold decMaj02; rw [hfF]
    simp only [hfD, hfDisp, res0]; rfl
  exact of_raw (j := (.call disp)) rfl (fMaj_packB _ _ _ _) (by decide) rfl fun h => key _ _ (fMaj_packB _ _ _ _) (fD_packB _ _ _ _) (fDisp_packB _ _ _ _) (fF_packB _ _ _ _)
theorem calli (x : BitVec 7) : Encoding.Statement (.calli x) := by
  have key : ∀ word lit : Word, fMaj word = 2#6 → fD word = x → fDisp word = 0#15 → fF word = 1#3 → decodeRaw word lit = .ok (.calli x) := by
    intro word lit hfMaj hfD hfDisp hfF
    rw [raw_02 hfMaj]; unfold decMaj02; rw [hfF]
    simp only [hfD, hfDisp, res0]; rfl
  exact of_raw (j := (.calli x)) rfl (fMaj_packB _ _ _ _) (by decide) rfl fun h => key _ _ (fMaj_packB _ _ _ _) (fD_packB _ _ _ _) (fDisp_packB _ _ _ _) (fF_packB _ _ _ _)
theorem ret (x : BitVec 7) : Encoding.Statement (.ret x) := by
  have key : ∀ word lit : Word, fMaj word = 2#6 → fD word = x → fDisp word = 0#15 → fF word = 2#3 → decodeRaw word lit = .ok (.ret x) := by
    intro word lit hfMaj hfD hfDisp hfF
    rw [raw_02 hfMaj]; unfold decMaj02; rw [hfF]
    simp only [hfD, hfDisp, res0]; rfl
  exact of_raw (j := (.ret x)) rfl (fMaj_packB _ _ _ _) (by decide) rfl fun h => key _ _ (fMaj_packB _ _ _ _) (fD_packB _ _ _ _) (fDisp_packB _ _ _ _) (fF_packB _ _ _ _)
theorem jmpi (x : BitVec 7) : Encoding.Statement (.jmpi x) := by
  have key : ∀ word lit : Word, fMaj word = 2#6 → fD word = x → fDisp word = 0#15 → fF word = 3#3 → decodeRaw word lit = .ok (.jmpi x) := by
    intro word lit hfMaj hfD hfDisp hfF
    rw [raw_02 hfMaj]; unfold decMaj02; rw [hfF]
    simp only [hfD, hfDisp, res0]; rfl
  exact of_raw (j := (.jmpi x)) rfl (fMaj_packB _ _ _ _) (by decide) rfl fun h => key _ _ (fMaj_packB _ _ _ _) (fD_packB _ _ _ _) (fDisp_packB _ _ _ _) (fF_packB _ _ _ _)
theorem loop (x : BitVec 7) (disp : BitVec 15) : Encoding.Statement (.loop x disp) := by
  have key : ∀ word lit : Word, fMaj word = 2#6 → fD word = x → fDisp word = disp → fF word = 4#3 → decodeRaw word lit = .ok (.loop x disp) := by
    intro word lit hfMaj hfD hfDisp hfF
    rw [raw_02 hfMaj]; unfold decMaj02; rw [hfF]
    simp only [hfD, hfDisp, res0]; rfl
  exact of_raw (j := (.loop x disp)) rfl (fMaj_packB _ _ _ _) (by decide) rfl fun h => key _ _ (fMaj_packB _ _ _ _) (fD_packB _ _ _ _) (fDisp_packB _ _ _ _) (fF_packB _ _ _ _)
theorem sadd (d : BitVec 7) (a : BitVec 7) (b : SB) : Encoding.Statement (.sadd d a b) := by
  have key : ∀ word lit : Word, fMaj word = 3#6 → fD word = d → fA word = a → fF word = 0#3 → SB.ofCode (fB word) lit = some b → decodeRaw word lit = .ok (.sadd d a b) := by
    intro word lit hfMaj hfD hfA hfF hb
    rw [raw_03 hfMaj]; unfold decMaj03; rw [hfF]
    simp only [decSB, hfD, hfA, hb, res0]; rfl
  exact of_raw (j := (.sadd d a b)) rfl (fMaj_packV _ _ _ _ _) (by decide) rfl fun h => key _ _ (fMaj_packV _ _ _ _ _) (fD_packV _ _ _ _ _) (fA_packV _ _ _ _ _) (fF_packV _ _ _ _ _) (SB_packed _ _ _ _ b _ (by decide) (wf_tail h rfl))
theorem ssub (d : BitVec 7) (a : BitVec 7) (b : SB) : Encoding.Statement (.ssub d a b) := by
  have key : ∀ word lit : Word, fMaj word = 3#6 → fD word = d → fA word = a → fF word = 1#3 → SB.ofCode (fB word) lit = some b → decodeRaw word lit = .ok (.ssub d a b) := by
    intro word lit hfMaj hfD hfA hfF hb
    rw [raw_03 hfMaj]; unfold decMaj03; rw [hfF]
    simp only [decSB, hfD, hfA, hb, res0]; rfl
  exact of_raw (j := (.ssub d a b)) rfl (fMaj_packV _ _ _ _ _) (by decide) rfl fun h => key _ _ (fMaj_packV _ _ _ _ _) (fD_packV _ _ _ _ _) (fA_packV _ _ _ _ _) (fF_packV _ _ _ _ _) (SB_packed _ _ _ _ b _ (by decide) (wf_tail h rfl))
theorem smul (d : BitVec 7) (a : BitVec 7) (b : SB) : Encoding.Statement (.smul d a b) := by
  have key : ∀ word lit : Word, fMaj word = 3#6 → fD word = d → fA word = a → fF word = 2#3 → SB.ofCode (fB word) lit = some b → decodeRaw word lit = .ok (.smul d a b) := by
    intro word lit hfMaj hfD hfA hfF hb
    rw [raw_03 hfMaj]; unfold decMaj03; rw [hfF]
    simp only [decSB, hfD, hfA, hb, res0]; rfl
  exact of_raw (j := (.smul d a b)) rfl (fMaj_packV _ _ _ _ _) (by decide) rfl fun h => key _ _ (fMaj_packV _ _ _ _ _) (fD_packV _ _ _ _ _) (fA_packV _ _ _ _ _) (fF_packV _ _ _ _ _) (SB_packed _ _ _ _ b _ (by decide) (wf_tail h rfl))
theorem smulh (d : BitVec 7) (a : BitVec 7) (b : SB) : Encoding.Statement (.smulh d a b) := by
  have key : ∀ word lit : Word, fMaj word = 3#6 → fD word = d → fA word = a → fF word = 3#3 → SB.ofCode (fB word) lit = some b → decodeRaw word lit = .ok (.smulh d a b) := by
    intro word lit hfMaj hfD hfA hfF hb
    rw [raw_03 hfMaj]; unfold decMaj03; rw [hfF]
    simp only [decSB, hfD, hfA, hb, res0]; rfl
  exact of_raw (j := (.smulh d a b)) rfl (fMaj_packV _ _ _ _ _) (by decide) rfl fun h => key _ _ (fMaj_packV _ _ _ _ _) (fD_packV _ _ _ _ _) (fA_packV _ _ _ _ _) (fF_packV _ _ _ _ _) (SB_packed _ _ _ _ b _ (by decide) (wf_tail h rfl))
theorem sand (d : BitVec 7) (a : BitVec 7) (b : SB) : Encoding.Statement (.sand d a b) := by
  have key : ∀ word lit : Word, fMaj word = 3#6 → fD word = d → fA word = a → fF word = 4#3 → SB.ofCode (fB word) lit = some b → decodeRaw word lit = .ok (.sand d a b) := by
    intro word lit hfMaj hfD hfA hfF hb
    rw [raw_03 hfMaj]; unfold decMaj03; rw [hfF]
    simp only [decSB, hfD, hfA, hb, res0]; rfl
  exact of_raw (j := (.sand d a b)) rfl (fMaj_packV _ _ _ _ _) (by decide) rfl fun h => key _ _ (fMaj_packV _ _ _ _ _) (fD_packV _ _ _ _ _) (fA_packV _ _ _ _ _) (fF_packV _ _ _ _ _) (SB_packed _ _ _ _ b _ (by decide) (wf_tail h rfl))
theorem sor (d : BitVec 7) (a : BitVec 7) (b : SB) : Encoding.Statement (.sor d a b) := by
  have key : ∀ word lit : Word, fMaj word = 3#6 → fD word = d → fA word = a → fF word = 5#3 → SB.ofCode (fB word) lit = some b → decodeRaw word lit = .ok (.sor d a b) := by
    intro word lit hfMaj hfD hfA hfF hb
    rw [raw_03 hfMaj]; unfold decMaj03; rw [hfF]
    simp only [decSB, hfD, hfA, hb, res0]; rfl
  exact of_raw (j := (.sor d a b)) rfl (fMaj_packV _ _ _ _ _) (by decide) rfl fun h => key _ _ (fMaj_packV _ _ _ _ _) (fD_packV _ _ _ _ _) (fA_packV _ _ _ _ _) (fF_packV _ _ _ _ _) (SB_packed _ _ _ _ b _ (by decide) (wf_tail h rfl))
theorem sxor (d : BitVec 7) (a : BitVec 7) (b : SB) : Encoding.Statement (.sxor d a b) := by
  have key : ∀ word lit : Word, fMaj word = 3#6 → fD word = d → fA word = a → fF word = 6#3 → SB.ofCode (fB word) lit = some b → decodeRaw word lit = .ok (.sxor d a b) := by
    intro word lit hfMaj hfD hfA hfF hb
    rw [raw_03 hfMaj]; unfold decMaj03; rw [hfF]
    simp only [decSB, hfD, hfA, hb, res0]; rfl
  exact of_raw (j := (.sxor d a b)) rfl (fMaj_packV _ _ _ _ _) (by decide) rfl fun h => key _ _ (fMaj_packV _ _ _ _ _) (fD_packV _ _ _ _ _) (fA_packV _ _ _ _ _) (fF_packV _ _ _ _ _) (SB_packed _ _ _ _ b _ (by decide) (wf_tail h rfl))
theorem smov (d : BitVec 7) (b : SB) : Encoding.Statement (.smov d b) := by
  have key : ∀ word lit : Word, fMaj word = 3#6 → fD word = d → fA word = 0#7 → fF word = 7#3 → SB.ofCode (fB word) lit = some b → decodeRaw word lit = .ok (.smov d b) := by
    intro word lit hfMaj hfD hfA hfF hb
    rw [raw_03 hfMaj]; unfold decMaj03; rw [hfF]
    simp only [decSB, hfD, hfA, hb, res0]; rfl
  exact of_raw (j := (.smov d b)) rfl (fMaj_packV _ _ _ _ _) (by decide) rfl fun h => key _ _ (fMaj_packV _ _ _ _ _) (fD_packV _ _ _ _ _) (fA_packV _ _ _ _ _) (fF_packV _ _ _ _ _) (SB_packed _ _ _ _ b _ (by decide) (wf_tail h rfl))
theorem saddI (d : BitVec 7) (a : BitVec 7) (imm : BitVec 8) : Encoding.Statement (.saddI d a imm) := by
  have key : ∀ word lit : Word, fMaj word = 4#6 → fD word = d → fA word = a → fB word = imm → fF word = 0#3 → decodeRaw word lit = .ok (.saddI d a imm) := by
    intro word lit hfMaj hfD hfA hfB hfF
    rw [raw_04 hfMaj]; unfold decMaj04; rw [hfF]
    simp only [hfD, hfA, hfB, res0]; rfl
  exact of_raw (j := (.saddI d a imm)) rfl (fMaj_packV _ _ _ _ _) (by decide) rfl fun h => key _ _ (fMaj_packV _ _ _ _ _) (fD_packV _ _ _ _ _) (fA_packV _ _ _ _ _) (fB_packV _ _ _ _ _) (fF_packV _ _ _ _ _)
theorem ssubI (d : BitVec 7) (a : BitVec 7) (imm : BitVec 8) : Encoding.Statement (.ssubI d a imm) := by
  have key : ∀ word lit : Word, fMaj word = 4#6 → fD word = d → fA word = a → fB word = imm → fF word = 1#3 → decodeRaw word lit = .ok (.ssubI d a imm) := by
    intro word lit hfMaj hfD hfA hfB hfF
    rw [raw_04 hfMaj]; unfold decMaj04; rw [hfF]
    simp only [hfD, hfA, hfB, res0]; rfl
  exact of_raw (j := (.ssubI d a imm)) rfl (fMaj_packV _ _ _ _ _) (by decide) rfl fun h => key _ _ (fMaj_packV _ _ _ _ _) (fD_packV _ _ _ _ _) (fA_packV _ _ _ _ _) (fB_packV _ _ _ _ _) (fF_packV _ _ _ _ _)
theorem smulI (d : BitVec 7) (a : BitVec 7) (imm : BitVec 8) : Encoding.Statement (.smulI d a imm) := by
  have key : ∀ word lit : Word, fMaj word = 4#6 → fD word = d → fA word = a → fB word = imm → fF word = 2#3 → decodeRaw word lit = .ok (.smulI d a imm) := by
    intro word lit hfMaj hfD hfA hfB hfF
    rw [raw_04 hfMaj]; unfold decMaj04; rw [hfF]
    simp only [hfD, hfA, hfB, res0]; rfl
  exact of_raw (j := (.smulI d a imm)) rfl (fMaj_packV _ _ _ _ _) (by decide) rfl fun h => key _ _ (fMaj_packV _ _ _ _ _) (fD_packV _ _ _ _ _) (fA_packV _ _ _ _ _) (fB_packV _ _ _ _ _) (fF_packV _ _ _ _ _)
theorem smulhI (d : BitVec 7) (a : BitVec 7) (imm : BitVec 8) : Encoding.Statement (.smulhI d a imm) := by
  have key : ∀ word lit : Word, fMaj word = 4#6 → fD word = d → fA word = a → fB word = imm → fF word = 3#3 → decodeRaw word lit = .ok (.smulhI d a imm) := by
    intro word lit hfMaj hfD hfA hfB hfF
    rw [raw_04 hfMaj]; unfold decMaj04; rw [hfF]
    simp only [hfD, hfA, hfB, res0]; rfl
  exact of_raw (j := (.smulhI d a imm)) rfl (fMaj_packV _ _ _ _ _) (by decide) rfl fun h => key _ _ (fMaj_packV _ _ _ _ _) (fD_packV _ _ _ _ _) (fA_packV _ _ _ _ _) (fB_packV _ _ _ _ _) (fF_packV _ _ _ _ _)
theorem sandI (d : BitVec 7) (a : BitVec 7) (imm : BitVec 8) : Encoding.Statement (.sandI d a imm) := by
  have key : ∀ word lit : Word, fMaj word = 4#6 → fD word = d → fA word = a → fB word = imm → fF word = 4#3 → decodeRaw word lit = .ok (.sandI d a imm) := by
    intro word lit hfMaj hfD hfA hfB hfF
    rw [raw_04 hfMaj]; unfold decMaj04; rw [hfF]
    simp only [hfD, hfA, hfB, res0]; rfl
  exact of_raw (j := (.sandI d a imm)) rfl (fMaj_packV _ _ _ _ _) (by decide) rfl fun h => key _ _ (fMaj_packV _ _ _ _ _) (fD_packV _ _ _ _ _) (fA_packV _ _ _ _ _) (fB_packV _ _ _ _ _) (fF_packV _ _ _ _ _)
theorem sorI (d : BitVec 7) (a : BitVec 7) (imm : BitVec 8) : Encoding.Statement (.sorI d a imm) := by
  have key : ∀ word lit : Word, fMaj word = 4#6 → fD word = d → fA word = a → fB word = imm → fF word = 5#3 → decodeRaw word lit = .ok (.sorI d a imm) := by
    intro word lit hfMaj hfD hfA hfB hfF
    rw [raw_04 hfMaj]; unfold decMaj04; rw [hfF]
    simp only [hfD, hfA, hfB, res0]; rfl
  exact of_raw (j := (.sorI d a imm)) rfl (fMaj_packV _ _ _ _ _) (by decide) rfl fun h => key _ _ (fMaj_packV _ _ _ _ _) (fD_packV _ _ _ _ _) (fA_packV _ _ _ _ _) (fB_packV _ _ _ _ _) (fF_packV _ _ _ _ _)
theorem sxorI (d : BitVec 7) (a : BitVec 7) (imm : BitVec 8) : Encoding.Statement (.sxorI d a imm) := by
  have key : ∀ word lit : Word, fMaj word = 4#6 → fD word = d → fA word = a → fB word = imm → fF word = 6#3 → decodeRaw word lit = .ok (.sxorI d a imm) := by
    intro word lit hfMaj hfD hfA hfB hfF
    rw [raw_04 hfMaj]; unfold decMaj04; rw [hfF]
    simp only [hfD, hfA, hfB, res0]; rfl
  exact of_raw (j := (.sxorI d a imm)) rfl (fMaj_packV _ _ _ _ _) (by decide) rfl fun h => key _ _ (fMaj_packV _ _ _ _ _) (fD_packV _ _ _ _ _) (fA_packV _ _ _ _ _) (fB_packV _ _ _ _ _) (fF_packV _ _ _ _ _)
theorem smovI (d : BitVec 7) (imm : BitVec 8) : Encoding.Statement (.smovI d imm) := by
  have key : ∀ word lit : Word, fMaj word = 4#6 → fD word = d → fA word = 0#7 → fB word = imm → fF word = 7#3 → decodeRaw word lit = .ok (.smovI d imm) := by
    intro word lit hfMaj hfD hfA hfB hfF
    rw [raw_04 hfMaj]; unfold decMaj04; rw [hfF]
    simp only [hfD, hfA, hfB, res0]; rfl
  exact of_raw (j := (.smovI d imm)) rfl (fMaj_packV _ _ _ _ _) (by decide) rfl fun h => key _ _ (fMaj_packV _ _ _ _ _) (fD_packV _ _ _ _ _) (fA_packV _ _ _ _ _) (fB_packV _ _ _ _ _) (fF_packV _ _ _ _ _)
theorem sshl (d : BitVec 7) (a : BitVec 7) (b : SB) : Encoding.Statement (.sshl d a b) := by
  have key : ∀ word lit : Word, fMaj word = 5#6 → fD word = d → fA word = a → fF word = 0#3 → SB.ofCode (fB word) lit = some b → decodeRaw word lit = .ok (.sshl d a b) := by
    intro word lit hfMaj hfD hfA hfF hb
    rw [raw_05 hfMaj]; unfold decMaj05; rw [hfF]
    simp only [decSB, hfD, hfA, hb, res0]; rfl
  exact of_raw (j := (.sshl d a b)) rfl (fMaj_packV _ _ _ _ _) (by decide) rfl fun h => key _ _ (fMaj_packV _ _ _ _ _) (fD_packV _ _ _ _ _) (fA_packV _ _ _ _ _) (fF_packV _ _ _ _ _) (SB_packed _ _ _ _ b _ (by decide) (wf_tail h rfl))
theorem sshr (d : BitVec 7) (a : BitVec 7) (b : SB) : Encoding.Statement (.sshr d a b) := by
  have key : ∀ word lit : Word, fMaj word = 5#6 → fD word = d → fA word = a → fF word = 1#3 → SB.ofCode (fB word) lit = some b → decodeRaw word lit = .ok (.sshr d a b) := by
    intro word lit hfMaj hfD hfA hfF hb
    rw [raw_05 hfMaj]; unfold decMaj05; rw [hfF]
    simp only [decSB, hfD, hfA, hb, res0]; rfl
  exact of_raw (j := (.sshr d a b)) rfl (fMaj_packV _ _ _ _ _) (by decide) rfl fun h => key _ _ (fMaj_packV _ _ _ _ _) (fD_packV _ _ _ _ _) (fA_packV _ _ _ _ _) (fF_packV _ _ _ _ _) (SB_packed _ _ _ _ b _ (by decide) (wf_tail h rfl))
theorem ssra (d : BitVec 7) (a : BitVec 7) (b : SB) : Encoding.Statement (.ssra d a b) := by
  have key : ∀ word lit : Word, fMaj word = 5#6 → fD word = d → fA word = a → fF word = 2#3 → SB.ofCode (fB word) lit = some b → decodeRaw word lit = .ok (.ssra d a b) := by
    intro word lit hfMaj hfD hfA hfF hb
    rw [raw_05 hfMaj]; unfold decMaj05; rw [hfF]
    simp only [decSB, hfD, hfA, hb, res0]; rfl
  exact of_raw (j := (.ssra d a b)) rfl (fMaj_packV _ _ _ _ _) (by decide) rfl fun h => key _ _ (fMaj_packV _ _ _ _ _) (fD_packV _ _ _ _ _) (fA_packV _ _ _ _ _) (fF_packV _ _ _ _ _) (SB_packed _ _ _ _ b _ (by decide) (wf_tail h rfl))
theorem smin (d : BitVec 7) (a : BitVec 7) (b : SB) : Encoding.Statement (.smin d a b) := by
  have key : ∀ word lit : Word, fMaj word = 5#6 → fD word = d → fA word = a → fF word = 3#3 → SB.ofCode (fB word) lit = some b → decodeRaw word lit = .ok (.smin d a b) := by
    intro word lit hfMaj hfD hfA hfF hb
    rw [raw_05 hfMaj]; unfold decMaj05; rw [hfF]
    simp only [decSB, hfD, hfA, hb, res0]; rfl
  exact of_raw (j := (.smin d a b)) rfl (fMaj_packV _ _ _ _ _) (by decide) rfl fun h => key _ _ (fMaj_packV _ _ _ _ _) (fD_packV _ _ _ _ _) (fA_packV _ _ _ _ _) (fF_packV _ _ _ _ _) (SB_packed _ _ _ _ b _ (by decide) (wf_tail h rfl))
theorem smax (d : BitVec 7) (a : BitVec 7) (b : SB) : Encoding.Statement (.smax d a b) := by
  have key : ∀ word lit : Word, fMaj word = 5#6 → fD word = d → fA word = a → fF word = 4#3 → SB.ofCode (fB word) lit = some b → decodeRaw word lit = .ok (.smax d a b) := by
    intro word lit hfMaj hfD hfA hfF hb
    rw [raw_05 hfMaj]; unfold decMaj05; rw [hfF]
    simp only [decSB, hfD, hfA, hb, res0]; rfl
  exact of_raw (j := (.smax d a b)) rfl (fMaj_packV _ _ _ _ _) (by decide) rfl fun h => key _ _ (fMaj_packV _ _ _ _ _) (fD_packV _ _ _ _ _) (fA_packV _ _ _ _ _) (fF_packV _ _ _ _ _) (SB_packed _ _ _ _ b _ (by decide) (wf_tail h rfl))
theorem sadd64 (d : BitVec 7) (a : BitVec 7) (b : SB) : Encoding.Statement (.sadd64 d a b) := by
  have key : ∀ word lit : Word, fMaj word = 5#6 → fD word = d → fA word = a → fF word = 5#3 → SB.ofCode (fB word) lit = some b → decodeRaw word lit = .ok (.sadd64 d a b) := by
    intro word lit hfMaj hfD hfA hfF hb
    rw [raw_05 hfMaj]; unfold decMaj05; rw [hfF]
    simp only [decSB, hfD, hfA, hb, res0]; rfl
  exact of_raw (j := (.sadd64 d a b)) rfl (fMaj_packV _ _ _ _ _) (by decide) rfl fun h => key _ _ (fMaj_packV _ _ _ _ _) (fD_packV _ _ _ _ _) (fA_packV _ _ _ _ _) (fF_packV _ _ _ _ _) (SB_packed _ _ _ _ b _ (by decide) (wf_tail h rfl))
theorem ssub64 (d : BitVec 7) (a : BitVec 7) (b : SB) : Encoding.Statement (.ssub64 d a b) := by
  have key : ∀ word lit : Word, fMaj word = 5#6 → fD word = d → fA word = a → fF word = 6#3 → SB.ofCode (fB word) lit = some b → decodeRaw word lit = .ok (.ssub64 d a b) := by
    intro word lit hfMaj hfD hfA hfF hb
    rw [raw_05 hfMaj]; unfold decMaj05; rw [hfF]
    simp only [decSB, hfD, hfA, hb, res0]; rfl
  exact of_raw (j := (.ssub64 d a b)) rfl (fMaj_packV _ _ _ _ _) (by decide) rfl fun h => key _ _ (fMaj_packV _ _ _ _ _) (fD_packV _ _ _ _ _) (fA_packV _ _ _ _ _) (fF_packV _ _ _ _ _) (SB_packed _ _ _ _ b _ (by decide) (wf_tail h rfl))
theorem ssel (d : BitVec 7) (a : BitVec 7) (b : SB) : Encoding.Statement (.ssel d a b) := by
  have key : ∀ word lit : Word, fMaj word = 5#6 → fD word = d → fA word = a → fF word = 7#3 → SB.ofCode (fB word) lit = some b → decodeRaw word lit = .ok (.ssel d a b) := by
    intro word lit hfMaj hfD hfA hfF hb
    rw [raw_05 hfMaj]; unfold decMaj05; rw [hfF]
    simp only [decSB, hfD, hfA, hb, res0]; rfl
  exact of_raw (j := (.ssel d a b)) rfl (fMaj_packV _ _ _ _ _) (by decide) rfl fun h => key _ _ (fMaj_packV _ _ _ _ _) (fD_packV _ _ _ _ _) (fA_packV _ _ _ _ _) (fF_packV _ _ _ _ _) (SB_packed _ _ _ _ b _ (by decide) (wf_tail h rfl))
theorem sshlI (d : BitVec 7) (a : BitVec 7) (imm : BitVec 8) : Encoding.Statement (.sshlI d a imm) := by
  have key : ∀ word lit : Word, fMaj word = 6#6 → fD word = d → fA word = a → fB word = imm → fF word = 0#3 → decodeRaw word lit = .ok (.sshlI d a imm) := by
    intro word lit hfMaj hfD hfA hfB hfF
    rw [raw_06 hfMaj]; unfold decMaj06; rw [hfF]
    simp only [hfD, hfA, hfB, res0]; rfl
  exact of_raw (j := (.sshlI d a imm)) rfl (fMaj_packV _ _ _ _ _) (by decide) rfl fun h => key _ _ (fMaj_packV _ _ _ _ _) (fD_packV _ _ _ _ _) (fA_packV _ _ _ _ _) (fB_packV _ _ _ _ _) (fF_packV _ _ _ _ _)
theorem sshrI (d : BitVec 7) (a : BitVec 7) (imm : BitVec 8) : Encoding.Statement (.sshrI d a imm) := by
  have key : ∀ word lit : Word, fMaj word = 6#6 → fD word = d → fA word = a → fB word = imm → fF word = 1#3 → decodeRaw word lit = .ok (.sshrI d a imm) := by
    intro word lit hfMaj hfD hfA hfB hfF
    rw [raw_06 hfMaj]; unfold decMaj06; rw [hfF]
    simp only [hfD, hfA, hfB, res0]; rfl
  exact of_raw (j := (.sshrI d a imm)) rfl (fMaj_packV _ _ _ _ _) (by decide) rfl fun h => key _ _ (fMaj_packV _ _ _ _ _) (fD_packV _ _ _ _ _) (fA_packV _ _ _ _ _) (fB_packV _ _ _ _ _) (fF_packV _ _ _ _ _)
theorem ssraI (d : BitVec 7) (a : BitVec 7) (imm : BitVec 8) : Encoding.Statement (.ssraI d a imm) := by
  have key : ∀ word lit : Word, fMaj word = 6#6 → fD word = d → fA word = a → fB word = imm → fF word = 2#3 → decodeRaw word lit = .ok (.ssraI d a imm) := by
    intro word lit hfMaj hfD hfA hfB hfF
    rw [raw_06 hfMaj]; unfold decMaj06; rw [hfF]
    simp only [hfD, hfA, hfB, res0]; rfl
  exact of_raw (j := (.ssraI d a imm)) rfl (fMaj_packV _ _ _ _ _) (by decide) rfl fun h => key _ _ (fMaj_packV _ _ _ _ _) (fD_packV _ _ _ _ _) (fA_packV _ _ _ _ _) (fB_packV _ _ _ _ _) (fF_packV _ _ _ _ _)
theorem sminI (d : BitVec 7) (a : BitVec 7) (imm : BitVec 8) : Encoding.Statement (.sminI d a imm) := by
  have key : ∀ word lit : Word, fMaj word = 6#6 → fD word = d → fA word = a → fB word = imm → fF word = 3#3 → decodeRaw word lit = .ok (.sminI d a imm) := by
    intro word lit hfMaj hfD hfA hfB hfF
    rw [raw_06 hfMaj]; unfold decMaj06; rw [hfF]
    simp only [hfD, hfA, hfB, res0]; rfl
  exact of_raw (j := (.sminI d a imm)) rfl (fMaj_packV _ _ _ _ _) (by decide) rfl fun h => key _ _ (fMaj_packV _ _ _ _ _) (fD_packV _ _ _ _ _) (fA_packV _ _ _ _ _) (fB_packV _ _ _ _ _) (fF_packV _ _ _ _ _)
theorem smaxI (d : BitVec 7) (a : BitVec 7) (imm : BitVec 8) : Encoding.Statement (.smaxI d a imm) := by
  have key : ∀ word lit : Word, fMaj word = 6#6 → fD word = d → fA word = a → fB word = imm → fF word = 4#3 → decodeRaw word lit = .ok (.smaxI d a imm) := by
    intro word lit hfMaj hfD hfA hfB hfF
    rw [raw_06 hfMaj]; unfold decMaj06; rw [hfF]
    simp only [hfD, hfA, hfB, res0]; rfl
  exact of_raw (j := (.smaxI d a imm)) rfl (fMaj_packV _ _ _ _ _) (by decide) rfl fun h => key _ _ (fMaj_packV _ _ _ _ _) (fD_packV _ _ _ _ _) (fA_packV _ _ _ _ _) (fB_packV _ _ _ _ _) (fF_packV _ _ _ _ _)
theorem sadd64I (d : BitVec 7) (a : BitVec 7) (imm : BitVec 8) : Encoding.Statement (.sadd64I d a imm) := by
  have key : ∀ word lit : Word, fMaj word = 6#6 → fD word = d → fA word = a → fB word = imm → fF word = 5#3 → decodeRaw word lit = .ok (.sadd64I d a imm) := by
    intro word lit hfMaj hfD hfA hfB hfF
    rw [raw_06 hfMaj]; unfold decMaj06; rw [hfF]
    simp only [hfD, hfA, hfB, res0]; rfl
  exact of_raw (j := (.sadd64I d a imm)) rfl (fMaj_packV _ _ _ _ _) (by decide) rfl fun h => key _ _ (fMaj_packV _ _ _ _ _) (fD_packV _ _ _ _ _) (fA_packV _ _ _ _ _) (fB_packV _ _ _ _ _) (fF_packV _ _ _ _ _)
theorem ssub64I (d : BitVec 7) (a : BitVec 7) (imm : BitVec 8) : Encoding.Statement (.ssub64I d a imm) := by
  have key : ∀ word lit : Word, fMaj word = 6#6 → fD word = d → fA word = a → fB word = imm → fF word = 6#3 → decodeRaw word lit = .ok (.ssub64I d a imm) := by
    intro word lit hfMaj hfD hfA hfB hfF
    rw [raw_06 hfMaj]; unfold decMaj06; rw [hfF]
    simp only [hfD, hfA, hfB, res0]; rfl
  exact of_raw (j := (.ssub64I d a imm)) rfl (fMaj_packV _ _ _ _ _) (by decide) rfl fun h => key _ _ (fMaj_packV _ _ _ _ _) (fD_packV _ _ _ _ _) (fA_packV _ _ _ _ _) (fB_packV _ _ _ _ _) (fF_packV _ _ _ _ _)
theorem scmp (cc : ICmp) (d : BitVec 7) (a : BitVec 7) (b : SB) : Encoding.Statement (.scmp cc d a b) := by
  cases cc
  · have key : ∀ word lit : Word, fMaj word = 7#6 → fD word = d → fA word = a → fF word = 0#3 → SB.ofCode (fB word) lit = some b → decodeRaw word lit = .ok (.scmp .eq d a b) := by
      intro word lit hfMaj hfD hfA hfF hb
      rw [raw_07 hfMaj]; unfold decMaj07; rw [hfF]
      simp only [decSB, hfD, hfA, hb, res0]; rfl
    exact of_raw (j := (.scmp .eq d a b)) rfl (fMaj_packV _ _ _ _ _) (by decide) rfl fun h => key _ _ (fMaj_packV _ _ _ _ _) (fD_packV _ _ _ _ _) (fA_packV _ _ _ _ _) (fF_packV _ _ _ _ _) (SB_packed _ _ _ _ b _ (by decide) (wf_tail h rfl))
  · have key : ∀ word lit : Word, fMaj word = 7#6 → fD word = d → fA word = a → fF word = 1#3 → SB.ofCode (fB word) lit = some b → decodeRaw word lit = .ok (.scmp .ne d a b) := by
      intro word lit hfMaj hfD hfA hfF hb
      rw [raw_07 hfMaj]; unfold decMaj07; rw [hfF]
      simp only [decSB, hfD, hfA, hb, res0]; rfl
    exact of_raw (j := (.scmp .ne d a b)) rfl (fMaj_packV _ _ _ _ _) (by decide) rfl fun h => key _ _ (fMaj_packV _ _ _ _ _) (fD_packV _ _ _ _ _) (fA_packV _ _ _ _ _) (fF_packV _ _ _ _ _) (SB_packed _ _ _ _ b _ (by decide) (wf_tail h rfl))
  · have key : ∀ word lit : Word, fMaj word = 7#6 → fD word = d → fA word = a → fF word = 2#3 → SB.ofCode (fB word) lit = some b → decodeRaw word lit = .ok (.scmp .lt d a b) := by
      intro word lit hfMaj hfD hfA hfF hb
      rw [raw_07 hfMaj]; unfold decMaj07; rw [hfF]
      simp only [decSB, hfD, hfA, hb, res0]; rfl
    exact of_raw (j := (.scmp .lt d a b)) rfl (fMaj_packV _ _ _ _ _) (by decide) rfl fun h => key _ _ (fMaj_packV _ _ _ _ _) (fD_packV _ _ _ _ _) (fA_packV _ _ _ _ _) (fF_packV _ _ _ _ _) (SB_packed _ _ _ _ b _ (by decide) (wf_tail h rfl))
  · have key : ∀ word lit : Word, fMaj word = 7#6 → fD word = d → fA word = a → fF word = 3#3 → SB.ofCode (fB word) lit = some b → decodeRaw word lit = .ok (.scmp .le d a b) := by
      intro word lit hfMaj hfD hfA hfF hb
      rw [raw_07 hfMaj]; unfold decMaj07; rw [hfF]
      simp only [decSB, hfD, hfA, hb, res0]; rfl
    exact of_raw (j := (.scmp .le d a b)) rfl (fMaj_packV _ _ _ _ _) (by decide) rfl fun h => key _ _ (fMaj_packV _ _ _ _ _) (fD_packV _ _ _ _ _) (fA_packV _ _ _ _ _) (fF_packV _ _ _ _ _) (SB_packed _ _ _ _ b _ (by decide) (wf_tail h rfl))
  · have key : ∀ word lit : Word, fMaj word = 7#6 → fD word = d → fA word = a → fF word = 4#3 → SB.ofCode (fB word) lit = some b → decodeRaw word lit = .ok (.scmp .ltn d a b) := by
      intro word lit hfMaj hfD hfA hfF hb
      rw [raw_07 hfMaj]; unfold decMaj07; rw [hfF]
      simp only [decSB, hfD, hfA, hb, res0]; rfl
    exact of_raw (j := (.scmp .ltn d a b)) rfl (fMaj_packV _ _ _ _ _) (by decide) rfl fun h => key _ _ (fMaj_packV _ _ _ _ _) (fD_packV _ _ _ _ _) (fA_packV _ _ _ _ _) (fF_packV _ _ _ _ _) (SB_packed _ _ _ _ b _ (by decide) (wf_tail h rfl))
  · have key : ∀ word lit : Word, fMaj word = 7#6 → fD word = d → fA word = a → fF word = 5#3 → SB.ofCode (fB word) lit = some b → decodeRaw word lit = .ok (.scmp .len d a b) := by
      intro word lit hfMaj hfD hfA hfF hb
      rw [raw_07 hfMaj]; unfold decMaj07; rw [hfF]
      simp only [decSB, hfD, hfA, hb, res0]; rfl
    exact of_raw (j := (.scmp .len d a b)) rfl (fMaj_packV _ _ _ _ _) (by decide) rfl fun h => key _ _ (fMaj_packV _ _ _ _ _) (fD_packV _ _ _ _ _) (fA_packV _ _ _ _ _) (fF_packV _ _ _ _ _) (SB_packed _ _ _ _ b _ (by decide) (wf_tail h rfl))
  · have key : ∀ word lit : Word, fMaj word = 7#6 → fD word = d → fA word = a → fF word = 6#3 → SB.ofCode (fB word) lit = some b → decodeRaw word lit = .ok (.scmp .gt d a b) := by
      intro word lit hfMaj hfD hfA hfF hb
      rw [raw_07 hfMaj]; unfold decMaj07; rw [hfF]
      simp only [decSB, hfD, hfA, hb, res0]; rfl
    exact of_raw (j := (.scmp .gt d a b)) rfl (fMaj_packV _ _ _ _ _) (by decide) rfl fun h => key _ _ (fMaj_packV _ _ _ _ _) (fD_packV _ _ _ _ _) (fA_packV _ _ _ _ _) (fF_packV _ _ _ _ _) (SB_packed _ _ _ _ b _ (by decide) (wf_tail h rfl))
  · have key : ∀ word lit : Word, fMaj word = 7#6 → fD word = d → fA word = a → fF word = 7#3 → SB.ofCode (fB word) lit = some b → decodeRaw word lit = .ok (.scmp .gtn d a b) := by
      intro word lit hfMaj hfD hfA hfF hb
      rw [raw_07 hfMaj]; unfold decMaj07; rw [hfF]
      simp only [decSB, hfD, hfA, hb, res0]; rfl
    exact of_raw (j := (.scmp .gtn d a b)) rfl (fMaj_packV _ _ _ _ _) (by decide) rfl fun h => key _ _ (fMaj_packV _ _ _ _ _) (fD_packV _ _ _ _ _) (fA_packV _ _ _ _ _) (fF_packV _ _ _ _ _) (SB_packed _ _ _ _ b _ (by decide) (wf_tail h rfl))
theorem mand (d : BitVec 7) (a : BitVec 7) (b : MB) : Encoding.Statement (.mand d a b) := by
  have key : ∀ word lit : Word, fMaj word = 8#6 → fD word = d → fA word = a → fF word = 0#3 → MB.ofCode (fB word) lit = some b → decodeRaw word lit = .ok (.mand d a b) := by
    intro word lit hfMaj hfD hfA hfF hb
    rw [raw_08 hfMaj]; unfold decMaj08; rw [hfF]
    simp only [decMB, hfD, hfA, hb, res0]; rfl
  exact of_raw (j := (.mand d a b)) rfl (fMaj_packV _ _ _ _ _) (by decide) rfl fun h => key _ _ (fMaj_packV _ _ _ _ _) (fD_packV _ _ _ _ _) (fA_packV _ _ _ _ _) (fF_packV _ _ _ _ _) (MB_packed _ _ _ _ b)
theorem mor (d : BitVec 7) (a : BitVec 7) (b : MB) : Encoding.Statement (.mor d a b) := by
  have key : ∀ word lit : Word, fMaj word = 8#6 → fD word = d → fA word = a → fF word = 1#3 → MB.ofCode (fB word) lit = some b → decodeRaw word lit = .ok (.mor d a b) := by
    intro word lit hfMaj hfD hfA hfF hb
    rw [raw_08 hfMaj]; unfold decMaj08; rw [hfF]
    simp only [decMB, hfD, hfA, hb, res0]; rfl
  exact of_raw (j := (.mor d a b)) rfl (fMaj_packV _ _ _ _ _) (by decide) rfl fun h => key _ _ (fMaj_packV _ _ _ _ _) (fD_packV _ _ _ _ _) (fA_packV _ _ _ _ _) (fF_packV _ _ _ _ _) (MB_packed _ _ _ _ b)
theorem mxor (d : BitVec 7) (a : BitVec 7) (b : MB) : Encoding.Statement (.mxor d a b) := by
  have key : ∀ word lit : Word, fMaj word = 8#6 → fD word = d → fA word = a → fF word = 2#3 → MB.ofCode (fB word) lit = some b → decodeRaw word lit = .ok (.mxor d a b) := by
    intro word lit hfMaj hfD hfA hfF hb
    rw [raw_08 hfMaj]; unfold decMaj08; rw [hfF]
    simp only [decMB, hfD, hfA, hb, res0]; rfl
  exact of_raw (j := (.mxor d a b)) rfl (fMaj_packV _ _ _ _ _) (by decide) rfl fun h => key _ _ (fMaj_packV _ _ _ _ _) (fD_packV _ _ _ _ _) (fA_packV _ _ _ _ _) (fF_packV _ _ _ _ _) (MB_packed _ _ _ _ b)
theorem mandn (d : BitVec 7) (a : BitVec 7) (b : MB) : Encoding.Statement (.mandn d a b) := by
  have key : ∀ word lit : Word, fMaj word = 8#6 → fD word = d → fA word = a → fF word = 3#3 → MB.ofCode (fB word) lit = some b → decodeRaw word lit = .ok (.mandn d a b) := by
    intro word lit hfMaj hfD hfA hfF hb
    rw [raw_08 hfMaj]; unfold decMaj08; rw [hfF]
    simp only [decMB, hfD, hfA, hb, res0]; rfl
  exact of_raw (j := (.mandn d a b)) rfl (fMaj_packV _ _ _ _ _) (by decide) rfl fun h => key _ _ (fMaj_packV _ _ _ _ _) (fD_packV _ _ _ _ _) (fA_packV _ _ _ _ _) (fF_packV _ _ _ _ _) (MB_packed _ _ _ _ b)
theorem mpop (d : BitVec 7) (b : MB) : Encoding.Statement (.mpop d b) := by
  have key : ∀ word lit : Word, fMaj word = 8#6 → fD word = d → fA word = 0#7 → fF word = 4#3 → MB.ofCode (fB word) lit = some b → decodeRaw word lit = .ok (.mpop d b) := by
    intro word lit hfMaj hfD hfA hfF hb
    rw [raw_08 hfMaj]; unfold decMaj08; rw [hfF]
    simp only [decMB, hfD, hfA, hb, res0]; rfl
  exact of_raw (j := (.mpop d b)) rfl (fMaj_packV _ _ _ _ _) (by decide) rfl fun h => key _ _ (fMaj_packV _ _ _ _ _) (fD_packV _ _ _ _ _) (fA_packV _ _ _ _ _) (fF_packV _ _ _ _ _) (MB_packed _ _ _ _ b)
theorem mfirst (d : BitVec 7) (b : MB) : Encoding.Statement (.mfirst d b) := by
  have key : ∀ word lit : Word, fMaj word = 8#6 → fD word = d → fA word = 0#7 → fF word = 5#3 → MB.ofCode (fB word) lit = some b → decodeRaw word lit = .ok (.mfirst d b) := by
    intro word lit hfMaj hfD hfA hfF hb
    rw [raw_08 hfMaj]; unfold decMaj08; rw [hfF]
    simp only [decMB, hfD, hfA, hb, res0]; rfl
  exact of_raw (j := (.mfirst d b)) rfl (fMaj_packV _ _ _ _ _) (by decide) rfl fun h => key _ _ (fMaj_packV _ _ _ _ _) (fD_packV _ _ _ _ _) (fA_packV _ _ _ _ _) (fF_packV _ _ _ _ _) (MB_packed _ _ _ _ b)
theorem mset (d : BitVec 7) (a : BitVec 7) : Encoding.Statement (.mset d a) := by
  have key : ∀ word lit : Word, fMaj word = 8#6 → fD word = d → fA word = a → fB word = 0#8 → fF word = 6#3 → decodeRaw word lit = .ok (.mset d a) := by
    intro word lit hfMaj hfD hfA hfB hfF
    rw [raw_08 hfMaj]; unfold decMaj08; rw [hfF]
    simp only [hfD, hfA, hfB, res0]; rfl
  exact of_raw (j := (.mset d a)) rfl (fMaj_packV _ _ _ _ _) (by decide) rfl fun h => key _ _ (fMaj_packV _ _ _ _ _) (fD_packV _ _ _ _ _) (fA_packV _ _ _ _ _) (fB_packV _ _ _ _ _) (fF_packV _ _ _ _ _)
theorem mmov (d : BitVec 7) (b : MB) : Encoding.Statement (.mmov d b) := by
  have key : ∀ word lit : Word, fMaj word = 8#6 → fD word = d → fA word = 0#7 → fF word = 7#3 → MB.ofCode (fB word) lit = some b → decodeRaw word lit = .ok (.mmov d b) := by
    intro word lit hfMaj hfD hfA hfF hb
    rw [raw_08 hfMaj]; unfold decMaj08; rw [hfF]
    simp only [decMB, hfD, hfA, hb, res0]; rfl
  exact of_raw (j := (.mmov d b)) rfl (fMaj_packV _ _ _ _ _) (by decide) rfl fun h => key _ _ (fMaj_packV _ _ _ _ _) (fD_packV _ _ _ _ _) (fA_packV _ _ _ _ _) (fF_packV _ _ _ _ _) (MB_packed _ _ _ _ b)
theorem rdsr (d : BitVec 7) (a : BitVec 7) : Encoding.Statement (.rdsr d a) := by
  have key : ∀ word lit : Word, fMaj word = 9#6 → fD word = d → fA word = a → fB word = 0#8 → fF word = 0#3 → decodeRaw word lit = .ok (.rdsr d a) := by
    intro word lit hfMaj hfD hfA hfB hfF
    rw [raw_09 hfMaj]; unfold decMaj09; rw [hfF]
    simp only [hfD, hfA, hfB, res0]; rfl
  exact of_raw (j := (.rdsr d a)) rfl (fMaj_packV _ _ _ _ _) (by decide) rfl fun h => key _ _ (fMaj_packV _ _ _ _ _) (fD_packV _ _ _ _ _) (fA_packV _ _ _ _ _) (fB_packV _ _ _ _ _) (fF_packV _ _ _ _ _)
theorem wrsr (a : BitVec 7) (b : SB) : Encoding.Statement (.wrsr a b) := by
  have key : ∀ word lit : Word, fMaj word = 9#6 → fD word = 0#7 → fA word = a → fF word = 1#3 → SB.ofCode (fB word) lit = some b → decodeRaw word lit = .ok (.wrsr a b) := by
    intro word lit hfMaj hfD hfA hfF hb
    rw [raw_09 hfMaj]; unfold decMaj09; rw [hfF]
    simp only [decSB, hfD, hfA, hb, res0]; rfl
  exact of_raw (j := (.wrsr a b)) rfl (fMaj_packV _ _ _ _ _) (by decide) rfl fun h => key _ _ (fMaj_packV _ _ _ _ _) (fD_packV _ _ _ _ _) (fA_packV _ _ _ _ _) (fF_packV _ _ _ _ _) (SB_packed _ _ _ _ b _ (by unfold sprRegs; split <;> decide) (wf_tail h rfl))
theorem vwin (b : SB) : Encoding.Statement (.vwin b) := by
  have key : ∀ word lit : Word, fMaj word = 9#6 → fD word = 0#7 → fA word = 0#7 → fF word = 2#3 → SB.ofCode (fB word) lit = some b → decodeRaw word lit = .ok (.vwin b) := by
    intro word lit hfMaj hfD hfA hfF hb
    rw [raw_09 hfMaj]; unfold decMaj09; rw [hfF]
    simp only [decSB, hfD, hfA, hb, res0]; rfl
  exact of_raw (j := (.vwin b)) rfl (fMaj_packV _ _ _ _ _) (by decide) rfl fun h => key _ _ (fMaj_packV _ _ _ _ _) (fD_packV _ _ _ _ _) (fA_packV _ _ _ _ _) (fF_packV _ _ _ _ _) (SB_packed _ _ _ _ b _ (by decide) (wf_all h))
theorem reggrow (b : SB) : Encoding.Statement (.reggrow b) := by
  have key : ∀ word lit : Word, fMaj word = 9#6 → fD word = 0#7 → fA word = 0#7 → fF word = 3#3 → SB.ofCode (fB word) lit = some b → decodeRaw word lit = .ok (.reggrow b) := by
    intro word lit hfMaj hfD hfA hfF hb
    rw [raw_09 hfMaj]; unfold decMaj09; rw [hfF]
    simp only [decSB, hfD, hfA, hb, res0]; rfl
  exact of_raw (j := (.reggrow b)) rfl (fMaj_packV _ _ _ _ _) (by decide) rfl fun h => key _ _ (fMaj_packV _ _ _ _ _) (fD_packV _ _ _ _ _) (fA_packV _ _ _ _ _) (fF_packV _ _ _ _ _) (SB_packed _ _ _ _ b _ (by decide) (wf_all h))
theorem regshrink (b : SB) : Encoding.Statement (.regshrink b) := by
  have key : ∀ word lit : Word, fMaj word = 9#6 → fD word = 0#7 → fA word = 0#7 → fF word = 4#3 → SB.ofCode (fB word) lit = some b → decodeRaw word lit = .ok (.regshrink b) := by
    intro word lit hfMaj hfD hfA hfF hb
    rw [raw_09 hfMaj]; unfold decMaj09; rw [hfF]
    simp only [decSB, hfD, hfA, hb, res0]; rfl
  exact of_raw (j := (.regshrink b)) rfl (fMaj_packV _ _ _ _ _) (by decide) rfl fun h => key _ _ (fMaj_packV _ _ _ _ _) (fD_packV _ _ _ _ _) (fA_packV _ _ _ _ _) (fF_packV _ _ _ _ _) (SB_packed _ _ _ _ b _ (by decide) (wf_all h))
theorem vadd (d : BitVec 7) (a : BitVec 7) (b : VB) : Encoding.Statement (.vadd d a b) := by
  have key : ∀ word lit : Word, fMaj word = 10#6 → fD word = d → fA word = a → fF word = 0#3 → VB.ofCode (fB word) lit = some b → decodeRaw word lit = .ok (.vadd d a b) := by
    intro word lit hfMaj hfD hfA hfF hb
    rw [raw_0A hfMaj]; unfold decMaj0A; rw [hfF]
    simp only [decVB, hfD, hfA, hb, res0]; rfl
  exact of_raw (j := (.vadd d a b)) rfl (fMaj_packV _ _ _ _ _) (by decide) rfl fun h => key _ _ (fMaj_packV _ _ _ _ _) (fD_packV _ _ _ _ _) (fA_packV _ _ _ _ _) (fF_packV _ _ _ _ _) (VB_packed _ _ _ _ b _ (by decide) (wf_tail h rfl))
theorem vsub (d : BitVec 7) (a : BitVec 7) (b : VB) : Encoding.Statement (.vsub d a b) := by
  have key : ∀ word lit : Word, fMaj word = 10#6 → fD word = d → fA word = a → fF word = 1#3 → VB.ofCode (fB word) lit = some b → decodeRaw word lit = .ok (.vsub d a b) := by
    intro word lit hfMaj hfD hfA hfF hb
    rw [raw_0A hfMaj]; unfold decMaj0A; rw [hfF]
    simp only [decVB, hfD, hfA, hb, res0]; rfl
  exact of_raw (j := (.vsub d a b)) rfl (fMaj_packV _ _ _ _ _) (by decide) rfl fun h => key _ _ (fMaj_packV _ _ _ _ _) (fD_packV _ _ _ _ _) (fA_packV _ _ _ _ _) (fF_packV _ _ _ _ _) (VB_packed _ _ _ _ b _ (by decide) (wf_tail h rfl))
theorem vmul (d : BitVec 7) (a : BitVec 7) (b : VB) : Encoding.Statement (.vmul d a b) := by
  have key : ∀ word lit : Word, fMaj word = 10#6 → fD word = d → fA word = a → fF word = 2#3 → VB.ofCode (fB word) lit = some b → decodeRaw word lit = .ok (.vmul d a b) := by
    intro word lit hfMaj hfD hfA hfF hb
    rw [raw_0A hfMaj]; unfold decMaj0A; rw [hfF]
    simp only [decVB, hfD, hfA, hb, res0]; rfl
  exact of_raw (j := (.vmul d a b)) rfl (fMaj_packV _ _ _ _ _) (by decide) rfl fun h => key _ _ (fMaj_packV _ _ _ _ _) (fD_packV _ _ _ _ _) (fA_packV _ _ _ _ _) (fF_packV _ _ _ _ _) (VB_packed _ _ _ _ b _ (by decide) (wf_tail h rfl))
theorem vmulh (d : BitVec 7) (a : BitVec 7) (b : VB) : Encoding.Statement (.vmulh d a b) := by
  have key : ∀ word lit : Word, fMaj word = 10#6 → fD word = d → fA word = a → fF word = 3#3 → VB.ofCode (fB word) lit = some b → decodeRaw word lit = .ok (.vmulh d a b) := by
    intro word lit hfMaj hfD hfA hfF hb
    rw [raw_0A hfMaj]; unfold decMaj0A; rw [hfF]
    simp only [decVB, hfD, hfA, hb, res0]; rfl
  exact of_raw (j := (.vmulh d a b)) rfl (fMaj_packV _ _ _ _ _) (by decide) rfl fun h => key _ _ (fMaj_packV _ _ _ _ _) (fD_packV _ _ _ _ _) (fA_packV _ _ _ _ _) (fF_packV _ _ _ _ _) (VB_packed _ _ _ _ b _ (by decide) (wf_tail h rfl))
theorem vmad (d : BitVec 7) (a : BitVec 7) (b : VB) : Encoding.Statement (.vmad d a b) := by
  have key : ∀ word lit : Word, fMaj word = 10#6 → fD word = d → fA word = a → fF word = 4#3 → VB.ofCode (fB word) lit = some b → decodeRaw word lit = .ok (.vmad d a b) := by
    intro word lit hfMaj hfD hfA hfF hb
    rw [raw_0A hfMaj]; unfold decMaj0A; rw [hfF]
    simp only [decVB, hfD, hfA, hb, res0]; rfl
  exact of_raw (j := (.vmad d a b)) rfl (fMaj_packV _ _ _ _ _) (by decide) rfl fun h => key _ _ (fMaj_packV _ _ _ _ _) (fD_packV _ _ _ _ _) (fA_packV _ _ _ _ _) (fF_packV _ _ _ _ _) (VB_packed _ _ _ _ b _ (by decide) (wf_tail h rfl))
theorem vand (d : BitVec 7) (a : BitVec 7) (b : VB) : Encoding.Statement (.vand d a b) := by
  have key : ∀ word lit : Word, fMaj word = 10#6 → fD word = d → fA word = a → fF word = 5#3 → VB.ofCode (fB word) lit = some b → decodeRaw word lit = .ok (.vand d a b) := by
    intro word lit hfMaj hfD hfA hfF hb
    rw [raw_0A hfMaj]; unfold decMaj0A; rw [hfF]
    simp only [decVB, hfD, hfA, hb, res0]; rfl
  exact of_raw (j := (.vand d a b)) rfl (fMaj_packV _ _ _ _ _) (by decide) rfl fun h => key _ _ (fMaj_packV _ _ _ _ _) (fD_packV _ _ _ _ _) (fA_packV _ _ _ _ _) (fF_packV _ _ _ _ _) (VB_packed _ _ _ _ b _ (by decide) (wf_tail h rfl))
theorem vor (d : BitVec 7) (a : BitVec 7) (b : VB) : Encoding.Statement (.vor d a b) := by
  have key : ∀ word lit : Word, fMaj word = 10#6 → fD word = d → fA word = a → fF word = 6#3 → VB.ofCode (fB word) lit = some b → decodeRaw word lit = .ok (.vor d a b) := by
    intro word lit hfMaj hfD hfA hfF hb
    rw [raw_0A hfMaj]; unfold decMaj0A; rw [hfF]
    simp only [decVB, hfD, hfA, hb, res0]; rfl
  exact of_raw (j := (.vor d a b)) rfl (fMaj_packV _ _ _ _ _) (by decide) rfl fun h => key _ _ (fMaj_packV _ _ _ _ _) (fD_packV _ _ _ _ _) (fA_packV _ _ _ _ _) (fF_packV _ _ _ _ _) (VB_packed _ _ _ _ b _ (by decide) (wf_tail h rfl))
theorem vxor (d : BitVec 7) (a : BitVec 7) (b : VB) : Encoding.Statement (.vxor d a b) := by
  have key : ∀ word lit : Word, fMaj word = 10#6 → fD word = d → fA word = a → fF word = 7#3 → VB.ofCode (fB word) lit = some b → decodeRaw word lit = .ok (.vxor d a b) := by
    intro word lit hfMaj hfD hfA hfF hb
    rw [raw_0A hfMaj]; unfold decMaj0A; rw [hfF]
    simp only [decVB, hfD, hfA, hb, res0]; rfl
  exact of_raw (j := (.vxor d a b)) rfl (fMaj_packV _ _ _ _ _) (by decide) rfl fun h => key _ _ (fMaj_packV _ _ _ _ _) (fD_packV _ _ _ _ _) (fA_packV _ _ _ _ _) (fF_packV _ _ _ _ _) (VB_packed _ _ _ _ b _ (by decide) (wf_tail h rfl))
theorem vaddI (d : BitVec 7) (a : BitVec 7) (imm : BitVec 8) : Encoding.Statement (.vaddI d a imm) := by
  have key : ∀ word lit : Word, fMaj word = 11#6 → fD word = d → fA word = a → fB word = imm → fF word = 0#3 → decodeRaw word lit = .ok (.vaddI d a imm) := by
    intro word lit hfMaj hfD hfA hfB hfF
    rw [raw_0B hfMaj]; unfold decMaj0B; rw [hfF]
    simp only [hfD, hfA, hfB, res0]; rfl
  exact of_raw (j := (.vaddI d a imm)) rfl (fMaj_packV _ _ _ _ _) (by decide) rfl fun h => key _ _ (fMaj_packV _ _ _ _ _) (fD_packV _ _ _ _ _) (fA_packV _ _ _ _ _) (fB_packV _ _ _ _ _) (fF_packV _ _ _ _ _)
theorem vsubI (d : BitVec 7) (a : BitVec 7) (imm : BitVec 8) : Encoding.Statement (.vsubI d a imm) := by
  have key : ∀ word lit : Word, fMaj word = 11#6 → fD word = d → fA word = a → fB word = imm → fF word = 1#3 → decodeRaw word lit = .ok (.vsubI d a imm) := by
    intro word lit hfMaj hfD hfA hfB hfF
    rw [raw_0B hfMaj]; unfold decMaj0B; rw [hfF]
    simp only [hfD, hfA, hfB, res0]; rfl
  exact of_raw (j := (.vsubI d a imm)) rfl (fMaj_packV _ _ _ _ _) (by decide) rfl fun h => key _ _ (fMaj_packV _ _ _ _ _) (fD_packV _ _ _ _ _) (fA_packV _ _ _ _ _) (fB_packV _ _ _ _ _) (fF_packV _ _ _ _ _)
theorem vmulI (d : BitVec 7) (a : BitVec 7) (imm : BitVec 8) : Encoding.Statement (.vmulI d a imm) := by
  have key : ∀ word lit : Word, fMaj word = 11#6 → fD word = d → fA word = a → fB word = imm → fF word = 2#3 → decodeRaw word lit = .ok (.vmulI d a imm) := by
    intro word lit hfMaj hfD hfA hfB hfF
    rw [raw_0B hfMaj]; unfold decMaj0B; rw [hfF]
    simp only [hfD, hfA, hfB, res0]; rfl
  exact of_raw (j := (.vmulI d a imm)) rfl (fMaj_packV _ _ _ _ _) (by decide) rfl fun h => key _ _ (fMaj_packV _ _ _ _ _) (fD_packV _ _ _ _ _) (fA_packV _ _ _ _ _) (fB_packV _ _ _ _ _) (fF_packV _ _ _ _ _)
theorem vmulhI (d : BitVec 7) (a : BitVec 7) (imm : BitVec 8) : Encoding.Statement (.vmulhI d a imm) := by
  have key : ∀ word lit : Word, fMaj word = 11#6 → fD word = d → fA word = a → fB word = imm → fF word = 3#3 → decodeRaw word lit = .ok (.vmulhI d a imm) := by
    intro word lit hfMaj hfD hfA hfB hfF
    rw [raw_0B hfMaj]; unfold decMaj0B; rw [hfF]
    simp only [hfD, hfA, hfB, res0]; rfl
  exact of_raw (j := (.vmulhI d a imm)) rfl (fMaj_packV _ _ _ _ _) (by decide) rfl fun h => key _ _ (fMaj_packV _ _ _ _ _) (fD_packV _ _ _ _ _) (fA_packV _ _ _ _ _) (fB_packV _ _ _ _ _) (fF_packV _ _ _ _ _)
theorem vmadI (d : BitVec 7) (a : BitVec 7) (imm : BitVec 8) : Encoding.Statement (.vmadI d a imm) := by
  have key : ∀ word lit : Word, fMaj word = 11#6 → fD word = d → fA word = a → fB word = imm → fF word = 4#3 → decodeRaw word lit = .ok (.vmadI d a imm) := by
    intro word lit hfMaj hfD hfA hfB hfF
    rw [raw_0B hfMaj]; unfold decMaj0B; rw [hfF]
    simp only [hfD, hfA, hfB, res0]; rfl
  exact of_raw (j := (.vmadI d a imm)) rfl (fMaj_packV _ _ _ _ _) (by decide) rfl fun h => key _ _ (fMaj_packV _ _ _ _ _) (fD_packV _ _ _ _ _) (fA_packV _ _ _ _ _) (fB_packV _ _ _ _ _) (fF_packV _ _ _ _ _)
theorem vandI (d : BitVec 7) (a : BitVec 7) (imm : BitVec 8) : Encoding.Statement (.vandI d a imm) := by
  have key : ∀ word lit : Word, fMaj word = 11#6 → fD word = d → fA word = a → fB word = imm → fF word = 5#3 → decodeRaw word lit = .ok (.vandI d a imm) := by
    intro word lit hfMaj hfD hfA hfB hfF
    rw [raw_0B hfMaj]; unfold decMaj0B; rw [hfF]
    simp only [hfD, hfA, hfB, res0]; rfl
  exact of_raw (j := (.vandI d a imm)) rfl (fMaj_packV _ _ _ _ _) (by decide) rfl fun h => key _ _ (fMaj_packV _ _ _ _ _) (fD_packV _ _ _ _ _) (fA_packV _ _ _ _ _) (fB_packV _ _ _ _ _) (fF_packV _ _ _ _ _)
theorem vorI (d : BitVec 7) (a : BitVec 7) (imm : BitVec 8) : Encoding.Statement (.vorI d a imm) := by
  have key : ∀ word lit : Word, fMaj word = 11#6 → fD word = d → fA word = a → fB word = imm → fF word = 6#3 → decodeRaw word lit = .ok (.vorI d a imm) := by
    intro word lit hfMaj hfD hfA hfB hfF
    rw [raw_0B hfMaj]; unfold decMaj0B; rw [hfF]
    simp only [hfD, hfA, hfB, res0]; rfl
  exact of_raw (j := (.vorI d a imm)) rfl (fMaj_packV _ _ _ _ _) (by decide) rfl fun h => key _ _ (fMaj_packV _ _ _ _ _) (fD_packV _ _ _ _ _) (fA_packV _ _ _ _ _) (fB_packV _ _ _ _ _) (fF_packV _ _ _ _ _)
theorem vxorI (d : BitVec 7) (a : BitVec 7) (imm : BitVec 8) : Encoding.Statement (.vxorI d a imm) := by
  have key : ∀ word lit : Word, fMaj word = 11#6 → fD word = d → fA word = a → fB word = imm → fF word = 7#3 → decodeRaw word lit = .ok (.vxorI d a imm) := by
    intro word lit hfMaj hfD hfA hfB hfF
    rw [raw_0B hfMaj]; unfold decMaj0B; rw [hfF]
    simp only [hfD, hfA, hfB, res0]; rfl
  exact of_raw (j := (.vxorI d a imm)) rfl (fMaj_packV _ _ _ _ _) (by decide) rfl fun h => key _ _ (fMaj_packV _ _ _ _ _) (fD_packV _ _ _ _ _) (fA_packV _ _ _ _ _) (fB_packV _ _ _ _ _) (fF_packV _ _ _ _ _)
theorem vshl (d : BitVec 7) (a : BitVec 7) (b : VB) : Encoding.Statement (.vshl d a b) := by
  have key : ∀ word lit : Word, fMaj word = 12#6 → fD word = d → fA word = a → fF word = 0#3 → VB.ofCode (fB word) lit = some b → decodeRaw word lit = .ok (.vshl d a b) := by
    intro word lit hfMaj hfD hfA hfF hb
    rw [raw_0C hfMaj]; unfold decMaj0C; rw [hfF]
    simp only [decVB, hfD, hfA, hb, res0]; rfl
  exact of_raw (j := (.vshl d a b)) rfl (fMaj_packV _ _ _ _ _) (by decide) rfl fun h => key _ _ (fMaj_packV _ _ _ _ _) (fD_packV _ _ _ _ _) (fA_packV _ _ _ _ _) (fF_packV _ _ _ _ _) (VB_packed _ _ _ _ b _ (by decide) (wf_tail h rfl))
theorem vshr (d : BitVec 7) (a : BitVec 7) (b : VB) : Encoding.Statement (.vshr d a b) := by
  have key : ∀ word lit : Word, fMaj word = 12#6 → fD word = d → fA word = a → fF word = 1#3 → VB.ofCode (fB word) lit = some b → decodeRaw word lit = .ok (.vshr d a b) := by
    intro word lit hfMaj hfD hfA hfF hb
    rw [raw_0C hfMaj]; unfold decMaj0C; rw [hfF]
    simp only [decVB, hfD, hfA, hb, res0]; rfl
  exact of_raw (j := (.vshr d a b)) rfl (fMaj_packV _ _ _ _ _) (by decide) rfl fun h => key _ _ (fMaj_packV _ _ _ _ _) (fD_packV _ _ _ _ _) (fA_packV _ _ _ _ _) (fF_packV _ _ _ _ _) (VB_packed _ _ _ _ b _ (by decide) (wf_tail h rfl))
theorem vsra (d : BitVec 7) (a : BitVec 7) (b : VB) : Encoding.Statement (.vsra d a b) := by
  have key : ∀ word lit : Word, fMaj word = 12#6 → fD word = d → fA word = a → fF word = 2#3 → VB.ofCode (fB word) lit = some b → decodeRaw word lit = .ok (.vsra d a b) := by
    intro word lit hfMaj hfD hfA hfF hb
    rw [raw_0C hfMaj]; unfold decMaj0C; rw [hfF]
    simp only [decVB, hfD, hfA, hb, res0]; rfl
  exact of_raw (j := (.vsra d a b)) rfl (fMaj_packV _ _ _ _ _) (by decide) rfl fun h => key _ _ (fMaj_packV _ _ _ _ _) (fD_packV _ _ _ _ _) (fA_packV _ _ _ _ _) (fF_packV _ _ _ _ _) (VB_packed _ _ _ _ b _ (by decide) (wf_tail h rfl))
theorem vmin (d : BitVec 7) (a : BitVec 7) (b : VB) : Encoding.Statement (.vmin d a b) := by
  have key : ∀ word lit : Word, fMaj word = 12#6 → fD word = d → fA word = a → fF word = 3#3 → VB.ofCode (fB word) lit = some b → decodeRaw word lit = .ok (.vmin d a b) := by
    intro word lit hfMaj hfD hfA hfF hb
    rw [raw_0C hfMaj]; unfold decMaj0C; rw [hfF]
    simp only [decVB, hfD, hfA, hb, res0]; rfl
  exact of_raw (j := (.vmin d a b)) rfl (fMaj_packV _ _ _ _ _) (by decide) rfl fun h => key _ _ (fMaj_packV _ _ _ _ _) (fD_packV _ _ _ _ _) (fA_packV _ _ _ _ _) (fF_packV _ _ _ _ _) (VB_packed _ _ _ _ b _ (by decide) (wf_tail h rfl))
theorem vmax (d : BitVec 7) (a : BitVec 7) (b : VB) : Encoding.Statement (.vmax d a b) := by
  have key : ∀ word lit : Word, fMaj word = 12#6 → fD word = d → fA word = a → fF word = 4#3 → VB.ofCode (fB word) lit = some b → decodeRaw word lit = .ok (.vmax d a b) := by
    intro word lit hfMaj hfD hfA hfF hb
    rw [raw_0C hfMaj]; unfold decMaj0C; rw [hfF]
    simp only [decVB, hfD, hfA, hb, res0]; rfl
  exact of_raw (j := (.vmax d a b)) rfl (fMaj_packV _ _ _ _ _) (by decide) rfl fun h => key _ _ (fMaj_packV _ _ _ _ _) (fD_packV _ _ _ _ _) (fA_packV _ _ _ _ _) (fF_packV _ _ _ _ _) (VB_packed _ _ _ _ b _ (by decide) (wf_tail h rfl))
theorem vadd64 (d : BitVec 7) (a : BitVec 7) (b : VB) : Encoding.Statement (.vadd64 d a b) := by
  have key : ∀ word lit : Word, fMaj word = 12#6 → fD word = d → fA word = a → fF word = 5#3 → VB.ofCode (fB word) lit = some b → decodeRaw word lit = .ok (.vadd64 d a b) := by
    intro word lit hfMaj hfD hfA hfF hb
    rw [raw_0C hfMaj]; unfold decMaj0C; rw [hfF]
    simp only [decVB, hfD, hfA, hb, res0]; rfl
  exact of_raw (j := (.vadd64 d a b)) rfl (fMaj_packV _ _ _ _ _) (by decide) rfl fun h => key _ _ (fMaj_packV _ _ _ _ _) (fD_packV _ _ _ _ _) (fA_packV _ _ _ _ _) (fF_packV _ _ _ _ _) (VB_packed _ _ _ _ b _ (by decide) (wf_tail h rfl))
theorem vmad64 (d : BitVec 7) (a : BitVec 7) (b : VB) : Encoding.Statement (.vmad64 d a b) := by
  have key : ∀ word lit : Word, fMaj word = 12#6 → fD word = d → fA word = a → fF word = 6#3 → VB.ofCode (fB word) lit = some b → decodeRaw word lit = .ok (.vmad64 d a b) := by
    intro word lit hfMaj hfD hfA hfF hb
    rw [raw_0C hfMaj]; unfold decMaj0C; rw [hfF]
    simp only [decVB, hfD, hfA, hb, res0]; rfl
  exact of_raw (j := (.vmad64 d a b)) rfl (fMaj_packV _ _ _ _ _) (by decide) rfl fun h => key _ _ (fMaj_packV _ _ _ _ _) (fD_packV _ _ _ _ _) (fA_packV _ _ _ _ _) (fF_packV _ _ _ _ _) (VB_packed _ _ _ _ b _ (by decide) (wf_tail h rfl))
theorem vsel (d : BitVec 7) (a : BitVec 7) (b : VB) : Encoding.Statement (.vsel d a b) := by
  have key : ∀ word lit : Word, fMaj word = 12#6 → fD word = d → fA word = a → fF word = 7#3 → VB.ofCode (fB word) lit = some b → decodeRaw word lit = .ok (.vsel d a b) := by
    intro word lit hfMaj hfD hfA hfF hb
    rw [raw_0C hfMaj]; unfold decMaj0C; rw [hfF]
    simp only [decVB, hfD, hfA, hb, res0]; rfl
  exact of_raw (j := (.vsel d a b)) rfl (fMaj_packV _ _ _ _ _) (by decide) rfl fun h => key _ _ (fMaj_packV _ _ _ _ _) (fD_packV _ _ _ _ _) (fA_packV _ _ _ _ _) (fF_packV _ _ _ _ _) (VB_packed _ _ _ _ b _ (by decide) (wf_tail h rfl))
theorem vshlI (d : BitVec 7) (a : BitVec 7) (imm : BitVec 8) : Encoding.Statement (.vshlI d a imm) := by
  have key : ∀ word lit : Word, fMaj word = 13#6 → fD word = d → fA word = a → fB word = imm → fF word = 0#3 → decodeRaw word lit = .ok (.vshlI d a imm) := by
    intro word lit hfMaj hfD hfA hfB hfF
    rw [raw_0D hfMaj]; unfold decMaj0D; rw [hfF]
    simp only [hfD, hfA, hfB, res0]; rfl
  exact of_raw (j := (.vshlI d a imm)) rfl (fMaj_packV _ _ _ _ _) (by decide) rfl fun h => key _ _ (fMaj_packV _ _ _ _ _) (fD_packV _ _ _ _ _) (fA_packV _ _ _ _ _) (fB_packV _ _ _ _ _) (fF_packV _ _ _ _ _)
theorem vshrI (d : BitVec 7) (a : BitVec 7) (imm : BitVec 8) : Encoding.Statement (.vshrI d a imm) := by
  have key : ∀ word lit : Word, fMaj word = 13#6 → fD word = d → fA word = a → fB word = imm → fF word = 1#3 → decodeRaw word lit = .ok (.vshrI d a imm) := by
    intro word lit hfMaj hfD hfA hfB hfF
    rw [raw_0D hfMaj]; unfold decMaj0D; rw [hfF]
    simp only [hfD, hfA, hfB, res0]; rfl
  exact of_raw (j := (.vshrI d a imm)) rfl (fMaj_packV _ _ _ _ _) (by decide) rfl fun h => key _ _ (fMaj_packV _ _ _ _ _) (fD_packV _ _ _ _ _) (fA_packV _ _ _ _ _) (fB_packV _ _ _ _ _) (fF_packV _ _ _ _ _)
theorem vsraI (d : BitVec 7) (a : BitVec 7) (imm : BitVec 8) : Encoding.Statement (.vsraI d a imm) := by
  have key : ∀ word lit : Word, fMaj word = 13#6 → fD word = d → fA word = a → fB word = imm → fF word = 2#3 → decodeRaw word lit = .ok (.vsraI d a imm) := by
    intro word lit hfMaj hfD hfA hfB hfF
    rw [raw_0D hfMaj]; unfold decMaj0D; rw [hfF]
    simp only [hfD, hfA, hfB, res0]; rfl
  exact of_raw (j := (.vsraI d a imm)) rfl (fMaj_packV _ _ _ _ _) (by decide) rfl fun h => key _ _ (fMaj_packV _ _ _ _ _) (fD_packV _ _ _ _ _) (fA_packV _ _ _ _ _) (fB_packV _ _ _ _ _) (fF_packV _ _ _ _ _)
theorem vminI (d : BitVec 7) (a : BitVec 7) (imm : BitVec 8) : Encoding.Statement (.vminI d a imm) := by
  have key : ∀ word lit : Word, fMaj word = 13#6 → fD word = d → fA word = a → fB word = imm → fF word = 3#3 → decodeRaw word lit = .ok (.vminI d a imm) := by
    intro word lit hfMaj hfD hfA hfB hfF
    rw [raw_0D hfMaj]; unfold decMaj0D; rw [hfF]
    simp only [hfD, hfA, hfB, res0]; rfl
  exact of_raw (j := (.vminI d a imm)) rfl (fMaj_packV _ _ _ _ _) (by decide) rfl fun h => key _ _ (fMaj_packV _ _ _ _ _) (fD_packV _ _ _ _ _) (fA_packV _ _ _ _ _) (fB_packV _ _ _ _ _) (fF_packV _ _ _ _ _)
theorem vmaxI (d : BitVec 7) (a : BitVec 7) (imm : BitVec 8) : Encoding.Statement (.vmaxI d a imm) := by
  have key : ∀ word lit : Word, fMaj word = 13#6 → fD word = d → fA word = a → fB word = imm → fF word = 4#3 → decodeRaw word lit = .ok (.vmaxI d a imm) := by
    intro word lit hfMaj hfD hfA hfB hfF
    rw [raw_0D hfMaj]; unfold decMaj0D; rw [hfF]
    simp only [hfD, hfA, hfB, res0]; rfl
  exact of_raw (j := (.vmaxI d a imm)) rfl (fMaj_packV _ _ _ _ _) (by decide) rfl fun h => key _ _ (fMaj_packV _ _ _ _ _) (fD_packV _ _ _ _ _) (fA_packV _ _ _ _ _) (fB_packV _ _ _ _ _) (fF_packV _ _ _ _ _)
theorem vadd64I (d : BitVec 7) (a : BitVec 7) (imm : BitVec 8) : Encoding.Statement (.vadd64I d a imm) := by
  have key : ∀ word lit : Word, fMaj word = 13#6 → fD word = d → fA word = a → fB word = imm → fF word = 5#3 → decodeRaw word lit = .ok (.vadd64I d a imm) := by
    intro word lit hfMaj hfD hfA hfB hfF
    rw [raw_0D hfMaj]; unfold decMaj0D; rw [hfF]
    simp only [hfD, hfA, hfB, res0]; rfl
  exact of_raw (j := (.vadd64I d a imm)) rfl (fMaj_packV _ _ _ _ _) (by decide) rfl fun h => key _ _ (fMaj_packV _ _ _ _ _) (fD_packV _ _ _ _ _) (fA_packV _ _ _ _ _) (fB_packV _ _ _ _ _) (fF_packV _ _ _ _ _)
theorem vmad64I (d : BitVec 7) (a : BitVec 7) (imm : BitVec 8) : Encoding.Statement (.vmad64I d a imm) := by
  have key : ∀ word lit : Word, fMaj word = 13#6 → fD word = d → fA word = a → fB word = imm → fF word = 6#3 → decodeRaw word lit = .ok (.vmad64I d a imm) := by
    intro word lit hfMaj hfD hfA hfB hfF
    rw [raw_0D hfMaj]; unfold decMaj0D; rw [hfF]
    simp only [hfD, hfA, hfB, res0]; rfl
  exact of_raw (j := (.vmad64I d a imm)) rfl (fMaj_packV _ _ _ _ _) (by decide) rfl fun h => key _ _ (fMaj_packV _ _ _ _ _) (fD_packV _ _ _ _ _) (fA_packV _ _ _ _ _) (fB_packV _ _ _ _ _) (fF_packV _ _ _ _ _)
theorem vmov (d : BitVec 7) (b : VB) : Encoding.Statement (.vmov d b) := by
  have key : ∀ word lit : Word, fMaj word = 14#6 → fD word = d → fA word = 0#7 → fF word = 0#3 → VB.ofCode (fB word) lit = some b → decodeRaw word lit = .ok (.vmov d b) := by
    intro word lit hfMaj hfD hfA hfF hb
    rw [raw_0E hfMaj]; unfold decMaj0E; rw [hfF]
    simp only [decVB, hfD, hfA, hb, res0]; rfl
  exact of_raw (j := (.vmov d b)) rfl (fMaj_packV _ _ _ _ _) (by decide) rfl fun h => key _ _ (fMaj_packV _ _ _ _ _) (fD_packV _ _ _ _ _) (fA_packV _ _ _ _ _) (fF_packV _ _ _ _ _) (VB_packed _ _ _ _ b _ (by decide) (wf_tail h rfl))
theorem vnot (d : BitVec 7) (b : VB) : Encoding.Statement (.vnot d b) := by
  have key : ∀ word lit : Word, fMaj word = 14#6 → fD word = d → fA word = 0#7 → fF word = 1#3 → VB.ofCode (fB word) lit = some b → decodeRaw word lit = .ok (.vnot d b) := by
    intro word lit hfMaj hfD hfA hfF hb
    rw [raw_0E hfMaj]; unfold decMaj0E; rw [hfF]
    simp only [decVB, hfD, hfA, hb, res0]; rfl
  exact of_raw (j := (.vnot d b)) rfl (fMaj_packV _ _ _ _ _) (by decide) rfl fun h => key _ _ (fMaj_packV _ _ _ _ _) (fD_packV _ _ _ _ _) (fA_packV _ _ _ _ _) (fF_packV _ _ _ _ _) (VB_packed _ _ _ _ b _ (by decide) (wf_tail h rfl))
theorem vabs (d : BitVec 7) (b : VB) : Encoding.Statement (.vabs d b) := by
  have key : ∀ word lit : Word, fMaj word = 14#6 → fD word = d → fA word = 0#7 → fF word = 2#3 → VB.ofCode (fB word) lit = some b → decodeRaw word lit = .ok (.vabs d b) := by
    intro word lit hfMaj hfD hfA hfF hb
    rw [raw_0E hfMaj]; unfold decMaj0E; rw [hfF]
    simp only [decVB, hfD, hfA, hb, res0]; rfl
  exact of_raw (j := (.vabs d b)) rfl (fMaj_packV _ _ _ _ _) (by decide) rfl fun h => key _ _ (fMaj_packV _ _ _ _ _) (fD_packV _ _ _ _ _) (fA_packV _ _ _ _ _) (fF_packV _ _ _ _ _) (VB_packed _ _ _ _ b _ (by decide) (wf_tail h rfl))
theorem vclz (d : BitVec 7) (b : VB) : Encoding.Statement (.vclz d b) := by
  have key : ∀ word lit : Word, fMaj word = 14#6 → fD word = d → fA word = 0#7 → fF word = 3#3 → VB.ofCode (fB word) lit = some b → decodeRaw word lit = .ok (.vclz d b) := by
    intro word lit hfMaj hfD hfA hfF hb
    rw [raw_0E hfMaj]; unfold decMaj0E; rw [hfF]
    simp only [decVB, hfD, hfA, hb, res0]; rfl
  exact of_raw (j := (.vclz d b)) rfl (fMaj_packV _ _ _ _ _) (by decide) rfl fun h => key _ _ (fMaj_packV _ _ _ _ _) (fD_packV _ _ _ _ _) (fA_packV _ _ _ _ _) (fF_packV _ _ _ _ _) (VB_packed _ _ _ _ b _ (by decide) (wf_tail h rfl))
theorem vpopc (d : BitVec 7) (b : VB) : Encoding.Statement (.vpopc d b) := by
  have key : ∀ word lit : Word, fMaj word = 14#6 → fD word = d → fA word = 0#7 → fF word = 4#3 → VB.ofCode (fB word) lit = some b → decodeRaw word lit = .ok (.vpopc d b) := by
    intro word lit hfMaj hfD hfA hfF hb
    rw [raw_0E hfMaj]; unfold decMaj0E; rw [hfF]
    simp only [decVB, hfD, hfA, hb, res0]; rfl
  exact of_raw (j := (.vpopc d b)) rfl (fMaj_packV _ _ _ _ _) (by decide) rfl fun h => key _ _ (fMaj_packV _ _ _ _ _) (fD_packV _ _ _ _ _) (fA_packV _ _ _ _ _) (fF_packV _ _ _ _ _) (VB_packed _ _ _ _ b _ (by decide) (wf_tail h rfl))
theorem vbrev (d : BitVec 7) (b : VB) : Encoding.Statement (.vbrev d b) := by
  have key : ∀ word lit : Word, fMaj word = 14#6 → fD word = d → fA word = 0#7 → fF word = 5#3 → VB.ofCode (fB word) lit = some b → decodeRaw word lit = .ok (.vbrev d b) := by
    intro word lit hfMaj hfD hfA hfF hb
    rw [raw_0E hfMaj]; unfold decMaj0E; rw [hfF]
    simp only [decVB, hfD, hfA, hb, res0]; rfl
  exact of_raw (j := (.vbrev d b)) rfl (fMaj_packV _ _ _ _ _) (by decide) rfl fun h => key _ _ (fMaj_packV _ _ _ _ _) (fD_packV _ _ _ _ _) (fA_packV _ _ _ _ _) (fF_packV _ _ _ _ _) (VB_packed _ _ _ _ b _ (by decide) (wf_tail h rfl))
theorem vbfe (d : BitVec 7) (a : BitVec 7) (b : VB) : Encoding.Statement (.vbfe d a b) := by
  have key : ∀ word lit : Word, fMaj word = 14#6 → fD word = d → fA word = a → fF word = 6#3 → VB.ofCode (fB word) lit = some b → decodeRaw word lit = .ok (.vbfe d a b) := by
    intro word lit hfMaj hfD hfA hfF hb
    rw [raw_0E hfMaj]; unfold decMaj0E; rw [hfF]
    simp only [decVB, hfD, hfA, hb, res0]; rfl
  exact of_raw (j := (.vbfe d a b)) rfl (fMaj_packV _ _ _ _ _) (by decide) rfl fun h => key _ _ (fMaj_packV _ _ _ _ _) (fD_packV _ _ _ _ _) (fA_packV _ _ _ _ _) (fF_packV _ _ _ _ _) (VB_packed _ _ _ _ b _ (by decide) (wf_tail h rfl))
theorem vbfi (d : BitVec 7) (a : BitVec 7) (b : VB) : Encoding.Statement (.vbfi d a b) := by
  have key : ∀ word lit : Word, fMaj word = 14#6 → fD word = d → fA word = a → fF word = 7#3 → VB.ofCode (fB word) lit = some b → decodeRaw word lit = .ok (.vbfi d a b) := by
    intro word lit hfMaj hfD hfA hfF hb
    rw [raw_0E hfMaj]; unfold decMaj0E; rw [hfF]
    simp only [decVB, hfD, hfA, hb, res0]; rfl
  exact of_raw (j := (.vbfi d a b)) rfl (fMaj_packV _ _ _ _ _) (by decide) rfl fun h => key _ _ (fMaj_packV _ _ _ _ _) (fD_packV _ _ _ _ _) (fA_packV _ _ _ _ _) (fF_packV _ _ _ _ _) (VB_packed _ _ _ _ b _ (by decide) (wf_tail h rfl))
theorem vcmp (cc : ICmp) (d : BitVec 7) (a : BitVec 7) (b : VB) : Encoding.Statement (.vcmp cc d a b) := by
  cases cc
  · have key : ∀ word lit : Word, fMaj word = 15#6 → fD word = d → fA word = a → fF word = 0#3 → VB.ofCode (fB word) lit = some b → decodeRaw word lit = .ok (.vcmp .eq d a b) := by
      intro word lit hfMaj hfD hfA hfF hb
      rw [raw_0F hfMaj]; unfold decMaj0F; rw [hfF]
      simp only [decVB, hfD, hfA, hb, res0]; rfl
    exact of_raw (j := (.vcmp .eq d a b)) rfl (fMaj_packV _ _ _ _ _) (by decide) rfl fun h => key _ _ (fMaj_packV _ _ _ _ _) (fD_packV _ _ _ _ _) (fA_packV _ _ _ _ _) (fF_packV _ _ _ _ _) (VB_packed _ _ _ _ b _ (by decide) (wf_tail h rfl))
  · have key : ∀ word lit : Word, fMaj word = 15#6 → fD word = d → fA word = a → fF word = 1#3 → VB.ofCode (fB word) lit = some b → decodeRaw word lit = .ok (.vcmp .ne d a b) := by
      intro word lit hfMaj hfD hfA hfF hb
      rw [raw_0F hfMaj]; unfold decMaj0F; rw [hfF]
      simp only [decVB, hfD, hfA, hb, res0]; rfl
    exact of_raw (j := (.vcmp .ne d a b)) rfl (fMaj_packV _ _ _ _ _) (by decide) rfl fun h => key _ _ (fMaj_packV _ _ _ _ _) (fD_packV _ _ _ _ _) (fA_packV _ _ _ _ _) (fF_packV _ _ _ _ _) (VB_packed _ _ _ _ b _ (by decide) (wf_tail h rfl))
  · have key : ∀ word lit : Word, fMaj word = 15#6 → fD word = d → fA word = a → fF word = 2#3 → VB.ofCode (fB word) lit = some b → decodeRaw word lit = .ok (.vcmp .lt d a b) := by
      intro word lit hfMaj hfD hfA hfF hb
      rw [raw_0F hfMaj]; unfold decMaj0F; rw [hfF]
      simp only [decVB, hfD, hfA, hb, res0]; rfl
    exact of_raw (j := (.vcmp .lt d a b)) rfl (fMaj_packV _ _ _ _ _) (by decide) rfl fun h => key _ _ (fMaj_packV _ _ _ _ _) (fD_packV _ _ _ _ _) (fA_packV _ _ _ _ _) (fF_packV _ _ _ _ _) (VB_packed _ _ _ _ b _ (by decide) (wf_tail h rfl))
  · have key : ∀ word lit : Word, fMaj word = 15#6 → fD word = d → fA word = a → fF word = 3#3 → VB.ofCode (fB word) lit = some b → decodeRaw word lit = .ok (.vcmp .le d a b) := by
      intro word lit hfMaj hfD hfA hfF hb
      rw [raw_0F hfMaj]; unfold decMaj0F; rw [hfF]
      simp only [decVB, hfD, hfA, hb, res0]; rfl
    exact of_raw (j := (.vcmp .le d a b)) rfl (fMaj_packV _ _ _ _ _) (by decide) rfl fun h => key _ _ (fMaj_packV _ _ _ _ _) (fD_packV _ _ _ _ _) (fA_packV _ _ _ _ _) (fF_packV _ _ _ _ _) (VB_packed _ _ _ _ b _ (by decide) (wf_tail h rfl))
  · have key : ∀ word lit : Word, fMaj word = 15#6 → fD word = d → fA word = a → fF word = 4#3 → VB.ofCode (fB word) lit = some b → decodeRaw word lit = .ok (.vcmp .ltn d a b) := by
      intro word lit hfMaj hfD hfA hfF hb
      rw [raw_0F hfMaj]; unfold decMaj0F; rw [hfF]
      simp only [decVB, hfD, hfA, hb, res0]; rfl
    exact of_raw (j := (.vcmp .ltn d a b)) rfl (fMaj_packV _ _ _ _ _) (by decide) rfl fun h => key _ _ (fMaj_packV _ _ _ _ _) (fD_packV _ _ _ _ _) (fA_packV _ _ _ _ _) (fF_packV _ _ _ _ _) (VB_packed _ _ _ _ b _ (by decide) (wf_tail h rfl))
  · have key : ∀ word lit : Word, fMaj word = 15#6 → fD word = d → fA word = a → fF word = 5#3 → VB.ofCode (fB word) lit = some b → decodeRaw word lit = .ok (.vcmp .len d a b) := by
      intro word lit hfMaj hfD hfA hfF hb
      rw [raw_0F hfMaj]; unfold decMaj0F; rw [hfF]
      simp only [decVB, hfD, hfA, hb, res0]; rfl
    exact of_raw (j := (.vcmp .len d a b)) rfl (fMaj_packV _ _ _ _ _) (by decide) rfl fun h => key _ _ (fMaj_packV _ _ _ _ _) (fD_packV _ _ _ _ _) (fA_packV _ _ _ _ _) (fF_packV _ _ _ _ _) (VB_packed _ _ _ _ b _ (by decide) (wf_tail h rfl))
  · have key : ∀ word lit : Word, fMaj word = 15#6 → fD word = d → fA word = a → fF word = 6#3 → VB.ofCode (fB word) lit = some b → decodeRaw word lit = .ok (.vcmp .gt d a b) := by
      intro word lit hfMaj hfD hfA hfF hb
      rw [raw_0F hfMaj]; unfold decMaj0F; rw [hfF]
      simp only [decVB, hfD, hfA, hb, res0]; rfl
    exact of_raw (j := (.vcmp .gt d a b)) rfl (fMaj_packV _ _ _ _ _) (by decide) rfl fun h => key _ _ (fMaj_packV _ _ _ _ _) (fD_packV _ _ _ _ _) (fA_packV _ _ _ _ _) (fF_packV _ _ _ _ _) (VB_packed _ _ _ _ b _ (by decide) (wf_tail h rfl))
  · have key : ∀ word lit : Word, fMaj word = 15#6 → fD word = d → fA word = a → fF word = 7#3 → VB.ofCode (fB word) lit = some b → decodeRaw word lit = .ok (.vcmp .gtn d a b) := by
      intro word lit hfMaj hfD hfA hfF hb
      rw [raw_0F hfMaj]; unfold decMaj0F; rw [hfF]
      simp only [decVB, hfD, hfA, hb, res0]; rfl
    exact of_raw (j := (.vcmp .gtn d a b)) rfl (fMaj_packV _ _ _ _ _) (by decide) rfl fun h => key _ _ (fMaj_packV _ _ _ _ _) (fD_packV _ _ _ _ _) (fA_packV _ _ _ _ _) (fF_packV _ _ _ _ _) (VB_packed _ _ _ _ b _ (by decide) (wf_tail h rfl))
theorem vidx (d : BitVec 7) (a : BitVec 7) (b : VB) : Encoding.Statement (.vidx d a b) := by
  have key : ∀ word lit : Word, fMaj word = 16#6 → fD word = d → fA word = a → fF word = 0#3 → VB.ofCode (fB word) lit = some b → decodeRaw word lit = .ok (.vidx d a b) := by
    intro word lit hfMaj hfD hfA hfF hb
    rw [raw_10 hfMaj]; unfold decMaj10; rw [hfF]
    simp only [decVB, hfD, hfA, hb, res0]; rfl
  exact of_raw (j := (.vidx d a b)) rfl (fMaj_packV _ _ _ _ _) (by decide) rfl fun h => key _ _ (fMaj_packV _ _ _ _ _) (fD_packV _ _ _ _ _) (fA_packV _ _ _ _ _) (fF_packV _ _ _ _ _) (VB_packed _ _ _ _ b _ (by decide) (wf_tail h rfl))
theorem vidxw (d : BitVec 7) (a : BitVec 7) (b : VB) : Encoding.Statement (.vidxw d a b) := by
  have key : ∀ word lit : Word, fMaj word = 16#6 → fD word = d → fA word = a → fF word = 1#3 → VB.ofCode (fB word) lit = some b → decodeRaw word lit = .ok (.vidxw d a b) := by
    intro word lit hfMaj hfD hfA hfF hb
    rw [raw_10 hfMaj]; unfold decMaj10; rw [hfF]
    simp only [decVB, hfD, hfA, hb, res0]; rfl
  exact of_raw (j := (.vidxw d a b)) rfl (fMaj_packV _ _ _ _ _) (by decide) rfl fun h => key _ _ (fMaj_packV _ _ _ _ _) (fD_packV _ _ _ _ _) (fA_packV _ _ _ _ _) (fF_packV _ _ _ _ _) (VB_packed _ _ _ _ b _ (by decide) (wf_tail h rfl))
theorem vlane (d : BitVec 7) (sel : BitVec 8) : Encoding.Statement (.vlane d sel) := by
  have key : ∀ word lit : Word, fMaj word = 16#6 → fD word = d → fA word = 0#7 → fB word = sel → fF word = 2#3 → decodeRaw word lit = .ok (.vlane d sel) := by
    intro word lit hfMaj hfD hfA hfB hfF
    rw [raw_10 hfMaj]; unfold decMaj10; rw [hfF]
    simp only [hfD, hfA, hfB, res0]; rfl
  exact of_raw (j := (.vlane d sel)) rfl (fMaj_packV _ _ _ _ _) (by decide) rfl fun h => key _ _ (fMaj_packV _ _ _ _ _) (fD_packV _ _ _ _ _) (fA_packV _ _ _ _ _) (fB_packV _ _ _ _ _) (fF_packV _ _ _ _ _)
theorem vgets (d : BitVec 7) (a : BitVec 7) (b : VB) : Encoding.Statement (.vgets d a b) := by
  have key : ∀ word lit : Word, fMaj word = 16#6 → fD word = d → fA word = a → fF word = 3#3 → VB.ofCode (fB word) lit = some b → decodeRaw word lit = .ok (.vgets d a b) := by
    intro word lit hfMaj hfD hfA hfF hb
    rw [raw_10 hfMaj]; unfold decMaj10; rw [hfF]
    simp only [decVB, hfD, hfA, hb, res0]; rfl
  exact of_raw (j := (.vgets d a b)) rfl (fMaj_packV _ _ _ _ _) (by decide) rfl fun h => key _ _ (fMaj_packV _ _ _ _ _) (fD_packV _ _ _ _ _) (fA_packV _ _ _ _ _) (fF_packV _ _ _ _ _) (VB_packed _ _ _ _ b _ (by decide) (wf_tail h rfl))
theorem fadd (d : BitVec 7) (a : BitVec 7) (b : VB) : Encoding.Statement (.fadd d a b) := by
  have key : ∀ word lit : Word, fMaj word = 17#6 → fD word = d → fA word = a → fF word = 0#3 → VB.ofCode (fB word) lit = some b → decodeRaw word lit = .ok (.fadd d a b) := by
    intro word lit hfMaj hfD hfA hfF hb
    rw [raw_11 hfMaj]; unfold decMaj11; rw [hfF]
    simp only [decVB, hfD, hfA, hb, res0]; rfl
  exact of_raw (j := (.fadd d a b)) rfl (fMaj_packV _ _ _ _ _) (by decide) rfl fun h => key _ _ (fMaj_packV _ _ _ _ _) (fD_packV _ _ _ _ _) (fA_packV _ _ _ _ _) (fF_packV _ _ _ _ _) (VB_packed _ _ _ _ b _ (by decide) (wf_tail h rfl))
theorem fsub (d : BitVec 7) (a : BitVec 7) (b : VB) : Encoding.Statement (.fsub d a b) := by
  have key : ∀ word lit : Word, fMaj word = 17#6 → fD word = d → fA word = a → fF word = 1#3 → VB.ofCode (fB word) lit = some b → decodeRaw word lit = .ok (.fsub d a b) := by
    intro word lit hfMaj hfD hfA hfF hb
    rw [raw_11 hfMaj]; unfold decMaj11; rw [hfF]
    simp only [decVB, hfD, hfA, hb, res0]; rfl
  exact of_raw (j := (.fsub d a b)) rfl (fMaj_packV _ _ _ _ _) (by decide) rfl fun h => key _ _ (fMaj_packV _ _ _ _ _) (fD_packV _ _ _ _ _) (fA_packV _ _ _ _ _) (fF_packV _ _ _ _ _) (VB_packed _ _ _ _ b _ (by decide) (wf_tail h rfl))
theorem fmul (d : BitVec 7) (a : BitVec 7) (b : VB) : Encoding.Statement (.fmul d a b) := by
  have key : ∀ word lit : Word, fMaj word = 17#6 → fD word = d → fA word = a → fF word = 2#3 → VB.ofCode (fB word) lit = some b → decodeRaw word lit = .ok (.fmul d a b) := by
    intro word lit hfMaj hfD hfA hfF hb
    rw [raw_11 hfMaj]; unfold decMaj11; rw [hfF]
    simp only [decVB, hfD, hfA, hb, res0]; rfl
  exact of_raw (j := (.fmul d a b)) rfl (fMaj_packV _ _ _ _ _) (by decide) rfl fun h => key _ _ (fMaj_packV _ _ _ _ _) (fD_packV _ _ _ _ _) (fA_packV _ _ _ _ _) (fF_packV _ _ _ _ _) (VB_packed _ _ _ _ b _ (by decide) (wf_tail h rfl))
theorem ffma (d : BitVec 7) (a : BitVec 7) (b : VB) : Encoding.Statement (.ffma d a b) := by
  have key : ∀ word lit : Word, fMaj word = 17#6 → fD word = d → fA word = a → fF word = 3#3 → VB.ofCode (fB word) lit = some b → decodeRaw word lit = .ok (.ffma d a b) := by
    intro word lit hfMaj hfD hfA hfF hb
    rw [raw_11 hfMaj]; unfold decMaj11; rw [hfF]
    simp only [decVB, hfD, hfA, hb, res0]; rfl
  exact of_raw (j := (.ffma d a b)) rfl (fMaj_packV _ _ _ _ _) (by decide) rfl fun h => key _ _ (fMaj_packV _ _ _ _ _) (fD_packV _ _ _ _ _) (fA_packV _ _ _ _ _) (fF_packV _ _ _ _ _) (VB_packed _ _ _ _ b _ (by decide) (wf_tail h rfl))
theorem ffms (d : BitVec 7) (a : BitVec 7) (b : VB) : Encoding.Statement (.ffms d a b) := by
  have key : ∀ word lit : Word, fMaj word = 17#6 → fD word = d → fA word = a → fF word = 4#3 → VB.ofCode (fB word) lit = some b → decodeRaw word lit = .ok (.ffms d a b) := by
    intro word lit hfMaj hfD hfA hfF hb
    rw [raw_11 hfMaj]; unfold decMaj11; rw [hfF]
    simp only [decVB, hfD, hfA, hb, res0]; rfl
  exact of_raw (j := (.ffms d a b)) rfl (fMaj_packV _ _ _ _ _) (by decide) rfl fun h => key _ _ (fMaj_packV _ _ _ _ _) (fD_packV _ _ _ _ _) (fA_packV _ _ _ _ _) (fF_packV _ _ _ _ _) (VB_packed _ _ _ _ b _ (by decide) (wf_tail h rfl))
theorem fnma (d : BitVec 7) (a : BitVec 7) (b : VB) : Encoding.Statement (.fnma d a b) := by
  have key : ∀ word lit : Word, fMaj word = 17#6 → fD word = d → fA word = a → fF word = 5#3 → VB.ofCode (fB word) lit = some b → decodeRaw word lit = .ok (.fnma d a b) := by
    intro word lit hfMaj hfD hfA hfF hb
    rw [raw_11 hfMaj]; unfold decMaj11; rw [hfF]
    simp only [decVB, hfD, hfA, hb, res0]; rfl
  exact of_raw (j := (.fnma d a b)) rfl (fMaj_packV _ _ _ _ _) (by decide) rfl fun h => key _ _ (fMaj_packV _ _ _ _ _) (fD_packV _ _ _ _ _) (fA_packV _ _ _ _ _) (fF_packV _ _ _ _ _) (VB_packed _ _ _ _ b _ (by decide) (wf_tail h rfl))
theorem fmin (d : BitVec 7) (a : BitVec 7) (b : VB) : Encoding.Statement (.fmin d a b) := by
  have key : ∀ word lit : Word, fMaj word = 17#6 → fD word = d → fA word = a → fF word = 6#3 → VB.ofCode (fB word) lit = some b → decodeRaw word lit = .ok (.fmin d a b) := by
    intro word lit hfMaj hfD hfA hfF hb
    rw [raw_11 hfMaj]; unfold decMaj11; rw [hfF]
    simp only [decVB, hfD, hfA, hb, res0]; rfl
  exact of_raw (j := (.fmin d a b)) rfl (fMaj_packV _ _ _ _ _) (by decide) rfl fun h => key _ _ (fMaj_packV _ _ _ _ _) (fD_packV _ _ _ _ _) (fA_packV _ _ _ _ _) (fF_packV _ _ _ _ _) (VB_packed _ _ _ _ b _ (by decide) (wf_tail h rfl))
theorem fmax (d : BitVec 7) (a : BitVec 7) (b : VB) : Encoding.Statement (.fmax d a b) := by
  have key : ∀ word lit : Word, fMaj word = 17#6 → fD word = d → fA word = a → fF word = 7#3 → VB.ofCode (fB word) lit = some b → decodeRaw word lit = .ok (.fmax d a b) := by
    intro word lit hfMaj hfD hfA hfF hb
    rw [raw_11 hfMaj]; unfold decMaj11; rw [hfF]
    simp only [decVB, hfD, hfA, hb, res0]; rfl
  exact of_raw (j := (.fmax d a b)) rfl (fMaj_packV _ _ _ _ _) (by decide) rfl fun h => key _ _ (fMaj_packV _ _ _ _ _) (fD_packV _ _ _ _ _) (fA_packV _ _ _ _ _) (fF_packV _ _ _ _ _) (VB_packed _ _ _ _ b _ (by decide) (wf_tail h rfl))
theorem faddI (d : BitVec 7) (a : BitVec 7) (imm : BitVec 8) : Encoding.Statement (.faddI d a imm) := by
  have key : ∀ word lit : Word, fMaj word = 18#6 → fD word = d → fA word = a → fB word = imm → fF word = 0#3 → decodeRaw word lit = .ok (.faddI d a imm) := by
    intro word lit hfMaj hfD hfA hfB hfF
    rw [raw_12 hfMaj]; unfold decMaj12; rw [hfF]
    simp only [hfD, hfA, hfB, res0]; rfl
  exact of_raw (j := (.faddI d a imm)) rfl (fMaj_packV _ _ _ _ _) (by decide) rfl fun h => key _ _ (fMaj_packV _ _ _ _ _) (fD_packV _ _ _ _ _) (fA_packV _ _ _ _ _) (fB_packV _ _ _ _ _) (fF_packV _ _ _ _ _)
theorem fsubI (d : BitVec 7) (a : BitVec 7) (imm : BitVec 8) : Encoding.Statement (.fsubI d a imm) := by
  have key : ∀ word lit : Word, fMaj word = 18#6 → fD word = d → fA word = a → fB word = imm → fF word = 1#3 → decodeRaw word lit = .ok (.fsubI d a imm) := by
    intro word lit hfMaj hfD hfA hfB hfF
    rw [raw_12 hfMaj]; unfold decMaj12; rw [hfF]
    simp only [hfD, hfA, hfB, res0]; rfl
  exact of_raw (j := (.fsubI d a imm)) rfl (fMaj_packV _ _ _ _ _) (by decide) rfl fun h => key _ _ (fMaj_packV _ _ _ _ _) (fD_packV _ _ _ _ _) (fA_packV _ _ _ _ _) (fB_packV _ _ _ _ _) (fF_packV _ _ _ _ _)
theorem fmulI (d : BitVec 7) (a : BitVec 7) (imm : BitVec 8) : Encoding.Statement (.fmulI d a imm) := by
  have key : ∀ word lit : Word, fMaj word = 18#6 → fD word = d → fA word = a → fB word = imm → fF word = 2#3 → decodeRaw word lit = .ok (.fmulI d a imm) := by
    intro word lit hfMaj hfD hfA hfB hfF
    rw [raw_12 hfMaj]; unfold decMaj12; rw [hfF]
    simp only [hfD, hfA, hfB, res0]; rfl
  exact of_raw (j := (.fmulI d a imm)) rfl (fMaj_packV _ _ _ _ _) (by decide) rfl fun h => key _ _ (fMaj_packV _ _ _ _ _) (fD_packV _ _ _ _ _) (fA_packV _ _ _ _ _) (fB_packV _ _ _ _ _) (fF_packV _ _ _ _ _)
theorem ffmaI (d : BitVec 7) (a : BitVec 7) (imm : BitVec 8) : Encoding.Statement (.ffmaI d a imm) := by
  have key : ∀ word lit : Word, fMaj word = 18#6 → fD word = d → fA word = a → fB word = imm → fF word = 3#3 → decodeRaw word lit = .ok (.ffmaI d a imm) := by
    intro word lit hfMaj hfD hfA hfB hfF
    rw [raw_12 hfMaj]; unfold decMaj12; rw [hfF]
    simp only [hfD, hfA, hfB, res0]; rfl
  exact of_raw (j := (.ffmaI d a imm)) rfl (fMaj_packV _ _ _ _ _) (by decide) rfl fun h => key _ _ (fMaj_packV _ _ _ _ _) (fD_packV _ _ _ _ _) (fA_packV _ _ _ _ _) (fB_packV _ _ _ _ _) (fF_packV _ _ _ _ _)
theorem ffmsI (d : BitVec 7) (a : BitVec 7) (imm : BitVec 8) : Encoding.Statement (.ffmsI d a imm) := by
  have key : ∀ word lit : Word, fMaj word = 18#6 → fD word = d → fA word = a → fB word = imm → fF word = 4#3 → decodeRaw word lit = .ok (.ffmsI d a imm) := by
    intro word lit hfMaj hfD hfA hfB hfF
    rw [raw_12 hfMaj]; unfold decMaj12; rw [hfF]
    simp only [hfD, hfA, hfB, res0]; rfl
  exact of_raw (j := (.ffmsI d a imm)) rfl (fMaj_packV _ _ _ _ _) (by decide) rfl fun h => key _ _ (fMaj_packV _ _ _ _ _) (fD_packV _ _ _ _ _) (fA_packV _ _ _ _ _) (fB_packV _ _ _ _ _) (fF_packV _ _ _ _ _)
theorem fnmaI (d : BitVec 7) (a : BitVec 7) (imm : BitVec 8) : Encoding.Statement (.fnmaI d a imm) := by
  have key : ∀ word lit : Word, fMaj word = 18#6 → fD word = d → fA word = a → fB word = imm → fF word = 5#3 → decodeRaw word lit = .ok (.fnmaI d a imm) := by
    intro word lit hfMaj hfD hfA hfB hfF
    rw [raw_12 hfMaj]; unfold decMaj12; rw [hfF]
    simp only [hfD, hfA, hfB, res0]; rfl
  exact of_raw (j := (.fnmaI d a imm)) rfl (fMaj_packV _ _ _ _ _) (by decide) rfl fun h => key _ _ (fMaj_packV _ _ _ _ _) (fD_packV _ _ _ _ _) (fA_packV _ _ _ _ _) (fB_packV _ _ _ _ _) (fF_packV _ _ _ _ _)
theorem fminI (d : BitVec 7) (a : BitVec 7) (imm : BitVec 8) : Encoding.Statement (.fminI d a imm) := by
  have key : ∀ word lit : Word, fMaj word = 18#6 → fD word = d → fA word = a → fB word = imm → fF word = 6#3 → decodeRaw word lit = .ok (.fminI d a imm) := by
    intro word lit hfMaj hfD hfA hfB hfF
    rw [raw_12 hfMaj]; unfold decMaj12; rw [hfF]
    simp only [hfD, hfA, hfB, res0]; rfl
  exact of_raw (j := (.fminI d a imm)) rfl (fMaj_packV _ _ _ _ _) (by decide) rfl fun h => key _ _ (fMaj_packV _ _ _ _ _) (fD_packV _ _ _ _ _) (fA_packV _ _ _ _ _) (fB_packV _ _ _ _ _) (fF_packV _ _ _ _ _)
theorem fmaxI (d : BitVec 7) (a : BitVec 7) (imm : BitVec 8) : Encoding.Statement (.fmaxI d a imm) := by
  have key : ∀ word lit : Word, fMaj word = 18#6 → fD word = d → fA word = a → fB word = imm → fF word = 7#3 → decodeRaw word lit = .ok (.fmaxI d a imm) := by
    intro word lit hfMaj hfD hfA hfB hfF
    rw [raw_12 hfMaj]; unfold decMaj12; rw [hfF]
    simp only [hfD, hfA, hfB, res0]; rfl
  exact of_raw (j := (.fmaxI d a imm)) rfl (fMaj_packV _ _ _ _ _) (by decide) rfl fun h => key _ _ (fMaj_packV _ _ _ _ _) (fD_packV _ _ _ _ _) (fA_packV _ _ _ _ _) (fB_packV _ _ _ _ _) (fF_packV _ _ _ _ _)
theorem frcp (d : BitVec 7) (b : VB) : Encoding.Statement (.frcp d b) := by
  have key : ∀ word lit : Word, fMaj word = 19#6 → fD word = d → fA word = 0#7 → fF word = 0#3 → VB.ofCode (fB word) lit = some b → decodeRaw word lit = .ok (.frcp d b) := by
    intro word lit hfMaj hfD hfA hfF hb
    rw [raw_13 hfMaj]; unfold decMaj13; rw [hfF]
    simp only [decVB, hfD, hfA, hb, res0]; rfl
  exact of_raw (j := (.frcp d b)) rfl (fMaj_packV _ _ _ _ _) (by decide) rfl fun h => key _ _ (fMaj_packV _ _ _ _ _) (fD_packV _ _ _ _ _) (fA_packV _ _ _ _ _) (fF_packV _ _ _ _ _) (VB_packed _ _ _ _ b _ (by decide) (wf_tail h rfl))
theorem frsq (d : BitVec 7) (b : VB) : Encoding.Statement (.frsq d b) := by
  have key : ∀ word lit : Word, fMaj word = 19#6 → fD word = d → fA word = 0#7 → fF word = 1#3 → VB.ofCode (fB word) lit = some b → decodeRaw word lit = .ok (.frsq d b) := by
    intro word lit hfMaj hfD hfA hfF hb
    rw [raw_13 hfMaj]; unfold decMaj13; rw [hfF]
    simp only [decVB, hfD, hfA, hb, res0]; rfl
  exact of_raw (j := (.frsq d b)) rfl (fMaj_packV _ _ _ _ _) (by decide) rfl fun h => key _ _ (fMaj_packV _ _ _ _ _) (fD_packV _ _ _ _ _) (fA_packV _ _ _ _ _) (fF_packV _ _ _ _ _) (VB_packed _ _ _ _ b _ (by decide) (wf_tail h rfl))
theorem fsqrt (d : BitVec 7) (b : VB) : Encoding.Statement (.fsqrt d b) := by
  have key : ∀ word lit : Word, fMaj word = 19#6 → fD word = d → fA word = 0#7 → fF word = 2#3 → VB.ofCode (fB word) lit = some b → decodeRaw word lit = .ok (.fsqrt d b) := by
    intro word lit hfMaj hfD hfA hfF hb
    rw [raw_13 hfMaj]; unfold decMaj13; rw [hfF]
    simp only [decVB, hfD, hfA, hb, res0]; rfl
  exact of_raw (j := (.fsqrt d b)) rfl (fMaj_packV _ _ _ _ _) (by decide) rfl fun h => key _ _ (fMaj_packV _ _ _ _ _) (fD_packV _ _ _ _ _) (fA_packV _ _ _ _ _) (fF_packV _ _ _ _ _) (VB_packed _ _ _ _ b _ (by decide) (wf_tail h rfl))
theorem fex2 (d : BitVec 7) (b : VB) : Encoding.Statement (.fex2 d b) := by
  have key : ∀ word lit : Word, fMaj word = 19#6 → fD word = d → fA word = 0#7 → fF word = 3#3 → VB.ofCode (fB word) lit = some b → decodeRaw word lit = .ok (.fex2 d b) := by
    intro word lit hfMaj hfD hfA hfF hb
    rw [raw_13 hfMaj]; unfold decMaj13; rw [hfF]
    simp only [decVB, hfD, hfA, hb, res0]; rfl
  exact of_raw (j := (.fex2 d b)) rfl (fMaj_packV _ _ _ _ _) (by decide) rfl fun h => key _ _ (fMaj_packV _ _ _ _ _) (fD_packV _ _ _ _ _) (fA_packV _ _ _ _ _) (fF_packV _ _ _ _ _) (VB_packed _ _ _ _ b _ (by decide) (wf_tail h rfl))
theorem flg2 (d : BitVec 7) (b : VB) : Encoding.Statement (.flg2 d b) := by
  have key : ∀ word lit : Word, fMaj word = 19#6 → fD word = d → fA word = 0#7 → fF word = 4#3 → VB.ofCode (fB word) lit = some b → decodeRaw word lit = .ok (.flg2 d b) := by
    intro word lit hfMaj hfD hfA hfF hb
    rw [raw_13 hfMaj]; unfold decMaj13; rw [hfF]
    simp only [decVB, hfD, hfA, hb, res0]; rfl
  exact of_raw (j := (.flg2 d b)) rfl (fMaj_packV _ _ _ _ _) (by decide) rfl fun h => key _ _ (fMaj_packV _ _ _ _ _) (fD_packV _ _ _ _ _) (fA_packV _ _ _ _ _) (fF_packV _ _ _ _ _) (VB_packed _ _ _ _ b _ (by decide) (wf_tail h rfl))
theorem fsin (d : BitVec 7) (b : VB) : Encoding.Statement (.fsin d b) := by
  have key : ∀ word lit : Word, fMaj word = 19#6 → fD word = d → fA word = 0#7 → fF word = 5#3 → VB.ofCode (fB word) lit = some b → decodeRaw word lit = .ok (.fsin d b) := by
    intro word lit hfMaj hfD hfA hfF hb
    rw [raw_13 hfMaj]; unfold decMaj13; rw [hfF]
    simp only [decVB, hfD, hfA, hb, res0]; rfl
  exact of_raw (j := (.fsin d b)) rfl (fMaj_packV _ _ _ _ _) (by decide) rfl fun h => key _ _ (fMaj_packV _ _ _ _ _) (fD_packV _ _ _ _ _) (fA_packV _ _ _ _ _) (fF_packV _ _ _ _ _) (VB_packed _ _ _ _ b _ (by decide) (wf_tail h rfl))
theorem fcos (d : BitVec 7) (b : VB) : Encoding.Statement (.fcos d b) := by
  have key : ∀ word lit : Word, fMaj word = 19#6 → fD word = d → fA word = 0#7 → fF word = 6#3 → VB.ofCode (fB word) lit = some b → decodeRaw word lit = .ok (.fcos d b) := by
    intro word lit hfMaj hfD hfA hfF hb
    rw [raw_13 hfMaj]; unfold decMaj13; rw [hfF]
    simp only [decVB, hfD, hfA, hb, res0]; rfl
  exact of_raw (j := (.fcos d b)) rfl (fMaj_packV _ _ _ _ _) (by decide) rfl fun h => key _ _ (fMaj_packV _ _ _ _ _) (fD_packV _ _ _ _ _) (fA_packV _ _ _ _ _) (fF_packV _ _ _ _ _) (VB_packed _ _ _ _ b _ (by decide) (wf_tail h rfl))
theorem ftanh (d : BitVec 7) (b : VB) : Encoding.Statement (.ftanh d b) := by
  have key : ∀ word lit : Word, fMaj word = 19#6 → fD word = d → fA word = 0#7 → fF word = 7#3 → VB.ofCode (fB word) lit = some b → decodeRaw word lit = .ok (.ftanh d b) := by
    intro word lit hfMaj hfD hfA hfF hb
    rw [raw_13 hfMaj]; unfold decMaj13; rw [hfF]
    simp only [decVB, hfD, hfA, hb, res0]; rfl
  exact of_raw (j := (.ftanh d b)) rfl (fMaj_packV _ _ _ _ _) (by decide) rfl fun h => key _ _ (fMaj_packV _ _ _ _ _) (fD_packV _ _ _ _ _) (fA_packV _ _ _ _ _) (fF_packV _ _ _ _ _) (VB_packed _ _ _ _ b _ (by decide) (wf_tail h rfl))
theorem fcmp (cc : FCmp) (d : BitVec 7) (a : BitVec 7) (b : VB) : Encoding.Statement (.fcmp cc d a b) := by
  cases cc
  · have key : ∀ word lit : Word, fMaj word = 20#6 → fD word = d → fA word = a → fF word = 0#3 → VB.ofCode (fB word) lit = some b → decodeRaw word lit = .ok (.fcmp .eq d a b) := by
      intro word lit hfMaj hfD hfA hfF hb
      rw [raw_14 hfMaj]; unfold decMaj14; rw [hfF]
      simp only [decVB, hfD, hfA, hb, res0]; rfl
    exact of_raw (j := (.fcmp .eq d a b)) rfl (fMaj_packV _ _ _ _ _) (by decide) rfl fun h => key _ _ (fMaj_packV _ _ _ _ _) (fD_packV _ _ _ _ _) (fA_packV _ _ _ _ _) (fF_packV _ _ _ _ _) (VB_packed _ _ _ _ b _ (by decide) (wf_tail h rfl))
  · have key : ∀ word lit : Word, fMaj word = 20#6 → fD word = d → fA word = a → fF word = 1#3 → VB.ofCode (fB word) lit = some b → decodeRaw word lit = .ok (.fcmp .ne d a b) := by
      intro word lit hfMaj hfD hfA hfF hb
      rw [raw_14 hfMaj]; unfold decMaj14; rw [hfF]
      simp only [decVB, hfD, hfA, hb, res0]; rfl
    exact of_raw (j := (.fcmp .ne d a b)) rfl (fMaj_packV _ _ _ _ _) (by decide) rfl fun h => key _ _ (fMaj_packV _ _ _ _ _) (fD_packV _ _ _ _ _) (fA_packV _ _ _ _ _) (fF_packV _ _ _ _ _) (VB_packed _ _ _ _ b _ (by decide) (wf_tail h rfl))
  · have key : ∀ word lit : Word, fMaj word = 20#6 → fD word = d → fA word = a → fF word = 2#3 → VB.ofCode (fB word) lit = some b → decodeRaw word lit = .ok (.fcmp .lt d a b) := by
      intro word lit hfMaj hfD hfA hfF hb
      rw [raw_14 hfMaj]; unfold decMaj14; rw [hfF]
      simp only [decVB, hfD, hfA, hb, res0]; rfl
    exact of_raw (j := (.fcmp .lt d a b)) rfl (fMaj_packV _ _ _ _ _) (by decide) rfl fun h => key _ _ (fMaj_packV _ _ _ _ _) (fD_packV _ _ _ _ _) (fA_packV _ _ _ _ _) (fF_packV _ _ _ _ _) (VB_packed _ _ _ _ b _ (by decide) (wf_tail h rfl))
  · have key : ∀ word lit : Word, fMaj word = 20#6 → fD word = d → fA word = a → fF word = 3#3 → VB.ofCode (fB word) lit = some b → decodeRaw word lit = .ok (.fcmp .le d a b) := by
      intro word lit hfMaj hfD hfA hfF hb
      rw [raw_14 hfMaj]; unfold decMaj14; rw [hfF]
      simp only [decVB, hfD, hfA, hb, res0]; rfl
    exact of_raw (j := (.fcmp .le d a b)) rfl (fMaj_packV _ _ _ _ _) (by decide) rfl fun h => key _ _ (fMaj_packV _ _ _ _ _) (fD_packV _ _ _ _ _) (fA_packV _ _ _ _ _) (fF_packV _ _ _ _ _) (VB_packed _ _ _ _ b _ (by decide) (wf_tail h rfl))
  · have key : ∀ word lit : Word, fMaj word = 20#6 → fD word = d → fA word = a → fF word = 4#3 → VB.ofCode (fB word) lit = some b → decodeRaw word lit = .ok (.fcmp .gt d a b) := by
      intro word lit hfMaj hfD hfA hfF hb
      rw [raw_14 hfMaj]; unfold decMaj14; rw [hfF]
      simp only [decVB, hfD, hfA, hb, res0]; rfl
    exact of_raw (j := (.fcmp .gt d a b)) rfl (fMaj_packV _ _ _ _ _) (by decide) rfl fun h => key _ _ (fMaj_packV _ _ _ _ _) (fD_packV _ _ _ _ _) (fA_packV _ _ _ _ _) (fF_packV _ _ _ _ _) (VB_packed _ _ _ _ b _ (by decide) (wf_tail h rfl))
  · have key : ∀ word lit : Word, fMaj word = 20#6 → fD word = d → fA word = a → fF word = 5#3 → VB.ofCode (fB word) lit = some b → decodeRaw word lit = .ok (.fcmp .ge d a b) := by
      intro word lit hfMaj hfD hfA hfF hb
      rw [raw_14 hfMaj]; unfold decMaj14; rw [hfF]
      simp only [decVB, hfD, hfA, hb, res0]; rfl
    exact of_raw (j := (.fcmp .ge d a b)) rfl (fMaj_packV _ _ _ _ _) (by decide) rfl fun h => key _ _ (fMaj_packV _ _ _ _ _) (fD_packV _ _ _ _ _) (fA_packV _ _ _ _ _) (fF_packV _ _ _ _ _) (VB_packed _ _ _ _ b _ (by decide) (wf_tail h rfl))
  · have key : ∀ word lit : Word, fMaj word = 20#6 → fD word = d → fA word = a → fF word = 6#3 → VB.ofCode (fB word) lit = some b → decodeRaw word lit = .ok (.fcmp .un d a b) := by
      intro word lit hfMaj hfD hfA hfF hb
      rw [raw_14 hfMaj]; unfold decMaj14; rw [hfF]
      simp only [decVB, hfD, hfA, hb, res0]; rfl
    exact of_raw (j := (.fcmp .un d a b)) rfl (fMaj_packV _ _ _ _ _) (by decide) rfl fun h => key _ _ (fMaj_packV _ _ _ _ _) (fD_packV _ _ _ _ _) (fA_packV _ _ _ _ _) (fF_packV _ _ _ _ _) (VB_packed _ _ _ _ b _ (by decide) (wf_tail h rfl))
  · have key : ∀ word lit : Word, fMaj word = 20#6 → fD word = d → fA word = a → fF word = 7#3 → VB.ofCode (fB word) lit = some b → decodeRaw word lit = .ok (.fcmp .ord d a b) := by
      intro word lit hfMaj hfD hfA hfF hb
      rw [raw_14 hfMaj]; unfold decMaj14; rw [hfF]
      simp only [decVB, hfD, hfA, hb, res0]; rfl
    exact of_raw (j := (.fcmp .ord d a b)) rfl (fMaj_packV _ _ _ _ _) (by decide) rfl fun h => key _ _ (fMaj_packV _ _ _ _ _) (fD_packV _ _ _ _ _) (fA_packV _ _ _ _ _) (fF_packV _ _ _ _ _) (VB_packed _ _ _ _ b _ (by decide) (wf_tail h rfl))
theorem dadd (d : BitVec 7) (a : BitVec 7) (b : VB) : Encoding.Statement (.dadd d a b) := by
  have key : ∀ word lit : Word, fMaj word = 21#6 → fD word = d → fA word = a → fF word = 0#3 → VB.ofCode (fB word) lit = some b → decodeRaw word lit = .ok (.dadd d a b) := by
    intro word lit hfMaj hfD hfA hfF hb
    rw [raw_15 hfMaj]; unfold decMaj15; rw [hfF]
    simp only [decVB, hfD, hfA, hb, res0]; rfl
  exact of_raw (j := (.dadd d a b)) rfl (fMaj_packV _ _ _ _ _) (by decide) rfl fun h => key _ _ (fMaj_packV _ _ _ _ _) (fD_packV _ _ _ _ _) (fA_packV _ _ _ _ _) (fF_packV _ _ _ _ _) (VB_packed _ _ _ _ b _ (by decide) (wf_tail h rfl))
theorem dsub (d : BitVec 7) (a : BitVec 7) (b : VB) : Encoding.Statement (.dsub d a b) := by
  have key : ∀ word lit : Word, fMaj word = 21#6 → fD word = d → fA word = a → fF word = 1#3 → VB.ofCode (fB word) lit = some b → decodeRaw word lit = .ok (.dsub d a b) := by
    intro word lit hfMaj hfD hfA hfF hb
    rw [raw_15 hfMaj]; unfold decMaj15; rw [hfF]
    simp only [decVB, hfD, hfA, hb, res0]; rfl
  exact of_raw (j := (.dsub d a b)) rfl (fMaj_packV _ _ _ _ _) (by decide) rfl fun h => key _ _ (fMaj_packV _ _ _ _ _) (fD_packV _ _ _ _ _) (fA_packV _ _ _ _ _) (fF_packV _ _ _ _ _) (VB_packed _ _ _ _ b _ (by decide) (wf_tail h rfl))
theorem dmul (d : BitVec 7) (a : BitVec 7) (b : VB) : Encoding.Statement (.dmul d a b) := by
  have key : ∀ word lit : Word, fMaj word = 21#6 → fD word = d → fA word = a → fF word = 2#3 → VB.ofCode (fB word) lit = some b → decodeRaw word lit = .ok (.dmul d a b) := by
    intro word lit hfMaj hfD hfA hfF hb
    rw [raw_15 hfMaj]; unfold decMaj15; rw [hfF]
    simp only [decVB, hfD, hfA, hb, res0]; rfl
  exact of_raw (j := (.dmul d a b)) rfl (fMaj_packV _ _ _ _ _) (by decide) rfl fun h => key _ _ (fMaj_packV _ _ _ _ _) (fD_packV _ _ _ _ _) (fA_packV _ _ _ _ _) (fF_packV _ _ _ _ _) (VB_packed _ _ _ _ b _ (by decide) (wf_tail h rfl))
theorem dfma (d : BitVec 7) (a : BitVec 7) (b : VB) : Encoding.Statement (.dfma d a b) := by
  have key : ∀ word lit : Word, fMaj word = 21#6 → fD word = d → fA word = a → fF word = 3#3 → VB.ofCode (fB word) lit = some b → decodeRaw word lit = .ok (.dfma d a b) := by
    intro word lit hfMaj hfD hfA hfF hb
    rw [raw_15 hfMaj]; unfold decMaj15; rw [hfF]
    simp only [decVB, hfD, hfA, hb, res0]; rfl
  exact of_raw (j := (.dfma d a b)) rfl (fMaj_packV _ _ _ _ _) (by decide) rfl fun h => key _ _ (fMaj_packV _ _ _ _ _) (fD_packV _ _ _ _ _) (fA_packV _ _ _ _ _) (fF_packV _ _ _ _ _) (VB_packed _ _ _ _ b _ (by decide) (wf_tail h rfl))
theorem dfms (d : BitVec 7) (a : BitVec 7) (b : VB) : Encoding.Statement (.dfms d a b) := by
  have key : ∀ word lit : Word, fMaj word = 21#6 → fD word = d → fA word = a → fF word = 4#3 → VB.ofCode (fB word) lit = some b → decodeRaw word lit = .ok (.dfms d a b) := by
    intro word lit hfMaj hfD hfA hfF hb
    rw [raw_15 hfMaj]; unfold decMaj15; rw [hfF]
    simp only [decVB, hfD, hfA, hb, res0]; rfl
  exact of_raw (j := (.dfms d a b)) rfl (fMaj_packV _ _ _ _ _) (by decide) rfl fun h => key _ _ (fMaj_packV _ _ _ _ _) (fD_packV _ _ _ _ _) (fA_packV _ _ _ _ _) (fF_packV _ _ _ _ _) (VB_packed _ _ _ _ b _ (by decide) (wf_tail h rfl))
theorem dnma (d : BitVec 7) (a : BitVec 7) (b : VB) : Encoding.Statement (.dnma d a b) := by
  have key : ∀ word lit : Word, fMaj word = 21#6 → fD word = d → fA word = a → fF word = 5#3 → VB.ofCode (fB word) lit = some b → decodeRaw word lit = .ok (.dnma d a b) := by
    intro word lit hfMaj hfD hfA hfF hb
    rw [raw_15 hfMaj]; unfold decMaj15; rw [hfF]
    simp only [decVB, hfD, hfA, hb, res0]; rfl
  exact of_raw (j := (.dnma d a b)) rfl (fMaj_packV _ _ _ _ _) (by decide) rfl fun h => key _ _ (fMaj_packV _ _ _ _ _) (fD_packV _ _ _ _ _) (fA_packV _ _ _ _ _) (fF_packV _ _ _ _ _) (VB_packed _ _ _ _ b _ (by decide) (wf_tail h rfl))
theorem dmin (d : BitVec 7) (a : BitVec 7) (b : VB) : Encoding.Statement (.dmin d a b) := by
  have key : ∀ word lit : Word, fMaj word = 21#6 → fD word = d → fA word = a → fF word = 6#3 → VB.ofCode (fB word) lit = some b → decodeRaw word lit = .ok (.dmin d a b) := by
    intro word lit hfMaj hfD hfA hfF hb
    rw [raw_15 hfMaj]; unfold decMaj15; rw [hfF]
    simp only [decVB, hfD, hfA, hb, res0]; rfl
  exact of_raw (j := (.dmin d a b)) rfl (fMaj_packV _ _ _ _ _) (by decide) rfl fun h => key _ _ (fMaj_packV _ _ _ _ _) (fD_packV _ _ _ _ _) (fA_packV _ _ _ _ _) (fF_packV _ _ _ _ _) (VB_packed _ _ _ _ b _ (by decide) (wf_tail h rfl))
theorem dmax (d : BitVec 7) (a : BitVec 7) (b : VB) : Encoding.Statement (.dmax d a b) := by
  have key : ∀ word lit : Word, fMaj word = 21#6 → fD word = d → fA word = a → fF word = 7#3 → VB.ofCode (fB word) lit = some b → decodeRaw word lit = .ok (.dmax d a b) := by
    intro word lit hfMaj hfD hfA hfF hb
    rw [raw_15 hfMaj]; unfold decMaj15; rw [hfF]
    simp only [decVB, hfD, hfA, hb, res0]; rfl
  exact of_raw (j := (.dmax d a b)) rfl (fMaj_packV _ _ _ _ _) (by decide) rfl fun h => key _ _ (fMaj_packV _ _ _ _ _) (fD_packV _ _ _ _ _) (fA_packV _ _ _ _ _) (fF_packV _ _ _ _ _) (VB_packed _ _ _ _ b _ (by decide) (wf_tail h rfl))
theorem ddiv (d : BitVec 7) (a : BitVec 7) (b : VB) : Encoding.Statement (.ddiv d a b) := by
  have key : ∀ word lit : Word, fMaj word = 22#6 → fD word = d → fA word = a → fF word = 0#3 → VB.ofCode (fB word) lit = some b → decodeRaw word lit = .ok (.ddiv d a b) := by
    intro word lit hfMaj hfD hfA hfF hb
    rw [raw_16 hfMaj]; unfold decMaj16; rw [hfF]
    simp only [decVB, hfD, hfA, hb, res0]; rfl
  exact of_raw (j := (.ddiv d a b)) rfl (fMaj_packV _ _ _ _ _) (by decide) rfl fun h => key _ _ (fMaj_packV _ _ _ _ _) (fD_packV _ _ _ _ _) (fA_packV _ _ _ _ _) (fF_packV _ _ _ _ _) (VB_packed _ _ _ _ b _ (by decide) (wf_tail h rfl))
theorem dsqrt (d : BitVec 7) (b : VB) : Encoding.Statement (.dsqrt d b) := by
  have key : ∀ word lit : Word, fMaj word = 22#6 → fD word = d → fA word = 0#7 → fF word = 1#3 → VB.ofCode (fB word) lit = some b → decodeRaw word lit = .ok (.dsqrt d b) := by
    intro word lit hfMaj hfD hfA hfF hb
    rw [raw_16 hfMaj]; unfold decMaj16; rw [hfF]
    simp only [decVB, hfD, hfA, hb, res0]; rfl
  exact of_raw (j := (.dsqrt d b)) rfl (fMaj_packV _ _ _ _ _) (by decide) rfl fun h => key _ _ (fMaj_packV _ _ _ _ _) (fD_packV _ _ _ _ _) (fA_packV _ _ _ _ _) (fF_packV _ _ _ _ _) (VB_packed _ _ _ _ b _ (by decide) (wf_tail h rfl))
theorem drcp (d : BitVec 7) (b : VB) : Encoding.Statement (.drcp d b) := by
  have key : ∀ word lit : Word, fMaj word = 22#6 → fD word = d → fA word = 0#7 → fF word = 2#3 → VB.ofCode (fB word) lit = some b → decodeRaw word lit = .ok (.drcp d b) := by
    intro word lit hfMaj hfD hfA hfF hb
    rw [raw_16 hfMaj]; unfold decMaj16; rw [hfF]
    simp only [decVB, hfD, hfA, hb, res0]; rfl
  exact of_raw (j := (.drcp d b)) rfl (fMaj_packV _ _ _ _ _) (by decide) rfl fun h => key _ _ (fMaj_packV _ _ _ _ _) (fD_packV _ _ _ _ _) (fA_packV _ _ _ _ _) (fF_packV _ _ _ _ _) (VB_packed _ _ _ _ b _ (by decide) (wf_tail h rfl))
theorem drsq (d : BitVec 7) (b : VB) : Encoding.Statement (.drsq d b) := by
  have key : ∀ word lit : Word, fMaj word = 22#6 → fD word = d → fA word = 0#7 → fF word = 3#3 → VB.ofCode (fB word) lit = some b → decodeRaw word lit = .ok (.drsq d b) := by
    intro word lit hfMaj hfD hfA hfF hb
    rw [raw_16 hfMaj]; unfold decMaj16; rw [hfF]
    simp only [decVB, hfD, hfA, hb, res0]; rfl
  exact of_raw (j := (.drsq d b)) rfl (fMaj_packV _ _ _ _ _) (by decide) rfl fun h => key _ _ (fMaj_packV _ _ _ _ _) (fD_packV _ _ _ _ _) (fA_packV _ _ _ _ _) (fF_packV _ _ _ _ _) (VB_packed _ _ _ _ b _ (by decide) (wf_tail h rfl))
theorem dfloor (d : BitVec 7) (b : VB) : Encoding.Statement (.dfloor d b) := by
  have key : ∀ word lit : Word, fMaj word = 22#6 → fD word = d → fA word = 0#7 → fF word = 4#3 → VB.ofCode (fB word) lit = some b → decodeRaw word lit = .ok (.dfloor d b) := by
    intro word lit hfMaj hfD hfA hfF hb
    rw [raw_16 hfMaj]; unfold decMaj16; rw [hfF]
    simp only [decVB, hfD, hfA, hb, res0]; rfl
  exact of_raw (j := (.dfloor d b)) rfl (fMaj_packV _ _ _ _ _) (by decide) rfl fun h => key _ _ (fMaj_packV _ _ _ _ _) (fD_packV _ _ _ _ _) (fA_packV _ _ _ _ _) (fF_packV _ _ _ _ _) (VB_packed _ _ _ _ b _ (by decide) (wf_tail h rfl))
theorem dceil (d : BitVec 7) (b : VB) : Encoding.Statement (.dceil d b) := by
  have key : ∀ word lit : Word, fMaj word = 22#6 → fD word = d → fA word = 0#7 → fF word = 5#3 → VB.ofCode (fB word) lit = some b → decodeRaw word lit = .ok (.dceil d b) := by
    intro word lit hfMaj hfD hfA hfF hb
    rw [raw_16 hfMaj]; unfold decMaj16; rw [hfF]
    simp only [decVB, hfD, hfA, hb, res0]; rfl
  exact of_raw (j := (.dceil d b)) rfl (fMaj_packV _ _ _ _ _) (by decide) rfl fun h => key _ _ (fMaj_packV _ _ _ _ _) (fD_packV _ _ _ _ _) (fA_packV _ _ _ _ _) (fF_packV _ _ _ _ _) (VB_packed _ _ _ _ b _ (by decide) (wf_tail h rfl))
theorem drne (d : BitVec 7) (b : VB) : Encoding.Statement (.drne d b) := by
  have key : ∀ word lit : Word, fMaj word = 22#6 → fD word = d → fA word = 0#7 → fF word = 6#3 → VB.ofCode (fB word) lit = some b → decodeRaw word lit = .ok (.drne d b) := by
    intro word lit hfMaj hfD hfA hfF hb
    rw [raw_16 hfMaj]; unfold decMaj16; rw [hfF]
    simp only [decVB, hfD, hfA, hb, res0]; rfl
  exact of_raw (j := (.drne d b)) rfl (fMaj_packV _ _ _ _ _) (by decide) rfl fun h => key _ _ (fMaj_packV _ _ _ _ _) (fD_packV _ _ _ _ _) (fA_packV _ _ _ _ _) (fF_packV _ _ _ _ _) (VB_packed _ _ _ _ b _ (by decide) (wf_tail h rfl))
theorem dtrunc (d : BitVec 7) (b : VB) : Encoding.Statement (.dtrunc d b) := by
  have key : ∀ word lit : Word, fMaj word = 22#6 → fD word = d → fA word = 0#7 → fF word = 7#3 → VB.ofCode (fB word) lit = some b → decodeRaw word lit = .ok (.dtrunc d b) := by
    intro word lit hfMaj hfD hfA hfF hb
    rw [raw_16 hfMaj]; unfold decMaj16; rw [hfF]
    simp only [decVB, hfD, hfA, hb, res0]; rfl
  exact of_raw (j := (.dtrunc d b)) rfl (fMaj_packV _ _ _ _ _) (by decide) rfl fun h => key _ _ (fMaj_packV _ _ _ _ _) (fD_packV _ _ _ _ _) (fA_packV _ _ _ _ _) (fF_packV _ _ _ _ _) (VB_packed _ _ _ _ b _ (by decide) (wf_tail h rfl))
theorem dcmp (cc : FCmp) (d : BitVec 7) (a : BitVec 7) (b : VB) : Encoding.Statement (.dcmp cc d a b) := by
  cases cc
  · have key : ∀ word lit : Word, fMaj word = 23#6 → fD word = d → fA word = a → fF word = 0#3 → VB.ofCode (fB word) lit = some b → decodeRaw word lit = .ok (.dcmp .eq d a b) := by
      intro word lit hfMaj hfD hfA hfF hb
      rw [raw_17 hfMaj]; unfold decMaj17; rw [hfF]
      simp only [decVB, hfD, hfA, hb, res0]; rfl
    exact of_raw (j := (.dcmp .eq d a b)) rfl (fMaj_packV _ _ _ _ _) (by decide) rfl fun h => key _ _ (fMaj_packV _ _ _ _ _) (fD_packV _ _ _ _ _) (fA_packV _ _ _ _ _) (fF_packV _ _ _ _ _) (VB_packed _ _ _ _ b _ (by decide) (wf_tail h rfl))
  · have key : ∀ word lit : Word, fMaj word = 23#6 → fD word = d → fA word = a → fF word = 1#3 → VB.ofCode (fB word) lit = some b → decodeRaw word lit = .ok (.dcmp .ne d a b) := by
      intro word lit hfMaj hfD hfA hfF hb
      rw [raw_17 hfMaj]; unfold decMaj17; rw [hfF]
      simp only [decVB, hfD, hfA, hb, res0]; rfl
    exact of_raw (j := (.dcmp .ne d a b)) rfl (fMaj_packV _ _ _ _ _) (by decide) rfl fun h => key _ _ (fMaj_packV _ _ _ _ _) (fD_packV _ _ _ _ _) (fA_packV _ _ _ _ _) (fF_packV _ _ _ _ _) (VB_packed _ _ _ _ b _ (by decide) (wf_tail h rfl))
  · have key : ∀ word lit : Word, fMaj word = 23#6 → fD word = d → fA word = a → fF word = 2#3 → VB.ofCode (fB word) lit = some b → decodeRaw word lit = .ok (.dcmp .lt d a b) := by
      intro word lit hfMaj hfD hfA hfF hb
      rw [raw_17 hfMaj]; unfold decMaj17; rw [hfF]
      simp only [decVB, hfD, hfA, hb, res0]; rfl
    exact of_raw (j := (.dcmp .lt d a b)) rfl (fMaj_packV _ _ _ _ _) (by decide) rfl fun h => key _ _ (fMaj_packV _ _ _ _ _) (fD_packV _ _ _ _ _) (fA_packV _ _ _ _ _) (fF_packV _ _ _ _ _) (VB_packed _ _ _ _ b _ (by decide) (wf_tail h rfl))
  · have key : ∀ word lit : Word, fMaj word = 23#6 → fD word = d → fA word = a → fF word = 3#3 → VB.ofCode (fB word) lit = some b → decodeRaw word lit = .ok (.dcmp .le d a b) := by
      intro word lit hfMaj hfD hfA hfF hb
      rw [raw_17 hfMaj]; unfold decMaj17; rw [hfF]
      simp only [decVB, hfD, hfA, hb, res0]; rfl
    exact of_raw (j := (.dcmp .le d a b)) rfl (fMaj_packV _ _ _ _ _) (by decide) rfl fun h => key _ _ (fMaj_packV _ _ _ _ _) (fD_packV _ _ _ _ _) (fA_packV _ _ _ _ _) (fF_packV _ _ _ _ _) (VB_packed _ _ _ _ b _ (by decide) (wf_tail h rfl))
  · have key : ∀ word lit : Word, fMaj word = 23#6 → fD word = d → fA word = a → fF word = 4#3 → VB.ofCode (fB word) lit = some b → decodeRaw word lit = .ok (.dcmp .gt d a b) := by
      intro word lit hfMaj hfD hfA hfF hb
      rw [raw_17 hfMaj]; unfold decMaj17; rw [hfF]
      simp only [decVB, hfD, hfA, hb, res0]; rfl
    exact of_raw (j := (.dcmp .gt d a b)) rfl (fMaj_packV _ _ _ _ _) (by decide) rfl fun h => key _ _ (fMaj_packV _ _ _ _ _) (fD_packV _ _ _ _ _) (fA_packV _ _ _ _ _) (fF_packV _ _ _ _ _) (VB_packed _ _ _ _ b _ (by decide) (wf_tail h rfl))
  · have key : ∀ word lit : Word, fMaj word = 23#6 → fD word = d → fA word = a → fF word = 5#3 → VB.ofCode (fB word) lit = some b → decodeRaw word lit = .ok (.dcmp .ge d a b) := by
      intro word lit hfMaj hfD hfA hfF hb
      rw [raw_17 hfMaj]; unfold decMaj17; rw [hfF]
      simp only [decVB, hfD, hfA, hb, res0]; rfl
    exact of_raw (j := (.dcmp .ge d a b)) rfl (fMaj_packV _ _ _ _ _) (by decide) rfl fun h => key _ _ (fMaj_packV _ _ _ _ _) (fD_packV _ _ _ _ _) (fA_packV _ _ _ _ _) (fF_packV _ _ _ _ _) (VB_packed _ _ _ _ b _ (by decide) (wf_tail h rfl))
  · have key : ∀ word lit : Word, fMaj word = 23#6 → fD word = d → fA word = a → fF word = 6#3 → VB.ofCode (fB word) lit = some b → decodeRaw word lit = .ok (.dcmp .un d a b) := by
      intro word lit hfMaj hfD hfA hfF hb
      rw [raw_17 hfMaj]; unfold decMaj17; rw [hfF]
      simp only [decVB, hfD, hfA, hb, res0]; rfl
    exact of_raw (j := (.dcmp .un d a b)) rfl (fMaj_packV _ _ _ _ _) (by decide) rfl fun h => key _ _ (fMaj_packV _ _ _ _ _) (fD_packV _ _ _ _ _) (fA_packV _ _ _ _ _) (fF_packV _ _ _ _ _) (VB_packed _ _ _ _ b _ (by decide) (wf_tail h rfl))
  · have key : ∀ word lit : Word, fMaj word = 23#6 → fD word = d → fA word = a → fF word = 7#3 → VB.ofCode (fB word) lit = some b → decodeRaw word lit = .ok (.dcmp .ord d a b) := by
      intro word lit hfMaj hfD hfA hfF hb
      rw [raw_17 hfMaj]; unfold decMaj17; rw [hfF]
      simp only [decVB, hfD, hfA, hb, res0]; rfl
    exact of_raw (j := (.dcmp .ord d a b)) rfl (fMaj_packV _ _ _ _ _) (by decide) rfl fun h => key _ _ (fMaj_packV _ _ _ _ _) (fD_packV _ _ _ _ _) (fA_packV _ _ _ _ _) (fF_packV _ _ _ _ _) (VB_packed _ _ _ _ b _ (by decide) (wf_tail h rfl))
theorem hadd2 (d : BitVec 7) (a : BitVec 7) (b : VB) : Encoding.Statement (.hadd2 d a b) := by
  have key : ∀ word lit : Word, fMaj word = 24#6 → fD word = d → fA word = a → fF word = 0#3 → VB.ofCode (fB word) lit = some b → decodeRaw word lit = .ok (.hadd2 d a b) := by
    intro word lit hfMaj hfD hfA hfF hb
    rw [raw_18 hfMaj]; unfold decMaj18; rw [hfF]
    simp only [decVB, hfD, hfA, hb, res0]; rfl
  exact of_raw (j := (.hadd2 d a b)) rfl (fMaj_packV _ _ _ _ _) (by decide) rfl fun h => key _ _ (fMaj_packV _ _ _ _ _) (fD_packV _ _ _ _ _) (fA_packV _ _ _ _ _) (fF_packV _ _ _ _ _) (VB_packed _ _ _ _ b _ (by decide) (wf_tail h rfl))
theorem hmul2 (d : BitVec 7) (a : BitVec 7) (b : VB) : Encoding.Statement (.hmul2 d a b) := by
  have key : ∀ word lit : Word, fMaj word = 24#6 → fD word = d → fA word = a → fF word = 1#3 → VB.ofCode (fB word) lit = some b → decodeRaw word lit = .ok (.hmul2 d a b) := by
    intro word lit hfMaj hfD hfA hfF hb
    rw [raw_18 hfMaj]; unfold decMaj18; rw [hfF]
    simp only [decVB, hfD, hfA, hb, res0]; rfl
  exact of_raw (j := (.hmul2 d a b)) rfl (fMaj_packV _ _ _ _ _) (by decide) rfl fun h => key _ _ (fMaj_packV _ _ _ _ _) (fD_packV _ _ _ _ _) (fA_packV _ _ _ _ _) (fF_packV _ _ _ _ _) (VB_packed _ _ _ _ b _ (by decide) (wf_tail h rfl))
theorem hfma2 (d : BitVec 7) (a : BitVec 7) (b : VB) : Encoding.Statement (.hfma2 d a b) := by
  have key : ∀ word lit : Word, fMaj word = 24#6 → fD word = d → fA word = a → fF word = 2#3 → VB.ofCode (fB word) lit = some b → decodeRaw word lit = .ok (.hfma2 d a b) := by
    intro word lit hfMaj hfD hfA hfF hb
    rw [raw_18 hfMaj]; unfold decMaj18; rw [hfF]
    simp only [decVB, hfD, hfA, hb, res0]; rfl
  exact of_raw (j := (.hfma2 d a b)) rfl (fMaj_packV _ _ _ _ _) (by decide) rfl fun h => key _ _ (fMaj_packV _ _ _ _ _) (fD_packV _ _ _ _ _) (fA_packV _ _ _ _ _) (fF_packV _ _ _ _ _) (VB_packed _ _ _ _ b _ (by decide) (wf_tail h rfl))
theorem hmax2 (d : BitVec 7) (a : BitVec 7) (b : VB) : Encoding.Statement (.hmax2 d a b) := by
  have key : ∀ word lit : Word, fMaj word = 24#6 → fD word = d → fA word = a → fF word = 3#3 → VB.ofCode (fB word) lit = some b → decodeRaw word lit = .ok (.hmax2 d a b) := by
    intro word lit hfMaj hfD hfA hfF hb
    rw [raw_18 hfMaj]; unfold decMaj18; rw [hfF]
    simp only [decVB, hfD, hfA, hb, res0]; rfl
  exact of_raw (j := (.hmax2 d a b)) rfl (fMaj_packV _ _ _ _ _) (by decide) rfl fun h => key _ _ (fMaj_packV _ _ _ _ _) (fD_packV _ _ _ _ _) (fA_packV _ _ _ _ _) (fF_packV _ _ _ _ _) (VB_packed _ _ _ _ b _ (by decide) (wf_tail h rfl))
theorem badd2 (d : BitVec 7) (a : BitVec 7) (b : VB) : Encoding.Statement (.badd2 d a b) := by
  have key : ∀ word lit : Word, fMaj word = 24#6 → fD word = d → fA word = a → fF word = 4#3 → VB.ofCode (fB word) lit = some b → decodeRaw word lit = .ok (.badd2 d a b) := by
    intro word lit hfMaj hfD hfA hfF hb
    rw [raw_18 hfMaj]; unfold decMaj18; rw [hfF]
    simp only [decVB, hfD, hfA, hb, res0]; rfl
  exact of_raw (j := (.badd2 d a b)) rfl (fMaj_packV _ _ _ _ _) (by decide) rfl fun h => key _ _ (fMaj_packV _ _ _ _ _) (fD_packV _ _ _ _ _) (fA_packV _ _ _ _ _) (fF_packV _ _ _ _ _) (VB_packed _ _ _ _ b _ (by decide) (wf_tail h rfl))
theorem bmul2 (d : BitVec 7) (a : BitVec 7) (b : VB) : Encoding.Statement (.bmul2 d a b) := by
  have key : ∀ word lit : Word, fMaj word = 24#6 → fD word = d → fA word = a → fF word = 5#3 → VB.ofCode (fB word) lit = some b → decodeRaw word lit = .ok (.bmul2 d a b) := by
    intro word lit hfMaj hfD hfA hfF hb
    rw [raw_18 hfMaj]; unfold decMaj18; rw [hfF]
    simp only [decVB, hfD, hfA, hb, res0]; rfl
  exact of_raw (j := (.bmul2 d a b)) rfl (fMaj_packV _ _ _ _ _) (by decide) rfl fun h => key _ _ (fMaj_packV _ _ _ _ _) (fD_packV _ _ _ _ _) (fA_packV _ _ _ _ _) (fF_packV _ _ _ _ _) (VB_packed _ _ _ _ b _ (by decide) (wf_tail h rfl))
theorem bfma2 (d : BitVec 7) (a : BitVec 7) (b : VB) : Encoding.Statement (.bfma2 d a b) := by
  have key : ∀ word lit : Word, fMaj word = 24#6 → fD word = d → fA word = a → fF word = 6#3 → VB.ofCode (fB word) lit = some b → decodeRaw word lit = .ok (.bfma2 d a b) := by
    intro word lit hfMaj hfD hfA hfF hb
    rw [raw_18 hfMaj]; unfold decMaj18; rw [hfF]
    simp only [decVB, hfD, hfA, hb, res0]; rfl
  exact of_raw (j := (.bfma2 d a b)) rfl (fMaj_packV _ _ _ _ _) (by decide) rfl fun h => key _ _ (fMaj_packV _ _ _ _ _) (fD_packV _ _ _ _ _) (fA_packV _ _ _ _ _) (fF_packV _ _ _ _ _) (VB_packed _ _ _ _ b _ (by decide) (wf_tail h rfl))
theorem bmax2 (d : BitVec 7) (a : BitVec 7) (b : VB) : Encoding.Statement (.bmax2 d a b) := by
  have key : ∀ word lit : Word, fMaj word = 24#6 → fD word = d → fA word = a → fF word = 7#3 → VB.ofCode (fB word) lit = some b → decodeRaw word lit = .ok (.bmax2 d a b) := by
    intro word lit hfMaj hfD hfA hfF hb
    rw [raw_18 hfMaj]; unfold decMaj18; rw [hfF]
    simp only [decVB, hfD, hfA, hb, res0]; rfl
  exact of_raw (j := (.bmax2 d a b)) rfl (fMaj_packV _ _ _ _ _) (by decide) rfl fun h => key _ _ (fMaj_packV _ _ _ _ _) (fD_packV _ _ _ _ _) (fA_packV _ _ _ _ _) (fF_packV _ _ _ _ _) (VB_packed _ _ _ _ b _ (by decide) (wf_tail h rfl))
theorem cvtF32I32 (d : BitVec 7) (a : BitVec 7) (rm : BitVec 3) (u : Bool) : Encoding.Statement (.cvtF32I32 d a rm u) := by
  have key : ∀ word lit : Word, fMaj word = 25#6 → fD word = d → fA word = a → fB word = (BitVec.ofNat 8 (rm.toNat * 32 + u.toNat * 16)) → fF word = 0#3 → decodeRaw word lit = .ok (.cvtF32I32 d a rm u) := by
    intro word lit hfMaj hfD hfA hfB hfF
    rw [raw_19 hfMaj]; unfold decMaj19; rw [hfF]
    have s1 : subB word 5 3 = rm := by
      rw [subB, hfB]; apply BitVec.eq_of_toNat_eq; simp only [BitVec.toNat_ofNat]; have := d.isLt; have := a.isLt; have := rm.isLt; have := Bool.toNat_le u; omega
    have s2 : subB word 4 1 = BitVec.ofNat 1 u.toNat := by
      rw [subB, hfB]; apply BitVec.eq_of_toNat_eq; simp only [BitVec.toNat_ofNat]; have := d.isLt; have := a.isLt; have := rm.isLt; have := Bool.toNat_le u; omega
    have t2 : (subB word 4 1 == 1) = u := by rw [s2]; cases u <;> rfl
    have s3 : subB word 0 4 = 0#4 := by
      rw [subB, hfB]; apply BitVec.eq_of_toNat_eq; simp only [BitVec.toNat_ofNat]; have := d.isLt; have := a.isLt; have := rm.isLt; have := Bool.toNat_le u; omega
    simp only [hfD, hfA, s1, t2, s3, res0]; rfl
  exact of_raw (j := (.cvtF32I32 d a rm u)) rfl (fMaj_packV _ _ _ _ _) (by decide) rfl fun h => key _ _ (fMaj_packV _ _ _ _ _) (fD_packV _ _ _ _ _) (fA_packV _ _ _ _ _) (fB_packV _ _ _ _ _) (fF_packV _ _ _ _ _)
theorem cvtI32F32 (d : BitVec 7) (a : BitVec 7) (rm : BitVec 3) (u : Bool) : Encoding.Statement (.cvtI32F32 d a rm u) := by
  have key : ∀ word lit : Word, fMaj word = 25#6 → fD word = d → fA word = a → fB word = (BitVec.ofNat 8 (rm.toNat * 32 + u.toNat * 16)) → fF word = 1#3 → decodeRaw word lit = .ok (.cvtI32F32 d a rm u) := by
    intro word lit hfMaj hfD hfA hfB hfF
    rw [raw_19 hfMaj]; unfold decMaj19; rw [hfF]
    have s1 : subB word 5 3 = rm := by
      rw [subB, hfB]; apply BitVec.eq_of_toNat_eq; simp only [BitVec.toNat_ofNat]; have := d.isLt; have := a.isLt; have := rm.isLt; have := Bool.toNat_le u; omega
    have s2 : subB word 4 1 = BitVec.ofNat 1 u.toNat := by
      rw [subB, hfB]; apply BitVec.eq_of_toNat_eq; simp only [BitVec.toNat_ofNat]; have := d.isLt; have := a.isLt; have := rm.isLt; have := Bool.toNat_le u; omega
    have t2 : (subB word 4 1 == 1) = u := by rw [s2]; cases u <;> rfl
    have s3 : subB word 0 4 = 0#4 := by
      rw [subB, hfB]; apply BitVec.eq_of_toNat_eq; simp only [BitVec.toNat_ofNat]; have := d.isLt; have := a.isLt; have := rm.isLt; have := Bool.toNat_le u; omega
    simp only [hfD, hfA, s1, t2, s3, res0]; rfl
  exact of_raw (j := (.cvtI32F32 d a rm u)) rfl (fMaj_packV _ _ _ _ _) (by decide) rfl fun h => key _ _ (fMaj_packV _ _ _ _ _) (fD_packV _ _ _ _ _) (fA_packV _ _ _ _ _) (fB_packV _ _ _ _ _) (fF_packV _ _ _ _ _)
theorem cvtF64F32 (d : BitVec 7) (a : BitVec 7) : Encoding.Statement (.cvtF64F32 d a) := by
  have key : ∀ word lit : Word, fMaj word = 25#6 → fD word = d → fA word = a → fB word = 0#8 → fF word = 2#3 → decodeRaw word lit = .ok (.cvtF64F32 d a) := by
    intro word lit hfMaj hfD hfA hfB hfF
    rw [raw_19 hfMaj]; unfold decMaj19; rw [hfF]
    simp only [hfD, hfA, hfB, res0]; rfl
  exact of_raw (j := (.cvtF64F32 d a)) rfl (fMaj_packV _ _ _ _ _) (by decide) rfl fun h => key _ _ (fMaj_packV _ _ _ _ _) (fD_packV _ _ _ _ _) (fA_packV _ _ _ _ _) (fB_packV _ _ _ _ _) (fF_packV _ _ _ _ _)
theorem cvtF32F64 (d : BitVec 7) (a : BitVec 7) (rm : BitVec 3) (sat : Bool) : Encoding.Statement (.cvtF32F64 d a rm sat) := by
  have key : ∀ word lit : Word, fMaj word = 25#6 → fD word = d → fA word = a → fB word = (BitVec.ofNat 8 (rm.toNat * 32 + sat.toNat * 8)) → fF word = 3#3 → decodeRaw word lit = .ok (.cvtF32F64 d a rm sat) := by
    intro word lit hfMaj hfD hfA hfB hfF
    rw [raw_19 hfMaj]; unfold decMaj19; rw [hfF]
    have s1 : subB word 5 3 = rm := by
      rw [subB, hfB]; apply BitVec.eq_of_toNat_eq; simp only [BitVec.toNat_ofNat]; have := d.isLt; have := a.isLt; have := rm.isLt; have := Bool.toNat_le sat; omega
    have s2 : subB word 3 1 = BitVec.ofNat 1 sat.toNat := by
      rw [subB, hfB]; apply BitVec.eq_of_toNat_eq; simp only [BitVec.toNat_ofNat]; have := d.isLt; have := a.isLt; have := rm.isLt; have := Bool.toNat_le sat; omega
    have t2 : (subB word 3 1 == 1) = sat := by rw [s2]; cases sat <;> rfl
    have s3 : subB word 0 3 = 0#3 := by
      rw [subB, hfB]; apply BitVec.eq_of_toNat_eq; simp only [BitVec.toNat_ofNat]; have := d.isLt; have := a.isLt; have := rm.isLt; have := Bool.toNat_le sat; omega
    have s4 : subB word 4 1 = 0#1 := by
      rw [subB, hfB]; apply BitVec.eq_of_toNat_eq; simp only [BitVec.toNat_ofNat]; have := d.isLt; have := a.isLt; have := rm.isLt; have := Bool.toNat_le sat; omega
    simp only [hfD, hfA, s1, t2, s3, s4, res0]; rfl
  exact of_raw (j := (.cvtF32F64 d a rm sat)) rfl (fMaj_packV _ _ _ _ _) (by decide) rfl fun h => key _ _ (fMaj_packV _ _ _ _ _) (fD_packV _ _ _ _ _) (fA_packV _ _ _ _ _) (fB_packV _ _ _ _ _) (fF_packV _ _ _ _ _)
theorem cvtF64I32 (d : BitVec 7) (a : BitVec 7) (u : Bool) : Encoding.Statement (.cvtF64I32 d a u) := by
  have key : ∀ word lit : Word, fMaj word = 25#6 → fD word = d → fA word = a → fB word = (BitVec.ofNat 8 (u.toNat * 16)) → fF word = 4#3 → decodeRaw word lit = .ok (.cvtF64I32 d a u) := by
    intro word lit hfMaj hfD hfA hfB hfF
    rw [raw_19 hfMaj]; unfold decMaj19; rw [hfF]
    have s1 : subB word 4 1 = BitVec.ofNat 1 u.toNat := by
      rw [subB, hfB]; apply BitVec.eq_of_toNat_eq; simp only [BitVec.toNat_ofNat]; have := d.isLt; have := a.isLt; have := Bool.toNat_le u; omega
    have t1 : (subB word 4 1 == 1) = u := by rw [s1]; cases u <;> rfl
    have s2 : subB word 0 4 = 0#4 := by
      rw [subB, hfB]; apply BitVec.eq_of_toNat_eq; simp only [BitVec.toNat_ofNat]; have := d.isLt; have := a.isLt; have := Bool.toNat_le u; omega
    have s3 : subB word 5 3 = 0#3 := by
      rw [subB, hfB]; apply BitVec.eq_of_toNat_eq; simp only [BitVec.toNat_ofNat]; have := d.isLt; have := a.isLt; have := Bool.toNat_le u; omega
    simp only [hfD, hfA, t1, s2, s3, res0]; rfl
  exact of_raw (j := (.cvtF64I32 d a u)) rfl (fMaj_packV _ _ _ _ _) (by decide) rfl fun h => key _ _ (fMaj_packV _ _ _ _ _) (fD_packV _ _ _ _ _) (fA_packV _ _ _ _ _) (fB_packV _ _ _ _ _) (fF_packV _ _ _ _ _)
theorem cvtI32F64 (d : BitVec 7) (a : BitVec 7) (rm : BitVec 3) (u : Bool) : Encoding.Statement (.cvtI32F64 d a rm u) := by
  have key : ∀ word lit : Word, fMaj word = 25#6 → fD word = d → fA word = a → fB word = (BitVec.ofNat 8 (rm.toNat * 32 + u.toNat * 16)) → fF word = 5#3 → decodeRaw word lit = .ok (.cvtI32F64 d a rm u) := by
    intro word lit hfMaj hfD hfA hfB hfF
    rw [raw_19 hfMaj]; unfold decMaj19; rw [hfF]
    have s1 : subB word 5 3 = rm := by
      rw [subB, hfB]; apply BitVec.eq_of_toNat_eq; simp only [BitVec.toNat_ofNat]; have := d.isLt; have := a.isLt; have := rm.isLt; have := Bool.toNat_le u; omega
    have s2 : subB word 4 1 = BitVec.ofNat 1 u.toNat := by
      rw [subB, hfB]; apply BitVec.eq_of_toNat_eq; simp only [BitVec.toNat_ofNat]; have := d.isLt; have := a.isLt; have := rm.isLt; have := Bool.toNat_le u; omega
    have t2 : (subB word 4 1 == 1) = u := by rw [s2]; cases u <;> rfl
    have s3 : subB word 0 4 = 0#4 := by
      rw [subB, hfB]; apply BitVec.eq_of_toNat_eq; simp only [BitVec.toNat_ofNat]; have := d.isLt; have := a.isLt; have := rm.isLt; have := Bool.toNat_le u; omega
    simp only [hfD, hfA, s1, t2, s3, res0]; rfl
  exact of_raw (j := (.cvtI32F64 d a rm u)) rfl (fMaj_packV _ _ _ _ _) (by decide) rfl fun h => key _ _ (fMaj_packV _ _ _ _ _) (fD_packV _ _ _ _ _) (fA_packV _ _ _ _ _) (fB_packV _ _ _ _ _) (fF_packV _ _ _ _ _)
theorem cvtF32F16 (d : BitVec 7) (a : BitVec 7) (hh : Bool) (hi : Bool) : Encoding.Statement (.cvtF32F16 d a hh hi) := by
  have key : ∀ word lit : Word, fMaj word = 25#6 → fD word = d → fA word = a → fB word = (BitVec.ofNat 8 (hh.toNat * 4 + hi.toNat * 2)) → fF word = 6#3 → decodeRaw word lit = .ok (.cvtF32F16 d a hh hi) := by
    intro word lit hfMaj hfD hfA hfB hfF
    rw [raw_19 hfMaj]; unfold decMaj19; rw [hfF]
    have s1 : subB word 2 1 = BitVec.ofNat 1 hh.toNat := by
      rw [subB, hfB]; apply BitVec.eq_of_toNat_eq; simp only [BitVec.toNat_ofNat]; have := d.isLt; have := a.isLt; have := Bool.toNat_le hh; have := Bool.toNat_le hi; omega
    have t1 : (subB word 2 1 == 1) = hh := by rw [s1]; cases hh <;> rfl
    have s2 : subB word 1 1 = BitVec.ofNat 1 hi.toNat := by
      rw [subB, hfB]; apply BitVec.eq_of_toNat_eq; simp only [BitVec.toNat_ofNat]; have := d.isLt; have := a.isLt; have := Bool.toNat_le hh; have := Bool.toNat_le hi; omega
    have t2 : (subB word 1 1 == 1) = hi := by rw [s2]; cases hi <;> rfl
    have s3 : subB word 0 1 = 0#1 := by
      rw [subB, hfB]; apply BitVec.eq_of_toNat_eq; simp only [BitVec.toNat_ofNat]; have := d.isLt; have := a.isLt; have := Bool.toNat_le hh; have := Bool.toNat_le hi; omega
    have s4 : subB word 3 5 = 0#5 := by
      rw [subB, hfB]; apply BitVec.eq_of_toNat_eq; simp only [BitVec.toNat_ofNat]; have := d.isLt; have := a.isLt; have := Bool.toNat_le hh; have := Bool.toNat_le hi; omega
    simp only [hfD, hfA, t1, t2, s3, s4, res0]; rfl
  exact of_raw (j := (.cvtF32F16 d a hh hi)) rfl (fMaj_packV _ _ _ _ _) (by decide) rfl fun h => key _ _ (fMaj_packV _ _ _ _ _) (fD_packV _ _ _ _ _) (fA_packV _ _ _ _ _) (fB_packV _ _ _ _ _) (fF_packV _ _ _ _ _)
theorem cvtF16F32 (d : BitVec 7) (a : BitVec 7) (rm : BitVec 3) (sat : Bool) (hh : Bool) : Encoding.Statement (.cvtF16F32 d a rm sat hh) := by
  have key : ∀ word lit : Word, fMaj word = 25#6 → fD word = d → fA word = a → fB word = (BitVec.ofNat 8 (rm.toNat * 32 + sat.toNat * 8 + hh.toNat * 4)) → fF word = 7#3 → decodeRaw word lit = .ok (.cvtF16F32 d a rm sat hh) := by
    intro word lit hfMaj hfD hfA hfB hfF
    rw [raw_19 hfMaj]; unfold decMaj19; rw [hfF]
    have s1 : subB word 5 3 = rm := by
      rw [subB, hfB]; apply BitVec.eq_of_toNat_eq; simp only [BitVec.toNat_ofNat]; have := d.isLt; have := a.isLt; have := rm.isLt; have := Bool.toNat_le sat; have := Bool.toNat_le hh; omega
    have s2 : subB word 3 1 = BitVec.ofNat 1 sat.toNat := by
      rw [subB, hfB]; apply BitVec.eq_of_toNat_eq; simp only [BitVec.toNat_ofNat]; have := d.isLt; have := a.isLt; have := rm.isLt; have := Bool.toNat_le sat; have := Bool.toNat_le hh; omega
    have t2 : (subB word 3 1 == 1) = sat := by rw [s2]; cases sat <;> rfl
    have s3 : subB word 2 1 = BitVec.ofNat 1 hh.toNat := by
      rw [subB, hfB]; apply BitVec.eq_of_toNat_eq; simp only [BitVec.toNat_ofNat]; have := d.isLt; have := a.isLt; have := rm.isLt; have := Bool.toNat_le sat; have := Bool.toNat_le hh; omega
    have t3 : (subB word 2 1 == 1) = hh := by rw [s3]; cases hh <;> rfl
    have s4 : subB word 0 2 = 0#2 := by
      rw [subB, hfB]; apply BitVec.eq_of_toNat_eq; simp only [BitVec.toNat_ofNat]; have := d.isLt; have := a.isLt; have := rm.isLt; have := Bool.toNat_le sat; have := Bool.toNat_le hh; omega
    have s5 : subB word 4 1 = 0#1 := by
      rw [subB, hfB]; apply BitVec.eq_of_toNat_eq; simp only [BitVec.toNat_ofNat]; have := d.isLt; have := a.isLt; have := rm.isLt; have := Bool.toNat_le sat; have := Bool.toNat_le hh; omega
    simp only [hfD, hfA, s1, t2, t3, s4, s5, res0]; rfl
  exact of_raw (j := (.cvtF16F32 d a rm sat hh)) rfl (fMaj_packV _ _ _ _ _) (by decide) rfl fun h => key _ _ (fMaj_packV _ _ _ _ _) (fD_packV _ _ _ _ _) (fA_packV _ _ _ _ _) (fB_packV _ _ _ _ _) (fF_packV _ _ _ _ _)
theorem cvtqE4m3 (d : BitVec 7) (a : BitVec 7) (pos : BitVec 3) (sat : Bool) (mx : Bool) (rm : BitVec 2) : Encoding.Statement (.cvtqE4m3 d a pos sat mx rm) := by
  have key : ∀ word lit : Word, fMaj word = 26#6 → fD word = d → fA word = a → fB word = (BitVec.ofNat 8 (pos.toNat * 32 + sat.toNat * 16 + mx.toNat * 4 + rm.toNat)) → fF word = 0#3 → decodeRaw word lit = .ok (.cvtqE4m3 d a pos sat mx rm) := by
    intro word lit hfMaj hfD hfA hfB hfF
    rw [raw_1A hfMaj]; unfold decMaj1A; rw [hfF]
    have s1 : subB word 5 3 = pos := by
      rw [subB, hfB]; apply BitVec.eq_of_toNat_eq; simp only [BitVec.toNat_ofNat]; have := d.isLt; have := a.isLt; have := pos.isLt; have := Bool.toNat_le sat; have := Bool.toNat_le mx; have := rm.isLt; omega
    have s2 : subB word 4 1 = BitVec.ofNat 1 sat.toNat := by
      rw [subB, hfB]; apply BitVec.eq_of_toNat_eq; simp only [BitVec.toNat_ofNat]; have := d.isLt; have := a.isLt; have := pos.isLt; have := Bool.toNat_le sat; have := Bool.toNat_le mx; have := rm.isLt; omega
    have t2 : (subB word 4 1 == 1) = sat := by rw [s2]; cases sat <;> rfl
    have s3 : subB word 2 1 = BitVec.ofNat 1 mx.toNat := by
      rw [subB, hfB]; apply BitVec.eq_of_toNat_eq; simp only [BitVec.toNat_ofNat]; have := d.isLt; have := a.isLt; have := pos.isLt; have := Bool.toNat_le sat; have := Bool.toNat_le mx; have := rm.isLt; omega
    have t3 : (subB word 2 1 == 1) = mx := by rw [s3]; cases mx <;> rfl
    have s4 : subB word 0 2 = rm := by
      rw [subB, hfB]; apply BitVec.eq_of_toNat_eq; simp only [BitVec.toNat_ofNat]; have := d.isLt; have := a.isLt; have := pos.isLt; have := Bool.toNat_le sat; have := Bool.toNat_le mx; have := rm.isLt; omega
    have s5 : subB word 3 1 = 0#1 := by
      rw [subB, hfB]; apply BitVec.eq_of_toNat_eq; simp only [BitVec.toNat_ofNat]; have := d.isLt; have := a.isLt; have := pos.isLt; have := Bool.toNat_le sat; have := Bool.toNat_le mx; have := rm.isLt; omega
    simp only [hfD, hfA, s1, t2, t3, s4, s5, res0]; rfl
  exact of_raw (j := (.cvtqE4m3 d a pos sat mx rm)) rfl (fMaj_packV _ _ _ _ _) (by decide) rfl fun h => key _ _ (fMaj_packV _ _ _ _ _) (fD_packV _ _ _ _ _) (fA_packV _ _ _ _ _) (fB_packV _ _ _ _ _) (fF_packV _ _ _ _ _)
theorem cvtqE5m2 (d : BitVec 7) (a : BitVec 7) (pos : BitVec 3) (sat : Bool) (mx : Bool) (rm : BitVec 2) : Encoding.Statement (.cvtqE5m2 d a pos sat mx rm) := by
  have key : ∀ word lit : Word, fMaj word = 26#6 → fD word = d → fA word = a → fB word = (BitVec.ofNat 8 (pos.toNat * 32 + sat.toNat * 16 + mx.toNat * 4 + rm.toNat)) → fF word = 1#3 → decodeRaw word lit = .ok (.cvtqE5m2 d a pos sat mx rm) := by
    intro word lit hfMaj hfD hfA hfB hfF
    rw [raw_1A hfMaj]; unfold decMaj1A; rw [hfF]
    have s1 : subB word 5 3 = pos := by
      rw [subB, hfB]; apply BitVec.eq_of_toNat_eq; simp only [BitVec.toNat_ofNat]; have := d.isLt; have := a.isLt; have := pos.isLt; have := Bool.toNat_le sat; have := Bool.toNat_le mx; have := rm.isLt; omega
    have s2 : subB word 4 1 = BitVec.ofNat 1 sat.toNat := by
      rw [subB, hfB]; apply BitVec.eq_of_toNat_eq; simp only [BitVec.toNat_ofNat]; have := d.isLt; have := a.isLt; have := pos.isLt; have := Bool.toNat_le sat; have := Bool.toNat_le mx; have := rm.isLt; omega
    have t2 : (subB word 4 1 == 1) = sat := by rw [s2]; cases sat <;> rfl
    have s3 : subB word 2 1 = BitVec.ofNat 1 mx.toNat := by
      rw [subB, hfB]; apply BitVec.eq_of_toNat_eq; simp only [BitVec.toNat_ofNat]; have := d.isLt; have := a.isLt; have := pos.isLt; have := Bool.toNat_le sat; have := Bool.toNat_le mx; have := rm.isLt; omega
    have t3 : (subB word 2 1 == 1) = mx := by rw [s3]; cases mx <;> rfl
    have s4 : subB word 0 2 = rm := by
      rw [subB, hfB]; apply BitVec.eq_of_toNat_eq; simp only [BitVec.toNat_ofNat]; have := d.isLt; have := a.isLt; have := pos.isLt; have := Bool.toNat_le sat; have := Bool.toNat_le mx; have := rm.isLt; omega
    have s5 : subB word 3 1 = 0#1 := by
      rw [subB, hfB]; apply BitVec.eq_of_toNat_eq; simp only [BitVec.toNat_ofNat]; have := d.isLt; have := a.isLt; have := pos.isLt; have := Bool.toNat_le sat; have := Bool.toNat_le mx; have := rm.isLt; omega
    simp only [hfD, hfA, s1, t2, t3, s4, s5, res0]; rfl
  exact of_raw (j := (.cvtqE5m2 d a pos sat mx rm)) rfl (fMaj_packV _ _ _ _ _) (by decide) rfl fun h => key _ _ (fMaj_packV _ _ _ _ _) (fD_packV _ _ _ _ _) (fA_packV _ _ _ _ _) (fB_packV _ _ _ _ _) (fF_packV _ _ _ _ _)
theorem cvtqE2m1 (d : BitVec 7) (a : BitVec 7) (pos : BitVec 3) (sat : Bool) (mx : Bool) (rm : BitVec 2) : Encoding.Statement (.cvtqE2m1 d a pos sat mx rm) := by
  have key : ∀ word lit : Word, fMaj word = 26#6 → fD word = d → fA word = a → fB word = (BitVec.ofNat 8 (pos.toNat * 32 + sat.toNat * 16 + mx.toNat * 4 + rm.toNat)) → fF word = 2#3 → decodeRaw word lit = .ok (.cvtqE2m1 d a pos sat mx rm) := by
    intro word lit hfMaj hfD hfA hfB hfF
    rw [raw_1A hfMaj]; unfold decMaj1A; rw [hfF]
    have s1 : subB word 5 3 = pos := by
      rw [subB, hfB]; apply BitVec.eq_of_toNat_eq; simp only [BitVec.toNat_ofNat]; have := d.isLt; have := a.isLt; have := pos.isLt; have := Bool.toNat_le sat; have := Bool.toNat_le mx; have := rm.isLt; omega
    have s2 : subB word 4 1 = BitVec.ofNat 1 sat.toNat := by
      rw [subB, hfB]; apply BitVec.eq_of_toNat_eq; simp only [BitVec.toNat_ofNat]; have := d.isLt; have := a.isLt; have := pos.isLt; have := Bool.toNat_le sat; have := Bool.toNat_le mx; have := rm.isLt; omega
    have t2 : (subB word 4 1 == 1) = sat := by rw [s2]; cases sat <;> rfl
    have s3 : subB word 2 1 = BitVec.ofNat 1 mx.toNat := by
      rw [subB, hfB]; apply BitVec.eq_of_toNat_eq; simp only [BitVec.toNat_ofNat]; have := d.isLt; have := a.isLt; have := pos.isLt; have := Bool.toNat_le sat; have := Bool.toNat_le mx; have := rm.isLt; omega
    have t3 : (subB word 2 1 == 1) = mx := by rw [s3]; cases mx <;> rfl
    have s4 : subB word 0 2 = rm := by
      rw [subB, hfB]; apply BitVec.eq_of_toNat_eq; simp only [BitVec.toNat_ofNat]; have := d.isLt; have := a.isLt; have := pos.isLt; have := Bool.toNat_le sat; have := Bool.toNat_le mx; have := rm.isLt; omega
    have s5 : subB word 3 1 = 0#1 := by
      rw [subB, hfB]; apply BitVec.eq_of_toNat_eq; simp only [BitVec.toNat_ofNat]; have := d.isLt; have := a.isLt; have := pos.isLt; have := Bool.toNat_le sat; have := Bool.toNat_le mx; have := rm.isLt; omega
    simp only [hfD, hfA, s1, t2, t3, s4, s5, res0]; rfl
  exact of_raw (j := (.cvtqE2m1 d a pos sat mx rm)) rfl (fMaj_packV _ _ _ _ _) (by decide) rfl fun h => key _ _ (fMaj_packV _ _ _ _ _) (fD_packV _ _ _ _ _) (fA_packV _ _ _ _ _) (fB_packV _ _ _ _ _) (fF_packV _ _ _ _ _)
theorem cvtqI8 (d : BitVec 7) (a : BitVec 7) (pos : BitVec 3) (mx : Bool) (rm : BitVec 2) : Encoding.Statement (.cvtqI8 d a pos mx rm) := by
  have key : ∀ word lit : Word, fMaj word = 26#6 → fD word = d → fA word = a → fB word = (BitVec.ofNat 8 (pos.toNat * 32 + mx.toNat * 4 + rm.toNat)) → fF word = 3#3 → decodeRaw word lit = .ok (.cvtqI8 d a pos mx rm) := by
    intro word lit hfMaj hfD hfA hfB hfF
    rw [raw_1A hfMaj]; unfold decMaj1A; rw [hfF]
    have s1 : subB word 5 3 = pos := by
      rw [subB, hfB]; apply BitVec.eq_of_toNat_eq; simp only [BitVec.toNat_ofNat]; have := d.isLt; have := a.isLt; have := pos.isLt; have := Bool.toNat_le mx; have := rm.isLt; omega
    have s2 : subB word 2 1 = BitVec.ofNat 1 mx.toNat := by
      rw [subB, hfB]; apply BitVec.eq_of_toNat_eq; simp only [BitVec.toNat_ofNat]; have := d.isLt; have := a.isLt; have := pos.isLt; have := Bool.toNat_le mx; have := rm.isLt; omega
    have t2 : (subB word 2 1 == 1) = mx := by rw [s2]; cases mx <;> rfl
    have s3 : subB word 0 2 = rm := by
      rw [subB, hfB]; apply BitVec.eq_of_toNat_eq; simp only [BitVec.toNat_ofNat]; have := d.isLt; have := a.isLt; have := pos.isLt; have := Bool.toNat_le mx; have := rm.isLt; omega
    have s4 : subB word 3 2 = 0#2 := by
      rw [subB, hfB]; apply BitVec.eq_of_toNat_eq; simp only [BitVec.toNat_ofNat]; have := d.isLt; have := a.isLt; have := pos.isLt; have := Bool.toNat_le mx; have := rm.isLt; omega
    simp only [hfD, hfA, s1, t2, s3, s4, res0]; rfl
  exact of_raw (j := (.cvtqI8 d a pos mx rm)) rfl (fMaj_packV _ _ _ _ _) (by decide) rfl fun h => key _ _ (fMaj_packV _ _ _ _ _) (fD_packV _ _ _ _ _) (fA_packV _ _ _ _ _) (fB_packV _ _ _ _ _) (fF_packV _ _ _ _ _)
theorem scale (d : BitVec 7) (a : BitVec 7) (fmt : BitVec 2) : Encoding.Statement (.scale d a fmt) := by
  have key : ∀ word lit : Word, fMaj word = 26#6 → fD word = d → fA word = a → fB word = (BitVec.ofNat 8 (fmt.toNat * 8)) → fF word = 4#3 → decodeRaw word lit = .ok (.scale d a fmt) := by
    intro word lit hfMaj hfD hfA hfB hfF
    rw [raw_1A hfMaj]; unfold decMaj1A; rw [hfF]
    have s1 : subB word 3 2 = fmt := by
      rw [subB, hfB]; apply BitVec.eq_of_toNat_eq; simp only [BitVec.toNat_ofNat]; have := d.isLt; have := a.isLt; have := fmt.isLt; omega
    have s2 : subB word 0 3 = 0#3 := by
      rw [subB, hfB]; apply BitVec.eq_of_toNat_eq; simp only [BitVec.toNat_ofNat]; have := d.isLt; have := a.isLt; have := fmt.isLt; omega
    have s3 : subB word 5 3 = 0#3 := by
      rw [subB, hfB]; apply BitVec.eq_of_toNat_eq; simp only [BitVec.toNat_ofNat]; have := d.isLt; have := a.isLt; have := fmt.isLt; omega
    simp only [hfD, hfA, s1, s2, s3, res0]; rfl
  exact of_raw (j := (.scale d a fmt)) rfl (fMaj_packV _ _ _ _ _) (by decide) rfl fun h => key _ _ (fMaj_packV _ _ _ _ _) (fD_packV _ _ _ _ _) (fA_packV _ _ _ _ _) (fB_packV _ _ _ _ _) (fF_packV _ _ _ _ _)
theorem dq8 (d : BitVec 7) (a : BitVec 7) (pos : BitVec 3) (fmt : BitVec 2) (mx : Bool) (rm : BitVec 2) : Encoding.Statement (.dq8 d a pos fmt mx rm) := by
  have key : ∀ word lit : Word, fMaj word = 26#6 → fD word = d → fA word = a → fB word = (BitVec.ofNat 8 (pos.toNat * 32 + fmt.toNat * 8 + mx.toNat * 4 + rm.toNat)) → fF word = 5#3 → decodeRaw word lit = .ok (.dq8 d a pos fmt mx rm) := by
    intro word lit hfMaj hfD hfA hfB hfF
    rw [raw_1A hfMaj]; unfold decMaj1A; rw [hfF]
    have s1 : subB word 5 3 = pos := by
      rw [subB, hfB]; apply BitVec.eq_of_toNat_eq; simp only [BitVec.toNat_ofNat]; have := d.isLt; have := a.isLt; have := pos.isLt; have := fmt.isLt; have := Bool.toNat_le mx; have := rm.isLt; omega
    have s2 : subB word 3 2 = fmt := by
      rw [subB, hfB]; apply BitVec.eq_of_toNat_eq; simp only [BitVec.toNat_ofNat]; have := d.isLt; have := a.isLt; have := pos.isLt; have := fmt.isLt; have := Bool.toNat_le mx; have := rm.isLt; omega
    have s3 : subB word 2 1 = BitVec.ofNat 1 mx.toNat := by
      rw [subB, hfB]; apply BitVec.eq_of_toNat_eq; simp only [BitVec.toNat_ofNat]; have := d.isLt; have := a.isLt; have := pos.isLt; have := fmt.isLt; have := Bool.toNat_le mx; have := rm.isLt; omega
    have t3 : (subB word 2 1 == 1) = mx := by rw [s3]; cases mx <;> rfl
    have s4 : subB word 0 2 = rm := by
      rw [subB, hfB]; apply BitVec.eq_of_toNat_eq; simp only [BitVec.toNat_ofNat]; have := d.isLt; have := a.isLt; have := pos.isLt; have := fmt.isLt; have := Bool.toNat_le mx; have := rm.isLt; omega
    simp only [hfD, hfA, s1, s2, t3, s4, res0]; rfl
  exact of_raw (j := (.dq8 d a pos fmt mx rm)) rfl (fMaj_packV _ _ _ _ _) (by decide) rfl fun h => key _ _ (fMaj_packV _ _ _ _ _) (fD_packV _ _ _ _ _) (fA_packV _ _ _ _ _) (fB_packV _ _ _ _ _) (fF_packV _ _ _ _ _)
theorem dq4 (d : BitVec 7) (a : BitVec 7) (pos : BitVec 3) (mx : Bool) (rm : BitVec 2) : Encoding.Statement (.dq4 d a pos mx rm) := by
  have key : ∀ word lit : Word, fMaj word = 26#6 → fD word = d → fA word = a → fB word = (BitVec.ofNat 8 (pos.toNat * 32 + mx.toNat * 4 + rm.toNat)) → fF word = 6#3 → decodeRaw word lit = .ok (.dq4 d a pos mx rm) := by
    intro word lit hfMaj hfD hfA hfB hfF
    rw [raw_1A hfMaj]; unfold decMaj1A; rw [hfF]
    have s1 : subB word 5 3 = pos := by
      rw [subB, hfB]; apply BitVec.eq_of_toNat_eq; simp only [BitVec.toNat_ofNat]; have := d.isLt; have := a.isLt; have := pos.isLt; have := Bool.toNat_le mx; have := rm.isLt; omega
    have s2 : subB word 2 1 = BitVec.ofNat 1 mx.toNat := by
      rw [subB, hfB]; apply BitVec.eq_of_toNat_eq; simp only [BitVec.toNat_ofNat]; have := d.isLt; have := a.isLt; have := pos.isLt; have := Bool.toNat_le mx; have := rm.isLt; omega
    have t2 : (subB word 2 1 == 1) = mx := by rw [s2]; cases mx <;> rfl
    have s3 : subB word 0 2 = rm := by
      rw [subB, hfB]; apply BitVec.eq_of_toNat_eq; simp only [BitVec.toNat_ofNat]; have := d.isLt; have := a.isLt; have := pos.isLt; have := Bool.toNat_le mx; have := rm.isLt; omega
    have s4 : subB word 3 2 = 0#2 := by
      rw [subB, hfB]; apply BitVec.eq_of_toNat_eq; simp only [BitVec.toNat_ofNat]; have := d.isLt; have := a.isLt; have := pos.isLt; have := Bool.toNat_le mx; have := rm.isLt; omega
    simp only [hfD, hfA, s1, t2, s3, s4, res0]; rfl
  exact of_raw (j := (.dq4 d a pos mx rm)) rfl (fMaj_packV _ _ _ _ _) (by decide) rfl fun h => key _ _ (fMaj_packV _ _ _ _ _) (fD_packV _ _ _ _ _) (fA_packV _ _ _ _ _) (fB_packV _ _ _ _ _) (fF_packV _ _ _ _ _)
theorem perm (d : BitVec 7) (a : BitVec 7) (m : BitVec 5) (p : BitVec 3) : Encoding.Statement (.perm d a m p) := by
  have key : ∀ word lit : Word, fMaj word = 27#6 → fD word = d → fA word = a → fB word = (BitVec.ofNat 8 (m.toNat * 8 + p.toNat)) → fF word = 0#3 → decodeRaw word lit = .ok (.perm d a m p) := by
    intro word lit hfMaj hfD hfA hfB hfF
    rw [raw_1B hfMaj]; unfold decMaj1B; rw [hfF]
    have s1 : subB word 3 5 = m := by
      rw [subB, hfB]; apply BitVec.eq_of_toNat_eq; simp only [BitVec.toNat_ofNat]; have := d.isLt; have := a.isLt; have := m.isLt; have := p.isLt; omega
    have s2 : subB word 0 3 = p := by
      rw [subB, hfB]; apply BitVec.eq_of_toNat_eq; simp only [BitVec.toNat_ofNat]; have := d.isLt; have := a.isLt; have := m.isLt; have := p.isLt; omega
    simp only [hfD, hfA, s1, s2, res0]; rfl
  exact of_raw (j := (.perm d a m p)) rfl (fMaj_packV _ _ _ _ _) (by decide) rfl fun h => key _ _ (fMaj_packV _ _ _ _ _) (fD_packV _ _ _ _ _) (fA_packV _ _ _ _ _) (fB_packV _ _ _ _ _) (fF_packV _ _ _ _ _)
theorem pup (d : BitVec 7) (a : BitVec 7) (m : BitVec 5) (p : BitVec 3) : Encoding.Statement (.pup d a m p) := by
  have key : ∀ word lit : Word, fMaj word = 27#6 → fD word = d → fA word = a → fB word = (BitVec.ofNat 8 (m.toNat * 8 + p.toNat)) → fF word = 1#3 → decodeRaw word lit = .ok (.pup d a m p) := by
    intro word lit hfMaj hfD hfA hfB hfF
    rw [raw_1B hfMaj]; unfold decMaj1B; rw [hfF]
    have s1 : subB word 3 5 = m := by
      rw [subB, hfB]; apply BitVec.eq_of_toNat_eq; simp only [BitVec.toNat_ofNat]; have := d.isLt; have := a.isLt; have := m.isLt; have := p.isLt; omega
    have s2 : subB word 0 3 = p := by
      rw [subB, hfB]; apply BitVec.eq_of_toNat_eq; simp only [BitVec.toNat_ofNat]; have := d.isLt; have := a.isLt; have := m.isLt; have := p.isLt; omega
    simp only [hfD, hfA, s1, s2, res0]; rfl
  exact of_raw (j := (.pup d a m p)) rfl (fMaj_packV _ _ _ _ _) (by decide) rfl fun h => key _ _ (fMaj_packV _ _ _ _ _) (fD_packV _ _ _ _ _) (fA_packV _ _ _ _ _) (fB_packV _ _ _ _ _) (fF_packV _ _ _ _ _)
theorem pdn (d : BitVec 7) (a : BitVec 7) (m : BitVec 5) (p : BitVec 3) : Encoding.Statement (.pdn d a m p) := by
  have key : ∀ word lit : Word, fMaj word = 27#6 → fD word = d → fA word = a → fB word = (BitVec.ofNat 8 (m.toNat * 8 + p.toNat)) → fF word = 2#3 → decodeRaw word lit = .ok (.pdn d a m p) := by
    intro word lit hfMaj hfD hfA hfB hfF
    rw [raw_1B hfMaj]; unfold decMaj1B; rw [hfF]
    have s1 : subB word 3 5 = m := by
      rw [subB, hfB]; apply BitVec.eq_of_toNat_eq; simp only [BitVec.toNat_ofNat]; have := d.isLt; have := a.isLt; have := m.isLt; have := p.isLt; omega
    have s2 : subB word 0 3 = p := by
      rw [subB, hfB]; apply BitVec.eq_of_toNat_eq; simp only [BitVec.toNat_ofNat]; have := d.isLt; have := a.isLt; have := m.isLt; have := p.isLt; omega
    simp only [hfD, hfA, s1, s2, res0]; rfl
  exact of_raw (j := (.pdn d a m p)) rfl (fMaj_packV _ _ _ _ _) (by decide) rfl fun h => key _ _ (fMaj_packV _ _ _ _ _) (fD_packV _ _ _ _ _) (fA_packV _ _ _ _ _) (fB_packV _ _ _ _ _) (fF_packV _ _ _ _ _)
theorem pxor (d : BitVec 7) (a : BitVec 7) (m : BitVec 5) (p : BitVec 3) : Encoding.Statement (.pxor d a m p) := by
  have key : ∀ word lit : Word, fMaj word = 27#6 → fD word = d → fA word = a → fB word = (BitVec.ofNat 8 (m.toNat * 8 + p.toNat)) → fF word = 3#3 → decodeRaw word lit = .ok (.pxor d a m p) := by
    intro word lit hfMaj hfD hfA hfB hfF
    rw [raw_1B hfMaj]; unfold decMaj1B; rw [hfF]
    have s1 : subB word 3 5 = m := by
      rw [subB, hfB]; apply BitVec.eq_of_toNat_eq; simp only [BitVec.toNat_ofNat]; have := d.isLt; have := a.isLt; have := m.isLt; have := p.isLt; omega
    have s2 : subB word 0 3 = p := by
      rw [subB, hfB]; apply BitVec.eq_of_toNat_eq; simp only [BitVec.toNat_ofNat]; have := d.isLt; have := a.isLt; have := m.isLt; have := p.isLt; omega
    simp only [hfD, hfA, s1, s2, res0]; rfl
  exact of_raw (j := (.pxor d a m p)) rfl (fMaj_packV _ _ _ _ _) (by decide) rfl fun h => key _ _ (fMaj_packV _ _ _ _ _) (fD_packV _ _ _ _ _) (fA_packV _ _ _ _ _) (fB_packV _ _ _ _ _) (fF_packV _ _ _ _ _)
theorem pbcast (d : BitVec 7) (a : BitVec 7) (m : BitVec 5) (p : BitVec 3) : Encoding.Statement (.pbcast d a m p) := by
  have key : ∀ word lit : Word, fMaj word = 27#6 → fD word = d → fA word = a → fB word = (BitVec.ofNat 8 (m.toNat * 8 + p.toNat)) → fF word = 4#3 → decodeRaw word lit = .ok (.pbcast d a m p) := by
    intro word lit hfMaj hfD hfA hfB hfF
    rw [raw_1B hfMaj]; unfold decMaj1B; rw [hfF]
    have s1 : subB word 3 5 = m := by
      rw [subB, hfB]; apply BitVec.eq_of_toNat_eq; simp only [BitVec.toNat_ofNat]; have := d.isLt; have := a.isLt; have := m.isLt; have := p.isLt; omega
    have s2 : subB word 0 3 = p := by
      rw [subB, hfB]; apply BitVec.eq_of_toNat_eq; simp only [BitVec.toNat_ofNat]; have := d.isLt; have := a.isLt; have := m.isLt; have := p.isLt; omega
    simp only [hfD, hfA, s1, s2, res0]; rfl
  exact of_raw (j := (.pbcast d a m p)) rfl (fMaj_packV _ _ _ _ _) (by decide) rfl fun h => key _ _ (fMaj_packV _ _ _ _ _) (fD_packV _ _ _ _ _) (fA_packV _ _ _ _ _) (fB_packV _ _ _ _ _) (fF_packV _ _ _ _ _)
theorem vote (d : BitVec 7) (a : BitVec 7) (m : BitVec 5) (p : BitVec 3) : Encoding.Statement (.vote d a m p) := by
  have key : ∀ word lit : Word, fMaj word = 27#6 → fD word = d → fA word = a → fB word = (BitVec.ofNat 8 (m.toNat * 8 + p.toNat)) → fF word = 5#3 → decodeRaw word lit = .ok (.vote d a m p) := by
    intro word lit hfMaj hfD hfA hfB hfF
    rw [raw_1B hfMaj]; unfold decMaj1B; rw [hfF]
    have s1 : subB word 3 5 = m := by
      rw [subB, hfB]; apply BitVec.eq_of_toNat_eq; simp only [BitVec.toNat_ofNat]; have := d.isLt; have := a.isLt; have := m.isLt; have := p.isLt; omega
    have s2 : subB word 0 3 = p := by
      rw [subB, hfB]; apply BitVec.eq_of_toNat_eq; simp only [BitVec.toNat_ofNat]; have := d.isLt; have := a.isLt; have := m.isLt; have := p.isLt; omega
    simp only [hfD, hfA, s1, s2, res0]; rfl
  exact of_raw (j := (.vote d a m p)) rfl (fMaj_packV _ _ _ _ _) (by decide) rfl fun h => key _ _ (fMaj_packV _ _ _ _ _) (fD_packV _ _ _ _ _) (fA_packV _ _ _ _ _) (fB_packV _ _ _ _ _) (fF_packV _ _ _ _ _)
theorem redl (d : BitVec 7) (a : BitVec 7) (m : BitVec 5) (p : BitVec 3) : Encoding.Statement (.redl d a m p) := by
  have key : ∀ word lit : Word, fMaj word = 27#6 → fD word = d → fA word = a → fB word = (BitVec.ofNat 8 (m.toNat * 8 + p.toNat)) → fF word = 6#3 → decodeRaw word lit = .ok (.redl d a m p) := by
    intro word lit hfMaj hfD hfA hfB hfF
    rw [raw_1B hfMaj]; unfold decMaj1B; rw [hfF]
    have s1 : subB word 3 5 = m := by
      rw [subB, hfB]; apply BitVec.eq_of_toNat_eq; simp only [BitVec.toNat_ofNat]; have := d.isLt; have := a.isLt; have := m.isLt; have := p.isLt; omega
    have s2 : subB word 0 3 = p := by
      rw [subB, hfB]; apply BitVec.eq_of_toNat_eq; simp only [BitVec.toNat_ofNat]; have := d.isLt; have := a.isLt; have := m.isLt; have := p.isLt; omega
    simp only [hfD, hfA, s1, s2, res0]; rfl
  exact of_raw (j := (.redl d a m p)) rfl (fMaj_packV _ _ _ _ _) (by decide) rfl fun h => key _ _ (fMaj_packV _ _ _ _ _) (fD_packV _ _ _ _ _) (fA_packV _ _ _ _ _) (fB_packV _ _ _ _ _) (fF_packV _ _ _ _ _)
theorem scanl (d : BitVec 7) (a : BitVec 7) (m : BitVec 5) (p : BitVec 3) : Encoding.Statement (.scanl d a m p) := by
  have key : ∀ word lit : Word, fMaj word = 27#6 → fD word = d → fA word = a → fB word = (BitVec.ofNat 8 (m.toNat * 8 + p.toNat)) → fF word = 7#3 → decodeRaw word lit = .ok (.scanl d a m p) := by
    intro word lit hfMaj hfD hfA hfB hfF
    rw [raw_1B hfMaj]; unfold decMaj1B; rw [hfF]
    have s1 : subB word 3 5 = m := by
      rw [subB, hfB]; apply BitVec.eq_of_toNat_eq; simp only [BitVec.toNat_ofNat]; have := d.isLt; have := a.isLt; have := m.isLt; have := p.isLt; omega
    have s2 : subB word 0 3 = p := by
      rw [subB, hfB]; apply BitVec.eq_of_toNat_eq; simp only [BitVec.toNat_ofNat]; have := d.isLt; have := a.isLt; have := m.isLt; have := p.isLt; omega
    simp only [hfD, hfA, s1, s2, res0]; rfl
  exact of_raw (j := (.scanl d a m p)) rfl (fMaj_packV _ _ _ _ _) (by decide) rfl fun h => key _ _ (fMaj_packV _ _ _ _ _) (fD_packV _ _ _ _ _) (fA_packV _ _ _ _ _) (fB_packV _ _ _ _ _) (fF_packV _ _ _ _ _)
theorem ld (d : BitVec 7) (a : BitVec 7) (wd : BitVec 3) (hh : BitVec 3) (o : BitVec 5) : Encoding.Statement (.ld d a wd hh o) := by
  have key : ∀ word lit : Word, fMaj word = 32#6 → fD word = d → fA word = a → fW word = wd → fH word = hh → fO word = o → decodeRaw word lit = .ok (.ld d a wd hh o) := by
    intro word lit hfMaj hfD hfA hfW hfH hfO
    rw [raw_20 hfMaj, hfD, hfA, hfW, hfH, hfO]
  exact of_raw (j := (.ld d a wd hh o)) rfl (fMaj_packM _ _ _ _ _ _) (by decide) rfl fun h => key _ _ (fMaj_packM _ _ _ _ _ _) (fD_packM _ _ _ _ _ _) (fA_packM _ _ _ _ _ _) (fW_packM _ _ _ _ _ _) (fH_packM _ _ _ _ _ _) (fO_packM _ _ _ _ _ _)
theorem st (d : BitVec 7) (a : BitVec 7) (wd : BitVec 3) (hh : BitVec 3) (o : BitVec 5) : Encoding.Statement (.st d a wd hh o) := by
  have key : ∀ word lit : Word, fMaj word = 33#6 → fD word = d → fA word = a → fW word = wd → fH word = hh → fO word = o → decodeRaw word lit = .ok (.st d a wd hh o) := by
    intro word lit hfMaj hfD hfA hfW hfH hfO
    rw [raw_21 hfMaj, hfD, hfA, hfW, hfH, hfO]
  exact of_raw (j := (.st d a wd hh o)) rfl (fMaj_packM _ _ _ _ _ _) (by decide) rfl fun h => key _ _ (fMaj_packM _ _ _ _ _ _) (fD_packM _ _ _ _ _ _) (fA_packM _ _ _ _ _ _) (fW_packM _ _ _ _ _ _) (fH_packM _ _ _ _ _ _) (fO_packM _ _ _ _ _ _)
theorem ldv (d : BitVec 7) (a : BitVec 7) (wd : BitVec 3) (hh : BitVec 3) (o : BitVec 5) : Encoding.Statement (.ldv d a wd hh o) := by
  have key : ∀ word lit : Word, fMaj word = 34#6 → fD word = d → fA word = a → fW word = wd → fH word = hh → fO word = o → decodeRaw word lit = .ok (.ldv d a wd hh o) := by
    intro word lit hfMaj hfD hfA hfW hfH hfO
    rw [raw_22 hfMaj, hfD, hfA, hfW, hfH, hfO]
  exact of_raw (j := (.ldv d a wd hh o)) rfl (fMaj_packM _ _ _ _ _ _) (by decide) rfl fun h => key _ _ (fMaj_packM _ _ _ _ _ _) (fD_packM _ _ _ _ _ _) (fA_packM _ _ _ _ _ _) (fW_packM _ _ _ _ _ _) (fH_packM _ _ _ _ _ _) (fO_packM _ _ _ _ _ _)
theorem lds (d : BitVec 7) (a : BitVec 7) (wd : BitVec 3) (hh : BitVec 3) (o : BitVec 5) : Encoding.Statement (.lds d a wd hh o) := by
  have key : ∀ word lit : Word, fMaj word = 35#6 → fD word = d → fA word = a → fW word = wd → fH word = hh → fO word = o → decodeRaw word lit = .ok (.lds d a wd hh o) := by
    intro word lit hfMaj hfD hfA hfW hfH hfO
    rw [raw_23 hfMaj, hfD, hfA, hfW, hfH, hfO]
  exact of_raw (j := (.lds d a wd hh o)) rfl (fMaj_packM _ _ _ _ _ _) (by decide) rfl fun h => key _ _ (fMaj_packM _ _ _ _ _ _) (fD_packM _ _ _ _ _ _) (fA_packM _ _ _ _ _ _) (fW_packM _ _ _ _ _ _) (fH_packM _ _ _ _ _ _) (fO_packM _ _ _ _ _ _)
theorem sts (d : BitVec 7) (a : BitVec 7) (wd : BitVec 3) (hh : BitVec 3) (o : BitVec 5) : Encoding.Statement (.sts d a wd hh o) := by
  have key : ∀ word lit : Word, fMaj word = 36#6 → fD word = d → fA word = a → fW word = wd → fH word = hh → fO word = o → decodeRaw word lit = .ok (.sts d a wd hh o) := by
    intro word lit hfMaj hfD hfA hfW hfH hfO
    rw [raw_24 hfMaj, hfD, hfA, hfW, hfH, hfO]
  exact of_raw (j := (.sts d a wd hh o)) rfl (fMaj_packM _ _ _ _ _ _) (by decide) rfl fun h => key _ _ (fMaj_packM _ _ _ _ _ _) (fD_packM _ _ _ _ _ _) (fA_packM _ _ _ _ _ _) (fW_packM _ _ _ _ _ _) (fH_packM _ _ _ _ _ _) (fO_packM _ _ _ _ _ _)
theorem atom (d : BitVec 7) (a : BitVec 7) (wd : BitVec 3) (hh : BitVec 3) (o : BitVec 5) : Encoding.Statement (.atom d a wd hh o) := by
  have key : ∀ word lit : Word, fMaj word = 37#6 → fD word = d → fA word = a → fW word = wd → fH word = hh → fO word = o → decodeRaw word lit = .ok (.atom d a wd hh o) := by
    intro word lit hfMaj hfD hfA hfW hfH hfO
    rw [raw_25 hfMaj, hfD, hfA, hfW, hfH, hfO]
  exact of_raw (j := (.atom d a wd hh o)) rfl (fMaj_packM _ _ _ _ _ _) (by decide) rfl fun h => key _ _ (fMaj_packM _ _ _ _ _ _) (fD_packM _ _ _ _ _ _) (fA_packM _ _ _ _ _ _) (fW_packM _ _ _ _ _ _) (fH_packM _ _ _ _ _ _) (fO_packM _ _ _ _ _ _)
theorem atoms (d : BitVec 7) (a : BitVec 7) (wd : BitVec 3) (hh : BitVec 3) (o : BitVec 5) : Encoding.Statement (.atoms d a wd hh o) := by
  have key : ∀ word lit : Word, fMaj word = 38#6 → fD word = d → fA word = a → fW word = wd → fH word = hh → fO word = o → decodeRaw word lit = .ok (.atoms d a wd hh o) := by
    intro word lit hfMaj hfD hfA hfW hfH hfO
    rw [raw_26 hfMaj, hfD, hfA, hfW, hfH, hfO]
  exact of_raw (j := (.atoms d a wd hh o)) rfl (fMaj_packM _ _ _ _ _ _) (by decide) rfl fun h => key _ _ (fMaj_packM _ _ _ _ _ _) (fD_packM _ _ _ _ _ _) (fA_packM _ _ _ _ _ _) (fW_packM _ _ _ _ _ _) (fH_packM _ _ _ _ _ _) (fO_packM _ _ _ _ _ _)
theorem red (d : BitVec 7) (a : BitVec 7) (wd : BitVec 3) (hh : BitVec 3) (o : BitVec 5) : Encoding.Statement (.red d a wd hh o) := by
  have key : ∀ word lit : Word, fMaj word = 39#6 → fD word = d → fA word = a → fW word = wd → fH word = hh → fO word = o → decodeRaw word lit = .ok (.red d a wd hh o) := by
    intro word lit hfMaj hfD hfA hfW hfH hfO
    rw [raw_27 hfMaj, hfD, hfA, hfW, hfH, hfO]
  exact of_raw (j := (.red d a wd hh o)) rfl (fMaj_packM _ _ _ _ _ _) (by decide) rfl fun h => key _ _ (fMaj_packM _ _ _ _ _ _) (fD_packM _ _ _ _ _ _) (fA_packM _ _ _ _ _ _) (fW_packM _ _ _ _ _ _) (fH_packM _ _ _ _ _ _) (fO_packM _ _ _ _ _ _)
theorem ldw (d : BitVec 7) (a : BitVec 7) (wd : BitVec 3) (hh : BitVec 3) (o : BitVec 5) : Encoding.Statement (.ldw d a wd hh o) := by
  have key : ∀ word lit : Word, fMaj word = 40#6 → fD word = d → fA word = a → fW word = wd → fH word = hh → fO word = o → decodeRaw word lit = .ok (.ldw d a wd hh o) := by
    intro word lit hfMaj hfD hfA hfW hfH hfO
    rw [raw_28 hfMaj, hfD, hfA, hfW, hfH, hfO]
  exact of_raw (j := (.ldw d a wd hh o)) rfl (fMaj_packM _ _ _ _ _ _) (by decide) rfl fun h => key _ _ (fMaj_packM _ _ _ _ _ _) (fD_packM _ _ _ _ _ _) (fA_packM _ _ _ _ _ _) (fW_packM _ _ _ _ _ _) (fH_packM _ _ _ _ _ _) (fO_packM _ _ _ _ _ _)
theorem fence (kind : BitVec 3) (scope : BitVec 3) : Encoding.Statement (.fence kind scope) := by
  have key : ∀ word lit : Word, fMaj word = 41#6 → fD word = 0#7 → fA word = 0#7 → fB word = (BitVec.ofNat 8 (kind.toNat * 32 + scope.toNat * 4)) → fF word = 0#3 → decodeRaw word lit = .ok (.fence kind scope) := by
    intro word lit hfMaj hfD hfA hfB hfF
    rw [raw_29 hfMaj]; unfold decMaj29; rw [hfF]
    have s1 : subB word 5 3 = kind := by
      rw [subB, hfB]; apply BitVec.eq_of_toNat_eq; simp only [BitVec.toNat_ofNat]; have := kind.isLt; have := scope.isLt; omega
    have s2 : subB word 2 3 = scope := by
      rw [subB, hfB]; apply BitVec.eq_of_toNat_eq; simp only [BitVec.toNat_ofNat]; have := kind.isLt; have := scope.isLt; omega
    have s3 : subB word 0 2 = 0#2 := by
      rw [subB, hfB]; apply BitVec.eq_of_toNat_eq; simp only [BitVec.toNat_ofNat]; have := kind.isLt; have := scope.isLt; omega
    simp only [hfD, hfA, s1, s2, s3, res0]; rfl
  exact of_raw (j := (.fence kind scope)) rfl (fMaj_packV _ _ _ _ _) (by decide) rfl fun h => key _ _ (fMaj_packV _ _ _ _ _) (fD_packV _ _ _ _ _) (fA_packV _ _ _ _ _) (fB_packV _ _ _ _ _) (fF_packV _ _ _ _ _)
theorem cctl (a : BitVec 7) (kind : BitVec 3) (n : BitVec 5) : Encoding.Statement (.cctl a kind n) := by
  have key : ∀ word lit : Word, fMaj word = 41#6 → fD word = 0#7 → fA word = a → fB word = (BitVec.ofNat 8 (kind.toNat * 32 + n.toNat)) → fF word = 1#3 → decodeRaw word lit = .ok (.cctl a kind n) := by
    intro word lit hfMaj hfD hfA hfB hfF
    rw [raw_29 hfMaj]; unfold decMaj29; rw [hfF]
    have s1 : subB word 5 3 = kind := by
      rw [subB, hfB]; apply BitVec.eq_of_toNat_eq; simp only [BitVec.toNat_ofNat]; have := a.isLt; have := kind.isLt; have := n.isLt; omega
    have s2 : subB word 0 5 = n := by
      rw [subB, hfB]; apply BitVec.eq_of_toNat_eq; simp only [BitVec.toNat_ofNat]; have := a.isLt; have := kind.isLt; have := n.isLt; omega
    simp only [hfD, hfA, s1, s2, res0]; rfl
  exact of_raw (j := (.cctl a kind n)) rfl (fMaj_packV _ _ _ _ _) (by decide) rfl fun h => key _ _ (fMaj_packV _ _ _ _ _) (fD_packV _ _ _ _ _) (fA_packV _ _ _ _ _) (fB_packV _ _ _ _ _) (fF_packV _ _ _ _ _)
theorem pref (a : BitVec 7) (tgt : BitVec 2) (n : BitVec 6) : Encoding.Statement (.pref a tgt n) := by
  have key : ∀ word lit : Word, fMaj word = 41#6 → fD word = 0#7 → fA word = a → fB word = (BitVec.ofNat 8 (tgt.toNat * 64 + n.toNat)) → fF word = 2#3 → decodeRaw word lit = .ok (.pref a tgt n) := by
    intro word lit hfMaj hfD hfA hfB hfF
    rw [raw_29 hfMaj]; unfold decMaj29; rw [hfF]
    have s1 : subB word 6 2 = tgt := by
      rw [subB, hfB]; apply BitVec.eq_of_toNat_eq; simp only [BitVec.toNat_ofNat]; have := a.isLt; have := tgt.isLt; have := n.isLt; omega
    have s2 : subB word 0 6 = n := by
      rw [subB, hfB]; apply BitVec.eq_of_toNat_eq; simp only [BitVec.toNat_ofNat]; have := a.isLt; have := tgt.isLt; have := n.isLt; omega
    simp only [hfD, hfA, s1, s2, res0]; rfl
  exact of_raw (j := (.pref a tgt n)) rfl (fMaj_packV _ _ _ _ _) (by decide) rfl fun h => key _ _ (fMaj_packV _ _ _ _ _) (fD_packV _ _ _ _ _) (fA_packV _ _ _ _ _) (fB_packV _ _ _ _ _) (fF_packV _ _ _ _ _)
theorem migr (d : BitVec 7) (a : BitVec 7) (b : SB) : Encoding.Statement (.migr d a b) := by
  have key : ∀ word lit : Word, fMaj word = 41#6 → fD word = d → fA word = a → fF word = 3#3 → SB.ofCode (fB word) lit = some b → decodeRaw word lit = .ok (.migr d a b) := by
    intro word lit hfMaj hfD hfA hfF hb
    rw [raw_29 hfMaj]; unfold decMaj29; rw [hfF]
    simp only [decSB, hfD, hfA, hb, res0]; rfl
  exact of_raw (j := (.migr d a b)) rfl (fMaj_packV _ _ _ _ _) (by decide) rfl fun h => key _ _ (fMaj_packV _ _ _ _ _) (fD_packV _ _ _ _ _) (fA_packV _ _ _ _ _) (fF_packV _ _ _ _ _) (SB_packed _ _ _ _ b _ (by decide) (wf_tail h rfl))
theorem cpy (a : BitVec 7) (b : SB) : Encoding.Statement (.cpy a b) := by
  have key : ∀ word lit : Word, fMaj word = 44#6 → fD word = 0#7 → fA word = a → fF word = 0#3 → SB.ofCode (fB word) lit = some b → decodeRaw word lit = .ok (.cpy a b) := by
    intro word lit hfMaj hfD hfA hfF hb
    rw [raw_2C hfMaj]; unfold decMaj2C; rw [hfF]
    simp only [decSB, hfD, hfA, hb, res0]; rfl
  exact of_raw (j := (.cpy a b)) rfl (fMaj_packV _ _ _ _ _) (by decide) rfl fun h => key _ _ (fMaj_packV _ _ _ _ _) (fD_packV _ _ _ _ _) (fA_packV _ _ _ _ _) (fF_packV _ _ _ _ _) (SB_packed _ _ _ _ b _ (by decide) (wf_tail h rfl))
theorem cpym (a : BitVec 7) (b : SB) : Encoding.Statement (.cpym a b) := by
  have key : ∀ word lit : Word, fMaj word = 44#6 → fD word = 0#7 → fA word = a → fF word = 1#3 → SB.ofCode (fB word) lit = some b → decodeRaw word lit = .ok (.cpym a b) := by
    intro word lit hfMaj hfD hfA hfF hb
    rw [raw_2C hfMaj]; unfold decMaj2C; rw [hfF]
    simp only [decSB, hfD, hfA, hb, res0]; rfl
  exact of_raw (j := (.cpym a b)) rfl (fMaj_packV _ _ _ _ _) (by decide) rfl fun h => key _ _ (fMaj_packV _ _ _ _ _) (fD_packV _ _ _ _ _) (fA_packV _ _ _ _ _) (fF_packV _ _ _ _ _) (SB_packed _ _ _ _ b _ (by decide) (wf_tail h rfl))
theorem cpys (a : BitVec 7) : Encoding.Statement (.cpys a) := by
  have key : ∀ word lit : Word, fMaj word = 44#6 → fD word = 0#7 → fA word = a → fB word = 0#8 → fF word = 2#3 → decodeRaw word lit = .ok (.cpys a) := by
    intro word lit hfMaj hfD hfA hfB hfF
    rw [raw_2C hfMaj]; unfold decMaj2C; rw [hfF]
    simp only [hfD, hfA, hfB, res0]; rfl
  exact of_raw (j := (.cpys a)) rfl (fMaj_packV _ _ _ _ _) (by decide) rfl fun h => key _ _ (fMaj_packV _ _ _ _ _) (fD_packV _ _ _ _ _) (fA_packV _ _ _ _ _) (fB_packV _ _ _ _ _) (fF_packV _ _ _ _ _)
theorem rinit (d : BitVec 7) (a : BitVec 7) : Encoding.Statement (.rinit d a) := by
  have key : ∀ word lit : Word, fMaj word = 44#6 → fD word = d → fA word = a → fB word = 0#8 → fF word = 3#3 → decodeRaw word lit = .ok (.rinit d a) := by
    intro word lit hfMaj hfD hfA hfB hfF
    rw [raw_2C hfMaj]; unfold decMaj2C; rw [hfF]
    simp only [hfD, hfA, hfB, res0]; rfl
  exact of_raw (j := (.rinit d a)) rfl (fMaj_packV _ _ _ _ _) (by decide) rfl fun h => key _ _ (fMaj_packV _ _ _ _ _) (fD_packV _ _ _ _ _) (fA_packV _ _ _ _ _) (fB_packV _ _ _ _ _) (fF_packV _ _ _ _ _)
theorem rwait (d : BitVec 7) (a : BitVec 7) (b : SB) : Encoding.Statement (.rwait d a b) := by
  have key : ∀ word lit : Word, fMaj word = 44#6 → fD word = d → fA word = a → fF word = 4#3 → SB.ofCode (fB word) lit = some b → decodeRaw word lit = .ok (.rwait d a b) := by
    intro word lit hfMaj hfD hfA hfF hb
    rw [raw_2C hfMaj]; unfold decMaj2C; rw [hfF]
    simp only [decSB, hfD, hfA, hb, res0]; rfl
  exact of_raw (j := (.rwait d a b)) rfl (fMaj_packV _ _ _ _ _) (by decide) rfl fun h => key _ _ (fMaj_packV _ _ _ _ _) (fD_packV _ _ _ _ _) (fA_packV _ _ _ _ _) (fF_packV _ _ _ _ _) (SB_packed _ _ _ _ b _ (by decide) (wf_tail h rfl))
theorem rrel (d : BitVec 7) (b : SB) : Encoding.Statement (.rrel d b) := by
  have key : ∀ word lit : Word, fMaj word = 44#6 → fD word = d → fA word = 0#7 → fF word = 5#3 → SB.ofCode (fB word) lit = some b → decodeRaw word lit = .ok (.rrel d b) := by
    intro word lit hfMaj hfD hfA hfF hb
    rw [raw_2C hfMaj]; unfold decMaj2C; rw [hfF]
    simp only [decSB, hfD, hfA, hb, res0]; rfl
  exact of_raw (j := (.rrel d b)) rfl (fMaj_packV _ _ _ _ _) (by decide) rfl fun h => key _ _ (fMaj_packV _ _ _ _ _) (fD_packV _ _ _ _ _) (fA_packV _ _ _ _ _) (fF_packV _ _ _ _ _) (SB_packed _ _ _ _ b _ (by decide) (wf_tail h rfl))
theorem rqry (d : BitVec 7) (b : SB) : Encoding.Statement (.rqry d b) := by
  have key : ∀ word lit : Word, fMaj word = 44#6 → fD word = d → fA word = 0#7 → fF word = 6#3 → SB.ofCode (fB word) lit = some b → decodeRaw word lit = .ok (.rqry d b) := by
    intro word lit hfMaj hfD hfA hfF hb
    rw [raw_2C hfMaj]; unfold decMaj2C; rw [hfF]
    simp only [decSB, hfD, hfA, hb, res0]; rfl
  exact of_raw (j := (.rqry d b)) rfl (fMaj_packV _ _ _ _ _) (by decide) rfl fun h => key _ _ (fMaj_packV _ _ _ _ _) (fD_packV _ _ _ _ _) (fA_packV _ _ _ _ _) (fF_packV _ _ _ _ _) (SB_packed _ _ _ _ b _ (by decide) (wf_tail h rfl))
theorem gang (d : BitVec 7) (b : SB) : Encoding.Statement (.gang d b) := by
  have key : ∀ word lit : Word, fMaj word = 45#6 → fD word = d → fA word = 0#7 → fF word = 0#3 → SB.ofCode (fB word) lit = some b → decodeRaw word lit = .ok (.gang d b) := by
    intro word lit hfMaj hfD hfA hfF hb
    rw [raw_2D hfMaj]; unfold decMaj2D; rw [hfF]
    simp only [decSB, hfD, hfA, hb, res0]; rfl
  exact of_raw (j := (.gang d b)) rfl (fMaj_packV _ _ _ _ _) (by decide) rfl fun h => key _ _ (fMaj_packV _ _ _ _ _) (fD_packV _ _ _ _ _) (fA_packV _ _ _ _ _) (fF_packV _ _ _ _ _) (SB_packed _ _ _ _ b _ (by decide) (wf_tail h rfl))
theorem mma (t : BitVec 7) (a : BitVec 7) (b : SB) : Encoding.Statement (.mma t a b) := by
  have key : ∀ word lit : Word, fMaj word = 45#6 → fD word = t → fA word = a → fF word = 1#3 → SB.ofCode (fB word) lit = some b → decodeRaw word lit = .ok (.mma t a b) := by
    intro word lit hfMaj hfD hfA hfF hb
    rw [raw_2D hfMaj]; unfold decMaj2D; rw [hfF]
    simp only [decSB, hfD, hfA, hb, res0]; rfl
  exact of_raw (j := (.mma t a b)) rfl (fMaj_packV _ _ _ _ _) (by decide) rfl fun h => key _ _ (fMaj_packV _ _ _ _ _) (fD_packV _ _ _ _ _) (fA_packV _ _ _ _ _) (fF_packV _ _ _ _ _) (SB_packed _ _ _ _ b _ (by decide) (wf_tail h rfl))
theorem mdist (t : BitVec 7) (a : BitVec 7) (b : SB) : Encoding.Statement (.mdist t a b) := by
  have key : ∀ word lit : Word, fMaj word = 45#6 → fD word = t → fA word = a → fF word = 2#3 → SB.ofCode (fB word) lit = some b → decodeRaw word lit = .ok (.mdist t a b) := by
    intro word lit hfMaj hfD hfA hfF hb
    rw [raw_2D hfMaj]; unfold decMaj2D; rw [hfF]
    simp only [decSB, hfD, hfA, hb, res0]; rfl
  exact of_raw (j := (.mdist t a b)) rfl (fMaj_packV _ _ _ _ _) (by decide) rfl fun h => key _ _ (fMaj_packV _ _ _ _ _) (fD_packV _ _ _ _ _) (fA_packV _ _ _ _ _) (fF_packV _ _ _ _ _) (SB_packed _ _ _ _ b _ (by decide) (wf_tail h rfl))
theorem mtopk (t : BitVec 7) (src : BitVec 7) (k : BitVec 8) : Encoding.Statement (.mtopk t src k) := by
  have key : ∀ word lit : Word, fMaj word = 45#6 → fD word = t → fA word = src → fB word = k → fF word = 3#3 → decodeRaw word lit = .ok (.mtopk t src k) := by
    intro word lit hfMaj hfD hfA hfB hfF
    rw [raw_2D hfMaj]; unfold decMaj2D; rw [hfF]
    simp only [hfD, hfA, hfB, res0]; rfl
  exact of_raw (j := (.mtopk t src k)) rfl (fMaj_packV _ _ _ _ _) (by decide) rfl fun h => key _ _ (fMaj_packV _ _ _ _ _) (fD_packV _ _ _ _ _) (fA_packV _ _ _ _ _) (fB_packV _ _ _ _ _) (fF_packV _ _ _ _ _)
theorem mfence (d : BitVec 7) : Encoding.Statement (.mfence d) := by
  have key : ∀ word lit : Word, fMaj word = 45#6 → fD word = d → fA word = 0#7 → fB word = 0#8 → fF word = 4#3 → decodeRaw word lit = .ok (.mfence d) := by
    intro word lit hfMaj hfD hfA hfB hfF
    rw [raw_2D hfMaj]; unfold decMaj2D; rw [hfF]
    simp only [hfD, hfA, hfB, res0]; rfl
  exact of_raw (j := (.mfence d)) rfl (fMaj_packV _ _ _ _ _) (by decide) rfl fun h => key _ _ (fMaj_packV _ _ _ _ _) (fD_packV _ _ _ _ _) (fA_packV _ _ _ _ _) (fB_packV _ _ _ _ _) (fF_packV _ _ _ _ _)
theorem mzero (b : SB) : Encoding.Statement (.mzero b) := by
  have key : ∀ word lit : Word, fMaj word = 45#6 → fD word = 0#7 → fA word = 0#7 → fF word = 5#3 → SB.ofCode (fB word) lit = some b → decodeRaw word lit = .ok (.mzero b) := by
    intro word lit hfMaj hfD hfA hfF hb
    rw [raw_2D hfMaj]; unfold decMaj2D; rw [hfF]
    simp only [decSB, hfD, hfA, hb, res0]; rfl
  exact of_raw (j := (.mzero b)) rfl (fMaj_packV _ _ _ _ _) (by decide) rfl fun h => key _ _ (fMaj_packV _ _ _ _ _) (fD_packV _ _ _ _ _) (fA_packV _ _ _ _ _) (fF_packV _ _ _ _ _) (SB_packed _ _ _ _ b _ (by decide) (wf_all h))
theorem mrd (d : BitVec 7) (t : BitVec 7) (f64 : Bool) (peek : Bool) : Encoding.Statement (.mrd d t f64 peek) := by
  have key : ∀ word lit : Word, fMaj word = 45#6 → fD word = d → fA word = t → fB word = (BitVec.ofNat 8 (f64.toNat * 2 + peek.toNat)) → fF word = 6#3 → decodeRaw word lit = .ok (.mrd d t f64 peek) := by
    intro word lit hfMaj hfD hfA hfB hfF
    rw [raw_2D hfMaj]; unfold decMaj2D; rw [hfF]
    have s1 : subB word 1 1 = BitVec.ofNat 1 f64.toNat := by
      rw [subB, hfB]; apply BitVec.eq_of_toNat_eq; simp only [BitVec.toNat_ofNat]; have := d.isLt; have := t.isLt; have := Bool.toNat_le f64; have := Bool.toNat_le peek; omega
    have t1 : (subB word 1 1 == 1) = f64 := by rw [s1]; cases f64 <;> rfl
    have s2 : subB word 0 1 = BitVec.ofNat 1 peek.toNat := by
      rw [subB, hfB]; apply BitVec.eq_of_toNat_eq; simp only [BitVec.toNat_ofNat]; have := d.isLt; have := t.isLt; have := Bool.toNat_le f64; have := Bool.toNat_le peek; omega
    have t2 : (subB word 0 1 == 1) = peek := by rw [s2]; cases peek <;> rfl
    have s3 : subB word 2 6 = 0#6 := by
      rw [subB, hfB]; apply BitVec.eq_of_toNat_eq; simp only [BitVec.toNat_ofNat]; have := d.isLt; have := t.isLt; have := Bool.toNat_le f64; have := Bool.toNat_le peek; omega
    simp only [hfD, hfA, t1, t2, s3, res0]; rfl
  exact of_raw (j := (.mrd d t f64 peek)) rfl (fMaj_packV _ _ _ _ _) (by decide) rfl fun h => key _ _ (fMaj_packV _ _ _ _ _) (fD_packV _ _ _ _ _) (fA_packV _ _ _ _ _) (fB_packV _ _ _ _ _) (fF_packV _ _ _ _ _)
theorem mwr (t : BitVec 7) (a : BitVec 7) (f64 : Bool) : Encoding.Statement (.mwr t a f64) := by
  have key : ∀ word lit : Word, fMaj word = 45#6 → fD word = t → fA word = a → fB word = (BitVec.ofNat 8 (f64.toNat * 2)) → fF word = 7#3 → decodeRaw word lit = .ok (.mwr t a f64) := by
    intro word lit hfMaj hfD hfA hfB hfF
    rw [raw_2D hfMaj]; unfold decMaj2D; rw [hfF]
    have s1 : subB word 1 1 = BitVec.ofNat 1 f64.toNat := by
      rw [subB, hfB]; apply BitVec.eq_of_toNat_eq; simp only [BitVec.toNat_ofNat]; have := t.isLt; have := a.isLt; have := Bool.toNat_le f64; omega
    have t1 : (subB word 1 1 == 1) = f64 := by rw [s1]; cases f64 <;> rfl
    have s2 : subB word 0 1 = 0#1 := by
      rw [subB, hfB]; apply BitVec.eq_of_toNat_eq; simp only [BitVec.toNat_ofNat]; have := t.isLt; have := a.isLt; have := Bool.toNat_le f64; omega
    have s3 : subB word 2 6 = 0#6 := by
      rw [subB, hfB]; apply BitVec.eq_of_toNat_eq; simp only [BitVec.toNat_ofNat]; have := t.isLt; have := a.isLt; have := Bool.toNat_le f64; omega
    simp only [hfD, hfA, t1, s2, s3, res0]; rfl
  exact of_raw (j := (.mwr t a f64)) rfl (fMaj_packV _ _ _ _ _) (by decide) rfl fun h => key _ _ (fMaj_packV _ _ _ _ _) (fD_packV _ _ _ _ _) (fA_packV _ _ _ _ _) (fB_packV _ _ _ _ _) (fF_packV _ _ _ _ _)
theorem snap (d : BitVec 7) (a : BitVec 7) (b : SB) : Encoding.Statement (.snap d a b) := by
  have key : ∀ word lit : Word, fMaj word = 46#6 → fD word = d → fA word = a → fF word = 0#3 → SB.ofCode (fB word) lit = some b → decodeRaw word lit = .ok (.snap d a b) := by
    intro word lit hfMaj hfD hfA hfF hb
    rw [raw_2E hfMaj]; unfold decMaj2E; rw [hfF]
    simp only [decSB, hfD, hfA, hb, res0]; rfl
  exact of_raw (j := (.snap d a b)) rfl (fMaj_packV _ _ _ _ _) (by decide) rfl fun h => key _ _ (fMaj_packV _ _ _ _ _) (fD_packV _ _ _ _ _) (fA_packV _ _ _ _ _) (fF_packV _ _ _ _ _) (SB_packed _ _ _ _ b _ (by decide) (wf_tail h rfl))
theorem sacq (d : BitVec 7) (b : SB) : Encoding.Statement (.sacq d b) := by
  have key : ∀ word lit : Word, fMaj word = 46#6 → fD word = d → fA word = 0#7 → fF word = 1#3 → SB.ofCode (fB word) lit = some b → decodeRaw word lit = .ok (.sacq d b) := by
    intro word lit hfMaj hfD hfA hfF hb
    rw [raw_2E hfMaj]; unfold decMaj2E; rw [hfF]
    simp only [decSB, hfD, hfA, hb, res0]; rfl
  exact of_raw (j := (.sacq d b)) rfl (fMaj_packV _ _ _ _ _) (by decide) rfl fun h => key _ _ (fMaj_packV _ _ _ _ _) (fD_packV _ _ _ _ _) (fA_packV _ _ _ _ _) (fF_packV _ _ _ _ _) (SB_packed _ _ _ _ b _ (by decide) (wf_tail h rfl))
theorem srel (d : BitVec 7) (b : SB) : Encoding.Statement (.srel d b) := by
  have key : ∀ word lit : Word, fMaj word = 46#6 → fD word = d → fA word = 0#7 → fF word = 2#3 → SB.ofCode (fB word) lit = some b → decodeRaw word lit = .ok (.srel d b) := by
    intro word lit hfMaj hfD hfA hfF hb
    rw [raw_2E hfMaj]; unfold decMaj2E; rw [hfF]
    simp only [decSB, hfD, hfA, hb, res0]; rfl
  exact of_raw (j := (.srel d b)) rfl (fMaj_packV _ _ _ _ _) (by decide) rfl fun h => key _ _ (fMaj_packV _ _ _ _ _) (fD_packV _ _ _ _ _) (fA_packV _ _ _ _ _) (fF_packV _ _ _ _ _) (SB_packed _ _ _ _ b _ (by decide) (wf_tail h rfl))
theorem vstep (d : BitVec 7) (b : SB) : Encoding.Statement (.vstep d b) := by
  have key : ∀ word lit : Word, fMaj word = 46#6 → fD word = d → fA word = 0#7 → fF word = 3#3 → SB.ofCode (fB word) lit = some b → decodeRaw word lit = .ok (.vstep d b) := by
    intro word lit hfMaj hfD hfA hfF hb
    rw [raw_2E hfMaj]; unfold decMaj2E; rw [hfF]
    simp only [decSB, hfD, hfA, hb, res0]; rfl
  exact of_raw (j := (.vstep d b)) rfl (fMaj_packV _ _ _ _ _) (by decide) rfl fun h => key _ _ (fMaj_packV _ _ _ _ _) (fD_packV _ _ _ _ _) (fA_packV _ _ _ _ _) (fF_packV _ _ _ _ _) (SB_packed _ _ _ _ b _ (by decide) (wf_tail h rfl))
theorem vqry (d : BitVec 7) (a : BitVec 7) (b : SB) : Encoding.Statement (.vqry d a b) := by
  have key : ∀ word lit : Word, fMaj word = 46#6 → fD word = d → fA word = a → fF word = 4#3 → SB.ofCode (fB word) lit = some b → decodeRaw word lit = .ok (.vqry d a b) := by
    intro word lit hfMaj hfD hfA hfF hb
    rw [raw_2E hfMaj]; unfold decMaj2E; rw [hfF]
    simp only [decSB, hfD, hfA, hb, res0]; rfl
  exact of_raw (j := (.vqry d a b)) rfl (fMaj_packV _ _ _ _ _) (by decide) rfl fun h => key _ _ (fMaj_packV _ _ _ _ _) (fD_packV _ _ _ _ _) (fA_packV _ _ _ _ _) (fF_packV _ _ _ _ _) (SB_packed _ _ _ _ b _ (by decide) (wf_tail h rfl))
theorem vpin (d : BitVec 7) (b : SB) : Encoding.Statement (.vpin d b) := by
  have key : ∀ word lit : Word, fMaj word = 46#6 → fD word = d → fA word = 0#7 → fF word = 5#3 → SB.ofCode (fB word) lit = some b → decodeRaw word lit = .ok (.vpin d b) := by
    intro word lit hfMaj hfD hfA hfF hb
    rw [raw_2E hfMaj]; unfold decMaj2E; rw [hfF]
    simp only [decSB, hfD, hfA, hb, res0]; rfl
  exact of_raw (j := (.vpin d b)) rfl (fMaj_packV _ _ _ _ _) (by decide) rfl fun h => key _ _ (fMaj_packV _ _ _ _ _) (fD_packV _ _ _ _ _) (fA_packV _ _ _ _ _) (fF_packV _ _ _ _ _) (SB_packed _ _ _ _ b _ (by decide) (wf_tail h rfl))
theorem vunpin (d : BitVec 7) (b : SB) : Encoding.Statement (.vunpin d b) := by
  have key : ∀ word lit : Word, fMaj word = 46#6 → fD word = d → fA word = 0#7 → fF word = 6#3 → SB.ofCode (fB word) lit = some b → decodeRaw word lit = .ok (.vunpin d b) := by
    intro word lit hfMaj hfD hfA hfF hb
    rw [raw_2E hfMaj]; unfold decMaj2E; rw [hfF]
    simp only [decSB, hfD, hfA, hb, res0]; rfl
  exact of_raw (j := (.vunpin d b)) rfl (fMaj_packV _ _ _ _ _) (by decide) rfl fun h => key _ _ (fMaj_packV _ _ _ _ _) (fD_packV _ _ _ _ _) (fA_packV _ _ _ _ _) (fF_packV _ _ _ _ _) (SB_packed _ _ _ _ b _ (by decide) (wf_tail h rfl))
theorem hgath (a : BitVec 7) (b : SB) : Encoding.Statement (.hgath a b) := by
  have key : ∀ word lit : Word, fMaj word = 47#6 → fD word = 0#7 → fA word = a → fF word = 0#3 → SB.ofCode (fB word) lit = some b → decodeRaw word lit = .ok (.hgath a b) := by
    intro word lit hfMaj hfD hfA hfF hb
    rw [raw_2F hfMaj]; unfold decMaj2F; rw [hfF]
    simp only [decSB, hfD, hfA, hb, res0]; rfl
  exact of_raw (j := (.hgath a b)) rfl (fMaj_packV _ _ _ _ _) (by decide) rfl fun h => key _ _ (fMaj_packV _ _ _ _ _) (fD_packV _ _ _ _ _) (fA_packV _ _ _ _ _) (fF_packV _ _ _ _ _) (SB_packed _ _ _ _ b _ (by decide) (wf_tail h rfl))
theorem hred (a : BitVec 7) (b : SB) : Encoding.Statement (.hred a b) := by
  have key : ∀ word lit : Word, fMaj word = 47#6 → fD word = 0#7 → fA word = a → fF word = 1#3 → SB.ofCode (fB word) lit = some b → decodeRaw word lit = .ok (.hred a b) := by
    intro word lit hfMaj hfD hfA hfF hb
    rw [raw_2F hfMaj]; unfold decMaj2F; rw [hfF]
    simp only [decSB, hfD, hfA, hb, res0]; rfl
  exact of_raw (j := (.hred a b)) rfl (fMaj_packV _ _ _ _ _) (by decide) rfl fun h => key _ _ (fMaj_packV _ _ _ _ _) (fD_packV _ _ _ _ _) (fA_packV _ _ _ _ _) (fF_packV _ _ _ _ _) (SB_packed _ _ _ _ b _ (by decide) (wf_tail h rfl))
theorem hcvt (a : BitVec 7) (b : SB) : Encoding.Statement (.hcvt a b) := by
  have key : ∀ word lit : Word, fMaj word = 47#6 → fD word = 0#7 → fA word = a → fF word = 2#3 → SB.ofCode (fB word) lit = some b → decodeRaw word lit = .ok (.hcvt a b) := by
    intro word lit hfMaj hfD hfA hfF hb
    rw [raw_2F hfMaj]; unfold decMaj2F; rw [hfF]
    simp only [decSB, hfD, hfA, hb, res0]; rfl
  exact of_raw (j := (.hcvt a b)) rfl (fMaj_packV _ _ _ _ _) (by decide) rfl fun h => key _ _ (fMaj_packV _ _ _ _ _) (fD_packV _ _ _ _ _) (fA_packV _ _ _ _ _) (fF_packV _ _ _ _ _) (SB_packed _ _ _ _ b _ (by decide) (wf_tail h rfl))
theorem hqry (d : BitVec 7) (b : SB) : Encoding.Statement (.hqry d b) := by
  have key : ∀ word lit : Word, fMaj word = 47#6 → fD word = d → fA word = 0#7 → fF word = 3#3 → SB.ofCode (fB word) lit = some b → decodeRaw word lit = .ok (.hqry d b) := by
    intro word lit hfMaj hfD hfA hfF hb
    rw [raw_2F hfMaj]; unfold decMaj2F; rw [hfF]
    simp only [decSB, hfD, hfA, hb, res0]; rfl
  exact of_raw (j := (.hqry d b)) rfl (fMaj_packV _ _ _ _ _) (by decide) rfl fun h => key _ _ (fMaj_packV _ _ _ _ _) (fD_packV _ _ _ _ _) (fA_packV _ _ _ _ _) (fF_packV _ _ _ _ _) (SB_packed _ _ _ _ b _ (by decide) (wf_tail h rfl))
theorem cpostPut (d : BitVec 7) (a : BitVec 7) (b : SB) : Encoding.Statement (.cpostPut d a b) := by
  have key : ∀ word lit : Word, fMaj word = 48#6 → fD word = d → fA word = a → fF word = 0#3 → SB.ofCode (fB word) lit = some b → decodeRaw word lit = .ok (.cpostPut d a b) := by
    intro word lit hfMaj hfD hfA hfF hb
    rw [raw_30 hfMaj]; unfold decMaj30; rw [hfF]
    simp only [decSB, hfD, hfA, hb, res0]; rfl
  exact of_raw (j := (.cpostPut d a b)) rfl (fMaj_packV _ _ _ _ _) (by decide) rfl fun h => key _ _ (fMaj_packV _ _ _ _ _) (fD_packV _ _ _ _ _) (fA_packV _ _ _ _ _) (fF_packV _ _ _ _ _) (SB_packed _ _ _ _ b _ (by decide) (wf_tail h rfl))
theorem cpostrContrib (d : BitVec 7) (a : BitVec 7) (b : SB) : Encoding.Statement (.cpostrContrib d a b) := by
  have key : ∀ word lit : Word, fMaj word = 48#6 → fD word = d → fA word = a → fF word = 1#3 → SB.ofCode (fB word) lit = some b → decodeRaw word lit = .ok (.cpostrContrib d a b) := by
    intro word lit hfMaj hfD hfA hfF hb
    rw [raw_30 hfMaj]; unfold decMaj30; rw [hfF]
    simp only [decSB, hfD, hfA, hb, res0]; rfl
  exact of_raw (j := (.cpostrContrib d a b)) rfl (fMaj_packV _ _ _ _ _) (by decide) rfl fun h => key _ _ (fMaj_packV _ _ _ _ _) (fD_packV _ _ _ _ _) (fA_packV _ _ _ _ _) (fF_packV _ _ _ _ _) (SB_packed _ _ _ _ b _ (by decide) (wf_tail h rfl))
theorem carmArm (d : BitVec 7) (a : BitVec 7) (b : SB) : Encoding.Statement (.carmArm d a b) := by
  have key : ∀ word lit : Word, fMaj word = 48#6 → fD word = d → fA word = a → fF word = 2#3 → SB.ofCode (fB word) lit = some b → decodeRaw word lit = .ok (.carmArm d a b) := by
    intro word lit hfMaj hfD hfA hfF hb
    rw [raw_30 hfMaj]; unfold decMaj30; rw [hfF]
    simp only [decSB, hfD, hfA, hb, res0]; rfl
  exact of_raw (j := (.carmArm d a b)) rfl (fMaj_packV _ _ _ _ _) (by decide) rfl fun h => key _ _ (fMaj_packV _ _ _ _ _) (fD_packV _ _ _ _ _) (fA_packV _ _ _ _ _) (fF_packV _ _ _ _ _) (SB_packed _ _ _ _ b _ (by decide) (wf_tail h rfl))
theorem chalo (d : BitVec 7) (a : BitVec 7) : Encoding.Statement (.chalo d a) := by
  have key : ∀ word lit : Word, fMaj word = 48#6 → fD word = d → fA word = a → fB word = 0#8 → fF word = 3#3 → decodeRaw word lit = .ok (.chalo d a) := by
    intro word lit hfMaj hfD hfA hfB hfF
    rw [raw_30 hfMaj]; unfold decMaj30; rw [hfF]
    simp only [hfD, hfA, hfB, res0]; rfl
  exact of_raw (j := (.chalo d a)) rfl (fMaj_packV _ _ _ _ _) (by decide) rfl fun h => key _ _ (fMaj_packV _ _ _ _ _) (fD_packV _ _ _ _ _) (fA_packV _ _ _ _ _) (fB_packV _ _ _ _ _) (fF_packV _ _ _ _ _)
theorem cwait (d : BitVec 7) (a : BitVec 7) (b : SB) : Encoding.Statement (.cwait d a b) := by
  have key : ∀ word lit : Word, fMaj word = 48#6 → fD word = d → fA word = a → fF word = 4#3 → SB.ofCode (fB word) lit = some b → decodeRaw word lit = .ok (.cwait d a b) := by
    intro word lit hfMaj hfD hfA hfF hb
    rw [raw_30 hfMaj]; unfold decMaj30; rw [hfF]
    simp only [decSB, hfD, hfA, hb, res0]; rfl
  exact of_raw (j := (.cwait d a b)) rfl (fMaj_packV _ _ _ _ _) (by decide) rfl fun h => key _ _ (fMaj_packV _ _ _ _ _) (fD_packV _ _ _ _ _) (fA_packV _ _ _ _ _) (fF_packV _ _ _ _ _) (SB_packed _ _ _ _ b _ (by decide) (wf_tail h rfl))
theorem cqry (d : BitVec 7) (b : SB) : Encoding.Statement (.cqry d b) := by
  have key : ∀ word lit : Word, fMaj word = 48#6 → fD word = d → fA word = 0#7 → fF word = 5#3 → SB.ofCode (fB word) lit = some b → decodeRaw word lit = .ok (.cqry d b) := by
    intro word lit hfMaj hfD hfA hfF hb
    rw [raw_30 hfMaj]; unfold decMaj30; rw [hfF]
    simp only [decSB, hfD, hfA, hb, res0]; rfl
  exact of_raw (j := (.cqry d b)) rfl (fMaj_packV _ _ _ _ _) (by decide) rfl fun h => key _ _ (fMaj_packV _ _ _ _ _) (fD_packV _ _ _ _ _) (fA_packV _ _ _ _ _) (fF_packV _ _ _ _ _) (SB_packed _ _ _ _ b _ (by decide) (wf_tail h rfl))
theorem gemit (d : BitVec 7) (a : BitVec 7) (b : SB) : Encoding.Statement (.gemit d a b) := by
  have key : ∀ word lit : Word, fMaj word = 49#6 → fD word = d → fA word = a → fF word = 0#3 → SB.ofCode (fB word) lit = some b → decodeRaw word lit = .ok (.gemit d a b) := by
    intro word lit hfMaj hfD hfA hfF hb
    rw [raw_31 hfMaj]; unfold decMaj31; rw [hfF]
    simp only [decSB, hfD, hfA, hb, res0]; rfl
  exact of_raw (j := (.gemit d a b)) rfl (fMaj_packV _ _ _ _ _) (by decide) rfl fun h => key _ _ (fMaj_packV _ _ _ _ _) (fD_packV _ _ _ _ _) (fA_packV _ _ _ _ _) (fF_packV _ _ _ _ _) (SB_packed _ _ _ _ b _ (by decide) (wf_tail h rfl))
theorem gflush (a : BitVec 7) (b : SB) : Encoding.Statement (.gflush a b) := by
  have key : ∀ word lit : Word, fMaj word = 49#6 → fD word = 0#7 → fA word = a → fF word = 1#3 → SB.ofCode (fB word) lit = some b → decodeRaw word lit = .ok (.gflush a b) := by
    intro word lit hfMaj hfD hfA hfF hb
    rw [raw_31 hfMaj]; unfold decMaj31; rw [hfF]
    simp only [decSB, hfD, hfA, hb, res0]; rfl
  exact of_raw (j := (.gflush a b)) rfl (fMaj_packV _ _ _ _ _) (by decide) rfl fun h => key _ _ (fMaj_packV _ _ _ _ _) (fD_packV _ _ _ _ _) (fA_packV _ _ _ _ _) (fF_packV _ _ _ _ _) (SB_packed _ _ _ _ b _ (by decide) (wf_tail h rfl))
theorem pxin (d : BitVec 7) (mode : BitVec 2) (cen : Bool) (k : BitVec 5) : Encoding.Statement (.pxin d mode cen k) := by
  have key : ∀ word lit : Word, fMaj word = 49#6 → fD word = d → fA word = 0#7 → fB word = (BitVec.ofNat 8 (mode.toNat * 64 + cen.toNat * 32 + k.toNat)) → fF word = 2#3 → decodeRaw word lit = .ok (.pxin d mode cen k) := by
    intro word lit hfMaj hfD hfA hfB hfF
    rw [raw_31 hfMaj]; unfold decMaj31; rw [hfF]
    have s1 : subB word 6 2 = mode := by
      rw [subB, hfB]; apply BitVec.eq_of_toNat_eq; simp only [BitVec.toNat_ofNat]; have := d.isLt; have := mode.isLt; have := Bool.toNat_le cen; have := k.isLt; omega
    have s2 : subB word 5 1 = BitVec.ofNat 1 cen.toNat := by
      rw [subB, hfB]; apply BitVec.eq_of_toNat_eq; simp only [BitVec.toNat_ofNat]; have := d.isLt; have := mode.isLt; have := Bool.toNat_le cen; have := k.isLt; omega
    have t2 : (subB word 5 1 == 1) = cen := by rw [s2]; cases cen <;> rfl
    have s3 : subB word 0 5 = k := by
      rw [subB, hfB]; apply BitVec.eq_of_toNat_eq; simp only [BitVec.toNat_ofNat]; have := d.isLt; have := mode.isLt; have := Bool.toNat_le cen; have := k.isLt; omega
    simp only [hfD, hfA, s1, t2, s3, res0]; rfl
  exact of_raw (j := (.pxin d mode cen k)) rfl (fMaj_packV _ _ _ _ _) (by decide) rfl fun h => key _ _ (fMaj_packV _ _ _ _ _) (fD_packV _ _ _ _ _) (fA_packV _ _ _ _ _) (fB_packV _ _ _ _ _) (fF_packV _ _ _ _ _)
theorem pxout (a : BitVec 7) : Encoding.Statement (.pxout a) := by
  have key : ∀ word lit : Word, fMaj word = 49#6 → fD word = 0#7 → fA word = a → fB word = 0#8 → fF word = 3#3 → decodeRaw word lit = .ok (.pxout a) := by
    intro word lit hfMaj hfD hfA hfB hfF
    rw [raw_31 hfMaj]; unfold decMaj31; rw [hfF]
    simp only [hfD, hfA, hfB, res0]; rfl
  exact of_raw (j := (.pxout a)) rfl (fMaj_packV _ _ _ _ _) (by decide) rfl fun h => key _ _ (fMaj_packV _ _ _ _ _) (fD_packV _ _ _ _ _) (fA_packV _ _ _ _ _) (fB_packV _ _ _ _ _) (fF_packV _ _ _ _ _)
theorem pxrate (a : BitVec 7) (b : SB) : Encoding.Statement (.pxrate a b) := by
  have key : ∀ word lit : Word, fMaj word = 49#6 → fD word = 0#7 → fA word = a → fF word = 5#3 → SB.ofCode (fB word) lit = some b → decodeRaw word lit = .ok (.pxrate a b) := by
    intro word lit hfMaj hfD hfA hfF hb
    rw [raw_31 hfMaj]; unfold decMaj31; rw [hfF]
    simp only [decSB, hfD, hfA, hb, res0]; rfl
  exact of_raw (j := (.pxrate a b)) rfl (fMaj_packV _ _ _ _ _) (by decide) rfl fun h => key _ _ (fMaj_packV _ _ _ _ _) (fD_packV _ _ _ _ _) (fA_packV _ _ _ _ _) (fF_packV _ _ _ _ _) (SB_packed _ _ _ _ b _ (by decide) (wf_tail h rfl))
theorem march (d : BitVec 7) (a : BitVec 7) (b : SB) : Encoding.Statement (.march d a b) := by
  have key : ∀ word lit : Word, fMaj word = 50#6 → fD word = d → fA word = a → fF word = 0#3 → SB.ofCode (fB word) lit = some b → decodeRaw word lit = .ok (.march d a b) := by
    intro word lit hfMaj hfD hfA hfF hb
    rw [raw_32 hfMaj]; unfold decMaj32; rw [hfF]
    simp only [decSB, hfD, hfA, hb, res0]; rfl
  exact of_raw (j := (.march d a b)) rfl (fMaj_packV _ _ _ _ _) (by decide) rfl fun h => key _ _ (fMaj_packV _ _ _ _ _) (fD_packV _ _ _ _ _) (fA_packV _ _ _ _ _) (fF_packV _ _ _ _ _) (SB_packed _ _ _ _ b _ (by decide) (wf_tail h rfl))
theorem msmp (d : BitVec 7) (a : BitVec 7) (b : SB) : Encoding.Statement (.msmp d a b) := by
  have key : ∀ word lit : Word, fMaj word = 50#6 → fD word = d → fA word = a → fF word = 1#3 → SB.ofCode (fB word) lit = some b → decodeRaw word lit = .ok (.msmp d a b) := by
    intro word lit hfMaj hfD hfA hfF hb
    rw [raw_32 hfMaj]; unfold decMaj32; rw [hfF]
    simp only [decSB, hfD, hfA, hb, res0]; rfl
  exact of_raw (j := (.msmp d a b)) rfl (fMaj_packV _ _ _ _ _) (by decide) rfl fun h => key _ _ (fMaj_packV _ _ _ _ _) (fD_packV _ _ _ _ _) (fA_packV _ _ _ _ _) (fF_packV _ _ _ _ _) (SB_packed _ _ _ _ b _ (by decide) (wf_tail h rfl))
theorem mhash (d : BitVec 7) (a : BitVec 7) (b : SB) : Encoding.Statement (.mhash d a b) := by
  have key : ∀ word lit : Word, fMaj word = 50#6 → fD word = d → fA word = a → fF word = 2#3 → SB.ofCode (fB word) lit = some b → decodeRaw word lit = .ok (.mhash d a b) := by
    intro word lit hfMaj hfD hfA hfF hb
    rw [raw_32 hfMaj]; unfold decMaj32; rw [hfF]
    simp only [decSB, hfD, hfA, hb, res0]; rfl
  exact of_raw (j := (.mhash d a b)) rfl (fMaj_packV _ _ _ _ _) (by decide) rfl fun h => key _ _ (fMaj_packV _ _ _ _ _) (fD_packV _ _ _ _ _) (fA_packV _ _ _ _ _) (fF_packV _ _ _ _ _) (SB_packed _ _ _ _ b _ (by decide) (wf_tail h rfl))
theorem mqry (d : BitVec 7) : Encoding.Statement (.mqry d) := by
  have key : ∀ word lit : Word, fMaj word = 50#6 → fD word = d → fA word = 0#7 → fB word = 0#8 → fF word = 3#3 → decodeRaw word lit = .ok (.mqry d) := by
    intro word lit hfMaj hfD hfA hfB hfF
    rw [raw_32 hfMaj]; unfold decMaj32; rw [hfF]
    simp only [hfD, hfA, hfB, res0]; rfl
  exact of_raw (j := (.mqry d)) rfl (fMaj_packV _ _ _ _ _) (by decide) rfl fun h => key _ _ (fMaj_packV _ _ _ _ _) (fD_packV _ _ _ _ _) (fA_packV _ _ _ _ _) (fB_packV _ _ _ _ _) (fF_packV _ _ _ _ _)
theorem ctxnew (d : BitVec 7) (b : SB) : Encoding.Statement (.ctxnew d b) := by
  have key : ∀ word lit : Word, fMaj word = 51#6 → fD word = d → fA word = 0#7 → fF word = 0#3 → SB.ofCode (fB word) lit = some b → decodeRaw word lit = .ok (.ctxnew d b) := by
    intro word lit hfMaj hfD hfA hfF hb
    rw [raw_33 hfMaj]; unfold decMaj33; rw [hfF]
    simp only [decSB, hfD, hfA, hb, res0]; rfl
  exact of_raw (j := (.ctxnew d b)) rfl (fMaj_packV _ _ _ _ _) (by decide) rfl fun h => key _ _ (fMaj_packV _ _ _ _ _) (fD_packV _ _ _ _ _) (fA_packV _ _ _ _ _) (fF_packV _ _ _ _ _) (SB_packed _ _ _ _ b _ (by decide) (wf_tail h rfl))
theorem ctxgrant (d : BitVec 7) (a : BitVec 7) (b : SB) : Encoding.Statement (.ctxgrant d a b) := by
  have key : ∀ word lit : Word, fMaj word = 51#6 → fD word = d → fA word = a → fF word = 1#3 → SB.ofCode (fB word) lit = some b → decodeRaw word lit = .ok (.ctxgrant d a b) := by
    intro word lit hfMaj hfD hfA hfF hb
    rw [raw_33 hfMaj]; unfold decMaj33; rw [hfF]
    simp only [decSB, hfD, hfA, hb, res0]; rfl
  exact of_raw (j := (.ctxgrant d a b)) rfl (fMaj_packV _ _ _ _ _) (by decide) rfl fun h => key _ _ (fMaj_packV _ _ _ _ _) (fD_packV _ _ _ _ _) (fA_packV _ _ _ _ _) (fF_packV _ _ _ _ _) (SB_packed _ _ _ _ b _ (by decide) (wf_tail h rfl))
theorem ctxrevoke (d : BitVec 7) (a : BitVec 7) (b : SB) : Encoding.Statement (.ctxrevoke d a b) := by
  have key : ∀ word lit : Word, fMaj word = 51#6 → fD word = d → fA word = a → fF word = 2#3 → SB.ofCode (fB word) lit = some b → decodeRaw word lit = .ok (.ctxrevoke d a b) := by
    intro word lit hfMaj hfD hfA hfF hb
    rw [raw_33 hfMaj]; unfold decMaj33; rw [hfF]
    simp only [decSB, hfD, hfA, hb, res0]; rfl
  exact of_raw (j := (.ctxrevoke d a b)) rfl (fMaj_packV _ _ _ _ _) (by decide) rfl fun h => key _ _ (fMaj_packV _ _ _ _ _) (fD_packV _ _ _ _ _) (fA_packV _ _ _ _ _) (fF_packV _ _ _ _ _) (SB_packed _ _ _ _ b _ (by decide) (wf_tail h rfl))
theorem ctxrunRun (d : BitVec 7) (a : BitVec 7) (b : SB) : Encoding.Statement (.ctxrunRun d a b) := by
  have key : ∀ word lit : Word, fMaj word = 51#6 → fD word = d → fA word = a → fF word = 3#3 → SB.ofCode (fB word) lit = some b → decodeRaw word lit = .ok (.ctxrunRun d a b) := by
    intro word lit hfMaj hfD hfA hfF hb
    rw [raw_33 hfMaj]; unfold decMaj33; rw [hfF]
    simp only [decSB, hfD, hfA, hb, res0]; rfl
  exact of_raw (j := (.ctxrunRun d a b)) rfl (fMaj_packV _ _ _ _ _) (by decide) rfl fun h => key _ _ (fMaj_packV _ _ _ _ _) (fD_packV _ _ _ _ _) (fA_packV _ _ _ _ _) (fF_packV _ _ _ _ _) (SB_packed _ _ _ _ b _ (by decide) (wf_tail h rfl))
theorem ctxstopSlice (d : BitVec 7) (a : BitVec 7) (b : SB) : Encoding.Statement (.ctxstopSlice d a b) := by
  have key : ∀ word lit : Word, fMaj word = 51#6 → fD word = d → fA word = a → fF word = 4#3 → SB.ofCode (fB word) lit = some b → decodeRaw word lit = .ok (.ctxstopSlice d a b) := by
    intro word lit hfMaj hfD hfA hfF hb
    rw [raw_33 hfMaj]; unfold decMaj33; rw [hfF]
    simp only [decSB, hfD, hfA, hb, res0]; rfl
  exact of_raw (j := (.ctxstopSlice d a b)) rfl (fMaj_packV _ _ _ _ _) (by decide) rfl fun h => key _ _ (fMaj_packV _ _ _ _ _) (fD_packV _ _ _ _ _) (fA_packV _ _ _ _ _) (fF_packV _ _ _ _ _) (SB_packed _ _ _ _ b _ (by decide) (wf_tail h rfl))
theorem ctxsave (d : BitVec 7) (a : BitVec 7) (b : SB) : Encoding.Statement (.ctxsave d a b) := by
  have key : ∀ word lit : Word, fMaj word = 51#6 → fD word = d → fA word = a → fF word = 5#3 → SB.ofCode (fB word) lit = some b → decodeRaw word lit = .ok (.ctxsave d a b) := by
    intro word lit hfMaj hfD hfA hfF hb
    rw [raw_33 hfMaj]; unfold decMaj33; rw [hfF]
    simp only [decSB, hfD, hfA, hb, res0]; rfl
  exact of_raw (j := (.ctxsave d a b)) rfl (fMaj_packV _ _ _ _ _) (by decide) rfl fun h => key _ _ (fMaj_packV _ _ _ _ _) (fD_packV _ _ _ _ _) (fA_packV _ _ _ _ _) (fF_packV _ _ _ _ _) (SB_packed _ _ _ _ b _ (by decide) (wf_tail h rfl))
theorem ctxload (d : BitVec 7) (a : BitVec 7) (b : SB) : Encoding.Statement (.ctxload d a b) := by
  have key : ∀ word lit : Word, fMaj word = 51#6 → fD word = d → fA word = a → fF word = 6#3 → SB.ofCode (fB word) lit = some b → decodeRaw word lit = .ok (.ctxload d a b) := by
    intro word lit hfMaj hfD hfA hfF hb
    rw [raw_33 hfMaj]; unfold decMaj33; rw [hfF]
    simp only [decSB, hfD, hfA, hb, res0]; rfl
  exact of_raw (j := (.ctxload d a b)) rfl (fMaj_packV _ _ _ _ _) (by decide) rfl fun h => key _ _ (fMaj_packV _ _ _ _ _) (fD_packV _ _ _ _ _) (fA_packV _ _ _ _ _) (fF_packV _ _ _ _ _) (SB_packed _ _ _ _ b _ (by decide) (wf_tail h rfl))
theorem ctxq (d : BitVec 7) (a : BitVec 7) (b : SB) : Encoding.Statement (.ctxq d a b) := by
  have key : ∀ word lit : Word, fMaj word = 51#6 → fD word = d → fA word = a → fF word = 7#3 → SB.ofCode (fB word) lit = some b → decodeRaw word lit = .ok (.ctxq d a b) := by
    intro word lit hfMaj hfD hfA hfF hb
    rw [raw_33 hfMaj]; unfold decMaj33; rw [hfF]
    simp only [decSB, hfD, hfA, hb, res0]; rfl
  exact of_raw (j := (.ctxq d a b)) rfl (fMaj_packV _ _ _ _ _) (by decide) rfl fun h => key _ _ (fMaj_packV _ _ _ _ _) (fD_packV _ _ _ _ _) (fA_packV _ _ _ _ _) (fF_packV _ _ _ _ _) (SB_packed _ _ _ _ b _ (by decide) (wf_tail h rfl))
theorem tret (b : SB) : Encoding.Statement (.tret b) := by
  have key : ∀ word lit : Word, fMaj word = 52#6 → fD word = 0#7 → fA word = 0#7 → fF word = 0#3 → SB.ofCode (fB word) lit = some b → decMaj34 word lit = .ok (.tret b) := by
    intro word lit hfMaj hfD hfA hfF hb
    unfold decMaj34; rw [hfF]
    simp only [decSB, hfD, hfA, hb, res0]; rfl
  exact of_34 (l := (.tret b)) rfl (fMaj_packV _ _ _ _ _) rfl (fun h => h) fun h => key _ _ (fMaj_packV _ _ _ _ _) (fD_packV _ _ _ _ _) (fA_packV _ _ _ _ _) (fF_packV _ _ _ _ _) (SB_packed _ _ _ _ b _ (by decide) (wf_all h))
theorem trefl (b : SB) : Encoding.Statement (.trefl b) := by
  have key : ∀ word lit : Word, fMaj word = 52#6 → fD word = 0#7 → fA word = 0#7 → fF word = 1#3 → SB.ofCode (fB word) lit = some b → decMaj34 word lit = .ok (.trefl b) := by
    intro word lit hfMaj hfD hfA hfF hb
    unfold decMaj34; rw [hfF]
    simp only [decSB, hfD, hfA, hb, res0]; rfl
  exact of_34 (l := (.trefl b)) rfl (fMaj_packV _ _ _ _ _) rfl (fun h => h) fun h => key _ _ (fMaj_packV _ _ _ _ _) (fD_packV _ _ _ _ _) (fA_packV _ _ _ _ _) (fF_packV _ _ _ _ _) (SB_packed _ _ _ _ b _ (by decide) (wf_all h))
theorem tclr (b : SB) : Encoding.Statement (.tclr b) := by
  have key : ∀ word lit : Word, fMaj word = 52#6 → fD word = 0#7 → fA word = 0#7 → fF word = 2#3 → SB.ofCode (fB word) lit = some b → decMaj34 word lit = .ok (.tclr b) := by
    intro word lit hfMaj hfD hfA hfF hb
    unfold decMaj34; rw [hfF]
    simp only [decSB, hfD, hfA, hb, res0]; rfl
  exact of_34 (l := (.tclr b)) rfl (fMaj_packV _ _ _ _ _) rfl (fun h => h) fun h => key _ _ (fMaj_packV _ _ _ _ _) (fD_packV _ _ _ _ _) (fA_packV _ _ _ _ _) (fF_packV _ _ _ _ _) (SB_packed _ _ _ _ b _ (by decide) (wf_tail h rfl))
theorem scrub (d : BitVec 7) (a : BitVec 7) (b : SB) : Encoding.Statement (.scrub d a b) := by
  have key : ∀ word lit : Word, fMaj word = 52#6 → fD word = d → fA word = a → fF word = 3#3 → SB.ofCode (fB word) lit = some b → decMaj34 word lit = .ok (.scrub d a b) := by
    intro word lit hfMaj hfD hfA hfF hb
    unfold decMaj34; rw [hfF]
    simp only [decSB, hfD, hfA, hb, res0]; rfl
  exact of_34 (l := (.scrub d a b)) rfl (fMaj_packV _ _ _ _ _) rfl (fun h => h) fun h => key _ _ (fMaj_packV _ _ _ _ _) (fD_packV _ _ _ _ _) (fA_packV _ _ _ _ _) (fF_packV _ _ _ _ _) (SB_packed _ _ _ _ b _ (by decide) (wf_tail h rfl))
theorem alog (d : BitVec 7) (a : BitVec 7) (b : SB) : Encoding.Statement (.alog d a b) := by
  have key : ∀ word lit : Word, fMaj word = 52#6 → fD word = d → fA word = a → fF word = 4#3 → SB.ofCode (fB word) lit = some b → decMaj34 word lit = .ok (.alog d a b) := by
    intro word lit hfMaj hfD hfA hfF hb
    unfold decMaj34; rw [hfF]
    simp only [decSB, hfD, hfA, hb, res0]; rfl
  exact of_34 (l := (.alog d a b)) rfl (fMaj_packV _ _ _ _ _) rfl (fun h => h) fun h => key _ _ (fMaj_packV _ _ _ _ _) (fD_packV _ _ _ _ _) (fA_packV _ _ _ _ _) (fF_packV _ _ _ _ _) (SB_packed _ _ _ _ b _ (by decide) (wf_tail h rfl))
theorem keyselBind (d : BitVec 7) (a : BitVec 7) (b : SB) : Encoding.Statement (.keyselBind d a b) := by
  have key : ∀ word lit : Word, fMaj word = 52#6 → fD word = d → fA word = a → fF word = 5#3 → SB.ofCode (fB word) lit = some b → decMaj34 word lit = .ok (.keyselBind d a b) := by
    intro word lit hfMaj hfD hfA hfF hb
    unfold decMaj34; rw [hfF]
    simp only [decSB, hfD, hfA, hb, res0]; rfl
  exact of_34 (l := (.keyselBind d a b)) rfl (fMaj_packV _ _ _ _ _) rfl (fun h => h) fun h => key _ _ (fMaj_packV _ _ _ _ _) (fD_packV _ _ _ _ _) (fA_packV _ _ _ _ _) (fF_packV _ _ _ _ _) (SB_packed _ _ _ _ b _ (by decide) (wf_tail h rfl))
theorem spawn (d : BitVec 7) (a : BitVec 7) : Encoding.Statement (.spawn d a) := by
  have key : ∀ word lit : Word, fMaj word = 53#6 → fD word = d → fA word = a → fB word = 0#8 → fF word = 0#3 → decMaj35 word lit = .ok (.spawn d a) := by
    intro word lit hfMaj hfD hfA hfB hfF
    unfold decMaj35; rw [hfF]
    simp only [hfD, hfA, hfB, res0]; rfl
  exact of_35 (l := (.spawn d a)) rfl (fMaj_packV _ _ _ _ _) rfl (fun h => h) fun h => key _ _ (fMaj_packV _ _ _ _ _) (fD_packV _ _ _ _ _) (fA_packV _ _ _ _ _) (fB_packV _ _ _ _ _) (fF_packV _ _ _ _ _)
theorem cont (d : BitVec 7) (a : BitVec 7) (b : SB) : Encoding.Statement (.cont d a b) := by
  have key : ∀ word lit : Word, fMaj word = 53#6 → fD word = d → fA word = a → fF word = 1#3 → SB.ofCode (fB word) lit = some b → decMaj35 word lit = .ok (.cont d a b) := by
    intro word lit hfMaj hfD hfA hfF hb
    unfold decMaj35; rw [hfF]
    simp only [decSB, hfD, hfA, hb, res0]; rfl
  exact of_35 (l := (.cont d a b)) rfl (fMaj_packV _ _ _ _ _) rfl (fun h => h) fun h => key _ _ (fMaj_packV _ _ _ _ _) (fD_packV _ _ _ _ _) (fA_packV _ _ _ _ _) (fF_packV _ _ _ _ _) (SB_packed _ _ _ _ b _ (by decide) (wf_tail h rfl))
theorem jdec (a : BitVec 7) (b : VB) : Encoding.Statement (.jdec a b) := by
  have key : ∀ word lit : Word, fMaj word = 53#6 → fD word = 0#7 → fA word = a → fF word = 2#3 → VB.ofCode (fB word) lit = some b → decMaj35 word lit = .ok (.jdec a b) := by
    intro word lit hfMaj hfD hfA hfF hb
    unfold decMaj35; rw [hfF]
    simp only [decVB, hfD, hfA, hb, res0]; rfl
  exact of_35 (l := (.jdec a b)) rfl (fMaj_packV _ _ _ _ _) rfl (fun h => h) fun h => key _ _ (fMaj_packV _ _ _ _ _) (fD_packV _ _ _ _ _) (fA_packV _ _ _ _ _) (fF_packV _ _ _ _ _) (VB_packed _ _ _ _ b _ (by decide) (wf_tail h rfl))
theorem lcancel (a : BitVec 7) (lvl : BitVec 8) : Encoding.Statement (.lcancel a lvl) := by
  have key : ∀ word lit : Word, fMaj word = 53#6 → fD word = 0#7 → fA word = a → fB word = lvl → fF word = 3#3 → decMaj35 word lit = .ok (.lcancel a lvl) := by
    intro word lit hfMaj hfD hfA hfB hfF
    unfold decMaj35; rw [hfF]
    simp only [hfD, hfA, hfB, res0]; rfl
  exact of_35 (l := (.lcancel a lvl)) rfl (fMaj_packV _ _ _ _ _) rfl (fun h => h) fun h => key _ _ (fMaj_packV _ _ _ _ _) (fD_packV _ _ _ _ _) (fA_packV _ _ _ _ _) (fB_packV _ _ _ _ _) (fF_packV _ _ _ _ _)
theorem lstat (d : BitVec 7) (a : BitVec 7) (lvl : BitVec 8) : Encoding.Statement (.lstat d a lvl) := by
  have key : ∀ word lit : Word, fMaj word = 53#6 → fD word = d → fA word = a → fB word = lvl → fF word = 4#3 → decMaj35 word lit = .ok (.lstat d a lvl) := by
    intro word lit hfMaj hfD hfA hfB hfF
    unfold decMaj35; rw [hfF]
    simp only [hfD, hfA, hfB, res0]; rfl
  exact of_35 (l := (.lstat d a lvl)) rfl (fMaj_packV _ _ _ _ _) rfl (fun h => h) fun h => key _ _ (fMaj_packV _ _ _ _ _) (fD_packV _ _ _ _ _) (fA_packV _ _ _ _ _) (fB_packV _ _ _ _ _) (fF_packV _ _ _ _ _)
theorem nop : Encoding.Statement .nop := by
  have key : ∀ word lit : Word, fMaj word = 0#6 → fD word = 0#7 → fDisp word = 0#15 → fF word = 0#3 → decodeRaw word lit = .ok .nop := by
    intro word lit hfMaj hfD hfDisp hfF
    rw [raw_00 hfMaj]; unfold decMaj00; rw [hfF]
    simp only [hfD, hfDisp, res0]; rfl
  exact of_raw (j := .nop) rfl (fMaj_packB _ _ _ _) (by decide) rfl fun h => key _ _ (fMaj_packB _ _ _ _) (fD_packB _ _ _ _) (fDisp_packB _ _ _ _) (fF_packB _ _ _ _)
theorem exit : Encoding.Statement .exit := by
  have key : ∀ word lit : Word, fMaj word = 0#6 → fD word = 0#7 → fDisp word = 0#15 → fF word = 1#3 → decodeRaw word lit = .ok .exit := by
    intro word lit hfMaj hfD hfDisp hfF
    rw [raw_00 hfMaj]; unfold decMaj00; rw [hfF]
    simp only [hfD, hfDisp, res0]; rfl
  exact of_raw (j := .exit) rfl (fMaj_packB _ _ _ _) (by decide) rfl fun h => key _ _ (fMaj_packB _ _ _ _) (fD_packB _ _ _ _) (fDisp_packB _ _ _ _) (fF_packB _ _ _ _)
theorem bar : Encoding.Statement .bar := by
  have key : ∀ word lit : Word, fMaj word = 0#6 → fD word = 0#7 → fDisp word = 0#15 → fF word = 4#3 → decodeRaw word lit = .ok .bar := by
    intro word lit hfMaj hfD hfDisp hfF
    rw [raw_00 hfMaj]; unfold decMaj00; rw [hfF]
    simp only [hfD, hfDisp, res0]; rfl
  exact of_raw (j := .bar) rfl (fMaj_packB _ _ _ _) (by decide) rfl fun h => key _ _ (fMaj_packB _ _ _ _) (fD_packB _ _ _ _) (fDisp_packB _ _ _ _) (fF_packB _ _ _ _)
theorem cbar : Encoding.Statement .cbar := by
  have key : ∀ word lit : Word, fMaj word = 0#6 → fD word = 0#7 → fDisp word = 0#15 → fF word = 5#3 → decodeRaw word lit = .ok .cbar := by
    intro word lit hfMaj hfD hfDisp hfF
    rw [raw_00 hfMaj]; unfold decMaj00; rw [hfF]
    simp only [hfD, hfDisp, res0]; rfl
  exact of_raw (j := .cbar) rfl (fMaj_packB _ _ _ _) (by decide) rfl fun h => key _ _ (fMaj_packB _ _ _ _) (fD_packB _ _ _ _) (fDisp_packB _ _ _ _) (fF_packB _ _ _ _)
theorem join : Encoding.Statement .join := by
  have key : ∀ word lit : Word, fMaj word = 1#6 → fD word = 0#7 → fDisp word = 0#15 → fF word = 6#3 → decodeRaw word lit = .ok .join := by
    intro word lit hfMaj hfD hfDisp hfF
    rw [raw_01 hfMaj]; unfold decMaj01; rw [hfF]
    simp only [hfD, hfDisp, res0]; rfl
  exact of_raw (j := .join) rfl (fMaj_packB _ _ _ _) (by decide) rfl fun h => key _ _ (fMaj_packB _ _ _ _) (fD_packB _ _ _ _) (fDisp_packB _ _ _ _) (fF_packB _ _ _ _)
theorem pxkill : Encoding.Statement .pxkill := by
  have key : ∀ word lit : Word, fMaj word = 49#6 → fD word = 0#7 → fA word = 0#7 → fB word = 0#8 → fF word = 4#3 → decodeRaw word lit = .ok .pxkill := by
    intro word lit hfMaj hfD hfA hfB hfF
    rw [raw_31 hfMaj]; unfold decMaj31; rw [hfF]
    simp only [hfD, hfA, hfB, res0]; rfl
  exact of_raw (j := .pxkill) rfl (fMaj_packV _ _ _ _ _) (by decide) rfl fun h => key _ _ (fMaj_packV _ _ _ _ _) (fD_packV _ _ _ _ _) (fA_packV _ _ _ _ _) (fB_packV _ _ _ _ _) (fF_packV _ _ _ _ _)
theorem cpostLand (d : BitVec 7) (a : BitVec 7) (b : SB) : Encoding.Statement (.cpostLand d a b) := by
  have key : ∀ word lit : Word, fMaj word = 48#6 → fD word = d → fA word = a → fF word = 0#3 → SB.ofCode (fB word) lit = some b → decodeRaw word lit = .ok (.cpostPut d a b) := by
    intro word lit hfMaj hfD hfA hfF hb
    rw [raw_30 hfMaj]; unfold decMaj30; rw [hfF]
    simp only [decSB, hfD, hfA, hb, res0]; rfl
  exact of_raw (j := (.cpostPut d a b)) rfl (fMaj_packV _ _ _ _ _) (by decide) rfl fun h => key _ _ (fMaj_packV _ _ _ _ _) (fD_packV _ _ _ _ _) (fA_packV _ _ _ _ _) (fF_packV _ _ _ _ _) (SB_packed _ _ _ _ b _ (by decide) (wf_tail h rfl))
theorem cpostrLandr (d : BitVec 7) (a : BitVec 7) (b : SB) : Encoding.Statement (.cpostrLandr d a b) := by
  have key : ∀ word lit : Word, fMaj word = 48#6 → fD word = d → fA word = a → fF word = 1#3 → SB.ofCode (fB word) lit = some b → decodeRaw word lit = .ok (.cpostrContrib d a b) := by
    intro word lit hfMaj hfD hfA hfF hb
    rw [raw_30 hfMaj]; unfold decMaj30; rw [hfF]
    simp only [decSB, hfD, hfA, hb, res0]; rfl
  exact of_raw (j := (.cpostrContrib d a b)) rfl (fMaj_packV _ _ _ _ _) (by decide) rfl fun h => key _ _ (fMaj_packV _ _ _ _ _) (fD_packV _ _ _ _ _) (fA_packV _ _ _ _ _) (fF_packV _ _ _ _ _) (SB_packed _ _ _ _ b _ (by decide) (wf_tail h rfl))
theorem carmFire (d : BitVec 7) (a : BitVec 7) (b : SB) : Encoding.Statement (.carmFire d a b) := by
  have key : ∀ word lit : Word, fMaj word = 48#6 → fD word = d → fA word = a → fF word = 2#3 → SB.ofCode (fB word) lit = some b → decodeRaw word lit = .ok (.carmArm d a b) := by
    intro word lit hfMaj hfD hfA hfF hb
    rw [raw_30 hfMaj]; unfold decMaj30; rw [hfF]
    simp only [decSB, hfD, hfA, hb, res0]; rfl
  exact of_raw (j := (.carmArm d a b)) rfl (fMaj_packV _ _ _ _ _) (by decide) rfl fun h => key _ _ (fMaj_packV _ _ _ _ _) (fD_packV _ _ _ _ _) (fA_packV _ _ _ _ _) (fF_packV _ _ _ _ _) (SB_packed _ _ _ _ b _ (by decide) (wf_tail h rfl))
theorem carmFree (d : BitVec 7) (a : BitVec 7) (b : SB) : Encoding.Statement (.carmFree d a b) := by
  have key : ∀ word lit : Word, fMaj word = 48#6 → fD word = d → fA word = a → fF word = 2#3 → SB.ofCode (fB word) lit = some b → decodeRaw word lit = .ok (.carmArm d a b) := by
    intro word lit hfMaj hfD hfA hfF hb
    rw [raw_30 hfMaj]; unfold decMaj30; rw [hfF]
    simp only [decSB, hfD, hfA, hb, res0]; rfl
  exact of_raw (j := (.carmArm d a b)) rfl (fMaj_packV _ _ _ _ _) (by decide) rfl fun h => key _ _ (fMaj_packV _ _ _ _ _) (fD_packV _ _ _ _ _) (fA_packV _ _ _ _ _) (fF_packV _ _ _ _ _) (SB_packed _ _ _ _ b _ (by decide) (wf_tail h rfl))
theorem carmSet (d : BitVec 7) (a : BitVec 7) (b : SB) : Encoding.Statement (.carmSet d a b) := by
  have key : ∀ word lit : Word, fMaj word = 48#6 → fD word = d → fA word = a → fF word = 2#3 → SB.ofCode (fB word) lit = some b → decodeRaw word lit = .ok (.carmArm d a b) := by
    intro word lit hfMaj hfD hfA hfF hb
    rw [raw_30 hfMaj]; unfold decMaj30; rw [hfF]
    simp only [decSB, hfD, hfA, hb, res0]; rfl
  exact of_raw (j := (.carmArm d a b)) rfl (fMaj_packV _ _ _ _ _) (by decide) rfl fun h => key _ _ (fMaj_packV _ _ _ _ _) (fD_packV _ _ _ _ _) (fA_packV _ _ _ _ _) (fF_packV _ _ _ _ _) (SB_packed _ _ _ _ b _ (by decide) (wf_tail h rfl))
theorem carmAdd (d : BitVec 7) (a : BitVec 7) (b : SB) : Encoding.Statement (.carmAdd d a b) := by
  have key : ∀ word lit : Word, fMaj word = 48#6 → fD word = d → fA word = a → fF word = 2#3 → SB.ofCode (fB word) lit = some b → decodeRaw word lit = .ok (.carmArm d a b) := by
    intro word lit hfMaj hfD hfA hfF hb
    rw [raw_30 hfMaj]; unfold decMaj30; rw [hfF]
    simp only [decSB, hfD, hfA, hb, res0]; rfl
  exact of_raw (j := (.carmArm d a b)) rfl (fMaj_packV _ _ _ _ _) (by decide) rfl fun h => key _ _ (fMaj_packV _ _ _ _ _) (fD_packV _ _ _ _ _) (fA_packV _ _ _ _ _) (fF_packV _ _ _ _ _) (SB_packed _ _ _ _ b _ (by decide) (wf_tail h rfl))
theorem ctxrunResume (d : BitVec 7) (a : BitVec 7) (b : SB) : Encoding.Statement (.ctxrunResume d a b) := by
  have key : ∀ word lit : Word, fMaj word = 51#6 → fD word = d → fA word = a → fF word = 3#3 → SB.ofCode (fB word) lit = some b → decodeRaw word lit = .ok (.ctxrunRun d a b) := by
    intro word lit hfMaj hfD hfA hfF hb
    rw [raw_33 hfMaj]; unfold decMaj33; rw [hfF]
    simp only [decSB, hfD, hfA, hb, res0]; rfl
  exact of_raw (j := (.ctxrunRun d a b)) rfl (fMaj_packV _ _ _ _ _) (by decide) rfl fun h => key _ _ (fMaj_packV _ _ _ _ _) (fD_packV _ _ _ _ _) (fA_packV _ _ _ _ _) (fF_packV _ _ _ _ _) (SB_packed _ _ _ _ b _ (by decide) (wf_tail h rfl))
theorem ctxrunReply (d : BitVec 7) (a : BitVec 7) (b : SB) : Encoding.Statement (.ctxrunReply d a b) := by
  have key : ∀ word lit : Word, fMaj word = 51#6 → fD word = d → fA word = a → fF word = 3#3 → SB.ofCode (fB word) lit = some b → decodeRaw word lit = .ok (.ctxrunRun d a b) := by
    intro word lit hfMaj hfD hfA hfF hb
    rw [raw_33 hfMaj]; unfold decMaj33; rw [hfF]
    simp only [decSB, hfD, hfA, hb, res0]; rfl
  exact of_raw (j := (.ctxrunRun d a b)) rfl (fMaj_packV _ _ _ _ _) (by decide) rfl fun h => key _ _ (fMaj_packV _ _ _ _ _) (fD_packV _ _ _ _ _) (fA_packV _ _ _ _ _) (fF_packV _ _ _ _ _) (SB_packed _ _ _ _ b _ (by decide) (wf_tail h rfl))
theorem ctxstopHalt (d : BitVec 7) (a : BitVec 7) (b : SB) : Encoding.Statement (.ctxstopHalt d a b) := by
  have key : ∀ word lit : Word, fMaj word = 51#6 → fD word = d → fA word = a → fF word = 4#3 → SB.ofCode (fB word) lit = some b → decodeRaw word lit = .ok (.ctxstopSlice d a b) := by
    intro word lit hfMaj hfD hfA hfF hb
    rw [raw_33 hfMaj]; unfold decMaj33; rw [hfF]
    simp only [decSB, hfD, hfA, hb, res0]; rfl
  exact of_raw (j := (.ctxstopSlice d a b)) rfl (fMaj_packV _ _ _ _ _) (by decide) rfl fun h => key _ _ (fMaj_packV _ _ _ _ _) (fD_packV _ _ _ _ _) (fA_packV _ _ _ _ _) (fF_packV _ _ _ _ _) (SB_packed _ _ _ _ b _ (by decide) (wf_tail h rfl))
theorem keyselUnbind (d : BitVec 7) (a : BitVec 7) (b : SB) : Encoding.Statement (.keyselUnbind d a b) := by
  have key : ∀ word lit : Word, fMaj word = 52#6 → fD word = d → fA word = a → fF word = 5#3 → SB.ofCode (fB word) lit = some b → decMaj34 word lit = .ok (.keyselBind d a b) := by
    intro word lit hfMaj hfD hfA hfF hb
    unfold decMaj34; rw [hfF]
    simp only [decSB, hfD, hfA, hb, res0]; rfl
  exact of_34 (l := (.keyselBind d a b)) rfl (fMaj_packV _ _ _ _ _) rfl (fun h => h) fun h => key _ _ (fMaj_packV _ _ _ _ _) (fD_packV _ _ _ _ _) (fA_packV _ _ _ _ _) (fF_packV _ _ _ _ _) (SB_packed _ _ _ _ b _ (by decide) (wf_tail h rfl))
theorem queueKick (q : Nat) : Encoding.Statement (.queueKick q) := of_none rfl
theorem queueEnable (q : Nat) : Encoding.Statement (.queueEnable q) := of_none rfl
theorem queueDisable (q : Nat) : Encoding.Statement (.queueDisable q) := of_none rfl
theorem launchSlotFree (slot : Nat) : Encoding.Statement (.launchSlotFree slot) := of_none rfl
theorem hierarchyEntryFree (ctx : Nat) (level : Nat) (id : Nat) : Encoding.Statement (.hierarchyEntryFree ctx level id) := of_none rfl
theorem aggregatorWindowClose (wd : Nat) : Encoding.Statement (.aggregatorWindowClose wd) := of_none rfl
theorem launchExpand (die : Nat) (slot : Nat) : Encoding.Statement (.launchExpand die slot) := of_none rfl
theorem batchPlace (die : Nat) : Encoding.Statement (.batchPlace die) := of_none rfl
theorem batchStart (batch : Nat) : Encoding.Statement (.batchStart batch) := of_none rfl
theorem batchComplete (batch : Nat) : Encoding.Statement (.batchComplete batch) := of_none rfl
theorem cancelForceEnd (tray : Nat) : Encoding.Statement (.cancelForceEnd tray) := of_none rfl
theorem queueRefusal (core : Nat) : Encoding.Statement (.queueRefusal core) := of_none rfl
theorem queueResend (core : Nat) : Encoding.Statement (.queueResend core) := of_none rfl
theorem commandAccept (core : Nat) : Encoding.Statement (.commandAccept core) := of_none rfl
theorem candidateUrgent (tray : Nat) : Encoding.Statement (.candidateUrgent tray) := of_none rfl
theorem loadComplete (tray : Nat) (k : Nat) : Encoding.Statement (.loadComplete tray k) := of_none rfl
theorem storeComplete (tray : Nat) (k : Nat) : Encoding.Statement (.storeComplete tray k) := of_none rfl
theorem engineResultLand (tray : Nat) (k : Nat) : Encoding.Statement (.engineResultLand tray k) := of_none rfl
theorem faultRecordDeferred (die : Nat) : Encoding.Statement (.faultRecordDeferred die) := of_none rfl
theorem traySave (tray : Nat) : Encoding.Statement (.traySave tray) := of_none rfl
theorem clusterRegionSave (cluster : Nat) : Encoding.Statement (.clusterRegionSave cluster) := of_none rfl
theorem yieldWake (tray : Nat) : Encoding.Statement (.yieldWake tray) := of_none rfl
theorem joinMerge (tray : Nat) : Encoding.Statement (.joinMerge tray) := of_none rfl
theorem reggrowGrant (core : Nat) : Encoding.Statement (.reggrowGrant core) := of_none rfl
theorem reggrowDeadlockEvict (core : Nat) : Encoding.Statement (.reggrowDeadlockEvict core) := of_none rfl
theorem trayResourceReturn (tray : Nat) : Encoding.Statement (.trayResourceReturn tray) := of_none rfl
theorem gangLatchTimeout (tray : Nat) : Encoding.Statement (.gangLatchTimeout tray) := of_none rfl
theorem replayWrite (ctx : Nat) (token : BitVec 32) : Encoding.Statement (.replayWrite ctx token) := of_none rfl
theorem parkTimeout (op : Bool) (k : Nat) : Encoding.Statement (.parkTimeout op k) := of_none rfl
theorem rootWrite (ctx : Nat) (v : BitVec 64) : Encoding.Statement (.rootWrite ctx v) := of_none rfl
theorem invalidationKick (ctx : Nat) (seq : BitVec 32) : Encoding.Statement (.invalidationKick ctx seq) := of_none rfl
theorem invalidationComplete (ctx : Nat) : Encoding.Statement (.invalidationComplete ctx) := of_none rfl
theorem homeRead (die : Nat) (ctx : Nat) (line : Nat) : Encoding.Statement (.homeRead die ctx line) := of_none rfl
theorem homeOwn (die : Nat) (ctx : Nat) (line : Nat) : Encoding.Statement (.homeOwn die ctx line) := of_none rfl
theorem homeAtomic (die : Nat) (line : Nat) : Encoding.Statement (.homeAtomic die line) := of_none rfl
theorem homeUpdate (die : Nat) (ctx : Nat) (line : Nat) (op : BitVec 3) (wd : BitVec 3) : Encoding.Statement (.homeUpdate die ctx line op wd) := of_none rfl
theorem homeEvict (die : Nat) (line : Nat) : Encoding.Statement (.homeEvict die line) := of_none rfl
theorem homeEngineAccess (line : Nat) (wr : Bool) : Encoding.Statement (.homeEngineAccess line wr) := of_none rfl
theorem turnClockReport (core : Nat) : Encoding.Statement (.turnClockReport core) := of_none rfl
theorem prefetchIssue (die : Nat) (ctx : Nat) (line : Nat) : Encoding.Statement (.prefetchIssue die ctx line) := of_none rfl
theorem donateWrite (ctx : Nat) (entry : BitVec 64) : Encoding.Statement (.donateWrite ctx entry) := of_none rfl
theorem cowSwitch (op : Nat) : Encoding.Statement (.cowSwitch op) := of_none rfl
theorem chainTimeout (op : Bool) (k : Nat) : Encoding.Statement (.chainTimeout op k) := of_none rfl
theorem snapshotOpComplete (op : Nat) : Encoding.Statement (.snapshotOpComplete op) := of_none rfl
theorem migrComplete (op : Nat) : Encoding.Statement (.migrComplete op) := of_none rfl
theorem copyComplete (op : Nat) : Encoding.Statement (.copyComplete op) := of_none rfl
theorem cpymGroupTimeout (op : Nat) : Encoding.Statement (.cpymGroupTimeout op) := of_none rfl
theorem matrixOpComplete (core : Nat) : Encoding.Statement (.matrixOpComplete core) := of_none rfl
theorem stackOpComplete (op : Nat) : Encoding.Statement (.stackOpComplete op) := of_none rfl
theorem samplerOpComplete (op : Nat) : Encoding.Statement (.samplerOpComplete op) := of_none rfl
theorem contextOpComplete (op : Nat) : Encoding.Statement (.contextOpComplete op) := of_none rfl
theorem ualinkUnitArrive (u : UaUnit) : Encoding.Statement (.ualinkUnitArrive u) := of_none rfl
theorem remoteAccessArrive (r : RemoteAcc) : Encoding.Statement (.remoteAccessArrive r) := of_none rfl
theorem ualinkAck (handle : BitVec 32) (part : Nat) (unit : Nat) : Encoding.Statement (.ualinkAck handle part unit) := of_none rfl
theorem ualinkNack (handle : BitVec 32) (part : Nat) (unit : Nat) : Encoding.Statement (.ualinkNack handle part unit) := of_none rfl
theorem ualinkResend (handle : BitVec 32) (part : Nat) (unit : Nat) : Encoding.Statement (.ualinkResend handle part unit) := of_none rfl
theorem ualinkFaultCompletion (handle : BitVec 32) (part : Nat) (unit : Nat) : Encoding.Statement (.ualinkFaultCompletion handle part unit) := of_none rfl
theorem ualinkUnitTimeout (handle : BitVec 32) (part : Nat) (unit : Nat) : Encoding.Statement (.ualinkUnitTimeout handle part unit) := of_none rfl
theorem remoteRetryTimeout (tray : Nat) : Encoding.Statement (.remoteRetryTimeout tray) := of_none rfl
theorem ualinkPortDown (port : Nat) : Encoding.Statement (.ualinkPortDown port) := of_none rfl
theorem linkDown (die : Nat) : Encoding.Statement (.linkDown die) := of_none rfl
theorem primitiveArrive (pass : Nat) (src : Nat) (dst : Nat) : Encoding.Statement (.primitiveArrive pass src dst) := of_none rfl
theorem watermarkArrive (pass : Nat) (src : Nat) (dst : Nat) : Encoding.Statement (.watermarkArrive pass src dst) := of_none rfl
theorem tileRasterise (pass : Nat) (tile : Nat) : Encoding.Statement (.tileRasterise pass tile) := of_none rfl
theorem pixelTrayPlace (pass : Nat) (tile : Nat) : Encoding.Statement (.pixelTrayPlace pass tile) := of_none rfl
theorem exportCommit (pass : Nat) (k : Nat) : Encoding.Statement (.exportCommit pass k) := of_none rfl
theorem passEnd (pass : Nat) : Encoding.Statement (.passEnd pass) := of_none rfl
theorem quantumExpiry (ctx : Nat) : Encoding.Statement (.quantumExpiry ctx) := of_none rfl
theorem sliceBudgetExpiry (tray : Nat) : Encoding.Statement (.sliceBudgetExpiry tray) := of_none rfl
theorem unitStop (cls : Nat) (unit : Nat) (ctx : Nat) : Encoding.Statement (.unitStop cls unit ctx) := of_none rfl
theorem registerWrite (writer : Nat) (page : Nat) (off : Nat) (v : BitVec 64) : Encoding.Statement (.registerWrite writer page off v) := of_none rfl
theorem rdmaWrite (qp : Nat) (addr : Nat) (data : List (BitVec 8)) : Encoding.Statement (.rdmaWrite qp addr data) := of_none rfl
theorem rdmaRead (qp : Nat) (addr : Nat) (len : Nat) : Encoding.Statement (.rdmaRead qp addr len) := of_none rfl
theorem unsupportedRequest (qp : Nat) : Encoding.Statement (.unsupportedRequest qp) := of_none rfl
theorem identify (hh : CmdHdr) : Encoding.Statement (.identify hh) := of_none rfl
theorem attest (hh : CmdHdr) (nonce : List (BitVec 8)) : Encoding.Statement (.attest hh nonce) := of_none rfl
theorem health (hh : CmdHdr) : Encoding.Statement (.health hh) := of_none rfl
theorem semacq (hh : CmdHdr) : Encoding.Statement (.semacq hh) := of_none rfl
theorem semrel (hh : CmdHdr) : Encoding.Statement (.semrel hh) := of_none rfl
theorem qpbind (hh : CmdHdr) (qp : Nat) (ctx : Nat) : Encoding.Statement (.qpbind hh qp ctx) := of_none rfl
theorem evset (hh : CmdHdr) (ch : Nat) (qp : Nat) (mode : Nat) (logSlots : Nat) (addr : Nat) : Encoding.Statement (.evset hh ch qp mode logSlots addr) := of_none rfl
theorem rootring (hh : CmdHdr) (qp : Nat) (logSlots : Nat) (addr : Nat) : Encoding.Statement (.rootring hh qp logSlots addr) := of_none rfl
theorem fwload (hh : CmdHdr) (image : List (BitVec 8)) : Encoding.Statement (.fwload hh image) := of_none rfl
theorem keyroll (hh : CmdHdr) : Encoding.Statement (.keyroll hh) := of_none rfl
theorem rootwr (hh : CmdHdr) (off : Nat) (data : List (BitVec 8)) : Encoding.Statement (.rootwr hh off data) := of_none rfl
theorem podidx (hh : CmdHdr) (idx : Nat) : Encoding.Statement (.podidx hh idx) := of_none rfl
theorem ckpt (hh : CmdHdr) (c : CkptArgs) : Encoding.Statement (.ckpt hh c) := of_none rfl
theorem ckptabort (hh : CmdHdr) (ck : Nat) : Encoding.Statement (.ckptabort hh ck) := of_none rfl
theorem ckptComplete (ck : Nat) : Encoding.Statement (.ckptComplete ck) := of_none rfl
theorem semaphoreLeaseExpiry : Encoding.Statement .semaphoreLeaseExpiry := of_none rfl
theorem powerGood : Encoding.Statement .powerGood := of_none rfl
theorem stageS0Complete (passed : BitVec 4) : Encoding.Statement (.stageS0Complete passed) := of_none rfl
theorem stageS1Complete (passed : BitVec 4) (fwValid : Bool) : Encoding.Statement (.stageS1Complete passed fwValid) := of_none rfl
theorem stageS2Reached (cfg : FwCfg) : Encoding.Statement (.stageS2Reached cfg) := of_none rfl
theorem thermalThrottle (die : Nat) : Encoding.Statement (.thermalThrottle die) := of_none rfl
theorem thermalTrip : Encoding.Statement .thermalTrip := of_none rfl
theorem unassignedEncoding (word : BitVec 32) : Encoding.Statement (.unassignedEncoding word) := of_none rfl
theorem uncorrectableError (pa : Nat) : Encoding.Statement (.uncorrectableError pa) := of_none rfl
theorem powerLoss : Encoding.Statement .powerLoss := of_none rfl
theorem belowThrottleTemperature (die : Nat) : Encoding.Statement (.belowThrottleTemperature die) := of_none rfl
theorem remoteNak (ck : Nat) : Encoding.Statement (.remoteNak ck) := of_none rfl
theorem malformedCommand (hh : CmdHdr) : Encoding.Statement (.malformedCommand hh) := of_none rfl

end Encoding

end Sys2Proof.Laws
end

