-- ==== Sys2Proof/Tests/Slice0.lean ====
section
/-!
SUPPORT. Tests of the model: ill-formed terms refused, words of the spec decoded, single steps, and for each statement with
hypotheses a state and operands that meet them.
-/

namespace Sys2Proof.Tests

open Sys2Proof.Machine

set_option maxRecDepth 20000
set_option Elab.async false

/-! ## The state the tests start from -/

/-- One tray of 96 threads with 256 registers each on core 0, its word at address 0 about to issue. -/
def demoCur : Cur := Cur.at 0 0 0 1

/-- The loaded package with that word issuing. -/
def demo : State := { State.reset.withFetchWord 32 0 with cur := some demoCur }

/-- The same with another tray in its place. -/
def demoWith (t : Tray) : State := { demo with trays := [(0, t)] }

/-- What an instruction's register operands must meet to issue, as a check. -/
def issuable (c : Cur) (t : Tray) (ops : List Opnd) : Bool :=
  ops.all Opnd.ok && !scoreboard (c.snap.getD t) c.path ops && !beyondN (c.snap.getD t) ops

/-- A tray under its key, its word issuing, stands to issue what passes the check. -/
theorem issuing_of {s : State} {c : Cur} {t : Tray} {ops : List Opnd} (h1 : s.cur = some c) (h2 : c.probe = false)
    (h3 : s.trays.get? c.key = some t) (h : issuable c t ops = true) : Issuing s c t ops := by
  simp only [issuable, Bool.and_eq_true, Bool.not_eq_true'] at h
  exact ⟨h1, h2, h3, h.1.1, h.1.2, h.2⟩

/-- The tray of `demoWith` stands to issue what passes the check. -/
theorem demo_issuing {t : Tray} {ops : List Opnd} (h : issuable demoCur t ops = true) : Issuing (demoWith t) demoCur t ops :=
  issuing_of rfl rfl rfl h

/-- Its core's replay window is empty (R17). -/
theorem demo_engine {t : Tray} {i : Instr} (h : issuable demoCur t i.opnds = true) : EngineIssuing (demoWith t) demoCur t i :=
  ⟨demo_issuing h, by rfl⟩

/-- A computation that answers a value with a property. -/
def okWith {ε α : Type} (e : Except ε α) (p : α → Bool) : Bool :=
  match e with
  | .ok v => p v
  | .error _ => false

theorem exists_ok {ε α : Type} {e : Except ε α} {p : α → Bool} (h : okWith e p = true) : ∃ v, e = .ok v ∧ p v = true := by
  cases e with
  | ok v => exact ⟨v, rfl, h⟩
  | error _ => exact absurd h (by simp [okWith])

/-- The word `w`, with the literal `lit` after it, decodes to `i`, whose fields are legal, and the tray of `demo` may issue
it: with `demo_issuing` and `demo_engine` the witness of every statement about that instruction alone. -/
abbrev Shows (w lit : Word) (i : Instr) : Prop :=
  decode w lit = .ok i ∧ i.wf = true ∧ issuable demoCur loadTray i.opnds = true

/-! ## Words written from the spec's encoding of them (Tables 2.4 to 2.8 and the instructions' own tables)

Each word of the opcode table once, its operands at the highest register numbers their groups admit. -/

theorem test_decode_00 :
    Shows 0x00000000 0x0 (.nop) ∧
    Shows 0x00000001 0x0 (.exit) ∧
    Shows 0x012FDE02 0x0 (.yield 4 95 94) ∧
    Shows 0x01EAA8A3 0x0 (.waitc 30 21 10 5) ∧
    Shows 0x00000004 0x0 (.bar) ∧
    Shows 0x00000005 0x0 (.cbar) ∧
    Shows 0x017C0006 0x0 (.trap 95) ∧
    Shows 0x01700007 0x0 (.sys 92) := by decide +kernel

theorem test_decode_01 :
    Shows 0x0202D2D0 0x0 (.bra 23130) ∧
    Shows 0x037ED2D1 0x0 (.bz 95 23130) ∧
    Shows 0x037ED2D2 0x0 (.bnz 95 23130) ∧
    Shows 0x027ED2D3 0x0 (.bzm 31 23130) ∧
    Shows 0x027ED2D4 0x0 (.bnzm 31 23130) ∧
    Shows 0x027ED2D5 0x0 (.brd 31 23130) ∧
    Shows 0x02000006 0x0 (.join) := by decide +kernel

theorem test_decode_02 :
    Shows 0x0402D2D0 0x0 (.call 23130) ∧
    Shows 0x05780001 0x0 (.calli 94) ∧
    Shows 0x05780002 0x0 (.ret 94) ∧
    Shows 0x05780003 0x0 (.jmpi 94) ∧
    Shows 0x057ED2D4 0x0 (.loop 95 23130) := by decide +kernel

theorem test_decode_03 :
    Shows 0x077EF2D0 0x0 (.sadd 95 94 (.sreg 90)) ∧
    Shows 0x077EF2D1 0x0 (.ssub 95 94 (.sreg 90)) ∧
    Shows 0x077EF2D2 0x0 (.smul 95 94 (.sreg 90)) ∧
    Shows 0x077EF2D3 0x0 (.smulh 95 94 (.sreg 90)) ∧
    Shows 0x077EF2D4 0x0 (.sand 95 94 (.sreg 90)) ∧
    Shows 0x077EF2D5 0x0 (.sor 95 94 (.sreg 90)) ∧
    Shows 0x077EF2D6 0x0 (.sxor 95 94 (.sreg 90)) ∧
    Shows 0x077C02D7 0x0 (.smov 95 (.sreg 90)) := by decide +kernel

theorem test_decode_04 :
    Shows 0x097EF528 0x0 (.saddI 95 94 165) ∧
    Shows 0x097EF529 0x0 (.ssubI 95 94 165) ∧
    Shows 0x097EF52A 0x0 (.smulI 95 94 165) ∧
    Shows 0x097EF52B 0x0 (.smulhI 95 94 165) ∧
    Shows 0x097EF52C 0x0 (.sandI 95 94 165) ∧
    Shows 0x097EF52D 0x0 (.sorI 95 94 165) ∧
    Shows 0x097EF52E 0x0 (.sxorI 95 94 165) ∧
    Shows 0x097C052F 0x0 (.smovI 95 165) := by decide +kernel

theorem test_decode_05 :
    Shows 0x0B7EF2D0 0x0 (.sshl 95 94 (.sreg 90)) ∧
    Shows 0x0B7EF2D1 0x0 (.sshr 95 94 (.sreg 90)) ∧
    Shows 0x0B7EF2D2 0x0 (.ssra 95 94 (.sreg 90)) ∧
    Shows 0x0B7EF2D3 0x0 (.smin 95 94 (.sreg 90)) ∧
    Shows 0x0B7EF2D4 0x0 (.smax 95 94 (.sreg 90)) ∧
    Shows 0x0B7AE2C5 0x0 (.sadd64 94 92 (.sreg 88)) ∧
    Shows 0x0B7AE2C6 0x0 (.ssub64 94 92 (.sreg 88)) ∧
    Shows 0x0B7EF2D7 0x0 (.ssel 95 94 (.sreg 90)) := by decide +kernel

theorem test_decode_06 :
    Shows 0x0D7EF528 0x0 (.sshlI 95 94 165) ∧
    Shows 0x0D7EF529 0x0 (.sshrI 95 94 165) ∧
    Shows 0x0D7EF52A 0x0 (.ssraI 95 94 165) ∧
    Shows 0x0D7EF52B 0x0 (.sminI 95 94 165) ∧
    Shows 0x0D7EF52C 0x0 (.smaxI 95 94 165) ∧
    Shows 0x0D7AE52D 0x0 (.sadd64I 94 92 165) ∧
    Shows 0x0D7AE52E 0x0 (.ssub64I 94 92 165) := by decide +kernel

theorem test_decode_07 :
    Shows 0x0F7EF2D0 0x0 (.scmp .eq 95 94 (.sreg 90)) ∧
    Shows 0x0F7EF2D1 0x0 (.scmp .ne 95 94 (.sreg 90)) ∧
    Shows 0x0F7EF2D2 0x0 (.scmp .lt 95 94 (.sreg 90)) ∧
    Shows 0x0F7EF2D3 0x0 (.scmp .le 95 94 (.sreg 90)) ∧
    Shows 0x0F7EF2D4 0x0 (.scmp .ltn 95 94 (.sreg 90)) ∧
    Shows 0x0F7EF2D5 0x0 (.scmp .len 95 94 (.sreg 90)) ∧
    Shows 0x0F7EF2D6 0x0 (.scmp .gt 95 94 (.sreg 90)) ∧
    Shows 0x0F7EF2D7 0x0 (.scmp .gtn 95 94 (.sreg 90)) := by decide +kernel

theorem test_decode_08 :
    Shows 0x107CF0E0 0x0 (.mand 31 30 (.tri 28)) ∧
    Shows 0x107CF0E1 0x0 (.mor 31 30 (.tri 28)) ∧
    Shows 0x107CF0E2 0x0 (.mxor 31 30 (.tri 28)) ∧
    Shows 0x107CF0E3 0x0 (.mandn 31 30 (.tri 28)) ∧
    Shows 0x117C00E4 0x0 (.mpop 95 (.tri 28)) ∧
    Shows 0x117C00E5 0x0 (.mfirst 95 (.tri 28)) ∧
    Shows 0x107FF006 0x0 (.mset 31 126) ∧
    Shows 0x107C00E7 0x0 (.mmov 31 (.tri 28)) := by decide +kernel

theorem test_decode_09 :
    Shows 0x137C6800 0x0 (.rdsr 95 13) ∧
    Shows 0x12004AD1 0x0 (.wrsr 9 (.sreg 90)) ∧
    Shows 0x120002D2 0x0 (.vwin (.sreg 90)) ∧
    Shows 0x120002D3 0x0 (.reggrow (.sreg 90)) ∧
    Shows 0x120002D4 0x0 (.regshrink (.sreg 90)) := by decide +kernel

theorem test_decode_0A :
    Shows 0x15FFF3E0 0x0 (.vadd 127 126 (.vreg 124)) ∧
    Shows 0x15FFF3E1 0x0 (.vsub 127 126 (.vreg 124)) ∧
    Shows 0x15FFF3E2 0x0 (.vmul 127 126 (.vreg 124)) ∧
    Shows 0x15FFF3E3 0x0 (.vmulh 127 126 (.vreg 124)) ∧
    Shows 0x15FFF3E4 0x0 (.vmad 127 126 (.vreg 124)) ∧
    Shows 0x15FFF3E5 0x0 (.vand 127 126 (.vreg 124)) ∧
    Shows 0x15FFF3E6 0x0 (.vor 127 126 (.vreg 124)) ∧
    Shows 0x15FFF3E7 0x0 (.vxor 127 126 (.vreg 124)) := by decide +kernel

theorem test_decode_0B :
    Shows 0x17FFF528 0x0 (.vaddI 127 126 165) ∧
    Shows 0x17FFF529 0x0 (.vsubI 127 126 165) ∧
    Shows 0x17FFF52A 0x0 (.vmulI 127 126 165) ∧
    Shows 0x17FFF52B 0x0 (.vmulhI 127 126 165) ∧
    Shows 0x17FFF52C 0x0 (.vmadI 127 126 165) ∧
    Shows 0x17FFF52D 0x0 (.vandI 127 126 165) ∧
    Shows 0x17FFF52E 0x0 (.vorI 127 126 165) ∧
    Shows 0x17FFF52F 0x0 (.vxorI 127 126 165) := by decide +kernel

theorem test_decode_0C :
    Shows 0x19FFF3E0 0x0 (.vshl 127 126 (.vreg 124)) ∧
    Shows 0x19FFF3E1 0x0 (.vshr 127 126 (.vreg 124)) ∧
    Shows 0x19FFF3E2 0x0 (.vsra 127 126 (.vreg 124)) ∧
    Shows 0x19FFF3E3 0x0 (.vmin 127 126 (.vreg 124)) ∧
    Shows 0x19FFF3E4 0x0 (.vmax 127 126 (.vreg 124)) ∧
    Shows 0x19FBE3C5 0x0 (.vadd64 126 124 (.vreg 120)) ∧
    Shows 0x19FBF3C6 0x0 (.vmad64 126 126 (.vreg 120)) ∧
    Shows 0x19FFF3E7 0x0 (.vsel 127 126 (.vreg 124)) := by decide +kernel

theorem test_decode_0D :
    Shows 0x1BFFF528 0x0 (.vshlI 127 126 165) ∧
    Shows 0x1BFFF529 0x0 (.vshrI 127 126 165) ∧
    Shows 0x1BFFF52A 0x0 (.vsraI 127 126 165) ∧
    Shows 0x1BFFF52B 0x0 (.vminI 127 126 165) ∧
    Shows 0x1BFFF52C 0x0 (.vmaxI 127 126 165) ∧
    Shows 0x1BFBE52D 0x0 (.vadd64I 126 124 165) ∧
    Shows 0x1BFBF52E 0x0 (.vmad64I 126 126 165) := by decide +kernel

theorem test_decode_0E :
    Shows 0x1DFC03E0 0x0 (.vmov 127 (.vreg 124)) ∧
    Shows 0x1DFC03E1 0x0 (.vnot 127 (.vreg 124)) ∧
    Shows 0x1DFC03E2 0x0 (.vabs 127 (.vreg 124)) ∧
    Shows 0x1DFC03E3 0x0 (.vclz 127 (.vreg 124)) ∧
    Shows 0x1DFC03E4 0x0 (.vpopc 127 (.vreg 124)) ∧
    Shows 0x1DFC03E5 0x0 (.vbrev 127 (.vreg 124)) ∧
    Shows 0x1DFFF3E6 0x0 (.vbfe 127 126 (.vreg 124)) ∧
    Shows 0x1DFFF3E7 0x0 (.vbfi 127 126 (.vreg 124)) := by decide +kernel

theorem test_decode_0F :
    Shows 0x1FFFF3E0 0x0 (.vcmp .eq 127 126 (.vreg 124)) ∧
    Shows 0x1FFFF3E1 0x0 (.vcmp .ne 127 126 (.vreg 124)) ∧
    Shows 0x1FFFF3E2 0x0 (.vcmp .lt 127 126 (.vreg 124)) ∧
    Shows 0x1FFFF3E3 0x0 (.vcmp .le 127 126 (.vreg 124)) ∧
    Shows 0x1FFFF3E4 0x0 (.vcmp .ltn 127 126 (.vreg 124)) ∧
    Shows 0x1FFFF3E5 0x0 (.vcmp .len 127 126 (.vreg 124)) ∧
    Shows 0x1FFFF3E6 0x0 (.vcmp .gt 127 126 (.vreg 124)) ∧
    Shows 0x1FFFF3E7 0x0 (.vcmp .gtn 127 126 (.vreg 124)) := by decide +kernel

theorem test_decode_10 :
    Shows 0x21FFF3E0 0x0 (.vidx 127 126 (.vreg 124)) ∧
    Shows 0x21FFF3E1 0x0 (.vidxw 127 126 (.vreg 124)) ∧
    Shows 0x21FC0012 0x0 (.vlane 127 2) ∧
    Shows 0x21FFF3E3 0x0 (.vgets 127 126 (.vreg 124)) := by decide +kernel

theorem test_decode_11 :
    Shows 0x23FFF3E0 0x0 (.fadd 127 126 (.vreg 124)) ∧
    Shows 0x23FFF3E1 0x0 (.fsub 127 126 (.vreg 124)) ∧
    Shows 0x23FFF3E2 0x0 (.fmul 127 126 (.vreg 124)) ∧
    Shows 0x23FFF3E3 0x0 (.ffma 127 126 (.vreg 124)) ∧
    Shows 0x23FFF3E4 0x0 (.ffms 127 126 (.vreg 124)) ∧
    Shows 0x23FFF3E5 0x0 (.fnma 127 126 (.vreg 124)) ∧
    Shows 0x23FFF3E6 0x0 (.fmin 127 126 (.vreg 124)) ∧
    Shows 0x23FFF3E7 0x0 (.fmax 127 126 (.vreg 124)) := by decide +kernel

theorem test_decode_12 :
    Shows 0x25FFF528 0x0 (.faddI 127 126 165) ∧
    Shows 0x25FFF529 0x0 (.fsubI 127 126 165) ∧
    Shows 0x25FFF52A 0x0 (.fmulI 127 126 165) ∧
    Shows 0x25FFF52B 0x0 (.ffmaI 127 126 165) ∧
    Shows 0x25FFF52C 0x0 (.ffmsI 127 126 165) ∧
    Shows 0x25FFF52D 0x0 (.fnmaI 127 126 165) ∧
    Shows 0x25FFF52E 0x0 (.fminI 127 126 165) ∧
    Shows 0x25FFF52F 0x0 (.fmaxI 127 126 165) := by decide +kernel

theorem test_decode_13 :
    Shows 0x27FC03E0 0x0 (.frcp 127 (.vreg 124)) ∧
    Shows 0x27FC03E1 0x0 (.frsq 127 (.vreg 124)) ∧
    Shows 0x27FC03E2 0x0 (.fsqrt 127 (.vreg 124)) ∧
    Shows 0x27FC03E3 0x0 (.fex2 127 (.vreg 124)) ∧
    Shows 0x27FC03E4 0x0 (.flg2 127 (.vreg 124)) ∧
    Shows 0x27FC03E5 0x0 (.fsin 127 (.vreg 124)) ∧
    Shows 0x27FC03E6 0x0 (.fcos 127 (.vreg 124)) ∧
    Shows 0x27FC03E7 0x0 (.ftanh 127 (.vreg 124)) := by decide +kernel

theorem test_decode_14 :
    Shows 0x29FFF3E0 0x0 (.fcmp .eq 127 126 (.vreg 124)) ∧
    Shows 0x29FFF3E1 0x0 (.fcmp .ne 127 126 (.vreg 124)) ∧
    Shows 0x29FFF3E2 0x0 (.fcmp .lt 127 126 (.vreg 124)) ∧
    Shows 0x29FFF3E3 0x0 (.fcmp .le 127 126 (.vreg 124)) ∧
    Shows 0x29FFF3E4 0x0 (.fcmp .gt 127 126 (.vreg 124)) ∧
    Shows 0x29FFF3E5 0x0 (.fcmp .ge 127 126 (.vreg 124)) ∧
    Shows 0x29FFF3E6 0x0 (.fcmp .un 127 126 (.vreg 124)) ∧
    Shows 0x29FFF3E7 0x0 (.fcmp .ord 127 126 (.vreg 124)) := by decide +kernel

theorem test_decode_15 :
    Shows 0x2BFBE3C0 0x0 (.dadd 126 124 (.vreg 120)) ∧
    Shows 0x2BFBE3C1 0x0 (.dsub 126 124 (.vreg 120)) ∧
    Shows 0x2BFBE3C2 0x0 (.dmul 126 124 (.vreg 120)) ∧
    Shows 0x2BFBE3C3 0x0 (.dfma 126 124 (.vreg 120)) ∧
    Shows 0x2BFBE3C4 0x0 (.dfms 126 124 (.vreg 120)) ∧
    Shows 0x2BFBE3C5 0x0 (.dnma 126 124 (.vreg 120)) ∧
    Shows 0x2BFBE3C6 0x0 (.dmin 126 124 (.vreg 120)) ∧
    Shows 0x2BFBE3C7 0x0 (.dmax 126 124 (.vreg 120)) := by decide +kernel

theorem test_decode_16 :
    Shows 0x2DFBE3C0 0x0 (.ddiv 126 124 (.vreg 120)) ∧
    Shows 0x2DF803C1 0x0 (.dsqrt 126 (.vreg 120)) ∧
    Shows 0x2DF803C2 0x0 (.drcp 126 (.vreg 120)) ∧
    Shows 0x2DF803C3 0x0 (.drsq 126 (.vreg 120)) ∧
    Shows 0x2DF803C4 0x0 (.dfloor 126 (.vreg 120)) ∧
    Shows 0x2DF803C5 0x0 (.dceil 126 (.vreg 120)) ∧
    Shows 0x2DF803C6 0x0 (.drne 126 (.vreg 120)) ∧
    Shows 0x2DF803C7 0x0 (.dtrunc 126 (.vreg 120)) := by decide +kernel

theorem test_decode_17 :
    Shows 0x2FFFE3C0 0x0 (.dcmp .eq 127 124 (.vreg 120)) ∧
    Shows 0x2FFFE3C1 0x0 (.dcmp .ne 127 124 (.vreg 120)) ∧
    Shows 0x2FFFE3C2 0x0 (.dcmp .lt 127 124 (.vreg 120)) ∧
    Shows 0x2FFFE3C3 0x0 (.dcmp .le 127 124 (.vreg 120)) ∧
    Shows 0x2FFFE3C4 0x0 (.dcmp .gt 127 124 (.vreg 120)) ∧
    Shows 0x2FFFE3C5 0x0 (.dcmp .ge 127 124 (.vreg 120)) ∧
    Shows 0x2FFFE3C6 0x0 (.dcmp .un 127 124 (.vreg 120)) ∧
    Shows 0x2FFFE3C7 0x0 (.dcmp .ord 127 124 (.vreg 120)) := by decide +kernel

theorem test_decode_18 :
    Shows 0x31FFF3E0 0x0 (.hadd2 127 126 (.vreg 124)) ∧
    Shows 0x31FFF3E1 0x0 (.hmul2 127 126 (.vreg 124)) ∧
    Shows 0x31FFF3E2 0x0 (.hfma2 127 126 (.vreg 124)) ∧
    Shows 0x31FFF3E3 0x0 (.hmax2 127 126 (.vreg 124)) ∧
    Shows 0x31FFF3E4 0x0 (.badd2 127 126 (.vreg 124)) ∧
    Shows 0x31FFF3E5 0x0 (.bmul2 127 126 (.vreg 124)) ∧
    Shows 0x31FFF3E6 0x0 (.bfma2 127 126 (.vreg 124)) ∧
    Shows 0x31FFF3E7 0x0 (.bmax2 127 126 (.vreg 124)) := by decide +kernel

theorem test_decode_19 :
    Shows 0x33FFF580 0x0 (.cvtF32I32 127 126 5 true) ∧
    Shows 0x33FFF581 0x0 (.cvtI32F32 127 126 5 true) ∧
    Shows 0x33FBF002 0x0 (.cvtF64F32 126 126) ∧
    Shows 0x33FFE543 0x0 (.cvtF32F64 127 124 5 true) ∧
    Shows 0x33FBF084 0x0 (.cvtF64I32 126 126 true) ∧
    Shows 0x33FFE585 0x0 (.cvtI32F64 127 124 5 true) ∧
    Shows 0x33FFF036 0x0 (.cvtF32F16 127 126 true true) ∧
    Shows 0x33FFE567 0x0 (.cvtF16F32 127 124 5 true true) := by decide +kernel

theorem test_decode_1A :
    Shows 0x35FFF3B8 0x0 (.cvtqE4m3 127 126 3 true true 3) ∧
    Shows 0x35FFF2A9 0x0 (.cvtqE5m2 127 126 2 true true 1) ∧
    Shows 0x35FFF73A 0x0 (.cvtqE2m1 127 126 7 false true 3) ∧
    Shows 0x35FFF333 0x0 (.cvtqI8 127 126 3 true 2) ∧
    Shows 0x35FFF0C4 0x0 (.scale 127 126 3) ∧
    Shows 0x35FFF3F5 0x0 (.dq8 127 126 3 3 true 2) ∧
    Shows 0x35FFF736 0x0 (.dq4 127 126 7 true 2) := by decide +kernel

theorem test_decode_1B :
    Shows 0x37FFF788 0x0 (.perm 127 126 30 1) ∧
    Shows 0x37FFF7A1 0x0 (.pup 127 126 30 4) ∧
    Shows 0x37FFF7A2 0x0 (.pdn 127 126 30 4) ∧
    Shows 0x37FFF7A3 0x0 (.pxor 127 126 30 4) ∧
    Shows 0x37FFF78C 0x0 (.pbcast 127 126 30 1) ∧
    Shows 0x37FFF7B5 0x0 (.vote 127 126 30 6) ∧
    Shows 0x37FFF7BE 0x0 (.redl 127 126 30 7) ∧
    Shows 0x37FFF7BF 0x0 (.scanl 127 126 30 7) := by decide +kernel

theorem test_decode_20 :
    Shows 0x41FBE3DF 0x0 (.ld 126 124 3 6 31) := by decide +kernel

theorem test_decode_21 :
    Shows 0x43FBE3BE 0x0 (.st 126 124 3 5 30) := by decide +kernel

theorem test_decode_22 :
    Shows 0x45FBE3BD 0x0 (.ldv 126 124 3 5 29) := by decide +kernel

theorem test_decode_23 :
    Shows 0x47FBCBD0 0x0 (.lds 126 121 3 6 16) := by decide +kernel

theorem test_decode_24 :
    Shows 0x49FBCBAF 0x0 (.sts 126 121 3 5 15) := by decide +kernel

theorem test_decode_25 :
    Shows 0x4BF3C3FD 0x0 (.atom 124 120 3 7 29) := by decide +kernel

theorem test_decode_26 :
    Shows 0x4DF3CBF2 0x0 (.atoms 124 121 3 7 18) := by decide +kernel

theorem test_decode_27 :
    Shows 0x4FFBE3B5 0x0 (.red 126 124 3 5 21) := by decide +kernel

theorem test_decode_28 :
    Shows 0x51E3B5BE 0x0 (.ldw 120 118 5 5 30) := by decide +kernel

theorem test_decode_29 :
    Shows 0x520004A0 0x0 (.fence 4 5) ∧
    Shows 0x5202F3F9 0x0 (.cctl 94 3 31) ∧
    Shows 0x5203F5FA 0x0 (.pref 126 2 63) ∧
    Shows 0x537AE2C3 0x0 (.migr 94 92 (.sreg 88)) := by decide +kernel

theorem test_decode_2C :
    Shows 0x5802C2D0 0x0 (.cpy 88 (.sreg 90)) ∧
    Shows 0x5802C2D1 0x0 (.cpym 88 (.sreg 90)) ∧
    Shows 0x5802C002 0x0 (.cpys 88) ∧
    Shows 0x597EC003 0x0 (.rinit 95 88) ∧
    Shows 0x597EE2D4 0x0 (.rwait 95 92 (.sreg 90)) ∧
    Shows 0x597C02D5 0x0 (.rrel 95 (.sreg 90)) ∧
    Shows 0x597002D6 0x0 (.rqry 92 (.sreg 90)) := by decide +kernel

theorem test_decode_2D :
    Shows 0x5B7C02D0 0x0 (.gang 95 (.sreg 90)) ∧
    Shows 0x5A3EF2D1 0x0 (.mma 15 94 (.sreg 90)) ∧
    Shows 0x5A3EF2D2 0x0 (.mdist 15 94 (.sreg 90)) ∧
    Shows 0x5A3C72F3 0x0 (.mtopk 15 14 94) ∧
    Shows 0x5B7C0004 0x0 (.mfence 95) ∧
    Shows 0x5A0002D5 0x0 (.mzero (.sreg 90)) ∧
    Shows 0x5BC0701E 0x0 (.mrd 112 14 true true) ∧
    Shows 0x5A3B8017 0x0 (.mwr 14 112 true) := by decide +kernel

theorem test_decode_2E :
    Shows 0x5D7EC2D0 0x0 (.snap 95 88 (.sreg 90)) ∧
    Shows 0x5D7C02D1 0x0 (.sacq 95 (.sreg 90)) ∧
    Shows 0x5D7C02D2 0x0 (.srel 95 (.sreg 90)) ∧
    Shows 0x5D7C02D3 0x0 (.vstep 95 (.sreg 90)) ∧
    Shows 0x5D7AC2C4 0x0 (.vqry 94 88 (.sreg 88)) ∧
    Shows 0x5D7C02D5 0x0 (.vpin 95 (.sreg 90)) ∧
    Shows 0x5D7C02D6 0x0 (.vunpin 95 (.sreg 90)) := by decide +kernel

theorem test_decode_2F :
    Shows 0x5E02C280 0x0 (.hgath 88 (.sreg 80)) ∧
    Shows 0x5E02C281 0x0 (.hred 88 (.sreg 80)) ∧
    Shows 0x5E02C282 0x0 (.hcvt 88 (.sreg 80)) ∧
    Shows 0x5F7002D3 0x0 (.hqry 92 (.sreg 90)) := by decide +kernel

theorem test_decode_30 :
    Shows 0x617EC280 0x0 (.cpostPut 95 88 (.sreg 80)) ∧
    Shows 0x617EC281 0x0 (.cpostrContrib 95 88 (.sreg 80)) ∧
    Shows 0x617EE2D2 0x0 (.carmArm 95 92 (.sreg 90)) ∧
    Shows 0x617EE003 0x0 (.chalo 95 92) ∧
    Shows 0x617EF2D4 0x0 (.cwait 95 94 (.sreg 90)) ∧
    Shows 0x617002D5 0x0 (.cqry 92 (.sreg 90)) := by decide +kernel

theorem test_decode_31 :
    Shows 0x63FBF280 0x0 (.gemit 126 126 (.sreg 80)) ∧
    Shows 0x6202C2C1 0x0 (.gflush 88 (.sreg 88)) ∧
    Shows 0x63FC064A 0x0 (.pxin 127 3 false 9) ∧
    Shows 0x6203F003 0x0 (.pxout 126) ∧
    Shows 0x62000004 0x0 (.pxkill) ∧
    Shows 0x6202C2D5 0x0 (.pxrate 88 (.sreg 90)) := by decide +kernel

theorem test_decode_32 :
    Shows 0x65FF8280 0x0 (.march 127 112 (.sreg 80)) ∧
    Shows 0x65FFF281 0x0 (.msmp 127 126 (.sreg 80)) ∧
    Shows 0x65FFF282 0x0 (.mhash 127 126 (.sreg 80)) ∧
    Shows 0x65700003 0x0 (.mqry 92) := by decide +kernel

theorem test_decode_33 :
    Shows 0x677C02D0 0x0 (.ctxnew 95 (.sreg 90)) ∧
    Shows 0x677EF2C1 0x0 (.ctxgrant 95 94 (.sreg 88)) ∧
    Shows 0x677EE2C2 0x0 (.ctxrevoke 95 92 (.sreg 88)) ∧
    Shows 0x677EC2C3 0x0 (.ctxrunRun 95 88 (.sreg 88)) ∧
    Shows 0x677EF2D4 0x0 (.ctxstopSlice 95 94 (.sreg 90)) ∧
    Shows 0x677EF2C5 0x0 (.ctxsave 95 94 (.sreg 88)) ∧
    Shows 0x677EF2C6 0x0 (.ctxload 95 94 (.sreg 88)) ∧
    Shows 0x6772F2D7 0x0 (.ctxq 92 94 (.sreg 90)) := by decide +kernel

theorem test_decode_34 :
    Shows 0x680002C0 0x0 (.tret (.sreg 88)) ∧
    Shows 0x680002C1 0x0 (.trefl (.sreg 88)) ∧
    Shows 0x680002C2 0x0 (.tclr (.sreg 88)) ∧
    Shows 0x697EF2C3 0x0 (.scrub 95 94 (.sreg 88)) ∧
    Shows 0x697EF2C4 0x0 (.alog 95 94 (.sreg 88)) ∧
    Shows 0x697EE2C5 0x0 (.keyselBind 95 92 (.sreg 88)) := by decide +kernel

theorem test_decode_35 :
    Shows 0x6BFFE000 0x0 (.spawn 127 124) ∧
    Shows 0x6B7EE2C1 0x0 (.cont 95 92 (.sreg 88)) ∧
    Shows 0x6A03F3E2 0x0 (.jdec 126 (.vreg 124)) ∧
    Shows 0x6A02F81B 0x0 (.lcancel 95 3) ∧
    Shows 0x6B7AD81C 0x0 (.lstat 94 91 3) := by decide +kernel

/-! ## Operand forms, the spec's worked words, and words that are none -/

/-- The B codes of Table 2.5 and R134: a register, a broadcast, zero and a literal. -/
theorem test_decode_operand_forms :
    Shows 0x077EF7F0 0 (.sadd 95 94 .zero) ∧ Shows 0x077EF7F8 0x89ABCDEF (.sadd 95 94 (.lit 0x89ABCDEF)) ∧
    Shows 0x15FFF6F8 0 (.vadd 127 126 (.bcast 95)) ∧ Shows 0x15FFF7F0 0 (.vadd 127 126 .zero) ∧
    Shows 0x15FFF7F8 7 (.vadd 127 126 (.lit 7)) ∧ Shows 0x107CF7F0 0 (.mand 31 30 .zero) ∧
    Shows 0x107CF7F8 0xF (.mand 31 30 (.lit 0xF)) := by decide +kernel

/-- Words the spec writes out. -/
theorem test_decode_examples :
    decode 0x08204008 0 = .ok (.saddI 8 8 1) ∧ decode 0x240401E2 0 = .ok (.fmulI 1 0 0x3C) ∧
    decode 0x22080E00 0 = .ok (.fadd 2 1 (.bcast 64)) ∧ decode 0x220C17F8 0x3DCCCCCD = .ok (.fadd 3 2 (.lit 0x3DCCCCCD)) ∧
    decode 0x02240011 0 = .ok (.bz 9 2) ∧ decode 0x01FF83E3 0 = .ok (.waitc 31 31 0 31) ∧
    decode 0x32041043 0 = .ok (.cvtF32F64 1 2 0 true) ∧ decode 0x34041080 0 = .ok (.cvtqE4m3 1 2 0 true false 0) ∧
    decode 0x340C1004 0 = .ok (.scale 3 2 0) ∧ decode 0x20080012 0 = .ok (.vlane 2 2) ∧
    decode 0x10042806 0 = .ok (.mset 1 5) ∧ decode 0x36509806 0 = .ok (.redl 20 19 0 0) ∧
    decode 0x36346005 0 = .ok (.vote 13 12 0 0) ∧ decode 0x40182200 0 = .ok (.ld 6 4 2 0 0) ∧
    decode 0x4A20121B 0 = .ok (.atom 8 2 2 0 27) ∧ decode 0x4E282714 0 = .ok (.red 10 4 7 0 20) ∧
    decode 0x58004060 0 = .ok (.cpy 8 (.sreg 12)) ∧ decode 0x58406003 0 = .ok (.rinit 16 12) ∧
    decode 0x5A0007FD 3 = .ok (.mzero (.lit 3)) ∧ decode 0x5C2207F8 6 = .ok (.snap 8 64 (.lit 6)) ∧
    decode 0x6052121C 0 = .ok (.cwait 20 66 (.sreg 67)) ∧ decode 0x62084040 0 = .ok (.gemit 2 8 (.sreg 8)) ∧
    decode 0x6A221221 0 = .ok (.cont 8 66 (.sreg 68)) := by decide +kernel

/-- The words that share one with another row decode to the first of them; words without an instruction do not decode. -/
theorem test_decode_shared_and_none :
    encode (.carmAdd 8 2 .zero) = encode (.carmArm 8 2 .zero) ∧ Instr.primary (.ctxstopHalt 1 2 .zero) = .ctxstopSlice 1 2 .zero ∧
    decode 0x38000000 0 = .error .unassigned ∧ decode 0x54000000 0 = .error .unassigned ∧
    decode 0x6C000000 0 = .error .unassigned ∧ decode 0x02000007 0 = .error .unassigned := by decide +kernel

/-! ## Ill-formed terms, one for each check of WellFormed -/

/-- Register groups that are misaligned, out of range, or no register, triple, special register or tile. -/
theorem test_wf_operands :
    Instr.wf (.dadd 1 2 (.vreg 4)) = false ∧ Instr.wf (.dadd 2 1 (.vreg 4)) = false ∧ Instr.wf (.dadd 2 4 (.vreg 5)) = false ∧
    Instr.wf (.sadd 96 0 .zero) = false ∧ Instr.wf (.sadd 0 0 (.sreg 127)) = false ∧ Instr.wf (.sadd64 95 0 .zero) = false ∧
    Instr.wf (.mmov 32 .zero) = false ∧ Instr.wf (.rdsr 0 16) = false ∧ Instr.wf (.mdist 16 0 .zero) = false ∧
    Instr.wf (.jdec 0 (.bcast 96)) = false ∧ Instr.wf (.ldw 4 0 5 0 0) = false ∧ Instr.wf (.dq8 0 1 0 0 true 0) = false ∧
    Instr.wf (.atom 2 0 3 7 0) = false ∧ Instr.wf (.yield 2 1 2) = false ∧ Instr.wf (.rwait 0 1 .zero) = false := by decide +kernel

/-- Field values that a single instruction does not allow. -/
theorem test_wf_fields :
    Instr.wf (.yield 5 0 0) = false ∧ Instr.wf (.wrsr 10 .zero) = false ∧ Instr.wf (.vlane 0 3) = false ∧
    Instr.wf (.cvtI32F32 0 0 6 false) = false ∧ Instr.wf (.cvtqI8 0 0 4 false 0) = false ∧ Instr.wf (.dq8 0 0 0 2 false 0) = false ∧
    Instr.wf (.perm 0 0 0 2) = false ∧ Instr.wf (.pup 0 0 0 5) = false ∧ Instr.wf (.vote 0 0 0 7) = false ∧
    Instr.wf (.ld 0 0 5 0 0) = false ∧ Instr.wf (.st 0 0 2 2 0) = false ∧ Instr.wf (.ldv 0 0 2 1 0) = false ∧
    Instr.wf (.lds 0 0 2 1 0) = false ∧ Instr.wf (.ldw 0 0 6 0 0) = false ∧ Instr.wf (.atom 0 0 6 1 0) = false ∧
    Instr.wf (.atoms 0 0 2 0 3) = false ∧ Instr.wf (.red 0 0 2 6 0) = false ∧ Instr.wf (.fence 5 0) = false ∧
    Instr.wf (.fence 0 6) = false ∧ Instr.wf (.cctl 2 0 0) = false ∧ Instr.wf (.pref 0 3 0) = false ∧
    Instr.wf (.migr 0 0 .zero) = false ∧ Instr.wf (.hred 0 (.lit 0)) = false ∧ Instr.wf (.mtopk 1 1 0) = false ∧
    Instr.wf (.mrd 0 1 true false) = false ∧ Instr.wf (.pxin 0 2 true 0) = false ∧ Instr.wf (.lcancel 1 4) = false := by
  decide +kernel

/-! ## Single steps -/


/-- A context without a way of the dies' caches, where which bank takes a line does not matter. -/
def State.uncached (s : State) : State := s.onCtx 0 fun c => { c with own := { c.own with ways := [] } }

/-- What one step leaves of a word, with the literal after it, for a tray that starts as `t`. -/
def after (t : Tray) (w lit : Nat) : State :=
  match step (State.uncached { State.reset.withFetchWord 64 (w + lit * 2 ^ 32) with trays := [(0, t)] }) with
  | .next s => s
  | .fault _ => State.reset
  | .refused _ => State.reset

/-- The tray after the step. -/
def trayAfter (t : Tray) (w lit : Nat) : Tray := ((after t w lit).trays.get? 0).getD loadTray

/-- A tray with scalar registers. -/
def withS (l : List (Nat × Word)) : Tray := l.foldl (fun t x => t.setSreg 0 x.1 x.2) loadTray

/-- A tray with vector registers of thread 0: register and value. -/
def withV (l : List (Nat × Word)) : Tray :=
  { loadTray with vregs := l.foldl (fun m x => smSet m (vkey x.1 0) x.2) [] }

/-- Scalar register k after the step. -/
def sOf (l : List (Nat × Word)) (w lit k : Nat) : Word := (trayAfter (withS l) w lit).sreg 0 k

/-- What a vector word leaves in register k of thread 0, with FPSTAT. -/
def vOf (l : List (Nat × Word)) (w lit k : Nat) : Word × BitVec 5 :=
  let t := trayAfter (withV l) w lit
  (t.phys k 0, t.fpstat)

/-- The examples of R113 and R114, with s8 = 0xFFFFFFF0 and s9 = 3: SMULH, SSRA by a literal 40, SSHR by 255, SCMP. -/
theorem test_scalar_examples :
    let r : List (Nat × Word) := [(8, 0xFFFFFFF0), (9, 3)]
    sOf r 0x0628404B 0 10 = 0xFFFFFFFF ∧ sOf r 0x0A2847FA 40 10 = 0xFFFFFFFF ∧ sOf r 0x0C2847F9 0 10 = 0 ∧
    sOf r 0x0E284844 0 10 = 0xFFFFFFFF ∧ sOf r 0x0E284842 0 10 = 0 := by decide +kernel

/-- The rows of Table 4.11 that write an FP32, an integer or a half: result and flags (NV 1, DZ 2, OF 4, UF 8, NX 16 as
R97 numbers them). -/
theorem test_conversions :
    vOf [(2, 1), (3, 0x3FF00000)] 0x32041003 0 1 = (0x3F800000, fNX) ∧
    vOf [(3, 0x7E700000)] 0x32041003 0 1 = (0x7F800000, fOF ||| fNX) ∧
    vOf [(3, 0x7E700000)] 0x32041043 0 1 = (0x7F7FFFFF, fNX) ∧
    vOf [(2, 0xC0300000)] 0x32041101 0 1 = (0xFFFFFFFE, fNX) ∧
    vOf [(2, 0xC0300000)] 0x32041201 0 1 = (0xFFFFFFFD, fNX) ∧
    vOf [(2, 0x7FC00000)] 0x32041001 0 1 = (0, fNV) ∧
    vOf [(2, 0x50000000)] 0x32041081 0 1 = (0xFFFFFFFF, fNV) ∧
    vOf [(2, 0x01000001)] 0x32041000 0 1 = (0x4B800000, fNX) := by decide +kernel

theorem test_half_conversions :
    vOf [(2, 0x477FF000), (3, 0x3F800000)] 0x32041007 0 1 = (0x3C007C00, fOF ||| fNX) ∧
    vOf [(2, 0x477FF000), (3, 0x3F800000)] 0x32041047 0 1 = (0x3C007BFF, fNX) ∧
    vOf [(2, 0x3F808000), (3, 0x3F818000)] 0x32041027 0 1 = (0x3F823F80, fNX) ∧
    vOf [(2, 0x00013C00)] 0x32041016 0 1 = (0x33800000, 0) := by decide +kernel

/-- The rows that quantise and dequantise. -/
theorem test_quantising :
    vOf [(2, 0x43EB0000)] 0x34041000 0 1 = (0x7F, fOF ||| fNX) ∧ vOf [(2, 0x43EB0000)] 0x34041080 0 1 = (0x7E, fNX) ∧
    vOf [(2, 0x47700000)] 0x34041001 0 1 = (0x7C, fOF ||| fNX) ∧ vOf [(2, 0x40A00000)] 0x34041302 0 1 = (0x6000, fNX) ∧
    vOf [(2, 0xC3488000)] 0x34041203 0 1 = (0x00800000, fNX) ∧ vOf [(2, 0x7E00)] 0x34041105 0 1 = (0x43E00000, 0) ∧
    vOf [(2, 0x6000)] 0x34041306 0 1 = (0x40800000, 0) := by decide +kernel

/-- The examples of VBFE and VBFI (R118), with v3 = 0x12345678. -/
theorem test_bit_fields :
    vOf [(3, 0x12345678)] 0x1C101FFE 0x80000C08 4 = (0x456, 0) ∧ vOf [(3, 0x12345678)] 0x1C101FFE 0x80000810 4 = (0x34, 0) ∧
    vOf [(3, 0x12345678)] 0x1C101FFE 0x8000081C 4 = (1, 0) ∧
    vOf [(3, 0x12345678), (5, 0xFFFFFFFF)] 0x1C0C2FFF 0x00000404 3 = (0x123456F8, 0) := by decide +kernel

/-- SADD wraps; a scalar source that is also the destination is read first. -/
theorem test_sadd_wraps : sOf [(8, 0xFFFFFFFF)] 0x08204008 0 8 = 0 := by decide +kernel

/-- DRNE of 2.5 and DFLOOR of −0.5 (R128): 2.0 and −1.0. -/
theorem test_float64_rounding :
    vOf [(2, 0), (3, 0x40040000)] 0x2C080016 0 3 = (0x40000000, 0) ∧ vOf [(2, 0), (3, 0xBFE00000)] 0x2C080014 0 3 = (0xBFF00000, 0) := by
  decide +kernel

/-- VLANE.row: thread 40 is in row 1 (R121). -/
theorem test_vlane_row : (trayAfter loadTray 0x20080012 0).phys 2 40 = 1 := by decide +kernel

/-- MSET: only thread 0 holds a non-zero word. -/
theorem test_mset : (trayAfter (withV [(5, 7)]) 0x10042806 0).sreg 0 3 = 1 := by decide +kernel

/-- BZ with displacement 2: taken to word 2, not taken to word 1 (R42). -/
theorem test_bz : (trayAfter loadTray 0x02240011 0).p0.pc = 2 ∧ (trayAfter (withS [(9, 1)]) 0x02240011 0).p0.pc = 1 := by
  decide +kernel

/-- EXIT of every thread ends the tray (R139). -/
theorem test_exit : (trayAfter loadTray 0x00000001 0).wait = .ended := by decide +kernel

/-- A store of four bytes by thread 0 lands least significant byte first (R3); v4 is the data, v3:v2 the address 0x100. -/
theorem test_store_bytes :
    let m := (after { withV [(2, 0x100), (4, 0xA1B2C3D4)] with p0 := { loadTray.p0 with mask := 1 } } 0x42101200 0).mem
    smGet m 0x100 = 0xD4 ∧ smGet m 0x101 = 0xC3 ∧ smGet m 0x102 = 0xB2 ∧ smGet m 0x103 = 0xA1 ∧ smGet m 0x104 = 0 := by
  decide +kernel

/-- A load is counted and binds its register; the data is what memory holds at address 0, the load's own word. -/
theorem test_load_pending :
    let t := trayAfter { withV [] with p0 := { loadTray.p0 with mask := 1 } } 0x40101200 0
    t.loads = 1 ∧ (t.pend.map fun p => p.vdst) = [[4]] ∧ (t.pend.map fun p => p.data) = [some [.v (vkey 4 0) 0x40101200]] := by
  decide +kernel

/-- FRCP of zero with FPCTL.TDZ: FPDIV0 (bit 14) is taken at the handler with EPC at the word, nothing written (R44, R99). -/
theorem test_divide_trap :
    let s0 := { State.reset.withFetchWord 32 0x26040000 with
      ctxs := [(0, { rootCtx 15#4 0 with root := 0x4000, hmask := 2 ^ 14, handler := 64 })],
      trays := [(0, { loadTray with fpctl := 16 })] }
    (match step s0 with
      | .next s => (s.trays.get? 0).map fun t => (t.cause.toNat, t.epc.toNat, t.p0.pc.toNat, t.fpstat.toNat, (t.phys 1 0).toNat)
      | _ => none) = some (2 ^ 14, 0, 64, 0, 0) := by decide +kernel

/-! ## States and operands that meet the hypotheses of the statements

A statement whose clauses ask only that their instruction stands to issue has its witnesses in the words above:
`demo_issuing` and `demo_engine` turn what `Shows` says of an instruction into `Issuing` and `EngineIssuing`. -/

/-- ScalarResults, ScalarCompare, VectorResults, ConversionResults, RegisterFrames and the like: operands at the top of
their ranges. -/
theorem witness_issuing :
    Issuing (demoWith loadTray) demoCur loadTray (Instr.sadd64 94 92 (.sreg 88)).opnds ∧
    Issuing (demoWith loadTray) demoCur loadTray (Instr.vmad64 126 125 (.lit 0)).opnds ∧
    Issuing (demoWith loadTray) demoCur loadTray (Instr.mset 31 127).opnds ∧
    EngineIssuing (demoWith loadTray) demoCur loadTray (.ctxq 92 95 (.sreg 94)) ∧ NothingDue demoCur loadTray :=
  ⟨demo_issuing (by decide +kernel), demo_issuing (by decide +kernel), demo_issuing (by decide +kernel),
    demo_engine (by decide +kernel), .inr (by decide +kernel)⟩

/-- Where the sources of the demo's word are read. -/
def src (t : Tray) : Src := demoCur.src (demoWith t) t

/-- IndexedResults: the highest register in range, and the lowest that is not. -/
theorem witness_IndexedResults :
    let t := withV [(1, 255)]
    let u := withV [(1, 256)]
    let w := withV [(1, 95)]
    let x := withV [(1, 96)]
    ((maskThreads (src t).m0).any fun th => decide ((src t).t.n ≤ ((src t).v 1 th + (src t).vb th .zero).toNat)) = false ∧
    ((maskThreads (src u).m0).any fun th => decide ((src u).t.n ≤ ((src u).v 1 th + (src u).vb th .zero).toNat)) = true ∧
    ((maskThreads (src w).m0).any fun th => decide (96 ≤ ((src w).v 1 th + (src w).vb th .zero).toNat)) = false ∧
    ((maskThreads (src x).m0).any fun th => decide (96 ≤ ((src x).v 1 th + (src x).vb th .zero).toNat)) = true := by
  decide +kernel

/-- Float32Results and the other floating-point statements: no enabled trap met, and FPDIV0 met with FPCTL.TDZ set. -/
theorem witness_Float32Results :
    metTraps (demoWith loadTray) demoCur loadTray
      (fun th => fmtF32.rcp (src loadTray).en ((src loadTray).fb th .zero)) = [] ∧
    (let t : Tray := { loadTray with fpctl := 16 }
     metTraps (demoWith t) demoCur t (fun th => fmtF32.rcp (src t).en ((src t).fb th .zero)) = [.fpdiv0]) ∧
    (let t : Tray := { loadTray with fpctl := 8 }
     metTraps (demoWith t) demoCur t (fun th => fmtF64.sqrt (src t).enD ((src t).db th (.lit 0xBF800000))) = [.fpinv]) := by
  decide +kernel

/-- A path slot at word 0 with threads 48 to 95. -/
def highPath : Path := ⟨0, BitVec.ofNat 96 (2 ^ 96 - 2 ^ 48), [], false, .no, none, none, false, false, none⟩

/-- A dual-path tray whose slots hold the lower and the upper 48 threads. -/
def dualTray (p1 : Path) : Tray :=
  { withS [(3, 0xFFFFFFFF), (4, 0xFFFFFFFF), (5, 0xFFFFFFFF)] with
    dual := true, p0 := { loadTray.p0 with mask := BitVec.ofNat 96 (2 ^ 48 - 1) }, p1 := some p1 }

/-- CrossLaneResults: members in one path slot, the highest P of each function, no trap met. -/
theorem witness_CrossLaneResults :
    let t := withS [(3, 0xFFFFFFFF), (4, 1), (5, 0x80000000)]
    let r := src t
    r.crosses 1 = false ∧ r.t.p1 = none ∧ (r.t.path r.i).cross ≠ .done demoCur.pc ∧ r.parts 1 ≠ 0 ∧
    (dualTray highPath).p1 ≠ none ∧ (src (dualTray highPath)).crosses 31 = false ∧ highPath.cross ≠ .waits demoCur.pc ∧
    metIn (demoWith t) demoCur t (r.parts 1) (fun th => r.laneOr (r.parts 1) 0 th (permLane 1 (r.v 0 th) th) (permLane 1 (r.v 0 th) th < 96)) = [] ∧
    metIn (demoWith t) demoCur t (r.parts 1) (fun th => r.laneOr (r.parts 1) 0 th (th + 2 ^ 4) (th % 32 + 2 ^ 4 < 32)) = [] ∧
    metIn (demoWith t) demoCur t (r.parts 1) (fun th => ((r.v 0 ((segment true (r.parts 1) th).headD th)).toNat, 0)) = [] ∧
    metIn (demoWith t) demoCur t (r.parts 1) (fun th => (voteWord r 0 6 (r.parts 1) th, 0)) = [] ∧
    metIn (demoWith t) demoCur t (r.parts 1) (fun th => reduce r 0 3 (segment false (r.parts 1) th)) = [] := by decide +kernel

/-- CrossLaneConvergence: the other slot waits nowhere, at this word, at another word, at a JOIN; this slot has performed
the word or may go alone. -/
theorem witness_CrossLaneConvergence :
    (let t := dualTray highPath
     let r := src t
     r.t.p1 ≠ none ∧ r.crosses 1 = true ∧ (r.t.path r.i).cross = .no ∧ (r.t.path (1 - r.i)).cross = .no ∧
       (r.t.path (1 - r.i)).joinWait = false) ∧
    (let t := { dualTray highPath with p0 := { loadTray.p0 with cross := .done 0 } }
     (src t).t.p1 ≠ none ∧ ((src t).t.path (src t).i).cross = .done demoCur.pc ∧
       issuable demoCur t (Instr.pup 0 0 1 4).opnds = true) ∧
    (let t := dualTray { highPath with cross := .waits 0 }
     let r := src t
     (r.t.path r.i).cross = .no ∧ (r.t.path (1 - r.i)).cross = .waits demoCur.pc ∧
       metIn (demoWith t) demoCur t (r.bothParts 1) (fun th => reduce r 0 7 (segment false (r.bothParts 1) th)) = []) ∧
    (let t := dualTray { highPath with cross := .waits 7 }
     let r := src t
     (r.t.path (1 - r.i)).cross = .waits 7 ∧ (7 : Pc) ≠ demoCur.pc ∧
       metIn (demoWith t) demoCur t (r.parts 1) (fun th => (voteWord r 0 6 (r.parts 1) th, 0)) = []) ∧
    (let t := dualTray { highPath with joinWait := true }
     let r := src t
     (r.t.path (1 - r.i)).cross = .no ∧ (r.t.path (1 - r.i)).joinWait = true ∧
       metIn (demoWith t) demoCur t (r.parts 1) (fun th => reduce r 0 7 (segment false (r.parts 1) th)) = []) ∧
    (let t := { dualTray highPath with p0 := { loadTray.p0 with cross := .alone 0 } }
     ((src t).t.path (src t).i).cross = .alone demoCur.pc) ∧
    issuable demoCur (dualTray highPath) (Instr.redl 0 0 1 7).opnds = true ∧
    issuable demoCur (dualTray { highPath with cross := .waits 0 }) (Instr.scanl 0 0 1 7).opnds = true := by decide +kernel

/-- BranchResults: taken and not taken, a target that is legal and one that is not. -/
theorem witness_BranchResults :
    (src loadTray).s 9 == 0 ∧ ((src (withS [(9, 1)])).s 9 == 0) = false ∧
    (demoWith loadTray).targetOk 0 0 ((src loadTray).target 2) = true ∧
    ((src (withS [(9, 0x4000)])).s2 8).toNat = 2 ^ 46 ∧ ((src (withS [(8, 0xFFFFFFFF), (9, 0x3FFF)])).s2 8).toNat = 2 ^ 46 - 1 ∧
    issuable demoCur (withS [(9, 0x4000)]) (Instr.jmpi 8).opnds = true := by decide +kernel

/-- SpecialRegisterResults and SpecialRegisterNumbers: both widths, the bounds of VWIN and of the register numbers. -/
theorem witness_SpecialRegisterResults :
    sprRegs 0 = 1 ∧ sprRegs 14 = 1 ∧ sprRegs 1 = 2 ∧ sprRegs 12 = 2 ∧ sprRegs 15 = 2 ∧
    issuable demoCur loadTray (Instr.rdsr 94 15).opnds = true ∧ issuable demoCur loadTray (Instr.wrsr 12 (.sreg 94)).opnds = true ∧
    issuable demoCur loadTray (Instr.wrsr 0 .zero).opnds = true ∧
    ((src loadTray).t.p1 = none ∧ ((src loadTray).sb (.lit 992)).toNat % 32 = 0 ∧ ((src loadTray).sb (.lit 992)).toNat < 1024) ∧
    ¬(((src loadTray).sb (.lit 1024)).toNat < 1024) ∧ (16 : BitVec 7).toNat = 16 ∧ (127 : BitVec 7).toNat % 2 = 1 := by
  decide +kernel

/-- A core with a request of another tray in its grow queue. -/
def growDemo (n2 : Nat) : State :=
  { demoWith loadTray with trays := [(0, loadTray), (1, { loadTray with n := n2, idx := 1, wait := .grow 1024 5 3 })] }

/-- RegisterGrowthResults: the bounds of each clause. -/
theorem witness_RegisterGrowthResults :
    let s := demoWith loadTray
    let r := src loadTray
    r.t.p1 = none ∧ r.chain = false ∧ growLegal (r.sb (.lit 16)).toNat = true ∧ (r.sb (.lit 16)).toNat ≤ r.t.n ∧
    growLegal (r.sb (.lit 1024)).toNat = true ∧ r.t.n < (r.sb (.lit 1024)).toNat ∧
    s.batchRegs loadTray.batch + (1024 - loadTray.n) ≤ 2048 ∧
    (s.growQueue 0 = [] ∧ s.regsUsed 0 + (1024 - loadTray.n) ≤ 1984) ∧
    ¬((growDemo 512).growQueue 0 = []) ∧ (growDemo 512).batchRegs loadTray.batch + (1024 - loadTray.n) ≤ 2048 ∧
    (r.sb (.lit 256)).toNat = r.t.n ∧ 2048 < (growDemo 1040).batchRegs loadTray.batch + (1024 - loadTray.n) ∧
    growLegal (r.sb (.lit 1040)).toNat = false ∧ growLegal (r.sb .zero).toNat = false ∧
    oldestGrow ((growDemo 512).growQueue 0) = some (5, 1, 1024, 3) ∧ (growDemo 512).regsUsed 0 + (1024 - 512) ≤ 2048 ∧
    issuable demoCur loadTray (Instr.reggrow (.lit 1024)).opnds = true := by decide +kernel

/-- DualPathResults, BRD: no thread taken, all, and some with one slot and an empty stack, and with both slots. -/
theorem witness_DualPathResults_brd :
    let one : Tray := { withS [(6, 7)] with dual := true }
    (src one).t.dual = true ∧ (src one).m0 &&& (src one).m 3 = 0 ∧
    ((src one).m0 &&& (src one).m 0 ≠ 0 ∧ (src one).m0 &&& ~~~(src one).m 0 = 0) ∧
    ((src one).m0 &&& (src one).m 2 ≠ 0 ∧ (src one).m0 &&& ~~~(src one).m 2 ≠ 0 ∧ (src one).t.p1 = none ∧
      ((one.advance demoCur).path 0).stack = []) ∧
    (demoWith one).targetOk 0 0 ((src one).target 3) = true ∧
    (let t := dualTray highPath
     let u := { t with sregs := smSet t.sregs 6 7 }
     (src u).m0 &&& (src u).m 2 ≠ 0 ∧ (src u).m0 &&& ~~~(src u).m 2 ≠ 0 ∧ (src u).t.p1 ≠ none ∧
       ((u.advance demoCur).path 0).stack.length < 16) ∧
    (src loadTray).t.dual = false ∧ issuable demoCur one (Instr.brd 31 0).opnds = true := by decide +kernel

/-- A stack entry of the lower 48 threads, of which the first 8 are pending. -/
def stackEntry (merge : Bool) (j : Option Pc) : StackEntry := ⟨BitVec.ofNat 96 (2 ^ 48 - 1), 0xFF, 5, j, merge⟩

/-- DualPathResults, JOIN: a pending entry, a merged one, an empty stack alone and beside another slot; two slots at one
JOIN. -/
theorem witness_DualPathResults_join :
    (let t := { dualTray highPath with p0 := { loadTray.p0 with stack := [stackEntry false none] } }
     (src t).t.dual = true ∧ ((t.advance demoCur).path 0).stack = [stackEntry false none] ∧ issuable demoCur t [] = true) ∧
    (let t := { dualTray highPath with p0 := { loadTray.p0 with stack := [stackEntry true (some 0)] } }
     ((t.advance demoCur).path 0).stack = [stackEntry true (some 0)] ∧ (stackEntry true (some 0)).j = some demoCur.pc) ∧
    (let t := { loadTray with dual := true }
     ((t.advance demoCur).path 0).stack = [] ∧ (src t).t.p1 = none) ∧
    (let t := dualTray highPath
     ((t.advance demoCur).path 0).stack = [] ∧ (src t).t.p1 ≠ none) ∧
    (let t := { dualTray { highPath with joinWait := true } with p0 := { loadTray.p0 with joinWait := true } }
     t.p1 = some { highPath with joinWait := true } ∧ t.p0.joinWait = true ∧ t.wait = .run ∧ t.cause = 0 ∧ t.leave = none ∧
       (t.pend.all fun p => p.sdst.isEmpty && p.vdst.isEmpty) = true ∧ t.p0.pc = highPath.pc) := by decide +kernel

/-- WaitAndEndResults: each condition of its clauses. -/
theorem witness_WaitAndEndResults :
    let busy : Tray := { loadTray with loads := 31 }
    let yielding : Tray := { loadTray with wait := .yield 3 0 0 4 none }
    issuable demoCur loadTray [] = true ∧ (src loadTray).t.p1 = none ∧ (src (dualTray highPath)).t.p1 ≠ none ∧
    (src busy).t.under ⟨30, 31, 31, 31⟩ = false ∧ (src busy).t.under ⟨31, 31, 31, 31⟩ = true ∧
    (src loadTray).t.under ⟨0, 0, 0, 0⟩ = true ∧
    issuable demoCur loadTray (Instr.yield 4 95 94).opnds = true ∧ ((src loadTray).s2 94).toNat < 2 ^ 46 ∧
    (demoWith loadTray).targetOk 0 0 (((src loadTray).s2 94).setWidth 46) = true ∧
    (demoWith loadTray).wakeCheck 0 (loadTray.advance demoCur) 0 0 0 false = .waits ∧
    (demoWith loadTray).wakeCheck 0 (loadTray.advance demoCur) 3 0 0 false = .ready [] 0 none ∧
    (demoWith busy).wakeCheck 0 (busy.advance demoCur) 3 0 0 false = .waits ∧
    (yielding.leave = none ∧ ((demoWith yielding).wakeClock 3 0 0).wakeCheck 0 yielding 3 0 0 true = .ready [] 0 none) ∧
    (let z : Tray := { loadTray with wait := .yield 0 0 0 4 none }
     ((demoWith z).wakeClock 0 0 0).wakeCheck 0 z 0 0 0 true = .ready [] 0 none) ∧
    ((loadTray.advance demoCur).exitThreads (src loadTray).m0).live = 0 ∧
    (let t : Tray := { loadTray with p0 := { loadTray.p0 with mask := 1 } }
     ((t.advance demoCur).exitThreads (src t).m0).live ≠ 0) := by decide +kernel

/-- TrapInstructionResults: TRET to a legal word with every cause cleared, and with one left, and to a word that is none;
TREFL with and without a set cause. -/
theorem witness_TrapInstructionResults :
    let t : Tray := { loadTray with cause := 6, epc := 0 }
    let a := t.advance demoCur
    (demoWith t).targetOk 0 a.ctx (epcPc (src t).t.epc) (epcS (src t).t.epc) = true ∧ a.cause &&& ~~~(src t).sbz64 (.lit 6) = 0 ∧
    a.cause &&& ~~~(src t).sbz64 (.lit 2) ≠ 0 ∧ a.cause &&& (src t).sbz64 .zero = 0 ∧ a.cause &&& (src t).sbz64 (.lit 2) ≠ 0 ∧
    issuable demoCur t (Instr.tret (.lit 6)).opnds = true ∧ issuable demoCur t (Instr.trefl (.sreg 94)).opnds = true ∧
    (let u : Tray := { t with epc := 1 }
     let s := { demoWith u with mem := (demoWith u).mem ++ [] }
     { s with mem := smSet (smSet (smSet (smSet s.mem 0 0xF8) 1 0x07) 2 0) 3 0x06 }.targetOk 0 0 (epcPc (src u).t.epc)
       (epcS (src u).t.epc) = false) := by decide +kernel

/-- ExceptionEntry: a handled cause, a second cause while one is handled, a cause without handler. -/
theorem witness_ExceptionEntry :
    let s := { demo with ctxs := [(0, { rootCtx 15#4 0 with root := 0x4000, hmask := 1, handler := 64 })] }
    causeBits [.illegal] &&& ~~~(s.ctx 0).handled = 0 ∧ (s.ctx 0).handler ≠ 0 ∧
    (causeBits [.sliceend] &&& departBits &&& ~~~(s.ctx 0).handled ≠ 0) ∧
    (let t : Tray := { loadTray with cause := 2 }
     t.cause ≠ 0 ∧ causeBits [.illegal] &&& departBits &&& ~~~(s.ctx 0).handled = 0 ∧
       (t.cause ||| causeBits [.illegal]) &&& ~~~departBits ≠ 0) ∧
    (loadTray.cause = 0 ∧ causeBits [.align] &&& departBits = 0 ∧ causeBits [.align] &&& ~~~(s.ctx 0).handled ≠ 0 ∧
      loadTray.wait = .run) := by decide +kernel


/-- A tray of which only thread 0 is active, with registers of that thread. -/
def oneThread (l : List (Nat × Word)) : Tray := { withV l with p0 := { loadTray.p0 with mask := 1 } }

/-- The same where word 0 has taken turn 5. -/
def turnTray (l : List (Nat × Word)) : Tray := { withV l with p0 := { loadTray.p0 with mask := 1, turn := some (0, 5) } }

/-- The first and the last core of the package, the reported turn of each 6. -/
def reported (s : State) : State := { s with cores := [(0, { Core.init with reported := 6 }), (1023, { Core.init with reported := 6 })] }

/-- Goes: an operation that is not .sc; an .sc operation of the widest scope, and one of the cluster's, whose turn has come;
FenceAndCacheResults: one with no turn, one overtaken, one that still waits. -/
theorem witness_Goes :
    (∀ s : State, (src loadTray).Goes s ((0 : BitVec 3).toNat = 6) [] s) ∧
    (let t := turnTray []
     let s := reported (demoWith t)
     ((src t).t.path (src t).i).turnAt (src t).pc = some 5 ∧
       (s.scopeCores t 0 4 = [0, 1023] ∧ s.overtaken (s.scopeCores t 0 4) 5 0 = false ∧ s.turnFree (s.scopeCores t 0 4) 5 0 = true) ∧
       (s.overtaken (s.scopeCores t 0 2) 5 0 = false ∧ s.turnFree (s.scopeCores t 0 2) 5 0 = true)) ∧
    ((src loadTray).t.path (src loadTray).i).turnAt demoCur.pc = none ∧
    (let s := (demoWith (turnTray [])).onCore 0 fun k => { k with done := 6 }
     s.overtaken (s.scopeCores loadTray 0 4) 5 0 = true) ∧
    (let s := demoWith (turnTray [])
     s.overtaken (s.scopeCores loadTray 0 4) 5 0 = false ∧ s.turnFree (s.scopeCores loadTray 0 4) 5 0 = false) :=
  ⟨fun _ => .inl ⟨by decide, rfl⟩, by decide +kernel, by decide +kernel, by decide +kernel, by decide +kernel⟩

/-- LoadResults: the last aligned double word of the mapped space, by LD, LDW and LDV; what may stop the load is absent. -/
theorem witness_LoadResults :
    let t := oneThread [(2, 0xFFFFFFF8), (4, 0xFFFFFF00)]
    let s := demoWith t
    let r := src t
    let goes (k : Checked) (n : Nat) (l1 : Bool) : Bool :=
      let k := s.remoteRetries 0 k
      let s := s.forgetAll k.ok n
      k.park.isNone && (s.loadCauses 0 n k.ok).isEmpty &&
        decide (s.entriesUsed 0 + entriesFor (s.newFills 0 (requests k.ok l1)) (requests k.ok l1) ≤ 8192)
    misaligned (r.lanes 2 (offsetOf 0 8)) 8 = false ∧ misaligned (r.blocks (r.bases 4 (offsetOf 0 256)) 8) 8 = false ∧
    misaligned (r.lanes 2 0) 8 = false ∧ issuable demoCur t (Instr.ld 126 2 3 6 0).opnds = true ∧
    issuable demoCur t (Instr.ldw 126 4 3 6 0).opnds = true ∧ issuable demoCur t (Instr.ldv 126 2 3 6 31).opnds = true ∧
    r.ctrFull .loads = false ∧
    (∃ k, s.checkAll 0 0 needR (r.lanes 2 (offsetOf 0 8)) = .ok k ∧ goes k 8 true = true) ∧
    (∃ k, s.checkAll 0 0 needR (r.blocks (r.bases 4 (offsetOf 0 256)) 8) = .ok k ∧ true = true) ∧
    (∃ k, s.checkAll 0 0 needR ((r.blocks (r.bases 4 (offsetOf 0 256)) 8).filter fun x => r.todo.getLsbD x.th) = .ok k ∧
      goes k 8 true = true) ∧
    (∃ q, s.checkV 0 0 (r.t.sreg 0 63) (r.lanes 2 0) = .ok q ∧ (!q.1 && goes q.2.1 8 false) = true) := by
  refine ⟨by decide +kernel, by decide +kernel, by decide +kernel, by decide +kernel, by decide +kernel, by decide +kernel,
    by decide +kernel, exists_ok (by decide +kernel), exists_ok (by decide +kernel), exists_ok (by decide +kernel),
    exists_ok (by decide +kernel)⟩

/-- LoadResults and StoreResults in the scratchpad: its last double word; no line has a partial (noPartials)
and no monitor watches the root (unwatched). -/
theorem witness_scratchpad :
    let t := oneThread [(2, 0xFFF8)]
    let s := demoWith t
    scratchCauses ((src t).offsets 2 0) 8 (s.clusterFor t).size = [] ∧
    (((src t).offsets 2 0).any fun x => (s.clusterFor t).poisoned x.2.toNat) = false ∧
    scratchCauses ((src t).offsets 2 8) 8 (s.clusterFor t).size ≠ [] ∧ s.clusters.get? (s.clusterIdOf t) ≠ none ∧
    s.lines = [] ∧ (∀ a ∈ s.lineage 0, (s.ctx a).monitors = []) := by decide +kernel

/-- StoreResults and StoreFrame: a store to the last word of the mapped space; no copy-on-write, memory untouched by the
checks, its home reachable. -/
theorem witness_StoreResults :
    let t := oneThread [(2, 0xFFFFFFFC)]
    let s := demoWith t
    let r := src t
    let l := r.lanes 2 (offsetOf 0 4)
    issuable demoCur t (Instr.st 127 2 2 6 0).opnds = true ∧ r.ctrFull .stores = false ∧ misaligned l 4 = false ∧
    NothingDue demoCur t ∧
    ∃ q, r.stored s l needW = .ok q ∧ (q.2.park.isNone && decide (q.1.mem = s.mem ∧ q.1.lines = [] ∧
      ∀ a ∈ q.1.lineage 0, (q.1.ctx a).monitors = []) && q.2.ok.all fun x => match x.loc with
        | .mem xl => decide (xl.pa < 2 ^ 40) && !s.unreachable 0 xl.pa
        | _ => false) = true := by
  refine ⟨by decide +kernel, by decide +kernel, by decide +kernel, .inr (by decide +kernel), exists_ok (by decide +kernel)⟩

/-- AtomicResults: a compare-and-swap, a RED and an ATOMS of one thread; the widest scope the package mode has. -/
theorem witness_AtomicResults :
    let t := oneThread [(2, 0xFFFFFFF8), (8, 0xFFF8)]
    let s := demoWith t
    let r := src t
    issuable demoCur t (Instr.atom 124 2 3 7 29).opnds = true ∧ issuable demoCur t (Instr.red 126 2 3 5 21).opnds = true ∧
    issuable demoCur t (Instr.atoms 124 8 3 7 18).opnds = true ∧
    scopeLegal s 0 5 = true ∧ r.ctrFull .loads = false ∧ r.ctrFull .stores = false ∧ misaligned (r.lanes 2 0) 8 = false ∧
    (∃ q, r.stored s (r.lanes 2 0) needRW = .ok q ∧ (let k := q.1.remoteRetries 0 q.2
      ((q.1.forgetAll k.ok 8).loadCauses 0 8 k.ok).isEmpty && k.park.isNone) = true) ∧
    (∃ q, r.stored s (r.lanes 2 0) needW = .ok q ∧ q.2.park.isNone = true) ∧
    scratchCauses (r.offsets 8 0) 8 (s.clusterFor t).size = [] ∧ (r.offsets 8 0).length = 1 ∧
    ((r.offsets 8 0).any fun x => (s.clusterFor t).poisoned x.2.toNat) = false := by
  refine ⟨by decide +kernel, by decide +kernel, by decide +kernel, by decide +kernel, by decide +kernel, by decide +kernel,
    by decide +kernel, exists_ok (by decide +kernel), exists_ok (by decide +kernel), by decide +kernel, by decide +kernel,
    by decide +kernel⟩

/-- FenceAndCacheResults: scopes that the root's mode has and one that a device mode has not; a core with no miss-status
entry left. -/
theorem witness_FenceAndCacheResults :
    let s := demoWith loadTray
    let s2 := { s with ctxs := [(0, { rootCtx 15#4 0 with root := 0x4000, pmode := 2 })] }
    scopeLegal s 0 0 = true ∧ scopeLegal s 0 5 = true ∧ ((List.range 8).any fun k => !scopeLegal s2 0 k) = true ∧
    issuable demoCur loadTray [] = true ∧
    issuable demoCur loadTray (Instr.cctl 94 3 31).opnds = true ∧ issuable demoCur loadTray (Instr.cctl 0 0 0).opnds = true ∧
    issuable demoCur loadTray (Instr.pref 126 2 63).opnds = true ∧ (src loadTray).ctrFull .stores = false ∧
    (let p : Pend := ⟨7, .load, 0, [], [4], none, some .loads, [], 8192, 0, [], 7, []⟩
     (demoWith { loadTray with pend := [p] }).entriesUsed 0 = 8192) := by decide +kernel

/-- What a pending load, store or result of the demo's tray looks like. -/
def pendOf (kind : PendKind) (ctr : Ctr) : Pend := ⟨7, kind, 0, [9], [], some [.s 9 5], some ctr, [], 0, 0, [], 7, []⟩

/-- MemoryEventResults: a load, a store and a result that may complete; an instruction of which a part is left, and one of
which none is. -/
theorem witness_MemoryEventResults :
    let t (k : PendKind) (x : Ctr) : Tray := { loadTray with pend := [pendOf k x], loads := 1, stores := 1 }
    (t .load .loads).pend.find? (fun q => q.id == 7) = some (pendOf .load .loads) ∧
    (t .store .stores).pend.find? (fun q => q.id == 7) = some (pendOf .store .stores) ∧
    (demoWith (t .store .stores)).rootsOut (pendOf .store .stores) = false ∧
    (pendOf .result .loads).kind = .result ∧ (pendOf .result .loads).data ≠ none ∧ (pendOf .load .loads).ctr = some .loads ∧
    { t .load .loads with pend := (t .load .loads).pend.filter fun q => q.id != 7 }.holdsGrp 7 = false ∧
    (let u : Tray := { loadTray with pend := [pendOf .load .loads, { pendOf .load .loads with id := 8 }], loads := 1 }
     { u with pend := u.pend.filter fun q => q.id != 7 }.holdsGrp 7 = true) := by decide +kernel

/-- CoherenceEventResults: the first and the last line of local memory, which no die holds, a context with a way, the first
and the last die; a stream 16 lines behind the last line, all before it
fetched. -/
theorem witness_CoherenceEventResults :
    demo.lineOk 0 = true ∧ demo.lineOk (2 ^ 24 - 1) = true ∧ demo.holdsWay 0 0 = true ∧ demo.holdsWay 0 3 = true ∧ demo.lines.get? 0 = none ∧
    demo.localPa 0 = true ∧ demo.localPa (2 ^ 32 - 1) = true ∧
    (let x : Stream := ⟨0, true, 2 ^ 24 - 17, 2 ^ 24 - 2, 0, 0, 2 ^ 24 - 1⟩
     let s := { demo with prefetchers := [(127, ⟨[x], []⟩)] }
     s.prefetchers = [(127, ⟨[x], []⟩)] ∧ 127 / 32 = 3 ∧ x.ahead 0 (2 ^ 24 - 1) = true ∧ 0 ∉ s.fw.noPrefetch) := by
  decide +kernel


/-- The root's first pages as 64 KiB pages: page 0 as it was, pages 1 and 2 at frames 1 and 2 with leaf bits `e1`, `e2`. -/
def pageState (s : State) (e1 e2 : Nat) : State :=
  ((((((s.wr loadLevel2 8 0xC001).wr 0xC000 8 0xD003).wr 0xD000 16 0xF).wr 0xD010 16 (0x10000F + e1)).wr 0xD020 16 (0x20000F + e2)))

/-- An operation of the demo's tray. -/
def opOf (eng unit : Nat) (phase : Nat) (body : OpBody) : Op :=
  ⟨3, ⟨0, 0, 0, 0, 0, eng, 0, 0, 0⟩, unit, 1, 0, 0, phase, body, none⟩

/-- The demo with that operation. -/
def withOp (s : State) (eng unit phase : Nat) (body : OpBody) : State := { s with ops := [opOf eng unit phase body] }

/-- A cluster whose scratchpad holds a ring of two 64-byte slots at offset 64, its header at 0. -/
def ringCluster (w f rp : Nat) : Cluster :=
  loadCluster.putRing 0 ⟨64, 64, 1, 2, BitVec.ofNat 32 w, BitVec.ofNat 32 f, BitVec.ofNat 32 rp, 0, 0⟩

/-- The demo with that ring. -/
def ringDemo (t : Tray) (w f rp : Nat) : State :=
  { demoWith t with clusters := [(1, ((ringCluster w f rp).wr 0 4 64).wr 4 4 64)] }

/-- CopyResults: a copy of the longest length the scratchpad takes and its two bounds, a ring slot to claim, a member of a
group of 16, an accepted copy of 256 bytes, a member whose group is not whole. -/
theorem witness_CopyResults :
    let t := withS [(92, 0xFFFF0000), (94, 0), (95, 65536)]
    let s := demoWith t
    let d := (src t).descriptor 92
    copyLenOk d.2.2 = true ∧ copyLenOk 16 = true ∧ copyLenOk 16777216 = true ∧ s.copyUnit 0 0 = some 0 ∧
    copyCauses d.1 d.2.1 d.2.2 (s.clusterFor t).size true = [] ∧ (src t).t.ctrFull .copies = false ∧
    (let u := withS [(92, 0), (94, 0), (95, 64)]
     let q := ((ringDemo u 1 0 0).clusterFor u).ring ((src u).hdr (.lit 0))
     copyCauses 0 0 64 65536 false = [] ∧ ((q.map fun q => decide (q.st ≠ 2 ∧ 64 ≤ q.slotsz ∧ (q.w - q.rp).toNat ≠ q.nslot ∧
       q.slot q.w + 64 ≤ 65536)) = some true)) ∧
    (let b := (src t).sb (.lit 0xFF)
     b.toNat / 16 % 16 < b.toNat % 16 + 1 ∧ d.2.2 % (16 * (b.toNat % 16 + 1)) = 0) ∧
    issuable demoCur t (Instr.cpym 92 (.lit 0xFF)).opnds = true := by decide +kernel

/-- CopyResults, the events. -/
theorem witness_CopyResults_events :
    (let k : CopyOp := ⟨true, 0xFFFFFF00, 1, 0, 256, 0, none, none⟩
     let s := withOp demo 1 0 1 (.copy k)
     s.op? 3 = some (opOf 1 0 1 (.copy k)) ∧ okWith (s.opRd (opOf 1 0 1 (.copy k)) k.g k.len) (fun _ => true) = true) ∧
    (let m : MemberOp := ⟨0, 1, 0, 256, 0, 5, 16, 15, none, 0, false, false⟩
     (withOp demo 1 0 2 (.member m)).op? 3 = some (opOf 1 0 2 (.member m)) ∧ m.group = none) := by decide +kernel

/-- MigrationResults: a page that may move, one whose destination is misaligned; a migration whose source is clean. -/
theorem witness_MigrationResults :
    let t := withS [(92, 0x10000), (94, 0x30000)]
    let s := pageState (demoWith t) 0 0
    issuable demoCur t (Instr.migr 90 92 (.sreg 94)).opnds = true ∧
    s.migrCheck 0 ((src t).s2 92).toNat ((src t).sbz64 (.sreg 94)).toNat = (0, 0xD010, 65536) ∧
    s.migrCheck 0 ((src t).s2 92).toNat 0x30010 = (6, 0xD010, 65536) ∧
    (let k : MigrOp := ⟨0x10000, 0x30000, 0, 0, 90⟩
     (withOp s 1 0 1 (.migr k)).op? 3 = some (opOf 1 0 1 (.migr k))) ∧
    (let k : MigrOp := ⟨0x10000, 0x30000, 0xD010, 65536, 90⟩
     let s := withOp s 1 0 2 (.migr k)
     let old := bits (s.tblRd k.leaf 16) 55 20 * 65536
     s.op? 3 = some (opOf 1 0 2 (.migr k)) ∧ s.exportsOut 0 = false ∧ s.frameReach 0 old k.size needR = true ∧
       s.frameReach 0 k.dst k.size needW = true ∧ s.framePoison 0 old k.size = false ∧
       { s with poison := smSet s.poison (0x10000 / 64 + 1023) 1 }.framePoison 0 old k.size = true ∧
       s.trays.get? 0 = some t ∧ t.batch = (opOf 1 0 2 (.migr k)).batch ∧ t.idx = (opOf 1 0 2 (.migr k)).tray) := by
  decide +kernel

/-- RingResults: an initialisation that passes and one that does not; a ring with a filled slot, one without. -/
theorem witness_RingResults :
    let t := withS [(92, 0), (93, 64), (94, 64), (95, 2)]
    let s := demoWith t
    s.rinitStatus 1 (s.clusterFor t) 0 64 64 2 = 0 ∧ s.rinitStatus 1 (s.clusterFor t) 0 64 64 0 = 3 ∧
    s.rinitStatus 1 (s.clusterFor t) 0 64 64 1023 = 0 ∧ s.rinitStatus 1 (s.clusterFor t) 0 64 64 1024 = 4 ∧
    (((ringDemo t 1 1 0).clusterFor t).ring 0).isSome = true ∧ ((ringDemo t 1 1 0).clusterFor t).ringWait 0 = .ready 64 false ∧
    ((ringDemo t 1 0 0).clusterFor t).ringWait 0 = .empty ∧ (s.clusterFor t).ringWait 0 = .bad ∧
    (let u := withS [(92, 4)]
     (src u).t.p1 = none ∧ ((src u).s2 92).toNat < 2 ^ 46 ∧ (demoWith u).targetOk 0 0 (((src u).s2 92).setWidth 46) = true ∧
       issuable demoCur u (Instr.rwait 95 92 (.lit 0)).opnds = true) := by decide +kernel

/-- EngineCommandResults: the oldest command of a core for a queue with room, and for a full one behind which another
waits; a refused command whose queue has room again, and one whose queue is still full. -/
theorem witness_EngineCommandResults :
    let k : OpBody := .copy ⟨true, 0, 1, 0, 256, 0, none, none⟩
    let o := opOf 1 0 0 k
    let s := { demo with ops := [o] }
    let full := List.replicate 256 { o with id := 9, phase := 1 }
    let z := { demo with ops := full ++ [o, { o with id := 4, tag := { o.tag with eng := 4 } }] }
    let x : QRefusal := ⟨0, 1, 0, 64⟩
    (s.nextCommand 0 = some o ∧ s.queueTakes 0 1 0 = true) ∧
    (z.nextCommand 0 = some o ∧ z.queueTakes 0 1 0 = false ∧
      { z with refusals := [x] }.nextCommand 0 = some { o with id := 4, tag := { o.tag with eng := 4 } }) ∧
    (let s := { s with refusals := [x] }
     (s.ops.find? fun o => s.sendable 0 o && o.tag.eng == 1 && o.unit == 0) = some o ∧
       ((s.refusals.filter fun y => y.core == 0).find? fun y => s.queueTakes 0 y.eng y.unit) = some x) ∧
    (let z := { z with refusals := [x] }
     (z.ops.find? fun o => z.sendable 0 o && o.tag.eng == 1 && o.unit == 0) = some o ∧
       ((z.refusals.filter fun y => y.core == 0).find? fun y => z.queueTakes 0 y.eng y.unit) = none ∧
       (z.refusals.filter fun y => y.core == 0).head? = some x) := by decide +kernel

/-- A tray of a gang of two that starts at tray 0, at rank 0, holding every tile. -/
def gangTray (l : List (Nat × Word)) : Tray := { withS l with gangsel := 0xFFFF0200 }

/-- MatrixGangResults: no gang and value 0; forming gangs of two and of six, the first member and the last; dissolving one;
nobody at the latch. -/
theorem witness_MatrixGangResults :
    let s := { demoWith loadTray with batches := [(1, { loadBatch with trays := 6 })] }
    (src loadTray).gangIllegal true = false ∧ gsN (src loadTray).t.gangsel = 0 ∧ (src loadTray).t.ctrFull .loads = false ∧
    issuable demoCur loadTray (Instr.gang 95 (.lit 0)).opnds = true ∧
    ([(0xFFFF0600 : Word), 0x00010200].all fun v => decide (2 ≤ gsN v) && decide (gsN v ≤ 6) &&
      decide (gsFirst v + gsN v ≤ ((s.batches.get? loadTray.batch).map (·.trays)).getD 0) && decide (gsFirst v ≤ loadTray.idx) &&
      decide (loadTray.idx < gsFirst v + gsN v) && bits v.toNat 7 0 == 0 && gsMask v != 0) = true ∧
    (let v : Word := 0x00012200
     let t : Tray := { loadTray with idx := 5 }
     gsFirst v = 4 ∧ gsFirst v + gsN v ≤ 6 ∧ t.idx < gsFirst v + gsN v) ∧
    (let t := gangTray []
     gsN (src t).t.gangsel ≠ 0 ∧ (src t).gangIllegal true = false ∧ (src t).t.ctrFull .matrix = false ∧
       (demoWith t).atLatch 0 t.batch 0 2 = [] ∧ issuable demoCur t (Instr.mfence 95).opnds = true) := by decide +kernel

/-- MmaReady: register blocks with the highest tile, FP64 with a pair of tiles, both operands in the scratchpad. -/
theorem witness_MmaReady :
    let t := gangTray [(90, 0), (91, 8), (92, 0x8000), (93, 8)]
    MmaReady (demoWith t) t (src t) 15 0 0x00001000 ∧ MmaReady (demoWith t) t (src t) 14 0 0x00001009 ∧
    MmaReady (demoWith t) t (src t) 15 90 0x00015CC0 := by
  dsimp only [MmaReady]
  refine ⟨⟨?_, ?_, ?_, ?_, ?_, ?_, ?_, ?_, ?_, ?_, ?_⟩, ⟨?_, ?_, ?_, ?_, ?_, ?_, ?_, ?_, ?_, ?_, ?_⟩,
    ⟨?_, ?_, ?_, ?_, ?_, ?_, ?_, ?_, ?_, ?_, ?_⟩⟩ <;> decide +kernel

/-- MatrixGangResults: an MMA and an MDIST that issue, an MTOPK, and a member that a time-out finds. -/
theorem witness_MatrixGangResults_mma :
    (let t := gangTray []
     issuable demoCur t (Instr.mma 15 0 (.lit 0x00001000)).opnds = true ∧ issuable demoCur t (Instr.mdist 14 0 (.lit 0x00001009)).opnds = true) ∧
    (let t := gangTray [(95, 16)]
     let sel := (src t).sn 94 1
     0 < bits sel.toNat 4 0 ∧ bits sel.toNat 4 0 ≤ 16 ∧ sel.toNat < 64 ∧ (src t).t.holdsAll [15, 14] = true ∧
       issuable demoCur t (Instr.mtopk 15 14 94).opnds = true) ∧
    (let a : Arrival := ⟨0, 2, 0, .mfence 95, 0, 1, [], []⟩
     ({ gangTray [] with wait := .latch a }).wait = .latch a) := by
  decide +kernel

/-- MatrixTileResults: an MZERO of every tile, tiles that MWR and MRD may use, an operation to complete. -/
theorem witness_MatrixTileResults :
    (let t := gangTray [(95, 0x2FFFF)]
     let w := (src t).sb (.sreg 95)
     (src t).gangIllegal false = false ∧ bits w.toNat 17 16 ≠ 3 ∧ w.toNat < 2 ^ 18 ∧ (src t).t.holdsAll (bitList (w.setWidth 16)) = true ∧
       w.setWidth 16 ≠ 0#16 ∧ issuable demoCur t (Instr.mzero (.sreg 95)).opnds = true) ∧
    (let t := gangTray []
     (src t).t.holdsAll [14, 15] = true ∧ (src t).t.holdsAll [15] = true ∧ (demoWith t).tilesBusy 0 [14, 15] = false ∧
       ((demoWith t).tile 0 14).poison = false ∧ ((demoWith t).tile 0 15).poison = false) ∧
    (let s := withOp demo 2 0 1 (.matrix (.zero 0x20001))
     (s.ops.find? fun o => o.tag.eng == 2 && o.unit == 0) = some (opOf 2 0 1 (.matrix (.zero 0x20001)))) := by decide +kernel

/-- The root with a slice table of 16 and one slice of two pages at 0x10000, its count of references and pins. -/
def sliceDemo (s : State) (refs pins : Nat) : State :=
  s.onCtx 0 fun x => { x with slbase := 0x40000, slices := [(0, ⟨0x10000, 2, 5, refs, pins, 0⟩)], step := 7 }

/-- SnapshotResults: a legal SNAP at the lowest version allowed, one below STEP, one whose range is misaligned. -/
theorem witness_SnapshotResults :
    let t := withS [(92, 0x10000), (94, 2), (91, 7), (90, 0x10010)]
    let s := sliceDemo (pageState (demoWith t) 0 0) 1 0
    issuable demoCur t (Instr.snap 95 92 (.sreg 91)).opnds = true ∧ (92 : BitVec 7).toNat % 4 = 0 ∧
    (src t).t.ctrFull .copies = false ∧ s.snapBusy 0 = false ∧
    s.snapCheck 0 ((src t).s2 92).toNat ((src t).sn 92 2).toNat ((src t).sn 92 3) = 0 ∧
    s.snapCheck 0 0x10010 2 0 = 1 ∧
    (((src t).sb (.sreg 91)).ult (s.ctx 0).step = false ∧ (src t).sb (.sreg 91) ≠ 0xFFFFFFFF) ∧
    ((src t).sb (.lit 6)).ult (s.ctx 0).step = true ∧ issuable demoCur t (Instr.vqry 94 92 (.sreg 90)).opnds = true ∧
    issuable demoCur t (Instr.vstep 95 (.sreg 91)).opnds = true ∧ (src t).chain = false ∧ s.replayCount 0 = 0 ∧
    ({ demoCur with snap := some t }.src s t).chain = true := by
  decide +kernel

/-- SnapshotEventResults: a SNAP that fails and one whose range is at rest; counts at their bounds; a later STEP. -/
theorem witness_SnapshotEventResults :
    let s := sliceDemo (pageState demo 0 0) 65534 1
    s.snapCheck 0 0x10000 2 0 = 0 ∧ s.rangeBusy 0 0x10000 2 = false ∧ s.snapCheck 0 0x10000 0 0 = 1 ∧
    s.sliceOf 0 0x10000 = some (0, ⟨0x10000, 2, 5, 65534, 1, 0⟩) ∧ stepCount 65534 true = some 65535 ∧
    stepCount 65535 true = none ∧ stepCount 1 false = some 0 ∧ stepCount 0 false = none ∧ (s.ctx 0).step.ult 8 = true ∧
    (withOp s 3 0 1 (.snap 9 (.step 8))).op? 3 = some (opOf 3 0 1 (.snap 9 (.step 8))) ∧
    snapRangeBad 0x10000 0 = true ∧ snapRangeBad 0x10001 1 = true ∧ snapRangeBad 0x10000 1 = false ∧
    snapRangeBad (2 ^ 52 - 65536) 1 = false ∧ snapRangeBad (2 ^ 52 - 65536) 2 = true ∧
    (s.queryWrite (opOf 3 0 1 (.snap 9 (.query 0x10000 1 0 0x20000 1 none))) 0 0x20000 1 0x20000 [] 0).2.2.2 = none := by
  decide +kernel

/-- The root with frame stacks of one free entry each. -/
def stackDemo (s : State) : State :=
  s.onCtx 0 fun x => { x with spool := 0x40000, scap := 1, lpool := 0x50000, lcap := 1, chainbase := 0x60000 }

/-- SnapshotEventResults: a copy-on-write in progress whose chain can be read; frames of both sizes that may be donated. -/
theorem witness_SnapshotEventResults_frames :
    let s := stackDemo demo
    (let w : Cow := ⟨0, 0x10000, 65536, 0xD010, 0, 0x10000, 0x30000, 6, false⟩
     let s := { s with cows := [(4, w)] }
     s.cows.get? 4 = some w ∧ ({ s with cows := s.cows.del 4 }.chainRd w.ctx w.chain).toBool = true) ∧
    (s.ctxs.get? 0).isSome = true ∧
    (let e : BitVec 64 := 0x70000
     let size := if e.toNat % 2 = 0 then 65536 else 2 ^ 21
     let frame := bits e.toNat 51 16 * 65536
     frame % size = 0 ∧ bits e.toNat 15 1 = 0 ∧ e.toNat < 2 ^ 52 ∧ s.frameOk 0 frame size = true ∧
       ((s.ctx 0).stack size).1 < ((s.ctx 0).stack size).2.1 ∧ size / 65536 ≤ s.framesLeft 0 ∧
       (s.pushFrame 0 size frame).isSome = true) ∧
    (let e : BitVec 64 := 0xFFE00001
     let frame := bits e.toNat 51 16 * 65536
     frame % 2 ^ 21 = 0 ∧ bits e.toNat 15 1 = 0 ∧ s.frameOk 0 frame (2 ^ 21) = true ∧ (s.pushFrame 0 (2 ^ 21) frame).isSome = true) := by
  decide +kernel

/-- A park of the demo's tray. -/
def parkOf (kind : FaultKind) : Park := ⟨1, 0, kind, 0, 0xD010, 0, true, 0x10000, false⟩

/-- TranslationEventResults: no invalidation in progress, and one; trays parked in each way a time-out ends; a record whose
ring takes it; the bounds of the pages. -/
theorem witness_TranslationEventResults :
    (∃ t, demo.ctxs.get? 0 = some t ∧ t.invq = []) ∧
    (let s := demo.onCtx 0 fun x => { x with invq := [(3, 0, 1)] }
     (s.ctx 0).invq = [(3, 0, 1)] ∧ s.exportsOut 0 = false) ∧
    (let s := demoWith { loadTray with wait := .park (parkOf .notpresent) }
     (s.trays.get? 0).map (·.wait) = some (.park (parkOf .notpresent)) ∧ (parkOf .notpresent).fctx = 0) ∧
    (let s := demo.onCtx 0 fun x => { x with parkto := 1, chainto := 1 }
     (s.ctx 0).parkto ≠ 0 ∧ (parkOf .notpresent).kind ≠ .cow ∧ (s.ctx 0).chainto ≠ 0 ∧ (parkOf .poolempty).kind = .poolempty) ∧
    (let s := demo.onCtx 0 fun x => { x with rring := 0x40000, rlog := 12 }
     (match (s.ringPut 0 (s.ctx 0).rring.toNat (s.ctx 0).rlog.toNat (List.replicate 64 7)).1 with
      | .done => true
      | _ => false) = true) ∧
    demo.queueOwner 0 = some 0 ∧ demo.queueOwner 1023 = some 0 := by
  refine ⟨⟨_, rfl, by decide +kernel⟩, by decide +kernel, by decide +kernel, by decide +kernel, by decide +kernel, by decide +kernel,
    by decide +kernel⟩


/-- What the clauses about performing a command ask: the command o, the oldest of its core, and a queue that takes it. -/
theorem witness_Performs (k : Cmd) :
    (let o := opOf 4 0 0 (.cmd k)
     { demo with ops := [o] }.nextCommand 0 = some o) ∧
    (let o := opOf 5 0 0 (.cmd k)
     { demo with ops := [o] }.nextCommand 0 = some o) ∧
    (let o := opOf 6 0 0 (.cmd k)
     { demo with ops := [o] }.nextCommand 0 = some o) ∧
    (let o := opOf 7 0 0 (.cmd k)
     { demo with ops := [o] }.nextCommand 0 = some o) ∧
    (let o := opOf 9 0 0 (.cmd k)
     { demo with ops := [o] }.nextCommand 0 = some o ∧ { demo with ops := [o] }.trayOf o.batch o.tray = some loadTray) ∧
    demo.queueTakes 0 4 0 = true ∧ demo.queueTakes 0 5 0 = true ∧ demo.queueTakes 0 6 0 = true ∧
    demo.queueTakes 0 7 0 = true ∧ demo.queueTakes 0 9 0 = true :=
  ⟨rfl, rfl, rfl, rfl, ⟨rfl, rfl⟩, by decide +kernel, by decide +kernel, by decide +kernel, by decide +kernel, by decide +kernel⟩

/-- StackResults: the bounds of the control words, both shapes of HRED, both groups of HCVT codes, the last item of HQRY, an
accepted gather of one element. -/
theorem witness_StackResults :
    (let t := withS [(92, 0x100), (94, 16777216), (95, 13), (88, 0x200), (90, 0x300)]
     let r := src t
     let x := (r.sn 92 3).toNat
     x < 16 ∧ x % 8 ≤ 5 ∧ countOk (r.sn 92 2).toNat = true ∧ (demoWith t).stackUnit 0 0 = some 0 ∧
       addrCauses [((r.s2 92).toNat, 2 ^ (x % 8)), ((r.quadB (.sreg 88)).1.toNat, if x / 8 = 1 then 8 else 4),
         ((r.quadB (.sreg 88)).2.toNat, 2 ^ (x % 8))] = [] ∧ r.t.ctrFull .copies = false ∧
       issuable demoCur t (Instr.hgath 92 (.sreg 88)).opnds = true) ∧
    (let t := withS [(92, 0x100), (94, 1), (95, 0x35), (88, 0x200), (90, 65536)]
     let r := src t
     let x := (r.sn 92 3).toNat
     x < 64 ∧ x / 4 % 8 ≤ 5 ∧ x % 4 < 2 ∧ countOk (r.sn 92 2).toNat = true ∧ (r.sq (.sreg 88) 2).toNat ≠ 0 ∧
       r.sq (.sreg 88) 3 = 0 ∧ x / 32 = 1 ∧ (r.sq (.sreg 88) 2).toNat ≤ 65536 ∧
       addrCauses [((r.s2 92).toNat, redSize (x % 4)), ((r.quadB (.sreg 88)).1.toNat, redSize (x % 4))] = []) ∧
    (let t := withS [(92, 0x100), (94, 7), (95, 2), (88, 0x200), (90, 1)]
     let x := ((src t).sn 92 3).toNat
     x / 32 = 0 ∧ x / 4 % 8 ≤ 2 ∧ ((src t).sq (.sreg 88) 2).toNat = 1) ∧
    (let t := withS [(92, 0x100), (94, 5), (95, 5), (88, 0x200)]
     let x := ((src t).sn 92 3).toNat
     x % 16 < 6 ∧ ((src t).quadB (.sreg 88)).2.toNat = 0 ∧ x / 16 % 4 = 0 ∧ x / 64 = 0) ∧
    (let t := withS [(92, 0x100), (94, 32), (95, 11), (88, 0x200), (90, 0x300)]
     let x := ((src t).sn 92 3).toNat
     x % 16 ≤ 11 ∧ ¬(x % 16 < 6) ∧ ((src t).sn 92 2).toNat % 32 = 0) ∧
    ((src loadTray).sb (.lit 11)).toNat ≤ 11 ∧ issuable demoCur loadTray (Instr.hqry 92 (.lit 11)).opnds = true ∧
    (let k : StackOp := .gath 0 1 0x100 0x200 2 false 0 []
     let s := withOp demo 4 0 1 (.stack k)
     s.op? 3 = some (opOf 4 0 1 (.stack k)) ∧ (s.stackRun (opOf 4 0 1 (.stack k)) k).2.2 = none) := by decide +kernel

/-- The demo with a sampler descriptor, as a number, at 0x200, and a tray whose quad at s88 names it with control word `cw`. -/
def sampDemo (desc cw : Nat) : State :=
  (demoWith { withS [(88, 0x200), (90, 0xFFFFFFFF), (91, BitVec.ofNat 32 cw)] with p0 := { loadTray.p0 with mask := 1 } }).wr 0x200
    64 desc

/-- Its tray. -/
def sampTray (cw : Nat) : Tray :=
  { withS [(88, 0x200), (90, 0xFFFFFFFF), (91, BitVec.ofNat 32 cw)] with p0 := { loadTray.p0 with mask := 1 } }

/-- SamplerResults: a march of one ray, a nearest sample of a field of one voxel and one level of a hash grid, each
performed for the one active thread. -/
theorem witness_SamplerResults :
    let b : SB := .sreg 88
    let free : Nat → Nat → Word := Config.samplerOpen 0
    (let t := sampTray 8
     let s := sampDemo 0 8
     1 ≤ ((src t).sq b 3).toNat ∧ ((src t).sq b 3).toNat ≤ 8 ∧ (pair ((src t).sq b 0) ((src t).sq b 1)).toNat = 0x200 ∧
       issuable demoCur t (Instr.march 96 0 b).opnds = true ∧ (src t).t.p1 = none ∧ (src t).t.ctrFull .loads = false ∧
       beyondN t [⟨.v, 102, 26, false, true⟩, ⟨.v, 0, 8, true, false⟩] = false ∧
       okWith (sampAll (src t).todo fun th => (do
         let g ← (⟨s, 0, 0, (src t).sq b 2⟩ : Reader).grid 0x200
         marchRay ⟨s, 0, 0, (src t).sq b 2⟩ g 8 ((List.range 8).map fun j => t.vreg j th) (free th)))
         (fun k => k.park.isNone && k.out.length == 1) = true) ∧
    (let t := sampTray 4
     let s := sampDemo (0x100 + 2 ^ 64 + 2 ^ 80 + 2 ^ 96) 4
     ((src t).sq b 3).toNat < 8 ∧
       okWith (sampAll (src t).todo fun th => (do
         let f ← (⟨s, 0, 0, (src t).sq b 2⟩ : Reader).field 0x200 1
         (List.range 1).mapM fun k => f.sample ⟨s, 0, 0, (src t).sq b 2⟩ true ((List.range 3).map fun j => t.vreg j th) k (free th)))
         (fun k => k.park.isNone && k.out.length == 1) = true) ∧
    (let t := sampTray 1
     let s := sampDemo (0x1000 + 10 * 2 ^ 72 + 2 ^ 128) 1
     1 ≤ ((src t).sq b 3).toNat ∧ ((src t).sq b 3).toNat ≤ 16 ∧
       okWith (sampAll (src t).todo fun th => (do
         let h ← (⟨s, 0, 0, (src t).sq b 2⟩ : Reader).hashGrid 0x200 1
         (List.range 1).mapM fun l => h.level ⟨s, 0, 0, (src t).sq b 2⟩ ((List.range 3).map fun j => t.vreg j th) l (free th)))
         (fun k => k.park.isNone && k.out.length == 1) = true) ∧
    issuable demoCur loadTray (Instr.mqry 92).opnds = true ∧
    (withOp demo 7 0 1 (.performed [])).op? 3 = some (opOf 7 0 1 (.performed [])) := by decide +kernel

/-- A pass descriptor: an FP32 colour target of 64 × 64 pixels at 0x100000, one stream, trigger counter 0, STATUS at
0x1000. -/
def passDesc : Nat :=
  (0x100000 + 4 * 2 ^ 52) + 1024 * 2 ^ 64 + (64 * 2 ^ 32 + 64 * 2 ^ 47) * 2 ^ (8 * 72) + 0x1000 * 2 ^ (8 * 112)

/-- A triangle that covers the pixel at the origin. -/
def demoPrim (seq : Nat) : RPrim := ⟨seq, 0, [0, 2560, 0], [0, 0, 2560], [0, 0, 0], [0x3F800000, 0x3F800000, 0x3F800000], true, 0, []⟩

/-- A live pass of the root over its four fronts. -/
def demoPass : Pass :=
  ⟨0, 0x2000, passDesc, (opOf 6 0 0 (.performed [])).tag, 0, [0, 1, 2, 3], [], 0, 0, 0, 0, [0, 0, 0, 0], [], [], [], [], [], false⟩

/-- The package with that pass. -/
def withPass (s : State) (p : Pass) : State := { s with passes := [(0, p)] }

/-- A tray for one pixel of it, which holds its shares, the pixel being covered or not. -/
def pixTray (cover : BitVec 16) : Tray :=
  { loadTray with p0 := { loadTray.p0 with mask := 1 },
                  pix := some ⟨0, 0, [(1, demoPrim 1)], [(0, ⟨1, 0, 0, 1, 1, cover, true⟩)]⟩ }

/-- RasterInstructionResults: quads at their bounds, a live pass, a pixel tray with and without a thread that exports. -/
theorem witness_RasterInstructionResults :
    (let t := withS [(88, 0x2000), (90, 0x20FF), (92, 0x2000), (94, 0x1FF), (84, 0x2000), (86, 0xFF)]
     let r := src t
     quadLegal (r.sq (.sreg 88) 2) (r.sq (.sreg 88) 3) false true = true ∧ bits (r.sq (.sreg 88) 2).toNat 13 9 = 16 ∧
       60 + (12 + 3 * 16) ≤ 128 ∧ r.t.vwin + 60 + (12 + 3 * 16) ≤ r.t.n ∧ r.t.pend = [] ∧
       quadLegal (r.sn 92 2) (r.sn 92 3) true false = true ∧ (r.sn 92 2).getLsbD 8 = true ∧
       quadLegal (r.sn 84 2) (r.sn 84 3) false false = true ∧ (r.sb (.lit 6)).toNat < 7 ∧
       ((demoWith t).ctx 0).own.raster ≠ 0 ∧ addrCauses [((r.s2 92).toNat, 64)] = [] ∧
       issuable demoCur t (Instr.gemit 126 60 (.sreg 88)).opnds = true) ∧
    (let t := pixTray 0
     let s := withPass (demoWith t) demoPass
     ((src t).pixTray s).isSome = true ∧ (src t).t.ctrFull .loads = false ∧ demoPass.block = 4 ∧
       ((src t).pixTray s).map (fun q => ((src t).exporters q.1).length) = some 0 ∧ (src t).t.vwin + 127 + 4 ≤ (src t).t.n ∧
       okWith (s.exportAll 0 (t.advance demoCur) 0 demoPass ⟨0, 0, [], []⟩ (fun _ => []) []) (fun q => decide (q = (s, []))) = true) ∧
    (let t := pixTray 1
     let s := withPass (demoWith t) demoPass
     let x : PixTray := ⟨0, 0, [(1, demoPrim 1)], [(0, ⟨1, 0, 0, 1, 1, 1, true⟩)]⟩
     ((src t).pixTray s).map (·.1) = some x ∧ ((src t).exporters x).length = 1 ∧ (src t).t.fpctl.getLsbD 6 = false ∧
       (src t).t.ctrFull .stores = false ∧ okWith (s.exportAll 0 (t.advance demoCur) 0 demoPass x
         (fun th => (List.range 4).map fun j => (src t).t.vreg j th) ((src t).exporters x)) (fun q => q.2.length == 1) = true) ∧
    (src loadTray).pixTray (demoWith loadTray) = none ∧
    (let o := opOf 6 0 0 (.cmd (.flush 0x2000 0 (2 ^ 48 - 1) false))
     (((withPass { demo with ops := [o] } demoPass).dropOp o.id).passFor o.tag 0x2000).1 = some 0) := by decide +kernel

/-- RasterEventResults: a primitive and a watermark that wait between fronts, a primitive that is ready, a tile with a whole
tray of quads, an export with no earlier one, a pass that is over with and without an error. -/
theorem witness_RasterEventResults :
    (let p := { demoPass with msgs := [(1, [.prim (demoPrim 1), .mark 0 9])] }
     (p.takeMsg 0 1).map (·.1) = some (.prim (demoPrim 1)) ∧
       (({ demoPass with msgs := [(15, [.mark 0 9])] } : Pass).takeMsg 3 3).map (·.1) = some (.mark 0 9)) ∧
    (let p := { demoPass with tiles := [(0, ⟨[(1, demoPrim 1)], [], [], none⟩)], marks := [(0, 2)] }
     p.readyPrim 0 = some (demoPrim 1) ∧ (p.tile 0).quads.length < 24) ∧
    (let p := { demoPass with tiles := [(0, ⟨[], List.replicate 24 ⟨1, 0, 0, 1, 1, [1, 0, 0, 0]⟩, [(1, demoPrim 1)], none⟩)] }
     let s := withPass demo p
     s.savedPixel 0 0 p = none ∧ 24 ≤ (p.tile 0).quads.length ∧ (s.ctx p.ctx).st = .running ∧
       (bestRoom ((s.roomsNow p.ctx).filter fun r => r.core / 256 == p.owner 0 &&
         r.fits ⟨16 * (bits (p.dw 80) 21 16 + 1), 1, []⟩)).isSome = true ∧
       s.pixRoom 0 (quadThreads ((p.tile 0).quads.take 24)) = true) ∧
    (let e : Export := ⟨7, 1, 0, 0, 0, 0, 1, 0, [], []⟩
     let p := { demoPass with exports := [e] }
     (p.exports.find? fun e => e.id == 7) = some e ∧ (withPass demo p).exportWaits 0 p e = false) ∧
    (let p := { demoPass with streams := [(0, ⟨0, true, 0⟩)] }
     (withPass demo p).passOver 0 p = true ∧ (withPass demo { p with err := 2 }).passOver 0 { p with err := 2 } = true) := by
  decide +kernel

/-- OrderingAndPassFrames: a primitive and a watermark alone in their queue; a primitive of a pass without rate image; the
other events have their witness above. -/
theorem witness_OrderingAndPassFrames :
    NothingDue demoCur loadTray ∧
    ({ demoPass with msgs := [(15, [.prim (demoPrim 1)])] } : Pass).msgs.get? (4 * 3 + 3) = some [.prim (demoPrim 1)] ∧
    ({ demoPass with msgs := [(0, [.mark 0 9, .mark 0 10])] } : Pass).msgs.get? (4 * 0 + 0) = some [.mark 0 9, .mark 0 10] ∧
    demoPass.dw 96 = 0 :=
  ⟨.inr (by decide +kernel), by decide +kernel, by decide +kernel, by decide +kernel⟩

/-- CollectiveResults: control words and quads of each kind, each operation of CARM, the highest counter, one reached and
one not. -/
theorem witness_CollectiveResults :
    (∀ k : PostKind, (match k with
      | .put => (postCtl 0x4000).post false == .put && (postCtl 0x4000).legal 0x4000 .put && postQuadOk .put 0 16777216 0 0 0 4095
      | .land => (postCtl 0x0001).post false == .land && (postCtl 0x0001).legal 0x0001 .land && postQuadOk .land 0 4 0 0 0 4095
      | .contrib => (postCtl 0x0000).post true == .contrib && (postCtl 0).legal 0 .contrib && postQuadOk .contrib 0 4 0 0 1023 4095
      | .landr => (postCtl 0x0001).post true == .landr && (postCtl 1).legal 1 .landr && postQuadOk .landr 0 4 0 1024 0 4095) = true) ∧
    (demo.ctx 0).own.ual ≠ 0 ∧ (demo.ctx 0).own.counters.getLsbD 4095 = true ∧ addrCauses [(2 ^ 52 - 4, 4)] = [] ∧
    carmLegal 0 0x00000FFF 7 = true ∧ carmLegal 0 0x40000000 0 = true ∧ carmLegal 0 0x40000000 1 = true ∧
    carmLegal 0 0x80000FFF 7 = true ∧ carmLegal 0 0xC0000FFF 7 = true ∧
    demo.trigReady 4095 0 = true ∧ demo.trigReady 4095 1 = false ∧
    issuable demoCur (withS [(95, 4095)]) (Instr.cwait 94 95 .zero).opnds = true ∧
    issuable demoCur loadTray (Instr.chalo 95 94).opnds = true := by
  refine ⟨fun k => by cases k <;> decide +kernel, by decide +kernel⟩

/-- A unit from package 1. -/
def demoUnit : UaUnit := ⟨1, 0, 0, 0, 0, 0, 0, false, 0, 0, 0, 0, 0, 4, []⟩

/-- A posted put that is firing, its unit 0 sent on port 2. -/
def demoPosted (nacks : KMap (Nat × Bool)) : Posted :=
  ⟨0, (opOf 5 0 1 (.post 0)).tag, 0, .firing, false, .put, 0, false, 0, 0, false, false, false, 0, 0,
    [⟨1, 0, 0, 0x100, 4, 1, 1, 4, 0, 0, 4, 1, [(0, (0, 2, demoUnit))], nacks, 0⟩], 0, 4, 0, 0, 0, []⟩

/-- CollectiveCommandResults: a landing and a put that are posted; entries held, armed, firing and posted of the context,
and no entry under a handle; the four operations of CARM. -/
theorem witness_CollectiveCommandResults :
    (let o := opOf 5 0 0 (.cmd (.post 9 false 0x100 4 0x0001 0 0 0 4095))
     okWith (((demo.dropOp o.id).post 0 o.tag false 0x100 4 0x0001 0 0 0 4095).1) (fun _ => true) = true) ∧
    (let o := opOf 5 0 0 (.cmd (.post 9 false 0x100 4 0x4000 0 0 0 4095))
     okWith (((demo.dropOp o.id).post 0 o.tag false 0x100 4 0x4000 0 0 0 4095).1) (fun _ => true) = true) ∧
    demo.byPostHandle 0 = none ∧ PostState.held.idle = true ∧ (PostState.armed 0 0 0).idle = true ∧
    PostState.firing.idle = false ∧ PostState.posted.idle = false ∧ PostState.armed 0 0 0 ≠ .held ∧ PostState.firing ≠ .posted ∧
    bits (0x00000FFF : Word).toNat 31 30 = 0 ∧ bits (0x40000000 : Word).toNat 31 30 = 1 ∧
    bits (0x80000FFF : Word).toNat 31 30 = 2 ∧ bits (0xC0000FFF : Word).toNat 31 30 = 3 := by decide +kernel

/-- An entry of generation 0 stands under handle 0, be it of the root or another context, in any state. -/
theorem witness_CollectiveCommandResults_entry (s : State) (e : Posted) (h : e.gen = 0) :
    { s with posted := [(0, e)] }.byPostHandle 0 = some (0, e) := by
  have h : postHandle e.gen ((0 : Word).toNat % 16384) = 0 := by rw [h]; decide
  simp [State.byPostHandle, KMap.get?]
  simpa using h

/-- PodEventResults: a unit for this package, an outstanding unit never refused, refused 62 times and waiting to be resent, a
park for a retry, the last port and the last die. -/
theorem witness_PodEventResults :
    demoUnit.src ≠ demo.podIdx ∧ demoUnit.dst = demo.podIdx ∧ demo.stage = .s2 ∧
    (let s := { demo with posted := [(0, demoPosted [])] }
     s.byPostHandle 0 = some (0, demoPosted []) ∧ (demoPosted []).st = .firing ∧
       ((demoPosted []).parts[0]?).isSome = true ∧ (s.unitOut 0 0 0).isSome = true) ∧
    (let s := { demo with posted := [(0, demoPosted [(0, (62, true))])] }
     (s.unitOut 0 0 0).isSome = true ∧ 62 + 1 < 64) ∧
    (parkOf .remoteretry).kind = .remoteretry ∧ demo.portsDown.getLsbD 15 = false ∧ demo.down.getLsbD 3 = false := by
  decide +kernel


/-- A context under the root, in a state. -/
def child (st : CtxState) : Ctx := { Ctx.blank with st := st, parent := 0, depth := 1 }

/-- ContextResults: a quota with and without room; the operand forms of KEYSEL. -/
theorem witness_ContextResults :
    let n := fun s : State => (s.children 0).length + s.inFlight 0 fun k => match k with
        | .new _ _ => true
        | _ => false
    (src loadTray).t.ctrFull .loads = false ∧ (src loadTray).t.ctrFull .copies = false ∧
    ¬(demo.ownBudget 0 (·.childmax.toNat) ≤ n demo) ∧
    (let s := demo.onCtx 0 fun x => { x with childmax := 0 }
     s.ownBudget 0 (·.childmax.toNat) ≤ n s) ∧
    (SB.lit 0 ≠ .zero ∧ (demo.keysBoundBy 0 + demo.inFlight 0 fun k => match k with
        | .keysel _ _ _ va => va.isSome
        | _ => false) < demo.ownBudget 0 (·.keymax.toNat)) ∧
    issuable demoCur loadTray (Instr.keyselBind 95 94 (.sreg 92)).opnds = true ∧
    issuable demoCur loadTray (Instr.keyselUnbind 95 94 .zero).opnds = true ∧
    issuable demoCur loadTray (Instr.ctxrunReply 95 92 (.sreg 90)).opnds = true := by decide +kernel

/-- ContextCommandResults: a command that takes no time and one that takes some, the deepest parent, the highest mode and
the lowest that is none. -/
theorem witness_ContextCommandResults :
    (let k : CtxOp := .new 9 2
     let s := withOp demo 8 0 1 (.ctx k)
     s.op? 3 = some (opOf 8 0 1 (.ctx k)) ∧ s.ctxWaits (opOf 8 0 1 (.ctx k)) k = false ∧
       (s.ctxGo (opOf 8 0 1 (.ctx k)) k).1.isSome = true) ∧
    (let k : CtxOp := .save 9 1 0
     let o := { opOf 8 0 1 (.ctx k) with id := 4 }
     let s := { demo with ops := [opOf 8 0 1 (.ctx (.stop 9 1 0 false)), o], ctxs := demo.ctxs ++ [(1, child .running)] }
     s.op? 4 = some o ∧ s.ctxWaits o k = true) ∧
    (let k : CtxOp := .stop 9 1 0 false
     let s := { withOp demo 8 0 1 (.ctx k) with ctxs := demo.ctxs ++ [(1, child .running)] }
     let d := { demo with
       ctxs := demo.ctxs ++ [(1, child .running)], trays := [(0, { loadTray with ctx := 1 })],
       batches := [(1, { loadBatch with ctx := 1 })] }
     s.ctxWaits (opOf 8 0 1 (.ctx k)) k = false ∧ ((withOp d 8 0 1 (.ctx k)).ctxGo (opOf 8 0 1 (.ctx k)) k).1 = none) ∧
    ((2 : Word).toNat < 3 ∧ (demo.ctx 0).pmode ≤ (2 : Word).toNat ∧ (demo.ctx 0).depth < 6 ∧
      (demo.onCtx 0 fun x => { x with depth := 5 }).ctx 0 ≠ Ctx.blank) ∧
    ((List.range 4096).find? fun n => n != 0 && ((demo.ctxs.get? n).map fun x => x.st == .free).getD true) = some 1 ∧
    3 ≤ (3 : Word).toNat := by decide +kernel

/-- The demo with a continuation pool of four records at 0x40000. -/
def poolDemo (t : Tray) (l : Launch) : State :=
  { demoWith t with
    ctxs := [(0, { rootCtx 15#4 0 with root := 0x4000, poolbase := 0x40000, pooln := 4 })], launches := [(0, l)] }

/-- LaunchResults: a launch and a batch for CONT with the last record of the pool free, no launch, every level of LCANCEL,
the launch that a handle names, none, and no level entry. -/
theorem witness_LaunchResults :
    (let o := opOf 9 0 0 (.cmd (.cont 95 0 0xFFFF000000001000 0))
     let p := poolDemo loadTray loadLaunch
     let s := { p with ops := [o], ctxs := p.ctxs.upd 0 fun x =>
       { x with own := { x.own with ways := [] },
                conts := [(0, ⟨0, 0, false, false⟩), (1, ⟨0, 0, false, false⟩), (2, ⟨0, 0, false, false⟩)] } }
     let x := (s.dropOp o.id).ctx 0
     s.launches.get? 0 = some loadLaunch ∧ s.batches.get? o.batch = some loadBatch ∧
       x.conts.firstFree (min x.pooln.toNat (2 ^ 20)) = some 3 ∧ (0xFFFF000000001000 : BitVec 64).toNat % 2 ^ 48 % 4 = 0 ∧
       loadLaunch.cancelled = false ∧ s.launches.get? 1 = none ∧
       ((s.dropOp o.id).upPut 0 (x.contAddr 3) (recordBytes 1 65535 0x1000 0 0 0 0 15 0 0)).2 = none) ∧
    lvlOk 95 0 = true ∧ lvlOk 0 4 = true ∧ lvlOk 95 3 = true ∧ lvlOk 1 4 = false ∧ lvlOk 0 5 = false ∧
    (src loadTray).t.ctrFull .loads = false ∧
    (let h : Word := BitVec.ofNat 32 (loadLaunch.gen.toNat * 65536)
     (demo.byHandle 0 h).map (·.1) = some 0 ∧ demo.byHandle 0 (h + 1) = none) ∧
    demo.hierOf 0 3 7 = none ∧ issuable demoCur loadTray (Instr.spawn 127 124).opnds = true ∧
    issuable demoCur loadTray (Instr.cont 95 92 (.sreg 90)).opnds = true ∧
    issuable demoCur loadTray (Instr.jdec 127 (.bcast 95)).opnds = true ∧
    issuable demoCur loadTray (Instr.lstat 92 95 0).opnds = true ∧
    issuable demoCur loadTray (Instr.lcancel 95 5).opnds = true := by decide +kernel

/-- A queue control block of the last queue with a free slot. -/
def demoQcb : Qcb := { Qcb.zero with slotlog := 16, en := true, qstate := 1 }

/-- LaunchEventResults: the last queue, enabled and not; a launch that is complete; one with a cluster to expand. -/
theorem witness_LaunchEventResults :
    (let s := { demo with qcbs := [(1023, demoQcb)] }
     (s.qcb 1023).en = true ∧ (s.qcb 1023).qstate ≠ 2 ∧ s.queueOwner 1023 = some 0 ∧ (s.ctx 0).st = .running ∧
       4 ≤ (s.qcb 1023).slotlog.toNat ∧ (s.qcb 1023).slotlog.toNat ≤ 16 ∧ (s.qcb 1023).base.toNat % 256 = 0 ∧
       ((s.qcb 1023).widx - (s.qcb 1023).ridx).toNat ≤ 2 ^ (s.qcb 1023).slotlog.toNat ∧ s.qwait.contains 1023 = false ∧
       (s.qcb 1022).en = false) ∧
    (let s := { demo with launches := [(65535, { loadLaunch with complete := true })] }
     (s.launches.get? 65535).map (·.complete) = some true ∧ s.qwait = []) ∧
    (let l := { loadLaunch with expanded := 0, nbatch := 64 }
     let s := { demo with launches := [(0, l)] }
     demo.dies.getLsbD 3 = true ∧ (s.diesFor l.ctx l.qpos).contains 0 = true ∧ l.cancelled = false ∧ l.window = none ∧
       (s.ctx l.ctx).st = .running ∧ l.expanded < l.nbatch ∧ s.unplacedOf 0 = 0) := by decide +kernel

/-- BatchEventResults: a cluster ready to be placed on the last die's turn, a batch to start, a tray and a batch that have
ended, a tray to save, a cluster region to save, a cancelled tray. -/
theorem witness_BatchEventResults :
    (let s := { demo with
       clusters := [(2, { loadCluster with die := none, batches := [3], size := 0 })], trays := [],
       batches := [(3, { loadBatch with cluster := 2, core := none, started := false })], ready := [2] }
     (([0, 1, 2, 3].filter fun p => (s.placeable 0 p).isSome).find? fun p => 0 < (s.creditsOf 0).getD p 0) = some 0 ∧
       (s.placeable 0 0).isSome = true) ∧
    (let b := { loadBatch with started := false }
     b.core = some 0 ∧ b.loading = false ∧ b.started = false ∧ b.inputs = 0 ∧ b.pixel = false ∧ b.cont = none) ∧
    (let t : Tray := { loadTray with wait := .ended }
     t.wait = .ended ∧ (t.pend.all fun p => p.kind == .op) = true) ∧
    (let s := { demo with trays := [] }
     s.batches.get? 1 = some loadBatch ∧ loadBatch.started = true ∧ loadBatch.image = [] ∧
       (s.trays.any fun e => e.2.batch == 1) = false ∧ (s.ops.any fun o => o.batch == 1) = false) ∧
    (let t : Tray := { loadTray with leave := some .slice }
     let s := demoWith t
     t.leave = some .slice ∧ (s.ctx 0).st ≠ .revoking ∧ s.savable t = true) ∧
    (let k := { loadCluster with size := 0, batches := [] }
     let s := { demo with clusters := [(1, k)], trays := [], batches := [] }
     k.saved = false ∧ k.die = some 0 ∧ s.clusterBusy 1 = false ∧
       (k.batches.any fun b => ((s.batches.get? b).map fun y => y.core.isSome).getD false) = false) ∧
    (let t : Tray := { loadTray with departing := some .cancel }
     let s := demoWith t
     (s.ops.filter fun o => o.batch == t.batch && o.tray == t.idx && o.tag.ctx == t.ctx && o.stops) = []) := by decide +kernel

/-- CoreAndStopEventResults: a candidate, a core stuck behind register growth, a running context with a quantum, a tray
that departs, a unit that stops a context's work. -/
theorem witness_CoreAndStopEventResults :
    (loadTray.leave = none ∧ loadTray.wait = .run) ∧
    (let s := { demo with
       trays := [(0, { loadTray with n := 1024, wait := .grow 1040 5 3 }), (1, { loadTray with n := 1024, batch := 2, wait := .grow 1040 6 3 })],
       batches := [(1, loadBatch), (2, { loadBatch with cluster := 2, age := 2 })],
       clusters := [(1, loadCluster), (2, { loadCluster with batches := [2] })] }
     oldestGrow (s.growQueue 0) = some (5, 0, 1040, 3) ∧ s.growDeadlock 0 = true ∧
       (youngest (s.batches.filter fun e => e.2.core == some 0 && !((s.trays.get? 0).map fun t => t.batch).any fun h =>
         (s.leaveTogether e.1 e.2).contains h)).map (·.1) = some 2) ∧
    (let s := demo.onCtx 0 fun x => { x with quantum := 1 }
     (s.ctx 0).st = .running ∧ (s.ctx 0).quantum ≠ 0) ∧
    (let t : Tray := { loadTray with departing := some .slice }
     t.departing = some .slice ∧ t.leave = none ∧ t.wait ≠ .ended ∧ Depart.slice ≠ .cancel ∧ t.async = []) ∧
    (let w : StopWait := ⟨1, 3, 1, 0, true, 0, 0, 0, 0⟩
     ([w].find? fun y => y.cls == 1 && y.unit == 3) = some w) := by decide +kernel

/-- The last endpoint with a command under SEQ 1. -/
def demoHdr : CmdHdr := { ep := 1, tag := 0xFFFF, seq := 1 }

/-- CommandNotAllowed and HostCommandResults: a stage that is not S2, an endpoint heard at each, a free semaphore, one held
by it and one held by the other; operands at their bounds. -/
theorem witness_HostCommandResults :
    demo.hears demoHdr.ep = true ∧ ({ demo with stage := .s1 }.hears demoHdr.ep) = true ∧ Stage.s1 ≠ .s2 ∧ Stage.s1 ≠ .hold ∧
    ({ demo with stage := .hold }.hears demoHdr.ep) = true ∧ demo.stage = .s2 ∧ demo.sem.owner = 0 ∧
    (let s := { demo with sem := ⟨2, 1⟩ }
     s.sem = ⟨demoHdr.ep + 1, demoHdr.seq⟩ ∧ s.sem.owner ≠ 0 ∧ s.ctxLive 0 = true) ∧
    ¬({ demo with sem := ⟨1, 1⟩ }.sem.owner = demoHdr.ep + 1 ∧ { demo with sem := ⟨1, 1⟩ }.sem.seq = demoHdr.seq) ∧
    (List.replicate 48 (0 : Byte)).length = 48 ∧ 65535 + [(0 : Byte)].length ≤ 65536 := by decide +kernel

/-- Whether an image is valid is the implementation's to say, so both clauses of FWLOAD have their case. -/
theorem witness_firmware (i : List Byte) : firmwareOk i = true ∨ firmwareOk i = false := by
  cases firmwareOk i <;> simp

/-- HostAccessResults: an unbound queue pair, and a bound one whose write and read meet no fault. -/
theorem witness_HostAccessResults :
    demo.stage ≠ .off ∧ demo.stage ≠ .power ∧ demo.qps.get? 0 = none ∧
    (let s := { demo with qps := [(4095, 0)] }
     s.qps.get? 4095 = some 0 ∧ s.rdma.get? 4095 = none ∧ (s.rdmaWr 0 0x100 [1, 2] (pieces 0x100 2)).2 = none ∧
       okWith (s.engRd 0 0xFFFFFFF0 16) (fun _ => true) = true) := by decide +kernel

/-- CheckpointResults: a full checkpoint that may begin, one of a running context, an incremental one, one to abort, a lease
that runs out. -/
theorem witness_CheckpointResults :
    (let s := { demo with ctxs := demo.ctxs ++ [(1, child .stopped)], sem := ⟨2, 1⟩ }
     s.stage = .s2 ∧ demoHdr.ep < 2 ∧ s.sem = ⟨demoHdr.ep + 1, demoHdr.seq⟩ ∧ s.ctxLive 1 = true ∧
       s.ckpts.get? demoHdr.tag.toNat = none ∧ (s.ctx 1).st = .stopped ∧ s.opsOf 1 = 0 ∧ (s.ctx 0).st = .running) ∧
    (let s := sliceDemo demo 65534 0
     s.sliceOf 0 0x10000 = some (0, ⟨0x10000, 2, 5, 65534, 0, 0⟩) ∧ (0x10000 : Word) ≠ 0) ∧
    (let k : Ckpt := ⟨1, none, 0, 0, 0, 0, 1, 0xFFFF, 0, 2 ^ 36, 2 ^ 52, 0⟩
     let s := { demo with ckpts := [(0xFFFF, k)], sem := ⟨1, 1⟩ }
     s.ckpts.get? 0xFFFF = some k ∧ (∀ e ∈ s.ckpts, e.2.ep + 1 ≠ s.sem.owner)) ∧
    (let s := { demo with ctxs := demo.ctxs ++ [(1, { child .stopped with root := 0x10000 })] }
     s.ckptLeft ⟨1, some (0, 0), 0, 0, 0, 0, 1, 0xFFFF, 0, 0, 0, 0⟩ = []) := by decide +kernel

/-- StartAndPowerResults: each stage, S1 with one die that passes. -/
theorem witness_StartAndPowerResults :
    State.reset.stage = .off ∧ demo.stage ≠ .off ∧ { State.reset with stage := .power }.stage = .power ∧
    (let s := { State.reset with stage := .s0, dies := 15#4 }
     s.stage = .s0 ∧ s.dies &&& 8#4 ≠ 0) ∧
    { State.reset with stage := .s1 }.stage = .s1 ∧ demo.answers = true ∧ demo.dies.getLsbD 3 = true := by decide +kernel

/-- IssueChecks: a register group out of place, a register a result is still to land in, a full replay window; one word past
each bound, and the words of an engine's and another pipe. -/
theorem witness_IssueChecks :
    (encode (.sadd64 95 0 .zero)).isSome = true ∧ (Instr.sadd64 95 0 .zero).opnds.all Opnd.ok = false ∧
    (demo.replayFull 0) = false ∧
    (let t : Tray := { loadTray with pend := [pendOf .load .loads] }
     (Instr.smov 9 .zero).opnds.all Opnd.ok = true ∧ scoreboard (demoCur.snap.getD t) 0 (Instr.smov 9 .zero).opnds = true) ∧
    (let s := { demo with ops := List.replicate 64 (opOf 1 0 0 (.performed [])) }
     64 ≤ s.replayCount 0 ∧ pipeOf 0x58004060 = .engine) := by decide +kernel

/-- WordsWithoutInstruction: the first and the last major without a row, a reserved function of each major. -/
theorem witness_WordsWithoutInstruction :
    (let m := (0x38000000 : Word).toNat / 2 ^ 25 % 64
     m = 28) ∧ (let m := (0x7E000000 : Word).toNat / 2 ^ 25 % 64
     m = 63 ∧ 54 ≤ m) ∧ decode 0x7FFFFFFF 0 = .error .unassigned ∧ decode 0x12000005 0 = .error .unassigned ∧
    decode 0x34000007 0 = .error .unassigned := by decide +kernel

/-- StepRunsTheWord: the loaded package is such a state. -/
theorem witness_StepRunsTheWord :
    let s := State.reset.withFetchWord 32 0x08204008
    let s1 := State.onTray { s.tick with sched := [] } 0 fun t => t.setPath 0 { t.path 0 with since := none }
    let s2 := s1.packetFill 0 0 0
    s.posts = [] ∧ s.inbox = [] ∧ s.sched = [2 * 0 + 0] ∧ s.trays.get? 0 = some loadTray ∧ loadTray.mustTake = false ∧
    loadTray.mayIssue 0 = true ∧ loadTray.live ≠ 0 ∧ loadTray.watch = false ∧ (loadTray.path 0).single = false ∧
    (loadTray.path 0).pc = 0 ∧
    okWith (s1.packet 0 0 0) (fun k => decide (k = (0x08204008, 0, 0)) && mkGroup k 0 false == ⟨[⟨0, 0x08204008, 0⟩], 1, false⟩) = true ∧
    (((loadTray.path 0).entry = false ∧ loadTray.entryWord ≠ some 0) ∨ s2.targetOk 0 0 0 = true) ∧
    s2.pipeHeld 0 loadTray ⟨[⟨0, 0x08204008, 0⟩], 1, false⟩ = false ∧ decode 0x08204008 0 = .ok (.saddI 8 8 1) := by
  decide +kernel

/-- StepRunsTheWord, an event: HEALTH's answer is performed by the step that takes it. -/
theorem witness_StepRunsTheWord_event :
    ∃ s1, exec (.queueResend 0) { { demo with inbox := [.queueResend 0] }.tick with inbox := [] } = .next s1 := ⟨_, rfl⟩

/-- EncodeDecode: a word with every operand at its bound. -/
theorem witness_EncodeDecode :
    (Instr.ldw 120 118 5 5 30).wf = true ∧ encode (.ldw 120 118 5 5 30) = some (0x51E3B5BE, 0) := by decide +kernel

/-- MemoryFormKept: the loaded package's memory is in canonical form, and it steps. -/
theorem witness_MemoryFormKept : demo.memOk ∧ isNext (step (State.reset.withFetchWord 32 0)) = true := by
  exact ⟨⟨by decide +kernel, by decide +kernel⟩, by decide +kernel⟩


end Sys2Proof.Tests
end

/-!
# Every step keeps the canonical form of memory (O58)

`State.memOk` speaks of two fields of the state. A function of the model that yields a state has one lemma here, named
after it: `memOk_f` when `f` answers a state (alone, in a pair or in an option), `resOk_f` when it answers a `Res`,
`nextOk_f` when it answers an outcome of the step. They stand in the order of the definitions.
-/

namespace Sys2Proof.MemoryForm
open Sys2Proof.Machine Sys2Proof.Laws

/-! ### The form in what an operation answers -/

/-- The next state, if there is one, has its memory in canonical form. -/
def NextOk : Host.Outcome State Fault Refusal → Prop
  | .next s => s.memOk
  | _ => True

/-- The state that an instruction's body carries in its result has its memory in canonical form. -/
def ResOk : Res → Prop
  | .ok _ s => s.memOk
  | .trap _ s _ => s.memOk
  | .plain _ s _ => s.memOk
  | .later _ s _ _ => s.memOk
  | .fault _ s _ _ _ => s.memOk
  | .park _ s _ _ _ _ => s.memOk
  | _ => True

/-- Each event of the list keeps the canonical form. -/
def EventsOk (l : List (State → Host.Outcome State Fault Refusal)) : Prop :=
  ∀ f ∈ l, ∀ s, s.memOk → NextOk (f s)

/-- What leaves memory and the poison marks as they are keeps the form. -/
theorem memOk_same {s s' : State} (h : s.memOk) (hm : s'.mem = s.mem) (hp : s'.poison = s.poison) : s'.memOk := by
  unfold State.memOk
  rwa [hm, hp]

/-! ### Folds, options and results -/

theorem memOk_foldl {α : Type} {f : State → α → State} {l : List α} {s : State} (h : s.memOk)
    (hf : ∀ s a, s.memOk → (f s a).memOk) : (l.foldl f s).memOk :=
  List.foldlRecOn l f h fun _ hs _ _ => hf _ _ hs

theorem memOk_foldl_fst {α β : Type} {f : State × β → α → State × β} {l : List α} {p : State × β} (h : p.1.memOk)
    (hf : ∀ (p : State × β) (a : α), p.1.memOk → (f p a).1.memOk) : (l.foldl f p).1.memOk :=
  List.foldlRecOn (motive := fun p => p.1.memOk) l f h fun _ hp _ _ => hf _ _ hp

theorem memOk_foldl_snd {α β : Type} {f : β × State → α → β × State} {l : List α} {p : β × State} (h : p.2.memOk)
    (hf : ∀ (p : β × State) (a : α), p.2.memOk → (f p a).2.memOk) : (l.foldl f p).2.memOk :=
  List.foldlRecOn (motive := fun p => p.2.memOk) l f h fun _ hp _ _ => hf _ _ hp

theorem bind_keeps {ε α β : Type} {P : β → Prop} {x : Except ε α} {f : α → Except ε β}
    (h : ∀ a, x = .ok a → ∀ b, f a = .ok b → P b) : ∀ b, x >>= f = .ok b → P b := by
  intro b e
  cases x with
  | ok a => exact h a rfl b e
  | error e' => cases e

theorem pure_keeps {ε α : Type} {P : α → Prop} {a : α} (h : P a) : ∀ b, (pure a : Except ε α) = .ok b → P b := by
  rintro _ ⟨⟩
  exact h

theorem error_keeps {ε α : Type} {P : α → Prop} {e : ε} : ∀ b, (.error e : Except ε α) = .ok b → P b := nofun

theorem foldlM_keeps {ε α β : Type} {P : β → Prop} {f : β → α → Except ε β}
    (hf : ∀ b a, P b → ∀ q, f b a = .ok q → P q) {l : List α} : ∀ {b : β}, P b → ∀ q, l.foldlM f b = .ok q → P q := by
  induction l with
  | nil => exact fun h => pure_keeps h
  | cons a l ih =>
    intro b h
    rw [List.foldlM_cons]
    exact bind_keeps fun b' hb => ih (hf _ _ h _ hb)

theorem memOk_getD {s : State} (h : s.memOk) {o : Option State} (ho : ∀ q, o = some q → q.memOk) :
    (o.getD s).memOk := by
  cases o with
  | none => exact h
  | some q => exact ho q rfl

theorem none_keeps {α : Type} {P : α → Prop} : ∀ q, (none : Option α) = some q → P q := nofun

theorem some_keeps {α : Type} {P : α → Prop} {a : α} (h : P a) : ∀ q, some a = some q → P q := by
  rintro _ ⟨⟩
  exact h

theorem map_some_keeps {α β : Type} {P : β → Prop} {o : Option α} {f : α → β} (h : ∀ a, o = some a → P (f a)) :
    ∀ q, o.map f = some q → P q := by
  cases o with
  | none => exact nofun
  | some a => exact some_keeps (h a rfl)

/-! ### The dies’ copies of memory (R157–R211)

A home writes memory when it merges what a die holds, and an L1 or an L2 only in its own fields. -/

theorem memOk_setLine {s : State} (h : s.memOk) {ln : Nat} {l : Line} : (s.setLine ln l).memOk := h

theorem memOk_applyPartial {s : State} (h : s.memOk) {ln : Nat} {c : DieCopy} : (s.applyPartial ln c).memOk := by
  unfold State.applyPartial
  grind [memOk_wr, memOk_foldl]

theorem memOk_mergeLine {s : State} (h : s.memOk) {ln : Nat} : (s.mergeLine ln).memOk := by
  unfold State.mergeLine
  grind [memOk_setLine, memOk_applyPartial, memOk_foldl]

theorem memOk_count {s : State} (h : s.memOk) {ctx k n : Nat} : (s.count ctx k n).memOk := by
  unfold State.count
  split <;> exact h

theorem memOk_homeEvict {s : State} (h : s.memOk) {die ln : Nat} : (s.homeEvict die ln).memOk := by
  unfold State.homeEvict
  split
  · exact h
  · split
    · exact memOk_applyPartial h
    · exact h

theorem memOk_takeWay {s : State} (h : s.memOk) {ctx bank ln : Nat} : (s.takeWay ctx bank ln).2.memOk := by
  unfold State.takeWay
  grind [memOk_homeEvict]

theorem memOk_allocate {s : State} (h : s.memOk) {die ctx ln : Nat} {st : CopyState} {pri op w : Nat}
    {pf : BitVec 4} : (s.allocate die ctx ln st pri op w pf).memOk := by
  unfold State.allocate
  extract_lets
  split
  · exact memOk_takeWay h
  · exact h

theorem memOk_emptyWays {s : State} (h : s.memOk) {bank : Nat} {mask : BitVec 16} : (s.emptyWays bank mask).memOk := by
  unfold State.emptyWays
  grind [memOk_homeEvict, memOk_foldl]

theorem memOk_dropWays {s : State} (h : s.memOk) {bank : Nat} {mask : BitVec 16} : (s.dropWays bank mask).memOk := by
  unfold State.dropWays
  grind [memOk_setLine, memOk_foldl]

theorem memOk_homeHit {s : State} (h : s.memOk) {die ctx ln pri : Nat} {mask : BitVec 4} {demand : Bool}
    {c : DieCopy} : (s.homeHit die ctx ln pri mask demand c).memOk := by
  unfold State.homeHit
  grind [memOk_setLine, memOk_count, State.memOk]

theorem memOk_streamSee {s : State} (h : s.memOk) {die ctx ln : Nat} {miss : Bool} {page : Option (Nat × Nat)} :
    (s.streamSee die ctx ln miss page).memOk := by
  unfold State.streamSee
  split
  · exact h
  · split <;> exact h

theorem memOk_homeRead {s : State} (h : s.memOk) {die ctx ln pri : Nat} {mask : BitVec 4} {demand : Bool}
    {page : Option (Nat × Nat)} : (s.homeRead die ctx ln pri mask demand page).memOk := by
  unfold State.homeRead
  grind [memOk_mergeLine, memOk_homeHit, memOk_streamSee, memOk_setLine, memOk_count, memOk_allocate]

theorem memOk_homePrefetch {s : State} (h : s.memOk) {die ctx ln : Nat} : (s.homePrefetch die ctx ln).memOk := by
  unfold State.homePrefetch
  grind [memOk_mergeLine, memOk_allocate, memOk_setLine, memOk_count]

theorem memOk_homeOwn {s : State} (h : s.memOk) {die ctx ln pri : Nat} {mask : BitVec 4}
    {page : Option (Nat × Nat)} : (s.homeOwn die ctx ln pri mask page).memOk := by
  unfold State.homeOwn
  grind [memOk_mergeLine, memOk_homeHit, memOk_setLine, memOk_streamSee, memOk_count, memOk_allocate]

theorem memOk_homeAtomic {s : State} (h : s.memOk) {ln : Nat} : (s.homeAtomic ln).memOk := memOk_mergeLine h

theorem memOk_homeEngine {s : State} (h : s.memOk) {ln : Nat} {wr : Bool} : (s.homeEngine ln wr).memOk := by
  unfold State.homeEngine
  extract_lets
  split <;> exact memOk_mergeLine h

theorem memOk_engineSpan {s : State} (h : s.memOk) {pa n : Nat} {wr : Bool} : (s.engineSpan pa n wr).memOk :=
  memOk_foldl h fun _ _ hs => memOk_homeEngine hs
theorem memOk_mergeSpan {s : State} (h : s.memOk) {pa n : Nat} : (s.mergeSpan pa n).memOk :=
  memOk_foldl h fun _ _ hs => memOk_mergeLine hs

theorem memOk_homeUpdate {s : State} (h : s.memOk) {die ctx ln hh w : Nat} : (s.homeUpdate die ctx ln hh w).memOk := by
  unfold State.homeUpdate
  grind [memOk_mergeLine, memOk_setLine, memOk_allocate]

theorem memOk_redAt {s : State} (h : s.memOk) {die ctx hh w pa x : Nat} {eligible : Bool} :
    (s.redAt die ctx hh w pa x eligible).memOk := by
  unfold State.redAt
  grind [memOk_wr, memOk_homeAtomic, memOk_homeUpdate, memOk_setLine]

theorem memOk_onCore {s : State} (h : s.memOk) {core : Nat} {f : Core → Core} : (s.onCore core f).memOk := h
theorem memOk_l1Fill {s : State} (h : s.memOk) {core : Nat} {f : L1Fill} {busy : List Nat} :
    (s.l1Fill core f busy).memOk := memOk_mergeLine h
theorem memOk_l1Update {s : State} (h : s.memOk) {core pa : Nat} : (s.l1Update core pa).memOk := h
theorem memOk_l1Drop {s : State} (h : s.memOk) {core pa : Nat} : (s.l1Drop core pa).memOk := h
theorem memOk_l1DropRange {s : State} (h : s.memOk) {core pa n : Nat} : (s.l1DropRange core pa n).memOk :=
  memOk_foldl h fun _ _ hs => hs
theorem memOk_l1Forget {s : State} (h : s.memOk) {pa n : Nat} : (s.l1Forget pa n).memOk := h
theorem memOk_l1Inval {s : State} (h : s.memOk) {core : Nat} {roToo : Bool} : (s.l1Inval core roToo).memOk := h

/-! ### Translation (R212–R226)

The accessed and dirty marks go to memory through `State.tblWr`; TLBs are not part of the form. -/

theorem memOk_onCtx {s : State} (h : s.memOk) {c : Nat} {f : Ctx → Ctx} : (s.onCtx c f).memOk := h
theorem memOk_remoteForget {s : State} (h : s.memOk) {pa n : Nat} : (s.remoteForget pa n).memOk := h
theorem memOk_remoteWr {s : State} (h : s.memOk) {c pa : Nat} {d : List (Byte × Bool)} : (s.remoteWr c pa d).memOk :=
  h
theorem memOk_remoteAtom {s : State} (h : s.memOk) {c pa hh w : Nat} {red : Bool} {v swp : Nat} :
    (s.remoteAtom c pa hh w red v swp).2.memOk := h

theorem memOk_tblWr {s : State} (h : s.memOk) {c pa n v : Nat} : (s.tblWr c pa n v).memOk := by
  unfold State.tblWr
  grind [memOk_remoteWr, memOk_wr, memOk_homeAtomic]

theorem memOk_tlbFill {s : State} (h : s.memOk) {core c a : Nat} {x : Xl} {range : Option (Word × Option Word)} :
    (s.tlbFill core c a x range).memOk := by
  unfold State.tlbFill
  extract_lets
  split <;> exact h

theorem memOk_stamp {s : State} (h : s.memOk) {c : Nat} {x : Xl} {step : Word} : (s.stamp c x step).memOk := by
  unfold State.stamp
  grind [memOk_tblWr, memOk_foldl]

theorem memOk_stampTlb {s : State} (h : s.memOk) {core c a : Nat} {x : Xl} {step : Word} :
    (s.stampTlb core c a x step).memOk := by
  unfold State.stampTlb
  split
  · exact memOk_stamp h
  · split
    · exact h
    · exact memOk_stamp h

theorem memOk_tlbDrop {s : State} (h : s.memOk) {own lo hi : Nat} {subs : List Nat} :
    (s.tlbDrop own lo hi subs).memOk := h

theorem memOk_bumpGen {s : State} (h : s.memOk) {c : Nat} : (s.bumpGen c).memOk := by
  unfold State.bumpGen
  split <;> exact h

theorem memOk_invalidate {s : State} (h : s.memOk) {c lo len : Nat} : (s.invalidate c lo len).memOk := by
  unfold State.invalidate
  grind [memOk_tlbDrop, memOk_bumpGen, memOk_foldl]

theorem memOk_clearStamped {s : State} (h : s.memOk) {c : Nat} : (s.clearStamped c).memOk := h

theorem memOk_fetchFill {s : State} (h : s.memOk) {core c pc : Nat} : (s.fetchFill core c pc).memOk := by
  unfold State.fetchFill
  split
  · exact memOk_tlbFill h
  · exact h

/-! ### Control pages (Tables 7.6 and 9.1) -/

theorem memOk_landWrite {s : State} (h : s.memOk) {off n v : Nat} : (s.landWrite off n v).memOk := by
  unfold State.landWrite
  grind [memOk_wr, memOk_foldl]

theorem memOk_regWrite {s : State} (h : s.memOk) {c : Nat} {l : Loc} {n v : Nat} : (s.regWrite c l n v).memOk := by
  unfold State.regWrite
  split
  · exact h
  · exact h
  · split
    · exact memOk_landWrite h
    · exact h
  · exact h

/-! ### Versioned pages (R240–R249)

Hardware’s own accesses to a context’s tables, the frame pool and copy-on-write; `State.copyPage` is the one
operation that fills the poison marks from another package’s bytes. -/

theorem memOk_hwWr {s : State} (h : s.memOk) {c va n v : Nat} : ∀ q, s.hwWr c va n v = .ok q → q.memOk := by
  unfold State.hwWr xerr
  refine bind_keeps fun x _ => ?_
  split
  · exact error_keeps
  · refine bind_keeps fun f _ => ?_
    split
    · exact error_keeps
    · exact pure_keeps (memOk_wr (memOk_homeEngine (memOk_stamp h)) _ _ _)

theorem memOk_hwWrDrop {s : State} (h : s.memOk) {c va n v : Nat} : (s.hwWrDrop c va n v).memOk := by
  unfold State.hwWrDrop
  split
  · exact memOk_hwWr h _ ‹_›
  · exact h

theorem memOk_chainWr {s : State} (h : s.memOk) {c k : Nat} {r : Chain} : (s.chainWr c k r).memOk :=
  memOk_hwWrDrop h

theorem memOk_popFrame {s : State} (h : s.memOk) {c size : Nat} : ∀ q, s.popFrame c size = some q → q.2.memOk := by
  unfold State.popFrame
  split
  · split
    · exact none_keeps
    · split
      · exact none_keeps
      · exact some_keeps h

theorem memOk_endPoolParks {s : State} (h : s.memOk) {c : Nat} : (s.endPoolParks c).memOk := h

theorem memOk_pushFrame {s : State} (h : s.memOk) {c size frame : Nat} :
    ∀ q, s.pushFrame c size frame = some q → q.memOk := by
  unfold State.pushFrame
  grind [memOk_hwWr, memOk_endPoolParks, memOk_onCtx]

theorem memOk_endParks {s : State} (h : s.memOk) {leaf : Nat} {kinds : List FaultKind} :
    (s.endParks leaf kinds).memOk := h

theorem memOk_zeroPage {s : State} (h : s.memOk) {pa : Nat} : (s.zeroPage pa).memOk := by
  unfold State.zeroPage
  grind [memOk_zeroBytes, memOk_l1Forget, memOk_engineSpan]

theorem memOk_zeroFrame {s : State} (h : s.memOk) {c frame size : Nat} : (s.zeroFrame c frame size).memOk := by
  unfold State.zeroFrame
  grind [memOk_zeroPage, memOk_foldl]

theorem memOk_returnFrame {s : State} (h : s.memOk) {c size frame : Nat} :
    ∀ q, s.returnFrame c size frame = some q → q.memOk := by
  unfold State.returnFrame
  grind [memOk_onCtx, memOk_pushFrame, memOk_zeroFrame]

theorem memOk_pushBack {s : State} (h : s.memOk) {c : Nat} : (s.pushBack c).memOk := by
  unfold State.pushBack
  grind [memOk_pushFrame, memOk_onCtx, memOk_foldl]

theorem memOk_pushMarked {s : State} (h : s.memOk) {c : Nat} : (s.pushMarked c).memOk := by
  unfold State.pushMarked
  grind [memOk_onCtx, memOk_returnFrame, memOk_chainWr, memOk_pushBack, memOk_foldl]

/-- A write that meets a shared page takes a frame and writes its chain, or parks. -/
theorem memOk_cowCheck {s : State} (h : s.memOk) {c page : Nat} {x : Xl} {step : Word} :
    ∀ q, s.cowCheck c page x step = .ok q → q.1.memOk := by
  unfold State.cowCheck
  split
  · exact pure_keeps h
  · refine bind_keeps fun r _ => ?_
    split
    · exact pure_keeps h
    · split
      · split
        · exact pure_keeps (memOk_chainWr h)
        · exact pure_keeps h
      · split
        · exact pure_keeps h
        · split
          · exact pure_keeps h
          · rename_i f s1 hp
            exact pure_keeps (memOk_same (memOk_pushMarked (memOk_chainWr (memOk_popFrame h _ hp))) rfl rfl)

/-- A page of this package is moved as it stands; one of another package is read byte by byte. -/
theorem memOk_copyPage {s : State} (h : s.memOk) {a b} : (s.copyPage a b).memOk := by
  unfold State.copyPage
  grind [memOk_engineSpan, memOk_l1Forget, memOk_copyBytes, State.memOk, smWf_smFill, Memory.wf]

theorem memOk_copyFrame {s : State} (h : s.memOk) {c old new size : Nat} : (s.copyFrame c old new size).memOk := by
  unfold State.copyFrame
  grind [memOk_copyPage, memOk_foldl]

theorem memOk_setLeafFrame {s : State} (h : s.memOk) {c leaf frame : Nat} : (s.setLeafFrame c leaf frame).memOk :=
  memOk_tblWr h
theorem memOk_setLeafMig {s : State} (h : s.memOk) {c leaf : Nat} {m : Bool} : (s.setLeafMig c leaf m).memOk :=
  memOk_tblWr h

theorem memOk_cowSwitch {s : State} (h : s.memOk) {id : Nat} : (s.cowSwitch id).memOk := by
  unfold State.cowSwitch
  grind [memOk_endParks, memOk_copyFrame, memOk_chainWr, memOk_setLeafFrame, memOk_tlbDrop, memOk_onCtx,
    State.memOk]

theorem memOk_cowFinish {s : State} (h : s.memOk) {leaf : Nat} : (s.cowFinish leaf).memOk := by
  unfold State.cowFinish
  split
  · exact memOk_cowSwitch h
  · exact h

theorem memOk_retirePage {s : State} (h : s.memOk) {c k : Nat} {p : OwnPage} : (s.retirePage c k p).memOk := by
  unfold State.retirePage
  grind [memOk_tlbDrop, memOk_returnFrame, memOk_onCtx, memOk_endParks, memOk_chainWr, memOk_foldl_fst]

theorem memOk_sliceMirror {s : State} (h : s.memOk) {c k : Nat} : (s.sliceMirror c k).memOk := by
  unfold State.sliceMirror
  extract_lets
  split
  · exact h
  · exact memOk_hwWrDrop h

theorem memOk_retireSlices {s : State} (h : s.memOk) {c : Nat} : (s.retireSlices c).memOk := by
  unfold State.retireSlices
  grind [memOk_retirePage, memOk_sliceMirror, memOk_onCtx, memOk_foldl]

/-! ### The accesses of engine operations (R168, R211)

Every engine writes through `State.physWrite`. -/

theorem memOk_physWrite {s : State} (h : s.memOk) {pa : Nat} {d : List EByte} : (s.physWrite pa d).memOk := by
  unfold State.physWrite
  grind [memOk_wrBytes, memOk_setPoison]

theorem memOk_engRdPiece {s : State} (h : s.memOk) {c va n : Nat} : ∀ q, s.engRdPiece c va n = .ok q → q.1.memOk := by
  unfold State.engRdPiece xerr
  refine bind_keeps fun l _ => ?_
  split
  · split
    · extract_lets s1
      split
      · exact pure_keeps (memOk_remoteForget h)
      · exact error_keeps
    · exact pure_keeps (memOk_homeEngine h)
  · exact pure_keeps h

theorem memOk_engRd {s : State} (h : s.memOk) {c va n : Nat} : ∀ q, s.engRd c va n = .ok q → q.1.memOk := by
  unfold State.engRd
  refine foldlM_keeps (P := fun p : State × List EByte => p.1.memOk) (fun acc p ha => ?_) h
  refine bind_keeps fun r hr => pure_keeps ?_
  exact memOk_engRdPiece ha r hr

theorem memOk_engWrPiece {s : State} (h : s.memOk) {c va : Nat} {d : List EByte} {step : Word} :
    (s.engWrPiece c va d step).1.memOk := by
  unfold State.engWrPiece
  split
  · exact h
  · extract_lets st
    split
    · exact h
    · exact memOk_cowCheck h _ ‹_›
    · rename_i s1 hc
      have h1 := memOk_cowCheck h _ hc
      grind [memOk_stamp, memOk_remoteWr, memOk_physWrite, memOk_homeEngine]
  · exact memOk_regWrite h

theorem memOk_engTry {s : State} (h : s.memOk) {c va : Nat} {step : Word} : (s.engTry c va step).1.memOk := by
  unfold State.engTry
  split
  · exact h
  · split
    · exact h
    · exact memOk_cowCheck h _ ‹_›
    · exact memOk_cowCheck h _ ‹_›
  · exact h

theorem memOk_engReady {s : State} (h : s.memOk) {c va n : Nat} {step : Word} : (s.engReady c va n step).1.memOk := by
  unfold State.engReady
  grind [memOk_engTry, memOk_cowFinish, memOk_foldl_fst]

theorem memOk_engWrPieceNow {s : State} (h : s.memOk) {c va : Nat} {d : List EByte} {step : Word} :
    (s.engWrPieceNow c va d step).1.memOk := by
  unfold State.engWrPieceNow
  grind [memOk_engWrPiece, memOk_cowFinish]

theorem memOk_engWrNow {s : State} (h : s.memOk) {c va : Nat} {d : List EByte} {step : Word} :
    (s.engWrNow c va d step).1.memOk := by
  unfold State.engWrNow
  grind [memOk_engWrPieceNow, memOk_foldl_fst]

theorem memOk_engTake {s : State} (h : s.memOk) {c va n : Nat} : (s.engTake c va n).2.memOk := by
  unfold State.engTake
  split
  · exact memOk_engRd h _ ‹_›
  · exact h

theorem memOk_upPut {s : State} (h : s.memOk) {c a : Nat} {bs : List Byte} : (s.upPut c a bs).1.memOk := by
  unfold State.upPut
  grind [memOk_physWrite, memOk_homeEngine, memOk_engWrNow, memOk_foldl]

theorem memOk_upWr {s : State} (h : s.memOk) {c a : Nat} {bs : List Byte} : ∀ q, s.upWr c a bs = some q → q.memOk := by
  unfold State.upWr
  grind [memOk_upPut]

theorem memOk_onCluster {s : State} (h : s.memOk) {k : Nat} {f : Cluster → Cluster} : (s.onCluster k f).memOk := h

/-! ### Rings and the records written to them (R230, R231, R409) -/

theorem memOk_ringWr {s : State} (h : s.memOk) {c va : Nat} {bs : List Byte} :
    ∀ q, s.ringWr c va bs = some q → q.memOk := by
  unfold State.ringWr
  grind [memOk_engWrNow]

theorem memOk_ringPut {s : State} (h : s.memOk) {c base log : Nat} {rec : List Byte} :
    (s.ringPut c base log rec).2.memOk := by
  unfold State.ringPut
  split
  · exact h
  · split
    · rename_i s2 hw
      obtain ⟨s1, h1, h2⟩ := Option.bind_eq_some_iff.1 hw
      exact memOk_ringWr (memOk_ringWr h _ h1) _ h2
    · exact h

theorem memOk_ringPost {s : State} (h : s.memOk) {c base log : Nat} {rec : List Byte} :
    (s.ringPost c base log rec).memOk := by
  unfold State.ringPost
  split
  · grind [memOk_ringPut]
  · split
    · exact h
    · exact memOk_getD h (memOk_ringWr h)

theorem memOk_hostEvent {s : State} (h : s.memOk) {typ chan ctx value status : Nat} :
    (s.hostEvent typ chan ctx value status).memOk := by
  unfold State.hostEvent
  extract_lets
  split <;> exact h

theorem memOk_childRecord {s : State} (h : s.memOk) {c : Nat} {rec : List Byte} : (s.childRecord c rec).memOk := by
  unfold State.childRecord
  extract_lets
  split
  · exact h
  · exact memOk_ringPost h

theorem memOk_faultRecord {s : State} (h : s.memOk) {f : XFault} {rp : Bool} {i : FaultInfo} :
    (s.faultRecord f rp i).memOk := by
  unfold State.faultRecord
  split <;> exact h

theorem memOk_reportWrite {s : State} (h : s.memOk) {i : Nat} : (s.reportWrite i).memOk := by
  unfold State.reportWrite
  grind [memOk_ringPost, memOk_ringPut, State.memOk]

theorem memOk_reportGrant {s : State} (h : s.memOk) {die : Nat} : (s.reportGrant die).memOk := by
  unfold State.reportGrant
  extract_lets can left pick
  clear_value pick
  split
  · exact h
  · split
    · exact h
    · refine memOk_reportWrite ?_
      exact h

theorem memOk_stopRecord {s : State} (h : s.memOk) {i : StopInfo} : (s.stopRecord i).memOk := by
  unfold State.stopRecord
  extract_lets
  split
  · exact h
  · exact memOk_ringPost h

/-! ### What the instructions share (R28–R31, R405)

An instruction’s body answers a `Res`; `nextOk_issue` asks of it only `ResOk`. -/

theorem memOk_setTray {s : State} (h : s.memOk) {key : Nat} {t : Tray} : (s.setTray key t).memOk := h
theorem memOk_onTray {s : State} (h : s.memOk) {key : Nat} {f : Tray → Tray} : (s.onTray key f).memOk := h
theorem memOk_newPark {s : State} (h : s.memOk) {core : Nat} : (s.newPark core).2.memOk := h
theorem memOk_haltLine {s : State} (h : s.memOk) {c : Nat} : (s.haltLine c).memOk := h

theorem memOk_reflect {s : State} (h : s.memOk) {key : Nat} {causes : BitVec 64} {rtype npc : Nat}
    {x : Option Nat} {trefl : Bool} : (s.reflect key causes rtype npc x trefl).memOk := by
  unfold State.reflect
  grind [memOk_newPark, memOk_childRecord, memOk_onTray, memOk_haltLine]

theorem memOk_raise {s : State} (h : s.memOk) {key path : Nat} {cs : List Cause} {word : Pc} {single : Bool}
    {x : Option Nat} : (s.raise key path cs word single x).memOk := by
  unfold State.raise
  extract_lets
  split
  · exact h
  · extract_lets
    split
    · exact h
    · split
      · exact h
      · split
        · exact h
        · split
          · exact h
          · exact memOk_reflect (memOk_setTray h)

theorem memOk_redeliver {s : State} (h : s.memOk) {key : Nat} : (s.redeliver key).memOk := by
  unfold State.redeliver
  split
  · exact h
  · split
    · exact h
    · exact memOk_reflect (memOk_onTray h)

theorem memOk_setXwait {s : State} (h : s.memOk) {c : Cur} : (s.setXwait c).memOk := h
theorem memOk_takeTurn {s : State} (h : s.memOk) {c : Cur} : (s.takeTurn c).memOk := h
theorem memOk_setNeed {s : State} (h : s.memOk) {c : Cur} {n : Nat} : (s.setNeed c n).memOk := h

theorem memOk_parkTray {s : State} (h : s.memOk) {key path : Nat} {f : XFault} {wr fetch : Bool} {pc : Pc}
    {left : Mask} : (s.parkTray key path f wr fetch pc left).memOk := by
  unfold State.parkTray
  grind [memOk_newPark, memOk_onTray, memOk_faultRecord]

theorem memOk_endGroup {s : State} (h : s.memOk) {key path : Nat} : (s.endGroup key path).memOk := by
  unfold State.endGroup
  split
  · exact h
  · split
    · exact h
    · split
      · exact h
      · exact memOk_raise (memOk_setTray h)

theorem memOk_finish {s : State} (h : s.memOk) {c : Cur} : (s.finish c).memOk := by
  unfold State.finish
  grind [memOk_endGroup]

theorem memOk_examine {r : Res} {c : Cur} {s : State} (h : s.memOk) : (r.examine c s).memOk := by
  unfold Res.examine
  grind [memOk_setXwait, memOk_takeTurn, memOk_setNeed, State.memOk]

theorem memOk_perform {r : Res} (hr : ResOk r) {c : Cur} {t : Tray} {s : State} (h : s.memOk) :
    (r.perform c t s).memOk := by
  unfold Res.perform
  cases r <;> simp only [ResOk] at hr <;>
  grind [memOk_finish, memOk_raise, memOk_parkTray, memOk_faultRecord, memOk_setTray, memOk_setXwait, memOk_takeTurn,
    memOk_setNeed]

theorem nextOk_outcome {r : Res} (hr : ResOk r) {c : Cur} {t : Tray} {s : State} (h : s.memOk) :
    NextOk (r.outcome c t s) := by
  unfold Res.outcome
  grind [memOk_examine, memOk_perform, NextOk]

/-- An instruction word keeps the form if its body does: the checks at issue touch trays only (R44, R45). -/
theorem nextOk_issue {ops : List Opnd} {s : State} (h : s.memOk) {body : Src → Tray → State → Res}
    (hb : ∀ r t, ResOk (body r t s)) : NextOk (issue ops s body) := by
  unfold issue
  split
  · grind [NextOk]
  · split
    · grind [NextOk]
    · grind [nextOk_outcome, ResOk]

theorem nextOk_issueTray {s : State} (h : s.memOk) {ops : List Opnd} {f : Src → Tray → Tray} :
    NextOk (issueTray ops s f) := nextOk_issue h fun _ _ => h

theorem memOk_patchImage {s : State} (h : s.memOk) {b : Batch} {off : Nat} {bs : List Byte} :
    (s.patchImage b off bs).memOk := by
  unfold State.patchImage
  split
  · exact h
  · exact memOk_getD h (memOk_upWr h)

theorem memOk_patchTray {s : State} (h : s.memOk) {batch idx : Nat} {old : Tray} :
    (s.patchTray batch idx old).memOk := by
  unfold State.patchTray
  grind [memOk_patchImage, memOk_foldl]

theorem memOk_onSaved {s : State} (h : s.memOk) {batch idx : Nat} {f : Tray → Tray} :
    (s.onSaved batch idx f).memOk := by
  unfold State.onSaved
  grind [memOk_patchTray, State.memOk]

theorem memOk_onSavedAll {s : State} (h : s.memOk) {ok : Tray → Bool} {f : Tray → Tray} :
    (s.onSavedAll ok f).memOk := memOk_foldl h fun _ _ hs => memOk_onSaved hs

theorem memOk_onTrayOf {s : State} (h : s.memOk) {batch idx : Nat} {f : Tray → Tray} :
    (s.onTrayOf batch idx f).memOk := by
  unfold State.onTrayOf
  split
  · exact h
  · exact memOk_onSaved h

theorem memOk_onOp {s : State} (h : s.memOk) {id : Nat} {f : Op → Op} : (s.onOp id f).memOk := h
theorem memOk_dropOp {s : State} (h : s.memOk) {id : Nat} : (s.dropOp id).memOk := h

/-! ### Fetching a packet (R37) -/

theorem memOk_packetFill {s : State} (h : s.memOk) {core c : Nat} {pc : Pc} : (s.packetFill core c pc).memOk := by
  unfold State.packetFill
  grind [memOk_fetchFill]

/-! ### Acquires and joins (R195, R204) -/

theorem memOk_hear {s : State} (h : s.memOk) {core : Nat} : (s.hear core).memOk := h

theorem memOk_acquire {s : State} (h : s.memOk) {core : Nat} {t : Tray} {scope : Nat} :
    (s.acquire core t scope).memOk := by
  unfold State.acquire
  split <;> exact h

theorem memOk_ite_acquire {s : State} (h : s.memOk) {b : Prop} [Decidable b] {core n : Nat} {t : Tray} :
    (if b then s.acquire core t n else s).memOk := by
  split
  · exact memOk_acquire h
  · exact h

theorem memOk_join {s : State} (h : s.memOk) {core : Nat} {t : Tray} : (s.join core t).2.memOk := by
  unfold State.join
  split <;> exact h

/-! ### Control flow (R131–R149) -/

theorem resOk_jump {s : State} (h : s.memOk) {r : Src} {t t1 : Tray} {target : Pc} : ResOk (r.jump t t1 s target) := by
  unfold Src.jump
  split <;> exact h

theorem nextOk_branch {s : State} (h : s.memOk) {i : Instr} {disp : BitVec 15} {taken : Src → Bool} :
    NextOk (branch i s disp taken) := by
  unfold branch
  refine nextOk_issue h fun _ _ => ?_
  extract_lets
  split
  · exact resOk_jump h
  · exact h

theorem resOk_jumpPair {s : State} (h : s.memOk) {r : Src} {t t1 : Tray} {x : BitVec 7} :
    ResOk (r.jumpPair t t1 s x) := by
  unfold Src.jumpPair
  split
  · exact h
  · exact resOk_jump h

theorem nextOk_execLoop {s : State} (h : s.memOk) {x : BitVec 7} {disp : BitVec 15} : NextOk (execLoop x disp s) := by
  unfold execLoop
  refine nextOk_issue h fun _ _ => ?_
  extract_lets
  split
  · exact h
  · exact resOk_jump h

theorem nextOk_execBrd {s : State} (h : s.memOk) {x : BitVec 7} {disp : BitVec 15} : NextOk (execBrd x disp s) := by
  unfold execBrd
  refine nextOk_issue h fun _ _ => ?_
  extract_lets
  split
  · trivial
  · split
    · exact h
    · split
      · exact resOk_jump h
      · split
        · split <;> exact h
        · split
          · exact h
          · exact resOk_jump h

theorem nextOk_execJoin {s : State} (h : s.memOk) : NextOk (execJoin s) := by
  unfold execJoin
  refine nextOk_issue h fun _ _ => ?_
  extract_lets
  split
  · trivial
  · split
    · split
      · exact h
      · split <;> exact h
    · split <;> exact h

theorem nextOk_execJoinMerge {s : State} (h : s.memOk) {tray : Nat} : NextOk (execJoinMerge tray s) := by
  unfold execJoinMerge
  split
  · exact h
  · split
    · exact h
    · split
      · exact h
      · split
        · exact h
        · exact memOk_raise (memOk_setTray h)

theorem nextOk_execWaitc {s : State} (h : s.memOk) {l st y m : BitVec 5} : NextOk (execWaitc l st y m s) := by
  unfold execWaitc
  grind [nextOk_issue, memOk_join, ResOk]

theorem memOk_letGo {s : State} (h : s.memOk) {batch : Nat} {w : Wait} : (s.letGo batch w).memOk := by
  unfold State.letGo
  grind [memOk_onSavedAll, State.memOk]

theorem memOk_releaseBar {s : State} (h : s.memOk) {batch : Nat} : (s.releaseBar batch).memOk := by
  unfold State.releaseBar
  split
  · exact memOk_letGo h
  · exact h

theorem memOk_releaseCbar {s : State} (h : s.memOk) {k : Nat} : (s.releaseCbar k).memOk := by
  unfold State.releaseCbar
  grind [memOk_letGo, memOk_l1Inval, memOk_hear, memOk_foldl]

theorem resOk_settle {r : Src} {t : Tray} {s : State} (h : s.memOk) {f : State → State}
    (hf : ∀ s, s.memOk → (f s).memOk) : ResOk (r.settle t s f) := hf _ (memOk_setTray h)

theorem nextOk_execBar {s : State} (h : s.memOk) : NextOk (execBar s) := by
  unfold execBar
  refine nextOk_issue h fun _ _ => ?_
  extract_lets
  split
  · trivial
  · exact resOk_settle h fun _ hs => memOk_releaseBar hs

theorem nextOk_execCbar {s : State} (h : s.memOk) : NextOk (execCbar s) := by
  unfold execCbar
  refine nextOk_issue h fun _ _ => ?_
  extract_lets
  split
  · trivial
  · exact resOk_settle h fun _ hs => memOk_releaseCbar hs

theorem nextOk_execReggrow {s : State} (h : s.memOk) {b : SB} : NextOk (execReggrow b s) := by
  unfold execReggrow
  refine nextOk_issue h fun _ _ => ?_
  extract_lets
  split
  · trivial
  · split
    · exact h
    · split
      · trivial
      · split <;> exact h

theorem nextOk_execRegshrink {s : State} (h : s.memOk) {b : SB} : NextOk (execRegshrink b s) := by
  unfold execRegshrink
  refine nextOk_issue h fun _ _ => ?_
  extract_lets
  split
  · trivial
  · exact h

theorem nextOk_execReggrowGrant {s : State} (h : s.memOk) {core : Nat} : NextOk (execReggrowGrant core s) := by
  unfold execReggrowGrant
  split
  · exact h
  · split
    · exact h
    · split <;> exact h

/-! ### What the memory instructions share (R157–R172) -/

theorem memOk_cowAll {s : State} (h : s.memOk) {c : Nat} {step : Word} {k : Checked} :
    ∀ q, s.cowAll c step k = .ok q → q.1.memOk := by
  unfold State.cowAll
  refine foldlM_keeps (P := fun p : State × Checked => p.1.memOk) (fun acc x ha => ?_) h
  split
  · split
    · exact pure_keeps (memOk_cowCheck ha _ ‹_›)
    · exact pure_keeps (memOk_cowCheck ha _ ‹_›)
    · split
      · exact pure_keeps ha
      · exact error_keeps
  · exact pure_keeps ha

theorem memOk_tlbFillAll {s : State} (h : s.memOk) {core c : Nat} {l : List Placed} :
    (s.tlbFillAll core c l).memOk := by
  unfold State.tlbFillAll
  grind [memOk_tlbFill, memOk_foldl]

theorem resOk_finish {s : State} (h : s.memOk) {k : Checked} {c : Ctr} {t : Tray} {wr : Bool} :
    ResOk (k.finish c t s wr) := by
  unfold Checked.finish
  split <;> exact h

theorem memOk_logAccess {s : State} (h : s.memOk) {c core slot : Nat} {k : AccKind} {va n : Nat} :
    (s.logAccess c core slot k va n).2.memOk := by
  unfold State.logAccess
  grind [memOk_ringPost, memOk_foldl_snd]

theorem memOk_log {s : State} (h : s.memOk) {r : Src} {t : Tray} {k : AccKind} {l : List Lane} {n : Nat} :
    (r.log t s k l n).2.memOk := memOk_foldl_snd h fun _ _ hs => memOk_logAccess hs
theorem memOk_exchange {s : State} (h : s.memOk) {core : Nat} {agents : List Nat} : (s.exchange core agents).memOk :=
  h

theorem resOk_inTurn {r : Src} {s : State} (h : s.memOk) {cores : List Nat} {go : State → Res}
    (hg : ∀ s, s.memOk → ResOk (go s)) : ResOk (r.inTurn s cores go) := by
  unfold Src.inTurn
  grind [ResOk, memOk_onCore]

theorem memOk_serveLine {s : State} (h : s.memOk) {core c pri : Nat} {fills : List Nat} {l : List Req} {ln : Nat} :
    (s.serveLine core c pri fills l ln).2.memOk := by
  unfold State.serveLine
  grind [memOk_homeAtomic, memOk_count, memOk_onCore, memOk_homeEngine, memOk_homeRead, memOk_foldl]

theorem memOk_serve {s : State} (h : s.memOk) {core c pri : Nat} {qq : List Req} {fills : List Nat} :
    (s.serve core c pri qq fills).memOk := memOk_foldl_snd h fun _ _ hs => memOk_serveLine hs

theorem memOk_forgetAll {s : State} (h : s.memOk) {l : List Placed} {n : Nat} : (s.forgetAll l n).memOk := by
  unfold State.forgetAll
  grind [memOk_remoteForget, memOk_foldl]

theorem memOk_ownLines {s : State} (h : s.memOk) {core c pri : Nat} {l : List Placed} :
    (s.ownLines core c pri l).memOk := by
  unfold State.ownLines
  grind [memOk_homeAtomic, memOk_homeOwn, memOk_foldl]

theorem memOk_updateLines {s : State} (h : s.memOk) {core c : Nat} {l : List Placed} :
    (s.updateLines core c l).memOk := by
  unfold State.updateLines
  grind [memOk_homeHit, memOk_foldl]

theorem memOk_putAt {s : State} (h : s.memOk) {core c : Nat} {x : Xl} {n v : Nat} : (s.putAt core c x n v).memOk := by
  unfold State.putAt
  grind [memOk_remoteWr, memOk_wr]

theorem memOk_storeAt {s : State} (h : s.memOk) {core c : Nat} {step : Word} {x : Placed} {n v : Nat} :
    (s.storeAt core c step x n v).memOk := by
  unfold State.storeAt
  split
  · exact memOk_putAt (memOk_stampTlb h)
  · exact memOk_regWrite h

theorem memOk_storeL1 {s : State} (h : s.memOk) {core hh : Nat} {l : List Placed} : (s.storeL1 core hh l).memOk := by
  unfold State.storeL1
  grind [memOk_l1Drop, memOk_l1Update, memOk_foldl]

theorem memOk_atomAt {s : State} (h : s.memOk) {core c : Nat} {step : Word} {hh w : Nat} {red : Bool} {x : Placed}
    {v swp : Nat} : (s.atomAt core c step hh w red x v swp).2.memOk := by
  unfold State.atomAt
  grind [memOk_stampTlb, memOk_remoteAtom, memOk_l1Drop, memOk_redAt, memOk_homeAtomic, memOk_wr, memOk_regWrite]

/-! ### What the engines share (R10–R22) -/

/-- As `nextOk_issue`, for a word that goes to an engine port and may be refused there (R14). -/
theorem nextOk_engine {ops : List Opnd} {s : State} (h : s.memOk) {body : Src → Tray → State → Res}
    (hb : ∀ r t, ResOk (body r t s)) : NextOk (engine ops s body) := by
  unfold engine
  grind [nextOk_issue, memOk_examine, NextOk]

theorem nextOk_engineLate {ops : List Opnd} {s : State} (h : s.memOk) {body : Src → Tray → State → Res}
    (hb : ∀ r t, ResOk (body r t s)) : NextOk (engineLate ops s body) := by
  unfold engineLate
  grind [nextOk_engine, ResOk]

theorem memOk_send {s : State} (h : s.memOk) {r : Src} {t : Tray} {eng unit : Nat} {ver : Word} {ctr : Option Ctr}
    {sdst vdst : List Nat} {body : OpBody} : (r.send t s eng unit ver ctr sdst vdst body).2.memOk := h
theorem memOk_ask {s : State} (h : s.memOk) {r : Src} {t : Tray} {eng unit : Nat} {sdst vdst : List Nat} {k : Cmd} :
    (r.ask t s eng unit sdst vdst k).2.memOk := h
theorem memOk_order {s : State} (h : s.memOk) {r : Src} {t : Tray} {eng unit : Nat} {k : Cmd} :
    (r.order t s eng unit k).2.memOk := h

theorem memOk_opLog {s : State} (h : s.memOk) {o : Op} {k : AccKind} {va n : Nat} : (s.opLog o k va n).memOk := by
  unfold State.opLog
  grind [memOk_logAccess, memOk_onTrayOf]

theorem memOk_opRd {s : State} (h : s.memOk) {o : Op} {va n : Nat} : ∀ q, s.opRd o va n = .ok q → q.1.memOk := by
  unfold State.opRd
  refine bind_keeps fun r hr => pure_keeps ?_
  exact memOk_opLog (memOk_engRd h r hr)

theorem memOk_opL1Drop {s : State} (h : s.memOk) {o : Op} {va n : Nat} : (s.opL1Drop o va n).memOk := by
  unfold State.opL1Drop
  grind [memOk_l1DropRange, memOk_foldl]

theorem memOk_opWr {s : State} (h : s.memOk) {o : Op} {va : Nat} {d : List EByte} : (s.opWr o va d).1.memOk := by
  unfold State.opWr
  grind [memOk_engReady, memOk_engWrNow, memOk_opLog, memOk_opL1Drop]

theorem memOk_opRecord {s : State} (h : s.memOk) {o : Op} {f : XFault} {rp wr : Bool} {token : Nat} :
    (s.opRecord o f rp wr token).memOk := memOk_faultRecord h

theorem memOk_opFault {s : State} (h : s.memOk) {o : Op} {f : XFault} {wr : Bool} {slots : Nat} :
    (s.opFault o f wr slots).2.memOk := by
  unfold State.opFault
  grind [memOk_newPark, memOk_onOp, memOk_opRecord]

theorem memOk_cmdWait {s : State} (h : s.memOk) {o : Op} {f : XFault} : (s.cmdWait o f).2.memOk := by
  unfold State.cmdWait
  grind [memOk_opFault, State.memOk]

theorem memOk_opAnswer {s : State} (h : s.memOk) {o : Op} {data : List RegWrite} : (s.opAnswer o data).memOk :=
  memOk_onTrayOf h
theorem memOk_opDone {s : State} (h : s.memOk) {o : Op} {data : List RegWrite} {err : Option (Ctr × Cause)}
    {wrote : Bool} : (s.opDone o data err wrote).memOk := memOk_onTrayOf (memOk_dropOp h)

theorem memOk_unitRecords {s : State} (h : s.memOk) {c : Nat} {w : StopWait} {l : List (Option Tag × Nat)}
    {discarded : Nat} : (s.unitRecords c w l discarded).memOk := by
  unfold State.unitRecords
  grind [memOk_stopRecord, memOk_foldl]

/-! ### Arithmetic (R101–R129) and cross-lane work (R153–R156)

The results go to a tray’s registers, so one lemma per shape of instruction is enough. -/

theorem nextOk_scalarOp {s : State} (h : s.memOk) {i : Instr} {d : BitVec 7} {f : Src → Word} :
    NextOk (scalarOp i s d f) := nextOk_issueTray h
theorem nextOk_scalarOp64 {s : State} (h : s.memOk) {i : Instr} {d : BitVec 7} {f : Src → DWord} :
    NextOk (scalarOp64 i s d f) := nextOk_issueTray h
theorem nextOk_vectorOp {s : State} (h : s.memOk) {i : Instr} {d : BitVec 7} {f : Src → Nat → Word} :
    NextOk (vectorOp i s d f) := nextOk_issueTray h
theorem nextOk_vectorOp64 {s : State} (h : s.memOk) {i : Instr} {d : BitVec 7} {f : Src → Nat → DWord} :
    NextOk (vectorOp64 i s d f) := nextOk_issueTray h

theorem nextOk_floatOp {s : State} (h : s.memOk) {i : Instr} {d : BitVec 7} {f : Src → Nat → Nat × FFlags} :
    NextOk (floatOp i s d f) := by
  unfold floatOp
  refine nextOk_issue h fun _ _ => ?_
  extract_lets
  split <;> exact h

theorem nextOk_floatOp64 {s : State} (h : s.memOk) {i : Instr} {d : BitVec 7} {f : Src → Nat → Nat × FFlags} :
    NextOk (floatOp64 i s d f) := by
  unfold floatOp64
  refine nextOk_issue h fun _ _ => ?_
  extract_lets
  split <;> exact h

theorem nextOk_cvtq {s : State} (h : s.memOk) {i : Instr} {qq : QFmt} {n : Nat} {d a : BitVec 7} {pos : BitVec 3}
    {sat mx : Bool} {rm : BitVec 2} : NextOk (cvtq i qq n d a pos sat mx rm s) := nextOk_floatOp h

theorem resOk_crossWrite {s : State} (h : s.memOk) {r : Src} {t : Tray} {d : BitVec 7} {p : Mask} {f : XFun} :
    ResOk (crossWrite r t s d p f) := by
  unfold crossWrite
  extract_lets fl
  split <;> exact h

theorem nextOk_crossOp {s : State} (h : s.memOk) {i : Instr} {d : BitVec 7} {m : BitVec 5} {ok : Bool} {f : XFun} :
    NextOk (crossOp i s d m ok f) := by
  unfold crossOp
  grind [nextOk_issue, resOk_crossWrite, ResOk]

/-! ### The matrix engine (R275–R299) -/

theorem memOk_latchTrap {s : State} (h : s.memOk) {key : Nat} {a : Arrival} : (s.latchTrap key a).memOk :=
  memOk_raise (memOk_onTray h)
theorem memOk_matrixOp {s : State} (h : s.memOk) {r : Src} {t : Tray} {body : MatrixOp} :
    (r.matrixOp t s body).2.memOk := h

theorem memOk_gangRelease {s : State} (h : s.memOk) {core batch : Nat} {l : List (Nat × Arrival)} {d : Nat}
    {v : Word} : (s.gangRelease core batch l d v).memOk := by
  unfold State.gangRelease
  extract_lets
  split
  · exact memOk_foldl h fun _ _ hs => hs
  · split <;> exact memOk_foldl h fun _ _ hs => hs

theorem memOk_release {s : State} (h : s.memOk) {r : Src} {batch cluster : Nat} {l : List (Nat × Arrival)}
    {w : GangWord} : (r.release s batch cluster l w).memOk := by
  unfold Src.release
  grind [memOk_onTray, memOk_matrixOp, memOk_setTray, memOk_gangRelease, memOk_foldl]

theorem resOk_arrive {s : State} (h : s.memOk) {r : Src} {t : Tray} {ctrs : List Ctr} {sdst : List Nat}
    {a : Arrival} : ResOk (r.arrive t s ctrs sdst a) := by
  unfold Src.arrive
  extract_lets core l ids t1 a'
  split
  · exact memOk_foldl h fun s x hs => memOk_latchTrap hs
  · refine resOk_settle h fun s hs => ?_
    split
    · exact hs
    · exact memOk_release hs

theorem nextOk_execGangLatchTimeout {s : State} (h : s.memOk) {tray : Nat} : NextOk (execGangLatchTimeout tray s) := by
  unfold execGangLatchTimeout
  split
  · exact h
  · split
    · exact memOk_latchTrap h
    · exact h

theorem memOk_dissolve {s : State} (h : s.memOk) {key : Nat} : (s.dissolve key).memOk := by
  unfold State.dissolve
  grind [memOk_onSavedAll, memOk_latchTrap, memOk_foldl, State.memOk]

theorem nextOk_execGang {s : State} (h : s.memOk) {d : BitVec 7} {b : SB} : NextOk (execGang d b s) := by
  unfold execGang
  refine nextOk_engine h fun _ _ => ?_
  extract_lets
  split
  · trivial
  · split
    · trivial
    · split
      · trivial
      · split
        · exact h
        · exact resOk_arrive h

theorem nextOk_mmaOp {s : State} (h : s.memOk) {i : Instr} {dist : Bool} {tf a : BitVec 7} {b : SB} :
    NextOk (mmaOp i dist tf a b s) := by
  unfold mmaOp
  grind [nextOk_engine, resOk_arrive, ResOk]

theorem nextOk_execMtopk {s : State} (h : s.memOk) {tf src : BitVec 7} {k : BitVec 8} :
    NextOk (execMtopk tf src k s) := by
  unfold execMtopk
  refine nextOk_engine h fun _ _ => ?_
  extract_lets
  split
  · trivial
  · split
    · trivial
    · exact resOk_arrive h

theorem nextOk_execMfence {s : State} (h : s.memOk) {d : BitVec 7} : NextOk (execMfence d s) := by
  unfold execMfence
  refine nextOk_engine h fun _ _ => ?_
  extract_lets
  split
  · trivial
  · split
    · trivial
    · split
      · trivial
      · exact resOk_arrive h

theorem nextOk_execMzero {s : State} (h : s.memOk) {b : SB} : NextOk (execMzero b s) := by
  unfold execMzero
  refine nextOk_engine h fun _ _ => ?_
  extract_lets
  split
  · trivial
  · split
    · trivial
    · split <;> exact h

theorem nextOk_execMrd {s : State} (h : s.memOk) {d tf : BitVec 7} {f64 peek : Bool} :
    NextOk (execMrd d tf f64 peek s) := by
  unfold execMrd
  refine nextOk_engine h fun _ _ => ?_
  extract_lets
  split
  · trivial
  · split
    · trivial
    · split
      · trivial
      · split <;> exact h

theorem nextOk_execMwr {s : State} (h : s.memOk) {tf a : BitVec 7} {f64 : Bool} : NextOk (execMwr tf a f64 s) := by
  unfold execMwr
  refine nextOk_engine h fun _ _ => ?_
  extract_lets
  split
  · trivial
  · split
    · trivial
    · exact h

theorem memOk_mmaGo {s : State} (h : s.memOk) {core : Nat} {dist : Bool} {t : Nat} {ctl : Word} {da db : DWord}
    {cluster : Nat} {regs : SMap 32} {n : Nat} : (s.mmaGo core dist t ctl da db cluster regs n).memOk := by
  unfold State.mmaGo
  extract_lets
  split <;> exact h

theorem memOk_matrixGo {s : State} (h : s.memOk) {core batch : Nat} {x3 : MatrixOp} :
    (s.matrixGo core batch x3).memOk := by
  unfold State.matrixGo
  split
  · exact memOk_mmaGo h
  · exact h
  · exact memOk_foldl h fun _ _ hs => hs
  · split <;> exact h
  · exact memOk_foldl h fun _ _ hs => memOk_onTrayOf hs

theorem memOk_matrixStop {s : State} (h : s.memOk) {core batch id : Nat} {k : MatrixOp} :
    (s.matrixStop core batch id k).memOk := by
  unfold State.matrixStop
  split
  · exact memOk_mmaGo h
  · split <;> exact h
  · split
    · exact memOk_matrixGo h
    · exact h
  · split
    · exact memOk_matrixGo h
    · exact h
  · exact h

theorem nextOk_execMatrixOpComplete {s : State} (h : s.memOk) {core : Nat} : NextOk (execMatrixOpComplete core s) := by
  unfold execMatrixOpComplete
  split
  · exact h
  · split
    · exact memOk_matrixGo h
    · exact h

/-! ### Placement (R77, R78) -/

theorem memOk_batchPlaced {s : State} (h : s.memOk) {core lslot : Nat} : (s.batchPlaced core lslot).memOk := by
  unfold State.batchPlaced
  extract_lets
  split <;> exact h

theorem memOk_batchAcquire {s : State} (h : s.memOk) {core : Nat} : (s.batchAcquire core).memOk := h

theorem memOk_startTrays {s : State} (h : s.memOk) {id : Nat} {b : Batch} {core : Nat} :
    (s.startTrays id b core).memOk := by
  unfold State.startTrays
  grind [memOk_setTray, memOk_raise, memOk_foldl, State.memOk]

theorem memOk_inputTable {s : State} (h : s.memOk) {c ptr n : Nat} : (s.inputTable c ptr n).2.memOk := by
  unfold State.inputTable
  grind [memOk_engTake]

theorem memOk_startInputs {s : State} (h : s.memOk) {id : Nat} {b : Batch} {core : Nat} :
    (s.startInputs id b core).memOk := by
  unfold State.startInputs
  split
  · exact h
  · split
    · exact h
    · exact memOk_foldl h fun _ _ hs => hs

theorem memOk_placeBatch {s : State} (h : s.memOk) {id core : Nat} : (s.placeBatch id core).memOk := by
  unfold State.placeBatch
  grind [memOk_batchPlaced, memOk_startInputs, State.memOk]

theorem memOk_placeCluster {s : State} (h : s.memOk) {id : Nat} {p : Plan} : (s.placeCluster id p).memOk := by
  unfold State.placeCluster
  split
  · exact h
  · exact memOk_foldl h fun _ _ hs => memOk_placeBatch hs

theorem memOk_unplace {s : State} (h : s.memOk) {p : Nat → Batch → Bool} : (s.unplace p).memOk :=
  memOk_foldl h fun _ _ hs => hs

theorem memOk_evictBatch {s : State} (h : s.memOk) {id : Nat} : (s.evictBatch id).memOk := by
  unfold State.evictBatch
  grind [memOk_unplace, State.memOk]

theorem memOk_makeRooms {s : State} (h : s.memOk) {die : Nat} : (s.makeRooms die).memOk := by
  unfold State.makeRooms
  extract_lets
  split
  · exact memOk_foldl h fun _ _ hs => memOk_evictBatch hs
  · exact h

theorem nextOk_execBatchPlace {s : State} (h : s.memOk) {die : Nat} : NextOk (execBatchPlace die s) := by
  refine memOk_makeRooms ?_
  extract_lets can cr w pick
  clear_value pick
  split
  · split
    · exact h
    · exact memOk_foldl h fun s x hs => memOk_placeCluster hs
  · exact h

/-! ### The stack engines (R301–R310) -/

theorem nextOk_stackOp {s : State} (h : s.memOk) {i : Instr} {f : Src → Option (List (Nat × Nat) × StackOp)} :
    NextOk (stackOp i s f) := by
  unfold stackOp
  refine nextOk_engine h fun _ _ => ?_
  extract_lets
  split
  · trivial
  · split
    · trivial
    · split
      · split
        · trivial
        · exact h
      · exact h

theorem nextOk_execHqry {s : State} (h : s.memOk) {d : BitVec 7} {b : SB} : NextOk (execHqry d b s) := by
  unfold execHqry
  refine nextOk_engine h fun _ _ => ?_
  extract_lets
  split
  · trivial
  · split
    · trivial
    · split
      · trivial
      · exact h

theorem memOk_stackRd {s : State} (h : s.memOk) {o : Op} {va n : Nat} : ∀ q, s.stackRd o va n = .ok q → q.1.memOk := by
  unfold State.stackRd
  exact bind_keeps fun _ _ => memOk_opRd h

theorem memOk_stackReady {s : State} (h : s.memOk) {o : Op} {va n : Nat} : (s.stackReady o va n).1.memOk := by
  unfold State.stackReady
  split
  · exact h
  · exact memOk_engReady h

theorem memOk_stackWr {s : State} (h : s.memOk) {o : Op} {va : Nat} {d : List EByte} : (s.stackWr o va d).1.memOk := by
  unfold State.stackWr
  split
  · exact h
  · exact memOk_opWr h

theorem memOk_stackAdd {s : State} (h : s.memOk) {o : Op} {j n : Nat} : (s.stackAdd o j n).memOk := h
theorem memOk_poisonMet {s : State} (h : s.memOk) {o : Op} {met new : List Nat} : (s.poisonMet o met new).1.memOk :=
  h

theorem memOk_gathStep {s : State} (h : s.memOk) {o : Op} {t x y es : Nat} {wide : Bool} {met : List Nat}
    {i : Nat} : (s.gathStep o t x y es wide met i).1.1.memOk := by
  unfold State.gathStep
  extract_lets e iw
  split
  · exact h
  · rename_i s1 d bad hd
    have h1 : s1.memOk := by
      refine bind_keeps (P := fun q : State × List EByte × List Nat => q.1.memOk) (fun r hr => ?_) _ hd
      refine bind_keeps fun r2 hr2 => pure_keeps ?_
      exact memOk_stackRd (memOk_stackRd h r hr) r2 hr2
    grind [memOk_stackWr, memOk_poisonMet]

theorem memOk_redGo {s : State} (h : s.memOk) {o : Op} {src n y rows typ op : Nat} :
    (s.redGo o src n y rows typ op).1.memOk := by
  unfold State.redGo
  extract_lets z
  split
  · exact h
  · have h1 := memOk_stackRd h _ ‹_›
    grind [memOk_stackWr, memOk_poisonMet]

theorem memOk_cvtStep {s : State} (h : s.memOk) {o : Op} {src y z code : Nat} {rm : RM} {sat : Bool}
    {met : List Nat} {i : Nat} : (s.cvtStep o src y z code rm sat met i).1.1.memOk := by
  unfold State.cvtStep
  split
  extract_lets k va
  split
  · exact h
  · rename_i s1 d hd
    have h1 := memOk_stackRd h _ hd
    split
    · grind [memOk_stackWr, memOk_poisonMet]
    · split
      · grind [memOk_stackWr, memOk_stackReady, memOk_poisonMet]
      · extract_lets done
        split
        · exact h1
        · have h2 := memOk_stackRd h1 _ ‹_›
          grind [memOk_stackWr, memOk_poisonMet]

theorem memOk_unitsRun {step : State → List Nat → Nat → (State × List Nat) × StepEnd}
    (hs : ∀ s l i, s.memOk → (step s l i).1.1.memOk) {n k f : Nat} {s : State} (h : s.memOk) {l i} :
    (unitsRun step n k f s l i).1.memOk := by
  induction f generalizing s l i with
  | zero => exact h
  | succ f ih => unfold unitsRun; grind

theorem memOk_stackRun {s : State} (h : s.memOk) {o : Op} {x2 : StackOp} : (s.stackRun o x2).1.memOk := by
  unfold State.stackRun
  grind [memOk_unitsRun, memOk_gathStep, memOk_redGo, memOk_cvtStep]

theorem nextOk_execStackOpComplete {s : State} (h : s.memOk) {op : Nat} : NextOk (execStackOpComplete op s) := by
  unfold execStackOpComplete
  show State.memOk _
  split
  · exact h
  · split
    · exact h
    · split
      · grind [memOk_stackRun, memOk_stackAdd, memOk_opDone, memOk_onOp, memOk_opFault]
      · exact h

/-! ### The collective engine, sending side (R314–R321) -/

theorem memOk_onTrig {s : State} (h : s.memOk) {k : Nat} {f : Trig → Trig} : (s.onTrig k f).memOk := h
theorem memOk_onPost {s : State} (h : s.memOk) {idx : Nat} {f : Posted → Posted} : (s.onPost idx f).memOk := h
theorem memOk_postFree {s : State} (h : s.memOk) {idx : Nat} : (s.postFree idx).memOk := h

theorem memOk_faceRead {s : State} (h : s.memOk) {o : Op} {p : PostPart} {off n : Nat} :
    ∀ q, s.faceRead o p off n = .ok q → q.1.memOk := by
  unfold State.faceRead
  refine foldlM_keeps (P := fun p : State × List EByte => p.1.memOk) (fun acc x ha => ?_) h
  refine bind_keeps fun r hr => pure_keeps ?_
  exact memOk_opRd ha r hr

theorem memOk_putUnit {s : State} (h : s.memOk) {c port : Nat} {u : UaUnit} : (s.putUnit c port u).memOk := by
  unfold State.putUnit
  split
  · exact h
  · split <;> exact h

theorem memOk_partErr {s : State} (h : s.memOk) {idx k kind : Nat} : (s.partErr idx k kind).memOk := by
  unfold State.partErr
  split
  · exact h
  · split <;> exact h

theorem memOk_sendUnit {s : State} (h : s.memOk) {o : Op} {idx : Nat} : (s.sendUnit o idx).2.memOk := by
  unfold State.sendUnit
  split
  · exact h
  · split
    · exact h
    · split
      · exact h
      · split
        · exact h
        · extract_lets at'
          split
          · rename_i s1 d hd
            have h1 : s1.memOk := memOk_faceRead h _ hd
            extract_lets u
            refine memOk_putUnit ?_
            exact memOk_same h1 rfl rfl
          · grind [memOk_opFault, memOk_partErr, memOk_onPost]

theorem memOk_postSettle {s : State} (h : s.memOk) {idx : Nat} : (s.postSettle idx).memOk := by
  unfold State.postSettle
  split
  · split
    · split <;> exact h
    · exact h
  · exact h

theorem memOk_sendRun {s : State} (h : s.memOk) {o : Op} {idx n : Nat} : (s.sendRun o idx n).memOk := by
  induction n generalizing s with
  | zero => exact h
  | succ n ih =>
    unfold State.sendRun
    grind [memOk_sendUnit]

theorem memOk_postGo {s : State} (h : s.memOk) {idx : Nat} : (s.postGo idx).memOk := by
  unfold State.postGo
  split
  · split
    · exact h
    · exact memOk_postSettle (memOk_sendRun h)
  · exact h

theorem memOk_fire {s : State} (h : s.memOk) {idx : Nat} : (s.fire idx).memOk := by
  unfold State.fire
  grind [memOk_onPost, memOk_postGo, State.memOk]

theorem memOk_trigFire {s : State} (h : s.memOk) {k : Nat} : (s.trigFire k).memOk := by
  unfold State.trigFire
  grind [memOk_fire, memOk_foldl]

theorem memOk_trigAdd {s : State} (h : s.memOk) {k : Nat} {n : Word} : (s.trigAdd k n).memOk :=
  memOk_trigFire (memOk_onTrig h)

theorem memOk_podAnswer {s : State} (h : s.memOk) {hh : Word} {k unit kind : Nat} :
    (s.podAnswer hh k unit kind).memOk := by
  unfold State.podAnswer
  grind [memOk_onPost, memOk_partErr, memOk_trigAdd, memOk_postSettle]

theorem nextOk_collOp {s : State} (h : s.memOk) {i : Instr} {sdst : List Nat} {legal : Src → Bool}
    {counters : Src → List Nat} {addrs : Src → List (Nat × Nat)} {f : Src → Cmd} :
    NextOk (collOp i s sdst legal counters addrs f) := by
  unfold collOp
  refine nextOk_engine h fun _ _ => ?_
  extract_lets
  split
  · trivial
  · split
    · trivial
    · split
      · split
        · trivial
        · exact h
      · exact h

theorem memOk_newPost {s : State} (h : s.memOk) {e : Posted} : ∀ q, s.newPost e = some q → q.2.memOk := by
  unfold State.newPost
  split
  · exact none_keeps
  · split
    · exact none_keeps
    · exact some_keeps h

theorem memOk_landIdentity {s : State} (h : s.memOk) {c buf len typ rop : Nat} :
    (s.landIdentity c buf len typ rop).1.memOk := memOk_engWrNow h

theorem memOk_post {s : State} (h : s.memOk) {c : Nat} {tag : Tag} {red : Bool} {src len : Nat} {w : Word}
    {w0 w1 w2 w3 : Nat} : (s.post c tag red src len w w0 w1 w2 w3).2.memOk := by
  unfold State.post
  extract_lets k kind ltag send part e
  split
  · exact h
  · have h1 := memOk_newPost h _ ‹_›
    extract_lets hd
    split
    · grind [memOk_fire]
    · split
      · exact h
      · split
        · exact h
        · split
          · split
            · grind [memOk_landIdentity]
            · rename_i s2 hl
              have h2 : s2.memOk := by grind [memOk_landIdentity]
              exact h2
          · exact h1

theorem nextOk_postOpnd {s : State} (h : s.memOk) {i : Instr} {red : Bool} {d a : BitVec 7} {b : SB} :
    NextOk (postOpnd i red d a b s) := nextOk_collOp h

theorem memOk_carmEntry {s : State} (h : s.memOk) {c : Nat} {w : Word} {f : Nat → Posted → Option State}
    (hf : ∀ i e q, f i e = some q → q.memOk) : (s.carmEntry c w f).2.memOk := by
  unfold State.carmEntry
  grind

theorem memOk_carm {s : State} (h : s.memOk) {c : Nat} {lo hi b : Word} : (s.carm c lo hi b).2.memOk := by
  unfold State.carm
  grind [memOk_carmEntry, memOk_onPost, memOk_fire, memOk_postFree, memOk_trigFire, memOk_onTrig, memOk_trigAdd,
    State.memOk]

theorem nextOk_carmOpnd {s : State} (h : s.memOk) {i : Instr} {d a : BitVec 7} {b : SB} :
    NextOk (carmOpnd i d a b s) := nextOk_collOp h

theorem memOk_halo {s : State} (h : s.memOk) {c : Nat} {tag : Tag} {va : Nat} : (s.halo c tag va).2.memOk := by
  unfold State.halo
  have h1 := memOk_engTake h (c := c) (va := va) (n := 64)
  split
  · simp_all
  · rename_i x s1 he
    rw [he] at h1
    split
    · exact h1
    · split
      · exact h1
      · split
        · exact h1
        · split
          · exact h1
          · have h2 := memOk_newPost h1 _ ‹_›
            grind [memOk_fire]

theorem nextOk_execCwait {s : State} (h : s.memOk) {d a : BitVec 7} {b : SB} : NextOk (execCwait d a b s) := by
  unfold execCwait
  refine nextOk_engine h fun _ _ => ?_
  extract_lets
  split
  · trivial
  · split
    · trivial
    · split
      · trivial
      · split <;> exact h

theorem memOk_collGo {s : State} (h : s.memOk) {o : Op} {x2 : Cmd} : (s.collGo o x2).memOk := by
  unfold State.collGo
  grind [memOk_post, memOk_opAnswer, memOk_cmdWait, memOk_dropOp, memOk_carm, memOk_halo]

theorem memOk_podNack {s : State} (h : s.memOk) {hh : Word} {k unit : Nat} : (s.podNack hh k unit).memOk := by
  unfold State.podNack
  split
  · exact h
  · extract_lets
    split <;> exact h

theorem nextOk_execUalinkResend {s : State} (h : s.memOk) {handle : BitVec 32} {part unit : Nat} :
    NextOk (execUalinkResend handle part unit s) := by
  unfold execUalinkResend
  split
  · exact h
  · split
    · exact memOk_putUnit (memOk_onPost h)
    · exact h

theorem memOk_resendUnit {s : State} (h : s.memOk) : ∀ q, s.resendUnit = some q → q.memOk := by
  unfold State.resendUnit
  split
  · exact none_keeps
  · exact map_some_keeps fun _ _ => memOk_putUnit (memOk_onPost h)

theorem nextOk_execUalinkPortDown {s : State} (h : s.memOk) {port : Nat} : NextOk (execUalinkPortDown port s) := by
  unfold execUalinkPortDown
  split <;> exact h

/-! ### The collective engine, receiving side (R321–R336) -/

theorem memOk_answerUnit {s : State} (h : s.memOk) {u : UaUnit} {unit : Nat} {ok : Bool} :
    (s.answerUnit u unit ok).memOk := by
  unfold State.answerUnit
  split
  · exact memOk_podAnswer h
  · exact h

theorem memOk_nackUnit {s : State} (h : s.memOk) {u : UaUnit} : (s.nackUnit u).memOk := by
  unfold State.nackUnit
  split
  · exact memOk_podNack h
  · exact h

theorem memOk_onArr {s : State} (h : s.memOk) {id : Nat} {f : PodArr → PodArr} : (s.onArr id f).memOk := h

theorem memOk_arrEnd {s : State} (h : s.memOk) {id : Nat} : (s.arrEnd id).memOk := by
  unfold State.arrEnd
  split
  · exact h
  · split <;> exact h

theorem memOk_arrRefuse {s : State} (h : s.memOk) {id : Nat} : (s.arrRefuse id).memOk := by
  unfold State.arrRefuse
  grind [memOk_onArr, memOk_arrEnd, memOk_answerUnit, memOk_foldl]

theorem memOk_arrMatch {s : State} (h : s.memOk) {id idx : Nat} {e : Posted} : (s.arrMatch id idx e).memOk := by
  unfold State.arrMatch
  split
  · exact h
  · split
    · exact memOk_arrRefuse h
    · split <;> exact h

theorem memOk_landEnd {s : State} (h : s.memOk) {idx : Nat} : (s.landEnd idx).memOk := by
  unfold State.landEnd
  split
  · exact h
  · split <;> exact h

theorem memOk_arrAck {s : State} (h : s.memOk) {id : Nat} : (s.arrAck id).memOk := by
  unfold State.arrAck
  grind [memOk_dropOp, memOk_answerUnit, memOk_foldl]

theorem memOk_landrDone {s : State} (h : s.memOk) {l : LandRef} : (s.landrDone l).memOk := by
  unfold State.landrDone
  grind [memOk_trigAdd, memOk_landEnd, memOk_arrAck, memOk_foldl]

theorem memOk_reduceGo {s : State} (h : s.memOk) {o : Op} {l : LandRef} {e : Posted} : (s.reduceGo o l e).memOk := by
  unfold State.reduceGo
  grind [memOk_opWr, memOk_landrDone, memOk_opFault, memOk_arrRefuse, memOk_foldl]

theorem memOk_redHome {s : State} (h : s.memOk) {o : Op} {hh w : Nat} {x : Xl} {v : Nat} :
    (s.redHome o hh w x v).memOk := memOk_redAt (memOk_stamp h)

theorem memOk_redElem {s : State} (h : s.memOk) {o : Op} {rop typ va : Nat} {d : List EByte} :
    (s.redElem o rop typ va d).memOk := by
  unfold State.redElem
  grind [memOk_redHome, memOk_setPoison]

theorem memOk_unitWrite {s : State} (h : s.memOk) {o : Op} {a : PodArr} {l : LandRef} {unit : Nat}
    {wire : List EByte} : (s.unitWrite o a l unit wire).1.memOk := by
  unfold State.unitWrite
  grind [memOk_stackReady, memOk_redElem, memOk_opLog, memOk_opWr, memOk_foldl]

theorem memOk_arrWhole {s : State} (h : s.memOk) {id : Nat} : (s.arrWhole id).memOk := by
  unfold State.arrWhole
  grind [memOk_arrAck, memOk_onArr, memOk_reduceGo, memOk_landrDone, memOk_onPost, memOk_landEnd, memOk_trigAdd]

theorem memOk_arrDrain {s : State} (h : s.memOk) {id n : Nat} : (s.arrDrain id n).memOk := by
  induction n generalizing s with
  | zero => exact h
  | succ n ih =>
    unfold State.arrDrain
    split
    · exact h
    · split
      · exact h
      · extract_lets keep
        split
        · exact h
        · split
          · grind [memOk_reduceGo]
          · split
            · grind [memOk_arrWhole]
            · split
              · exact h
              · split
                · rename_i s1 hu
                  have h1 : s1.memOk := by grind [memOk_unitWrite]
                  exact ih (memOk_onArr h1)
                · rename_i s1 f hu
                  have h1 : s1.memOk := by grind [memOk_unitWrite]
                  grind [memOk_opFault, memOk_onArr, memOk_answerUnit]

theorem memOk_arrGo {s : State} (h : s.memOk) {id : Nat} : (s.arrGo id).memOk := by
  unfold State.arrGo
  split
  · exact h
  · exact memOk_arrDrain h

theorem memOk_arriveRecord {s : State} (h : s.memOk) {k : FaultKind} {c addr : Nat} {wr : Bool} :
    (s.arriveRecord k c addr wr).memOk := memOk_faultRecord h

theorem memOk_unitKeep {s : State} (h : s.memOk) {id : Nat} {u : UaUnit} {fresh : Bool} :
    (s.unitKeep id u fresh).memOk := by
  unfold State.unitKeep
  grind [memOk_arrEnd, memOk_answerUnit, memOk_onArr, memOk_arrGo, memOk_nackUnit, memOk_dropOp]

theorem memOk_unitArrive {s : State} (h : s.memOk) {u : UaUnit} : (s.unitArrive u).memOk := by
  unfold State.unitArrive
  grind [memOk_answerUnit, memOk_arriveRecord, memOk_unitKeep, memOk_arrMatch, State.memOk]

theorem nextOk_execUalinkUnitArrive {s : State} (h : s.memOk) {u : UaUnit} : NextOk (execUalinkUnitArrive u s) := by
  unfold execUalinkUnitArrive
  split
  · exact h
  · exact memOk_unitArrive h

theorem memOk_podStep {s : State} (h : s.memOk) : ∀ q, s.podStep = some q → q.memOk := by
  unfold State.podStep
  grind [memOk_unitArrive, memOk_resendUnit, memOk_arrGo, memOk_arrMatch, memOk_postGo, State.memOk]

theorem memOk_remoteAtomic {s : State} (h : s.memOk) {o : Op} {va hh w x swp : Nat} {ret : Bool} :
    (s.remoteAtomic o va hh w x swp ret).1.memOk := by
  unfold State.remoteAtomic
  grind [memOk_stackReady, memOk_redHome, memOk_stamp, memOk_homeAtomic, memOk_wr, memOk_regWrite]

theorem memOk_remoteDo {s : State} (h : s.memOk) {o : Op} {va : Nat} {k : RemoteKind} :
    (s.remoteDo o va k).1.memOk := by
  unfold State.remoteDo
  split
  · split
    · exact memOk_opRd h _ ‹_›
    · exact h
  · exact memOk_foldl_fst h fun p a hp => by grind [memOk_opWr]
  · exact memOk_remoteAtomic h

theorem memOk_remoteArrive {s : State} (h : s.memOk) {r : RemoteAcc} : (s.remoteArrive r).memOk := by
  unfold State.remoteArrive
  grind [memOk_arriveRecord, memOk_remoteDo, memOk_opRecord, State.memOk]

theorem nextOk_execRemoteAccessArrive {s : State} (h : s.memOk) {r : RemoteAcc} :
    NextOk (execRemoteAccessArrive r s) := by
  unfold execRemoteAccessArrive
  split
  · exact memOk_remoteArrive h
  · exact h

theorem nextOk_execRemoteRetryTimeout {s : State} (h : s.memOk) {tray : Nat} :
    NextOk (execRemoteRetryTimeout tray s) := by
  unfold execRemoteRetryTimeout
  split
  · exact h
  · split
    · split <;> exact h
    · exact h

theorem memOk_loseLoads {s : State} (h : s.memOk) {key die : Nat} : (s.loseLoads key die).memOk := by
  unfold State.loseLoads
  split
  · exact h
  · split
    · exact h
    · exact memOk_raise (memOk_setTray h)

theorem nextOk_execLinkDown {s : State} (h : s.memOk) {die : Nat} : NextOk (execLinkDown die s) := by
  unfold execLinkDown
  grind [memOk_loseLoads, memOk_haltLine, memOk_hostEvent, memOk_foldl, State.memOk, NextOk]

/-! ### Raster fronts (R338–R364) -/

theorem memOk_onPass {s : State} (h : s.memOk) {k : Nat} {f : Pass → Pass} : (s.onPass k f).memOk := h
theorem memOk_frontRecord {s : State} (h : s.memOk) {f : XFault} {tag : Tag} {wr : Bool} :
    (s.frontRecord f tag wr).memOk := memOk_faultRecord h

theorem memOk_statusWrite {s : State} (h : s.memOk) {p : Pass} {state : Nat} : (s.statusWrite p state).1.memOk := by
  unfold State.statusWrite
  grind [memOk_engWrNow, memOk_frontRecord]

theorem memOk_frontRead {s : State} (h : s.memOk) {c va n : Nat} : ∀ q, s.frontRead c va n = .ok q → q.1.memOk := by
  unfold State.frontRead xerr
  refine bind_keeps fun r hr => ?_
  have h1 := memOk_engRd h r hr
  obtain ⟨s1, d⟩ := r
  dsimp only
  split
  · exact error_keeps
  · exact pure_keeps h1

theorem memOk_passFor {s : State} (h : s.memOk) {tag : Tag} {addr : Nat} : (s.passFor tag addr).2.memOk := by
  unfold State.passFor
  extract_lets c
  split
  · exact h
  · split
    · exact memOk_frontRecord h
    · rename_i s1 d hd
      have h1 : s1.memOk := memOk_frontRead h _ hd
      extract_lets p
      split
      · exact memOk_statusWrite h1
      · split
        · exact memOk_statusWrite h1
        · split
          rename_i s2 bad hw
          have h2 : s2.memOk := by grind [memOk_statusWrite]
          split
          rename_i map s3 hm
          have h3 : s3.memOk := by
            split at hm
            · cases hm; exact h2
            · split at hm
              · cases hm; exact memOk_frontRead h2 _ ‹_›
              · cases hm; exact h2
          split
          rename_i img s4 hi
          have h4 : s4.memOk := by
            split at hi
            · cases hi; exact h3
            · split at hi
              · cases hi; exact memOk_frontRead h3 _ ‹_›
              · cases hi; exact h3
          extract_lets p1 p2
          split
          rename_i s5 bad2 h5
          have h6 : s5.memOk := by grind [memOk_statusWrite]
          exact h6

theorem nextOk_frontOp {s : State} (h : s.memOk) {i : Instr} {legal : Src → Bool} {addr : Src → Nat}
    {regs : Src → Option Bool} {f : Src → Cmd} : NextOk (frontOp i s legal addr regs f) := by
  unfold frontOp
  refine nextOk_engineLate h fun _ _ => ?_
  extract_lets
  split
  · trivial
  · split
    · trivial
    · exact h
    · split
      · trivial
      · trivial
      · exact h

theorem memOk_frontGo {s : State} (h : s.memOk) {o : Op} {k : Cmd} : (s.frontGo o k).memOk := by
  unfold State.frontGo
  grind [memOk_passFor, memOk_onPass]

theorem nextOk_execPrimitiveArrive {s : State} (h : s.memOk) {pass src dst : Nat} :
    NextOk (execPrimitiveArrive pass src dst s) := by
  unfold execPrimitiveArrive
  split <;> exact h

theorem nextOk_execWatermarkArrive {s : State} (h : s.memOk) {pass src dst : Nat} :
    NextOk (execWatermarkArrive pass src dst s) := by
  unfold execWatermarkArrive
  split <;> exact h

theorem memOk_regionRate {s : State} (h : s.memOk) {p : Pass} {qq : RPrim} {x y : Nat} :
    (s.regionRate p qq x y).2.memOk := by
  unfold State.regionRate
  grind [memOk_engTake]

theorem memOk_tileQuads {s : State} (h : s.memOk) {p : Pass} {qq : RPrim} {tile : Nat} :
    (s.tileQuads p qq tile).2.memOk := by
  unfold State.tileQuads
  grind [memOk_regionRate, memOk_foldl_snd]

theorem nextOk_execTileRasterise {s : State} (h : s.memOk) {pass tile : Nat} :
    NextOk (execTileRasterise pass tile s) := by
  unfold execTileRasterise
  split
  · exact h
  · split
    · exact h
    · split
      · exact h
      · exact memOk_tileQuads h

/-! ### The launch engine (R64–R88) -/

theorem memOk_onLaunch {s : State} (h : s.memOk) {slot : Nat} {f : Launch → Launch} : (s.onLaunch slot f).memOk := h
theorem memOk_onHier {s : State} (h : s.memOk) {c level id : Nat} {f : HEntry → HEntry} :
    (s.onHier c level id f).memOk := h

theorem memOk_hierAdd {s : State} (h : s.memOk) {l : Launch} {levels : List (Nat × Nat)} {counts : Bool} :
    (s.hierAdd l levels counts).memOk := by
  induction levels generalizing s counts with
  | nil => exact h
  | cons x r ih =>
    unfold State.hierAdd
    extract_lets bump
    have hb : ∀ s, s.memOk → (bump s).memOk := by grind [memOk_onHier]
    split
    · exact ih (hb _ h)
    · refine ih (hb _ ?_)
      exact h

theorem memOk_hierSettle {s : State} (h : s.memOk) {c n : Nat} {k : Nat × Nat} : (s.hierSettle c n k).memOk := by
  induction n generalizing s k with
  | zero => exact h
  | succ n ih =>
    unfold State.hierSettle
    grind [memOk_onHier]

theorem memOk_flagLaunch {s : State} (h : s.memOk) {slot : Nat} {f : Launch → Launch} {gg : HEntry → HEntry} :
    (s.flagLaunch slot f gg).memOk := by
  unfold State.flagLaunch
  split
  · exact h
  · exact memOk_foldl h fun _ _ hs => hs

theorem memOk_flagRejected {s : State} (h : s.memOk) {slot : Nat} : (s.flagRejected slot).memOk :=
  memOk_flagLaunch h

theorem memOk_ccAdd {s : State} (h : s.memOk) {l : Launch} : (s.ccAdd l).memOk := by
  unfold State.ccAdd
  split
  · exact h
  · extract_lets c tag fail
    have hf : ∀ s f, s.memOk → (fail s f).memOk := fun s f hs => memOk_faultRecord hs
    split
    · exact hf _ _ h
    · have h1 := memOk_engRd h _ ‹_›
      grind [memOk_engWrNow]

theorem memOk_launchOver {s : State} (h : s.memOk) {slot : Nat} {l : Launch} : (s.launchOver slot l).memOk := by
  unfold State.launchOver
  grind [memOk_onLaunch, memOk_hostEvent, memOk_hierSettle, memOk_onHier]

theorem memOk_launchDrop {s : State} (h : s.memOk) {n slot k : Nat} : (s.launchDrop n slot k).memOk := by
  induction n generalizing s slot k with
  | zero => exact h
  | succ n ih =>
    unfold State.launchDrop
    grind [memOk_onLaunch, memOk_launchOver, memOk_ccAdd]

theorem memOk_launchDec {s : State} (h : s.memOk) {slot : Nat} : (s.launchDec slot).memOk := memOk_launchDrop h

theorem memOk_inputsCheck {s : State} (h : s.memOk) {c : Nat} {r : Rec} : (s.inputsCheck c r).2.2.memOk := by
  unfold State.inputsCheck
  grind [memOk_inputTable]

theorem memOk_recCheck {s : State} (h : s.memOk) {c qpos cap : Nat} {r : Rec} {parent : Option (Nat × Launch)} :
    (s.recCheck c qpos cap r parent).2.2.memOk := by
  unfold State.recCheck
  grind [memOk_inputsCheck]

theorem memOk_acceptLaunch {s : State} (h : s.memOk) {slot c qpos : Nat} {r : Rec}
    {parent : Option (Nat × Launch)} {inputs : List (Nat × Nat × Nat × Nat)} :
    (s.acceptLaunch slot c qpos r parent inputs).memOk := by
  unfold State.acceptLaunch
  grind [memOk_hierAdd, memOk_onLaunch, memOk_hierSettle, memOk_onHier, State.memOk]

theorem memOk_onQcb {s : State} (h : s.memOk) {qq : Nat} {f : Qcb → Qcb} : (s.onQcb qq f).memOk := h

theorem memOk_readSlot {s : State} (h : s.memOk) {c qq : Nat} : (s.readSlot c qq).2.memOk := by
  unfold State.readSlot
  grind [memOk_engWrNow, memOk_onQcb, memOk_engTake, memOk_recCheck, memOk_acceptLaunch]

theorem memOk_drainQueue {s : State} (h : s.memOk) {c qq n : Nat} : (s.drainQueue c qq n).memOk := by
  induction n generalizing s with
  | zero => exact h
  | succ n ih =>
    unfold State.drainQueue
    extract_lets b
    split
    · exact memOk_onQcb h
    · split
      · exact memOk_onQcb h
      · have h1 := memOk_readSlot h (c := c) (qq := qq)
        split
        · rename_i s1 hr
          rw [hr] at h1
          exact ih (memOk_onQcb h1)
        · rename_i s1 hr
          rw [hr] at h1
          exact memOk_onQcb h1
        · rename_i s1 hr
          rw [hr] at h1
          grind [memOk_onQcb, State.memOk]

theorem memOk_kick {s : State} (h : s.memOk) {qq : Nat} : (s.kick qq).memOk := by
  unfold State.kick
  extract_lets
  split
  · exact h
  · split
    · exact h
    · split
      · exact h
      · split
        · exact h
        · split
          · exact h
          · split
            · exact h
            · exact memOk_drainQueue h

theorem memOk_serveQueues {s : State} (h : s.memOk) {n : Nat} : (s.serveQueues n).memOk := by
  induction n generalizing s with
  | zero => exact h
  | succ n ih =>
    unfold State.serveQueues
    split
    · exact h
    · split
      · exact h
      · refine ih (memOk_kick ?_)
        exact h

theorem memOk_doorbell {s : State} (h : s.memOk) {qq : Nat} : (s.doorbell qq).memOk := memOk_kick (memOk_onQcb h)

theorem memOk_enableQueue {s : State} (h : s.memOk) {qq : Nat} : (s.enableQueue qq).memOk := by
  unfold State.enableQueue
  extract_lets
  split <;> exact h

theorem memOk_qcbDword {s : State} (h : s.memOk) {qq k v : Nat} : (s.qcbDword qq k v).memOk := by
  unfold State.qcbDword
  split
  · split <;> exact h
  · exact memOk_doorbell (memOk_onQcb h)
  · split
    · exact memOk_enableQueue (memOk_onQcb h)
    · exact h
  · exact h

theorem memOk_qcbWrite {s : State} (h : s.memOk) {qq off n v : Nat} : (s.qcbWrite qq off n v).memOk :=
  memOk_foldl h fun _ _ hs => memOk_qcbDword hs

theorem nextOk_execQueueKick {s : State} (h : s.memOk) {qq : Nat} : NextOk (execQueueKick qq s) := by
  unfold execQueueKick
  split
  · exact memOk_doorbell h
  · exact h

theorem nextOk_execQueueEnable {s : State} (h : s.memOk) {qq : Nat} : NextOk (execQueueEnable qq s) := by
  unfold execQueueEnable
  split
  · exact memOk_enableQueue h
  · exact h

theorem nextOk_execQueueDisable {s : State} (h : s.memOk) {qq : Nat} : NextOk (execQueueDisable qq s) := by
  unfold execQueueDisable
  split <;> exact h

theorem nextOk_execLaunchSlotFree {s : State} (h : s.memOk) {slot : Nat} : NextOk (execLaunchSlotFree slot s) := by
  unfold execLaunchSlotFree
  grind [memOk_onCtx, memOk_serveQueues, State.memOk, NextOk]

theorem memOk_addCluster {s : State} (h : s.memOk) {l : Launch} {slot : Nat} {clusterId : Word} {n : Nat}
    {mk : Nat → Nat → Batch} : (s.addCluster l slot clusterId n mk).memOk := h

theorem nextOk_execLaunchExpand {s : State} (h : s.memOk) {die slot : Nat} : NextOk (execLaunchExpand die slot s) := by
  unfold execLaunchExpand
  extract_lets
  split
  · exact h
  · extract_lets
    split <;> exact h

theorem memOk_closeWindow {s : State} (h : s.memOk) {w : Nat} : (s.closeWindow w).memOk := by
  unfold State.closeWindow
  split
  · exact h
  · exact memOk_foldl h fun _ _ hs => hs

theorem memOk_aggregate {s : State} (h : s.memOk) {slot addr : Nat} : (s.aggregate slot addr).memOk := by
  unfold State.aggregate
  split
  · exact h
  · split
    · exact h
    · split
      · exact h
      · split
        · exact h
        · extract_lets o
          clear_value o
          split
          · grind [memOk_closeWindow]
          · split
            grind [memOk_onLaunch, memOk_engWrNow, memOk_closeWindow, State.memOk]

theorem memOk_contReady {s : State} (h : s.memOk) {c i : Nat} {k : Cont} : (s.contReady c i k).memOk := by
  unfold State.contReady
  grind [memOk_addCluster, memOk_launchDec, memOk_flagRejected, memOk_onCtx]

theorem nextOk_execCont {s : State} (h : s.memOk) {d a : BitVec 7} {b : SB} : NextOk (execCont d a b s) := by
  unfold execCont
  refine nextOk_engine h fun _ _ => ?_
  extract_lets
  split
  · trivial
  · exact h

theorem memOk_contGo {s : State} (h : s.memOk) {c batch slot w fp : Nat} : (s.contGo c batch slot w fp).2.memOk := by
  unfold State.contGo
  grind [memOk_flagRejected, memOk_upPut, memOk_onLaunch, memOk_onCtx, memOk_contReady]

theorem memOk_joinDec {s : State} (h : s.memOk) {c lslot hh n : Nat} : (s.joinDec c lslot hh n).1.memOk := by
  unfold State.joinDec
  grind [memOk_flagLaunch, memOk_upPut, memOk_contReady]

theorem memOk_jdecGo {s : State} (h : s.memOk) {o : Op} {slot : Nat} {l : List (Nat × Nat)} :
    (s.jdecGo o slot l).memOk := by
  induction l generalizing s with
  | nil => exact h
  | cons x r ih =>
    unfold State.jdecGo
    grind [memOk_joinDec, memOk_cmdWait, memOk_dropOp]

theorem nextOk_execJdec {s : State} (h : s.memOk) {a : BitVec 7} {b : VB} : NextOk (execJdec a b s) :=
  nextOk_engine h fun _ _ => h

theorem memOk_spawnOne {s : State} (h : s.memOk) {c slot va : Nat} : (s.spawnOne c slot va).2.memOk := by
  unfold State.spawnOne
  split
  · exact h
  · extract_lets no
    split
    · exact memOk_flagRejected h
    · split
      · grind [memOk_engTake, memOk_flagRejected]
      · rename_i x s1 he
        have h1 : s1.memOk := by grind [memOk_engTake]
        grind [memOk_recCheck, memOk_acceptLaunch, memOk_aggregate, memOk_flagRejected]

theorem nextOk_execSpawn {s : State} (h : s.memOk) {d a : BitVec 7} : NextOk (execSpawn d a s) := by
  unfold execSpawn
  refine nextOk_engine h fun _ _ => ?_
  extract_lets
  split
  · trivial
  · exact h

theorem memOk_spawnGo {s : State} (h : s.memOk) {c slot p : Nat} {l : List (Nat × Nat)} :
    (s.spawnGo c slot p l).2.memOk := memOk_foldl_snd h fun _ _ hs => memOk_spawnOne hs

theorem memOk_leaveCluster {s : State} (h : s.memOk) {id : Nat} {b : Batch} : (s.leaveCluster id b).memOk := by
  unfold State.leaveCluster
  split <;> exact h

theorem memOk_dropRecord {s : State} (h : s.memOk) {id : Nat} : (s.dropRecord id).memOk := by
  unfold State.dropRecord
  grind [memOk_launchDec, memOk_leaveCluster, State.memOk]

theorem memOk_stopInputs {s : State} (h : s.memOk) {c : Nat} {gone : List Nat} : (s.stopInputs c gone).memOk :=
  memOk_foldl h fun _ _ hs => memOk_unitRecords hs

theorem memOk_cancelLaunch {s : State} (h : s.memOk) {slot : Nat} : (s.cancelLaunch slot).memOk := by
  unfold State.cancelLaunch
  grind [memOk_unplace, memOk_onLaunch, memOk_onCtx, memOk_dropRecord, memOk_stopInputs, memOk_launchDrop,
    memOk_foldl, State.memOk]

theorem memOk_cancelAll {s : State} (h : s.memOk) {l : List Nat} : (s.cancelAll l).memOk :=
  memOk_foldl h fun _ _ hs => memOk_cancelLaunch hs

theorem nextOk_execLcancel {s : State} (h : s.memOk) {a : BitVec 7} {lvl : BitVec 8} :
    NextOk (execLcancel a lvl s) := by
  unfold execLcancel
  refine nextOk_engine h fun _ _ => ?_
  extract_lets
  split
  · trivial
  · exact h

theorem memOk_lcancelGo {s : State} (h : s.memOk) {c slot lvl : Nat} {id : Word} :
    (s.lcancelGo c slot lvl id).memOk := by
  unfold State.lcancelGo
  grind [memOk_cancelAll, memOk_onHier, memOk_hierSettle, memOk_foldl]

theorem nextOk_execLstat {s : State} (h : s.memOk) {d a : BitVec 7} {lvl : BitVec 8} :
    NextOk (execLstat d a lvl s) := by
  unfold execLstat
  refine nextOk_engine h fun _ _ => ?_
  extract_lets
  split
  · trivial
  · split
    · trivial
    · exact h

theorem memOk_lstatGo {s : State} (h : s.memOk) {o : Op} {d slot lvl : Nat} {id : Word} :
    (s.lstatGo o d slot lvl id).memOk := by
  unfold State.lstatGo
  split
  · split
    · split
      · exact memOk_opAnswer (memOk_acquire h)
      · exact memOk_opAnswer h
    · exact memOk_opAnswer h

theorem memOk_launchGo {s : State} (h : s.memOk) {o : Op} {x2 : Cmd} : (s.launchGo o x2).memOk := by
  unfold State.launchGo
  grind [memOk_spawnGo, memOk_opAnswer, memOk_contGo, memOk_cmdWait, memOk_flagRejected, memOk_dropOp,
    memOk_jdecGo, memOk_lcancelGo, memOk_lstatGo]

theorem memOk_endBatch {s : State} (h : s.memOk) {id : Nat} {b : Batch} : (s.endBatch id b).memOk := by
  unfold State.endBatch
  grind [memOk_leaveCluster, memOk_onCtx, memOk_launchDec, State.memOk]

/-! ### EXIT and the end of a tray (R138, R139) -/

theorem memOk_trayEnds {s : State} (h : s.memOk) {key : Nat} : (s.trayEnds key).memOk := by
  unfold State.trayEnds
  grind [memOk_setTray, memOk_releaseCbar, memOk_releaseBar, memOk_dissolve]

theorem memOk_leaveWait {s : State} (h : s.memOk) {key : Nat} : (s.leaveWait key).memOk := h

theorem memOk_takeAsync {s : State} (h : s.memOk) {key : Nat} : (s.takeAsync key).memOk := by
  unfold State.takeAsync
  grind [memOk_raise, memOk_onTray, memOk_leaveWait]

theorem nextOk_execExit {s : State} (h : s.memOk) : NextOk (execExit s) := by
  unfold execExit
  refine nextOk_issue h fun _ _ => ?_
  extract_lets
  split
  · exact resOk_settle h fun _ hs => memOk_trayEnds hs
  · exact h

/-! ### Saving and restoring (R407, R410) -/

theorem memOk_saveBytes {s : State} (h : s.memOk) {c : Nat} {d : List Byte} : (s.saveBytes c d).2.memOk := by
  unfold State.saveBytes
  grind [memOk_upPut]

theorem memOk_ctxRecord {s : State} (h : s.memOk) {c rtype : Nat} : (s.ctxRecord c rtype).memOk :=
  memOk_childRecord h

theorem memOk_restart {s : State} (h : s.memOk) {c n : Nat} : (s.restart c n).memOk := by
  induction n generalizing s with
  | zero => exact h
  | succ n ih =>
    unfold State.restart
    exact ih (memOk_foldl h fun _ _ hs => memOk_onCtx hs)

theorem memOk_settleCtx {s : State} (h : s.memOk) {c : Nat} : (s.settleCtx c).memOk := by
  unfold State.settleCtx
  grind [memOk_onCtx, memOk_restart, memOk_ctxRecord]

theorem memOk_settleCtxs {s : State} (h : s.memOk) : s.settleCtxs.memOk :=
  memOk_foldl h fun _ _ hs => memOk_settleCtx hs

theorem memOk_batchLeaves {s : State} (h : s.memOk) {id : Nat} : (s.batchLeaves id).memOk := by
  unfold State.batchLeaves
  split
  · exact h
  · split
    · exact h
    · split
      · exact h
      · extract_lets tiles b
        split
        · exact h
        · split
          · grind [memOk_saveBytes]
          · rename_i at' s1 hs
            have h1 : s1.memOk := by grind [memOk_saveBytes]
            exact h1

theorem memOk_batchRetry {s : State} (h : s.memOk) {id : Nat} : (s.batchRetry id).memOk := by
  unfold State.batchRetry
  split
  · exact memOk_settleCtxs (memOk_batchLeaves h)
  · exact h

theorem memOk_tally {s : State} (h : s.memOk) {c core : Nat} {t : Tray} : (s.tally c core t).memOk := h

theorem nextOk_execTraySave {s : State} (h : s.memOk) {tray : Nat} : NextOk (execTraySave tray s) := by
  unfold execTraySave
  grind [memOk_tally, memOk_settleCtxs, memOk_batchLeaves, State.memOk, NextOk]

theorem nextOk_execClusterRegionSave {s : State} (h : s.memOk) {cluster : Nat} :
    NextOk (execClusterRegionSave cluster s) := by
  unfold execClusterRegionSave
  grind [memOk_saveBytes, memOk_settleCtxs, State.memOk, NextOk]

theorem memOk_loadTrays {s : State} (h : s.memOk) {id : Nat} {b : Batch} {core : Nat} :
    (s.loadTrays id b core).memOk := by
  unfold State.loadTrays
  grind [memOk_setTray, memOk_onCore, memOk_redeliver, memOk_foldl, State.memOk]

theorem nextOk_execBatchStart {s : State} (h : s.memOk) {batch : Nat} : NextOk (execBatchStart batch s) := by
  unfold execBatchStart
  split
  · exact h
  · split
    · exact h
    · split
      · split
        · exact memOk_loadTrays h
        · exact memOk_endBatch (memOk_flagRejected h)
      · split
        · exact h
        · split
          · exact memOk_startTrays (memOk_onCtx h)
          · exact memOk_startTrays h

theorem nextOk_execTrayResourceReturn {s : State} (h : s.memOk) {tray : Nat} :
    NextOk (execTrayResourceReturn tray s) := by
  unfold execTrayResourceReturn
  grind [memOk_settleCtxs, memOk_batchLeaves, State.memOk, NextOk]

theorem nextOk_execBatchComplete {s : State} (h : s.memOk) {batch : Nat} : NextOk (execBatchComplete batch s) := by
  unfold execBatchComplete
  split
  · exact h
  · split
    · exact h
    · exact memOk_settleCtxs (memOk_endBatch h)

/-! ### Pixel trays and exports (R351–R368) -/

theorem nextOk_execPxin {s : State} (h : s.memOk) {d : BitVec 7} {mode : BitVec 2} {cen : Bool} {k : BitVec 5} :
    NextOk (execPxin d mode cen k s) := by
  unfold execPxin
  refine nextOk_engine h fun _ _ => ?_
  extract_lets
  split
  · trivial
  · extract_lets
    split
    · trivial
    · exact h

theorem nextOk_execPxkill {s : State} (h : s.memOk) : NextOk (execPxkill s) := by
  unfold execPxkill
  refine nextOk_engine h fun _ _ => ?_
  extract_lets
  split
  · trivial
  · exact h

theorem memOk_exportAt {s : State} (h : s.memOk) {core c : Nat} {step : Word} {p : Pass} {qq : RPrim}
    {k : PixThread} : ∀ q, s.exportAt core c step p qq k = .ok q → q.1.memOk := by
  unfold State.exportAt State.exportAt.acc0 xerr
  refine foldlM_keeps (P := fun a : State × List PixelAt => a.1.memOk) (fun acc px ha => ?_) h
  refine bind_keeps fun r hr => ?_
  refine pure_keeps (P := fun a : State × List PixelAt => a.1.memOk) ?_
  refine foldlM_keeps (P := fun a : State × KMap Xl => a.1.memOk) (fun acc e ha => ?_) ha r hr
  refine bind_keeps fun l _ => ?_
  split
  · extract_lets s1
    split
    · exact pure_keeps (memOk_tlbFill ha)
    · refine bind_keeps fun w hw => ?_
      have h1 := memOk_cowCheck (memOk_tlbFill ha) w hw
      obtain ⟨s2, k⟩ := w
      cases k with
      | none => exact pure_keeps h1
      | some k => exact error_keeps
  · exact error_keeps

theorem memOk_exportCow {s : State} (h : s.memOk) {core c : Nat} {step : Word} {p : Pass} {k : PixThread} :
    (s.exportCow core c step p k).memOk := by
  unfold State.exportCow
  refine memOk_foldl h fun s px hs => memOk_foldl hs fun s e hs => ?_
  split
  · split
    · exact hs
    · split
      · exact memOk_cowCheck hs _ ‹_›
      · exact hs
  · exact hs

theorem memOk_exportAll {s : State} (h : s.memOk) {core : Nat} {t : Tray} {step : Word} {p : Pass} {x : PixTray}
    {colour : Nat → List Word} {l : List (Nat × PixThread)} :
    ∀ q, s.exportAll core t step p x colour l = .ok q → q.1.memOk := by
  unfold State.exportAll
  refine foldlM_keeps (P := fun a : State × List Export => a.1.memOk) (fun acc e ha => ?_) h
  split
  · exact pure_keeps ha
  · refine bind_keeps fun r hr => pure_keeps ?_
    exact memOk_exportAt ha r hr

theorem nextOk_execPxout {s : State} (h : s.memOk) {a : BitVec 7} : NextOk (execPxout a s) := by
  refine nextOk_engine h fun r t => ?_
  split
  · trivial
  · extract_lets n core l colour nan
    split
    · trivial
    · split
      · trivial
      · split
        · exact h
        · split
          · trivial
          · split
            · split <;> exact memOk_foldl h fun _ _ hs => memOk_exportCow hs
            · have h1 := memOk_exportAll h _ ‹_›
              grind [memOk_order, memOk_onPass, memOk_log, ResOk, State.memOk]

theorem memOk_commitRd {s : State} (h : s.memOk) {core c : Nat} {x : Xl} {n : Nat} :
    (s.commitRd core c x n).2.memOk := memOk_serve h

theorem memOk_commitWr {s : State} (h : s.memOk) {core c : Nat} {x : Xl} {off n v : Nat} :
    (s.commitWr core c x off n v).memOk := by
  unfold State.commitWr
  grind [memOk_storeL1, memOk_putAt, memOk_ownLines, memOk_stamp]

theorem memOk_blendPixel {s : State} (h : s.memOk) {p : Pass} {e : Export} {px : PixelAt} {i : Nat} :
    (s.blendPixel p e px i).1.memOk := by
  unfold State.blendPixel
  grind [memOk_commitRd, memOk_commitWr, memOk_foldl_fst]

theorem memOk_commitPixel {s : State} (h : s.memOk) {p : Pass} {e : Export} {px : PixelAt} :
    (s.commitPixel p e px).1.memOk := by
  unfold State.commitPixel
  grind [memOk_commitRd, memOk_commitWr, memOk_blendPixel, memOk_foldl_fst]

theorem nextOk_execExportCommit {s : State} (h : s.memOk) {pass k : Nat} : NextOk (execExportCommit pass k s) := by
  unfold execExportCommit
  grind [memOk_commitPixel, memOk_onPass, memOk_onTrayOf, memOk_foldl_fst, NextOk]

theorem memOk_startPixel {s : State} (h : s.memOk) {pass tile core : Nat} {p : Pass} {l : List Quad} :
    (s.startPixel pass tile core p l).memOk := by
  unfold State.startPixel
  grind [memOk_setTray, memOk_onPass, memOk_batchAcquire, memOk_batchPlaced, State.memOk]

theorem nextOk_execPixelTrayPlace {s : State} (h : s.memOk) {pass tile : Nat} :
    NextOk (execPixelTrayPlace pass tile s) := by
  unfold execPixelTrayPlace
  split
  · exact h
  · extract_lets
    split
    · exact memOk_placeBatch h
    · split
      · exact h
      · split
        · exact h
        · split
          · exact memOk_startPixel h
          · exact h

theorem nextOk_execPassEnd {s : State} (h : s.memOk) {pass : Nat} : NextOk (execPassEnd pass s) := by
  unfold execPassEnd
  grind [memOk_statusWrite, memOk_trigAdd, State.memOk, NextOk]

/-! ### The memory instructions (R157–R211)

A store writes at its issue, under the turn of `Src.inTurn`; an atomic writes through its home. -/

theorem resOk_load {s : State} (h : s.memOk) {r : Src} {t : Tray} {d : BitVec 7} {n size hh : Nat} {useL1 : Bool}
    {k : Checked} : ResOk (r.load t s d n size hh useL1 k) := by
  unfold Src.load
  extract_lets core k s1 cs q fills need go
  have h1 : s1.memOk := memOk_forgetAll h
  have hg : ∀ s, s.memOk → ResOk (go s) := by
    intro s hs
    refine resOk_finish ?_
    exact memOk_ite_acquire (memOk_log (memOk_onCore (memOk_serve (memOk_exchange hs))))
  split
  · exact resOk_finish h
  · split
    · exact h1
    · split
      · trivial
      · split
        · exact resOk_inTurn h1 hg
        · exact hg _ h1

theorem nextOk_execLd {s : State} (h : s.memOk) {d a : BitVec 7} {w hh : BitVec 3} {o : BitVec 5} :
    NextOk (execLd d a w hh o s) := by
  unfold execLd
  refine nextOk_issue h fun _ _ => ?_
  extract_lets
  split
  · trivial
  · split
    · exact h
    · split
      · exact h
      · exact resOk_load (memOk_tlbFillAll h)

theorem resOk_withBases {x : Res} (hx : ResOk x) {r : Src} {b : KMap Nat} : ResOk (x.withBases r b) := by
  cases x <;> exact hx

theorem nextOk_execLdw {s : State} (h : s.memOk) {d a : BitVec 7} {w hh : BitVec 3} {o : BitVec 5} :
    NextOk (execLdw d a w hh o s) := by
  unfold execLdw
  grind [nextOk_issue, resOk_withBases, resOk_load, memOk_tlbFillAll, ResOk]

theorem memOk_checkV {s : State} (h : s.memOk) {core c : Nat} {w : Word} {l : List Lane} :
    ∀ q, s.checkV core c w l = .ok q → q.2.2.memOk := by
  unfold State.checkV
  refine foldlM_keeps (P := fun a : Bool × Checked × State => a.2.2.memOk) (fun acc x ha => ?_) h
  obtain ⟨gone, k, s1⟩ := acc
  dsimp only
  split
  · exact pure_keeps ha
  · refine pure_keeps ?_
    dsimp only
    split
    · exact memOk_tlbFill ha
    · exact ha
  · split
    · exact pure_keeps ha
    · exact error_keeps

theorem nextOk_execLdv {s : State} (h : s.memOk) {d a : BitVec 7} {w hh : BitVec 3} {o : BitVec 5} :
    NextOk (execLdv d a w hh o s) := by
  refine nextOk_issue h fun r t => ?_
  extract_lets l
  split
  · trivial
  · split
    · exact h
    · split
      · exact h
      · exact memOk_checkV h _ ‹_›
      · exact resOk_load (memOk_checkV h _ ‹_›)

theorem memOk_stored {s : State} (h : s.memOk) {r : Src} {l : List Lane} {need : Need} :
    ∀ q, r.stored s l need = .ok q → q.1.memOk := by
  unfold Src.stored
  refine bind_keeps fun k _ => bind_keeps fun p hp => pure_keeps ?_
  exact memOk_tlbFillAll (memOk_cowAll h p hp)

theorem nextOk_execSt {s : State} (h : s.memOk) {d a : BitVec 7} {w hh : BitVec 3} {o : BitVec 5} :
    NextOk (execSt d a w hh o s) := by
  refine nextOk_issue h fun r t => ?_
  extract_lets core n l
  split
  · trivial
  · split
    · exact h
    · split
      · exact h
      · rename_i s1 k hk
        have h1 : s1.memOk := memOk_stored h _ hk
        split
        · exact resOk_finish h1
        · extract_lets t0 go
          have hg : ∀ s, s.memOk → ResOk (go s) := by
            intro s hs
            refine resOk_finish ?_
            refine memOk_ite_acquire (memOk_log (memOk_foldl (memOk_storeL1 ?_) fun _ _ hs => memOk_setPoison hs _ _))
            exact memOk_foldl (memOk_ownLines (memOk_exchange hs)) fun _ _ hs => memOk_storeAt hs
          grind [resOk_inTurn]

theorem nextOk_execAtom {s : State} (h : s.memOk) {d a : BitVec 7} {w hh : BitVec 3} {o : BitVec 5} :
    NextOk (execAtom d a w hh o s) := by
  refine nextOk_issue h fun r t => ?_
  extract_lets core n scope
  split
  · trivial
  · split
    · trivial
    · split
      · exact h
      · split
        · exact h
        · rename_i s1 k hk
          have h1 : s1.memOk := memOk_stored h _ hk
          extract_lets k1 s2 cs
          have h2 : s2.memOk := memOk_forgetAll h1
          split
          · exact resOk_finish h2
          · split
            · exact h2
            · grind [memOk_log, memOk_acquire, resOk_finish, memOk_foldl_snd, memOk_atomAt, memOk_exchange]

theorem nextOk_execRed {s : State} (h : s.memOk) {d a : BitVec 7} {w hh : BitVec 3} {o : BitVec 5} :
    NextOk (execRed d a w hh o s) := by
  refine nextOk_issue h fun r t => ?_
  extract_lets core n
  split
  · trivial
  · split
    · trivial
    · split
      · exact h
      · split
        · exact h
        · rename_i s1 k hk
          have h1 : s1.memOk := memOk_stored h _ hk
          split
          · exact resOk_finish h1
          · refine resOk_finish (memOk_log ?_)
            exact memOk_foldl (memOk_updateLines (memOk_exchange h1)) fun _ _ hs => memOk_atomAt hs

theorem resOk_spad {r : Src} {t : Tray} {s : State} (h : s.memOk) {w : Nat} {acq : Bool}
    {go : State → Tray × State} (hg : ∀ s, s.memOk → (go s).2.memOk) : ResOk (r.spad t s w acq go) := by
  unfold Src.spad
  grind [ResOk, resOk_inTurn, memOk_exchange, memOk_acquire]

theorem nextOk_execLds {s : State} (h : s.memOk) {d a : BitVec 7} {w hh : BitVec 3} {o : BitVec 5} :
    NextOk (execLds d a w hh o s) := by
  unfold execLds
  refine nextOk_issue h fun _ _ => ?_
  extract_lets
  split
  · trivial
  · split
    · split
      · exact h
      · exact resOk_spad h fun _ hs => hs
    · exact h

theorem nextOk_execSts {s : State} (h : s.memOk) {d a : BitVec 7} {w hh : BitVec 3} {o : BitVec 5} :
    NextOk (execSts d a w hh o s) := by
  unfold execSts
  refine nextOk_issue h fun _ _ => ?_
  extract_lets
  split
  · trivial
  · split
    · exact resOk_spad h fun _ hs => hs
    · exact h

theorem nextOk_execAtoms {s : State} (h : s.memOk) {d a : BitVec 7} {w hh : BitVec 3} {o : BitVec 5} :
    NextOk (execAtoms d a w hh o s) := by
  unfold execAtoms
  grind [nextOk_issue, memOk_onCluster, memOk_exchange, memOk_acquire, ResOk]

theorem nextOk_execFence {s : State} (h : s.memOk) {kind scope : BitVec 3} : NextOk (execFence kind scope s) := by
  unfold execFence
  refine nextOk_issue h fun _ _ => ?_
  split
  · extract_lets
    split
    · trivial
    · split
      · exact resOk_inTurn h fun _ hs => hs
      · exact h
  · extract_lets
    split
    · trivial
    · split
      · exact resOk_inTurn h fun _ hs => memOk_acquire hs
      · exact memOk_acquire h

theorem memOk_dropLine {s : State} (h : s.memOk) {c ln : Nat} : (s.dropLine c ln).memOk := memOk_mergeLine h
theorem memOk_lowLine {s : State} (h : s.memOk) {c ln : Nat} : (s.lowLine c ln).memOk := h

theorem nextOk_execCctl {s : State} (h : s.memOk) {a : BitVec 7} {kind : BitVec 3} {n : BitVec 5} :
    NextOk (execCctl a kind n s) := by
  unfold execCctl
  grind [nextOk_issue, memOk_l1Inval, memOk_l1DropRange, memOk_dropLine, memOk_lowLine, memOk_foldl, ResOk]

theorem memOk_prefLine {s : State} (h : s.memOk) {core c tgt : Nat} {x : Xl} : (s.prefLine core c tgt x).memOk := by
  unfold State.prefLine
  grind [memOk_homeRead, memOk_count, memOk_l1Fill, memOk_foldl]

theorem nextOk_execPref {s : State} (h : s.memOk) {a : BitVec 7} {tgt : BitVec 2} {n : BitVec 6} :
    NextOk (execPref a tgt n s) := by
  unfold execPref
  grind [nextOk_issue, memOk_prefLine, memOk_foldl, ResOk]

theorem memOk_whenPend {s : State} (h : s.memOk) {tray k : Nat} {ok : Tray → Pend → Bool}
    {f : Tray → Pend → State} (hf : ∀ t p, (f t p).memOk) : (s.whenPend tray k ok f).memOk := by
  unfold State.whenPend
  grind

theorem nextOk_execLoadComplete {s : State} (h : s.memOk) {tray k : Nat} : NextOk (execLoadComplete tray k s) := by
  unfold execLoadComplete
  grind [memOk_whenPend, memOk_l1Fill, memOk_setTray, memOk_foldl, NextOk]

theorem nextOk_execStoreComplete {s : State} (h : s.memOk) {tray k : Nat} : NextOk (execStoreComplete tray k s) :=
  memOk_whenPend h fun _ _ => h
theorem nextOk_execEngineResultLand {s : State} (h : s.memOk) {tray k : Nat} :
    NextOk (execEngineResultLand tray k s) := memOk_whenPend h fun _ _ => h
theorem nextOk_execTurnClockReport {s : State} (h : s.memOk) {core : Nat} : NextOk (execTurnClockReport core s) := h

theorem nextOk_execHomeRead {s : State} (h : s.memOk) {die ctx line : Nat} : NextOk (execHomeRead die ctx line s) := by
  unfold execHomeRead
  split
  · exact memOk_homeRead h
  · exact h

theorem nextOk_execHomeOwn {s : State} (h : s.memOk) {die ctx line : Nat} : NextOk (execHomeOwn die ctx line s) := by
  unfold execHomeOwn
  split
  · exact memOk_homeOwn h
  · exact h

theorem nextOk_execHomeAtomic {s : State} (h : s.memOk) {_die line : Nat} : NextOk (execHomeAtomic _die line s) := by
  unfold execHomeAtomic
  split
  · exact memOk_homeAtomic h
  · exact h

theorem nextOk_execHomeUpdate {s : State} (h : s.memOk) {die ctx line : Nat} {op w : BitVec 3} :
    NextOk (execHomeUpdate die ctx line op w s) := by
  unfold execHomeUpdate
  split
  · exact memOk_homeUpdate h
  · exact h

theorem nextOk_execHomeEngineAccess {s : State} (h : s.memOk) {line : Nat} {wr : Bool} :
    NextOk (execHomeEngineAccess line wr s) := by
  unfold execHomeEngineAccess
  split
  · exact memOk_homeEngine h
  · exact h

theorem nextOk_execPrefetchIssue {s : State} (h : s.memOk) {die ctx line : Nat} :
    NextOk (execPrefetchIssue die ctx line s) := by
  unfold execPrefetchIssue
  extract_lets
  split
  · exact memOk_homePrefetch h
  · exact h

theorem nextOk_execUncorrectableError {s : State} (h : s.memOk) {pa : Nat} : NextOk (execUncorrectableError pa s) := by
  unfold execUncorrectableError
  grind [memOk_setPoison, NextOk]

/-! ### The march samplers (R371–R385) -/

theorem memOk_sampAdd {s : State} (h : s.memOk) {c unit j n : Nat} : (s.sampAdd c unit j n).memOk := h

theorem memOk_sampReads {s : State} (h : s.memOk) {c core slot : Nat} {l : List (Nat × Nat)} :
    (s.sampReads c core slot l).2.memOk := by
  unfold State.sampReads
  grind [memOk_homeEngine, memOk_logAccess, memOk_foldl_snd]

theorem nextOk_samplerOp {s : State} (h : s.memOk) {i : Instr} {d a : BitVec 7} {b : SB} {form : Bool}
    {ctl : Word → Bool} {nres nop : Word → Nat} {align : Nat}
    {f : Reader → Nat → Word → List Word → (Nat → Word) → Samp (List Word)} {note : List Word → Nat × Nat} :
    NextOk (samplerOp i s d a b form ctl nres nop align f note) := by
  unfold samplerOp
  grind [nextOk_engineLate, memOk_sampAdd, memOk_sampReads, memOk_send, ResOk]

theorem nextOk_execMqry {s : State} (h : s.memOk) {d : BitVec 7} : NextOk (execMqry d s) := by
  unfold execMqry
  refine nextOk_engine h fun _ _ => ?_
  extract_lets
  split
  · trivial
  · split
    · trivial
    · exact h

theorem nextOk_execSamplerOpComplete {s : State} (h : s.memOk) {op : Nat} : NextOk (execSamplerOpComplete op s) := by
  unfold execSamplerOpComplete
  split
  · exact h
  · split
    · split
      · exact h
      · exact memOk_opDone h
    · exact h

/-! ### The copy engine and the engine rings (R256–R274) -/

theorem resOk_sendCopy {s : State} (h : s.memOk) {r : Src} {t : Tray} {unit : Nat} {k : OpBody} :
    ResOk (r.sendCopy t s unit k) := h

theorem nextOk_execCpy {s : State} (h : s.memOk) {a : BitVec 7} {b : SB} : NextOk (execCpy a b s) := by
  unfold execCpy
  grind [nextOk_engine, resOk_sendCopy, memOk_onCluster, ResOk]

theorem nextOk_execCpys {s : State} (h : s.memOk) {a : BitVec 7} : NextOk (execCpys a s) := by
  unfold execCpys
  refine nextOk_engine h fun _ _ => ?_
  extract_lets
  split
  · split
    · trivial
    · split
      · trivial
      · split
        · split
          · trivial
          · exact h
        · exact h

theorem nextOk_execCpym {s : State} (h : s.memOk) {a : BitVec 7} {b : SB} : NextOk (execCpym a b s) := by
  unfold execCpym
  refine nextOk_engine h fun _ _ => ?_
  extract_lets
  split
  · split
    · trivial
    · split
      · trivial
      · split
        · split
          · trivial
          · exact h
        · exact h

theorem nextOk_ringOp {i : Instr} {s : State} (h : s.memOk) {sdst : List Nat}
    {f : Src → Tray → State → Except Cause (State × List Word)} (hf : ∀ r t q, f r t s = .ok q → q.1.memOk) :
    NextOk (ringOp i s sdst f) := by
  unfold ringOp
  grind [nextOk_engine, memOk_ask, ResOk]

theorem nextOk_execRinit {s : State} (h : s.memOk) {d a : BitVec 7} : NextOk (execRinit d a s) := by
  unfold execRinit
  grind [nextOk_ringOp, memOk_onCluster]

theorem nextOk_execRrel {s : State} (h : s.memOk) {d : BitVec 7} {b : SB} : NextOk (execRrel d b s) := by
  unfold execRrel
  grind [nextOk_ringOp, memOk_onCluster]

theorem nextOk_execRqry {s : State} (h : s.memOk) {d : BitVec 7} {b : SB} : NextOk (execRqry d b s) := by
  unfold execRqry
  grind [nextOk_ringOp]

theorem nextOk_execRwait {s : State} (h : s.memOk) {d a : BitVec 7} {b : SB} : NextOk (execRwait d a b s) := by
  unfold execRwait
  grind [nextOk_engine, memOk_acquire, ResOk]

theorem memOk_copyUnitStep {s : State} (h : s.memOk) {o : Op} {k : CopyOp} {n : Nat} :
    (s.copyUnitStep o k n).1.memOk := by
  unfold State.copyUnitStep
  split
  · split
    · exact h
    · exact memOk_onCluster (memOk_opRd h _ ‹_›)
  · exact memOk_opWr h

theorem memOk_copyRun {s : State} (h : s.memOk) {o : Op} {f : Nat} {k : CopyOp} : (s.copyRun o f k).1.memOk := by
  induction f generalizing s k with
  | zero => exact h
  | succ f ih =>
    unfold State.copyRun
    grind [memOk_copyUnitStep]

theorem memOk_inputDone {s : State} (h : s.memOk) {batch : Nat} {err : Bool} : (s.inputDone batch err).memOk := h

theorem memOk_copyFinish {s : State} (h : s.memOk) {o : Op} {k : CopyOp} {err : Bool} :
    (s.copyFinish o k err).memOk := by
  unfold State.copyFinish
  split
  · split
    · exact h
    · exact memOk_opDone (memOk_onCluster h)
  · split
    · exact h
    · exact memOk_opDone h

theorem memOk_copyGo {s : State} (h : s.memOk) {o : Op} {k : CopyOp} : (s.copyGo o k).memOk := by
  unfold State.copyGo
  grind [memOk_copyRun, memOk_copyFinish, memOk_onOp, memOk_opFault]

theorem memOk_memberDone {s : State} (h : s.memOk) {o : Op} {err : Bool} : (s.memberDone o err).memOk :=
  memOk_opDone h

theorem memOk_memberAccept {s : State} (h : s.memOk) {o : Op} {m : MemberOp} : (s.memberAccept o m).memOk := by
  unfold State.memberAccept
  grind [memOk_memberDone, memOk_onOp, memOk_foldl]

theorem memOk_partRun {s : State} (h : s.memOk) {o : Op} {l : List (Op × MemberOp)} {f : Nat} {m : MemberOp} :
    (s.partRun o l f m).1.memOk := by
  induction f generalizing s m with
  | zero => exact h
  | succ f ih =>
    unfold State.partRun
    extract_lets part n at'
    split
    · exact h
    · split
      · exact h
      · exact ih (memOk_foldl (memOk_opRd h _ ‹_›) fun _ _ hs => memOk_onCluster hs)

theorem memOk_groupSettle {s : State} (h : s.memOk) {ctx : Nat} {m : MemberOp} : (s.groupSettle ctx m).memOk := by
  unfold State.groupSettle
  extract_lets
  split
  · exact memOk_foldl h fun _ _ hs => memOk_memberDone hs
  · exact h

theorem memOk_memberGo {s : State} (h : s.memOk) {o : Op} {m : MemberOp} : (s.memberGo o m).memOk := by
  unfold State.memberGo
  grind [memOk_partRun, memOk_groupSettle, memOk_onOp, memOk_opFault]

theorem nextOk_execCopyComplete {s : State} (h : s.memOk) {op : Nat} : NextOk (execCopyComplete op s) := by
  unfold execCopyComplete
  split
  · exact h
  · split
    · exact h
    · split
      · exact memOk_copyGo h
      · exact memOk_memberGo h
      · exact h

theorem nextOk_execCpymGroupTimeout {s : State} (h : s.memOk) {op : Nat} : NextOk (execCpymGroupTimeout op s) := by
  unfold execCpymGroupTimeout
  split
  · exact h
  · split
    · split
      · exact h
      · exact memOk_foldl h fun _ _ hs => memOk_memberDone hs
    · exact h

theorem memOk_flushRange {s : State} (h : s.memOk) {pa n : Nat} : (s.flushRange pa n).memOk :=
  memOk_foldl h fun _ _ hs => memOk_mergeLine hs

theorem memOk_flushFrame {s : State} (h : s.memOk) {c frame size : Nat} : (s.flushFrame c frame size).memOk := by
  unfold State.flushFrame
  grind [memOk_flushRange, memOk_foldl]

theorem nextOk_execMigr {s : State} (h : s.memOk) {d a : BitVec 7} {b : SB} : NextOk (execMigr d a b s) := by
  unfold execMigr
  refine nextOk_engine h fun _ _ => ?_
  extract_lets
  split
  · trivial
  · split
    · trivial
    · exact h

theorem memOk_migrFail {s : State} (h : s.memOk) {o : Op} {k : MigrOp} {st : Nat} : (s.migrFail o k st).memOk := by
  unfold State.migrFail
  grind [memOk_setLeafMig, memOk_zeroFrame, memOk_endParks, memOk_opDone]

theorem memOk_migrBegin {s : State} (h : s.memOk) {o : Op} {k : MigrOp} : (s.migrBegin o k).memOk := by
  unfold State.migrBegin
  grind [memOk_opDone, memOk_flushFrame, memOk_invalidate, memOk_setLeafMig, memOk_onOp]

theorem memOk_migrSwitch {s : State} (h : s.memOk) {o : Op} {k : MigrOp} : (s.migrSwitch o k).memOk := by
  unfold State.migrSwitch
  grind [memOk_migrFail, memOk_copyFrame, memOk_setLeafMig, memOk_setLeafFrame, memOk_onCtx, memOk_endParks,
    memOk_opDone]

theorem nextOk_execMigrComplete {s : State} (h : s.memOk) {op : Nat} : NextOk (execMigrComplete op s) := by
  unfold execMigrComplete
  split
  · exact h
  · split
    · split
      · exact h
      · split
        · exact memOk_migrBegin h
        · split
          · exact h
          · exact memOk_migrSwitch h
    · exact h

/-! ### The snapshot engines (R245–R254) -/

theorem nextOk_snapOp {s : State} (h : s.memOk) {i : Instr} {legal : Bool} {d : BitVec 7} {n : Nat}
    {f : Src → Word × SnapOp} : NextOk (snapOp i s legal d n f) := by
  unfold snapOp
  refine nextOk_engine h fun _ _ => ?_
  extract_lets
  split
  · trivial
  · split
    · trivial
    · exact h

theorem nextOk_execSnap {s : State} (h : s.memOk) {d a : BitVec 7} {b : SB} : NextOk (execSnap d a b s) := by
  unfold execSnap
  refine nextOk_engine h fun _ _ => ?_
  extract_lets
  split
  · trivial
  · split
    · trivial
    · split <;> exact h

theorem memOk_stepGo {s : State} (h : s.memOk) {c : Nat} {v : Word} : (s.stepGo c v).2.memOk := by
  unfold State.stepGo
  extract_lets
  split <;> exact h

theorem nextOk_execVstep {s : State} (h : s.memOk) {d : BitVec 7} {b : SB} : NextOk (execVstep d b s) := by
  unfold execVstep
  refine nextOk_engine h fun _ _ => ?_
  extract_lets
  split
  · trivial
  · split
    · trivial
    · split
      · exact h
      · split
        · exact memOk_stepGo h
        · exact h

theorem memOk_setSlice {s : State} (h : s.memOk) {c i : Nat} {x : Slice} : (s.setSlice c i x).memOk := by
  unfold State.setSlice
  grind [memOk_retireSlices, memOk_sliceMirror, memOk_onCtx]

theorem memOk_sliceCount {s : State} (h : s.memOk) {c : Nat} {hh : Word} {pins up : Bool} :
    (s.sliceCount c hh pins up).2.memOk := by
  unfold State.sliceCount
  split
  · exact h
  · split
    · exact h
    · exact memOk_setSlice h

theorem memOk_mergeFrame {s : State} (h : s.memOk) {c : Nat} {p : OwnPage} : (s.mergeFrame c p).memOk := by
  unfold State.mergeFrame
  grind [memOk_mergeSpan, memOk_foldl]

theorem memOk_freezePage {s : State} (h : s.memOk) {c : Nat} {v : Word} {p : OwnPage} : (s.freezePage c v p).memOk := by
  unfold State.freezePage
  grind [memOk_mergeFrame, memOk_tlbDrop, memOk_chainWr]

theorem memOk_eagerCopy {s : State} (h : s.memOk) {c : Nat} {p : OwnPage} : (s.eagerCopy c p).memOk := by
  unfold State.eagerCopy
  split
  · exact h
  · split
    · exact h
    · split
      · exact h
      · rename_i f s1 hf
        have h1 : s1.memOk := memOk_popFrame h _ hf
        exact memOk_same (memOk_pushMarked (memOk_chainWr h1)) rfl rfl

theorem memOk_eagerCopies {s : State} (h : s.memOk) {c : Nat} {prev : Option Word} {l : List OwnPage} :
    (s.eagerCopies c prev l).memOk := by
  unfold State.eagerCopies
  split
  · exact h
  · exact memOk_foldl h fun _ _ hs => memOk_eagerCopy hs

theorem memOk_snapGo {s : State} (h : s.memOk) {c core i start len : Nat} {v : Word} :
    (s.snapGo c core i start len v).2.memOk := by
  unfold State.snapGo
  grind [memOk_freezePage, memOk_clearStamped, memOk_onCtx, memOk_setSlice, memOk_eagerCopies, memOk_foldl]

theorem memOk_queryWrite {s : State} (h : s.memOk) {o : Op} {w buf cap hi : Nat}
    {l : List (Nat × Nat × Nat × Bool × Nat)} {n : Nat} : (s.queryWrite o w buf cap hi l n).1.memOk := by
  induction l generalizing s n with
  | nil => exact h
  | cons x r ih =>
    obtain ⟨a, size, code, vers, stamp⟩ := x
    unfold State.queryWrite
    grind [memOk_opWr]

theorem memOk_snapDone {s : State} (h : s.memOk) {o : Op} {data : List RegWrite} : (s.snapDone o data).memOk :=
  memOk_opDone h

theorem memOk_queryGo {s : State} (h : s.memOk) {o : Op} {d start len : Nat} {w : Word} {buf cap : Nat}
    {prog : Option (Nat × Nat)} : (s.queryGo o d start len w buf cap prog).memOk := by
  unfold State.queryGo
  grind [memOk_snapDone, memOk_queryWrite, memOk_l1Inval, memOk_hear, memOk_opFault, memOk_onOp, memOk_opRecord]

theorem memOk_snapAt {s : State} (h : s.memOk) {o : Op} {d start len : Nat} {scope v : Word} {below : Bool} :
    (s.snapAt o d start len scope v below).memOk := by
  unfold State.snapAt
  grind [memOk_snapDone, memOk_onTrayOf, memOk_onOp, memOk_snapGo]

theorem nextOk_execSnapshotOpComplete {s : State} (h : s.memOk) {op : Nat} : NextOk (execSnapshotOpComplete op s) := by
  unfold execSnapshotOpComplete
  split
  · exact h
  · split
    · exact h
    · split
      · exact memOk_snapAt h
      · exact memOk_snapDone (memOk_sliceCount h)
      · exact memOk_snapDone (memOk_sliceCount h)
      · exact memOk_snapDone (memOk_stepGo h)
      · exact memOk_queryGo h
      · exact h

theorem nextOk_execCowSwitch {s : State} (h : s.memOk) {op : Nat} : NextOk (execCowSwitch op s) := memOk_cowSwitch h

theorem memOk_donate {s : State} (h : s.memOk) {c entry : Nat} : (s.donate c entry).memOk := by
  unfold State.donate
  extract_lets
  split
  · split
    · exact h
    · split
      · exact h
      · exact memOk_onCtx (memOk_pushFrame h _ ‹_›)

theorem nextOk_execDonateWrite {s : State} (h : s.memOk) {ctx : Nat} {entry : BitVec 64} :
    NextOk (execDonateWrite ctx entry s) := by
  unfold execDonateWrite
  split
  · exact memOk_donate h
  · exact h

/-! ### Slice ends and halts (R407–R409) -/

theorem memOk_endSlice {s : State} (h : s.memOk) {c : Nat} {follow quantum : Bool} :
    (s.endSlice c follow quantum).memOk := by
  unfold State.endSlice
  grind [memOk_onCtx, memOk_unplace, State.memOk]

theorem memOk_sliceEnd {s : State} (h : s.memOk) {c : Nat} {quantum : Bool} : (s.sliceEnd c quantum).memOk := by
  unfold State.sliceEnd
  grind [memOk_settleCtxs, memOk_endSlice, memOk_foldl]

theorem nextOk_execQuantumExpiry {s : State} (h : s.memOk) {ctx : Nat} : NextOk (execQuantumExpiry ctx s) := by
  unfold execQuantumExpiry
  split
  · exact memOk_sliceEnd h
  · exact h

theorem nextOk_execSliceBudgetExpiry {s : State} (h : s.memOk) {tray : Nat} :
    NextOk (execSliceBudgetExpiry tray s) := by
  unfold execSliceBudgetExpiry
  split
  · exact h
  · split
    · exact h
    · split <;> exact h

theorem memOk_holdMates {s : State} (h : s.memOk) {o : Op} : (s.holdMates o).memOk := memOk_foldl h fun _ _ hs => hs

theorem memOk_stopOp {s : State} (h : s.memOk) {o : Op} : (s.stopOp o).memOk := by
  unfold State.stopOp
  grind [memOk_inputDone, memOk_dropOp, memOk_opDone, memOk_holdMates, memOk_migrFail, memOk_onTrayOf,
    memOk_matrixStop, memOk_foldl]

theorem memOk_abandonCows {s : State} (h : s.memOk) {c : Nat} : (s.abandonCows c).memOk := by
  unfold State.abandonCows
  grind [memOk_zeroFrame, memOk_pushFrame, memOk_onCtx, memOk_chainWr, memOk_endParks, memOk_foldl, State.memOk]

theorem memOk_discardAt {s : State} (h : s.memOk) {c cls unit : Nat} : (s.discardAt c cls unit).2.memOk :=
  memOk_foldl h fun _ _ hs => memOk_stopOp hs

theorem memOk_stopPosts {s : State} (h : s.memOk) {c : Nat} {w : StopWait} : (s.stopPosts c w).memOk := by
  unfold State.stopPosts
  grind [memOk_discardAt, memOk_onPost, memOk_arrRefuse, memOk_unitRecords, memOk_foldl, State.memOk]

theorem memOk_stopPasses {s : State} (h : s.memOk) {c : Nat} {w : StopWait} : (s.stopPasses c w).memOk := by
  unfold State.stopPasses
  grind [memOk_discardAt, memOk_unitRecords, State.memOk]

theorem memOk_stopEngine {s : State} (h : s.memOk) {c : Nat} {w : StopWait} : (s.stopEngine c w).memOk := by
  unfold State.stopEngine
  grind [memOk_stopPosts, memOk_stopPasses, memOk_stopOp, memOk_abandonCows, memOk_unitRecords, memOk_foldl]

theorem memOk_discardWindow {s : State} (h : s.memOk) {c core : Nat} : (s.discardWindow c core).2.memOk :=
  memOk_foldl h fun _ _ hs => memOk_stopOp hs

theorem memOk_haltCore {s : State} (h : s.memOk) {c core : Nat} : (s.haltCore c core).2.memOk := by
  unfold State.haltCore
  grind [memOk_discardWindow, memOk_takeAsync, memOk_dissolve, memOk_onTray, memOk_foldl]

theorem nextOk_execUnitStop {s : State} (h : s.memOk) {cls unit ctx : Nat} : NextOk (execUnitStop cls unit ctx s) := by
  unfold execUnitStop
  grind [memOk_onCtx, memOk_settleCtxs, memOk_stopEngine, memOk_haltCore, memOk_stopRecord, NextOk]

theorem nextOk_execCancelForceEnd {s : State} (h : s.memOk) {tray : Nat} : NextOk (execCancelForceEnd tray s) := by
  unfold execCancelForceEnd
  grind [memOk_stopOp, memOk_unitRecords, memOk_trayEnds, memOk_stopRecord, memOk_foldl, NextOk]

/-! ### Writes to control pages (R213, R224, R389) -/

theorem memOk_invKick {s : State} (h : s.memOk) {c : Nat} {n : Word} : (s.invKick c n).memOk := by
  unfold State.invKick
  extract_lets
  split
  · exact h
  · split
    · exact memOk_invalidate (memOk_onCtx h)
    · exact h

theorem nextOk_execInvalidationComplete {s : State} (h : s.memOk) {ctx : Nat} :
    NextOk (execInvalidationComplete ctx s) := by
  unfold execInvalidationComplete
  split
  · exact h
  · split
    · exact h
    · split
      · exact h
      · exact memOk_invalidate (memOk_onCtx h)

theorem memOk_rootWrite {s : State} (h : s.memOk) {c v : Nat} : (s.rootWrite c v).memOk :=
  memOk_invalidate (memOk_onCtx h)

theorem memOk_endPark {s : State} (h : s.memOk) {key : Nat} {t : Tray} {p : Park} {kind : FaultKind} :
    (s.endPark key t p kind).memOk := by
  unfold State.endPark
  grind [memOk_faultRecord, memOk_onTray, memOk_raise]

theorem memOk_endSavedPark {s : State} (h : s.memOk) {t : Tray} {p : Park} {kind : FaultKind} :
    (s.endSavedPark t p kind).memOk := memOk_onSaved (memOk_faultRecord h)

theorem memOk_opGiveUp {s : State} (h : s.memOk) {o : Op} : (s.opGiveUp o).memOk := by
  unfold State.opGiveUp
  grind [memOk_onOp, memOk_copyFinish, memOk_groupSettle, memOk_opDone, memOk_stackAdd, memOk_postGo,
    memOk_partErr, memOk_onPost, memOk_arrRefuse, memOk_onArr, memOk_arrGo, memOk_answerUnit, memOk_opAnswer,
    memOk_flagRejected, memOk_dropOp, memOk_jdecGo, memOk_snapDone, memOk_foldl]

theorem memOk_endOpPark {s : State} (h : s.memOk) {o : Op} {p : Park} {kind : FaultKind} :
    (s.endOpPark o p kind).memOk := memOk_opGiveUp (memOk_opRecord h)

theorem memOk_whenPark {s : State} (h : s.memOk) {op : Bool} {k : Nat} {ok : Ctx → Park → Bool} {kind : FaultKind} :
    (s.whenPark op k ok kind).memOk := by
  unfold State.whenPark
  grind [memOk_endOpPark, memOk_endPark, memOk_endSavedPark]

theorem nextOk_execFaultRecordDeferred {s : State} (h : s.memOk) {die : Nat} :
    NextOk (execFaultRecordDeferred die s) := memOk_reportGrant h

theorem memOk_tcbWrite {s : State} (h : s.memOk) {w c k v : Nat} {up seq rep : Bool} :
    (s.tcbWrite w c k v up seq rep).memOk := by
  unfold State.tcbWrite
  extract_lets
  split
  · exact memOk_rootWrite h
  · exact h
  · exact h
  · exact h
  · exact h
  · split <;> exact h
  · exact h
  · exact h
  · split
    · exact memOk_invKick (memOk_onCtx h)
    · exact h
  · split <;> exact h
  · exact h

theorem memOk_scbWrite {s : State} (h : s.memOk) {c k v : Nat} {whole : Bool} : (s.scbWrite c k v whole).memOk := by
  unfold State.scbWrite
  split
  · exact h
  · split
    · exact memOk_pushMarked (memOk_onCtx h)
    · exact h
  · exact h
  · split
    · exact memOk_pushMarked (memOk_onCtx h)
    · exact h
  · split
    · exact memOk_donate h
    · exact h
  · exact h
  · exact h
  · exact h

theorem memOk_statusWriteCtl {s : State} (h : s.memOk) {c k v : Nat} {up host : Bool} :
    (s.statusWriteCtl c k v up host).memOk := by
  unfold State.statusWriteCtl
  extract_lets
  split
  · exact h
  · exact h
  · split <;> exact h
  · split <;> exact h
  · split <;> exact h
  · split <;> exact h
  · split <;> exact h
  · split <;> exact h
  · exact h

theorem memOk_ctlWrite {s : State} (h : s.memOk) {w c off n v : Nat} : (s.ctlWrite w c off n v).memOk := by
  unfold State.ctlWrite
  grind [memOk_tcbWrite, memOk_scbWrite, memOk_statusWriteCtl, memOk_foldl]

theorem memOk_doPost {s : State} (h : s.memOk) {p : Post} : (s.doPost p).memOk := by
  unfold State.doPost
  split
  · exact memOk_qcbWrite h
  · exact memOk_ctlWrite h

theorem nextOk_execRegisterWrite {s : State} (h : s.memOk) {writer page off : Nat} {v : BitVec 64} :
    NextOk (execRegisterWrite writer page off v s) := by
  unfold execRegisterWrite
  split
  · exact memOk_ctlWrite h
  · split
    · split
      · exact memOk_qcbWrite h
      · exact h
    · split
      · exact memOk_landWrite h
      · exact h

/-! ### Units of ownership (R391–R394)

A group that changes hands is zeroed through `State.zeroBytes`. -/

theorem memOk_clearGroups {s : State} (h : s.memOk) {c : Nat} {gg : BitVec 128} : (s.clearGroups c gg).memOk := by
  unfold State.clearGroups
  grind [memOk_unplace, memOk_onCtx, memOk_evictBatch, memOk_foldl]

theorem memOk_freeGroups {s : State} (h : s.memOk) {c : Nat} {gg : BitVec 128} : (s.freeGroups c gg).memOk := h
theorem memOk_emptyUnits {s : State} (h : s.memOk) {u : Units} : (s.emptyUnits u).memOk :=
  memOk_foldl h fun _ _ hs => memOk_emptyWays hs
theorem memOk_discardUnits {s : State} (h : s.memOk) {u : Units} : (s.discardUnits u).memOk :=
  memOk_foldl h fun _ _ hs => memOk_dropWays hs
theorem memOk_setOwn {s : State} (h : s.memOk) {c : Nat} {f : Units → Units} : (s.setOwn c f).memOk := h
theorem memOk_passUnits {s : State} (h : s.memOk) {c child : Nat} {u : Units} : (s.passUnits c child u).memOk :=
  memOk_emptyUnits h

theorem memOk_grantGo {s : State} (h : s.memOk) {c child : Nat} {gg : GrantRec} : (s.grantGo c child gg).memOk := by
  unfold State.grantGo
  grind [memOk_onCtx, memOk_invalidate, memOk_freeGroups, memOk_passUnits, memOk_foldl, State.memOk]

/-! ### Context images (R402) -/

theorem memOk_addLoaded {s : State} (h : s.memOk) {c : Nat} {bs : List (Nat × Batch × Nat)}
    {rs : List LoadedRegion} : (s.addLoaded c bs rs).memOk := memOk_foldl h fun _ _ hs => hs

/-- Stated apart so that the kernel need not compare the states of `State.loadImageGo` as wholes. -/
theorem memOk_with_nextId {s : State} (h : s.memOk) {n : Nat} : ({ s with nextId := n } : State).memOk := h

theorem memOk_loadImageGo {s : State} (h : s.memOk) {x : Nat} {a : Array Byte} :
    ∀ q, s.loadImageGo x a = some q → q.memOk := by
  intro q hq
  unfold State.loadImageGo at hq
  obtain ⟨batches, hb⟩ : ∃ f, f = loadedBatches := ⟨_, rfl⟩
  obtain ⟨regions, hr⟩ : ∃ f, f = loadedRegions := ⟨_, rfl⟩
  rw [← hb, ← hr] at hq
  extract_lets t nb nr nt body counters at hq
  split at hq
  · exact none_keeps q hq
  · split at hq
    · exact none_keeps q hq
    · split at hq
      · exact none_keeps q hq
      · extract_lets save at hq
        split at hq
        · exact none_keeps q hq
        · refine some_keeps (memOk_addLoaded (memOk_onCtx (memOk_with_nextId ?_))) q hq
          exact memOk_foldl h fun _ _ hs => memOk_onTrig hs

/-! ### The context engine (R396–R415) -/

theorem nextOk_ctxCommand {s : State} (h : s.memOk) {ops : List Opnd} {ctr : Ctr} {d : BitVec 7} {n : Nat}
    {quota : State → Tray → Bool} {k : Src → Tray → CtxOp} : NextOk (ctxCommand ops s ctr d n quota k) := by
  unfold ctxCommand
  refine nextOk_engine h fun _ _ => ?_
  extract_lets
  split
  · trivial
  · split <;> exact h

theorem nextOk_execScrub {s : State} (h : s.memOk) {d a : BitVec 7} {b : SB} : NextOk (execScrub d a b s) :=
  nextOk_ctxCommand h
theorem nextOk_execAlog {s : State} (h : s.memOk) {d a : BitVec 7} {b : SB} : NextOk (execAlog d a b s) :=
  nextOk_ctxCommand h
theorem nextOk_keyselCommand {s : State} (h : s.memOk) {d a : BitVec 7} {b : SB} : NextOk (keyselCommand d a b s) :=
  nextOk_ctxCommand h
theorem nextOk_execKeyselBind {s : State} (h : s.memOk) {d a : BitVec 7} {b : SB} :
    NextOk (execKeyselBind d a b s) := nextOk_keyselCommand h
theorem memOk_ctxFail {s : State} (h : s.memOk) {d code : Nat} : (ctxFail s d code).2.memOk := h
theorem memOk_ctxDone {s : State} (h : s.memOk) {d v : Nat} : (ctxDone s d v).2.memOk := h

theorem memOk_ctxWr {s : State} (h : s.memOk) {o : Op} {va : Nat} {l : List Byte} : (s.ctxWr o va l).2.memOk := by
  unfold State.ctxWr
  grind [memOk_opWr, memOk_opFault]

theorem memOk_ctxReady {s : State} (h : s.memOk) {o : Op} {va n : Nat} : (s.ctxReady o va n).2.memOk := by
  unfold State.ctxReady
  grind [memOk_engReady, memOk_opFault]

theorem memOk_newGo {s : State} (h : s.memOk) {c d : Nat} {w : Word} : (s.newGo c d w).2.memOk := by
  unfold State.newGo
  extract_lets
  split
  · exact h
  · split
    · exact h
    · split
      · exact h
      · split <;> exact h

theorem memOk_grantRun {s : State} (h : s.memOk) {o : Op} {d child va : Nat} {begun : Bool} :
    (s.grantRun o d child va begun).2.memOk := by
  unfold State.grantRun
  grind [memOk_ctxFail, memOk_engTake, memOk_freeGroups, memOk_onOp, memOk_clearGroups, memOk_ctxDone,
    memOk_grantGo]

theorem memOk_runGo {s : State} (h : s.memOk) {c d child op token : Nat} {r0 r1 : Word} {m : DWord} :
    (s.runGo c d child op token r0 r1 m).2.memOk := by
  unfold State.runGo
  grind [memOk_ctxFail, memOk_ctxDone, memOk_restart, memOk_onCtx, memOk_l1Inval, memOk_hear, memOk_setTray,
    memOk_redeliver, memOk_onSavedAll]

theorem memOk_stopRun {s : State} (h : s.memOk) {o : Op} {d child : Nat} {w : Word} {begun : Bool} :
    (s.stopRun o d child w begun).2.memOk := by
  unfold State.stopRun
  extract_lets
  split
  · exact h
  · split
    · split <;> exact h
    · split
      · split <;> exact h
      · split
        · exact h
        · exact memOk_sliceEnd h

theorem memOk_saveGo {s : State} (h : s.memOk) {o : Op} {d child va : Nat} : (s.saveGo o d child va).2.memOk := by
  unfold State.saveGo
  grind [memOk_ctxFail, memOk_ctxWr, memOk_ctxDone]

theorem memOk_loadGo {s : State} (h : s.memOk) {o : Op} {d child va : Nat} : (s.loadGo o d child va).2.memOk := by
  unfold State.loadGo
  extract_lets c
  split
  · exact h
  · split
    · exact h
    · split
      · grind [memOk_engTake, memOk_ctxFail]
      · rename_i size s1 he
        have h1 : s1.memOk := by grind [memOk_engTake]
        split
        · exact h1
        · split
          · exact h1
          · have h2 := memOk_engRd h1 _ ‹_›
            split
            · exact h2
            · split
              · exact h2
              · exact memOk_loadImageGo h2 _ ‹_›

theorem memOk_queryCtx {s : State} (h : s.memOk) {c d x sel : Nat} : (s.queryCtx c d x sel).2.memOk := by
  unfold State.queryCtx
  split
  · exact h
  · split <;> exact h

theorem memOk_revokeAt {s : State} (h : s.memOk) {x n : Nat} {whole : Bool} {u : Units} :
    (s.revokeAt x n whole u).memOk := by
  unfold State.revokeAt
  grind [memOk_onCtx, memOk_unplace, memOk_evictBatch, memOk_foldl, State.memOk]

theorem memOk_ckptEnd {s : State} (h : s.memOk) {k : Nat} {x : Ckpt} {status : Nat} : (s.ckptEnd k x status).memOk := by
  unfold State.ckptEnd
  grind [memOk_sliceCount, memOk_hostEvent, State.memOk]

theorem memOk_dropCtx {s : State} (h : s.memOk) {x : Nat} : (s.dropCtx x).memOk := by
  unfold State.dropCtx
  grind [memOk_ckptEnd, memOk_postFree, memOk_tlbDrop, memOk_foldl, State.memOk]

theorem memOk_evictUnfit {s : State} (h : s.memOk) {x : Nat} : (s.evictUnfit x).memOk := by
  unfold State.evictUnfit
  grind [memOk_evictBatch, memOk_foldl]

theorem memOk_revokeLeave {s : State} (h : s.memOk) {x : Nat} {u : Units} : (s.revokeLeave x u).memOk := by
  unfold State.revokeLeave
  grind [memOk_emptyUnits, memOk_freeGroups, memOk_setOwn, memOk_onCtx, memOk_invalidate, memOk_evictUnfit]

theorem memOk_revokeEnd {s : State} (h : s.memOk) {c child n : Nat} {whole : Bool} {u : Units} :
    (s.revokeEnd c child n whole u).memOk := by
  unfold State.revokeEnd
  grind [memOk_discardUnits, memOk_dropCtx, memOk_revokeLeave, memOk_onCtx, memOk_setOwn, memOk_serveQueues,
    memOk_foldl, State.memOk]

theorem memOk_revokeRun {s : State} (h : s.memOk) {o : Op} {d child budget : Nat} {va : Option Nat} {no : Nat} :
    (s.revokeRun o d child budget va no).2.memOk := by
  unfold State.revokeRun
  grind [memOk_ctxDone, memOk_revokeEnd, memOk_ctxFail, memOk_onCtx, memOk_revokeAt, memOk_onOp, memOk_engTake,
    memOk_foldl]

theorem memOk_scrubUnits {s : State} (h : s.memOk) {u : Units} : (s.scrubUnits u).memOk := by
  unfold State.scrubUnits
  grind [memOk_emptyUnits, memOk_zeroBytes, memOk_foldl, State.memOk]

theorem memOk_scrubRun {s : State} (h : s.memOk) {o : Op} {d no va : Nat} {begun : Bool} :
    (s.scrubRun o d no va begun).2.memOk := by
  unfold State.scrubRun
  grind [memOk_ctxFail, memOk_evictBatch, memOk_clearGroups, memOk_onOp, memOk_ctxReady, memOk_freeGroups,
    memOk_ctxWr, memOk_scrubUnits, memOk_ctxDone, memOk_onCtx, memOk_foldl]

theorem memOk_alogGo {s : State} (h : s.memOk) {c d : Nat} {w : Word} {va : Option Nat} :
    (s.alogGo c d w va).2.memOk := by
  unfold State.alogGo
  grind [memOk_ctxFail, memOk_ctxDone, memOk_onCtx, memOk_engTake]

theorem memOk_emptyCaches {s : State} (h : s.memOk) : s.emptyCaches.memOk := by
  unfold State.emptyCaches
  grind [memOk_homeEvict, memOk_foldl]

theorem memOk_keyselGo {s : State} (h : s.memOk) {c d child slot : Nat} {va : Option Nat} :
    (s.keyselGo c d child slot va).2.memOk := by
  unfold State.keyselGo
  grind [memOk_ctxFail, memOk_ctxDone, memOk_emptyCaches, memOk_engTake, State.memOk]

theorem memOk_ctxGo {s : State} (h : s.memOk) {o : Op} {k : CtxOp} : (s.ctxGo o k).2.memOk := by
  unfold State.ctxGo
  extract_lets
  split
  · exact memOk_newGo h
  · exact memOk_grantRun h
  · exact memOk_revokeRun h
  · exact memOk_runGo h
  · exact memOk_stopRun h
  · exact memOk_saveGo h
  · exact memOk_loadGo h
  · exact memOk_queryCtx h
  · exact memOk_scrubRun h
  · exact memOk_alogGo h
  · exact memOk_keyselGo h

theorem nextOk_execContextOpComplete {s : State} (h : s.memOk) {op : Nat} : NextOk (execContextOpComplete op s) := by
  unfold execContextOpComplete
  show State.memOk _
  split
  · exact h
  · split
    · grind [memOk_onOp, memOk_ctxGo, memOk_opDone, memOk_l1Inval]
    · exact h

/-! ### The host’s commands and the staged start (R417–R430)

S1 and a loss of power set memory and marks to the empty list, which is canonical. -/

theorem memOk_toHost {s : State} (h : s.memOk) {m : HostMsg} : (s.toHost m).memOk := h

theorem memOk_rdmaWr {s : State} (h : s.memOk) {c a : Nat} {d : List Byte} {l : List (Nat × Nat)} :
    (s.rdmaWr c a d l).1.memOk := by
  induction l generalizing s with
  | nil => exact h
  | cons p r ih =>
    unfold State.rdmaWr
    grind [memOk_engWrPiece]

theorem memOk_rdmaGo {s : State} (h : s.memOk) {qp c : Nat} {l : List RdmaReq} : (s.rdmaGo qp c l).1.memOk := by
  induction l generalizing s with
  | nil => exact h
  | cons x r ih =>
    cases x with
    | write a d =>
      unfold State.rdmaGo
      grind [memOk_rdmaWr, memOk_toHost]
    | read a n =>
      unfold State.rdmaGo
      split
      · exact ih (memOk_toHost (memOk_engRd h _ ‹_›))
      · split
        · exact h
        · exact ih (memOk_toHost h)

theorem memOk_rdmaServe {s : State} (h : s.memOk) {qp : Nat} {new : List RdmaReq} : (s.rdmaServe qp new).memOk := by
  unfold State.rdmaServe
  split
  · exact memOk_foldl h fun _ _ hs => hs
  · exact memOk_rdmaGo h

theorem nextOk_execRdmaWrite {s : State} (h : s.memOk) {qp addr : Nat} {data : List (BitVec 8)} :
    NextOk (execRdmaWrite qp addr data s) := by
  unfold execRdmaWrite
  split
  · exact memOk_rdmaServe h
  · exact h

theorem nextOk_execRdmaRead {s : State} (h : s.memOk) {qp addr len : Nat} : NextOk (execRdmaRead qp addr len s) := by
  unfold execRdmaRead
  split
  · exact memOk_rdmaServe h
  · exact h

theorem nextOk_execUnsupportedRequest {s : State} (h : s.memOk) {qp : Nat} : NextOk (execUnsupportedRequest qp s) := by
  unfold execUnsupportedRequest
  split <;> exact h

theorem memOk_respond {s : State} (h : s.memOk) {hh : CmdHdr} {status : Nat} {b : RespBody} :
    (s.respond hh status b).memOk := h

theorem memOk_command {s : State} (h : s.memOk) {hd : CmdHdr} {al ex : Bool} {f : State → State}
    (hf : (f s).memOk) : (s.command hd al ex f).memOk := by
  unfold State.command
  grind [memOk_respond]

theorem memOk_always {s : State} (h : s.memOk) {hd : CmdHdr} {f : State → State} (hf : (f s).memOk) :
    (s.always hd f).memOk := memOk_command h hf
theorem memOk_atS2 {s : State} (h : s.memOk) {hd : CmdHdr} {ex : Bool} {f : State → State} (hf : (f s).memOk) :
    (s.atS2 hd ex f).memOk := memOk_command h hf
theorem memOk_atHold {s : State} (h : s.memOk) {hd : CmdHdr} {f : State → State} (hf : (f s).memOk) :
    (s.atHold hd f).memOk := memOk_command h hf

theorem memOk_doneIf {s : State} (h : s.memOk) {hd : CmdHdr} {ok : Bool} {f : State → State} (hf : (f s).memOk) :
    (s.doneIf hd ok f).memOk := by
  unfold State.doneIf
  grind [memOk_respond]

theorem nextOk_execMalformedCommand {s : State} (h : s.memOk) {hh : CmdHdr} : NextOk (execMalformedCommand hh s) := by
  unfold execMalformedCommand
  split <;> exact h

theorem nextOk_execAttest {s : State} (h : s.memOk) {hh : CmdHdr} {nonce : List (BitVec 8)} :
    NextOk (execAttest hh nonce s) := by
  unfold execAttest
  refine memOk_always h ?_
  extract_lets
  split <;> exact h

theorem nextOk_execSemacq {s : State} (h : s.memOk) {hh : CmdHdr} : NextOk (execSemacq hh s) := by
  unfold execSemacq
  refine memOk_always h ?_
  extract_lets
  split <;> exact h

theorem nextOk_execSemrel {s : State} (h : s.memOk) {hh : CmdHdr} : NextOk (execSemrel hh s) := by
  unfold execSemrel
  refine memOk_always h ?_
  extract_lets
  split <;> exact h

theorem nextOk_execSemaphoreLeaseExpiry {s : State} (h : s.memOk) : NextOk (execSemaphoreLeaseExpiry s) := by
  unfold execSemaphoreLeaseExpiry
  extract_lets
  split <;> exact h

theorem nextOk_execQpbind {s : State} (h : s.memOk) {hh : CmdHdr} {qp ctx : Nat} : NextOk (execQpbind hh qp ctx s) := by
  unfold execQpbind
  exact memOk_atS2 h (memOk_doneIf h h)

theorem nextOk_execEvset {s : State} (h : s.memOk) {hh : CmdHdr} {ch qp mode logSlots addr : Nat} :
    NextOk (execEvset hh ch qp mode logSlots addr s) := by
  unfold execEvset
  exact memOk_atS2 h (memOk_doneIf h h)

theorem nextOk_execRootring {s : State} (h : s.memOk) {hh : CmdHdr} {qp logSlots addr : Nat} :
    NextOk (execRootring hh qp logSlots addr s) := by
  unfold execRootring
  exact memOk_atS2 h (memOk_doneIf h h)

theorem nextOk_execFwload {s : State} (h : s.memOk) {hh : CmdHdr} {image : List (BitVec 8)} :
    NextOk (execFwload hh image s) := by
  unfold execFwload
  refine memOk_atHold h ?_
  extract_lets
  split
  · exact h
  · split <;> exact h

theorem nextOk_execRootwr {s : State} (h : s.memOk) {hh : CmdHdr} {off : Nat} {data : List (BitVec 8)} :
    NextOk (execRootwr hh off data s) := by
  unfold execRootwr
  exact memOk_atS2 h (memOk_doneIf h (memOk_ctlWrite h))

theorem nextOk_execPodidx {s : State} (h : s.memOk) {hh : CmdHdr} {idx : Nat} : NextOk (execPodidx hh idx s) := by
  unfold execPodidx
  exact memOk_atHold h (memOk_doneIf h h)

theorem nextOk_execCkpt {s : State} (h : s.memOk) {hh : CmdHdr} {c : CkptArgs} : NextOk (execCkpt hh c s) := by
  unfold execCkpt
  refine memOk_atS2 h ?_
  extract_lets
  split
  · exact h
  · split
    · split <;> exact h
    · split
      · exact h
      · split
        · exact h
        · exact memOk_sliceCount h

theorem memOk_ckptPage {s : State} (h : s.memOk) {k : Nat} {x : Ckpt} {e : Nat × Nat × Nat × Bool × Nat} :
    (s.ckptPage k x e).memOk := by
  unfold State.ckptPage
  split
  · split <;> exact h

theorem memOk_ckptStep {s : State} (h : s.memOk) {k : Nat} : (s.ckptStep k).memOk := by
  unfold State.ckptStep
  split
  · exact h
  · split
    · exact h
    · exact memOk_ckptPage h

theorem memOk_ckptStop {s : State} (h : s.memOk) {k status : Nat} : (s.ckptStop k status).memOk := by
  unfold State.ckptStop
  split
  · exact h
  · exact memOk_ckptEnd h

theorem nextOk_execCkptabort {s : State} (h : s.memOk) {hh : CmdHdr} {ck : Nat} : NextOk (execCkptabort hh ck s) := by
  unfold execCkptabort
  exact memOk_atS2 h (memOk_doneIf h (memOk_ckptStop h))

theorem nextOk_execCkptComplete {s : State} (h : s.memOk) {ck : Nat} : NextOk (execCkptComplete ck s) := by
  unfold execCkptComplete
  grind [memOk_ckptStop, memOk_ckptPage, memOk_foldl, NextOk]

theorem nextOk_execPowerGood {s : State} (h : s.memOk) : NextOk (execPowerGood s) := by
  unfold execPowerGood
  split <;> exact h

theorem nextOk_execStageS0Complete {s : State} (h : s.memOk) {passed : BitVec 4} :
    NextOk (execStageS0Complete passed s) := by
  unfold execStageS0Complete
  split <;> exact h

theorem nextOk_execStageS1Complete {s : State} (h : s.memOk) {passed : BitVec 4} {fwValid : Bool} :
    NextOk (execStageS1Complete passed fwValid s) := by
  unfold execStageS1Complete
  show State.memOk _
  split
  · exact h
  · split
    · exact h
    · exact ⟨rfl, rfl⟩

theorem nextOk_execStageS2Reached {s : State} (h : s.memOk) {cfg : FwCfg} : NextOk (execStageS2Reached cfg s) := by
  unfold execStageS2Reached
  grind [memOk_hostEvent, State.memOk, NextOk]

theorem memOk_thermalEvent {s : State} (h : s.memOk) : s.thermalEvent.memOk := memOk_hostEvent h

theorem nextOk_execThermalThrottle {s : State} (h : s.memOk) {die : Nat} : NextOk (execThermalThrottle die s) := by
  unfold execThermalThrottle
  split
  · exact memOk_thermalEvent h
  · exact h

theorem nextOk_execThermalTrip {s : State} (h : s.memOk) : NextOk (execThermalTrip s) := by
  unfold execThermalTrip
  split
  · exact memOk_thermalEvent h
  · exact h

theorem nextOk_execPowerLoss {s : State} : NextOk (execPowerLoss s) := by
  unfold execPowerLoss
  grind [memOk_reset, State.memOk, NextOk]

/-! ### Evictions and words without an instruction (R150, R56) -/

theorem nextOk_execReggrowDeadlockEvict {s : State} (h : s.memOk) {core : Nat} :
    NextOk (execReggrowDeadlockEvict core s) := by
  unfold execReggrowDeadlockEvict
  split
  · exact h
  · extract_lets
    split
    · exact h
    · split
      · exact h
      · exact memOk_foldl h fun _ _ hs => memOk_evictBatch hs

theorem nextOk_execUnassignedEncoding {s : State} (h : s.memOk) {word : BitVec 32} :
    NextOk (execUnassignedEncoding word s) := by
  unfold execUnassignedEncoding
  refine nextOk_issue h fun _ _ => ?_
  trivial

/-! ### The queues at the engine ports (R14–R18) -/

theorem memOk_cmdGo {s : State} (h : s.memOk) {o : Op} {k : Cmd} : (s.cmdGo o k).memOk := by
  unfold State.cmdGo
  split
  · exact memOk_opAnswer h
  · exact memOk_collGo h
  · exact memOk_collGo h
  · exact memOk_collGo h
  · exact memOk_opAnswer h
  · exact memOk_frontGo h
  · exact memOk_frontGo h
  · exact memOk_frontGo h
  · exact memOk_opAnswer h
  · exact memOk_opAnswer h
  · exact memOk_launchGo h
  · exact memOk_launchGo h
  · exact memOk_launchGo h
  · exact memOk_launchGo h
  · exact memOk_launchGo h

theorem memOk_acceptOp {s : State} (h : s.memOk) {o : Op} : (s.acceptOp o).memOk := by
  unfold State.acceptOp
  grind [memOk_memberAccept, memOk_cmdGo, memOk_dropOp, State.memOk]

theorem memOk_cmdResume {s : State} (h : s.memOk) {id : Nat} : (s.cmdResume id).memOk := by
  unfold State.cmdResume
  split
  · exact h
  · split
    · split
      · exact memOk_cmdGo (memOk_dropOp h)
      · exact h
    · exact h

theorem nextOk_execCommandAccept {s : State} (h : s.memOk) {core : Nat} : NextOk (execCommandAccept core s) := by
  unfold execCommandAccept
  split
  · exact h
  · split
    · exact memOk_acceptOp h
    · exact h

theorem nextOk_execQueueRefusal {s : State} (h : s.memOk) {core : Nat} : NextOk (execQueueRefusal core s) := by
  unfold execQueueRefusal
  split
  · exact h
  · split <;> exact h

theorem memOk_resend {s : State} (h : s.memOk) {x : QRefusal} : (s.resend x).memOk := by
  unfold State.resend
  grind [memOk_acceptOp, State.memOk]

theorem nextOk_execQueueResend {s : State} (h : s.memOk) {core : Nat} : NextOk (execQueueResend core s) := by
  unfold execQueueResend
  grind [memOk_resend, NextOk]

/-! ### The scalar and vector pipes, handlers and YIELD (R113–R119, R144, R151, R406) -/

theorem nextOk_execWrsr {s : State} (h : s.memOk) {a : BitVec 7} {b : SB} : NextOk (execWrsr a b s) := by
  unfold execWrsr
  refine nextOk_issue h fun _ _ => ?_
  extract_lets
  split
  · exact h
  · exact h
  · exact h
  · trivial

theorem nextOk_execVwin {s : State} (h : s.memOk) {b : SB} : NextOk (execVwin b s) := by
  unfold execVwin
  refine nextOk_issue h fun _ _ => ?_
  extract_lets
  split
  · trivial
  · exact h

theorem nextOk_maskOp {s : State} (h : s.memOk) {i : Instr} {d : BitVec 7} {f : Src → Mask} :
    NextOk (maskOp i s d f) := nextOk_issueTray h

theorem nextOk_execTret {s : State} (h : s.memOk) {b : SB} : NextOk (execTret b s) := by
  unfold execTret
  refine nextOk_engine h fun _ _ => ?_
  extract_lets
  split
  · exact h
  · split
    · exact h
    · exact resOk_settle h fun _ hs => memOk_redeliver hs

theorem nextOk_execTrefl {s : State} (h : s.memOk) {b : SB} : NextOk (execTrefl b s) := by
  unfold execTrefl
  refine nextOk_engine h fun _ _ => ?_
  extract_lets
  split
  · exact h
  · exact resOk_settle h fun _ h => memOk_onTray (memOk_reflect h)

theorem nextOk_execTclr {s : State} (h : s.memOk) {b : SB} : NextOk (execTclr b s) := nextOk_engine h fun _ _ => h

theorem nextOk_execVidx {s : State} (h : s.memOk) {d a : BitVec 7} {b : VB} : NextOk (execVidx d a b s) := by
  unfold execVidx
  refine nextOk_issue h fun _ _ => ?_
  extract_lets
  split
  · trivial
  · split
    · trivial
    · exact h

theorem nextOk_execVidxw {s : State} (h : s.memOk) {d a : BitVec 7} {b : VB} : NextOk (execVidxw d a b s) := by
  unfold execVidxw
  refine nextOk_issue h fun _ _ => ?_
  extract_lets
  split
  · trivial
  · split
    · trivial
    · exact h

theorem nextOk_execVlane {s : State} (h : s.memOk) {d : BitVec 7} {sel : BitVec 8} : NextOk (execVlane d sel s) := by
  unfold execVlane
  refine nextOk_issue h fun _ _ => ?_
  extract_lets
  split
  · trivial
  · exact h

theorem nextOk_execVgets {s : State} (h : s.memOk) {d a : BitVec 7} {b : VB} : NextOk (execVgets d a b s) := by
  unfold execVgets
  refine nextOk_issue h fun _ _ => ?_
  extract_lets
  split
  · trivial
  · split
    · trivial
    · exact h

theorem memOk_wakeClock {s : State} (h : s.memOk) {cond : Nat} {p0 p1 : Word} : (s.wakeClock cond p0 p1).memOk := by
  unfold State.wakeClock
  split <;> exact h

theorem memOk_wakeDone {s : State} (h : s.memOk) {core : Nat} {t : Tray} {cond : Nat} {p0 : Word}
    {scope : Option Nat} : (s.wakeDone core t cond p0 scope).2.memOk := by
  unfold State.wakeDone
  split
  · split
    · exact memOk_acquire (memOk_join h)
    · exact memOk_join h
  · split
    · exact memOk_acquire h
    · exact h

theorem nextOk_execYield {s : State} (h : s.memOk) {cond : BitVec 3} {p c : BitVec 7} :
    NextOk (execYield cond p c s) := by
  unfold execYield
  grind [nextOk_issue, memOk_wakeDone, ResOk]

theorem nextOk_execYieldWake {s : State} (h : s.memOk) {tray : Nat} : NextOk (execYieldWake tray s) := by
  unfold execYieldWake
  grind [memOk_wakeClock, memOk_wakeDone, memOk_setTray, memOk_raise, NextOk]

/-! ### Every instruction -/

/-- One alternative per shape of instruction: those that share an operation of the model share its lemma. -/
theorem nextOk_exec {s : State} (h : s.memOk) {i : Sys2Proof.Instr} : NextOk (exec i s) := by
  cases i with
  | yield => exact nextOk_execYield h
  | waitc => exact nextOk_execWaitc h
  | trap | sys | rdsr | nop => unfold exec; exact nextOk_issue h fun _ _ => h
  | bra | bz | bnz | bzm | bnzm => unfold exec; exact nextOk_branch h
  | brd => exact nextOk_execBrd h
  | call => unfold exec; exact nextOk_issue h fun _ _ => resOk_jump h
  | calli | ret | jmpi => unfold exec; exact nextOk_issue h fun _ _ => resOk_jumpPair h
  | loop => exact nextOk_execLoop h
  | sadd | ssub | smul | smulh | sand | sor | sxor | smov | saddI | ssubI | smulI | smulhI | sandI | sorI
   | sxorI | smovI | sshl | sshr | ssra | smin | smax | ssel | sshlI | sshrI | ssraI | sminI | smaxI | scmp
   | mpop | mfirst => unfold exec; exact nextOk_scalarOp h
  | sadd64 | ssub64 | sadd64I | ssub64I => unfold exec; exact nextOk_scalarOp64 h
  | mand | mor | mxor | mandn | mset | mmov => unfold exec; exact nextOk_maskOp h
  | wrsr => exact nextOk_execWrsr h
  | vwin => exact nextOk_execVwin h
  | reggrow => exact nextOk_execReggrow h
  | regshrink => exact nextOk_execRegshrink h
  | vadd | vsub | vmul | vmulh | vmad | vand | vor | vxor | vaddI | vsubI | vmulI | vmulhI | vmadI | vandI
   | vorI | vxorI | vshl | vshr | vsra | vmin | vmax | vsel | vshlI | vshrI | vsraI | vminI | vmaxI | vmov
   | vnot | vabs | vclz | vpopc | vbrev | vbfe | vbfi | vcmp => unfold exec; exact nextOk_vectorOp h
  | vadd64 | vmad64 | vadd64I | vmad64I => unfold exec; exact nextOk_vectorOp64 h
  | vidx => exact nextOk_execVidx h
  | vidxw => exact nextOk_execVidxw h
  | vlane => exact nextOk_execVlane h
  | vgets => exact nextOk_execVgets h
  | fadd | fsub | fmul | ffma | ffms | fnma | fmin | fmax | faddI | fsubI | fmulI | ffmaI | ffmsI | fnmaI
   | fminI | fmaxI | frcp | frsq | fsqrt | fex2 | flg2 | fsin | fcos | ftanh | fcmp | dcmp | hadd2 | hmul2
   | hfma2 | hmax2 | badd2 | bmul2 | bfma2 | bmax2 | cvtF32I32 | cvtI32F32 | cvtF32F64 | cvtI32F64 | cvtF32F16
   | cvtF16F32 | scale | dq8 | dq4 => unfold exec; exact nextOk_floatOp h
  | dadd | dsub | dmul | dfma | dfms | dnma | dmin | dmax | ddiv | dsqrt | drcp | drsq | dfloor | dceil | drne
   | dtrunc | cvtF64F32 | cvtF64I32 => unfold exec; exact nextOk_floatOp64 h
  | cvtqE4m3 | cvtqE5m2 | cvtqE2m1 | cvtqI8 => unfold exec; exact nextOk_cvtq h
  | perm | pup | pdn | pxor | pbcast | vote | redl | scanl => unfold exec; exact nextOk_crossOp h
  | ld => exact nextOk_execLd h
  | st => exact nextOk_execSt h
  | ldv => exact nextOk_execLdv h
  | lds => exact nextOk_execLds h
  | sts => exact nextOk_execSts h
  | atom => exact nextOk_execAtom h
  | atoms => exact nextOk_execAtoms h
  | red => exact nextOk_execRed h
  | ldw => exact nextOk_execLdw h
  | fence => exact nextOk_execFence h
  | cctl => exact nextOk_execCctl h
  | pref => exact nextOk_execPref h
  | migr => exact nextOk_execMigr h
  | cpy => exact nextOk_execCpy h
  | cpym => exact nextOk_execCpym h
  | cpys => exact nextOk_execCpys h
  | rinit => exact nextOk_execRinit h
  | rwait => exact nextOk_execRwait h
  | rrel => exact nextOk_execRrel h
  | rqry => exact nextOk_execRqry h
  | gang => exact nextOk_execGang h
  | mma | mdist => unfold exec; exact nextOk_mmaOp h
  | mtopk => exact nextOk_execMtopk h
  | mfence => exact nextOk_execMfence h
  | mzero => exact nextOk_execMzero h
  | mrd => exact nextOk_execMrd h
  | mwr => exact nextOk_execMwr h
  | snap => exact nextOk_execSnap h
  | sacq | srel | vqry | vpin | vunpin => unfold exec; exact nextOk_snapOp h
  | vstep => exact nextOk_execVstep h
  | hgath | hred | hcvt => unfold exec; exact nextOk_stackOp h
  | hqry => exact nextOk_execHqry h
  | cpostPut | cpostrContrib | cpostLand | cpostrLandr => unfold exec; exact nextOk_postOpnd h
  | carmArm | carmFire | carmFree | carmSet | carmAdd => unfold exec; exact nextOk_carmOpnd h
  | chalo | cqry => unfold exec; exact nextOk_collOp h
  | cwait => exact nextOk_execCwait h
  | gemit | gflush | pxrate => unfold exec; exact nextOk_frontOp h
  | pxin => exact nextOk_execPxin h
  | pxout => exact nextOk_execPxout h
  | march | msmp | mhash => unfold exec; exact nextOk_samplerOp h
  | mqry => exact nextOk_execMqry h
  | ctxnew | ctxgrant | ctxrevoke | ctxrunRun | ctxstopSlice | ctxsave | ctxload | ctxq | ctxrunResume
   | ctxrunReply | ctxstopHalt => unfold exec; exact nextOk_ctxCommand h
  | tret => exact nextOk_execTret h
  | trefl => exact nextOk_execTrefl h
  | tclr => exact nextOk_execTclr h
  | scrub => exact nextOk_execScrub h
  | alog => exact nextOk_execAlog h
  | keyselBind => exact nextOk_execKeyselBind h
  | spawn => exact nextOk_execSpawn h
  | cont => exact nextOk_execCont h
  | jdec => exact nextOk_execJdec h
  | lcancel => exact nextOk_execLcancel h
  | lstat => exact nextOk_execLstat h
  | exit => exact nextOk_execExit h
  | bar => exact nextOk_execBar h
  | cbar => exact nextOk_execCbar h
  | join => exact nextOk_execJoin h
  | pxkill => exact nextOk_execPxkill h
  | keyselUnbind => unfold exec; exact nextOk_keyselCommand h
  | queueKick => exact nextOk_execQueueKick h
  | queueEnable => exact nextOk_execQueueEnable h
  | queueDisable => exact nextOk_execQueueDisable h
  | launchSlotFree => exact nextOk_execLaunchSlotFree h
  | hierarchyEntryFree | candidateUrgent | replayWrite | belowThrottleTemperature => unfold exec; exact h
  | aggregatorWindowClose => unfold exec; exact memOk_closeWindow h
  | launchExpand => exact nextOk_execLaunchExpand h
  | batchPlace => exact nextOk_execBatchPlace h
  | batchStart => exact nextOk_execBatchStart h
  | batchComplete => exact nextOk_execBatchComplete h
  | cancelForceEnd => exact nextOk_execCancelForceEnd h
  | queueRefusal => exact nextOk_execQueueRefusal h
  | queueResend => exact nextOk_execQueueResend h
  | commandAccept => exact nextOk_execCommandAccept h
  | loadComplete => exact nextOk_execLoadComplete h
  | storeComplete => exact nextOk_execStoreComplete h
  | engineResultLand => exact nextOk_execEngineResultLand h
  | faultRecordDeferred => exact nextOk_execFaultRecordDeferred h
  | traySave => exact nextOk_execTraySave h
  | clusterRegionSave => exact nextOk_execClusterRegionSave h
  | yieldWake => exact nextOk_execYieldWake h
  | joinMerge => exact nextOk_execJoinMerge h
  | reggrowGrant => exact nextOk_execReggrowGrant h
  | reggrowDeadlockEvict => exact nextOk_execReggrowDeadlockEvict h
  | trayResourceReturn => exact nextOk_execTrayResourceReturn h
  | gangLatchTimeout => exact nextOk_execGangLatchTimeout h
  | parkTimeout | chainTimeout => unfold exec; exact memOk_whenPark h
  | rootWrite => unfold exec; exact memOk_rootWrite h
  | invalidationKick => unfold exec; exact memOk_invKick (memOk_onCtx h)
  | invalidationComplete => exact nextOk_execInvalidationComplete h
  | homeRead => exact nextOk_execHomeRead h
  | homeOwn => exact nextOk_execHomeOwn h
  | homeAtomic => unfold exec; exact nextOk_execHomeAtomic h
  | homeUpdate => exact nextOk_execHomeUpdate h
  | homeEvict => unfold exec; exact memOk_homeEvict h
  | homeEngineAccess => exact nextOk_execHomeEngineAccess h
  | turnClockReport => exact nextOk_execTurnClockReport h
  | prefetchIssue => exact nextOk_execPrefetchIssue h
  | donateWrite => exact nextOk_execDonateWrite h
  | cowSwitch => exact nextOk_execCowSwitch h
  | snapshotOpComplete => exact nextOk_execSnapshotOpComplete h
  | migrComplete => exact nextOk_execMigrComplete h
  | copyComplete => exact nextOk_execCopyComplete h
  | cpymGroupTimeout => exact nextOk_execCpymGroupTimeout h
  | matrixOpComplete => exact nextOk_execMatrixOpComplete h
  | stackOpComplete => exact nextOk_execStackOpComplete h
  | samplerOpComplete => exact nextOk_execSamplerOpComplete h
  | contextOpComplete => exact nextOk_execContextOpComplete h
  | ualinkUnitArrive => exact nextOk_execUalinkUnitArrive h
  | remoteAccessArrive => exact nextOk_execRemoteAccessArrive h
  | ualinkAck | ualinkFaultCompletion | ualinkUnitTimeout => unfold exec; exact memOk_podAnswer h
  | ualinkNack => unfold exec; exact memOk_podNack h
  | ualinkResend => exact nextOk_execUalinkResend h
  | remoteRetryTimeout => exact nextOk_execRemoteRetryTimeout h
  | ualinkPortDown => exact nextOk_execUalinkPortDown h
  | linkDown => exact nextOk_execLinkDown h
  | primitiveArrive => exact nextOk_execPrimitiveArrive h
  | watermarkArrive => exact nextOk_execWatermarkArrive h
  | tileRasterise => exact nextOk_execTileRasterise h
  | pixelTrayPlace => exact nextOk_execPixelTrayPlace h
  | exportCommit => exact nextOk_execExportCommit h
  | passEnd => exact nextOk_execPassEnd h
  | quantumExpiry => exact nextOk_execQuantumExpiry h
  | sliceBudgetExpiry => exact nextOk_execSliceBudgetExpiry h
  | unitStop => exact nextOk_execUnitStop h
  | registerWrite => exact nextOk_execRegisterWrite h
  | rdmaWrite => exact nextOk_execRdmaWrite h
  | rdmaRead => exact nextOk_execRdmaRead h
  | unsupportedRequest => exact nextOk_execUnsupportedRequest h
  | identify | health => unfold exec; exact memOk_always h h
  | attest => exact nextOk_execAttest h
  | semacq => exact nextOk_execSemacq h
  | semrel => exact nextOk_execSemrel h
  | qpbind => exact nextOk_execQpbind h
  | evset => exact nextOk_execEvset h
  | rootring => exact nextOk_execRootring h
  | fwload => exact nextOk_execFwload h
  | keyroll => unfold exec; exact memOk_atS2 h h
  | rootwr => exact nextOk_execRootwr h
  | podidx => exact nextOk_execPodidx h
  | ckpt => exact nextOk_execCkpt h
  | ckptabort => exact nextOk_execCkptabort h
  | ckptComplete => exact nextOk_execCkptComplete h
  | semaphoreLeaseExpiry => exact nextOk_execSemaphoreLeaseExpiry h
  | powerGood => exact nextOk_execPowerGood h
  | stageS0Complete => exact nextOk_execStageS0Complete h
  | stageS1Complete => exact nextOk_execStageS1Complete h
  | stageS2Reached => exact nextOk_execStageS2Reached h
  | thermalThrottle => exact nextOk_execThermalThrottle h
  | thermalTrip => exact nextOk_execThermalTrip h
  | unassignedEncoding => unfold exec; exact nextOk_execUnassignedEncoding h
  | uncorrectableError => exact nextOk_execUncorrectableError h
  | powerLoss => exact nextOk_execPowerLoss
  | remoteNak => unfold exec; exact memOk_ckptStop h
  | malformedCommand => exact nextOk_execMalformedCommand h

/-! ### Issuing a group (R37–R45) -/

theorem nextOk_runHigh {s : State} (h : s.memOk) {l : HighOp} : NextOk (runHigh l s) := by
  unfold runHigh
  split
  · exact nextOk_execTret h
  · exact nextOk_execTrefl h
  · exact nextOk_execTclr h
  · exact nextOk_execScrub h
  · exact nextOk_execAlog h
  · exact nextOk_execKeyselBind h
  · exact nextOk_execSpawn h
  · exact nextOk_execCont h
  · exact nextOk_execJdec h
  · exact nextOk_execLcancel h
  · exact nextOk_execLstat h

theorem nextOk_runWord {s : State} (h : s.memOk) {x : GWord} : NextOk (runWord x s) := by
  unfold runWord
  split
  · exact nextOk_exec h
  · exact nextOk_runHigh h
  · exact nextOk_execUnassignedEncoding h

theorem nextOk_andThen {o : Host.Outcome State Fault Refusal} (ho : NextOk o)
    {f : State → Host.Outcome State Fault Refusal} (hf : ∀ s, s.memOk → NextOk (f s)) : NextOk (andThen o f) := by
  cases o with
  | next s => exact hf s ho
  | fault e => trivial
  | refused e => trivial

theorem nextOk_runAt {s : State} (h : s.memOk) {c : Cur} {x : GWord} : NextOk (s.runAt c x) := by
  unfold State.runAt
  grind [nextOk_runWord, State.memOk]

theorem nextOk_runChain {s : State} (h : s.memOk) {c : Cur} {l : List GWord} : NextOk (s.runChain c l) := by
  induction l generalizing s with
  | nil => exact memOk_endGroup h
  | cons x r ih => exact nextOk_andThen (nextOk_runAt h) fun s hs => ih hs

theorem memOk_probe {s : State} (h : s.memOk) {c : Cur} {x : GWord} : (s.probe c x).2.2.memOk := by
  unfold State.probe
  have h1 := nextOk_runAt h (c := { c with pc := x.pc, probe := true }) (x := x)
  split
  · rename_i s1 he
    rw [he] at h1
    exact h1
  · exact h

theorem nextOk_runGroup {s : State} (h : s.memOk) {key path : Nat} {t : Tray} {gg : Group} :
    NextOk (s.runGroup key path t gg) := by
  unfold State.runGroup
  grind [memOk_probe, memOk_raise, nextOk_runChain, NextOk]

theorem nextOk_issueGroup {s : State} (h : s.memOk) {key path : Nat} {t : Tray} {p : Path}
    {k : Word × Word × Word} : NextOk (s.issueGroup key path t p k) := by
  unfold State.issueGroup
  grind [memOk_raise, memOk_onTray, nextOk_andThen, nextOk_runAt, memOk_endGroup, nextOk_runGroup, NextOk]

theorem memOk_fetchFault {s : State} (h : s.memOk) {key path : Nat} {t : Tray} {p : Path} {f : XFault} :
    (s.fetchFault key path t p f).memOk := by
  unfold State.fetchFault
  split
  · split
    · exact memOk_parkTray h
    · exact memOk_raise (memOk_faultRecord h)
  · split
    · exact memOk_parkTray h
    · exact memOk_raise (memOk_faultRecord h)

theorem nextOk_issueAt {s : State} (h : s.memOk) {key path : Nat} {t : Tray} {p : Path} :
    NextOk (s.issueAt key path t p) := by
  unfold State.issueAt
  extract_lets
  split
  · exact memOk_fetchFault h
  · split
    · exact memOk_raise (memOk_packetFill h)
    · exact nextOk_issueGroup (memOk_packetFill h)

theorem nextOk_issuePath {s : State} (h : s.memOk) {key path : Nat} : NextOk (s.issuePath key path) := by
  unfold State.issuePath
  split
  · exact h
  · split
    · exact memOk_takeAsync h
    · split
      · exact h
      · split
        · exact memOk_trayEnds h
        · split
          · exact memOk_raise (memOk_setTray h)
          · exact nextOk_issueAt h

/-! ### What happens next (R79) -/

theorem memOk_tick {s : State} (h : s.memOk) : s.tick.memOk := h
theorem memOk_noteCandidates {s : State} (h : s.memOk) {l : List Cand} : (s.noteCandidates l).memOk := h
theorem nextOk_issueNext {s : State} (h : s.memOk) {key path : Nat} : NextOk (s.issueNext key path) :=
  nextOk_issuePath (memOk_onTray h)
theorem eventsOk_nil : EventsOk [] := nofun
theorem eventsOk_cons {f : State → Host.Outcome State Fault Refusal} (hf : ∀ s, s.memOk → NextOk (f s))
    {l : List (State → Host.Outcome State Fault Refusal)} (hl : EventsOk l) : EventsOk (f :: l) :=
  List.forall_mem_cons.2 ⟨hf, hl⟩
theorem eventsOk_one {f : State → Host.Outcome State Fault Refusal} (hf : ∀ s, s.memOk → NextOk (f s)) :
    EventsOk [f] := eventsOk_cons hf eventsOk_nil
theorem eventsOk_append {l m : List (State → Host.Outcome State Fault Refusal)} (hl : EventsOk l)
    (hm : EventsOk m) : EventsOk (l ++ m) := List.forall_mem_append.2 ⟨hl, hm⟩

theorem eventsOk_flatMap {α : Type} {l : List α} {g : α → List (State → Host.Outcome State Fault Refusal)}
    (hg : ∀ x, EventsOk (g x)) : EventsOk (l.flatMap g) := by
  intro f hf
  obtain ⟨x, -, hx⟩ := List.mem_flatMap.1 hf
  exact hg x f hx

theorem eventsOk_map {α : Type} {l : List α} {g : α → State → Host.Outcome State Fault Refusal}
    (hg : ∀ x s, s.memOk → NextOk (g x s)) : EventsOk (l.map g) := by
  intro f hf
  obtain ⟨x, -, rfl⟩ := List.mem_map.1 hf
  exact hg x

theorem eventsOk_opEvents {o : Op} : EventsOk (opEvents o) := by
  unfold opEvents
  split
  · refine eventsOk_cons (fun _ hs => nextOk_execCommandAccept hs) (eventsOk_cons ?_ (eventsOk_one ?_))
    · exact fun _ hs => nextOk_execQueueRefusal hs
    · exact fun _ hs => nextOk_execQueueResend hs
  · split
    · exact eventsOk_one fun _ hs => nextOk_execCopyComplete hs
    · exact eventsOk_one fun _ hs => nextOk_execCopyComplete hs
    · exact eventsOk_one fun _ hs => nextOk_execMigrComplete hs
    · exact eventsOk_one fun _ hs => nextOk_execMatrixOpComplete hs
    · exact eventsOk_one fun _ hs => nextOk_execContextOpComplete hs
    · exact eventsOk_one fun _ hs => nextOk_execStackOpComplete hs
    · exact eventsOk_one fun _ hs => nextOk_execSnapshotOpComplete hs
    · exact eventsOk_one fun _ hs => nextOk_execSamplerOpComplete hs
    · split
      · exact eventsOk_nil
      · exact eventsOk_one fun _ hs => memOk_cmdResume hs
    · exact eventsOk_nil
    · exact eventsOk_nil

theorem eventsOk_trayEvents {key : Nat} {t : Tray} : EventsOk (trayEvents key t) := by
  unfold trayEvents
  refine eventsOk_append (eventsOk_append (eventsOk_append (eventsOk_flatMap fun p => ?_) ?_) ?_) ?_
  · split
    · exact eventsOk_one fun _ hs => nextOk_execLoadComplete hs
    · exact eventsOk_one fun _ hs => nextOk_execStoreComplete hs
    · exact eventsOk_one fun _ hs => nextOk_execEngineResultLand hs
    · exact eventsOk_nil
  · split
    · exact eventsOk_one fun _ hs => nextOk_execCancelForceEnd hs
    · exact eventsOk_one fun _ hs => nextOk_execTraySave hs
    · exact eventsOk_nil
  · split
    · exact eventsOk_one fun _ hs => nextOk_execYieldWake hs
    · refine eventsOk_cons (fun _ hs => nextOk_execReggrowGrant hs) ?_
      exact eventsOk_one fun _ hs => nextOk_execReggrowDeadlockEvict hs
    · exact eventsOk_one fun _ hs => nextOk_execTrayResourceReturn hs
    · exact eventsOk_nil
  · split
    · exact eventsOk_one fun _ hs => nextOk_execJoinMerge hs
    · exact eventsOk_nil

theorem eventsOk_prefetchEvents {s : State} {bank : Nat} {p : Prefetcher} : EventsOk (s.prefetchEvents bank p) := by
  unfold State.prefetchEvents
  intro f hf
  obtain ⟨x, -, hx⟩ := List.mem_filterMap.1 hf
  obtain ⟨n, -, rfl⟩ := Option.map_eq_some_iff.1 hx
  exact fun _ hs => nextOk_execPrefetchIssue hs

theorem eventsOk_ctxEvents {c : Nat} {t : Ctx} : EventsOk (ctxEvents c t) := by
  unfold ctxEvents
  refine eventsOk_append ?_ (eventsOk_map fun _ _ hs => nextOk_execUnitStop hs)
  split
  · exact eventsOk_nil
  · exact eventsOk_one fun _ hs => nextOk_execInvalidationComplete hs

theorem eventsOk_passEvents {n : Nat} {p : Pass} : EventsOk (passEvents n p) := by
  unfold passEvents
  refine eventsOk_append (eventsOk_append (eventsOk_append (eventsOk_flatMap fun e => ?_) (eventsOk_flatMap fun e => ?_))
    ?_) (eventsOk_one fun _ hs => nextOk_execPassEnd hs)
  · refine eventsOk_cons (fun _ hs => nextOk_execPrimitiveArrive hs) ?_
    exact eventsOk_one fun _ hs => nextOk_execWatermarkArrive hs
  · refine eventsOk_cons (fun _ hs => nextOk_execTileRasterise hs) ?_
    exact eventsOk_one fun _ hs => nextOk_execPixelTrayPlace hs
  · exact eventsOk_map fun _ _ hs => nextOk_execExportCommit hs

/-- Everything the engines can do by themselves. -/
theorem eventsOk_events {s : State} : EventsOk s.events := by
  unfold State.events
  iterate 15 refine eventsOk_append ?_ ?_
  · exact eventsOk_flatMap fun _ => eventsOk_opEvents
  · exact eventsOk_flatMap fun _ => eventsOk_trayEvents
  · exact eventsOk_flatMap fun _ => eventsOk_ctxEvents
  · exact eventsOk_flatMap fun _ => eventsOk_passEvents
  · exact eventsOk_flatMap fun _ => eventsOk_prefetchEvents
  · split
    · exact eventsOk_map fun _ _ hs => nextOk_execTurnClockReport hs
    · exact eventsOk_nil
  · exact eventsOk_map fun _ _ hs => nextOk_execCowSwitch hs
  · exact eventsOk_map fun _ _ hs => memOk_kick hs
  · exact eventsOk_flatMap fun _ => eventsOk_map fun _ _ hs => nextOk_execLaunchExpand hs
  · split
    · exact eventsOk_nil
    · exact eventsOk_map fun _ _ hs => nextOk_execBatchPlace hs
  · refine eventsOk_flatMap fun e => eventsOk_append
      (eventsOk_cons (fun _ hs => nextOk_execBatchStart hs) (eventsOk_one fun _ hs => nextOk_execBatchComplete hs)) ?_
    split
    · exact eventsOk_nil
    · exact eventsOk_one fun _ hs => memOk_batchRetry hs
  · exact eventsOk_map fun _ _ hs => nextOk_execClusterRegionSave hs
  · exact eventsOk_map fun _ _ hs => nextOk_execFaultRecordDeferred hs
  · exact eventsOk_map fun _ _ hs => memOk_rdmaServe hs
  · refine eventsOk_flatMap fun e => ?_
    refine eventsOk_cons (f := fun s => .next (s.ckptStep e.1)) (fun _ hs => memOk_ckptStep hs) ?_
    exact eventsOk_one fun _ hs => nextOk_execCkptComplete hs
  · split
    · exact eventsOk_one fun _ hs => memOk_getD hs (memOk_podStep hs)
    · exact eventsOk_nil

theorem nextOk_runEvent {s : State} (h : s.memOk) : NextOk s.runEvent := by
  unfold State.runEvent
  extract_lets l
  split
  · exact eventsOk_events _ (List.mem_of_getElem? ‹_›) s h
  · exact h

theorem nextOk_issueFirst {s : State} (h : s.memOk) : NextOk s.issueFirst := by
  unfold State.issueFirst
  grind [memOk_noteCandidates, memOk_onCore, nextOk_issueNext, nextOk_runEvent]

theorem nextOk_engineFirst {s : State} (h : s.memOk) : NextOk s.engineFirst := by
  unfold State.engineFirst
  grind [nextOk_issueFirst, nextOk_runEvent]

theorem nextOk_takeEvent {s : State} (h : s.memOk) {e : Instr} : NextOk (s.takeEvent e) := by
  unfold State.takeEvent
  grind [nextOk_exec, NextOk]

/-- Posts, events from outside, then the issue selector and the engines. -/
theorem nextOk_advance {s : State} (h : s.memOk) : NextOk s.advance := by
  unfold State.advance
  grind [memOk_doPost, nextOk_takeEvent, nextOk_issueNext, nextOk_issueFirst, nextOk_engineFirst, State.memOk,
    NextOk]

theorem nextOk_settled {o : Host.Outcome State Fault Refusal} (ho : NextOk o) : NextOk (settled o) := by
  cases o with
  | next s => exact ho
  | fault e => trivial
  | refused e => trivial

/-! ### The obligation -/

theorem nextOk_step {s : State} (h : s.memOk) : NextOk (step s) := nextOk_settled (nextOk_advance (memOk_tick h))

/-- Settles O58: memory and the poison marks are written by `State.wr`, `State.wrBytes`, `State.setPoison`,
`State.copyBytes`, `State.zeroBytes` and `State.copyPage` alone, each of which keeps the form, or set to the empty list;
every operation of the model is made of these and of updates of other fields. -/
theorem memoryFormKept : Obligations.MemoryFormKept := by
  unfold Obligations.MemoryFormKept
  intro s s' h hs
  have hn := nextOk_step h
  rwa [hs] at hn

end Sys2Proof.MemoryForm

/-!
# Sending, acceptance, refusal and resending of commands (O28)

What sending does to a tray is stated with `Src.counted`, which the statements of loads and stores use too; each event of
the queues then has one lemma per case of what the queue answers (R14–R17).
-/

namespace Sys2Proof.EngineCommands
open Sys2Proof.Machine Sys2Proof.Laws

/-! ### Sending -/

section
variable (r : Src) (t : Tray) (x : Ctr)

/-- Counting an instruction moves nothing that setting a counter leaves alone. -/
theorem counted_keeps {α : Type} {f : Tray → α} (hf : ∀ n, f (t.setCtr x n) = f t) : f (r.counted t x) = f t := by
  unfold Src.counted
  split
  · exact hf _
  · rfl

@[simp] theorem counted_vregs : (r.counted t x).vregs = t.vregs := counted_keeps r t x (by simp)
@[simp] theorem counted_sregs : (r.counted t x).sregs = t.sregs := counted_keeps r t x (by simp)
@[simp] theorem counted_pend : (r.counted t x).pend = t.pend := counted_keeps r t x (by simp)
@[simp] theorem counted_nextPend : (r.counted t x).nextPend = t.nextPend := counted_keeps r t x (by simp)
@[simp] theorem counted_ctx : (r.counted t x).ctx = t.ctx := counted_keeps r t x (by simp)
@[simp] theorem counted_prio : (r.counted t x).prio = t.prio := counted_keeps r t x (by simp)
@[simp] theorem counted_seq : (r.counted t x).seq = t.seq := counted_keeps r t x (by simp)
@[simp] theorem counted_batch : (r.counted t x).batch = t.batch := counted_keeps r t x (by simp)
@[simp] theorem counted_idx : (r.counted t x).idx = t.idx := counted_keeps r t x (by simp)

/-- The counter itself rises where the instruction was not counted before a park (R142). -/
theorem counted_ctr : (r.counted t x).ctr x = if r.grp = none then t.ctr x + 1 else t.ctr x := by
  unfold Src.counted
  split
  · simp
  · rfl

/-- A counter is a field of its own. -/
@[simp] theorem ctr_noted (p : List Pend) (n : Nat) (q : BitVec 14) :
    { t with pend := p, nextPend := n, seq := q }.ctr x = t.ctr x := by
  cases x <;> rfl

/-- The pending number under which a command reports: its registers are bound, and it is counted with what of its word was
counted before a park. -/
def commandPend (sdst vdst : List Nat) : Pend :=
  ⟨t.nextPend, .op, r.i, sdst, vdst, none, some x, [], 0, 0, [], (r.grp.map (·.1)).getD t.nextPend, []⟩

/-- A command's pending number is noted in the tray that has counted it. -/
theorem addPend_command (sdst vdst : List Nat) :
    t.addPend .op r.i (some x) sdst vdst none (grp := r.grp) =
      { r.counted t x with pend := t.pend ++ [commandPend r t x sdst vdst], nextPend := t.nextPend + 1 } := by
  cases h : r.grp <;> simp [Tray.addPend, Src.counted, commandPend, h]

/-- Sending is counting and noting, then putting the operation on its way. -/
theorem send_eq_sendOp (s : State) (eng unit : Nat) (ver : Word) (sdst vdst : List Nat) (body : OpBody) :
    r.send t s eng unit ver (some x) sdst vdst body =
      sendOp r { r.counted t x with pend := t.pend ++ [commandPend r t x sdst vdst], nextPend := t.nextPend + 1 }
        s eng unit ver t.nextPend body := by
  rw [← addPend_command]
  rfl

/-- What sending leaves in the tray. -/
theorem send_tray (s : State) (eng unit : Nat) (ver : Word) (sdst vdst : List Nat) (body : OpBody) :
    (r.send t s eng unit ver (some x) sdst vdst body).1 = { r.counted t x with
      pend := t.pend ++ [commandPend r t x sdst vdst], nextPend := t.nextPend + 1, seq := t.seq + 1 } := by
  rw [send_eq_sendOp, sendOp, counted_seq]

/-- What sending leaves in the package: one operation more, in its replay window (R10, R12, R17). -/
theorem send_state (s : State) (eng unit : Nat) (ver : Word) (sdst vdst : List Nat) (body : OpBody) :
    (r.send t s eng unit ver (some x) sdst vdst body).2 = { s with
      nextId := s.nextId + 1
      ops := s.ops ++ [⟨s.nextId, t.tagOf s r.key eng ver, unit, t.batch, t.idx, t.nextPend, 0, body, none⟩] } := by
  rw [send_eq_sendOp]
  simp [sendOp, Tray.tagOf]

end

/-- A word that reads the tray after the advance of its path finds the counters as they were. -/
@[simp] theorem advance_ctr (t : Tray) (c : Cur) (x : Ctr) : (t.advance c).ctr x = t.ctr x := by
  cases x <;> simp [Tray.ctr]

/-! ### Acceptance and refusal -/

section
variable {s : State} {core : Nat} {o : Op}

/-- A command that neither joins a group nor is performed in one piece goes from its replay window to the end of its
queue. -/
theorem acceptOp_queued (hm : ∀ m, o.body ≠ .member m) (hk : ∀ k, o.body ≠ .cmd k) :
    s.acceptOp o = { s with ops := (s.ops.filter fun x => x.id != o.id) ++ [{ o with phase := 1 }] } := by
  unfold State.acceptOp
  dsimp only
  split
  · exact absurd ‹_› (hm _)
  · exact absurd ‹_› (hk _)
  · rfl

/-- A queue with room takes the oldest command. -/
theorem commandAccept_room (ho : s.nextCommand core = some o) (hq : s.queueTakes core o.tag.eng o.unit = true) :
    exec (.commandAccept core) s = .next (s.acceptOp o) := by
  change execCommandAccept core s = _
  simp [execCommandAccept, ho, hq]

/-- A full queue takes nothing. -/
theorem commandAccept_full (ho : s.nextCommand core = some o) (hq : s.queueTakes core o.tag.eng o.unit = false) :
    exec (.commandAccept core) s = .next s := by
  change execCommandAccept core s = _
  simp [execCommandAccept, ho, hq]

/-- A full queue's refusal is noted behind those before it, with the back-off that firmware set (R14, R16). -/
theorem queueRefusal_full (ho : s.nextCommand core = some o) (hq : s.queueTakes core o.tag.eng o.unit = false) :
    exec (.queueRefusal core) s = .next { s with
      refusals := s.refusals ++ [⟨core, o.tag.eng, o.unit, s.backoffOf core⟩] } := by
  change execQueueRefusal core s = _
  simp [execQueueRefusal, ho, hq]

/-- A core sends no command to a queue that has refused it (R15). -/
theorem refuses_nextCommand (ho : s.nextCommand core = some o) : s.refuses core o.tag.eng o.unit = false := by
  have h := List.find?_some ho
  rw [Bool.and_eq_true, Bool.not_eq_true'] at h
  exact h.2

/-- A queue whose refusal of the core stands has refused it. -/
theorem refuses_of_mem {x : QRefusal} (hx : x ∈ s.refusals) : s.refuses x.core x.eng x.unit = true :=
  List.any_eq_true.2 ⟨x, hx, by simp⟩

/-- While a refusal of the core stands, no command for that queue is the core's next one (R15). -/
theorem nextCommand_ne_of_refused {x : QRefusal} (hx : x ∈ s.refusals) (ho : s.nextCommand x.core = some o) :
    (o.tag.eng, o.unit) ≠ (x.eng, x.unit) := by
  intro he
  obtain ⟨he, hu⟩ := Prod.mk.inj he
  have hr := refuses_nextCommand ho
  rw [he, hu, refuses_of_mem hx] at hr
  exact Bool.noConfusion hr

end

/-! ### Resending -/

section
variable {s : State} {x : QRefusal} {o : Op}

/-- The first held command is accepted where the queue now takes it, and the refusal is over (R15). -/
theorem resend_room (ho : (s.ops.find? fun o => s.sendable x.core o && o.tag.eng == x.eng && o.unit == x.unit) = some o)
    (hq : s.queueTakes x.core x.eng x.unit = true) :
    s.resend x = { s with refusals := s.refusals.filter (· != x) }.acceptOp o := by
  simp [State.resend, ho, hq]

/-- Otherwise it is refused again, with twice the back-off (R16). -/
theorem resend_full (ho : (s.ops.find? fun o => s.sendable x.core o && o.tag.eng == x.eng && o.unit == x.unit) = some o)
    (hq : s.queueTakes x.core x.eng x.unit = false) :
    s.resend x = { s with refusals := s.refusals.map fun y =>
      if y = x then { x with backoff := min 4096 (2 * x.backoff) } else y } := by
  simp [State.resend, ho, hq]

variable {core : Nat}

/-- A core resends to the first of its queues that takes its command now. -/
theorem queueResend_takes
    (hx : ((s.refusals.filter fun y => y.core == core).find? fun y => s.queueTakes core y.eng y.unit) = some x) :
    exec (.queueResend core) s = .next (s.resend x) := by
  change execQueueResend core s = _
  simp only [execQueueResend, hx]

/-- Where none does, it resends to the queue that refused it first. -/
theorem queueResend_first
    (hn : ((s.refusals.filter fun y => y.core == core).find? fun y => s.queueTakes core y.eng y.unit) = none)
    (hx : (s.refusals.filter fun y => y.core == core).head? = some x) :
    exec (.queueResend core) s = .next (s.resend x) := by
  obtain ⟨l, hl⟩ := List.head?_eq_some_iff.1 hx
  change execQueueResend core s = _
  simp only [execQueueResend, hn]
  simp only [hl]

/-- Each refusal of a core's own list is one of that core. -/
theorem core_of_mem_mine (hx : x ∈ s.refusals.filter fun y => y.core == core) : x.core = core :=
  beq_iff_eq.1 (List.mem_filter.1 hx).2

end

/-! ### The obligation -/

/-- Settles O28: sending is counting and noting in the tray and one operation more in the package; the queue's answer to
the oldest command decides acceptance and refusal, its answer to the first held one what a resend does. -/
theorem engineCommandResults : Obligations.EngineCommandResults := by
  unfold Obligations.EngineCommandResults
  refine ⟨fun s c t eng unit ver x sdst vdst body => ?_, fun s core => ⟨fun o ho => ⟨fun hq hm hk => ?_, fun hq => ?_⟩,
    fun x o => ?_⟩⟩
  · intro r a q
    have ht : q.1 = _ := send_tray r a x s eng unit ver sdst vdst body
    have hs : q.2 = _ := send_state r a x s eng unit ver sdst vdst body
    rw [ht, hs, ctr_noted, counted_ctr]
    simp [a, r, Tray.tagOf, Cur.src, commandPend]
  · rw [commandAccept_room ho hq, acceptOp_queued hm hk]
  · refine ⟨commandAccept_full ho hq, queueRefusal_full ho hq, fun x hx => ?_⟩
    exact nextCommand_ne_of_refused (x := ⟨core, o.tag.eng, o.unit, s.backoffOf core⟩) (by simp) hx
  · intro mine ho
    refine ⟨fun hx => ?_, fun hn hx => ?_⟩
    · obtain rfl := core_of_mem_mine (List.mem_of_find?_eq_some hx)
      have hq : s.queueTakes x.core x.eng x.unit = true :=
        List.find?_some (p := fun y : QRefusal => s.queueTakes x.core y.eng y.unit) hx
      rw [queueResend_takes hx, resend_room ho hq]
    · have hmem : x ∈ mine := List.mem_of_mem_head? hx
      obtain rfl := core_of_mem_mine hmem
      have hq : s.queueTakes x.core x.eng x.unit = false := by simpa using List.find?_eq_none.1 hn x hmem
      rw [queueResend_first hn hx, resend_full ho hq]

end Sys2Proof.EngineCommands

/-!
# Decoding what is encoded (O57), and the words of the spec's examples (O60)

The encoder's laws give one round trip per constructor; a word that the spec writes out is its instruction's encoding.
-/

namespace Sys2Proof.RoundTrips
open Sys2Proof.Laws

/-- Every instruction is read back from its words, each by the lemma of its constructor; an event has no words. -/
theorem roundTrip (i : Instr) : RoundTrip i := by
  cases i with
  | nop => exact Encoding.nop | exit => exact Encoding.exit | yield cond p c => exact Encoding.yield cond p c
  | waitc l st y m => exact Encoding.waitc l st y m | bar => exact Encoding.bar | cbar => exact Encoding.cbar
  | trap x => exact Encoding.trap x | sys x => exact Encoding.sys x | bra disp => exact Encoding.bra disp
  | bz x disp => exact Encoding.bz x disp | bnz x disp => exact Encoding.bnz x disp
  | bzm x disp => exact Encoding.bzm x disp | bnzm x disp => exact Encoding.bnzm x disp
  | brd x disp => exact Encoding.brd x disp | join => exact Encoding.join | call disp => exact Encoding.call disp
  | calli x => exact Encoding.calli x | ret x => exact Encoding.ret x | jmpi x => exact Encoding.jmpi x
  | loop x disp => exact Encoding.loop x disp | sadd d a b => exact Encoding.sadd d a b
  | ssub d a b => exact Encoding.ssub d a b | smul d a b => exact Encoding.smul d a b
  | smulh d a b => exact Encoding.smulh d a b | sand d a b => exact Encoding.sand d a b
  | sor d a b => exact Encoding.sor d a b | sxor d a b => exact Encoding.sxor d a b
  | smov d b => exact Encoding.smov d b | saddI d a imm => exact Encoding.saddI d a imm
  | ssubI d a imm => exact Encoding.ssubI d a imm | smulI d a imm => exact Encoding.smulI d a imm
  | smulhI d a imm => exact Encoding.smulhI d a imm | sandI d a imm => exact Encoding.sandI d a imm
  | sorI d a imm => exact Encoding.sorI d a imm | sxorI d a imm => exact Encoding.sxorI d a imm
  | smovI d imm => exact Encoding.smovI d imm | sshl d a b => exact Encoding.sshl d a b
  | sshr d a b => exact Encoding.sshr d a b | ssra d a b => exact Encoding.ssra d a b
  | smin d a b => exact Encoding.smin d a b | smax d a b => exact Encoding.smax d a b
  | sadd64 d a b => exact Encoding.sadd64 d a b | ssub64 d a b => exact Encoding.ssub64 d a b
  | ssel d a b => exact Encoding.ssel d a b | sshlI d a imm => exact Encoding.sshlI d a imm
  | sshrI d a imm => exact Encoding.sshrI d a imm | ssraI d a imm => exact Encoding.ssraI d a imm
  | sminI d a imm => exact Encoding.sminI d a imm | smaxI d a imm => exact Encoding.smaxI d a imm
  | sadd64I d a imm => exact Encoding.sadd64I d a imm | ssub64I d a imm => exact Encoding.ssub64I d a imm
  | scmp cc d a b => exact Encoding.scmp cc d a b | mand d a b => exact Encoding.mand d a b
  | mor d a b => exact Encoding.mor d a b | mxor d a b => exact Encoding.mxor d a b
  | mandn d a b => exact Encoding.mandn d a b | mpop d b => exact Encoding.mpop d b
  | mfirst d b => exact Encoding.mfirst d b | mset d a => exact Encoding.mset d a
  | mmov d b => exact Encoding.mmov d b | rdsr d a => exact Encoding.rdsr d a | wrsr a b => exact Encoding.wrsr a b
  | vwin b => exact Encoding.vwin b | reggrow b => exact Encoding.reggrow b
  | regshrink b => exact Encoding.regshrink b | vadd d a b => exact Encoding.vadd d a b
  | vsub d a b => exact Encoding.vsub d a b | vmul d a b => exact Encoding.vmul d a b
  | vmulh d a b => exact Encoding.vmulh d a b | vmad d a b => exact Encoding.vmad d a b
  | vand d a b => exact Encoding.vand d a b | vor d a b => exact Encoding.vor d a b
  | vxor d a b => exact Encoding.vxor d a b | vaddI d a imm => exact Encoding.vaddI d a imm
  | vsubI d a imm => exact Encoding.vsubI d a imm | vmulI d a imm => exact Encoding.vmulI d a imm
  | vmulhI d a imm => exact Encoding.vmulhI d a imm | vmadI d a imm => exact Encoding.vmadI d a imm
  | vandI d a imm => exact Encoding.vandI d a imm | vorI d a imm => exact Encoding.vorI d a imm
  | vxorI d a imm => exact Encoding.vxorI d a imm | vshl d a b => exact Encoding.vshl d a b
  | vshr d a b => exact Encoding.vshr d a b | vsra d a b => exact Encoding.vsra d a b
  | vmin d a b => exact Encoding.vmin d a b | vmax d a b => exact Encoding.vmax d a b
  | vadd64 d a b => exact Encoding.vadd64 d a b | vmad64 d a b => exact Encoding.vmad64 d a b
  | vsel d a b => exact Encoding.vsel d a b | vshlI d a imm => exact Encoding.vshlI d a imm
  | vshrI d a imm => exact Encoding.vshrI d a imm | vsraI d a imm => exact Encoding.vsraI d a imm
  | vminI d a imm => exact Encoding.vminI d a imm | vmaxI d a imm => exact Encoding.vmaxI d a imm
  | vadd64I d a imm => exact Encoding.vadd64I d a imm | vmad64I d a imm => exact Encoding.vmad64I d a imm
  | vmov d b => exact Encoding.vmov d b | vnot d b => exact Encoding.vnot d b | vabs d b => exact Encoding.vabs d b
  | vclz d b => exact Encoding.vclz d b | vpopc d b => exact Encoding.vpopc d b
  | vbrev d b => exact Encoding.vbrev d b | vbfe d a b => exact Encoding.vbfe d a b
  | vbfi d a b => exact Encoding.vbfi d a b | vcmp cc d a b => exact Encoding.vcmp cc d a b
  | vidx d a b => exact Encoding.vidx d a b | vidxw d a b => exact Encoding.vidxw d a b
  | vlane d sel => exact Encoding.vlane d sel | vgets d a b => exact Encoding.vgets d a b
  | fadd d a b => exact Encoding.fadd d a b | fsub d a b => exact Encoding.fsub d a b
  | fmul d a b => exact Encoding.fmul d a b | ffma d a b => exact Encoding.ffma d a b
  | ffms d a b => exact Encoding.ffms d a b | fnma d a b => exact Encoding.fnma d a b
  | fmin d a b => exact Encoding.fmin d a b | fmax d a b => exact Encoding.fmax d a b
  | faddI d a imm => exact Encoding.faddI d a imm | fsubI d a imm => exact Encoding.fsubI d a imm
  | fmulI d a imm => exact Encoding.fmulI d a imm | ffmaI d a imm => exact Encoding.ffmaI d a imm
  | ffmsI d a imm => exact Encoding.ffmsI d a imm | fnmaI d a imm => exact Encoding.fnmaI d a imm
  | fminI d a imm => exact Encoding.fminI d a imm | fmaxI d a imm => exact Encoding.fmaxI d a imm
  | frcp d b => exact Encoding.frcp d b | frsq d b => exact Encoding.frsq d b | fsqrt d b => exact Encoding.fsqrt d b
  | fex2 d b => exact Encoding.fex2 d b | flg2 d b => exact Encoding.flg2 d b | fsin d b => exact Encoding.fsin d b
  | fcos d b => exact Encoding.fcos d b | ftanh d b => exact Encoding.ftanh d b
  | fcmp cc d a b => exact Encoding.fcmp cc d a b | dadd d a b => exact Encoding.dadd d a b
  | dsub d a b => exact Encoding.dsub d a b | dmul d a b => exact Encoding.dmul d a b
  | dfma d a b => exact Encoding.dfma d a b | dfms d a b => exact Encoding.dfms d a b
  | dnma d a b => exact Encoding.dnma d a b | dmin d a b => exact Encoding.dmin d a b
  | dmax d a b => exact Encoding.dmax d a b | ddiv d a b => exact Encoding.ddiv d a b
  | dsqrt d b => exact Encoding.dsqrt d b | drcp d b => exact Encoding.drcp d b | drsq d b => exact Encoding.drsq d b
  | dfloor d b => exact Encoding.dfloor d b | dceil d b => exact Encoding.dceil d b
  | drne d b => exact Encoding.drne d b | dtrunc d b => exact Encoding.dtrunc d b
  | dcmp cc d a b => exact Encoding.dcmp cc d a b | hadd2 d a b => exact Encoding.hadd2 d a b
  | hmul2 d a b => exact Encoding.hmul2 d a b | hfma2 d a b => exact Encoding.hfma2 d a b
  | hmax2 d a b => exact Encoding.hmax2 d a b | badd2 d a b => exact Encoding.badd2 d a b
  | bmul2 d a b => exact Encoding.bmul2 d a b | bfma2 d a b => exact Encoding.bfma2 d a b
  | bmax2 d a b => exact Encoding.bmax2 d a b | cvtF32I32 d a rm u => exact Encoding.cvtF32I32 d a rm u
  | cvtI32F32 d a rm u => exact Encoding.cvtI32F32 d a rm u | cvtF64F32 d a => exact Encoding.cvtF64F32 d a
  | cvtF32F64 d a rm sat => exact Encoding.cvtF32F64 d a rm sat | cvtF64I32 d a u => exact Encoding.cvtF64I32 d a u
  | cvtI32F64 d a rm u => exact Encoding.cvtI32F64 d a rm u | cvtF32F16 d a h hi => exact Encoding.cvtF32F16 d a h hi
  | cvtF16F32 d a rm sat h => exact Encoding.cvtF16F32 d a rm sat h
  | cvtqE4m3 d a pos sat mx rm => exact Encoding.cvtqE4m3 d a pos sat mx rm
  | cvtqE5m2 d a pos sat mx rm => exact Encoding.cvtqE5m2 d a pos sat mx rm
  | cvtqE2m1 d a pos sat mx rm => exact Encoding.cvtqE2m1 d a pos sat mx rm
  | cvtqI8 d a pos mx rm => exact Encoding.cvtqI8 d a pos mx rm | scale d a fmt => exact Encoding.scale d a fmt
  | dq8 d a pos fmt mx rm => exact Encoding.dq8 d a pos fmt mx rm
  | dq4 d a pos mx rm => exact Encoding.dq4 d a pos mx rm | perm d a m p => exact Encoding.perm d a m p
  | pup d a m p => exact Encoding.pup d a m p | pdn d a m p => exact Encoding.pdn d a m p
  | pxor d a m p => exact Encoding.pxor d a m p | pbcast d a m p => exact Encoding.pbcast d a m p
  | vote d a m p => exact Encoding.vote d a m p | redl d a m p => exact Encoding.redl d a m p
  | scanl d a m p => exact Encoding.scanl d a m p | ld d a ww h o => exact Encoding.ld d a ww h o
  | st d a ww h o => exact Encoding.st d a ww h o | ldv d a ww h o => exact Encoding.ldv d a ww h o
  | lds d a ww h o => exact Encoding.lds d a ww h o | sts d a ww h o => exact Encoding.sts d a ww h o
  | atom d a ww h o => exact Encoding.atom d a ww h o | atoms d a ww h o => exact Encoding.atoms d a ww h o
  | red d a ww h o => exact Encoding.red d a ww h o | ldw d a ww h o => exact Encoding.ldw d a ww h o
  | fence kind scope => exact Encoding.fence kind scope | cctl a kind n => exact Encoding.cctl a kind n
  | pref a tgt n => exact Encoding.pref a tgt n | migr d a b => exact Encoding.migr d a b
  | cpy a b => exact Encoding.cpy a b | cpym a b => exact Encoding.cpym a b | cpys a => exact Encoding.cpys a
  | rinit d a => exact Encoding.rinit d a | rwait d a b => exact Encoding.rwait d a b
  | rrel d b => exact Encoding.rrel d b | rqry d b => exact Encoding.rqry d b | gang d b => exact Encoding.gang d b
  | mma t a b => exact Encoding.mma t a b | mdist t a b => exact Encoding.mdist t a b
  | mtopk t src k => exact Encoding.mtopk t src k | mfence d => exact Encoding.mfence d
  | mzero b => exact Encoding.mzero b | mrd d t f64 peek => exact Encoding.mrd d t f64 peek
  | mwr t a f64 => exact Encoding.mwr t a f64 | snap d a b => exact Encoding.snap d a b
  | sacq d b => exact Encoding.sacq d b | srel d b => exact Encoding.srel d b | vstep d b => exact Encoding.vstep d b
  | vqry d a b => exact Encoding.vqry d a b | vpin d b => exact Encoding.vpin d b
  | vunpin d b => exact Encoding.vunpin d b | hgath a b => exact Encoding.hgath a b
  | hred a b => exact Encoding.hred a b | hcvt a b => exact Encoding.hcvt a b | hqry d b => exact Encoding.hqry d b
  | cpostPut d a b => exact Encoding.cpostPut d a b | cpostrContrib d a b => exact Encoding.cpostrContrib d a b
  | carmArm d a b => exact Encoding.carmArm d a b | chalo d a => exact Encoding.chalo d a
  | cwait d a b => exact Encoding.cwait d a b | cqry d b => exact Encoding.cqry d b
  | gemit d a b => exact Encoding.gemit d a b | gflush a b => exact Encoding.gflush a b
  | pxin d mode cen k => exact Encoding.pxin d mode cen k | pxout a => exact Encoding.pxout a
  | pxkill => exact Encoding.pxkill | pxrate a b => exact Encoding.pxrate a b
  | march d a b => exact Encoding.march d a b | msmp d a b => exact Encoding.msmp d a b
  | mhash d a b => exact Encoding.mhash d a b | mqry d => exact Encoding.mqry d
  | ctxnew d b => exact Encoding.ctxnew d b | ctxgrant d a b => exact Encoding.ctxgrant d a b
  | ctxrevoke d a b => exact Encoding.ctxrevoke d a b | ctxrunRun d a b => exact Encoding.ctxrunRun d a b
  | ctxstopSlice d a b => exact Encoding.ctxstopSlice d a b | ctxsave d a b => exact Encoding.ctxsave d a b
  | ctxload d a b => exact Encoding.ctxload d a b | ctxq d a b => exact Encoding.ctxq d a b
  | tret b => exact Encoding.tret b | trefl b => exact Encoding.trefl b | tclr b => exact Encoding.tclr b
  | scrub d a b => exact Encoding.scrub d a b | alog d a b => exact Encoding.alog d a b
  | keyselBind d a b => exact Encoding.keyselBind d a b | spawn d a => exact Encoding.spawn d a
  | cont d a b => exact Encoding.cont d a b | jdec a b => exact Encoding.jdec a b
  | lcancel a lvl => exact Encoding.lcancel a lvl | lstat d a lvl => exact Encoding.lstat d a lvl
  | cpostLand d a b => exact Encoding.cpostLand d a b | cpostrLandr d a b => exact Encoding.cpostrLandr d a b
  | carmFire d a b => exact Encoding.carmFire d a b | carmFree d a b => exact Encoding.carmFree d a b
  | carmSet d a b => exact Encoding.carmSet d a b | carmAdd d a b => exact Encoding.carmAdd d a b
  | ctxrunResume d a b => exact Encoding.ctxrunResume d a b | ctxrunReply d a b => exact Encoding.ctxrunReply d a b
  | ctxstopHalt d a b => exact Encoding.ctxstopHalt d a b | keyselUnbind d a b => exact Encoding.keyselUnbind d a b
  | _ => exact of_none rfl

/-- Settles O57: every instruction's round trip. -/
theorem encodeDecode : Obligations.EncodeDecode := by
  unfold Obligations.EncodeDecode
  intro i w lit hi he
  exact roundTrip i hi (w, lit) he

/-- The words of a well-formed instruction that is the first row of its word decode to it. -/
theorem decode_of_encode {i : Instr} {w lit : Word} (hi : i.wf = true) (hp : i.primary = i)
    (he : encode i = some (w, lit)) : decode w lit = .ok i := by
  rw [encodeDecode i w lit hi he, hp]

/-- Settles O60: each word is the encoding of its instruction, whose fields are legal. -/
theorem decodedWords : Obligations.DecodedWords := by
  unfold Obligations.DecodedWords
  refine ⟨?_, ?_, ?_, ?_, ?_, ?_, ?_, ?_, ?_, ?_, ?_, ?_, ?_, ?_, ?_, ?_⟩ <;>
    exact decode_of_encode (by decide) rfl rfl

end Sys2Proof.RoundTrips

/-!
# Special registers (O12, O53)

RDSR and WRSR are one `issue` each: `Opnd.ok` decides whether their fields are legal, their bodies what they do.
-/

namespace Sys2Proof.SpecialRegisters
open Sys2Proof.Machine Sys2Proof.Laws

variable {s : State} {c : Cur} {t : Tray}

/-! ### Register fields that are not legal (R30, R34) -/

theorem spr_ok (a : BitVec 7) : (Opnd.spr a).ok = decide (a.toNat < 16) := rfl
theorem spw_ok (a : BitVec 7) : (Opnd.spw a).ok = decide (a.toNat < 16) := rfl

/-- A pair that is written begins at an even register. -/
theorem sw_pair_odd {d : BitVec 7} (h : d.toNat % 2 = 1) : (Opnd.sw d 2).ok = false := by
  simp [Opnd.sw, Opnd.ok, h]

/-- A pair that is read begins at an even register. -/
theorem sr_pair_odd {k : BitVec 7} (h : k.toNat % 2 = 1) : (Opnd.sr k 2).ok = false := by
  simp [Opnd.sr, Opnd.ok, h]

/-- BATCHID, EPC and CLOCK are the registers of 64 bits (R116). -/
theorem sprRegs_wide {a : BitVec 7} (h : a = 1 ∨ a = 12 ∨ a = 15) : sprRegs a = 2 := if_pos h

theorem rdsr_opnds (d a : BitVec 7) : (Instr.rdsr d a).opnds = [Opnd.sw d (sprRegs a), Opnd.spr a] := rfl
theorem wrsr_opnds (a : BitVec 7) (b : SB) : (Instr.wrsr a b).opnds = Opnd.spw a :: b.opnds (sprRegs a) := rfl

theorem rdsr_unassigned {d a : BitVec 7} (h : 16 ≤ a.toNat) : (Instr.rdsr d a).opnds.all Opnd.ok = false := by
  have ha : ¬a.toNat < 16 := by omega
  simp [rdsr_opnds, spr_ok, ha]

theorem wrsr_unassigned {a : BitVec 7} {b : SB} (h : 16 ≤ a.toNat) : (Instr.wrsr a b).opnds.all Opnd.ok = false := by
  have ha : ¬a.toNat < 16 := by omega
  simp [wrsr_opnds, spw_ok, ha]

theorem rdsr_odd {d a : BitVec 7} (hw : a = 1 ∨ a = 12 ∨ a = 15) (h : d.toNat % 2 = 1) :
    (Instr.rdsr d a).opnds.all Opnd.ok = false := by
  simp [rdsr_opnds, sprRegs_wide hw, sw_pair_odd h]

theorem wrsr_epc_odd {k : BitVec 7} (h : k.toNat % 2 = 1) : (Instr.wrsr 12 (.sreg k)).opnds.all Opnd.ok = false := by
  have e : (Instr.wrsr 12 (.sreg k)).opnds = [Opnd.spw 12, Opnd.sr k 2] := rfl
  rw [e]
  simp [sr_pair_odd h]

/-- RDSR with a field that is not legal. -/
theorem rdsr_raises (hc : s.cur = some c) (hp : c.probe = false) (ht : s.trays.get? c.key = some t) {d a : BitVec 7}
    (hl : (Instr.rdsr d a).opnds.all Opnd.ok = false) : RaisesEarly s c (.rdsr d a) .illegal := by
  change execRdsr d a s = _
  exact issue_illegal hc hp ht hl

/-- WRSR with a field that is not legal. -/
theorem wrsr_raises (hc : s.cur = some c) (hp : c.probe = false) (ht : s.trays.get? c.key = some t) {a : BitVec 7} {b : SB}
    (hl : (Instr.wrsr a b).opnds.all Opnd.ok = false) : RaisesEarly s c (.wrsr a b) .illegal := by
  change execWrsr a b s = _
  exact issue_illegal hc hp ht hl

/-! ### What the words do (R34, R116, R117) -/

theorem rdsr_word {d a : BitVec 7} (ha : sprRegs a = 1) :
    Completes s c t (.rdsr d a) (s.wroteS c t d (lo32 ((c.src s t).special s a.toNat))) := fun h => by
  change execRdsr d a s = _
  exact issue_ok h (by simp [ha])

theorem rdsr_pair {d a : BitVec 7} (ha : sprRegs a = 2) :
    Completes s c t (.rdsr d a) (s.wroteS2 c t d ((c.src s t).special s a.toNat)) := fun h => by
  change execRdsr d a s = _
  exact issue_ok h (by simp [ha])

theorem wrsr_fpctl (b : SB) :
    Completes s c t (.wrsr 8 b) (s.completed c t { t.advance c with fpctl := ((c.src s t).sb b).setWidth 7 }) := fun h => by
  change execWrsr 8 b s = _
  exact issue_ok h rfl

theorem wrsr_fpstat (b : SB) : Completes s c t (.wrsr 9 b)
    (s.completed c t { t.advance c with fpstat := ((c.src s t).sb b).setWidth 5 ||| t.chainFl }) := fun h => by
  rw [← advance_chainFl t c]
  change execWrsr 9 b s = _
  exact issue_ok h rfl

theorem wrsr_epc (b : SB) : Completes s c t (.wrsr 12 b)
    (s.completed c t { t.advance c with epc := (c.src s t).sbz64 b &&& 0x80003FFFFFFFFFFF }) := fun h => by
  change execWrsr 12 b s = _
  exact issue_ok h rfl

/-- A register that is not writable. -/
theorem wrsr_readOnly {a : BitVec 7} {b : SB} (h8 : a ≠ 8) (h9 : a ≠ 9) (h12 : a ≠ 12)
    (h : Issuing s c t (Instr.wrsr a b).opnds) : RaisesEarly s c (.wrsr a b) .illegal := by
  change execWrsr a b s = _
  refine issue_early h ?_
  split
  case h_1 e => exact absurd (BitVec.eq_of_toNat_eq e) h8
  case h_2 e => exact absurd (BitVec.eq_of_toNat_eq e) h9
  case h_3 e => exact absurd (BitVec.eq_of_toNat_eq e) h12
  case h_4 => rfl

/-- A window base is legal with one path slot, as a multiple of 32 below 1,024. -/
theorem vwin_ok {b : SB} (h : Issuing s c t (Instr.vwin b).opnds) (h1 : (c.src s t).t.p1 = none)
    (hm : ((c.src s t).sb b).toNat % 32 = 0) (hl : ((c.src s t).sb b).toNat < 1024) :
    exec (.vwin b) s = .next (s.completed c t { t.advance c with vwin := ((c.src s t).sb b).toNat }) := by
  change execVwin b s = _
  exact issue_ok h (by simp [h1, hm, hl])

theorem vwin_illegal {b : SB} (h : Issuing s c t (Instr.vwin b).opnds)
    (hn : ¬((c.src s t).t.p1 = none ∧ ((c.src s t).sb b).toNat % 32 = 0 ∧ ((c.src s t).sb b).toNat < 1024)) :
    RaisesEarly s c (.vwin b) .illegal := by
  change execVwin b s = _
  refine issue_early h (if_pos ?_)
  simp only [Bool.or_eq_true, Option.isSome_iff_ne_none, bne_iff_ne, decide_eq_true_eq, or_assoc]
  by_contra hc
  simp only [not_or, not_not, not_le] at hc
  exact hn hc

/-! ### The obligations -/

/-- Settles O12: the values that RDSR finds are Table 2.3's by definition, and each word does what its body says. -/
theorem specialRegisterResults : Obligations.SpecialRegisterResults := by
  unfold Obligations.SpecialRegisterResults
  intro s c t
  refine ⟨fun d a ha => rdsr_word ha, fun d a ha => rdsr_pair ha, ?_, wrsr_fpctl, wrsr_fpstat, wrsr_epc, ?_⟩
  · refine ⟨rfl, rfl, rfl, rfl, rfl, rfl, rfl, rfl, rfl, rfl, ?_, rfl, rfl, rfl, rfl, rfl⟩
    exact BitVec.setWidth_setWidth_of_le _ (by decide)
  · intro b h
    split
    case isTrue hv =>
      obtain ⟨h1, hm, hl⟩ := hv
      exact vwin_ok h h1 hm hl
    case isFalse hn => exact vwin_illegal h hn

/-- Settles O53: a number past the table and an odd pair are operands that are not legal; of the legal ones the body of
WRSR writes three. -/
theorem specialRegisterNumbers : Obligations.SpecialRegisterNumbers := by
  unfold Obligations.SpecialRegisterNumbers
  intro s c t hc hp ht
  refine ⟨fun d a h => ?_, fun a b h => ?_, fun a b _ h8 h9 h12 h => ?_, fun d a hw h => ?_, fun k h => ?_⟩
  · exact rdsr_raises hc hp ht (rdsr_unassigned h)
  · exact wrsr_raises hc hp ht (wrsr_unassigned h)
  · exact wrsr_readOnly h8 h9 h12 h
  · exact rdsr_raises hc hp ht (rdsr_odd hw h)
  · exact wrsr_raises hc hp ht (wrsr_epc_odd h)

end Sys2Proof.SpecialRegisters

/-!
# A step runs the decoded instruction (O56)

From the step inwards: what the schedule or the inbox names, the path that issues, the group at its PC, the word alone in
it. Each function on the way has one lemma for the case in which it goes on.
-/

namespace Sys2Proof.StepWord
open Sys2Proof.Machine Sys2Proof.Laws

/-! ### The word -/

/-- An instruction of major 0x34 or 0x35 runs as the constructor of `Instr` it is. -/
theorem runHigh_eq_exec (l : HighOp) (s : State) : runHigh l s = exec l.instr s := by
  cases l <;> rfl

/-- A word that decodes runs as its instruction. -/
theorem runWord_of_decode {x : GWord} {i : Instr} (h : decode x.w x.lit = .ok i) (s : State) : runWord x s = exec i s := by
  unfold decode at h
  unfold runWord
  split at h
  case h_1 y hy =>
    obtain rfl : y.instr = i := Except.ok.inj h
    cases y with
    | core i => rw [hy]; rfl
    | high l => rw [hy]; exact runHigh_eq_exec l s
  case h_2 => cases h

/-! ### The path that issues is a candidate anew -/

/-- The tray whose path is a candidate anew (R79). -/
def anew (t : Tray) (path : Nat) : Tray := t.setPath path { t.path path with since := none }

section
variable (t : Tray) (path : Nat)

@[simp] theorem anew_path : (anew t path).path path = { t.path path with since := none } := setPath_path_same ..
@[simp] theorem anew_ctx : (anew t path).ctx = t.ctx := setPath_ctx ..
@[simp] theorem anew_live : (anew t path).live = t.live := setPath_live ..
@[simp] theorem anew_watch : (anew t path).watch = t.watch := setPath_watch ..
@[simp] theorem anew_entryWord : (anew t path).entryWord = t.entryWord := setPath_entryWord ..
@[simp] theorem anew_mustTake : (anew t path).mustTake = t.mustTake := by simp [Tray.mustTake, anew]

@[simp] theorem anew_mayIssue : (anew t path).mayIssue path = t.mayIssue path := by
  have hp : (anew t path).p1.isSome = t.p1.isSome := by
    rw [← Option.not_isNone, ← Option.not_isNone, anew, setPath_p1_isNone]
  rw [Tray.mayIssue, anew_path, hp]
  simp [Tray.mayIssue, anew]

@[simp] theorem pipeHeld_anew (s : State) (key : Nat) (g : Group) :
    s.pipeHeld key (anew t path) g = s.pipeHeld key t g := by
  simp [State.pipeHeld, State.memHeld, anew]

end

/-! ### From the step to the word -/

section
variable {s : State} {key path : Nat} {t : Tray} {p : Path} {k : Word × Word × Word} {x : GWord} {after : Pc}

/-- A group of one word that its pipe takes runs that word. -/
theorem issueGroup_word (hs : p.single = false) (hg : mkGroup k p.pc false = ⟨[x], after, false⟩)
    (hh : s.pipeHeld key t ⟨[x], after, false⟩ = false) :
    s.issueGroup key path t p k = s.runAt (Cur.at key path x.pc after) x := by
  simp [State.issueGroup, hs, hg, hh]

/-- A packet that is fetched, at a word that is no entry word or is one that may be a target, issues its group. -/
theorem issueAt_group (hk : s.packet (key / 32) t.ctx p.pc = .ok k)
    (he : p.entry = false ∧ t.entryWord ≠ some p.pc ∨
      (s.packetFill (key / 32) t.ctx p.pc).targetOk (key / 32) t.ctx p.pc = true) :
    s.issueAt key path t p = (s.packetFill (key / 32) t.ctx p.pc).issueGroup key path t p k := by
  have hc : ((p.entry || t.entryWord == some p.pc) &&
      !(s.packetFill (key / 32) t.ctx p.pc).targetOk (key / 32) t.ctx p.pc) = false := by
    rcases he with ⟨h1, h2⟩ | h
    · simp [h1, h2]
    · simp [h]
  simp [State.issueAt, hk, hc]

/-- A path that may issue, its tray with no cause to take, does. -/
theorem issuePath_issueAt (ht : s.trays.get? key = some t) (hm : t.mustTake = false) (hi : t.mayIssue path = true)
    (hl : t.live ≠ 0) (hw : t.watch = false) : s.issuePath key path = s.issueAt key path t (t.path path) := by
  simp only [State.issuePath, ht, hm, hi, if_neg hl, hw, Bool.not_true, Bool.false_eq_true, if_false]

/-- The path that the schedule names issues where nothing waits from outside. -/
theorem advance_sched {rest : List Nat} (hp : s.posts = []) (hi : s.inbox = []) (hs : s.sched = (2 * key + path) :: rest)
    (hb : path < 2) : s.advance = State.issueNext { s with sched := rest } key path := by
  have h1 : (2 * key + path) / 2 = key := by omega
  have h2 : (2 * key + path) % 2 = path := by omega
  simp [State.advance, hp, hi, hs, h1, h2]

/-- An event from outside happens where no write waits. -/
theorem advance_inbox {e : Instr} {rest : List Instr} (hp : s.posts = []) (hi : s.inbox = e :: rest) :
    s.advance = State.takeEvent { s with inbox := rest } e := by
  simp [State.advance, hp, hi]

/-- An event that comes to a next state leaves the package there. -/
theorem takeEvent_next {e : Instr} {s1 : State} (he : exec e s = .next s1) : s.takeEvent e = .next s1 := by
  rw [State.takeEvent, he]

end

/-! ### The obligation -/

/-- Settles O56: the step goes through `advance`, `issuePath`, `issueAt` and `issueGroup` to the word, or to the event. -/
theorem stepRunsTheWord : Obligations.StepRunsTheWord := by
  unfold Obligations.StepRunsTheWord
  refine fun s => ⟨?_, ?_⟩
  · intro key path rest t k x after i hp hi hs hb ht hm hc hl hw hsg pc s1 s2 hk he hg hh hd
    have ht1 : s1.trays.get? key = some (anew t path) := by
      change KMap.get? (KMap.upd s.trays key _) key = _
      rw [get_upd, if_pos rfl, ht]
      rfl
    have hstep : s.tick.advance = s2.runAt (Cur.at key path x.pc after) x :=
      calc s.tick.advance
        _ = s1.issuePath key path := advance_sched (s := s.tick) hp hi hs hb
        _ = s1.issueAt key path (anew t path) ((anew t path).path path) :=
            issuePath_issueAt ht1 (by simpa) (by simpa) (by simpa) (by simpa)
        _ = s2.issueGroup key path (anew t path) ((anew t path).path path) k := by
            rw [issueAt_group (k := k) (by simpa using hk) (by simpa using he)]
            simp [s2, pc]
        _ = s2.runAt (Cur.at key path x.pc after) x :=
            issueGroup_word (by simpa) (by simpa using hg) (by simpa)
    rw [step, hstep, State.runAt, runWord_of_decode hd]
  · intro e rest s1 hp hi he
    rw [step, advance_inbox (s := s.tick) hp hi, takeEvent_next he]
    rfl

end Sys2Proof.StepWord

/-!
# The scoreboard may come before a misaligned register field (O54)

`engineLate` hands `issue` the operands that are no window registers: they are checked and waited for first, and a window
register out of place is found by the body after that. So GEMIT with an odd pair of window registers waits for a scalar
register of its descriptor where the statement has it trap. (`step` runs no such word: `decode` refuses it.)
-/

namespace Sys2Proof.IssueOrder
open Sys2Proof.Machine Sys2Proof.Laws

/-- A word that checks its window registers itself waits for its other registers, whatever its window registers are. -/
theorem engineLate_waits {s : State} {c : Cur} {t : Tray} {ops : List Opnd} {body : Src → Tray → State → Res}
    (hc : s.cur = some c) (hp : c.probe = false) (ht : s.trays.get? c.key = some t)
    (hf : s.replayFull (c.key / 32) = false) (hl : (ops.filter fun o => o.file != .v).all Opnd.ok = true)
    (hs : scoreboard (c.snap.getD t) c.path (ops.filter fun o => o.file != .v) = true) :
    engineLate ops s body = .next s := by
  rw [engineLate, engine_eq hc hf]
  exact issue_waits hc hp ht hl hs

/-- GEMIT of the registers v(1) and v(2), a pair that begins at an odd register. -/
def oddGemit : Instr := .gemit 1 8 (.sreg 8)

/-- The tray of a loaded program, a result of HQRY still to land in s8 to s11. -/
def waitingTray : Tray :=
  { loadTray with
    pend := [⟨0, .result, 0, [8, 9, 10, 11], [], none, some .loads, [], 0, 0, [], 0, []⟩], nextPend := 1, loads := 1 }

/-- Its word at address 0, alone in its group. -/
def waitingCur : Cur := Cur.at 0 0 0 1

/-- The package with that tray, the word oddGemit issuing. -/
def waitingState : State :=
  { State.reset.withFetchWord 32 0x62044040 with cur := some waitingCur, trays := [(0, waitingTray)] }

theorem oddGemit_encode : encode oddGemit = some (0x62044040, 0) := rfl

theorem oddGemit_illegal : oddGemit.opnds.all Opnd.ok = false := by decide

/-- The word waits: nothing changes. -/
theorem oddGemit_waits : exec oddGemit waitingState = .next waitingState := by
  change execGemit 1 8 (.sreg 8) waitingState = _
  unfold execGemit frontOp
  exact engineLate_waits (c := waitingCur) (t := waitingTray) rfl rfl rfl rfl (by decide) (by decide)

/-- A trap would have set a cause in the tray. -/
theorem raise_ne_waitingState : waitingState.raise 0 0 [.illegal] 0 false none ≠ waitingState := by
  intro h
  have hc : ((waitingState.raise 0 0 [.illegal] 0 false none).trays.get? 0).map (·.cause) = some 1#64 := rfl
  rw [h] at hc
  exact absurd hc (by decide)

/-- Refutes O54: GEMIT of the window registers from v(1), a misaligned pair, waits for a result that is still to land in a
scalar register of its descriptor, where the statement has it raise ILLEGAL. -/
theorem not_issueChecks : ¬ Obligations.IssueChecks := by
  unfold Obligations.IssueChecks
  intro h
  have hr : RaisesEarly waitingState waitingCur oddGemit .illegal :=
    (h waitingState waitingCur waitingTray oddGemit _ oddGemit_encode rfl rfl rfl).1 rfl oddGemit_illegal
  have he := oddGemit_waits.symm.trans hr
  exact raise_ne_waitingState (Host.Outcome.next.inj he).symm

end Sys2Proof.IssueOrder

/-!
# Instructions of the launch engine (O44)

Sending is what each word's own checks come to. A command of the launch engine is performed as it is accepted, so each
`Performs` is `performs_cmd` with one equation about what the engine does with the command (R82–R87).
-/

namespace Sys2Proof.LaunchCommands
open Sys2Proof.Machine Sys2Proof.Laws Sys2Proof.EngineCommands

/-! ### Sending (R82–R87) -/

section
variable {s : State} {c : Cur} {t : Tray}

/-- SPAWN is sent with each active thread's record address. -/
theorem spawn_sends {d a : BitVec 7} (h : EngineIssuing s c t (.spawn d a)) (hf : (c.src s t).t.ctrFull .loads = false) :
    let r := c.src s t
    exec (.spawn d a) s = .next (s.asked c t r 9 (c.key / 32 / 256) [] [r.t.vwin + d.toNat]
      (.spawn (r.t.vwin + d.toNat) (s.slotOf (t.advance c)) ((maskThreads r.m0).map fun th => (th, (r.v2 a th).toNat)))) := by
  change execSpawn d a s = _
  exact engine_ok h (if_neg (by simp [hf]))

/-- CONT is sent with its code and frame words. -/
theorem cont_sends {d a : BitVec 7} {b : SB} (h : EngineIssuing s c t (.cont d a b))
    (hf : (c.src s t).t.ctrFull .loads = false) :
    let r := c.src s t
    exec (.cont d a b) s = .next (s.asked c t r 9 (c.key / 32 / 256) [d.toNat] []
      (.cont d.toNat (s.slotOf (t.advance c)) (r.s2 a) (r.sbz64 b))) := by
  change execCont d a b s = _
  exact engine_ok h (if_neg (by simp [hf]))

/-- JDEC is sent with each active thread's handle and amount. -/
theorem jdec_sends {a : BitVec 7} {b : VB} (h : EngineIssuing s c t (.jdec a b)) :
    let r := c.src s t
    exec (.jdec a b) s = .next (s.ordered c t (t.advance c) r 9 (c.key / 32 / 256) (.jdec (s.slotOf (t.advance c))
      ((maskThreads r.m0).map fun th => ((r.v a th).toNat, min (r.vb th b).toNat 65535)))) := by
  change execJdec a b s = _
  exact engine_ok h rfl

/-- LCANCEL of a legal level is sent with the identifier it names. -/
theorem lcancel_sends {a : BitVec 7} {lvl : BitVec 8} (h : EngineIssuing s c t (.lcancel a lvl)) (hl : lvlOk a lvl = true) :
    let r := c.src s t
    exec (.lcancel a lvl) s = .next (s.ordered c t (t.advance c) r 9 (c.key / 32 / 256)
      (.lcancel (s.slotOf (t.advance c)) lvl.toNat (r.s a))) := by
  change execLcancel a lvl s = _
  exact engine_ok h (if_neg (by simp [hl]))

/-- LCANCEL of another level is illegal. -/
theorem lcancel_illegal {a : BitVec 7} {lvl : BitVec 8} (h : EngineIssuing s c t (.lcancel a lvl))
    (hl : lvlOk a lvl = false) : RaisesEarly s c (.lcancel a lvl) .illegal := by
  change execLcancel a lvl s = _
  exact engine_early h (if_pos (by simp [hl]))

/-- LSTAT of a legal level is sent with the identifier it names. -/
theorem lstat_sends {d a : BitVec 7} {lvl : BitVec 8} (h : EngineIssuing s c t (.lstat d a lvl)) (hl : lvlOk a lvl = true)
    (hf : (c.src s t).t.ctrFull .loads = false) :
    let r := c.src s t
    exec (.lstat d a lvl) s = .next (s.asked c t r 9 (c.key / 32 / 256) [d.toNat, d.toNat + 1] []
      (.lstat d.toNat (s.slotOf (t.advance c)) lvl.toNat (if lvl = 4 then 0 else r.s a))) := by
  change execLstat d a lvl s = _
  exact engine_ok h ((if_neg (by simp [hl])).trans (if_neg (by simp [hf])))

/-- LSTAT of another level is illegal. -/
theorem lstat_illegal {d a : BitVec 7} {lvl : BitVec 8} (h : EngineIssuing s c t (.lstat d a lvl))
    (hl : lvlOk a lvl = false) : RaisesEarly s c (.lstat d a lvl) .illegal := by
  change execLstat d a lvl s = _
  exact engine_early h (if_pos (by simp [hl]))

end

/-! ### Performing in one piece (R10, R15) -/

section
variable {s : State} {o : Op}

/-- A command that its engine performs in one piece is gone from the operations when that engine performs it. -/
theorem acceptOp_cmd {k : Cmd} (hk : o.body = .cmd k) : s.acceptOp o = (s.dropOp o.id).cmdGo { o with phase := 1 } k := by
  have hd : State.dropOp { s with ops := (s.ops.filter fun x => x.id != o.id) ++ [{ o with phase := 1 }] } o.id =
      s.dropOp o.id := by
    simp [State.dropOp]
  unfold State.acceptOp
  dsimp only
  rw [hd, hk]

/-- The acceptance of a command of the launch engine leaves what its performing leaves. -/
theorem performs_cmd {k : Cmd} {s' : State} (hk : o.body = .cmd k)
    (h : (s.dropOp o.id).cmdGo { o with phase := 1 } k = s') : Performs s o s' := by
  intro ho hq
  rw [commandAccept_room ho hq, acceptOp_cmd hk, h]

end

/-! ### CONT (R84) -/

section
variable {s : State} {c batch slot w fp : Nat}

/-- A batch whose launch has no table entry has none to count a continuation in. -/
theorem contGo_noLaunch (h : s.launches.get? slot = none) : s.contGo c batch slot w fp = (.ok 0xFFF00009, s) := by
  simp only [State.contGo, h]

/-- The 32 bytes of the record that a batch's CONT writes. -/
def contRecord (bt : Batch) (slot w fp : Nat) : List Byte :=
  recordBytes 1 (w / 2 ^ 48) (w % 2 ^ 48) (fp % 2 ^ 48) bt.prio bt.dual.toNat (bt.trays - 1) (bt.regs / 16 - 1) slot
    bt.batchId

/-- The record that CONT puts at a pool index. -/
def newCont (s : State) (c slot i : Nat) : Cont := ⟨smGet (s.ctx c).contGen i, slot, false, false⟩

/-- The record stands in the pool and its launch counts it. -/
def contCounted (s1 : State) (c slot i : Nat) (k : Cont) : State :=
  (s1.onCtx c fun y => { y with conts := y.conts.put i k }).onLaunch slot fun l => { l with count := l.count + 1 }

/-- A continuation of a running launch, its record written, answers with its handle; with no join to wait for it is
ready at once. -/
theorem contGo_written {l : Launch} {bt : Batch} {i : Nat} {s1 : State} (hl : s.launches.get? slot = some l)
    (hb : s.batches.get? batch = some bt)
    (hi : (s.ctx c).conts.firstFree (min (s.ctx c).pooln.toNat (2 ^ 20)) = some i) (ha : w % 2 ^ 48 % 4 = 0)
    (hc : l.cancelled = false) (hp : s.upPut c ((s.ctx c).contAddr i) (contRecord bt slot w fp) = (s1, none)) :
    let k := newCont s c slot i
    let s2 := contCounted s1 c slot i k
    s.contGo c batch slot w fp =
      (.ok (k.gen.toNat * 2 ^ 20 + i), if w / 2 ^ 48 = 0 then s2.contReady c i k else s2) := by
  unfold contRecord at hp
  simp only [State.contGo, hl, hb, hi, ha, hc, hp, ne_eq, not_true_eq_false, Bool.false_eq_true, if_false]
  rfl

/-- A continuation that has a value to answer with answers at once. -/
theorem launchGo_cont_ok {s : State} {o : Op} {d slot v : Nat} {w fp : DWord} {s1 : State}
    (h : s.contGo o.tag.ctx o.batch slot w.toNat fp.toNat = (.ok v, s1)) :
    s.launchGo o (.cont d slot w fp) = s1.opAnswer o [.s d (BitVec.ofNat 32 v)] := by
  simp only [State.launchGo, h]

end

/-! ### JDEC (R85) -/

section
variable {o : Op} {slot : Nat}

/-- One decrement of a JDEC, where none before it waits. -/
def jdecStep (o : Op) (slot : Nat) (acc : State × Option XFault) (x : Nat × Nat) : State × Option XFault :=
  if acc.2.isSome then acc else acc.1.joinDec o.tag.ctx slot x.1 x.2

/-- Behind a decrement that waits nothing happens. -/
theorem jdecStep_fold_waits (s : State) (f : XFault) (l : List (Nat × Nat)) :
    l.foldl (jdecStep o slot) (s, some f) = (s, some f) :=
  List.foldl_fixed' (fun _ => rfl) l

/-- Decrements of which none waits happen one after the other. -/
theorem jdecGo_eq_fold {l : List (Nat × Nat)} {s s1 : State} (h : l.foldl (jdecStep o slot) (s, none) = (s1, none)) :
    s.jdecGo o slot l = s1 := by
  induction l generalizing s with
  | nil => exact congrArg Prod.fst h
  | cons x r ih =>
    rw [List.foldl_cons, show jdecStep o slot (s, none) x = s.joinDec o.tag.ctx slot x.1 x.2 from rfl] at h
    rw [State.jdecGo]
    cases hj : s.joinDec o.tag.ctx slot x.1 x.2 with
    | mk s' f =>
      rw [hj] at h
      cases f with
      | none => exact ih h
      | some f =>
        rw [jdecStep_fold_waits] at h
        cases h

end

/-! ### LCANCEL (R86) -/

section
variable {s : State} {c slot : Nat} {id : Word}

/-- Level 0 cancels the launch of a handle. -/
theorem lcancelGo_handle {k : Nat} {l : Launch} (h : s.byHandle c id = some (k, l)) :
    s.lcancelGo c slot 0 id = s.cancelAll [k] := by
  simp only [State.lcancelGo, h]

/-- A handle that names no launch cancels nothing. -/
theorem lcancelGo_noHandle (h : s.byHandle c id = none) : s.lcancelGo c slot 0 id = s := by
  simp only [State.lcancelGo, h]

/-- A graph, phase or job that does not exist cancels nothing. -/
theorem lcancelGo_noLevel {lvl : Nat} (h0 : lvl ≠ 0) (h4 : lvl ≠ 4)
    (h : id = 0 ∨ s.hierOf c lvl id.toNat = none) : s.lcancelGo c slot lvl id = s := by
  unfold State.lcancelGo
  split
  · exact absurd rfl h0
  · exact absurd rfl h4
  · exact if_pos (by simpa using h)

end

/-! ### LSTAT (R75, R87) -/

/-- LSTAT of a tray that is there answers with the two words, and where they say that the work is complete it is an
acquire first. -/
theorem lstatGo_answers {s : State} {o : Op} {d slot lvl : Nat} {id : Word} {t : Tray}
    (ht : s.trayOf o.batch o.tray = some t) :
    let q := s.lstat o.tag.ctx slot lvl id
    let s1 := if q.2 % 4 = 1 ∨ (q.2 % 4 = 2 ∧ q.1 = 0) then s.acquire o.tag.core t 4 else s
    s.lstatGo o d slot lvl id = s1.opAnswer o [.s d (BitVec.ofNat 32 q.1), .s (d + 1) (BitVec.ofNat 32 q.2)] := by
  simp only [State.lstatGo, ht]

/-! ### The obligation -/

/-- Settles O44: sending goes by the word's own checks, and acceptance performs the command at once. -/
theorem launchResults : Obligations.LaunchResults := by
  unfold Obligations.LaunchResults
  intro s c t
  refine ⟨fun d a => spawn_sends, fun d a b => cont_sends, fun a b => jdec_sends,
    fun a lvl h => ⟨lcancel_sends h, lcancel_illegal h⟩, fun d a lvl h => ⟨lstat_sends h, lstat_illegal h⟩,
    ?spawn, ?cont, ?jdec, ?lcancel, ?lstat⟩
  case spawn => exact fun o p slot l hk => performs_cmd hk rfl
  case cont =>
    refine fun o d slot w fp hk => ⟨fun hl => performs_cmd hk (launchGo_cont_ok (contGo_noLaunch hl)), ?_⟩
    exact fun l bt i s1 hl hb hi ha hc hp => performs_cmd hk (launchGo_cont_ok (contGo_written hl hb hi ha hc hp))
  case jdec => exact fun o slot l s1 hk h => performs_cmd hk (jdecGo_eq_fold h)
  case lcancel =>
    refine fun o slot lvl id hk => ⟨?_, ?_, ?_, fun h0 h4 h => performs_cmd hk (lcancelGo_noLevel h0 h4 h)⟩
    · rintro rfl k l h
      exact performs_cmd hk (lcancelGo_handle (slot := slot) h)
    · rintro rfl h
      exact performs_cmd hk (lcancelGo_noHandle (slot := slot) h)
    · rintro rfl
      exact performs_cmd hk rfl
  case lstat => exact fun o d slot lvl id t hk ht => performs_cmd hk (lstatGo_answers (s := s.dropOp o.id) ht)

end Sys2Proof.LaunchCommands

/-!
# Queues, freed slots and levels, expansion (O45)

Each event has one lemma for the case in which it acts.
-/

namespace Sys2Proof.LaunchEvents
open Sys2Proof.Machine Sys2Proof.Laws

/-! ### Queues (R66, R67) -/

section
variable {s : State} {q : Nat}

/-- The control block that was just changed. -/
@[simp] theorem onQcb_qcb (f : Qcb → Qcb) : (s.onQcb q f).qcb q = f (s.qcb q) := by
  simp [State.onQcb, State.qcb]

/-- An enabled queue without an error, of a context that takes records, with legal slots and none but records of its own
to read, drains when it is examined. -/
theorem kick_drains {c : Nat} (he : (s.qcb q).en = true) (hq : (s.qcb q).qstate ≠ 2) (hw : (s.qcb q).waiting = false)
    (ho : s.queueOwner q = some c) (hc : (s.ctx c).st = .running) (h4 : 4 ≤ (s.qcb q).slotlog.toNat)
    (h16 : (s.qcb q).slotlog.toNat ≤ 16) (hb : (s.qcb q).base.toNat % 256 = 0)
    (hn : ((s.qcb q).widx - (s.qcb q).ridx).toNat ≤ 2 ^ (s.qcb q).slotlog.toNat) (hf : s.qwait.contains q = false) :
    s.kick q = s.drainQueue c q (2 ^ (s.qcb q).slotlog.toNat + 1) := by
  have hheld : s.queueHeld q = false := by simp [State.queueHeld, ho, hc]
  have hslots : ¬((s.qcb q).slotlog.toNat < 4 ∨ 16 < (s.qcb q).slotlog.toNat ∨ (s.qcb q).base.toNat % 256 ≠ 0) := by omega
  have hroom : ¬2 ^ (s.qcb q).slotlog.toNat < ((s.qcb q).widx - (s.qcb q).ridx).toNat := Nat.not_lt.2 hn
  unfold State.kick
  dsimp only
  rw [if_neg (by simpa [he, hw] using hq), ho]
  dsimp only
  rw [if_neg (by simp [hheld]), if_neg hslots, if_neg hroom, if_neg (by simp only [hf, Bool.false_eq_true, not_false_eq_true])]

/-- A kick of such a queue drains it: it waits for a record no more. -/
theorem queueKick_drains {c : Nat} (h : q < 1024) (he : (s.qcb q).en = true) (hq : (s.qcb q).qstate ≠ 2)
    (ho : s.queueOwner q = some c) (hc : (s.ctx c).st = .running) (h4 : 4 ≤ (s.qcb q).slotlog.toNat)
    (h16 : (s.qcb q).slotlog.toNat ≤ 16) (hb : (s.qcb q).base.toNat % 256 = 0)
    (hn : ((s.qcb q).widx - (s.qcb q).ridx).toNat ≤ 2 ^ (s.qcb q).slotlog.toNat) (hf : s.qwait.contains q = false) :
    exec (.queueKick q) s =
      .next ((s.onQcb q fun b => { b with waiting := false }).drainQueue c q (2 ^ (s.qcb q).slotlog.toNat + 1)) := by
  change execQueueKick q s = _
  have hk := kick_drains (s := s.onQcb q fun b => { b with waiting := false }) (q := q) (c := c)
  rw [onQcb_qcb] at hk
  rw [execQueueKick, if_pos h, State.doorbell, hk he hq rfl ho hc h4 h16 hb hn hf]

/-- Enabling a disabled queue (R66). -/
theorem queueEnable_disabled (h : q < 1024) (he : (s.qcb q).en = false) :
    exec (.queueEnable q) s = .next { (s.onQcb q fun b =>
      { b with en := true, ridx := b.widx, qstate := 1, err := 0, waiting := false }) with
        qwait := s.qwait.filter (· != q) } := by
  change execQueueEnable q s = _
  rw [execQueueEnable, if_pos h, State.enableQueue, if_neg (by simp [he])]

/-- Disabling a queue (R66). -/
theorem queueDisable_in_range (h : q < 1024) :
    exec (.queueDisable q) s = .next (s.onQcb q fun b =>
      { b with en := false, qstate := if b.qstate = 3 then 3 else 0 }) := by
  change execQueueDisable q s = _
  rw [execQueueDisable, if_pos h, State.disableQueue]

end

/-! ### Slots and levels that are freed (R70, R74) -/

section
variable {s : State}

/-- The continuation records of a launch. -/
def recordsOf (s : State) (c slot : Nat) : List Nat := ((s.ctx c).conts.filter fun e => e.2.lslot == slot).map (·.1)

/-- The package when a launch's slot is free: the slot's generation is the next, the launch's records are free. -/
def slotFreed (s : State) (slot : Nat) (l : Launch) : State :=
  State.onCtx { s with
    launches := s.launches.del slot
    launchGen := smSet s.launchGen slot (nextLaunchGen (smGet s.launchGen slot)) } l.ctx
    fun t => (recordsOf s l.ctx slot).foldl (fun t i => t.freeCont i) t

/-- The slot of a completed launch is freed; where no queue waits for one, that is all. -/
theorem launchSlotFree_complete {slot : Nat} {l : Launch} (hl : s.launches.get? slot = some l) (hc : l.complete = true)
    (hq : s.qwait = []) : exec (.launchSlotFree slot) s = .next (slotFreed s slot l) := by
  change execLaunchSlotFree slot s = _
  simp only [execLaunchSlotFree, hl, hc, Bool.not_true, Bool.false_eq_true, if_false]
  change Host.Outcome.next ((slotFreed s slot l).serveQueues (slotFreed s slot l).qwait.length) = _
  rw [show (slotFreed s slot l).qwait = [] from hq]
  rfl

/-- The entries of the hierarchy that stay. -/
theorem mem_hierarchyEntryFree {ctx level id : Nat} {e : HEntry} :
    (e ∈ s.hier.filter fun e => !(e.ctx == ctx && e.level == level && e.ident == id && e.complete)) ↔
      e ∈ s.hier ∧ ¬(e.ctx = ctx ∧ e.level = level ∧ e.ident = id ∧ e.complete = true) := by
  rw [List.mem_filter, Bool.not_eq_true', ← Bool.not_eq_true]
  simp only [Bool.and_eq_true, beq_iff_eq, and_assoc]

end

/-! ### Expansion (R76) -/

/-- A running launch that may go to the die and has room for its next cluster expands it. -/
theorem launchExpand_room {s : State} {die slot : Nat} {l : Launch} (hl : s.launches.get? slot = some l) (hd : die < 4)
    (hu : s.dies.getLsbD die = true) (hf : (s.diesFor l.ctx l.qpos).contains die = true) (hc : l.cancelled = false)
    (hw : l.window = none) (hr : (s.ctx l.ctx).st = .running) (he : l.expanded < l.nbatch)
    (hroom : l.coop = true ∨ s.unplacedOf slot = 0 ∨ s.unplacedOf slot + (l.clsc + 1) ≤ 64) :
    exec (.launchExpand die slot) s = .next ((s.addCluster l slot (BitVec.ofNat 32 (l.expanded / (l.clsc + 1)))
      (l.clsc + 1) fun k i => l.batch slot k (BitVec.ofNat 64 (l.expanded + i)) none l.code 0).onLaunch slot fun y =>
        { y with expanded := y.expanded + (l.clsc + 1) }) := by
  have hgo : (4 ≤ die || !s.dies.getLsbD die || !(s.diesFor l.ctx l.qpos).contains die || l.cancelled ||
      l.window.isSome || (s.ctx l.ctx).st != .running || l.nbatch ≤ l.expanded ||
      !(l.coop || s.unplacedOf slot == 0 || s.unplacedOf slot + (l.clsc + 1) ≤ 64)) = false := by
    simp only [hu, hf, hc, hw, hr, Bool.or_eq_false_iff, decide_eq_false_iff_not, Bool.not_eq_false', Bool.or_eq_true,
      decide_eq_true_eq, beq_iff_eq, bne_self_eq_false, Option.isSome_none, Bool.not_true, and_true, not_le, or_assoc]
    exact ⟨⟨hd, he⟩, hroom⟩
  change execLaunchExpand die slot s = _
  simp only [execLaunchExpand, hl]
  exact congrArg _ (if_neg (Bool.eq_false_iff.1 hgo))

/-! ### The obligation -/

/-- Settles O45: each event by the case of its definition that the conditions select. -/
theorem launchEventResults : Obligations.LaunchEventResults := by
  unfold Obligations.LaunchEventResults
  intro s
  refine ⟨fun q c => queueKick_drains, fun q => queueEnable_disabled, fun q => queueDisable_in_range, ?slot, ?level,
    fun die slot l => launchExpand_room, fun w => rfl⟩
  case slot => exact fun slot l hl hc hq =>
    ⟨slotFreed s slot l, launchSlotFree_complete hl hc hq, get_del_same .., smGet_smSet_same .., rfl⟩
  case level => exact fun ctx level id => ⟨_, rfl, rfl, rfl, fun e => mem_hierarchyEntryFree⟩

end Sys2Proof.LaunchEvents

/-!
# Placing, starting, saving and ending batches (O46)

Each event has one lemma for the case in which it acts; the operations that stop with a cancelled tray have a name.
-/

namespace Sys2Proof.BatchEvents
open Sys2Proof.Machine Sys2Proof.Laws

section
variable {s : State}

/-! ### Placing (R76–R78) -/

/-- A grant less of a priority in a slice's rotation. -/
def grantUsed (s : State) (die p : Nat) : State :=
  { s with credits := s.credits.put die ((s.creditsOf die).set p ((s.creditsOf die).getD p 0 - 1)) }

/-- The record of the priority that the rotation picks is placed; then the die makes room. -/
theorem batchPlace_picked {die p : Nat} {l : List (Nat × Plan)}
    (hp : ([0, 1, 2, 3].filter fun p => (s.placeable die p).isSome).find? (fun p => 0 < (s.creditsOf die).getD p 0) = some p)
    (hl : s.placeable die p = some l) :
    exec (.batchPlace die) s =
      .next (State.makeRooms (l.foldl (fun s x => s.placeCluster x.1 x.2) (grantUsed s die p)) die) := by
  change execBatchPlace die s = _
  simp only [execBatchPlace, hp, hl]
  rfl

/-! ### Start and end (R69, R73, R139) -/

/-- The trays of a placed batch start, with an acquire, once its inputs have landed. -/
theorem batchStart_first {k core : Nat} {b : Batch} (hb : s.batches.get? k = some b) (hc : b.core = some core)
    (hl : b.loading = false) (hs : b.started = false) (hi : b.inputs = 0) (hp : b.pixel = false) (hn : b.cont = none) :
    exec (.batchStart k) s = .next ((s.startTrays k b core).batchAcquire core) := by
  have hgo : ¬(b.started || b.inputs != 0 || b.pixel) = true := by simp [hs, hi, hp]
  change execBatchStart k s = _
  simp only [execBatchStart, hb, hc, hl, Bool.false_eq_true, if_false]
  rw [if_neg hgo, hn]

/-- An ended tray with no result still to land gives back its slot. -/
theorem trayResourceReturn_ended {key : Nat} {t : Tray} (ht : s.trays.get? key = some t) (he : t.wait = .ended)
    (hr : (t.pend.all fun p => p.kind == .op && p.sdst.isEmpty && p.vdst.isEmpty) = true) :
    exec (.trayResourceReturn key) s =
      .next ((({ s with trays := s.trays.del key }).batchLeaves t.batch).settleCtxs) := by
  change execTrayResourceReturn key s = _
  simp only [execTrayResourceReturn, ht]
  rw [if_pos ⟨he, hr⟩]

/-- A started batch without trays, images or operations ends. -/
theorem batchComplete_over {k : Nat} {b : Batch} (hb : s.batches.get? k = some b) (hs : b.started = true)
    (hl : b.loading = false) (hi : b.image = []) (ht : (s.trays.any fun e => e.2.batch == k) = false)
    (ho : (s.ops.any fun o => o.batch == k) = false) :
    exec (.batchComplete k) s = .next ((s.endBatch k b).settleCtxs) := by
  have hgo : ¬(!b.started || b.loading || !b.image.isEmpty || (s.trays.any fun e => e.2.batch == k) ||
      s.ops.any fun o => o.batch == k) = true := by
    simp only [hs, hl, hi, ht, ho, Bool.not_true, List.isEmpty_nil, Bool.or_false, Bool.false_eq_true, not_false_eq_true]
  change execBatchComplete k s = _
  simp only [execBatchComplete, hb]
  rw [if_neg hgo]

/-! ### Saving (R407, R410) -/

/-- The image of a tray joins those of its batch. -/
def withImage (t : Tray) (b : Batch) : Batch := { b with image := b.image.put t.idx t.back }

/-- At a slice end a tray that can be saved goes to its batch's image, and its core holds it no more. -/
theorem traySave_slice {key : Nat} {t : Tray} (ht : s.trays.get? key = some t) (hl : t.leave = some .slice)
    (hr : (s.ctx t.ctx).st ≠ .revoking) (hs : s.savable t = true) :
    exec (.traySave key) s = .next (State.batchLeaves { s with
      trays := s.trays.del key
      batches := s.batches.upd t.batch (withImage t) } t.batch).settleCtxs := by
  change execTraySave key s = _
  simp only [execTraySave, ht, hl, hs, Bool.not_true, Bool.false_eq_true, and_false, if_false, or_true, if_true]
  exact congrArg _ (if_neg hr)

/-- A cluster without a region of its own leaves its die once nothing of it is placed and no copy is under way. -/
theorem clusterRegionSave_empty {x die : Nat} {k : Cluster} (hk : s.clusters.get? x = some k) (hs : k.saved = false)
    (hd : k.die = some die) (hb : s.clusterBusy x = false)
    (hp : (k.batches.any fun b => ((s.batches.get? b).map fun y => y.core.isSome).getD false) = false)
    (hr : (s.ctx k.ctx).st ≠ .revoking) (h0 : k.size = 0) :
    exec (.clusterRegionSave x) s = .next (State.settleCtxs { s with
      clusters := s.clusters.put x { k with saved := true, die := none, area := none } }) := by
  have hgo : ¬(k.saved || k.die.isNone || s.clusterBusy x ||
      k.batches.any fun b => ((s.batches.get? b).map fun y => y.core.isSome).getD false) = true := by
    simp only [hs, hd, hb, hp, Option.isNone_some, Bool.or_false, Bool.false_eq_true, not_false_eq_true]
  change execClusterRegionSave x s = _
  simp only [execClusterRegionSave, hk]
  rw [if_neg hgo, if_neg hr, if_pos h0]

/-! ### Cancelled trays (R86) -/

/-- The operations of a tray that stop with it. -/
def opsOf (s : State) (t : Tray) : List Op :=
  s.ops.filter fun o => o.batch == t.batch && o.tray == t.idx && o.tag.ctx == t.ctx && o.stops

/-- A tray that leaves by cancellation is not spared by its forced end. -/
theorem not_spared {t : Tray} (h : t.departing = some .cancel ∨ t.leave = some .cancel) :
    ¬(t.departing ≠ some .cancel ∧ t.leave ≠ some .cancel) := by tauto

/-- A cancelled tray without operations ends. -/
theorem cancelForceEnd_noOps {key : Nat} {t : Tray} (ht : s.trays.get? key = some t)
    (hc : t.departing = some .cancel ∨ t.leave = some .cancel) (hn : opsOf s t = []) :
    exec (.cancelForceEnd key) s = .next (s.trayEnds key) := by
  unfold opsOf at hn
  change execCancelForceEnd key s = _
  simp only [execCancelForceEnd, ht]
  rw [if_neg (not_spared hc), hn]
  rfl

/-- A cancelled tray whose commands are all in the replay window, none with mates, ends with the core's record of them. -/
theorem cancelForceEnd_window {key : Nat} {t : Tray} (ht : s.trays.get? key = some t)
    (hc : t.departing = some .cancel ∨ t.leave = some .cancel) (hn : opsOf s t ≠ [])
    (hw : ∀ o ∈ opsOf s t, o.phase = 0 ∧ s.matesOf o = []) :
    exec (.cancelForceEnd key) s = .next (((opsOf s t).foldl (fun s o => s.stopOp o) s).stopRecord
      ⟨true, t.ctx, key / 32, 3, 0, ((opsOf s t).length, 0, 0, 1), none, 0, 0⟩ |>.trayEnds key) := by
  have hmates : (opsOf s t).flatMap s.matesOf = [] := List.flatMap_eq_nil_iff.2 fun o ho => (hw o ho).2
  have hsent : (opsOf s t).filter (fun o => o.phase == 0) = opsOf s t :=
    List.filter_eq_self.2 fun o ho => beq_iff_eq.2 (hw o ho).1
  have hacc : (opsOf s t).filter (fun o => o.phase != 0) = [] :=
    List.filter_eq_nil_iff.2 fun o ho => by simp [(hw o ho).1]
  have hne : (opsOf s t).isEmpty = false := List.isEmpty_eq_false_iff.2 hn
  unfold opsOf at hmates hsent hacc hne ⊢
  change execCancelForceEnd key s = _
  simp only [execCancelForceEnd, ht]
  rw [if_neg (not_spared hc)]
  simp only [hmates, List.filter_nil, List.append_nil, hsent, hacc, hne]
  rfl

end

/-! ### The obligation -/

/-- Settles O46: each event by the case of its definition that the conditions select. -/
theorem batchEventResults : Obligations.BatchEventResults := by
  unfold Obligations.BatchEventResults
  intro s
  exact ⟨fun die p l => batchPlace_picked, fun k b core => batchStart_first, fun key t => trayResourceReturn_ended,
    fun k b => batchComplete_over, fun key t => traySave_slice, fun x k die => clusterRegionSave_empty,
    fun key t ht hc => ⟨cancelForceEnd_noOps ht hc, cancelForceEnd_window ht hc⟩⟩

end Sys2Proof.BatchEvents

/-!
# Urgency, eviction, slice ends and stops of units (O47)

Each event has one lemma for the case in which it acts. An event of a resident tray puts what the tray becomes.
-/

namespace Sys2Proof.StopEvents
open Sys2Proof.Machine Sys2Proof.Laws

section
variable {s : State}

/-- Changing a tray that is there is putting what it becomes. -/
theorem onTray_eq_setTray {key : Nat} {t : Tray} (f : Tray → Tray) (ht : s.trays.get? key = some t) :
    s.onTray key f = s.setTray key (f t) := by
  simp only [State.onTray, State.setTray, KMap.upd, ht]

/-! ### Urgency and eviction (R79, R150) -/

/-- A path slot that has stood for 4,096 clocks. -/
def overdue (s : State) (p : Path) : Path := { p with since := some (s.now - 4096) }

/-- The path slots of a tray that could issue become urgent. -/
theorem candidateUrgent_running {key : Nat} {t : Tray} (ht : s.trays.get? key = some t) (hl : t.leave = none)
    (hw : t.wait = .run) :
    exec (.candidateUrgent key) s = .next (s.setTray key { t with p0 := overdue s t.p0, p1 := t.p1.map (overdue s) }) := by
  have hgo : (t.leave.isNone && t.wait == .run) = true := by simp [hl, hw]
  change execCandidateUrgent key s = _
  rw [execCandidateUrgent, onTray_eq_setTray _ ht, if_pos hgo]
  rfl

/-- The batches of a core whose eviction would not take the tray with the oldest parked REGGROW. -/
def mayLeave (s : State) (core key : Nat) : KMap Batch :=
  s.batches.filter fun e =>
    e.2.core == some core && !((s.trays.get? key).map (·.batch)).any fun h => (s.leaveTogether e.1 e.2).contains h

/-- In a deadlock of register growth the youngest of them leaves, and what leaves with it. -/
theorem reggrowDeadlockEvict_deadlock {core ord key n id : Nat} {pc : Pc} {b : Batch}
    (hg : oldestGrow (s.growQueue core) = some (ord, key, n, pc)) (hd : s.growDeadlock core = true)
    (hy : youngest (mayLeave s core key) = some (id, b)) :
    exec (.reggrowDeadlockEvict core) s = .next ((s.leaveTogether id b).foldl (fun s x => s.evictBatch x) s) := by
  unfold mayLeave at hy
  change execReggrowDeadlockEvict core s = _
  simp only [execReggrowDeadlockEvict, hg, hd, hy, Bool.not_true, Bool.false_eq_true, if_false]

/-! ### Slice ends and stops (R401, R407–R409) -/

/-- The quantum of a running context ends its slice. -/
theorem quantumExpiry_running {x : Nat} (hr : (s.ctx x).st = .running) (hq : (s.ctx x).quantum ≠ 0) :
    exec (.quantumExpiry x) s = .next (s.sliceEnd x true) := by
  change execQuantumExpiry x s = _
  rw [execQuantumExpiry, if_pos ⟨hr, hq⟩]

/-- A departing tray that is to be saved leaves by force when its budget runs out. -/
theorem sliceBudgetExpiry_departing {key : Nat} {t : Tray} {w : Depart} (ht : s.trays.get? key = some t)
    (hd : t.departing = some w) (hl : t.leave = none) (he : t.wait ≠ .ended) (hc : w ≠ .cancel) (ha : t.async = []) :
    exec (.sliceBudgetExpiry key) s = .next (s.setTray key { t with leave := some w, forced := true }) := by
  have hgo : ¬(t.leave.isSome || t.wait == .ended || w == .cancel || !t.async.isEmpty) = true := by simp [hl, he, hc, ha]
  change execSliceBudgetExpiry key s = _
  simp only [execSliceBudgetExpiry, ht, hd]
  rw [if_neg hgo, onTray_eq_setTray _ ht, hd]

/-- A unit other than a core stops a context's work. -/
theorem unitStop_engine {cls unit x : Nat} {w : StopWait} (hc : cls ≠ 0)
    (hw : ((s.ctx x).stops.find? fun w => w.cls == cls && w.unit == unit) = some w) :
    exec (.unitStop cls unit x) s = .next (((s.onCtx x fun t => { t with stops := t.stops.filter fun y =>
      !(y.cls == cls && y.unit == unit && y.reason == w.reason && y.revno == w.revno) }).stopEngine x w).settleCtxs) := by
  change execUnitStop cls unit x s = _
  simp only [execUnitStop, hw]
  rw [if_pos hc]

/-! ### Words without an instruction (R56) -/

/-- A word of an unassigned encoding is illegal where it issues. -/
theorem unassignedEncoding_illegal {c : Cur} {t : Tray} {w : BitVec 32} (h : Issuing s c t []) :
    RaisesEarly s c (.unassignedEncoding w) .illegal := by
  change execUnassignedEncoding w s = _
  unfold execUnassignedEncoding
  exact issue_early h rfl

end

/-! ### The obligation -/

/-- Settles O47: each event by the case of its definition that the conditions select. -/
theorem coreAndStopEventResults : Obligations.CoreAndStopEventResults := by
  unfold Obligations.CoreAndStopEventResults
  intro s
  exact ⟨fun key t => candidateUrgent_running, fun core ord key n pc id b => reggrowDeadlockEvict_deadlock,
    fun x => quantumExpiry_running, fun key t w => sliceBudgetExpiry_departing, fun cls unit x w => unitStop_engine,
    fun c t w => unassignedEncoding_illegal⟩

end Sys2Proof.StopEvents

/-!
# Conversions, quantisation, scales and dequantisation (O8)

Each form is executed by `floatOp` or `floatOp64`, the quantising forms through `cvtq`. What a floating-point word comes to,
values written and flags merged or a trap and neither (R97–R99), is stated once by the laws of arithmetic.
-/

namespace Sys2Proof.FloatWords
open Sys2Proof.Machine Sys2Proof.Laws

/-! ### Floating-point words by how they are executed -/

section
variable {s : State} {c : Cur} {t : Tray} {i : Instr} {d : BitVec 7} {f : Src → Nat → Nat × FFlags} {g : Nat → Nat × FFlags}
  (run : State → Host.Outcome State Fault Refusal)

/-- An instruction that runs as a floating-point word with function `f` gives what `f` makes of the word's sources. -/
theorem floatResult_of_floatOp (hi : exec i s = run s) (hf : run s = floatOp i s d f) (hg : f (c.src s t) = g) :
    FloatResult s c t i d g := by
  subst hg
  intro h
  rw [hi, hf]
  exact floatOp_ok f h

/-- The same with a pair for its result. -/
theorem floatResult2_of_floatOp64 (hi : exec i s = run s) (hf : run s = floatOp64 i s d f) (hg : f (c.src s t) = g) :
    FloatResult2 s c t i d g := by
  subst hg
  intro h
  rw [hi, hf]
  exact floatOp64_ok f h

/-- A quantising instruction puts the quantised v(a) into one element of v(d) (R104). -/
theorem floatResult_of_cvtq {q : QFmt} {n : Nat} {a : BitVec 7} {pos : BitVec 3} {sat mx : Bool} {rm : BitVec 2}
    (hi : exec i s = run s) (hq : run s = cvtq i q n d a pos sat mx rm s) :
    FloatResult s c t i d fun th =>
      let r := c.src s t
      let p := quantise q (r.qRm rm) sat mx (r.scaleOf mx a th) (fmtF32.val (r.v a th).toNat)
      (putElem (r.v d th) pos.toNat n p.1, p.2) :=
  floatResult_of_floatOp run hi hq rfl

end

/-! ### The obligation -/

/-- Settles O8: every form is a floating-point word by its own definition, with the function of the sources that is stated:
eight of CVT (R102), SCALE (R105), the two of DQ (R106) and the four of CVTQ (R104). -/
theorem conversionResults : Obligations.ConversionResults := by
  unfold Obligations.ConversionResults
  intro s c t
  refine ⟨?_, ?_, ?_, ?_, ?_, ?_, ?_, ?_, ?_, ?_, ?_, ?_, ?_, ?_, ?_⟩
  · exact fun d a rm u => floatResult_of_floatOp (execCvtF32I32 d a rm u) rfl rfl rfl
  · exact fun d a rm u => floatResult_of_floatOp (execCvtI32F32 d a rm u) rfl rfl rfl
  · exact fun d a => floatResult2_of_floatOp64 (execCvtF64F32 d a) rfl rfl rfl
  · exact fun d a rm sat => floatResult_of_floatOp (execCvtF32F64 d a rm sat) rfl rfl rfl
  · exact fun d a u => floatResult2_of_floatOp64 (execCvtF64I32 d a u) rfl rfl rfl
  · exact fun d a rm u => floatResult_of_floatOp (execCvtI32F64 d a rm u) rfl rfl rfl
  · exact fun d a h hi => floatResult_of_floatOp (execCvtF32F16 d a h hi) rfl rfl rfl
  · exact fun d a rm sat h => floatResult_of_floatOp (execCvtF16F32 d a rm sat h) rfl rfl rfl
  · exact fun d a fmt => floatResult_of_floatOp (execScale d a fmt) rfl rfl rfl
  · exact fun d a pos fmt mx rm => floatResult_of_floatOp (execDq8 d a pos fmt mx rm) rfl rfl rfl
  · exact fun d a pos mx rm => floatResult_of_floatOp (execDq4 d a pos mx rm) rfl rfl rfl
  · exact fun d a pos sat mx rm => floatResult_of_cvtq (execCvtqE4m3 d a pos sat mx rm) rfl rfl
  · exact fun d a pos sat mx rm => floatResult_of_cvtq (execCvtqE5m2 d a pos sat mx rm) rfl rfl
  · exact fun d a pos sat mx rm => floatResult_of_cvtq (execCvtqE2m1 d a pos sat mx rm) rfl rfl
  · exact fun d a pos mx rm => floatResult_of_cvtq (execCvtqI8 d a pos mx rm) rfl rfl

end Sys2Proof.FloatWords

/-!
# Scalar, mask and integer vector arithmetic (O1–O3)

Each instruction is executed by its own definition, which is one of five shapes: a scalar register, a scalar pair, a mask
triple, a window register or a pair of window registers is written. What a shape writes when its word stands to issue is
stated once by the laws of arithmetic; an instruction's part is the function of its sources.
-/

namespace Sys2Proof.IntegerWords
open Sys2Proof.Machine Sys2Proof.Laws

variable {s : State} {c : Cur} {t : Tray}

/-- An instruction completes as the definition that executes it does. -/
theorem completes_of_run {i : Instr} {s' : State} (run : State → Host.Outcome State Fault Refusal)
    (hi : exec i s = run s) (hr : Issuing s c t i.opnds → run s = .next s') : Completes s c t i s' :=
  fun h => hi.trans (hr h)

/-! ### The conditions of Table 5.3 -/

section
variable (a b : Word)

theorem icmpHolds_eq : icmpHolds .eq a b = decide (a = b) := beq_eq_decide a b

theorem icmpHolds_ne : icmpHolds .ne a b = decide (a ≠ b) := by
  rw [decide_not, ← beq_eq_decide]
  rfl

theorem icmpHolds_lt : icmpHolds .lt a b = decide (a.toInt < b.toInt) := BitVec.slt_eq_decide
theorem icmpHolds_le : icmpHolds .le a b = decide (a.toInt ≤ b.toInt) := BitVec.sle_eq_decide
theorem icmpHolds_ltn : icmpHolds .ltn a b = decide (a.toNat < b.toNat) := BitVec.ult_eq_decide
theorem icmpHolds_len : icmpHolds .len a b = decide (a.toNat ≤ b.toNat) := BitVec.ule_eq_decide
theorem icmpHolds_gt : icmpHolds .gt a b = decide (b.toInt < a.toInt) := BitVec.slt_eq_decide
theorem icmpHolds_gtn : icmpHolds .gtn a b = decide (b.toNat < a.toNat) := BitVec.ult_eq_decide

end

/-- SCMP writes all ones or zero by the truth of its condition, in whatever words that is put. -/
theorem scmp_completes {cc : ICmp} {d a : BitVec 7} {b : SB} {p : Bool}
    (hp : icmpHolds cc ((c.src s t).s a) ((c.src s t).sb b) = p) :
    Completes s c t (.scmp cc d a b) (s.wroteS c t d (if p then 0xFFFFFFFF else 0)) := by
  subst hp
  exact completes_of_run (execScmp cc d a b) rfl (scalarOp_ok _)

/-! ### The obligations -/

/-- Settles O1: every instruction is one of the three scalar and mask shapes, with the function of its sources that is
stated (R50, R113, R134). -/
theorem scalarResults : Obligations.ScalarResults := by
  unfold Obligations.ScalarResults
  intro s c t
  refine ⟨?_, ?_, ?_, ?_, ?_, ?_, ?_, ?_, ?_, ?_, ?_, ?_, ?_, ?_, ?_, ?_, ?_, ?_, ?_, ?_, ?_, ?_, ?_, ?_, ?_, ?_, ?_,
    ?_, ?_, ?_, ?_, ?_, ?_, ?_, ?_, ?_, ?_, ?_, ?_⟩
  · exact fun d a b => completes_of_run (execSadd d a b) rfl (scalarOp_ok _)
  · exact fun d a b => completes_of_run (execSsub d a b) rfl (scalarOp_ok _)
  · exact fun d a b => completes_of_run (execSmul d a b) rfl (scalarOp_ok _)
  · exact fun d a b => completes_of_run (execSmulh d a b) rfl (scalarOp_ok _)
  · exact fun d a b => completes_of_run (execSand d a b) rfl (scalarOp_ok _)
  · exact fun d a b => completes_of_run (execSor d a b) rfl (scalarOp_ok _)
  · exact fun d a b => completes_of_run (execSxor d a b) rfl (scalarOp_ok _)
  · exact fun d a b => completes_of_run (execSshl d a b) rfl (scalarOp_ok _)
  · exact fun d a b => completes_of_run (execSshr d a b) rfl (scalarOp_ok _)
  · exact fun d a b => completes_of_run (execSsra d a b) rfl (scalarOp_ok _)
  · exact fun d a b => completes_of_run (execSmin d a b) rfl (scalarOp_ok _)
  · exact fun d a b => completes_of_run (execSmax d a b) rfl (scalarOp_ok _)
  · exact fun d a imm => completes_of_run (execSaddI d a imm) rfl (scalarOp_ok _)
  · exact fun d a imm => completes_of_run (execSsubI d a imm) rfl (scalarOp_ok _)
  · exact fun d a imm => completes_of_run (execSmulI d a imm) rfl (scalarOp_ok _)
  · exact fun d a imm => completes_of_run (execSmulhI d a imm) rfl (scalarOp_ok _)
  · exact fun d a imm => completes_of_run (execSandI d a imm) rfl (scalarOp_ok _)
  · exact fun d a imm => completes_of_run (execSorI d a imm) rfl (scalarOp_ok _)
  · exact fun d a imm => completes_of_run (execSxorI d a imm) rfl (scalarOp_ok _)
  · exact fun d a imm => completes_of_run (execSshlI d a imm) rfl (scalarOp_ok _)
  · exact fun d a imm => completes_of_run (execSshrI d a imm) rfl (scalarOp_ok _)
  · exact fun d a imm => completes_of_run (execSsraI d a imm) rfl (scalarOp_ok _)
  · exact fun d a imm => completes_of_run (execSminI d a imm) rfl (scalarOp_ok _)
  · exact fun d a imm => completes_of_run (execSmaxI d a imm) rfl (scalarOp_ok _)
  · exact fun d b => completes_of_run (execSmov d b) rfl (scalarOp_ok _)
  · exact fun d imm => completes_of_run (execSmovI d imm) rfl (scalarOp_ok _)
  · exact fun d a b => completes_of_run (execSsel d a b) rfl (scalarOp_ok _)
  · exact fun d a b => completes_of_run (execSadd64 d a b) rfl (scalarOp64_ok _)
  · exact fun d a b => completes_of_run (execSsub64 d a b) rfl (scalarOp64_ok _)
  · exact fun d a imm => completes_of_run (execSadd64I d a imm) rfl (scalarOp64_ok _)
  · exact fun d a imm => completes_of_run (execSsub64I d a imm) rfl (scalarOp64_ok _)
  · exact fun d a b => completes_of_run (execMand d a b) rfl (maskOp_ok _)
  · exact fun d a b => completes_of_run (execMor d a b) rfl (maskOp_ok _)
  · exact fun d a b => completes_of_run (execMxor d a b) rfl (maskOp_ok _)
  · exact fun d a b => completes_of_run (execMandn d a b) rfl (maskOp_ok _)
  · exact fun d b => completes_of_run (execMmov d b) rfl (maskOp_ok _)
  · exact fun d a => completes_of_run (execMset d a) rfl (maskOp_ok _)
  · exact fun d b => completes_of_run (execMpop d b) rfl (scalarOp_ok _)
  · exact fun d b => completes_of_run (execMfirst d b) rfl (scalarOp_ok _)

/-- Settles O2: SCMP has the scalar shape, and each of its conditions is the relation of Table 5.3 (R114). -/
theorem scalarCompare : Obligations.ScalarCompare := by
  unfold Obligations.ScalarCompare
  intro s c t d a b
  exact ⟨scmp_completes (icmpHolds_eq _ _), scmp_completes (icmpHolds_ne _ _), scmp_completes (icmpHolds_lt _ _),
    scmp_completes (icmpHolds_le _ _), scmp_completes (icmpHolds_ltn _ _), scmp_completes (icmpHolds_len _ _),
    scmp_completes (icmpHolds_gt _ _), scmp_completes (icmpHolds_gtn _ _)⟩

/-- Settles O3: every instruction has one of the two vector shapes, which write the active threads from the registers before
the group (R109), with the function of its sources that is stated (R50, R118, R119). -/
theorem vectorResults : Obligations.VectorResults := by
  unfold Obligations.VectorResults
  intro s c t
  refine ⟨?_, ?_, ?_, ?_, ?_, ?_, ?_, ?_, ?_, ?_, ?_, ?_, ?_, ?_, ?_, ?_, ?_, ?_, ?_, ?_, ?_, ?_, ?_, ?_, ?_, ?_, ?_,
    ?_, ?_, ?_, ?_, ?_, ?_, ?_, ?_, ?_, ?_, ?_, ?_, ?_⟩
  · exact fun d a b => completes_of_run (execVadd d a b) rfl (vectorOp_ok _)
  · exact fun d a b => completes_of_run (execVsub d a b) rfl (vectorOp_ok _)
  · exact fun d a b => completes_of_run (execVmul d a b) rfl (vectorOp_ok _)
  · exact fun d a b => completes_of_run (execVmulh d a b) rfl (vectorOp_ok _)
  · exact fun d a b => completes_of_run (execVmad d a b) rfl (vectorOp_ok _)
  · exact fun d a b => completes_of_run (execVand d a b) rfl (vectorOp_ok _)
  · exact fun d a b => completes_of_run (execVor d a b) rfl (vectorOp_ok _)
  · exact fun d a b => completes_of_run (execVxor d a b) rfl (vectorOp_ok _)
  · exact fun d a b => completes_of_run (execVshl d a b) rfl (vectorOp_ok _)
  · exact fun d a b => completes_of_run (execVshr d a b) rfl (vectorOp_ok _)
  · exact fun d a b => completes_of_run (execVsra d a b) rfl (vectorOp_ok _)
  · exact fun d a b => completes_of_run (execVmin d a b) rfl (vectorOp_ok _)
  · exact fun d a b => completes_of_run (execVmax d a b) rfl (vectorOp_ok _)
  · exact fun d a imm => completes_of_run (execVaddI d a imm) rfl (vectorOp_ok _)
  · exact fun d a imm => completes_of_run (execVsubI d a imm) rfl (vectorOp_ok _)
  · exact fun d a imm => completes_of_run (execVmulI d a imm) rfl (vectorOp_ok _)
  · exact fun d a imm => completes_of_run (execVmulhI d a imm) rfl (vectorOp_ok _)
  · exact fun d a imm => completes_of_run (execVmadI d a imm) rfl (vectorOp_ok _)
  · exact fun d a imm => completes_of_run (execVandI d a imm) rfl (vectorOp_ok _)
  · exact fun d a imm => completes_of_run (execVorI d a imm) rfl (vectorOp_ok _)
  · exact fun d a imm => completes_of_run (execVxorI d a imm) rfl (vectorOp_ok _)
  · exact fun d a imm => completes_of_run (execVshlI d a imm) rfl (vectorOp_ok _)
  · exact fun d a imm => completes_of_run (execVshrI d a imm) rfl (vectorOp_ok _)
  · exact fun d a imm => completes_of_run (execVsraI d a imm) rfl (vectorOp_ok _)
  · exact fun d a imm => completes_of_run (execVminI d a imm) rfl (vectorOp_ok _)
  · exact fun d a imm => completes_of_run (execVmaxI d a imm) rfl (vectorOp_ok _)
  · exact fun d a b => completes_of_run (execVsel d a b) rfl (vectorOp_ok _)
  · exact fun d b => completes_of_run (execVmov d b) rfl (vectorOp_ok _)
  · exact fun d a b => completes_of_run (execVadd64 d a b) rfl (vectorOp64_ok _)
  · exact fun d a imm => completes_of_run (execVadd64I d a imm) rfl (vectorOp64_ok _)
  · exact fun d a b => completes_of_run (execVmad64 d a b) rfl (vectorOp64_ok _)
  · exact fun d a imm => completes_of_run (execVmad64I d a imm) rfl (vectorOp64_ok _)
  · exact fun d b => completes_of_run (execVnot d b) rfl (vectorOp_ok _)
  · exact fun d b => completes_of_run (execVabs d b) rfl (vectorOp_ok _)
  · exact fun d b => completes_of_run (execVclz d b) rfl (vectorOp_ok _)
  · exact fun d b => completes_of_run (execVpopc d b) rfl (vectorOp_ok _)
  · exact fun d b => completes_of_run (execVbrev d b) rfl (vectorOp_ok _)
  · exact fun d a b => completes_of_run (execVbfe d a b) rfl (vectorOp_ok _)
  · exact fun d a b => completes_of_run (execVbfi d a b) rfl (vectorOp_ok _)
  · exact fun cc d a b => completes_of_run (execVcmp cc d a b) rfl (vectorOp_ok _)

end Sys2Proof.IntegerWords

/-!
# FP32, FP64 and packed arithmetic (O6, O7)

Every form is executed by `floatOp` or `floatOp64`, whose results, flags and traps (R97–R99) the floating-point words share
with the conversions.
-/

namespace Sys2Proof.FloatArithmetic
open Sys2Proof.Machine Sys2Proof.FloatWords

/-- Settles O6: the arithmetic of Table 5.6 in both operand forms (R121, R122), the functions of Table 5.7 (R123) and FCMP
(R124) are floating-point words by their own definitions, with the function of the sources that is stated. -/
theorem float32Results : Obligations.Float32Results := by
  unfold Obligations.Float32Results
  intro s c t
  refine ⟨?_, ?_, ?_, ?_, ?_, ?_, ?_, ?_, ?_, ?_, ?_, ?_, ?_, ?_, ?_, ?_, ?_, ?_, ?_, ?_, ?_, ?_, ?_, ?_, ?_⟩
  · exact fun d a b => floatResult_of_floatOp (execFadd d a b) rfl rfl rfl
  · exact fun d a b => floatResult_of_floatOp (execFsub d a b) rfl rfl rfl
  · exact fun d a b => floatResult_of_floatOp (execFmul d a b) rfl rfl rfl
  · exact fun d a b => floatResult_of_floatOp (execFfma d a b) rfl rfl rfl
  · exact fun d a b => floatResult_of_floatOp (execFfms d a b) rfl rfl rfl
  · exact fun d a b => floatResult_of_floatOp (execFnma d a b) rfl rfl rfl
  · exact fun d a b => floatResult_of_floatOp (execFmin d a b) rfl rfl rfl
  · exact fun d a b => floatResult_of_floatOp (execFmax d a b) rfl rfl rfl
  · exact fun d a imm => floatResult_of_floatOp (execFaddI d a imm) rfl rfl rfl
  · exact fun d a imm => floatResult_of_floatOp (execFsubI d a imm) rfl rfl rfl
  · exact fun d a imm => floatResult_of_floatOp (execFmulI d a imm) rfl rfl rfl
  · exact fun d a imm => floatResult_of_floatOp (execFfmaI d a imm) rfl rfl rfl
  · exact fun d a imm => floatResult_of_floatOp (execFfmsI d a imm) rfl rfl rfl
  · exact fun d a imm => floatResult_of_floatOp (execFnmaI d a imm) rfl rfl rfl
  · exact fun d a imm => floatResult_of_floatOp (execFminI d a imm) rfl rfl rfl
  · exact fun d a imm => floatResult_of_floatOp (execFmaxI d a imm) rfl rfl rfl
  · exact fun d b => floatResult_of_floatOp (execFrcp d b) rfl rfl rfl
  · exact fun d b => floatResult_of_floatOp (execFrsq d b) rfl rfl rfl
  · exact fun d b => floatResult_of_floatOp (execFsqrt d b) rfl rfl rfl
  · exact fun d b => floatResult_of_floatOp (execFex2 d b) rfl rfl rfl
  · exact fun d b => floatResult_of_floatOp (execFlg2 d b) rfl rfl rfl
  · exact fun d b => floatResult_of_floatOp (execFsin d b) rfl rfl rfl
  · exact fun d b => floatResult_of_floatOp (execFcos d b) rfl rfl rfl
  · exact fun d b => floatResult_of_floatOp (execFtanh d b) rfl rfl rfl
  · exact fun cc d a b => floatResult_of_floatOp (execFcmp cc d a b) rfl rfl rfl

/-- Settles O7: FP64 arithmetic and rounding to integers write a pair (R126, R127), DCMP a word (R128), packed forms a word of
two elements (R129), each with the function of the sources that is stated. -/
theorem float64AndPackedResults : Obligations.Float64AndPackedResults := by
  unfold Obligations.Float64AndPackedResults
  intro s c t
  refine ⟨?_, ?_, ?_, ?_, ?_, ?_, ?_, ?_, ?_, ?_, ?_, ?_, ?_, ?_, ?_, ?_, ?_, ?_, ?_, ?_, ?_, ?_, ?_, ?_, ?_⟩
  · exact fun d a b => floatResult2_of_floatOp64 (execDadd d a b) rfl rfl rfl
  · exact fun d a b => floatResult2_of_floatOp64 (execDsub d a b) rfl rfl rfl
  · exact fun d a b => floatResult2_of_floatOp64 (execDmul d a b) rfl rfl rfl
  · exact fun d a b => floatResult2_of_floatOp64 (execDfma d a b) rfl rfl rfl
  · exact fun d a b => floatResult2_of_floatOp64 (execDfms d a b) rfl rfl rfl
  · exact fun d a b => floatResult2_of_floatOp64 (execDnma d a b) rfl rfl rfl
  · exact fun d a b => floatResult2_of_floatOp64 (execDmin d a b) rfl rfl rfl
  · exact fun d a b => floatResult2_of_floatOp64 (execDmax d a b) rfl rfl rfl
  · exact fun d a b => floatResult2_of_floatOp64 (execDdiv d a b) rfl rfl rfl
  · exact fun d b => floatResult2_of_floatOp64 (execDsqrt d b) rfl rfl rfl
  · exact fun d b => floatResult2_of_floatOp64 (execDrcp d b) rfl rfl rfl
  · exact fun d b => floatResult2_of_floatOp64 (execDrsq d b) rfl rfl rfl
  · exact fun d b => floatResult2_of_floatOp64 (execDfloor d b) rfl rfl rfl
  · exact fun d b => floatResult2_of_floatOp64 (execDceil d b) rfl rfl rfl
  · exact fun d b => floatResult2_of_floatOp64 (execDrne d b) rfl rfl rfl
  · exact fun d b => floatResult2_of_floatOp64 (execDtrunc d b) rfl rfl rfl
  · exact fun cc d a b => floatResult_of_floatOp (execDcmp cc d a b) rfl rfl rfl
  · exact fun d a b => floatResult_of_floatOp (execHadd2 d a b) rfl rfl rfl
  · exact fun d a b => floatResult_of_floatOp (execHmul2 d a b) rfl rfl rfl
  · exact fun d a b => floatResult_of_floatOp (execHfma2 d a b) rfl rfl rfl
  · exact fun d a b => floatResult_of_floatOp (execHmax2 d a b) rfl rfl rfl
  · exact fun d a b => floatResult_of_floatOp (execBadd2 d a b) rfl rfl rfl
  · exact fun d a b => floatResult_of_floatOp (execBmul2 d a b) rfl rfl rfl
  · exact fun d a b => floatResult_of_floatOp (execBfma2 d a b) rfl rfl rfl
  · exact fun d a b => floatResult_of_floatOp (execBmax2 d a b) rfl rfl rfl

end Sys2Proof.FloatArithmetic

/-!
# Indexed registers and cross-lane work (O5, O9, O10)

An indexed word is refused where a thread's register is out of range, waits while one is bound, and else completes. A
cross-lane word goes by what its slot has to do about the other one (R154): the four outcomes are stated once for every
function, with the states that select each.
-/

namespace Sys2Proof.LaneWords
open Sys2Proof.Machine Sys2Proof.Laws Sys2Proof.IntegerWords

variable {s : State} {c : Cur} {t : Tray}

/-! ### Indexed registers (R151, R152) -/

/-- A word with the range check and the wait of the indexed words: the first check that fails decides. -/
theorem indexed_outcome {i : Instr} {body : Src → Tray → State → Res} (run : State → Host.Outcome State Fault Refusal)
    (hi : exec i s = run s) (hr : run s = issue i.opnds s body) (h : Issuing s c t i.opnds) {beyond bound : Bool} {t' : Tray}
    (hb : body (c.src s t) (t.advance c) s = if beyond then .early .regovf else if bound then .stay else .ok t' s) :
    if beyond then exec i s = .next (s.raise c.key c.path [.regovf] c.pc false none)
    else if bound then exec i s = .next s
    else exec i s = .next (s.completed c t t') := by
  rw [hi, hr]
  cases beyond with
  | true => exact issue_early h hb
  | false =>
    cases bound with
    | true => exact issue_stay h hb
    | false => exact issue_ok h hb

/-! ### Cross-lane words (R153, R154) -/

section
variable {r : Src} {m : BitVec 5}

/-- Alone in its tray, a slot waits for none. -/
theorem converge_single (h : r.t.p1 = none) : r.converge m = .alone := by
  simp [Src.converge, h]

/-- The other slot waits at this word. -/
theorem converge_met (h : r.t.p1 ≠ none) (ho : (r.t.path (1 - r.i)).cross = .waits r.pc) : r.converge m = .both := by
  simp [Src.converge, h, ho]

/-- The member mask names no live thread of the other slot. -/
theorem converge_apart (ho : (r.t.path (1 - r.i)).cross ≠ .waits r.pc) (hc : r.crosses m = false) :
    r.converge m = .alone := by
  simp [Src.converge, ho, hc]

/-- The other slot waits at another cross-lane word. -/
theorem converge_elsewhere {pc : Pc} (ho : (r.t.path (1 - r.i)).cross = .waits pc) (hp : pc ≠ r.pc) :
    r.converge m = .alone := by
  simp [Src.converge, ho, hp]

/-- The other slot waits at a JOIN, or this one has waited until the other came to another word. -/
theorem converge_released (ho : (r.t.path (1 - r.i)).cross ≠ .waits r.pc)
    (hj : (r.t.path (1 - r.i)).joinWait = true ∨ (r.t.path r.i).cross = .alone r.pc) : r.converge m = .alone := by
  obtain hj | hj := hj <;> simp [Src.converge, ho, hj]

/-- The other slot waits nowhere, and the member mask reaches it. -/
theorem converge_waits (h : r.t.p1 ≠ none) (ho : ∀ pc, (r.t.path (1 - r.i)).cross ≠ .waits pc) (hc : r.crosses m = true)
    (hj : (r.t.path (1 - r.i)).joinWait = false) (ha : (r.t.path r.i).cross ≠ .alone r.pc) : r.converge m = .wait := by
  simp only [Src.converge, ho, hc, hj, ha, Option.isNone_iff_eq_none, h, if_false, Bool.not_true, Bool.or_self,
    decide_false, Bool.false_eq_true]

end

section
variable {i : Instr} {d : BitVec 7} {m : BitVec 5} {f : XFun}

/-- The word's results are written where no enabled trap is met. -/
theorem crossWrite_ok {a : Tray} {q : Mask} (hq : metIn s c t q (f (c.src s t) q) = []) :
    crossWrite (c.src s t) a s d q f = .ok ((a.fillPhys ((c.src s t).t.vwin + d.toNat) q fun th =>
      BitVec.ofNat 32 (f (c.src s t) q th).1).mergeFlags (orFlags q fun th => (f (c.src s t) q th).2)) s := by
  have hq' : fpTraps (c.src s t).t.fpctl (orFlags q fun th => (f (c.src s t) q th).2) = [] := hq
  simp only [crossWrite, hq']

/-- A word that the other slot has performed for both is passed. -/
theorem crossOp_done (h : Issuing s c t i.opnds) (hd : ((c.src s t).t.path c.path).cross = .done c.pc) :
    crossOp i s d m true f = .next (s.completed c t (t.advance c)) :=
  issue_ok h (by simp [hd])

/-- A word whose slot goes alone writes its own participants. -/
theorem crossOp_alone (h : Issuing s c t i.opnds) (hd : ((c.src s t).t.path c.path).cross ≠ .done c.pc)
    (hv : (c.src s t).converge m = .alone)
    (hq : metIn s c t ((c.src s t).parts m) (f (c.src s t) ((c.src s t).parts m)) = []) :
    crossOp i s d m true f = .next (s.wroteX c t d ((c.src s t).parts m) (f (c.src s t) ((c.src s t).parts m))) :=
  issue_ok h (by simp [hd, hv, crossWrite_ok hq])

/-- A word whose slot waits for the other is performed later. -/
theorem crossOp_waits (h : Issuing s c t i.opnds) (hd : ((c.src s t).t.path c.path).cross ≠ .done c.pc)
    (hv : (c.src s t).converge m = .wait) : crossOp i s d m true f = .next (s.setXwait c) :=
  issue_converge h (by simp [hd, hv])

/-- The participants of this slot, with those of the other. -/
theorem parts_or_other (r : Src) (m : BitVec 5) :
    r.parts m ||| r.t.mreg (1 - r.i) m.toNat &&& (r.t.path (1 - r.i)).mask &&& r.t.live = r.bothParts m := rfl

/-- A word at which both slots stand writes the participants of both, and the other slot will pass it. -/
theorem crossOp_both (h : Issuing s c t i.opnds) (hd : ((c.src s t).t.path c.path).cross ≠ .done c.pc)
    (hv : (c.src s t).converge m = .both)
    (hq : metIn s c t ((c.src s t).bothParts m) (f (c.src s t) ((c.src s t).bothParts m)) = []) :
    crossOp i s d m true f =
      .next (s.wroteBoth c t d ((c.src s t).bothParts m) (f (c.src s t) ((c.src s t).bothParts m))) := by
  have hd' : ((c.src s t).t.path (c.src s t).i).cross ≠ .done (c.src s t).pc := hd
  refine issue_ok h ?_
  simp only [hd', hv, Bool.not_true, Bool.false_eq_true, if_false, parts_or_other, crossWrite_ok hq]
  rfl

end

section
variable {i : Instr} {d : BitVec 7} {m : BitVec 5} {f : XFun} {ok : Bool} (run : State → Host.Outcome State Fault Refusal)

/-- A cross-lane word in one path slot, or whose members are of one and at which the other does not wait, completes for its
participants. -/
theorem result_of_crossOp {g : Nat → Nat × FFlags} (hi : exec i s = run s) (hr : run s = crossOp i s d m ok f)
    (hg : f (c.src s t) ((c.src s t).parts m) = g) (h : Issuing s c t i.opnds) (hc : (c.src s t).crosses m = false)
    (ho : (c.src s t).t.p1 = none ∨ ((c.src s t).t.path (1 - (c.src s t).i)).cross ≠ .waits c.pc)
    (hd : ((c.src s t).t.path (c.src s t).i).cross ≠ .done c.pc) (hok : ok = true)
    (hq : metIn s c t ((c.src s t).parts m) g = []) : exec i s = .next (s.wroteX c t d ((c.src s t).parts m) g) := by
  subst hok hg
  rw [hi, hr]
  refine crossOp_alone h hd ?_ hq
  obtain h1 | h1 := ho
  · exact converge_single h1
  · exact converge_apart h1 hc

/-- A cross-lane word in a tray with two path slots meets the other slot as R154 says. -/
theorem meets_of_crossOp {g : Mask → Nat → Nat × FFlags} (hi : exec i s = run s) (hr : run s = crossOp i s d m ok f)
    (hg : f (c.src s t) = g) (h : Issuing s c t i.opnds) (hok : ok = true) : Meets s c t i d m g := by
  subst hok hg
  rw [hr] at hi
  unfold Meets
  intro r p o alone h1
  have goes (hd : p.cross ≠ .done c.pc) (hv : r.converge m = .alone) : alone := fun hq => hi.trans (crossOp_alone h hd hv hq)
  refine ⟨fun hd => ?_, fun hd ho hq => ?_, fun hd ho hc hj ha => ?_, fun hd ho hj => ?_, fun hd pc ho hp => ?_⟩
  · exact hi.trans (crossOp_done h hd)
  · exact hi.trans (crossOp_both h hd (converge_met h1 ho) hq)
  · exact hi.trans (crossOp_waits h hd (converge_waits h1 ho hc hj ha))
  · exact goes hd (converge_released (ho _) hj)
  · exact goes hd (converge_elsewhere ho hp)

end

/-! ### The obligations -/

/-- Settles O5: VIDX, VIDXW and VGETS have the checks of an indexed word, and VLANE has none for its three selectors. -/
theorem indexedResults : Obligations.IndexedResults := by
  unfold Obligations.IndexedResults
  intro s c t
  refine ⟨?_, ?_, ?_, ?_, ?_, ?_⟩
  · exact fun d a b h => indexed_outcome (execVidx d a b) rfl rfl h rfl
  · exact fun d a b h => indexed_outcome (execVidxw d a b) rfl rfl h rfl
  · exact fun d a b h => indexed_outcome (execVgets d a b) rfl rfl h rfl
  · exact fun d => completes_of_run (execVlane d 0) rfl fun h => issue_ok h rfl
  · exact fun d => completes_of_run (execVlane d 1) rfl fun h => issue_ok h rfl
  · exact fun d => completes_of_run (execVlane d 2) rfl fun h => issue_ok h rfl

/-- Settles O9: each instruction is a cross-lane word with the function stated for it (Tables 6.8 and 6.9). -/
theorem crossLaneResults : Obligations.CrossLaneResults := by
  unfold Obligations.CrossLaneResults
  intro s c t
  refine ⟨?_, ?_, ?_, ?_, ?_, ?_, ?_, ?_⟩
  · exact fun d a m p h hc ho hd hp hq => result_of_crossOp (execPerm d a m p) rfl rfl rfl h hc ho hd (decide_eq_true hp) hq
  · exact fun d a m p h hc ho hd hp hq => result_of_crossOp (execPup d a m p) rfl rfl rfl h hc ho hd (decide_eq_true hp) hq
  · exact fun d a m p h hc ho hd hp hq => result_of_crossOp (execPdn d a m p) rfl rfl rfl h hc ho hd (decide_eq_true hp) hq
  · exact fun d a m p h hc ho hd hp hq => result_of_crossOp (execPxor d a m p) rfl rfl rfl h hc ho hd (decide_eq_true hp) hq
  · exact fun d a m p h hc ho hd hp hq => result_of_crossOp (execPbcast d a m p) rfl rfl rfl h hc ho hd (decide_eq_true hp) hq
  · exact fun d a m p h hc ho hd hp hq => result_of_crossOp (execVote d a m p) rfl rfl rfl h hc ho hd (decide_eq_true hp) hq
  · exact fun d a m p h hc ho hd hq => result_of_crossOp (execRedl d a m p) rfl rfl rfl h hc ho hd rfl hq
  · exact fun d a m p h hc ho hd hq => result_of_crossOp (execScanl d a m p) rfl rfl rfl h hc ho hd rfl hq

/-- Settles O10: each instruction is a cross-lane word, and every such word meets the other slot by the same rule. -/
theorem crossLaneConvergence : Obligations.CrossLaneConvergence := by
  unfold Obligations.CrossLaneConvergence
  intro s c t
  refine ⟨?_, ?_, ?_, ?_, ?_, ?_, ?_, ?_⟩
  · exact fun d a m p h hp => meets_of_crossOp (execPerm d a m p) rfl rfl rfl h (decide_eq_true hp)
  · exact fun d a m p h hp => meets_of_crossOp (execPup d a m p) rfl rfl rfl h (decide_eq_true hp)
  · exact fun d a m p h hp => meets_of_crossOp (execPdn d a m p) rfl rfl rfl h (decide_eq_true hp)
  · exact fun d a m p h hp => meets_of_crossOp (execPxor d a m p) rfl rfl rfl h (decide_eq_true hp)
  · exact fun d a m p h hp => meets_of_crossOp (execPbcast d a m p) rfl rfl rfl h (decide_eq_true hp)
  · exact fun d a m p h hp => meets_of_crossOp (execVote d a m p) rfl rfl rfl h (decide_eq_true hp)
  · exact fun d a m p h => meets_of_crossOp (execRedl d a m p) rfl rfl rfl h rfl
  · exact fun d a m p h => meets_of_crossOp (execScanl d a m p) rfl rfl rfl h rfl

end Sys2Proof.LaneWords

/-!
# Branches, register growth, waits and ends (O11, O13, O15)

A word of these families comes to one result of its body, and the laws of issuing say what that result is. Stated here once
are the jump that branches, calls and returns share, the answers of REGGROW by the state of its core, and the words that
make their tray wait, go on or end.
-/

namespace Sys2Proof.ControlWords
open Sys2Proof.Machine Sys2Proof.Laws

section
variable {s : State} {c : Cur} {t : Tray} {ops : List Opnd} {body : Src → Tray → State → Res} {i : Instr}

/-! ### Branches, calls and returns (R131–R133) -/

/-- A jump goes to a legal target, or traps without an effect (R42, R44). -/
theorem issue_jump (h : Issuing s c t ops) {t1 : Tray} {target : Pc}
    (hb : body (c.src s t) (t.advance c) s = (c.src s t).jump (t.advance c) t1 s target) :
    issue ops s body = .next (if s.targetOk (c.key / 32) (c.src s t).t.ctx target
      then s.completed c t (t1.setPc c.path target) else s.trapped c t [.badtarget]) := by
  unfold Src.jump at hb
  split at hb
  case isTrue ht => exact (issue_ok h hb).trans (congrArg _ (if_pos ht).symm)
  case isFalse ht => exact (issue_trap h hb).trans (congrArg _ (if_neg ht).symm)

/-- A branch goes to its target where its condition holds. -/
theorem jumps_of_branch {disp : BitVec 15} {taken : Src → Bool} (run : State → Host.Outcome State Fault Refusal)
    (hi : exec i s = run s) (hr : run s = branch i s disp taken) :
    Jumps s c t i (taken (c.src s t)) true ((c.src s t).target disp) (t.advance c) := by
  intro h
  rw [hi, hr]
  cases ht : taken (c.src s t) with
  | true => exact issue_jump h (if_pos ht)
  | false => exact issue_ok h (if_neg (ht ▸ Bool.false_ne_true))

/-- A jump that is always taken, `t1` being the tray that makes it. -/
theorem jumps_of_jump {t1 : Tray} {target : Pc} (run : State → Host.Outcome State Fault Refusal) (hi : exec i s = run s)
    (hr : run s = issue i.opnds s body)
    (hb : body (c.src s t) (t.advance c) s = (c.src s t).jump (t.advance c) t1 s target) :
    Jumps s c t i true true target t1 := by
  intro h
  rw [hi, hr]
  exact issue_jump h hb

/-- A jump to the word address in a pair: one above 46 bits is no target (R132). -/
theorem jumps_of_jumpPair {t1 : Tray} {x : BitVec 7} (run : State → Host.Outcome State Fault Refusal) (hi : exec i s = run s)
    (hr : run s = issue i.opnds s body)
    (hb : body (c.src s t) (t.advance c) s = (c.src s t).jumpPair (t.advance c) t1 s x) :
    Jumps s c t i true (((c.src s t).s2 x).toNat < 2 ^ 46) (((c.src s t).s2 x).setWidth 46) t1 := by
  intro h
  rw [hi, hr]
  unfold Src.jumpPair at hb
  split at hb
  case isTrue hl =>
    rw [decide_eq_false (Nat.not_lt.mpr hl)]
    exact issue_trap h hb
  case isFalse hl =>
    rw [decide_eq_true (Nat.not_le.mp hl)]
    exact issue_jump h hb

/-- LOOP writes its counter less one, and branches where that is not zero (R133). -/
theorem loop_jumps (x : BitVec 7) (disp : BitVec 15) :
    Jumps s c t (.loop x disp) ((c.src s t).s x - 1 != 0) true ((c.src s t).target disp)
      ((t.advance c).setSreg c.path x.toNat ((c.src s t).s x - 1)) := by
  intro h
  change execLoop x disp s = _
  by_cases hn : (c.src s t).s x - 1 = 0
  · rw [bne_eq_false_iff_eq.mpr hn]
    exact issue_ok h (if_pos hn)
  · rw [bne_iff_ne.mpr hn]
    exact issue_jump h (if_neg hn)

/-! ### Register growth (R146–R149) -/

section
variable {b : SB}

/-- REGSHRINK to a legal count that is not above N. -/
theorem regshrink_legal (h : Issuing s c t (Instr.regshrink b).opnds) (h1 : (c.src s t).t.p1 = none)
    (hc : (c.src s t).chain = false) (hg : growLegal ((c.src s t).sb b).toNat = true)
    (hn : ((c.src s t).sb b).toNat ≤ (c.src s t).t.n) :
    exec (.regshrink b) s = .next (s.completed c t { t.advance c with
      n := ((c.src s t).sb b).toNat, vregs := t.vregs.filter fun e => e.1 < 96 * ((c.src s t).sb b).toNat,
      pend := t.pend.map fun p => { p with vdst := p.vdst.filter fun k => k < ((c.src s t).sb b).toNat } }) := by
  change execRegshrink b s = _
  refine issue_ok h ?_
  simp [h1, hc, hg, Nat.not_lt.mpr hn]

theorem regshrink_illegal (h : Issuing s c t (Instr.regshrink b).opnds) (hg : growLegal ((c.src s t).sb b).toNat = false) :
    RaisesEarly s c (.regshrink b) .illegal := by
  change execRegshrink b s = _
  exact issue_early h (by simp [hg])

theorem reggrow_illegal (h : Issuing s c t (Instr.reggrow b).opnds) (hg : growLegal ((c.src s t).sb b).toNat = false) :
    RaisesEarly s c (.reggrow b) .illegal := by
  change execReggrow b s = _
  exact issue_early h (by simp [hg])

/-- REGGROW to the count the tray has. -/
theorem reggrow_same (h : Issuing s c t (Instr.reggrow b).opnds) (h1 : (c.src s t).t.p1 = none)
    (hc : (c.src s t).chain = false) (hg : growLegal ((c.src s t).sb b).toNat = true)
    (hn : ((c.src s t).sb b).toNat = (c.src s t).t.n) : exec (.reggrow b) s = .next (s.completed c t (t.advance c)) := by
  change execReggrow b s = _
  exact issue_ok h (by simp [h1, hc, ← hn, hg])

/-- REGGROW beyond what a core can hold for one batch. -/
theorem reggrow_beyond (h : Issuing s c t (Instr.reggrow b).opnds) (h1 : (c.src s t).t.p1 = none)
    (hc : (c.src s t).chain = false) (hg : growLegal ((c.src s t).sb b).toNat = true)
    (hn : (c.src s t).t.n < ((c.src s t).sb b).toNat)
    (hm : 2048 < s.batchRegs t.batch + (((c.src s t).sb b).toNat - t.n)) : RaisesEarly s c (.reggrow b) .regovf := by
  change execReggrow b s = _
  exact issue_early h (by simp [h1, hc, hg, hn.not_gt, hn.ne', hm])

/-- REGGROW to a larger count that the batch may hold takes the registers, or waits for them at its word. -/
theorem reggrow_larger (h : Issuing s c t (Instr.reggrow b).opnds) (h1 : (c.src s t).t.p1 = none)
    (hc : (c.src s t).chain = false) (hg : growLegal ((c.src s t).sb b).toNat = true)
    (hn : (c.src s t).t.n < ((c.src s t).sb b).toNat)
    (hm : s.batchRegs t.batch + (((c.src s t).sb b).toNat - t.n) ≤ 2048) :
    if s.growQueue (c.key / 32) = [] ∧ s.regsUsed (c.key / 32) + (((c.src s t).sb b).toNat - t.n) ≤ 1984 then
      exec (.reggrow b) s = .next (s.completed c t { t.advance c with n := ((c.src s t).sb b).toNat })
    else exec (.reggrow b) s = .next ({ s with nextId := s.nextId + 1 }.completed c t { (t.advance c).setPc c.path c.pc with
      wait := .grow ((c.src s t).sb b).toNat s.nextId ((t.advance c).path c.path).pc }) := by
  change if _ then execReggrow b s = _ else execReggrow b s = _
  have hl : (s.growQueue (c.key / 32)).isEmpty && s.leavesReserve (c.key / 32) (((c.src s t).sb b).toNat - t.n) ↔
      s.growQueue (c.key / 32) = [] ∧ s.regsUsed (c.key / 32) + (((c.src s t).sb b).toNat - t.n) ≤ 1984 := by
    simp [State.leavesReserve]
  split
  case isTrue hr => exact issue_ok h (by simp [h1, hc, hg, hn.not_gt, hn.ne', hm.not_gt, hl.mpr hr])
  case isFalse hr => exact issue_ok h (by simp [h1, hc, hg, hn.not_gt, hn.ne', hm.not_gt, mt hl.mp hr])

end

/-- The grant of the oldest request of a core. -/
theorem reggrowGrant_oldest {core ord key n : Nat} {cont : Pc} {t' : Tray}
    (ho : oldestGrow (s.growQueue core) = some (ord, key, n, cont)) (ht : s.trays.get? key = some t')
    (hr : s.regsUsed core + (n - t'.n) ≤ 2048) :
    exec (.reggrowGrant core) s = .next (s.setTray key { t'.setPc 0 cont with n := n, wait := .run }) := by
  change execReggrowGrant core s = _
  simp only [execReggrowGrant, ho, ht, hr, if_true]

/-! ### NOP, barriers and waits (R39, R140–R145) -/

theorem nop_completes (h : Issuing s c t []) : exec .nop s = .next (s.completed c t (t.advance c)) := by
  change execNop s = _
  exact issue_ok h rfl

/-- A word whose tray is put first, with an act on the whole state after it. -/
theorem issue_settle (h : Issuing s c t ops) {t0 : Tray} {f : State → State}
    (hb : body (c.src s t) (t.advance c) s = (c.src s t).settle t0 s f) :
    issue ops s body = .next (s.completedBy c t t0 f) :=
  issue_ok h hb

theorem bar_waits (h : Issuing s c t []) (h1 : (c.src s t).t.p1 = none) :
    exec .bar s = .next (s.completedBy c t { (t.advance c).setPc c.path c.pc with wait := .bar }
      fun s => s.releaseBar t.batch) := by
  change execBar s = _
  refine issue_settle h ?_
  simp [h1]

theorem cbar_waits (h : Issuing s c t []) (h1 : (c.src s t).t.p1 = none) :
    exec .cbar s = .next (s.completedBy c t { (t.advance c).setPc c.path c.pc with wait := .cbar }
      fun s => s.releaseCbar (s.clusterIdOf t)) := by
  change execCbar s = _
  refine issue_settle h ?_
  simp [h1, State.clusterIdOf]

/-- With two path slots a barrier is illegal. -/
theorem bar_illegal (h : Issuing s c t []) (h1 : (c.src s t).t.p1 ≠ none) : RaisesEarly s c .bar .illegal := by
  change execBar s = _
  exact issue_early h (if_pos (Option.isSome_iff_ne_none.mpr h1))

theorem cbar_illegal (h : Issuing s c t []) (h1 : (c.src s t).t.p1 ≠ none) : RaisesEarly s c .cbar .illegal := by
  change execCbar s = _
  exact issue_early h (if_pos (Option.isSome_iff_ne_none.mpr h1))

/-- A word that completes, with the causes found, if any, set at the word where the path goes on. -/
theorem issue_raising (h : Issuing s c t ops) {t' : Tray} {s' : State} {cs : List Cause}
    (hb : body (c.src s t) (t.advance c) s = if cs.isEmpty then .ok t' s' else .later t' s' cs none) :
    issue ops s body = .next (s'.completedRaising c t t' cs none) := by
  cases cs with
  | nil => exact issue_ok h hb
  | cons k cs => exact issue_later h hb

section
variable {l st y m : BitVec 5}

theorem waitc_waits (h : Issuing s c t []) (hu : (c.src s t).t.under ⟨l.toNat, st.toNat, y.toNat, m.toNat⟩ = false) :
    exec (.waitc l st y m) s = .next s := by
  change execWaitc l st y m s = _
  exact issue_stay h (by simp only [hu]; rfl)

/-- WAITC with no counter above its limit joins the operations that it observes, and raises what they left (R143). -/
theorem waitc_joins (h : Issuing s c t []) {lim : Limits} (hl : lim = ⟨l.toNat, st.toNat, y.toNat, m.toNat⟩)
    (hu : (c.src s t).t.under lim = true) :
    exec (.waitc l st y m) s = .next ((s.join (c.key / 32) ((t.advance c).takeObs lim.observes).2).2.completedRaising c t
      (s.join (c.key / 32) ((t.advance c).takeObs lim.observes).2).1 ((t.advance c).takeObs lim.observes).1 none) := by
  subst hl
  change execWaitc l st y m s = _
  exact issue_raising h (by simp only [hu]; rfl)

end

section
variable {cond : BitVec 3} {p k : BitVec 7}

/-- YIELD with a legal continuation and a condition that does not hold waits at its word. -/
theorem yield_waits (h : Issuing s c t (Instr.yield cond p k).opnds) (h1 : (c.src s t).t.p1 = none)
    (hk : ((c.src s t).s2 k).toNat < 2 ^ 46)
    (ht : s.targetOk (c.key / 32) t.ctx (((c.src s t).s2 k).setWidth 46) = true) {q : Word × Word}
    (hq : s.yieldParams (c.src s t) cond p = q)
    (hw : s.wakeCheck (c.key / 32) (t.advance c) cond.toNat q.1 q.2 false = .waits) :
    exec (.yield cond p k) s = .next (s.completed c t { (t.advance c).setPc c.path c.pc with
      wait := .yield cond.toNat q.1 q.2 (((c.src s t).s2 k).setWidth 46) none }) := by
  subst hq
  change execYield cond p k s = _
  refine issue_ok h ?_
  simp only [h1, src_key, hw, decide_eq_false hk.not_ge, advance_ctx, ht, Option.isSome_none, Bool.not_true, Bool.or_self,
    Bool.false_eq_true, reduceCtorEq, if_false]
  rfl

/-- YIELD with a condition that holds completes at its continuation, as a wake leaves the tray. -/
theorem yield_ready (h : Issuing s c t (Instr.yield cond p k).opnds) (h1 : (c.src s t).t.p1 = none)
    (hk : ((c.src s t).s2 k).toNat < 2 ^ 46)
    (ht : s.targetOk (c.key / 32) t.ctx (((c.src s t).s2 k).setWidth 46) = true) {q : Word × Word}
    (hq : s.yieldParams (c.src s t) cond p = q) {cs : List Cause} {v : Word} {scope : Option Nat}
    (hw : s.wakeCheck (c.key / 32) (t.advance c) cond.toNat q.1 q.2 false = .ready cs v scope) {d : Tray × State}
    (hd : s.wakeDone (c.key / 32) (t.advance c) cond.toNat q.1 scope = d) :
    exec (.yield cond p k) s =
      .next (d.2.completedRaising c t (d.1.setPc c.path (((c.src s t).s2 k).setWidth 46)) cs none) := by
  subst hq hd
  change execYield cond p k s = _
  refine issue_raising h ?_
  simp only [h1, src_key, hw, decide_eq_false hk.not_ge, advance_ctx, ht, Option.isSome_none, Bool.not_true, Bool.or_self,
    Bool.false_eq_true, reduceCtorEq, if_false]
  rfl

end

@[simp] theorem wakeClock_trays (cond : Nat) (p0 p1 : Word) : (s.wakeClock cond p0 p1).trays = s.trays := by
  unfold State.wakeClock
  split <;> rfl

/-- The 64 clocks of a wake from NONE pass once: a wake from where they have passed lets no more pass. -/
theorem wakeClock_wakeClock (cond : Nat) (p0 p1 : Word) :
    (s.wakeClock cond p0 p1).wakeClock cond p0 p1 = s.wakeClock cond p0 p1 := by
  by_cases h : cond = 0 ∧ (pair p0 p1 - s.now).toNat ≤ 64
  · have hs : s.wakeClock cond p0 p1 = { s with now := pair p0 p1 } := if_pos h
    rw [hs]
    exact if_pos ⟨h.1, by simp⟩
  · have hs : s.wakeClock cond p0 p1 = s := if_neg h
    rw [hs, hs]

/-- The wake of a yielded tray whose condition holds and raises nothing. -/
theorem yieldWake_ready {key : Nat} {t' : Tray} {cond : Nat} {p0 p1 v : Word} {cont : Pc} {scope : Option Nat}
    (ht : s.trays.get? key = some t') (hw : t'.wait = .yield cond p0 p1 cont none) (hl : t'.leave = none)
    {s1 : State} (hs : s.wakeClock cond p0 p1 = s1) (hr : s1.wakeCheck (key / 32) t' cond p0 p1 true = .ready [] v scope)
    {d : Tray × State} (hd : s1.wakeDone (key / 32) { t'.setPc 0 cont with wait := .run } cond p0 scope = d) :
    exec (.yieldWake key) s = .next (d.2.setTray key d.1) := by
  subst hs hd
  change execYieldWake key s = _
  simp only [execYieldWake, ht, hw, hl, hr]
  rfl

/-! ### The end of threads (R138, R139) -/

theorem advance_path_pc (t : Tray) (c : Cur) : ((t.advance c).path c.path).pc = c.after :=
  congrArg Path.pc (setPath_path_same t c.path _)

/-- Threads that exit leave each slot at its word. -/
theorem exitThreads_path_pc (t : Tray) (m : Mask) (i : Nat) : ((t.exitThreads m).path i).pc = (t.path i).pc := by
  unfold Tray.path
  split
  · rfl
  · have hp : (t.exitThreads m).p1 = t.p1.map fun p => { p with mask := p.mask &&& (t.live &&& ~~~m) } := rfl
    rw [hp]
    cases t.p1 <;> rfl

/-- The tray after its threads of the mask have exited from slot `i`, whose mask is zero, before the slot goes on. -/
def exitSlot (a : Tray) (i : Nat) (m : Mask) : Tray :=
  (a.exitThreads m).setPath i { (a.exitThreads m).path i with mask := 0 }

theorem exitSlot_path_pc (t : Tray) (c : Cur) (m : Mask) : ((exitSlot (t.advance c) c.path m).path c.path).pc = c.after := by
  rw [exitSlot, setPath_path_same]
  exact (exitThreads_path_pc _ _ _).trans (advance_path_pc t c)

/-- What EXIT leaves in its tray: the slot of a dual-path tray goes on with its stack (R138). -/
def exited (s : State) (c : Cur) (t : Tray) : Tray :=
  let t1 := exitSlot (t.advance c) c.path (c.src s t).m0
  if (c.src s t).t.dual then t1.unwind c.path c.after 40 else t1

/-- With a live thread left the tray goes on (R138). -/
theorem exit_goesOn (h : Issuing s c t Instr.exit.opnds) (hl : (exited s c t).live ≠ 0) :
    exec .exit s = .next (s.completed c t (exited s c t)) := by
  have hp := exitSlot_path_pc t c (c.src s t).m0
  unfold exited at hl ⊢
  change execExit s = _
  refine issue_ok h ?_
  rw [← hp] at hl ⊢
  exact if_neg hl

/-- With no live thread left the tray ends (R139). -/
theorem exit_ends (h : Issuing s c t Instr.exit.opnds) (hl : (exited s c t).live = 0) :
    exec .exit s = .next (s.completedBy c t (exited s c t) fun s => s.trayEnds c.key) := by
  have hp := exitSlot_path_pc t c (c.src s t).m0
  unfold exited at hl ⊢
  change execExit s = _
  refine issue_settle h ?_
  rw [← hp] at hl ⊢
  exact if_pos hl

end

/-! ### The obligations -/

/-- Settles O11: each instruction is a branch, a jump to a displacement or a jump to a pair, and LOOP a branch that writes its
counter first. -/
theorem branchResults : Obligations.BranchResults := by
  unfold Obligations.BranchResults
  intro s c t
  refine ⟨?_, ?_, ?_, ?_, ?_, ?_, ?_, ?_, ?_, ?_⟩
  · exact fun disp => jumps_of_branch (execBra disp) rfl rfl
  · exact fun x disp => jumps_of_branch (execBz x disp) rfl rfl
  · exact fun x disp => jumps_of_branch (execBnz x disp) rfl rfl
  · exact fun x disp => jumps_of_branch (execBzm x disp) rfl rfl
  · exact fun x disp => jumps_of_branch (execBnzm x disp) rfl rfl
  · exact fun x disp => loop_jumps x disp
  · exact fun disp => jumps_of_jump (execCall disp) rfl rfl rfl
  · exact fun x => jumps_of_jumpPair (execCalli x) rfl rfl rfl
  · exact fun x => jumps_of_jumpPair (execRet x) rfl rfl rfl
  · exact fun x => jumps_of_jumpPair (execJmpi x) rfl rfl rfl

/-- Settles O13: each word by the answer of its body that the count and the core's registers select. -/
theorem registerGrowthResults : Obligations.RegisterGrowthResults := by
  unfold Obligations.RegisterGrowthResults
  intro s c t
  refine ⟨fun b => regshrink_legal, fun b => reggrow_larger, fun b h h1 hc hg => ?_, fun b => reggrow_illegal,
    fun b => regshrink_illegal, fun core ord key n cont t' => reggrowGrant_oldest⟩
  exact ⟨reggrow_same h h1 hc hg, reggrow_beyond h h1 hc hg⟩

/-- Settles O15: each word by the answer of its body that its condition selects, and the wake by the condition it finds. -/
theorem waitAndEndResults : Obligations.WaitAndEndResults := by
  unfold Obligations.WaitAndEndResults
  intro s c t
  refine ⟨nop_completes, bar_waits, cbar_waits, fun h h1 => ⟨bar_illegal h h1, cbar_illegal h h1⟩, fun l st y m h => ?_,
    fun cond p k h h1 hk ht => ?_, fun key t' cond p0 p1 cont v scope ht hw hl hr => ?_, fun h => ?_⟩
  · exact ⟨waitc_waits h, waitc_joins h rfl⟩
  · exact ⟨yield_waits h h1 hk ht rfl, fun cs v scope hw => yield_ready h h1 hk ht rfl hw rfl⟩
  · rw [← wakeClock_trays cond p0 p1] at ht
    exact yieldWake_ready ht hw hl (wakeClock_wakeClock cond p0 p1) hr rfl
  · exact ⟨exit_goesOn h, exit_ends h⟩

end Sys2Proof.ControlWords

/-!
# Caches with nothing to merge (O20, O23)

While no line has partials a request at a home moves directory entries and counters, and leaves memory (R205, R206). A copy
that an update grants has no element yet (R207), so that the requests keep what they rest on: no copy has an element to
merge. `Still s0 s` says this of s together with what it has in common with s0; a function of the model that keeps it has one
lemma, named `still_f`.
-/

namespace Sys2Proof.QuietCaches
open Sys2Proof.Machine Sys2Proof.Laws

/-- No copy of a line has an element to merge. -/
def LineMerged (l : Line) : Prop := ∀ e ∈ l, e.2.st = .u → e.2.part = []

/-- No copy in the dies' caches has an element to merge. -/
def Merged (s : State) : Prop := ∀ e ∈ s.lines, LineMerged e.2

/-- Every context has the parent and the monitors that it has in the other state. -/
def SameTree (s0 s : State) : Prop :=
  ∀ a, (s.ctx a).parent = (s0.ctx a).parent ∧ (s.ctx a).monitors = (s0.ctx a).monitors

/-- State s has the memory, the context tree and the monitors of s0, and its caches have nothing to merge. -/
structure Still (s0 s : State) : Prop where
  mem : s.mem = s0.mem
  merged : Merged s
  tree : SameTree s0 s

/-! ### Lines -/

/-- A record that is found is an entry of its map. -/
theorem mem_of_get {α : Type} {m : KMap α} {k : Nat} {v : α} (h : m.get? k = some v) : (k, v) ∈ m := by
  induction m with
  | nil => cases h
  | cons e r ih =>
    obtain ⟨k', v'⟩ := e
    unfold KMap.get? at h
    split_ifs at h with hk
    · cases h
      simp [hk]
    · exact List.mem_cons_of_mem _ (ih h)

theorem lineMerged_nil : LineMerged [] := fun _ he => nomatch he

theorem lineMerged_filter {l : Line} (h : LineMerged l) (p : Nat × DieCopy → Bool) : LineMerged (l.filter p) :=
  fun e he => h e (List.mem_of_mem_filter he)

theorem lineMerged_put {l : Line} (h : LineMerged l) {die : Nat} {c : DieCopy} (hc : c.st = .u → c.part = []) :
    LineMerged (KMap.put l die c) := by
  intro e he
  rcases mem_put l die c e he with rfl | he
  · exact hc
  · exact h e he

/-- A map of the copies that puts none in U and leaves their elements. -/
theorem lineMerged_all {l : Line} (h : LineMerged l) {f : Nat → DieCopy → DieCopy}
    (hf : ∀ k c, ((f k c).st = .u → c.st = .u) ∧ (f k c).part = c.part) : LineMerged (KMap.all' l f) := by
  intro e he hu
  obtain ⟨x, hx, rfl⟩ := List.mem_map.mp he
  obtain ⟨hst, hpart⟩ := hf x.1 x.2
  exact hpart.trans (h x hx (hst hu))

theorem lineMerged_of_get {s : State} (h : Merged s) (ln : Nat) : LineMerged ((s.lines.get? ln).getD []) := by
  cases hl : s.lines.get? ln with
  | none => exact lineMerged_nil
  | some l => exact h _ (mem_of_get hl)

theorem part_of_copyAt {s : State} (h : Merged s) {ln die : Nat} {c : DieCopy} (hc : s.copyAt ln die = some c) :
    c.st = .u → c.part = [] :=
  lineMerged_of_get h ln _ (mem_of_get hc)

theorem merged_of_noPartials {s : State} (h : s.noPartials) : Merged s := fun e he k hk hu => absurd hu (h e he k hk)

/-! ### The context tree -/

theorem SameTree.trans {s0 s1 s2 : State} (h : SameTree s0 s1) (h' : SameTree s1 s2) : SameTree s0 s2 :=
  fun a => ⟨(h' a).1.trans (h a).1, (h' a).2.trans (h a).2⟩

/-- Contexts changed elsewhere than in parent and monitors. -/
theorem sameTree_onCtx (s : State) (c : Nat) {f : Ctx → Ctx}
    (hf : ∀ t, (f t).parent = t.parent ∧ (f t).monitors = t.monitors) : SameTree s (s.onCtx c f) := by
  intro a
  unfold State.ctx State.onCtx
  rw [get_upd]
  by_cases ha : a = c
  · subst ha
    cases s.ctxs.get? a with
    | none => simp
    | some t => simpa using hf t
  · simp [ha]

theorem lineage_of_sameTree {s0 s : State} (h : SameTree s0 s) (c : Nat) : s.lineage c = s0.lineage c := by
  have hgo : ∀ n c, State.lineage.go s n c = State.lineage.go s0 n c := by
    intro n
    induction n with
    | zero => exact fun _ => rfl
    | succ n ih =>
      intro c
      simp only [State.lineage.go, (h c).1, ih]
  exact hgo 7 c

theorem unwatched_of_sameTree {s0 s : State} (h : SameTree s0 s) {c : Nat} (hu : s0.unwatched c) : s.unwatched c := by
  intro a ha
  rw [lineage_of_sameTree h] at ha
  exact (h a).2.trans (hu a ha)

/-! ### Operations of the homes (R173–R177, R205–R208) -/

section
variable {s0 s : State} {die ctx ln pri op w : Nat} {mask pf : BitVec 4}

theorem Still.refl (h : Merged s) : Still s s := ⟨rfl, h, fun _ => ⟨rfl, rfl⟩⟩

/-- What leaves memory, lines and contexts as they are. -/
theorem Still.same (h : Still s0 s) {s' : State} (hm : s'.mem = s.mem) (hl : s'.lines = s.lines)
    (hc : s'.ctxs = s.ctxs) : Still s0 s' := by
  refine ⟨hm.trans h.mem, ?_, fun a => ?_⟩
  · unfold Merged
    rw [hl]
    exact h.merged
  · unfold State.ctx
    rw [hc]
    exact h.tree a

theorem still_cacheTick (h : Still s0 s) {n : Nat} : Still s0 { s with cacheTick := n } := h.same rfl rfl rfl

theorem still_foldl {α : Type} {f : State → α → State} {l : List α} (h : Still s0 s)
    (hf : ∀ s a, Still s0 s → Still s0 (f s a)) : Still s0 (l.foldl f s) :=
  List.foldlRecOn l f h fun _ hs _ _ => hf _ _ hs

theorem still_onCore (h : Still s0 s) {core : Nat} {f : Core → Core} : Still s0 (s.onCore core f) := h.same rfl rfl rfl

theorem still_setLine (h : Still s0 s) {l : Line} (hl : LineMerged l) : Still s0 (s.setLine ln l) := by
  refine ⟨h.mem, fun e he => ?_, h.tree⟩
  unfold State.setLine at he
  dsimp only at he
  split at he
  · exact h.merged e (List.mem_of_mem_filter he)
  · rcases mem_put _ _ _ _ he with rfl | he
    · exact hl
    · exact h.merged e he

theorem applyPartial_nil {c : DieCopy} (hc : c.part = []) : s.applyPartial ln c = s := by
  unfold State.applyPartial
  rw [hc]
  rfl

/-- The partials of a line without elements change nothing. -/
theorem foldl_applyPartial {l : Line} (h : LineMerged l) :
    l.foldl (fun s e => if e.2.st == .u then s.applyPartial ln e.2 else s) s = s := by
  induction l with
  | nil => rfl
  | cons e r ih =>
    have hr : LineMerged r := fun x hx => h x (List.mem_cons_of_mem _ hx)
    have he : (if e.2.st == .u then s.applyPartial ln e.2 else s) = s := by
      split_ifs with hu
      · exact applyPartial_nil (h e List.mem_cons_self (eq_of_beq hu))
      · rfl
    rw [List.foldl_cons, he, ih hr]

/-- A merge moves nothing that a write and a change of a directory entry leave alone. -/
theorem mergeLine_keeps {α : Type} {f : State → α} (hw : ∀ s pa n v, f (s.wr pa n v) = f s)
    (hl : ∀ s ln l, f (s.setLine ln l) = f s) : f (s.mergeLine ln) = f s := by
  have hp : ∀ s c, f (s.applyPartial ln c) = f s := fun s c =>
    List.foldlRecOn (motive := fun q => f q = f s) _ _ rfl fun q hq e _ => (hw q _ _ _).trans hq
  unfold State.mergeLine
  split
  · rfl
  · rename_i l _
    split
    · rw [hl]
      refine List.foldlRecOn (motive := fun q => f q = f s) l _ rfl fun q hq e _ => ?_
      split
      · exact (hp q e.2).trans hq
      · exact hq
    · rfl

theorem still_mergeLine (h : Still s0 s) : Still s0 (s.mergeLine ln) := by
  unfold State.mergeLine
  split
  · exact h
  · rename_i l hl
    have hm : LineMerged l := h.merged _ (mem_of_get hl)
    split
    · rw [foldl_applyPartial hm]
      exact still_setLine h (lineMerged_filter hm _)
    · exact h

theorem still_count (h : Still s0 s) {k n : Nat} : Still s0 (s.count ctx k n) := by
  unfold State.count
  split
  · exact h
  · exact ⟨h.mem, h.merged, h.tree.trans (sameTree_onCtx s ctx fun _ => ⟨rfl, rfl⟩)⟩

theorem still_homeEvict (h : Still s0 s) : Still s0 (s.homeEvict die ln) := by
  unfold State.homeEvict
  split
  · exact h
  · rename_i c hc
    have he : (if c.st == .u then s.applyPartial ln c else s) = s := by
      split_ifs with hu
      · exact applyPartial_nil (part_of_copyAt h.merged hc (eq_of_beq hu))
      · rfl
    rw [he]
    exact still_setLine h (lineMerged_filter (lineMerged_of_get h.merged ln) _)

theorem still_takeWay (h : Still s0 s) {bank : Nat} : Still s0 (s.takeWay ctx bank ln).2 := by
  unfold State.takeWay
  extract_lets mask set free
  clear_value free
  split
  · exact h
  · cases free with
    | some w => exact h
    | none =>
      dsimp only
      split
      · exact still_homeEvict h
      · exact h

theorem still_allocate (h : Still s0 s) {st : CopyState} : Still s0 (s.allocate die ctx ln st pri op w pf) := by
  unfold State.allocate
  dsimp only
  split
  · have hw : Still s0 (s.takeWay ctx (s.bankFor ctx die ln) ln).2 := still_takeWay h
    revert hw
    generalize s.takeWay ctx (s.bankFor ctx die ln) ln = q
    obtain ⟨way, s1⟩ := q
    intro hw
    refine still_setLine (still_cacheTick hw) (lineMerged_put (lineMerged_of_get hw.merged ln) ?_)
    exact fun _ => rfl
  · exact h

theorem touch_st (c : DieCopy) (ctx pri tick : Nat) : (c.touch ctx pri tick).st = c.st := by
  unfold DieCopy.touch
  split <;> rfl

theorem touch_part (c : DieCopy) (ctx pri tick : Nat) : (c.touch ctx pri tick).part = c.part := by
  unfold DieCopy.touch
  split <;> rfl

theorem still_homeHit (h : Still s0 s) {demand : Bool} {c : DieCopy} (hc : c.st = .u → c.part = []) :
    Still s0 (s.homeHit die ctx ln pri mask demand c) := by
  unfold State.homeHit
  dsimp only
  refine still_count (still_count (still_count (still_setLine (still_cacheTick h) ?_)))
  refine lineMerged_put (lineMerged_of_get h.merged ln) fun hu => ?_
  rw [touch_st] at hu
  rw [touch_part]
  exact hc hu

theorem still_streamSee (h : Still s0 s) {miss : Bool} {page : Option (Nat × Nat)} :
    Still s0 (s.streamSee die ctx ln miss page) := by
  unfold State.streamSee
  split
  · exact h
  · split
    · exact h
    · exact h.same rfl rfl rfl

theorem still_homeOwn (h : Still s0 s) {page : Option (Nat × Nat)} : Still s0 (s.homeOwn die ctx ln pri mask page) := by
  unfold State.homeOwn
  have hm : Still s0 (s.mergeLine ln) := still_mergeLine h
  dsimp only
  split
  · rename_i c hc
    have hh := still_homeHit (die := die) (ctx := ctx) (ln := ln) (pri := pri) (mask := mask) (demand := true) hm
      (part_of_copyAt hm.merged hc)
    refine still_streamSee ?_
    split
    · refine still_setLine hh fun e he hu => ?_
      rw [List.mem_singleton.mp he] at hu
      cases hu
    · exact hh
  · refine still_streamSee (still_allocate (still_setLine ?_ lineMerged_nil))
    split
    · exact still_count hm
    · exact hm

theorem still_homeAtomic (h : Still s0 s) : Still s0 (s.homeAtomic ln) := still_setLine (still_mergeLine h) lineMerged_nil

theorem still_homeUpdate (h : Still s0 s) : Still s0 (s.homeUpdate die ctx ln op w) := by
  unfold State.homeUpdate
  extract_lets old other s1 l
  have h1 : Still s0 s1 := by
    unfold s1
    split
    · exact still_mergeLine h
    · exact h
  have hl : LineMerged l := lineMerged_filter (lineMerged_of_get h1.merged ln) _
  clear_value old
  split
  · exact h
  · cases old with
    | some c => exact still_setLine h1 (lineMerged_put hl fun _ => rfl)
    | none => exact still_allocate (still_setLine h1 hl)

end

/-! ### Writes

`Beside P s0 s` lets memory change outside the addresses P; `beside_f` is the lemma of a function f that writes. -/

/-- State s has the bytes of s0 at the addresses P, its context tree and its monitors, and caches with nothing to merge. -/
structure Beside (P : Nat → Prop) (s0 s : State) : Prop where
  bytes : ∀ b, P b → smGet s.mem b = smGet s0.mem b
  merged : Merged s
  tree : SameTree s0 s

/-- The addresses P all lie outside n bytes from address pa. -/
def Misses (P : Nat → Prop) (pa n : Nat) : Prop := ∀ b, P b → b < pa ∨ pa + n ≤ b

/-- They lie outside the stamps of the leaf entries that translate an address (R222). -/
def MissesStamps (P : Nat → Prop) (x : Xl) : Prop := ∀ e ∈ x.levels, Misses P e.2 4

section
variable {P : Nat → Prop} {s0 s s' : State}

theorem Still.beside (h : Still s0 s) : Beside P s0 s := ⟨fun _ _ => by rw [h.mem], h.merged, h.tree⟩

theorem Beside.still (h : Beside P s0 s) (hs : Still s s') : Beside P s0 s' :=
  ⟨fun b hb => by rw [hs.mem, h.bytes b hb], hs.merged, h.tree.trans hs.tree⟩

theorem bytes_wr (h : ∀ b, P b → smGet s.mem b = smGet s0.mem b) {pa n : Nat} (hp : Misses P pa n) (v : Nat) :
    ∀ b, P b → smGet (s.wr pa n v).mem b = smGet s0.mem b := by
  intro b hb
  have hout := hp b hb
  rw [wr_byte, if_neg (by omega), h b hb]

theorem beside_wr (h : Beside P s0 s) {pa n : Nat} (hp : Misses P pa n) {v : Nat} : Beside P s0 (s.wr pa n v) :=
  ⟨bytes_wr h.bytes hp v, h.merged, h.tree⟩

theorem beside_homeAtomic (h : Beside P s0 s) {ln : Nat} : Beside P s0 (s.homeAtomic ln) :=
  h.still (still_homeAtomic (.refl h.merged))

theorem beside_remoteWr (h : Beside P s0 s) {c pa : Nat} {d : List (Byte × Bool)} : Beside P s0 (s.remoteWr c pa d) :=
  ⟨h.bytes, h.merged, h.tree⟩

theorem beside_onCore (h : Beside P s0 s) {core : Nat} {f : Core → Core} : Beside P s0 (s.onCore core f) :=
  ⟨h.bytes, h.merged, h.tree⟩

theorem beside_tblWr (h : Beside P s0 s) {c pa n v : Nat} (hp : Misses P pa n) : Beside P s0 (s.tblWr c pa n v) := by
  unfold State.tblWr
  split
  · exact beside_remoteWr h
  · exact beside_wr (beside_homeAtomic h) hp

theorem beside_stamp (h : Beside P s0 s) {c : Nat} {x : Xl} {step : Word} (hx : MissesStamps P x) :
    Beside P s0 (s.stamp c x step) := by
  refine List.foldlRecOn x.levels _ h fun s hs e he => ?_
  extract_lets v
  split
  · exact beside_tblWr hs (hx e he)
  · exact hs

theorem beside_stampTlb (h : Beside P s0 s) {core c a : Nat} {x : Xl} {step : Word} (hx : MissesStamps P x) :
    Beside P s0 (s.stampTlb core c a x step) := by
  unfold State.stampTlb
  split
  · exact beside_stamp h hx
  · split
    · exact h
    · exact beside_onCore (beside_stamp h hx)

theorem beside_putAt (h : Beside P s0 s) {core c n v : Nat} {x : Xl} (hp : Misses P x.pa n) :
    Beside P s0 (s.putAt core c x n v) := by
  unfold State.putAt
  split
  · exact beside_remoteWr h
  · split
    · exact h
    · exact beside_wr h hp

/-- A store keeps the bytes outside those that it writes and its stamps (R162, R222). -/
theorem beside_storeAt (h : Beside P s0 s) {core c th ea n v : Nat} {step : Word} {x : Xl} (hp : Misses P x.pa n)
    (hx : MissesStamps P x) : Beside P s0 (s.storeAt core c step ⟨th, ea, .mem x⟩ n v) :=
  beside_putAt (beside_stampTlb h hx) hp

/-- A RED writes at its address or leaves an element in the die's copy, which memory does not show yet (R206, R207). -/
theorem bytes_redAt (h : Beside P s0 s) {die ctx op w pa v : Nat} {eligible : Bool} (hp : Misses P pa (atomSize w)) :
    ∀ b, P b → smGet (s.redAt die ctx op w pa v eligible).mem b = smGet s0.mem b := by
  have hu : Beside P s0 (s.homeUpdate die ctx (pa / 256) op w) := h.still (still_homeUpdate (.refl h.merged))
  unfold State.redAt
  extract_lets ln n home
  have hhome : ∀ s, Beside P s0 s → ∀ b, P b → smGet (home s).mem b = smGet s0.mem b :=
    fun s hs => (beside_wr (beside_homeAtomic hs) hp).bytes
  split
  · split
    · split
      · exact hu.bytes
      · exact hhome _ hu
    · exact hhome _ hu
  · exact hhome _ h

/-- An atomic or RED keeps the bytes outside its operand and its stamps (R166, R222). -/
theorem bytes_atomAt (h : Beside P s0 s) {core c op w v swp th ea : Nat} {step : Word} {red : Bool} {x : Xl}
    (hp : Misses P x.pa (atomSize w)) (hx : MissesStamps P x) :
    ∀ b, P b → smGet (s.atomAt core c step op w red ⟨th, ea, .mem x⟩ v swp).2.mem b = smGet s0.mem b := by
  have hs := beside_stampTlb (core := core) (c := c) (a := ea) (step := step) h hx
  unfold State.atomAt
  dsimp only
  split
  · exact hs.bytes
  · split
    · exact hs.bytes
    · split
      · exact bytes_redAt hs hp
      · exact (beside_wr (beside_homeAtomic hs) hp).bytes

end

end Sys2Proof.QuietCaches

/-!
# Completion of loads, stores and results (O23)
-/

namespace Sys2Proof.MemoryEvents
open Sys2Proof.Machine Sys2Proof.Laws Sys2Proof.QuietCaches

/-! ### A tray in which a result lands (R19, R142) -/

section
variable (t : Tray) (path i : Nat) (g : Nat) (l : List Pend) (x : Ctr)

/-- A path set with what it has still to do unchanged: the same operations are held. -/
theorem setPath_holdsGrp {p : Path} (hp : p.redo = (t.path i).redo) :
    { t.setPath i p with pend := l }.holdsGrp g = { t with pend := l }.holdsGrp g := by
  unfold Tray.setPath Tray.path at *
  by_cases hi : i = 0
  · simp_all [Tray.holdsGrp, Path.redoes]
  · cases h1 : t.p1 <;> simp_all [Tray.holdsGrp, Path.redoes]

theorem land_holdsGrp (w : RegWrite) :
    { t.land path w with pend := l }.holdsGrp g = { t with pend := l }.holdsGrp g := by
  cases w with
  | v key v => rfl
  | s k v =>
    unfold Tray.land Tray.setSreg
    dsimp only
    split
    · rfl
    · split
      · exact setPath_holdsGrp t path g l rfl
      · rfl

theorem land_pend (w : RegWrite) : (t.land path w).pend = t.pend := by
  cases w with
  | v key v => rfl
  | s k v =>
    unfold Tray.land
    dsimp only
    split
    · rfl
    · exact setSreg_pend t path k v

theorem land_ctr (w : RegWrite) : (t.land path w).ctr x = t.ctr x := by
  cases w with
  | v key v => cases x <;> rfl
  | s k v =>
    unfold Tray.land
    dsimp only
    split
    · rfl
    · cases x <;> simp [Tray.ctr]

end

/-- The tray in which a pending operation's data has landed. -/
def landed (t : Tray) (p : Pend) : Tray := ((p.data.getD []).filter p.bound).foldl (fun t w => t.land p.path w) t

section
variable {t : Tray} {p : Pend} {k : Nat}

/-- What landing a register write leaves, landing them all leaves. -/
theorem landed_keeps {α : Type} {f : Tray → α} (hf : ∀ t w, f (t.land p.path w) = f t) : f (landed t p) = f t :=
  List.foldlRecOn (motive := fun q => f q = f t) _ _ rfl fun q hq w _ => (hf q w).trans hq

theorem complete_eq (hp : (t.pend.find? fun q => q.id == k) = some p) :
    t.complete k = { landed t p with pend := t.pend.filter fun q => q.id != k }.settleGrp
      (p.ctr.map fun c => (p.grp, c)) := by
  have hl : (landed t p).pend = t.pend := landed_keeps fun t w => land_pend t p.path w
  unfold Tray.complete
  simp only [hp]
  rw [← hl]
  rfl

/-- What has completed is pending no more. -/
theorem complete_pend (hp : (t.pend.find? fun q => q.id == k) = some p) :
    (t.complete k).pend = t.pend.filter fun q => q.id != k := by
  rw [complete_eq hp, settleGrp_pend]

/-- The counter falls where nothing of the counted instruction is left. -/
theorem complete_ctr (hp : (t.pend.find? fun q => q.id == k) = some p) {x : Ctr} (hx : p.ctr = some x) :
    (t.complete k).ctr x = t.ctr x -
      if { t with pend := t.pend.filter fun q => q.id != k }.holdsGrp p.grp then 0 else 1 := by
  have hg : { landed t p with pend := t.pend.filter fun q => q.id != k }.holdsGrp p.grp =
      { t with pend := t.pend.filter fun q => q.id != k }.holdsGrp p.grp :=
    landed_keeps (f := fun u => { u with pend := t.pend.filter fun q => q.id != k }.holdsGrp p.grp)
      fun t w => land_holdsGrp t p.path p.grp _ w
  have hc : (landed t p).ctr x = t.ctr x :=
    landed_keeps (f := fun u => u.ctr x) fun t w => land_ctr t p.path x w
  have hn : { landed t p with pend := t.pend.filter fun q => q.id != k }.ctr x = t.ctr x := by
    rw [← hc]
    cases x <;> rfl
  rw [complete_eq hp, hx]
  unfold Tray.settleGrp
  dsimp only [Option.map_some]
  rw [hg]
  split
  · exact hn
  · rw [setCtr_ctr_same, hn]

end

/-! ### The events -/

section
variable {s s0 : State} {key k : Nat} {t : Tray} {p : Pend}

theorem whenPend_eq (ht : s.trays.get? key = some t) (hp : (t.pend.find? fun q => q.id == k) = some p)
    (ok : Tray → Pend → Bool) (f : Tray → Pend → State) : s.whenPend key k ok f = if ok t p then f t p else s := by
  simp only [State.whenPend, ht, hp]

theorem still_l1Fill (h : Still s0 s) {core : Nat} {f : L1Fill} {busy : List Nat} : Still s0 (s.l1Fill core f busy) :=
  still_onCore (still_mergeLine h)

theorem l1Fill_trays {core : Nat} {f : L1Fill} {busy : List Nat} : (s.l1Fill core f busy).trays = s.trays :=
  mergeLine_keeps (f := State.trays) (fun _ _ _ _ => rfl) fun _ _ _ => rfl

theorem loadComplete_lands (ht : s.trays.get? key = some t) (hp : (t.pend.find? fun q => q.id == k) = some p)
    (hk : p.kind = .load) : ∃ s' : State, exec (.loadComplete key k) s = .next s' ∧
      s'.trays = s.trays.put key (t.complete k) ∧ (s.noPartials → s'.mem = s.mem) := by
  refine ⟨_, congrArg Host.Outcome.next ((whenPend_eq ht hp _ _).trans (if_pos (by simp [hk]))), ?_, fun hn => ?_⟩
  · exact List.foldlRecOn (motive := fun q : State => q.trays = s.trays.put key (t.complete k)) p.fills _ rfl
      fun q hq f _ => l1Fill_trays.trans hq
  · have h0 : Still s (s.setTray key (t.complete k)) := (Still.refl (merged_of_noPartials hn)).same rfl rfl rfl
    exact (still_foldl h0 fun _ _ h => still_l1Fill h).mem

theorem storeComplete_counts (ht : s.trays.get? key = some t) (hp : (t.pend.find? fun q => q.id == k) = some p)
    (hk : p.kind = .store) :
    exec (.storeComplete key k) s = .next (if s.rootsOut p then s else s.setTray key (t.complete k)) := by
  refine congrArg Host.Outcome.next ((whenPend_eq ht hp _ _).trans ?_)
  cases s.rootsOut p <;> simp [hk]

theorem engineResultLand_lands (ht : s.trays.get? key = some t) (hp : (t.pend.find? fun q => q.id == k) = some p)
    (hk : p.kind = .result) (hd : p.data ≠ none) :
    exec (.engineResultLand key k) s = .next (s.setTray key (t.complete k)) := by
  refine congrArg Host.Outcome.next ((whenPend_eq ht hp _ _).trans (if_pos ?_))
  simp [hk, Option.isSome_iff_ne_none.mpr hd]

end

/-- Settles O23: each event completes the operation it finds, which leaves nothing of it pending and lowers the counter with
the last of its instruction. -/
theorem memoryEventResults : Obligations.MemoryEventResults := by
  unfold Obligations.MemoryEventResults
  refine ⟨fun s key k t p ht hp => ?_, fun _ _ => rfl⟩
  refine ⟨loadComplete_lands ht hp, storeComplete_counts ht hp, engineResultLand_lands ht hp, ?_, fun x => complete_ctr hp⟩
  rw [complete_pend hp]
  exact List.all_eq_true.mpr fun q hq => (List.mem_filter.mp hq).2

end Sys2Proof.MemoryEvents

/-!
# Loads and stores (O18, O19, O20)

An access goes on in the state that its turn leaves, is noted in its tray, and the monitors' logs and the acquire of its
hint follow. Each of these has its lemmas first; a load is then one lemma for LD, LDW and LDV, and a scratchpad access one
for LDS and STS.
-/

namespace Sys2Proof.MemoryAccess
open Sys2Proof.Machine Sys2Proof.Laws Sys2Proof.EngineCommands Sys2Proof.QuietCaches

/-! ### Turns, logs and acquires (R199, R200, R204, R416) -/

section
variable {r : Src} {s s1 : State} {t : Tray} {sc : Prop} {cores : List Nat}

/-- An access goes on in the state that its turn leaves. -/
theorem goes_run [Decidable sc] (hg : r.Goes s sc cores s1) (go : State → Res) :
    (if sc then r.inTurn s cores go else go s) = go s1 := by
  rcases hg with ⟨hn, rfl⟩ | ⟨hs, n, hn, ho, hf, rfl⟩
  · exact if_neg hn
  · rw [if_pos hs, Src.inTurn]
    simp only [hn, ho, hf, Bool.false_eq_true, if_false, if_true]

/-- A turn is noted in its core alone. -/
theorem goes_cores (hg : r.Goes s sc cores s1) : s1 = { s with cores := s1.cores } := by
  rcases hg with ⟨-, rfl⟩ | ⟨-, n, -, -, -, rfl⟩ <;> rfl

theorem l1Has_done (s : State) (k core sector : Nat) (n : DWord) :
    (s.onCore k fun c => { c with done := n }).l1Has core sector = s.l1Has core sector := by
  unfold State.l1Has
  rw [onCore_cores, get_upd]
  split_ifs with h
  · subst h
    cases s.cores.get? core <;> rfl
  · rfl

/-- The turn of a load leaves the sectors that it has to fetch. -/
theorem goes_newFills (hg : r.Goes s sc cores s1) (core : Nat) (q : List Req) : s1.newFills core q = s.newFills core q := by
  rcases hg with ⟨-, rfl⟩ | ⟨-, n, -, -, -, rfl⟩
  · rfl
  · unfold State.newFills
    simp only [l1Has_done]
    rfl

theorem unwatched_of_ctxs (h : s1.ctxs = s.ctxs) {c : Nat} (hu : s.unwatched c) : s1.unwatched c := by
  refine unwatched_of_sameTree (fun a => ?_) hu
  unfold State.ctx
  rw [h]
  exact ⟨rfl, rfl⟩

theorem logAccess_unwatched {c : Nat} (hu : s.unwatched c) (core slot : Nat) (k : AccKind) (va n : Nat) :
    s.logAccess c core slot k va n = (false, s) := by
  refine List.foldlRecOn (motive := fun q => q = (false, s)) _ _ rfl fun q hq a ha => ?_
  rw [hu a ha]
  exact hq

/-- Where no monitor watches, the log changes nothing. -/
theorem log_unwatched {x : Nat} (hx : t.ctx = x) (hu : s.unwatched x) (k : AccKind) (l : List Lane) (n : Nat) :
    (r.log t s k l n).2 = s := by
  subst hx
  refine List.foldlRecOn (motive := fun q : Bool × State => q.2 = s) l _ rfl fun q hq x _ => ?_
  rw [hq, logAccess_unwatched hu]

theorem acquire_form (core scope : Nat) : s.acquire core t scope = { s with cores := (s.acquire core t scope).cores } := by
  unfold State.acquire
  split <;> rfl

/-- An acquire, where there is one, leaves what is no core's. -/
theorem ite_acquire_keeps {α : Type} {f : State → α} (hf : ∀ s k, f { s with cores := k } = f s) (p : Prop) [Decidable p]
    (core scope : Nat) : f (if p then s.acquire core t scope else s) = f s := by
  split
  · rw [acquire_form, hf]
  · rfl

theorem finish_ok {k : Checked} (h : k.park = none) (x : Ctr) (wr : Bool) : k.finish x t s wr = .ok t s := by
  unfold Checked.finish
  rw [h]

/-- Without a park there is no access left out. -/
theorem not_empty_parked {k : Checked} (h : k.park = none) : ¬(k.ok.isEmpty && k.park.isSome) = true := by
  simp [h]

@[simp] theorem clusterFor_advance (c : Cur) : s.clusterFor (t.advance c) = s.clusterFor t := by
  simp [State.clusterFor]

@[simp] theorem clusterIdOf_advance (c : Cur) : s.clusterIdOf (t.advance c) = s.clusterIdOf t := by
  simp [State.clusterIdOf]

end

/-! ### What an access leaves in its tray (R142, R162) -/

section
variable {r : Src} {t t' : Tray}

/-- A counted access is noted in the tray that has counted it. -/
theorem addPend_counted (x : Ctr) (kind : PendKind) (vd : List Nat) (data : Option (List RegWrite)) (fills : List L1Fill)
    (entries : Nat) (pc : Pc) (homes roots : List Nat) :
    t.addPend kind r.i (some x) [] vd data fills entries pc homes r.grp roots = { r.counted t x with
      pend := t.pend ++ [⟨t.nextPend, kind, r.i, [], vd, data, some x, fills, entries, pc, homes,
        (r.grp.map (·.1)).getD t.nextPend, roots⟩]
      nextPend := t.nextPend + 1 } := by
  cases h : r.grp <;> simp [Tray.addPend, Src.counted, h]

theorem addPend_ctx (x : Ctr) (kind : PendKind) (vd : List Nat) (data : Option (List RegWrite)) (fills : List L1Fill)
    (entries : Nat) (pc : Pc) (homes roots : List Nat) :
    (t.addPend kind r.i (some x) [] vd data fills entries pc homes r.grp roots).ctx = t.ctx := by
  rw [addPend_counted]
  exact counted_ctx r t x

theorem loadSent_addPend {vd : List Nat} {data : List RegWrite} {fills : List L1Fill} {entries : Nat} {pc : Pc}
    {homes : List Nat} {w : Bool}
    (h : t' = { t.addPend .load r.i (some .loads) [] vd (some data) fills entries pc homes r.grp with watch := w }) :
    LoadSent r t t' vd data := by
  rw [addPend_counted] at h
  exact ⟨_, w, h, rfl, rfl, rfl, rfl, rfl, rfl, rfl⟩

/-- The tray of a store that writes the ROOT of the contexts named. -/
def storeTray (r : Src) (t : Tray) (roots : List Nat) : Tray :=
  t.addPend .store r.i (some .stores) [] [] none (grp := r.grp) (roots := roots)

theorem storeTray_ctx (r : Src) (t : Tray) (roots : List Nat) : (storeTray r t roots).ctx = t.ctx := addPend_ctx ..

theorem storeSent_storeTray {roots : List Nat} {w : Bool} {o : List (Ctr × Cause)}
    (h : t' = { storeTray r t roots with watch := w, obs := o }) : StoreSent r t t' := by
  unfold storeTray at h
  rw [addPend_counted] at h
  exact ⟨_, w, o, h, rfl, rfl, rfl, rfl, rfl, rfl, rfl⟩

theorem storeTray_sent (roots : List Nat) : StoreSent r t (storeTray r t roots) :=
  storeSent_storeTray (w := (storeTray r t roots).watch) (o := (storeTray r t roots).obs) rfl

/-- A store leaves the traps and the park of its group as they are. -/
theorem storeSent_due {c : Cur} (h : StoreSent r (t.advance c) t') : t'.traps = t.traps ∧ t'.resumeAt = t.resumeAt := by
  obtain ⟨p, w, o, rfl, -⟩ := h
  have ht : (r.counted (t.advance c) .stores).traps = (t.advance c).traps := counted_keeps r _ _ fun _ => by simp
  have hr : (r.counted (t.advance c) .stores).resumeAt = (t.advance c).resumeAt := counted_keeps r _ _ fun _ => by simp
  exact ⟨ht.trans (advance_traps t c), hr.trans (advance_resumeAt t c)⟩

end

/-- A word whose body comes to its effects completes with them. -/
theorem completes_of_body {s : State} {c : Cur} {t : Tray} {i : Instr} {body : Src → Tray → State → Res}
    {P : Tray → State → Prop} (run : State → Host.Outcome State Fault Refusal) (hi : exec i s = run s)
    (hr : run s = issue i.opnds s body) (hs : Issuing s c t i.opnds)
    (hb : ∃ t' s', body (c.src s t) (t.advance c) s = .ok t' s' ∧ P t' s') :
    ∃ t' s', exec i s = .next (s'.completed c t t') ∧ P t' s' := by
  obtain ⟨t', s', hbody, hP⟩ := hb
  exact ⟨t', s', hi.trans (hr.trans (issue_ok hs hbody)), hP⟩

/-- A word after which nothing is due leaves memory when its group ends. -/
theorem completed_mem {s : State} {c : Cur} {t t' : Tray} (hd : NothingDue c t) (ht : t'.traps = t.traps)
    (hr : t'.resumeAt = t.resumeAt) : (s.completed c t t').mem = s.mem := by
  rcases hd with hc | ⟨h1, h2⟩
  · rw [completed_tied hc]
    rfl
  · have ht' : (t'.doneFrom t c.path).traps = [] := by rw [Tray.doneFrom, settleGrp_traps, ht, h1]
    have hr' : (t'.doneFrom t c.path).resumeAt = none := by rw [Tray.doneFrom, settleGrp_resumeAt, hr, h2]
    unfold State.completed State.finish
    split
    · rfl
    · simp only [State.endGroup, setTray_get, hr', ht', ite_self, setTray_mem]

/-! ### Loads (R162, R164, R255) -/

section
variable {s s0 : State} {c : Cur} {t : Tray} {d a : BitVec 7} {w h : BitVec 3} {o : BitVec 5}

/-- A load that nothing stops is performed when its turn has come: k is what another package's answers leave of its threads,
s1 the state in which its causes and its room are looked for, s2 the one in which it is performed. -/
theorem load_performed {r : Src} {n size hint x : Nat} {useL1 : Bool} {k0 k : Checked} {s1 s2 : State} (hx : t.ctx = x)
    (hk : s.remoteRetries x k0 = k) (h1 : s.forgetAll k.ok size = s1) (hpark : k.park = none)
    (hcauses : s1.loadCauses (r.key / 32) size k.ok = [])
    (hroom : s1.entriesUsed (r.key / 32) +
      entriesFor (s1.newFills (r.key / 32) (requests k.ok useL1)) (requests k.ok useL1) ≤ 8192)
    (hgoes : r.Goes s1 (hint = 6) (s1.accessCores t (r.key / 32) k.ok) s2) :
    let s3 := s2.served (r.key / 32) x hint useL1 k.ok
    ∃ t' s', r.load t s d n size hint useL1 k0 = .ok t' s' ∧
      LoadSent r t t' (r.group d n)
        (k.ok.flatMap fun y => regWrites (r.t.vwin + d.toNat) n y.th (s3.readAt (r.key / 32) useL1 y.loc size)) ∧
      (s3.unwatched x → s'.mem = s3.mem) := by
  unfold State.served Src.load
  simp only [hx, hk, h1]
  rw [if_neg (not_empty_parked hpark), if_neg (by simp [hcauses]), if_neg (Nat.not_lt.mpr hroom), goes_run hgoes,
    goes_newFills hgoes, finish_ok hpark]
  refine ⟨_, _, rfl, loadSent_addPend rfl, fun hu => ?_⟩
  rw [ite_acquire_keeps (f := State.mem) (fun _ _ => rfl), log_unwatched ((addPend_ctx ..).trans hx)]
  · rfl
  · exact unwatched_of_ctxs rfl hu

/-- A word whose body is a load completes as a load does. -/
theorem loadCompletes_of_load {i : Instr} {body : Src → Tray → State → Res} {n size hint : Nat} {useL1 : Bool}
    {k0 : Checked} (run : State → Host.Outcome State Fault Refusal) (hi : exec i s = run s)
    (hr : run s = issue i.opnds s body) (hs : Issuing s c t i.opnds)
    (hb : ∀ t' s', (c.src s t).load (t.advance c) s0 d n size hint useL1 k0 = .ok t' s' →
      body (c.src s t) (t.advance c) s = .ok t' s') : LoadCompletes s s0 c t i d n size hint useL1 k0 := by
  unfold LoadCompletes
  intro r core k s1 hpark hcauses hroom s2 hgoes s3
  obtain ⟨t', s', hl, hP⟩ :=
    load_performed (r := r) (d := d) (n := n) (advance_ctx t c) rfl rfl hpark hcauses hroom hgoes
  exact completes_of_body run hi hr hs ⟨t', s', hb t' s' hl, hP⟩

theorem ld_completes {k : Checked} (hs : Issuing s c t (Instr.ld d a w h o).opnds)
    (hc : (c.src s t).ctrFull .loads = false)
    (ha : misaligned ((c.src s t).lanes a (offsetOf o (memSize w))) (memSize w) = false)
    (hk : s.checkAll (c.key / 32) t.ctx needR ((c.src s t).lanes a (offsetOf o (memSize w))) = .ok k) :
    LoadCompletes s (s.tlbFillAll (c.key / 32) t.ctx k.ok) c t (.ld d a w h o) d (memRegs w) (memSize w) h.toNat
      (hintUsesL1 h.toNat) k := by
  refine loadCompletes_of_load (execLd d a w h o) rfl rfl hs fun t' s' hl => ?_
  simpa only [hc, ha, src_key, advance_ctx, hk, Bool.false_eq_true, if_false] using hl

theorem ldw_completes {k0 k : Checked} (hs : Issuing s c t (Instr.ldw d a w h o).opnds)
    (hc : (c.src s t).ctrFull .loads = false) {l : List Lane}
    (hl : (c.src s t).blocks ((c.src s t).bases a (offsetOf o (32 * memSize w))) (memSize w) = l)
    (ha : misaligned l (memSize w) = false) (hk0 : s.checkAll (c.key / 32) t.ctx needR l = .ok k0)
    (hk : s.checkAll (c.key / 32) t.ctx needR (l.filter fun x => (c.src s t).todo.getLsbD x.th) = .ok k) :
    LoadCompletes s (s.tlbFillAll (c.key / 32) t.ctx k.ok) c t (.ldw d a w h o) d (memRegs w) (memSize w) h.toNat
      (hintUsesL1 h.toNat) k := by
  refine loadCompletes_of_load (execLdw d a w h o) rfl rfl hs fun t' s' hload => ?_
  simp only [hc, hl, ha, src_key, advance_ctx, hk0, hk, hload, Bool.false_eq_true, if_false]
  rfl

theorem ldv_completes {k : Checked} {s1 : State} (hs : Issuing s c t (Instr.ldv d a w h o).opnds)
    (hc : (c.src s t).ctrFull .loads = false) (ha : misaligned ((c.src s t).lanes a 0) (memSize w) = false)
    (hk : s.checkV (c.key / 32) t.ctx ((c.src s t).t.sreg c.path (32 + o.toNat)) ((c.src s t).lanes a 0) =
      .ok (false, k, s1)) :
    LoadCompletes s s1 c t (.ldv d a w h o) d (memRegs w) (memSize w) h.toNat false k := by
  refine loadCompletes_of_load (execLdv d a w h o) rfl rfl hs fun t' s' hload => ?_
  simpa only [hc, ha, src_key, src_path, advance_ctx, hk, Bool.false_eq_true, if_false] using hload

end

/-! ### The scratchpad (R165) -/

section
variable {s s1 : State} {c : Cur} {t : Tray} {d a : BitVec 7} {w h : BitVec 3} {o : BitVec 5}

/-- A scratchpad access that leaves tray t1 is performed where its turn has come, after a message between the core and the
scratchpad; an acquire may follow, which leaves what is no core's. -/
theorem spad_performed {r : Src} {hint : Nat} (hg : r.Goes s (hint = 6) (s.scopeCores t (r.key / 32) 2) s1) (acq : Bool)
    (t1 : Tray) (f : State → State) :
    let s2 := f (s1.exchange (r.key / 32) [spadAgent (s1.clusterIdOf t)])
    ∃ s', r.spad t s hint acq (fun s => (t1, f s)) = .ok t1 s' ∧ s'.mem = s2.mem ∧ s'.clusters = s2.clusters := by
  unfold Src.spad
  dsimp only
  rw [goes_run hg]
  exact ⟨_, rfl, ite_acquire_keeps (f := State.mem) (fun _ _ => rfl) _ _ _,
    ite_acquire_keeps (f := State.clusters) (fun _ _ => rfl) _ _ _⟩

/-- The tray of an LDS, its data bound (R165). -/
def ldsTray (r : Src) (t : Tray) (d : BitVec 7) (w : BitVec 3) (l : List (Nat × Int)) (k : Cluster) : Tray :=
  t.addPend .load r.i (some .loads) [] (r.group d (memRegs w))
    (some (l.flatMap fun x => regWrites (r.t.vwin + d.toNat) (memRegs w) x.1 (k.rd x.2.toNat (memSize w)))) (grp := r.grp)

theorem ldsTray_sent (r : Src) (t : Tray) (l : List (Nat × Int)) (k : Cluster) :
    LoadSent r t (ldsTray r t d w l k) (r.group d (memRegs w))
      (l.flatMap fun x => regWrites (r.t.vwin + d.toNat) (memRegs w) x.1 (k.rd x.2.toNat (memSize w))) :=
  loadSent_addPend (w := (ldsTray r t d w l k).watch) rfl

theorem lds_completes {l : List (Nat × Int)} (hs : Issuing s c t (Instr.lds d a w h o).opnds)
    (hc : (c.src s t).ctrFull .loads = false) (hl : (c.src s t).offsets a (o.toInt * memSize w) = l)
    (hn : scratchCauses l (memSize w) (s.clusterFor t).size = [])
    (hp : (l.any fun x => (s.clusterFor t).poisoned x.2.toNat) = false)
    (hg : (c.src s t).Goes s (h.toNat = 6) (s.scopeCores (t.advance c) (c.key / 32) 2) s1) :
    ∃ (t' : Tray) (s' : State), exec (.lds d a w h o) s = .next (s'.completed c t t') ∧
      LoadSent (c.src s t) (t.advance c) t' ((c.src s t).group d (memRegs w))
        (l.flatMap fun x => regWrites ((c.src s t).t.vwin + d.toNat) (memRegs w) x.1
          ((s.clusterFor t).rd x.2.toNat (memSize w))) ∧
      s'.mem = s.mem ∧ s'.clusters = s.clusters := by
  refine completes_of_body (execLds d a w h o) rfl rfl hs ?_
  simp only [hc, hl, clusterFor_advance, hn, hp, Bool.false_eq_true, if_false]
  obtain ⟨s', hrun, hmem, hclusters⟩ := spad_performed hg (h != 0)
    (ldsTray (c.src s t) (t.advance c) d w l (s.clusterFor t)) id
  refine ⟨_, s', hrun, ldsTray_sent .., ?_, ?_⟩
  · rw [hmem, goes_cores hg]
    rfl
  · rw [hclusters, goes_cores hg]
    rfl

/-- The scratchpad after the stores of the threads in order, the poison of the sectors that they cover whole cleared (R165,
R168). -/
def scratchStored (r : Src) (d : BitVec 7) (w : BitVec 3) (l : List (Nat × Int)) (k : Cluster) : Cluster :=
  (wholeSectors (l.map fun x => x.2.toNat) (memSize w)).foldl (fun k z => { k with poison := smSet k.poison z 0 })
    (l.foldl (fun k x => k.wr x.2.toNat (memSize w) (r.regsNat d (memRegs w) x.1 % 2 ^ (8 * memSize w))) k)

theorem scratchStored_scr (r : Src) (l : List (Nat × Int)) (k : Cluster) : (scratchStored r d w l k).scr =
    (l.foldl (fun k x => k.wr x.2.toNat (memSize w) (r.regsNat d (memRegs w) x.1 % 2 ^ (8 * memSize w))) k).scr :=
  List.foldlRecOn (motive := fun q : Cluster => q.scr = _) _ _ rfl fun _ hq _ _ => hq

theorem sts_completes {l : List (Nat × Int)} (hs : Issuing s c t (Instr.sts d a w h o).opnds)
    (hc : (c.src s t).ctrFull .stores = false) (hl : (c.src s t).offsets a (o.toInt * memSize w) = l)
    (hn : scratchCauses l (memSize w) (s.clusterFor t).size = [])
    (hg : (c.src s t).Goes s (h.toNat = 6) (s.scopeCores (t.advance c) (c.key / 32) 2) s1) :
    ∃ (t' : Tray) (s' : State), exec (.sts d a w h o) s = .next (s'.completed c t t') ∧
      StoreSent (c.src s t) (t.advance c) t' ∧ s'.mem = s.mem ∧
      s'.clusters = s.clusters.upd (s.clusterIdOf t) (scratchStored (c.src s t) d w l) := by
  refine completes_of_body (execSts d a w h o) rfl rfl hs ?_
  simp only [hc, hl, clusterFor_advance, hn, Bool.false_eq_true, if_false]
  obtain ⟨s', hrun, hmem, hclusters⟩ := spad_performed hg (h == 6) (storeTray (c.src s t) (t.advance c) [])
    fun s => s.onCluster (s.clusterIdOf (t.advance c)) (scratchStored (c.src s t) d w l)
  refine ⟨_, s', hrun, storeTray_sent _, ?_, ?_⟩
  · rw [hmem, goes_cores hg]
    rfl
  · rw [hclusters, goes_cores hg]
    exact congrArg (fun k => s.clusters.upd k _) (clusterIdOf_advance c)

end

/-! ### Stores (R162, R168, R246) -/

/-- What follows the stores of a word: the core's L1 and the poison of sectors written whole (R168, R171). -/
def storesDone (s : State) (core n hint : Nat) (l : List Placed) : State :=
  (wholeSectors ((localAddrs l).filter fun pa => !(s.storeL1 core hint l).unreachable core pa) n).foldl
    (fun s z => s.setPoison (64 * z) false) (s.storeL1 core hint l)

theorem storesDone_keeps {α : Type} {f : State → α} (hc : ∀ s k g, f (State.onCore s k g) = f s)
    (hp : ∀ s pa b, f (State.setPoison s pa b) = f s) (s : State) (core n hint : Nat) (l : List Placed) :
    f (storesDone s core n hint l) = f s := by
  have h1 : f (s.storeL1 core hint l) = f s := by
    refine List.foldlRecOn (motive := fun q => f q = f s) _ _ rfl fun q hq x _ => ?_
    split
    · exact (hc _ _ _).trans hq
    · exact (hc _ _ _).trans hq
  exact List.foldlRecOn (motive := fun q => f q = f s) _ _ h1 fun q hq z _ => (hp _ _ _).trans hq

/-- The state in which a word's stores have been made, each thread's in order, the homes asked first (R162, R205). -/
def storesMade (r : Src) (s1 : State) (core ctx : Nat) (d : BitVec 7) (w h : BitVec 3) (l : List Placed) : State :=
  l.foldl (fun s x => s.storeAt core ctx r.step x (memSize w) (r.regsNat d (memRegs w) x.th % 2 ^ (8 * memSize w)))
    ((s1.exchange core (s1.homeAgents l)).ownLines core ctx (hintPrio h.toNat) l)

section
variable {s s0 s1 : State} {c : Cur} {t : Tray} {d a : BitVec 7} {w h : BitVec 3} {o : BitVec 5} {k : Checked}

theorem st_completes (hs : Issuing s c t (Instr.st d a w h o).opnds) (hc : (c.src s t).ctrFull .stores = false)
    (ha : misaligned ((c.src s t).lanes a (offsetOf o (memSize w))) (memSize w) = false)
    (hk : (c.src s t).stored s ((c.src s t).lanes a (offsetOf o (memSize w))) needW = .ok (s0, k)) (hpark : k.park = none)
    (hg : (c.src s t).Goes s0 (h.toNat = 6) (s0.accessCores (t.advance c) (c.key / 32) k.ok) s1) :
    ∃ (t' : Tray) (s' : State), exec (.st d a w h o) s = .next (s'.completed c t t') ∧
      StoreSent (c.src s t) (t.advance c) t' ∧
      ((storesMade (c.src s t) s1 (c.key / 32) t.ctx d w h k.ok).unwatched t.ctx →
        s'.mem = (storesMade (c.src s t) s1 (c.key / 32) t.ctx d w h k.ok).mem) := by
  have h6 : (h.toNat = 6) = (h = 6) := propext ⟨fun e => BitVec.eq_of_toNat_eq e, fun e => congrArg BitVec.toNat e⟩
  rw [h6] at hg
  refine completes_of_body (execSt d a w h o) rfl rfl hs ?_
  simp only [hc, ha, hk, advance_ctx, src_key, Bool.false_eq_true, if_false]
  rw [if_neg (not_empty_parked hpark), goes_run hg, finish_ok hpark]
  refine ⟨_, _, rfl, storeSent_storeTray rfl, fun hu => ?_⟩
  rw [ite_acquire_keeps (f := State.mem) (fun _ _ => rfl), log_unwatched (x := t.ctx)]
  · exact storesDone_keeps (f := State.mem) (fun _ _ _ => rfl) (fun _ _ _ => rfl) _ _ _ _ _
  · exact (storeTray_ctx _ _ (rootsOf k.ok)).trans (advance_ctx t c)
  · exact unwatched_of_ctxs (storesDone_keeps (f := State.ctxs) (fun _ _ _ => rfl) (fun _ _ _ => rfl) _ _ _ _ _) hu

end

/-! ### What a store changes (R162, R166, R205, R222) -/

section
variable {s s0 s1 : State} {core ctx n v : Nat} {step : Word}

theorem tblWr_unreachable (s : State) (c pa n v k p : Nat) : (s.tblWr c pa n v).unreachable k p = s.unreachable k p := by
  unfold State.tblWr
  split
  · rfl
  · exact mergeLine_keeps (f := fun s => s.unreachable k p) (fun _ _ _ _ => rfl) fun _ _ _ => rfl

theorem stamp_unreachable (s : State) (c k p : Nat) (x : Xl) :
    (s.stamp c x step).unreachable k p = s.unreachable k p := by
  refine List.foldlRecOn (motive := fun q : State => q.unreachable k p = s.unreachable k p) _ _ rfl fun q hq e _ => ?_
  extract_lets v
  split
  · exact (tblWr_unreachable ..).trans hq
  · exact hq

/-- Stamps are written to memory, which moves no home and no link. -/
theorem stampTlb_unreachable (s : State) (core c a k p : Nat) (x : Xl) :
    (s.stampTlb core c a x step).unreachable k p = s.unreachable k p := by
  unfold State.stampTlb
  split
  · exact stamp_unreachable ..
  · split
    · rfl
    · exact stamp_unreachable s c k p x

theorem storeAt_bytes {th ea : Nat} {x : Xl} (hpa : x.pa < 2 ^ 40) (hu : s.unreachable core x.pa = false) {i : Nat}
    (hi : i < n) :
    smGet (s.storeAt core ctx step ⟨th, ea, .mem x⟩ n v).mem (x.pa + i) = BitVec.ofNat 8 (v / 256 ^ i) := by
  have hs : s.storeAt core ctx step ⟨th, ea, .mem x⟩ n v = (s.stampTlb core ctx ea x step).wr x.pa n v := by
    unfold State.storeAt State.putAt
    simp only [stampTlb_unreachable, hu, Nat.not_le.mpr hpa, Bool.false_eq_true, if_false]
  rw [hs, wr_byte, if_pos (by omega), Nat.add_sub_cancel_left]

/-- The addresses outside n bytes from the place of each of some accesses, and outside its stamps. -/
def outside (l : List Placed) (n b : Nat) : Prop :=
  ∀ x ∈ l, ∀ xl, x.loc = .mem xl → (b < xl.pa ∨ xl.pa + n ≤ b) ∧ ∀ e ∈ xl.levels, b < e.2 ∨ e.2 + 4 ≤ b

theorem still_goes {r : Src} {sc : Prop} {cores : List Nat} (h : Still s0 s) (hg : r.Goes s sc cores s1) : Still s0 s1 := by
  rw [goes_cores hg]
  exact h.same rfl rfl rfl

theorem still_exchange (h : Still s0 s) {agents : List Nat} : Still s0 (s.exchange core agents) := h.same rfl rfl rfl

theorem still_ownLines (h : Still s0 s) {pri : Nat} {l : List Placed} : Still s0 (s.ownLines core ctx pri l) := by
  refine still_foldl h fun q x hq => ?_
  dsimp only
  split
  · exact hq
  · split
    · exact still_homeAtomic hq
    · exact still_homeOwn hq
    · exact hq

/-- The stores of a word to memory keep every byte outside them and their stamps. -/
theorem beside_storesMade (h : Still s0 s1) (r : Src) (d : BitVec 7) (w hint : BitVec 3) {l : List Placed}
    (hl : ∀ x ∈ l, ∃ xl, x.loc = .mem xl) :
    Beside (outside l (memSize w)) s0 (storesMade r s1 core ctx d w hint l) := by
  refine List.foldlRecOn l _ (still_ownLines (still_exchange h)).beside fun q hq x hx => ?_
  obtain ⟨th, ea, loc⟩ := x
  obtain ⟨xl, rfl⟩ := hl _ hx
  exact beside_storeAt hq (fun b hb => (hb _ hx xl rfl).1) fun e he b hb => (hb _ hx xl rfl).2 e he

end

/-! ### The obligations -/

/-- Settles O18: LD, LDW and LDV come to the same load after their own checks, LDS to a scratchpad access that changes
nothing but clocks and L1s. -/
theorem loadResults : Obligations.LoadResults := by
  unfold Obligations.LoadResults
  intro s c t r
  refine ⟨fun d a w h o k => ld_completes, ?_, fun d a w h o k s1 => ldv_completes, ?_⟩
  · intro d a w h o k0 k hs hc l ha hk0 hk
    exact ldw_completes hs hc rfl ha hk0 hk
  · intro d a w h o hs hc l k hn hp s1 hg
    exact lds_completes hs hc rfl hn hp hg

/-- Settles O19: a store is noted in its tray, and what follows it changes memory only by the log of a monitor; the cluster of
an STS keeps what its threads have stored. -/
theorem storeResults : Obligations.StoreResults := by
  unfold Obligations.StoreResults
  intro s c t r
  refine ⟨?_, ?_⟩
  · intro d a w h o k s0 hs hc n core ha hk hpark s1 hg s2
    exact st_completes hs hc ha hk hpark hg
  · intro d a w h o hs hc n l hn s1 hg
    obtain ⟨t', s', hexec, hsent, hmem, hclusters⟩ := sts_completes hs hc rfl hn hg
    refine ⟨t', s', hexec, hsent, hmem, fun k hk => ⟨scratchStored r d w l k, ?_, scratchStored_scr r l k⟩⟩
    rw [hclusters, get_upd, if_pos rfl, hk]
    rfl

/-- Settles O20: the write of a store comes after its stamps; with nothing to merge, the requests at the homes leave memory,
so that the stores and their stamps are all that changes it. -/
theorem storeFrame : Obligations.StoreFrame := by
  unfold Obligations.StoreFrame
  refine ⟨?_, ?_, ?_⟩
  · intro s core ctx n v th ea step xl hpa hu s'
    refine ⟨fun i hi => storeAt_bytes hpa hu hi, fun hn a ha hl => ?_⟩
    exact (beside_storeAt (P := fun b => b = a) (Still.refl (merged_of_noPartials hn)).beside (fun _ hb => hb ▸ ha)
      fun e he _ hb => hb ▸ hl e he).bytes a rfl
  · intro s core ctx h w v swp th ea step red xl hn s' a ha hl
    exact bytes_atomAt (P := fun b => b = a) (Still.refl (merged_of_noPartials hn)).beside (fun _ hb => hb ▸ ha)
      (fun e he _ hb => hb ▸ hl e he) a rfl
  · intro s c t d a w h o k s0 s1 r n hs hd hc ha hk hpark hm hn hu hg hl
    have hb := beside_storesMade (core := c.key / 32) (ctx := t.ctx)
      (still_goes (.refl (merged_of_noPartials hn)) hg) r d w h hl
    obtain ⟨t', s', hexec, hsent, hmem⟩ := st_completes hs hc ha hk hpark hg
    obtain ⟨htraps, hresume⟩ := storeSent_due hsent
    refine ⟨_, hexec, fun b hout => ?_⟩
    rw [completed_mem hd htraps hresume, hmem (unwatched_of_sameTree hb.tree hu), hb.bytes b hout, hm]

end Sys2Proof.MemoryAccess

/-!
# Requests at the home of a line (O24)

A request for a line that no die holds ends in the same way, whatever it asks: the line enters the requester's ways
(`State.allocate`) in a directory without entry for it. What allocation does is said once here; each request is then an
equation that names the state in which it allocates.
-/

namespace Sys2Proof.HomeRequests
open Sys2Proof.Machine Sys2Proof.Laws Sys2Proof.QuietCaches

/-! ### The directory entry of a line -/

section
variable {s : State} {die ctx ln bank k n : Nat}

theorem copyAt_setLine (s : State) (ln die : Nat) (l : Line) : (s.setLine ln l).copyAt ln die = KMap.get? l die := by
  unfold State.copyAt State.setLine
  cases l with
  | nil => exact congrArg (fun l : Option Line => KMap.get? (l.getD []) die) (get_del_same s.lines ln)
  | cons e r => exact congrArg (fun l : Option Line => KMap.get? (l.getD []) die) (get_put_same s.lines ln (e :: r))

/-- The entry of another line stays as it is. -/
theorem lines_setLine_ne {m : Nat} (h : ln ≠ m) (l : Line) : (s.setLine m l).lines.get? ln = s.lines.get? ln := by
  unfold State.setLine
  dsimp only
  split
  · exact get_del_ne s.lines h
  · exact get_put_ne s.lines l h

theorem lines_setLine_nil : (s.setLine ln []).lines.get? ln = none := get_del_same s.lines ln

theorem copyAt_of_unheld (h : s.lines.get? ln = none) : s.copyAt ln die = none := by
  unfold State.copyAt
  rw [h]
  rfl

/-- A line that is not found is the line of no entry. -/
theorem ne_of_unheld {l : Line} {m : Nat} (h : s.lines.get? ln = none) (hl : s.lines.get? m = some l) : ln ≠ m := by
  rintro rfl
  rw [h] at hl
  cases hl

theorem mergeLine_of_unheld (h : s.lines.get? ln = none) : s.mergeLine ln = s := by
  unfold State.mergeLine
  rw [h]

theorem applyPartial_lines (c : DieCopy) : (s.applyPartial ln c).lines = s.lines :=
  List.foldlRecOn (motive := fun q : State => q.lines = s.lines) c.part _ rfl fun _ hq _ _ => hq

/-- An eviction touches no line without entry. -/
theorem homeEvict_unheld {m : Nat} (h : s.lines.get? ln = none) : (s.homeEvict die m).lines.get? ln = none := by
  cases hc : s.copyAt m die with
  | none => simpa only [State.homeEvict, hc] using h
  | some c =>
    obtain ⟨l, hl⟩ : ∃ l, s.lines.get? m = some l := by
      by_contra hn
      rw [copyAt_of_unheld (Option.eq_none_iff_forall_ne_some.mpr fun l hl => hn ⟨l, hl⟩)] at hc
      cases hc
    simp only [State.homeEvict, hc]
    rw [lines_setLine_ne (ne_of_unheld h hl)]
    split
    · rwa [applyPartial_lines]
    · exact h

theorem homeEvict_copyAt : (s.homeEvict die ln).copyAt ln die = none := by
  cases hc : s.copyAt ln die with
  | none => simp only [State.homeEvict, hc]
  | some c =>
    simp only [State.homeEvict, hc]
    rw [copyAt_setLine, get_del_same]

theorem takeWay_unheld (h : s.lines.get? ln = none) : (s.takeWay ctx bank ln).2.lines.get? ln = none := by
  unfold State.takeWay
  extract_lets mask set free
  clear_value free
  split
  · exact h
  · cases free with
    | some w => exact h
    | none =>
      dsimp only
      split
      · exact homeEvict_unheld h
      · exact h

/-! ### The ways of a context (R173, R177) -/

/-- A count changes no context's ways. -/
theorem waysOf_count (c : Nat) : (s.count ctx k n).waysOf c = s.waysOf c := by
  unfold State.count
  split
  · rfl
  · unfold State.waysOf
    dsimp only
    rw [get_upd]
    split_ifs with h
    · subst h
      cases s.ctxs.get? c <;> rfl
    · rfl

theorem holdsWay_eq (s : State) (ctx die : Nat) : s.holdsWay ctx die = (s.waysOf ctx).any fun e => e.1 / 32 == die := by
  unfold State.holdsWay State.waysOf
  cases s.ctxs.get? ctx <;> rfl

theorem bankFor_eq_of_waysOf {s' : State} (h : s'.waysOf ctx = s.waysOf ctx) : s'.bankFor ctx die ln = s.bankFor ctx die ln := by
  unfold State.bankFor State.banksOn
  rw [h]

end

/-! ### A line that no die holds enters a die's cache (R173, Table 8.6) -/

/-- State s' follows s with one copy of the line in the dies' caches: the die's, in the ways of the context, with the state,
the priority, the tag and the prefetched sectors given, and without an element. -/
structure SoleCopy (s s' : State) (die ctx ln : Nat) (st : CopyState) (prio op w : Nat) (pf : BitVec 4) : Prop where
  mem : s.noPartials → s'.mem = s.mem
  copy : ∃ way used, s'.copyAt ln die = some ⟨st, ctx, prio, op, w, [], s.bankFor ctx die ln, way, used, pf⟩
  others : ∀ d, d ≠ die → s'.copyAt ln d = none

section
variable {s : State} {die ctx ln pri op w k n : Nat} {st : CopyState} {pf : BitVec 4}

theorem allocate_copyAt (h : s.lines.get? ln = none) (hw : s.holdsWay ctx die = true) :
    ∃ way used, ∀ d, (s.allocate die ctx ln st pri op w pf).copyAt ln d =
      KMap.get? [(die, ⟨st, ctx, pri, op, w, [], s.bankFor ctx die ln, way, used, pf⟩)] d := by
  have ht : (s.takeWay ctx (s.bankFor ctx die ln) ln).2.lines.get? ln = none := takeWay_unheld h
  unfold State.allocate
  rw [if_pos hw]
  dsimp only
  rw [ht]
  exact ⟨_, _, fun d => copyAt_setLine ..⟩

/-- The line enters as the sole copy once the miss has been counted and the entry cleared. -/
theorem soleCopy_allocate (hw : s.holdsWay ctx die = true) :
    SoleCopy s (((s.count ctx k n).setLine ln []).allocate die ctx ln st pri op w pf) die ctx ln st pri op w pf := by
  have hways : ((s.count ctx k n).setLine ln []).waysOf ctx = s.waysOf ctx := waysOf_count ctx
  have hw' : ((s.count ctx k n).setLine ln []).holdsWay ctx die = true := by rwa [holdsWay_eq, hways, ← holdsWay_eq]
  obtain ⟨way, used, hc⟩ :=
    allocate_copyAt (st := st) (pri := pri) (op := op) (w := w) (pf := pf) lines_setLine_nil hw'
  rw [bankFor_eq_of_waysOf hways] at hc
  refine ⟨fun hn => ?_, ⟨way, used, by rw [hc, KMap.get?, if_pos rfl]⟩, fun d hd => by rw [hc, KMap.get?, if_neg hd]; rfl⟩
  have hs : Still s s := .refl (merged_of_noPartials hn)
  exact (still_allocate (still_setLine (still_count hs) lineMerged_nil)).mem

/-! ### The requests (R205–R207, R176) -/

theorem readLine_nil : readLine [] = [] := rfl

theorem streamSee_none {miss : Bool} : s.streamSee die ctx ln miss none = s := rfl

theorem count_zero : s.count ctx k 0 = s := rfl

theorem soleCopy_homeRead (h : s.lines.get? ln = none) (hw : s.holdsWay ctx die = true) {mask : BitVec 4} {demand : Bool} :
    SoleCopy s (s.homeRead die ctx ln pri mask demand none) die ctx ln .e pri 0 0 0 := by
  have he : s.homeRead die ctx ln pri mask demand none =
      ((s.count ctx 4 (bitList mask).length).setLine ln []).allocate die ctx ln .e pri 0 0 0 := by
    unfold State.homeRead
    simp only [mergeLine_of_unheld h, copyAt_of_unheld h, h, Option.getD_none, readLine_nil, List.isEmpty_nil, if_true,
      streamSee_none, ite_self]
  exact he ▸ soleCopy_allocate hw

theorem soleCopy_homePrefetch (h : s.lines.get? ln = none) (hw : s.holdsWay ctx die = true) :
    SoleCopy s (s.homePrefetch die ctx ln) die ctx ln .e 0 0 0 15#4 := by
  have he : s.homePrefetch die ctx ln = ((s.count ctx 5 4).setLine ln []).allocate die ctx ln .e 0 0 0 15#4 := by
    unfold State.homePrefetch
    simp only [mergeLine_of_unheld h, h, Option.getD_none, readLine_nil, List.isEmpty_nil, if_true]
  exact he ▸ soleCopy_allocate hw

theorem soleCopy_homeOwn (h : s.lines.get? ln = none) (hw : s.holdsWay ctx die = true) {mask : BitVec 4} :
    SoleCopy s (s.homeOwn die ctx ln pri mask none) die ctx ln .m pri 0 0 0 := by
  have he : s.homeOwn die ctx ln pri mask none =
      ((s.count ctx 4 (bitList mask).length).setLine ln []).allocate die ctx ln .m pri 0 0 0 := by
    unfold State.homeOwn
    simp only [mergeLine_of_unheld h, copyAt_of_unheld h, hw, if_true, streamSee_none]
  exact he ▸ soleCopy_allocate hw

/-- An update counts no miss. -/
theorem soleCopy_homeUpdate (h : s.lines.get? ln = none) (hw : s.holdsWay ctx die = true) :
    SoleCopy s (s.homeUpdate die ctx ln op w) die ctx ln .u 1 op w 0 := by
  have he : s.homeUpdate die ctx ln op w =
      ((s.count ctx 4 0).setLine ln []).allocate die ctx ln .u 1 op w 0 := by
    unfold State.homeUpdate
    simp only [copyAt_of_unheld h, h, Option.any_none, Option.getD_none, List.any_nil, List.filter_nil, Bool.false_eq_true,
      if_false, count_zero]
  exact he ▸ soleCopy_allocate hw

theorem homeAtomic_copyAt (d : Nat) : (s.homeAtomic ln).copyAt ln d = none := copyAt_setLine ..

theorem homeEngine_copyAt (d : Nat) : (s.homeEngine ln true).copyAt ln d = none := copyAt_setLine ..

theorem setPoison_poisoned (pa : Nat) : (s.setPoison pa true).poisoned pa = true := by
  unfold State.setPoison State.poisoned
  dsimp only
  rw [smGet_smSet_same]
  rfl

end

/-! ### The events -/

section
variable {s : State} {die ctx line : Nat}

theorem homeRead_next (hl : s.lineOk line = true) (hd : die < 4) :
    exec (.homeRead die ctx line) s = .next (s.homeRead die ctx line 1 15#4 true none) :=
  congrArg Host.Outcome.next (if_pos (by simp [hl, hd]))

theorem homeOwn_next (hl : s.lineOk line = true) (hd : die < 4) :
    exec (.homeOwn die ctx line) s = .next (s.homeOwn die ctx line 1 15#4 none) :=
  congrArg Host.Outcome.next (if_pos (by simp [hl, hd]))

theorem homeUpdate_next (hl : s.lineOk line = true) (hd : die < 4) {op w : BitVec 3} (ho : op.toNat < 6)
    (hw : w.toNat = 2 ∨ w.toNat = 3 ∨ op = 0 ∧ 6 ≤ w.toNat) :
    exec (.homeUpdate die ctx line op w) s = .next (s.homeUpdate die ctx line op.toNat w.toNat) := by
  have ht : ([2, 3].contains w.toNat || op = 0 && 6 ≤ w.toNat) = true := by
    rcases hw with hw | hw | ⟨h0, h6⟩
    · simp [hw]
    · simp [hw]
    · simp [h0, h6]
  exact congrArg Host.Outcome.next (if_pos (by simp only [hl, hd, ho, ht, decide_true, Bool.and_self]))

/-- The prefetcher of a stream fetches the line; its streams are what changes besides. -/
theorem prefetchIssue_next (hl : s.lineOk line = true) (hd : die < 4) (hw : s.holdsWay ctx die = true)
    (hn : s.lines.get? line = none) (hoff : ctx ∉ s.fw.noPrefetch) {p : Nat × Prefetcher} (hp : p ∈ s.prefetchers)
    {x : Stream} (hx : x ∈ p.2.streams) (hdie : p.1 / 32 = die) (ha : x.ahead ctx line = true) :
    ∃ q, exec (.prefetchIssue die ctx line) s = .next { s.homePrefetch die ctx line with prefetchers := q } := by
  have hany : (s.prefetchers.any fun e => e.1 / 32 == die && e.2.streams.any fun x => x.ahead ctx line) = true :=
    List.any_eq_true.mpr ⟨p, hp, by rw [hdie, beq_self_eq_true, Bool.true_and]; exact List.any_eq_true.mpr ⟨x, hx, ha⟩⟩
  exact ⟨_, congrArg Host.Outcome.next (if_pos (by simp [hl, hd, hw, copyAt_of_unheld hn, hoff, hany]))⟩

end

/-- Settles O24: each request names the state in which it allocates the line, which becomes the sole copy; the others set the
line's entry without the copies recalled or evicted. -/
theorem coherenceEventResults : Obligations.CoherenceEventResults := by
  unfold Obligations.CoherenceEventResults
  intro s die ctx line hl hd leaves
  have of_soleCopy : ∀ {i st prio op w pf s'}, exec i s = .next s' → SoleCopy s s' die ctx line st prio op w pf →
      leaves i st prio op w pf := by
    intro i st prio op w pf s' hexec ⟨hmem, ⟨way, used, hcopy⟩, hothers⟩
    exact ⟨s', _, hexec, hmem, hcopy, rfl, hothers⟩
  refine ⟨fun hw hn => ⟨?_, ?_, ?_, ?_⟩, ?_, ?_, ?_, ?_⟩
  · exact of_soleCopy (homeRead_next hl hd) (soleCopy_homeRead hn hw)
  · exact of_soleCopy (homeOwn_next hl hd) (soleCopy_homeOwn hn hw)
  · intro op w ho ht
    exact of_soleCopy (homeUpdate_next hl hd ho ht) (soleCopy_homeUpdate hn hw)
  · intro p hp x hx hdie ha hoff
    obtain ⟨q, hexec⟩ := prefetchIssue_next hl hd hw hn hoff hp hx hdie ha
    obtain ⟨hmem, hcopy, hothers⟩ := soleCopy_homePrefetch hn hw
    exact of_soleCopy hexec ⟨hmem, hcopy, hothers⟩
  · exact ⟨_, congrArg Host.Outcome.next (if_pos hl), homeAtomic_copyAt⟩
  · exact ⟨_, congrArg Host.Outcome.next (if_pos hl), homeEngine_copyAt⟩
  · exact ⟨_, rfl, homeEvict_copyAt⟩
  · exact fun pa hpa => ⟨_, congrArg Host.Outcome.next (if_pos hpa), setPoison_poisoned pa, rfl⟩

end Sys2Proof.HomeRequests

/-!
# FENCE, CCTL and PREF (O22)

An .sc FENCE goes by `Src.inTurn`, whose answers are said once. CCTL and PREF act on the caches alone: `HomeFree f` says that
f is nothing a request at a home moves, and a function of the model that keeps every such f has one lemma, `keeps_f`.
-/

namespace Sys2Proof.FencesAndCaches
open Sys2Proof.Machine Sys2Proof.Laws Sys2Proof.QuietCaches Sys2Proof.MemoryAccess

/-! ### What the requests at the homes leave (R205–R208, R173–R177) -/

/-- f reads none of what a request at a home moves: memory, the directory, the contexts' counters, the caches' clock and the
prefetchers. -/
structure HomeFree {α : Type} (f : State → α) : Prop where
  mem : ∀ s x, f { s with mem := x } = f s
  lines : ∀ s x, f { s with lines := x } = f s
  ctxs : ∀ s x, f { s with ctxs := x } = f s
  tick : ∀ s x, f { s with cacheTick := x } = f s
  prefetchers : ∀ s x, f { s with prefetchers := x } = f s

theorem homeFree_trays : HomeFree State.trays := by constructor <;> exact fun _ _ => rfl

theorem homeFree_clusters : HomeFree State.clusters := by constructor <;> exact fun _ _ => rfl

theorem homeFree_cores : HomeFree State.cores := by constructor <;> exact fun _ _ => rfl

section
variable {α : Type} {f : State → α} (hf : HomeFree f) (s : State) (die ctx ln pri op w k n : Nat)
include hf

theorem keeps_setLine (l : Line) : f (s.setLine ln l) = f s := hf.lines ..

theorem keeps_mergeLine : f (s.mergeLine ln) = f s :=
  mergeLine_keeps (fun _ _ _ _ => hf.mem ..) fun _ _ _ => hf.lines ..

theorem keeps_count : f (s.count ctx k n) = f s := by
  unfold State.count
  split
  · rfl
  · exact hf.ctxs ..

theorem keeps_homeEvict : f (s.homeEvict die ln) = f s := by
  unfold State.homeEvict
  split
  · rfl
  · rename_i c _
    rw [keeps_setLine hf]
    split
    · exact List.foldlRecOn (motive := fun q => f q = f s) c.part _ rfl fun q hq _ _ => (hf.mem q _).trans hq
    · rfl

theorem keeps_takeWay (bank : Nat) : f (s.takeWay ctx bank ln).2 = f s := by
  unfold State.takeWay
  extract_lets mask set free
  clear_value free
  split
  · rfl
  · cases free with
    | some w => rfl
    | none =>
      dsimp only
      split
      · exact keeps_homeEvict hf ..
      · rfl

theorem keeps_allocate (st : CopyState) (pf : BitVec 4) : f (s.allocate die ctx ln st pri op w pf) = f s := by
  unfold State.allocate
  split
  · exact (keeps_setLine hf ..).trans ((hf.tick ..).trans (keeps_takeWay hf ..))
  · rfl

theorem keeps_homeHit (mask : BitVec 4) (demand : Bool) (c : DieCopy) :
    f (s.homeHit die ctx ln pri mask demand c) = f s := by
  unfold State.homeHit
  simp only [keeps_count hf, keeps_setLine hf, hf.tick]

theorem keeps_streamSee (miss : Bool) (page : Option (Nat × Nat)) : f (s.streamSee die ctx ln miss page) = f s := by
  unfold State.streamSee
  split
  · rfl
  · split
    · rfl
    · exact hf.prefetchers ..

theorem keeps_homeRead (mask : BitVec 4) (demand : Bool) (page : Option (Nat × Nat)) :
    f (s.homeRead die ctx ln pri mask demand page) = f s := by
  unfold State.homeRead
  dsimp only
  split
  · split
    · rw [keeps_streamSee hf, keeps_homeHit hf, keeps_mergeLine hf]
    · rw [keeps_homeHit hf, keeps_mergeLine hf]
  · split
    · rw [keeps_streamSee hf, keeps_allocate hf, keeps_setLine hf, keeps_count hf, keeps_mergeLine hf]
    · rw [keeps_allocate hf, keeps_setLine hf, keeps_count hf, keeps_mergeLine hf]

/-! ### What CCTL and PREF leave (R177–R179) -/

theorem keeps_dropLine : f (s.dropLine ctx ln) = f s := (keeps_setLine hf ..).trans (keeps_mergeLine hf ..)

theorem keeps_lowLine : f (s.lowLine ctx ln) = f s := keeps_setLine hf ..

/-- A prefetch moves, besides, only the L1 of its core. -/
theorem keeps_prefLine (hc : ∀ s core g, f (State.onCore s core g) = f s) (core tgt : Nat) (x : Xl) :
    f (s.prefLine core ctx tgt x) = f s := by
  have hfill : ∀ s y busy, f (State.l1Fill s core y busy) = f s := fun s y busy =>
    (hc ..).trans (keeps_mergeLine hf s (y.sector / 4))
  unfold State.prefLine
  split
  · rfl
  · extract_lets ln s1 wait lack
    have h1 : f s1 = f s := (keeps_homeRead hf ..).trans (keeps_count hf ..)
    split
    · exact List.foldlRecOn (motive := fun q => f q = f s) lack _ h1 fun q hq _ _ => (hfill ..).trans hq
    · exact h1

end

/-! ### FENCE (R199–R204) -/

section
variable {r : Src} {s : State} {cores : List Nat} {n : DWord}

theorem inTurn_unclaimed (hn : (r.t.path r.i).turnAt r.pc = none) (go : State → Res) : r.inTurn s cores go = .claim := by
  simp only [Src.inTurn, hn]

theorem inTurn_overtaken (hn : (r.t.path r.i).turnAt r.pc = some n) (ho : s.overtaken cores n (r.key / 32) = true)
    (go : State → Res) : r.inTurn s cores go = .claim := by
  simp only [Src.inTurn, hn, ho, if_true]

theorem inTurn_waits (hn : (r.t.path r.i).turnAt r.pc = some n) (ho : s.overtaken cores n (r.key / 32) = false)
    (hf : s.turnFree cores n (r.key / 32) = false) (go : State → Res) : r.inTurn s cores go = .stay := by
  simp only [Src.inTurn, hn, ho, hf, Bool.false_eq_true, if_false]

end

/-- The state after a FENCE that is performed: an acquire, but for a release alone (R203, R204). -/
def fenceDone (kind scope : BitVec 3) (core : Nat) (t : Tray) (s : State) : State :=
  if kind = 1 then s else s.acquire core t scope.toNat

/-- FENCE, an .sc one in its turn, another at once. -/
def fenceBody (kind scope : BitVec 3) (r : Src) (t : Tray) (s : State) : Res :=
  if !scopeLegal s t.ctx scope.toNat then .early .illegal
  else if kind = 3 ∨ kind = 4 then
    r.inTurn s (s.scopeCores t (r.key / 32) scope.toNat) fun s => .ok t (fenceDone kind scope (r.key / 32) t s)
  else .ok t (fenceDone kind scope (r.key / 32) t s)

section
variable {s s1 : State} {c : Cur} {t : Tray} {kind scope : BitVec 3}

theorem fence_eq_issue (kind scope : BitVec 3) (s : State) :
    exec (.fence kind scope) s = issue [] s (fenceBody kind scope) := rfl

theorem fence_completes (hs : Issuing s c t []) (hl : scopeLegal s t.ctx scope.toNat = true)
    (hg : (c.src s t).Goes s (kind = 3 ∨ kind = 4) (s.scopeCores (t.advance c) (c.key / 32) scope.toNat) s1) :
    exec (.fence kind scope) s = .next ((fenceDone kind scope (c.key / 32) (t.advance c) s1).completed c t (t.advance c)) := by
  refine (fence_eq_issue ..).trans (issue_ok hs ?_)
  unfold fenceBody
  simp only [advance_ctx, hl, Bool.not_true, Bool.false_eq_true, if_false]
  exact goes_run hg fun s => .ok (t.advance c) (fenceDone kind scope (c.key / 32) (t.advance c) s)

/-- An .sc FENCE does as its turn says. -/
theorem fenceBody_of_inTurn (hl : scopeLegal s t.ctx scope.toNat = true) (hsc : kind = 3 ∨ kind = 4) {x : Res}
    (hx : ∀ go, (c.src s t).inTurn s (s.scopeCores (t.advance c) (c.key / 32) scope.toNat) go = x) :
    fenceBody kind scope (c.src s t) (t.advance c) s = x := by
  unfold fenceBody
  simp only [advance_ctx, hl, hsc, Bool.not_true, Bool.false_eq_true, if_false, if_true]
  exact hx _

theorem fence_raises (hs : Issuing s c t []) (hl : scopeLegal s t.ctx scope.toNat = false) :
    RaisesEarly s c (.fence kind scope) .illegal := by
  refine (fence_eq_issue ..).trans (issue_early hs ?_)
  unfold fenceBody
  simp only [advance_ctx, hl, Bool.not_false, if_true]

end

/-! ### CCTL and PREF (R178, R179) -/

section
variable {s : State} {c : Cur} {t : Tray} {a : BitVec 7}

theorem cctl_acts_on_copies {kind : BitVec 3} {n : BitVec 5} (hs : Issuing s c t (Instr.cctl a kind n).opnds)
    (hk : 2 ≤ kind.toNat) (hc : (c.src s t).ctrFull .stores = false) :
    let ls := (lineRange ((c.src s t).s2 a).toNat (n.toNat + 1)).filterMap fun x => s.readableLine (c.key / 32) t.ctx x
    exec (.cctl a kind n) s = .next ((ls.foldl (fun s x =>
      if kind.toNat = 2 then s.dropLine t.ctx (x.pa / 256) else s.lowLine t.ctx (x.pa / 256)) s).completed c t
        (storeTray (c.src s t) (t.advance c) [])) := by
  refine (rfl : _ = execCctl a kind n s).trans (issue_ok hs ?_)
  simp only [advance_ctx, hc, show ¬kind.toNat = 0 by omega, show ¬kind.toNat = 1 by omega, Bool.false_eq_true, if_false]
  rfl

/-- CCTL on the dies' copies leaves the cores. -/
theorem cctl_copies_cores (kind : BitVec 3) (ctx : Nat) (ls : List Xl) : (ls.foldl (fun s x =>
    if kind.toNat = 2 then s.dropLine ctx (x.pa / 256) else s.lowLine ctx (x.pa / 256)) s).cores = s.cores := by
  refine List.foldlRecOn (motive := fun q : State => q.cores = s.cores) ls _ rfl fun q hq x _ => ?_
  split
  · exact (keeps_dropLine homeFree_cores ..).trans hq
  · exact (keeps_lowLine homeFree_cores ..).trans hq

/-- The lines that a PREF asks for: each thread's range, a line named twice by a warp's threads once (R178). -/
def prefLines (r : Src) (a : BitVec 7) (n : BitVec 6) : List (Nat × Nat) :=
  ((maskThreads r.m0).flatMap fun th => (lineRange (r.v2 a th).toNat (n.toNat + 1)).map fun x => (th / 32, x)).eraseDups

/-- The state after the requests of a PREF for some lines: all are dropped while no miss-status entry is free (R178). -/
def prefDone (core ctx tgt : Nat) (ls : List (Nat × Nat)) (s : State) : State :=
  if 8192 ≤ s.entriesUsed core then s
  else ls.foldl (fun s x =>
    match s.readableLine core ctx x.2 with
    | some xl => s.prefLine core ctx tgt xl
    | none => s) s

theorem keeps_prefDone {α : Type} {f : State → α} (hf : HomeFree f) (hc : ∀ s core g, f (State.onCore s core g) = f s)
    (core ctx tgt : Nat) (ls : List (Nat × Nat)) (s : State) : f (prefDone core ctx tgt ls s) = f s := by
  unfold prefDone
  split
  · rfl
  · refine List.foldlRecOn (motive := fun q => f q = f s) ls _ rfl fun q hq x _ => ?_
    split
    · exact (keeps_prefLine hf _ _ hc ..).trans hq
    · exact hq

theorem pref_completes {tgt : BitVec 2} {n : BitVec 6} (hs : Issuing s c t (Instr.pref a tgt n).opnds) :
    exec (.pref a tgt n) s = .next ((prefDone (c.key / 32) (t.advance c).ctx tgt.toNat
      (prefLines (c.src s t) a n) s).completed c t (t.advance c)) :=
  (rfl : _ = execPref a tgt n s).trans (issue_ok hs rfl)

end

/-- Settles O22: FENCE goes by its turn where it is .sc (logs 5 and 59), CCTL acts on the L1 or, as a counted store, on the copies,
and what PREF does at the homes and in the L1 leaves trays and clusters. -/
theorem fenceAndCacheResults : Obligations.FenceAndCacheResults := by
  unfold Obligations.FenceAndCacheResults
  intro s c t r
  refine ⟨?_, fun kind scope hs hl => fence_raises hs hl, ?_, ?_, ?_, ?_⟩
  · intro kind scope hs hl cores
    refine ⟨fun s1 hg => fence_completes hs hl hg, fun hsc => ⟨fun hn => ?_, fun n hn => ⟨fun ho => ?_, fun ho hf => ?_⟩⟩⟩
    · exact (fence_eq_issue ..).trans (issue_claim hs (fenceBody_of_inTurn hl hsc (inTurn_unclaimed hn)))
    · exact (fence_eq_issue ..).trans (issue_claim hs (fenceBody_of_inTurn hl hsc (inTurn_overtaken hn ho)))
    · exact (fence_eq_issue ..).trans (issue_stay hs (fenceBody_of_inTurn hl hsc (inTurn_waits hn ho hf)))
  · intro a n hs
    exact (rfl : _ = execCctl a 0 n s).trans (issue_ok hs rfl)
  · intro a n hs ls
    refine (rfl : _ = execCctl a 1 n s).trans (issue_ok hs ?_)
    simp only [advance_ctx]
    rfl
  · intro a kind n hs hk hc ls s'
    exact ⟨_, cctl_acts_on_copies hs hk hc, storeTray_sent [], cctl_copies_cores ..⟩
  · intro a tgt n hs
    exact ⟨_, pref_completes hs, keeps_prefDone homeFree_trays (fun _ _ _ => rfl) ..,
      keeps_prefDone homeFree_clusters (fun _ _ _ => rfl) .., fun hfull => if_pos hfull⟩

end Sys2Proof.FencesAndCaches

/-!
# Events of translation (O33)

Each function that an event runs is said once: what an invalidation leaves in the TLBs, what a park that ends leaves, what a
reporting port grants.
-/

namespace Sys2Proof.TranslationEvents
open Sys2Proof.Machine Sys2Proof.Laws

/-! ### A context's record and the records under all keys -/

theorem ctx_onCtx_same {s : State} {x : Nat} {t : Ctx} (h : s.ctxs.get? x = some t) (f : Ctx → Ctx) :
    (s.onCtx x f).ctx x = f t := by
  simp [State.ctx, get_upd, h]

/-- What a change to a context's record leaves of every record, each context keeps. -/
theorem onCtx_keeps {α : Type} {g : Ctx → α} {f : Ctx → Ctx} (hf : ∀ t, g (f t) = g t) (s : State) (d x : Nat) :
    g ((s.onCtx d f).ctx x) = g (s.ctx x) := by
  unfold State.ctx
  rw [onCtx_ctxs, get_upd]
  split
  · rename_i h
    subst h
    cases s.ctxs.get? x <;> simp [hf]
  · rfl

theorem get_all {α : Type} (m : KMap α) (f : Nat → α → α) (k : Nat) : (m.all' f).get? k = (m.get? k).map (f k) := by
  induction m with
  | nil => rfl
  | cons e r ih =>
    change (if k = e.1 then some (f e.1 e.2) else KMap.get? (KMap.all' r f) k) =
      (if k = e.1 then some e.2 else KMap.get? r k).map (f k)
    split
    · rename_i h
      simp [h]
    · exact ih

/-! ### Invalidations (R213, R224) -/

/-- Every TLB entry of every core meets P. -/
def TlbsAll (P : TlbEntry → Prop) (s : State) : Prop := ∀ e ∈ s.cores, ∀ y ∈ e.2.tlb, P y

/-- An entry kept by `tlbDrop` was there, and the filter of `tlbDrop` keeps it. -/
theorem of_mem_tlbDrop {s : State} {own lo hi : Nat} {subs : List Nat} {e : Nat × Core} {y : TlbEntry}
    (he : e ∈ (s.tlbDrop own lo hi subs).cores) (hy : y ∈ e.2.tlb) :
    (∃ e' ∈ s.cores, y ∈ e'.2.tlb) ∧ (y.ctx = own → y.page < hi → ¬ lo < y.page + y.xl.size) := by
  obtain ⟨e', he', rfl⟩ := List.mem_map.mp he
  obtain ⟨hmem, hkeep⟩ := List.mem_filter.mp hy
  refine ⟨⟨e', he', hmem⟩, fun hc hp hl => ?_⟩
  simp [hc, hp, hl] at hkeep

theorem tlbsAll_tlbDrop {P : TlbEntry → Prop} {s : State} (h : TlbsAll P s) (own lo hi : Nat) (subs : List Nat) :
    TlbsAll P (s.tlbDrop own lo hi subs) := fun _ he _ hy =>
  let ⟨⟨e', he', hy'⟩, _⟩ := of_mem_tlbDrop he hy
  h e' he' _ hy'

/-- Advancing a GEN keeps ROOT and memory, and only takes entries from the TLBs. -/
theorem bumpGen_keeps {s : State} (d x : Nat) :
    ((s.bumpGen d).ctx x).root = (s.ctx x).root ∧ (s.bumpGen d).mem = s.mem ∧
      ∀ P, TlbsAll P s → TlbsAll P (s.bumpGen d) := by
  unfold State.bumpGen
  extract_lets s1
  have hs1 : s1.ctx x = s.ctx x ∧ s1.mem = s.mem ∧ ∀ P, TlbsAll P s → TlbsAll P s1 := by
    subst s1
    split
    · exact ⟨rfl, rfl, fun P h => tlbsAll_tlbDrop h _ _ _ _⟩
    · exact ⟨rfl, rfl, fun P h => h⟩
  obtain ⟨hctx, hmem, htlb⟩ := hs1
  exact ⟨(onCtx_keeps (g := Ctx.root) (f := fun t => { t with gen := t.gen + 1 }) (fun _ => rfl) s1 d x).trans
    (congrArg Ctx.root hctx), hmem, htlb⟩

theorem bumpGens_keep {s : State} (l : List Nat) (x : Nat) :
    let q := l.foldl (fun s d => s.bumpGen d) s
    (q.ctx x).root = (s.ctx x).root ∧ q.mem = s.mem ∧ ∀ P, TlbsAll P s → TlbsAll P q := by
  refine List.foldlRecOn (motive := fun q : State =>
    (q.ctx x).root = (s.ctx x).root ∧ q.mem = s.mem ∧ ∀ P, TlbsAll P s → TlbsAll P q) l _ ⟨rfl, rfl, fun _ h => h⟩ ?_
  intro q hq d _
  obtain ⟨hroot, hmem, htlb⟩ := hq
  obtain ⟨hroot', hmem', htlb'⟩ := bumpGen_keeps (s := q) d x
  exact ⟨hroot'.trans hroot, hmem'.trans hmem, fun P h => htlb' P (htlb P h)⟩

/-- An invalidation of the whole space of x keeps ROOT and memory, and leaves no TLB entry of x but one that holds no
address below 2^52. -/
theorem invalidate_whole (s : State) (x : Nat) :
    let q := s.invalidate x 0 0
    (q.ctx x).root = (s.ctx x).root ∧ q.mem = s.mem ∧
      TlbsAll (fun y => y.ctx = x → 2 ^ 52 ≤ y.page ∨ y.page + y.xl.size = 0) q := by
  have hdrop : TlbsAll (fun y => y.ctx = x → 2 ^ 52 ≤ y.page ∨ y.page + y.xl.size = 0)
      (s.tlbDrop x 0 (2 ^ 52) (s.descendants x)) := fun e he y hy hc => by
    have hout := (of_mem_tlbDrop he hy).2 hc
    omega
  obtain ⟨hroot, hmem, htlb⟩ := bumpGens_keep (s := s.tlbDrop x 0 (2 ^ 52) (s.descendants x)) (s.descendants x) x
  obtain ⟨hroot', hmem', htlb'⟩ := bumpGen_keeps
    (s := (s.descendants x).foldl (fun s d => s.bumpGen d) (s.tlbDrop x 0 (2 ^ 52) (s.descendants x))) x x
  exact ⟨hroot'.trans hroot, hmem'.trans hmem, htlb' _ (htlb _ hdrop)⟩

/-- A write to INVSEQ starts its invalidation where none is in progress. -/
theorem invKick_starts {s : State} {c : Nat} (n : Word) (hq : (s.ctx c).invq = []) :
    s.invKick c n = (s.onCtx c fun t => { t with invq := t.invq ++ [(n, t.invaddr, t.invlen)] }).invalidate c
      (s.ctx c).invaddr.toNat (65536 * (s.ctx c).invlen.toNat) := by
  simp [State.invKick, hq]

theorem invalidationKick_starts {s : State} {x : Nat} {t : Ctx} (n : BitVec 32) (ht : s.ctxs.get? x = some t)
    (hq : t.invq = []) :
    exec (.invalidationKick x n) s = .next (((s.onCtx x fun t => { t with invseq := n }).onCtx x fun t =>
      { t with invq := t.invq ++ [(n, t.invaddr, t.invlen)] }).invalidate x t.invaddr.toNat (65536 * t.invlen.toNat)) := by
  have hctx := ctx_onCtx_same ht fun t => { t with invseq := n }
  refine congrArg Host.Outcome.next ((invKick_starts n ((congrArg Ctx.invq hctx).trans hq)).trans ?_)
  rw [hctx]

/-- The only invalidation in progress completes: INVDONE takes its number. -/
theorem invalidationComplete_last {s : State} {x : Nat} {n : BitVec 32} {a : BitVec 52} {l : BitVec 32}
    (hq : (s.ctx x).invq = [(n, a, l)]) (he : s.exportsOut x = false) :
    exec (.invalidationComplete x) s = .next (s.onCtx x fun t => { t with invdone := n, invq := [] }) := by
  change execInvalidationComplete x s = _
  simp [execInvalidationComplete, hq, he]

theorem rootWrite_flushes {s : State} {x : Nat} (v : BitVec 64) (hx : s.ctxs.get? x ≠ none) :
    ∃ s' : State, exec (.rootWrite x v) s = .next s' ∧ (s'.ctx x).root = BitVec.ofNat 52 v.toNat ∧ s'.mem = s.mem ∧
      TlbsAll (fun y => y.ctx = x → 2 ^ 52 ≤ y.page ∨ y.page + y.xl.size = 0) s' := by
  obtain ⟨t, ht⟩ := Option.ne_none_iff_exists'.mp hx
  obtain ⟨hroot, hmem, htlb⟩ := invalidate_whole (s.onCtx x fun t => { t with root := BitVec.ofNat 52 v.toNat }) x
  exact ⟨_, rfl, hroot.trans (congrArg Ctx.root (ctx_onCtx_same ht _)), hmem, htlb⟩

/-! ### Parks (R229, R247) -/

theorem unpark_of_parked {t : Tray} {p : Park} (hp : t.wait = .park p) (ok : Park → Bool) :
    t.unpark ok = if ok p then { t with wait := .run } else t := by
  simp [Tray.unpark, Tray.parkedBy, hp]

theorem unpark_tray (s : State) (ok : Tray → Park → Bool) (okOp : Op → Park → Bool) (key : Nat) :
    (s.unpark ok okOp).trays.get? key = (s.trays.get? key).map fun t => t.unpark (ok t) :=
  get_all s.trays (fun _ t => t.unpark (ok t)) key

/-- A replay by the root: the park goes on where the token names it. -/
theorem replayWrite_wakes {s : State} {key : Nat} {t : Tray} {p : Park} (x : Nat) (token : BitVec 32)
    (ht : s.trays.get? key = some t) (hp : t.wait = .park p) (hw : p.fctx = 0 ∨ s.isAncestor 0 p.fctx = true) :
    ∃ s' : State, exec (.replayWrite x token) s = .next s' ∧ s'.mem = s.mem ∧
      s'.trays.get? key = some (if t.ctx = x ∧ p.num = token.toNat / 65536 ∧
        p.home = token.toNat % 1024 * 32 + token.toNat / 1024 % 32 then { t with wait := .run } else t) := by
  refine ⟨s.replay 0 x token.toNat, rfl, rfl, ?_⟩
  unfold State.replay
  rw [unpark_tray, ht, Option.map_some, unpark_of_parked hp]
  simp [hw, and_assoc]

/-- A park of a resident tray that meets the condition becomes terminal. -/
theorem whenPark_ends {s : State} {key : Nat} {t : Tray} {p : Park} {ok : Ctx → Park → Bool} (kind : FaultKind)
    (ht : s.trays.get? key = some t) (hp : t.wait = .park p) (hok : ok (s.ctx t.ctx) p = true) :
    s.whenPark false key ok kind = s.endPark key t p kind := by
  simp [State.whenPark, ht, hp, hok]

/-! ### The reporting port (R231, R232) -/

theorem class_of_grantOf {s : State} {die cls i : Nat} {q : WaitingRecord} (hg : s.grantOf die cls = some i)
    (hq : s.records[i]? = some q) : q.cls = cls := by
  have hfound := List.find?_some hg
  simp only [hq, Bool.and_eq_true, beq_iff_eq] at hfound
  exact hfound.1.2

/-- A retryable record whose ring takes it leaves the port. -/
theorem reportWrite_done {s : State} {i : Nat} {q : WaitingRecord} (hq : s.records[i]? = some q) (hc : q.cls = 1) {w : State}
    (hw : State.ringPut { s with records := s.records.eraseIdx i } q.ctx (s.ctx q.ctx).rring.toNat
      (s.ctx q.ctx).rlog.toNat q.bytes = (.done, w)) : s.reportWrite i = w := by
  simp [State.reportWrite, hq, hc, hw]

/-- Where a port has a record of one class only, it grants that record, and counts the grant. -/
theorem reportGrant_only {s : State} {die i : Nat} (h0 : s.grantOf die 0 = none) (h1 : s.grantOf die 1 = some i)
    (h2 : s.grantOf die 2 = none) :
    ∃ turns, s.reportGrant die = { s with reportTurns := turns }.reportWrite i := by
  have hcan : ([0, 1, 2].filter fun k => (s.grantOf die k).isSome) = [1] := by simp [h0, h1, h2]
  unfold State.reportGrant
  simp only [hcan]
  by_cases hleft : 0 < (s.reportLeft die).getD 1 0
  · simp only [List.find?_cons, hleft, decide_true, h1]
    exact ⟨_, rfl⟩
  · simp only [List.find?_cons, hleft, decide_false, List.find?_nil, List.head?_cons, Option.map_some, h1]
    exact ⟨_, rfl⟩

theorem faultRecordDeferred_leaves {s : State} {die i : Nat} {q : WaitingRecord} (h0 : s.grantOf die 0 = none)
    (h1 : s.grantOf die 1 = some i) (h2 : s.grantOf die 2 = none) (hq : s.records[i]? = some q) :
    ∃ turns,
      let w := State.ringPut { s with reportTurns := turns, records := s.records.eraseIdx i } q.ctx
        (s.ctx q.ctx).rring.toNat (s.ctx q.ctx).rlog.toNat q.bytes
      w.1 = .done → exec (.faultRecordDeferred die) s = .next w.2 := by
  obtain ⟨turns, hgrant⟩ := reportGrant_only h0 h1 h2
  refine ⟨turns, fun hdone => congrArg Host.Outcome.next (hgrant.trans ?_)⟩
  exact reportWrite_done (s := { s with reportTurns := turns }) hq (class_of_grantOf h1 hq) (Prod.ext hdone rfl)

/-! ### Register writes (R389, R66, R312) -/

theorem registerWrite_page {page : Nat} (hp : page < 4096) (s : State) (w off : Nat) (v : BitVec 64) :
    exec (.registerWrite w page off v) s = .next (s.ctlWrite w page off 8 v.toNat) :=
  congrArg Host.Outcome.next (if_pos hp)

theorem registerWrite_queue {s : State} {q w : Nat} (hq : q < 1024) (ho : s.queueOwner q = some w) (off : Nat)
    (v : BitVec 64) : exec (.registerWrite w (4096 + q) off v) s = .next (s.qcbWrite q off 8 v.toNat) := by
  refine congrArg Host.Outcome.next ((if_neg (by omega)).trans ((if_pos (by omega)).trans ?_))
  rw [Nat.add_sub_cancel_left]
  exact if_pos ho

/-- Settles O33: each event by what the function it runs does; that ROOT keeps its low 52 bits is log 42, the grant of the
port R232 and log 65. -/
theorem translationEventResults : Obligations.TranslationEventResults := by
  unfold Obligations.TranslationEventResults
  intro s x
  refine ⟨fun t n ht hq => invalidationKick_starts n ht hq, fun n a l hq he => invalidationComplete_last hq he,
    fun v hx => rootWrite_flushes v hx, fun token key t p ht hp hw => replayWrite_wakes x token ht hp hw, ?_,
    fun die i q h0 h1 h2 hq => faultRecordDeferred_leaves h0 h1 h2 hq, fun w off v => ⟨?_, ?_, rfl⟩⟩
  · intro key t p ht hp
    refine ⟨fun hto hk => ?_, fun hto hk => ?_⟩
    · exact congrArg Host.Outcome.next (whenPark_ends .parktimeout ht hp
        (Bool.and_eq_true_iff.mpr ⟨bne_iff_ne.mpr hto, bne_iff_ne.mpr hk⟩))
    · exact congrArg Host.Outcome.next (whenPark_ends .poolempty ht hp
        (Bool.and_eq_true_iff.mpr ⟨bne_iff_ne.mpr hto, beq_iff_eq.mpr hk⟩))
  · exact fun page hp => registerWrite_page hp s w off v
  · exact fun q hq ho => registerWrite_queue hq ho off v

end Sys2Proof.TranslationEvents

/-!
# Migrations (O26)

A migration of a leaf whose 16 bytes lie on two lines shows that the statement reads the old frame too late (R208, R238).
-/

namespace Sys2Proof.Migrations
open Sys2Proof.Machine Sys2Proof.Laws

/-! ### The state: a leaf on two lines -/

/-- The root's sheet maps the spaces of its children 254 bytes up: a leaf at a multiple of 256 lies on two lines. -/
def skewedRoot : Ctx := { rootCtx 15#4 0 with slimit := BitVec.ofNat 52 (2 ^ 40), csoff := 254 }

/-- A child of the root with page tables of its own from 0x4000 of the root's space on. -/
def skewedChild : Ctx := { Ctx.blank with st := .running, depth := 1, root := 0x4000 }

/-- A die's copy of a line, without a partial. -/
def ownedCopy : DieCopy := ⟨.e, 1, 1, 0, 0, [], 0, 0, 0, 0⟩

/-- A die's copy in U: 16 is still to be added to the four bytes from the line's start on. -/
def addingCopy : DieCopy := { ownedCopy with st := .u, part := [(0, 16)] }

/-- The migration of page 0 of the child to frame 0x50000. -/
def migration : MigrOp := ⟨0, 0x50000, 0, 0, 90⟩

/-- The accepted command. -/
def migrationOp : Op := ⟨3, ⟨1, 0, 0, 0, 0, 1, 0, 0, noVer⟩, 0, 1, 0, 0, 1, .migr migration, none⟩

/-- The child's tables map page 0 to frame 0x10000. The leaf lies at 0xD0FE, its FRAME on line 0xD1, where a die's partial adds
one frame to it; line 0x2AA, of frame 0x20000, has a copy. -/
def skewedState : State :=
  let tables : State := { State.reset with
    stage := .s2, dies := 15#4, regions := [(0, ⟨2, 0, 0⟩)], ctxs := [(0, skewedRoot), (1, skewedChild)],
    ops := [migrationOp] }
  { ((((tables.wr 0x40FE 8 0x8001).wr 0x80FE 8 0xC001).wr 0xC0FE 8 0xD003).wr 0xD0FE 16 0x10000F) with
    lines := [(0xD1, [(0, addingCopy)]), (0x2AA, [(0, ownedCopy)])] }

/-- The frame that the leaf names as the walker reads it. -/
def leafFrame (s : State) : Nat := bits (s.tblRd 0xD0FE 16) 55 20 * 65536

/-- The migration's leaf marked and its translations discarded. -/
def skewedMarked : State := (skewedState.setLeafMig 1 0xD0FE true).invalidate 1 0 65536

theorem skewedState_migrCheck : skewedState.migrCheck 1 0 0x50000 = (0, 0xD0FE, 65536) := by decide +kernel

/-- The walker's read merges the partial once. -/
theorem leafFrame_skewedState : leafFrame skewedState = 0x20000 := by decide +kernel

/-- Marking the leaf writes the merged FRAME beside the partial of line 0xD1, since only line 0xD0 is merged for good: the next
read adds the partial again. -/
theorem leafFrame_skewedMarked : leafFrame skewedMarked = 0x30000 := by decide +kernel

/-- The flush of frame 0x20000 drops line 0x2AA, that of frame 0x30000 does not. -/
theorem flushed_lines :
    ((skewedMarked.flushFrame 1 0x20000 65536).lines.get? 0x2AA).isSome = false ∧
      ((skewedMarked.flushFrame 1 0x30000 65536).lines.get? 0x2AA).isSome = true := by decide +kernel

/-! ### The beginning of a migration -/

/-- A migration begins whose checks pass: the old frame that it flushes is the one the leaf named before it was marked. -/
theorem migrComplete_begins {s : State} {id : Nat} {o : Op} {k : MigrOp} {pl size : Nat} (ho : s.op? id = some o)
    (hb : o.body = .migr k) (hp : o.phase = 1) (hc : s.migrCheck o.tag.ctx k.va k.dst = (0, pl, size)) :
    exec (.migrComplete id) s = .next ((((s.setLeafMig o.tag.ctx pl true).invalidate o.tag.ctx (k.va - k.va % size)
      size).flushFrame o.tag.ctx (bits (s.tblRd pl 16) 55 20 * 65536) size).onOp o.id fun o =>
        { o with phase := 2, body := .migr { k with leaf := pl, size := size } }) := by
  change execMigrComplete id s = _
  simp [execMigrComplete, State.migrBegin, ho, hb, hp, hc]

/-- What O26 would have of a migration whose checks pass: the frame that the leaf named before it was marked and the one that it
names after are flushed with one effect on the lines. -/
theorem flush_eq_of_migrationResults (h : Obligations.MigrationResults) {s : State} {id : Nat} {o : Op} {k : MigrOp}
    {pl size : Nat} (ho : s.op? id = some o) (hb : o.body = .migr k) (hp : o.phase = 1)
    (hc : s.migrCheck o.tag.ctx k.va k.dst = (0, pl, size)) :
    let m := (s.setLeafMig o.tag.ctx pl true).invalidate o.tag.ctx (k.va - k.va % size) size
    (m.flushFrame o.tag.ctx (bits (s.tblRd pl 16) 55 20 * 65536) size).lines =
      (m.flushFrame o.tag.ctx (bits (m.tblRd pl 16) 55 20 * 65536) size).lines := by
  obtain ⟨_, hbegin, _⟩ := h s (Cur.at 0 0 0 1) loadTray
  obtain ⟨_, hpass⟩ := hbegin id o k 0 pl size ho hb hp hc
  have hnext := Host.Outcome.next.inj ((migrComplete_begins ho hb hp hc).symm.trans (hpass rfl))
  exact (congrArg State.lines hnext :)

/-- Refutes O26: where the checks pass the statement has the migration flush the frame that the leaf names after MIG is set;
the model flushes the one that it named before. They differ where the leaf's 16 bytes lie on two lines of which the second has
a partial, as under a sheet whose offset is no multiple of 16 (a State as the statement admits, though no CTXGRANT makes it). -/
theorem not_migrationResults : ¬ Obligations.MigrationResults := by
  intro h
  have hflush : (skewedMarked.flushFrame 1 (leafFrame skewedState) 65536).lines =
      (skewedMarked.flushFrame 1 (leafFrame skewedMarked) 65536).lines :=
    flush_eq_of_migrationResults h (s := skewedState) (id := 3) (o := migrationOp) (k := migration) rfl rfl rfl
      skewedState_migrCheck
  rw [leafFrame_skewedState, leafFrame_skewedMarked] at hflush
  obtain ⟨hdropped, hkept⟩ := flushed_lines
  rw [hflush, hkept] at hdropped
  exact Bool.noConfusion hdropped

end Sys2Proof.Migrations

/-!
# Events of the snapshot engines (O32)

An accepted command runs what its kind says; each such function is said once, in the branch its checks select. Then the
switch of a copy-on-write and the donation of a frame.
-/

namespace Sys2Proof.SnapshotEvents
open Sys2Proof.Machine

section
variable {s : State} {o : Op} {d : Nat}

/-! ### What an accepted command runs -/

/-- What the snapshot engine does to perform a command that is neither waiting to be accepted nor parked. -/
def perform (s : State) (o : Op) (d : Nat) : SnapOp → State
  | .snap start len scope v below _ => s.snapAt o d start len scope v below
  | .refs h up => (s.sliceCount o.tag.ctx h false up).2.snapDone o [.s d (s.sliceCount o.tag.ctx h false up).1]
  | .pins h up => (s.sliceCount o.tag.ctx h true up).2.snapDone o [.s d (s.sliceCount o.tag.ctx h true up).1]
  | .step v => (s.stepGo o.tag.ctx v).2.snapDone o [.s d (s.stepGo o.tag.ctx v).1]
  | .query start len w buf cap prog => s.queryGo o d start len w buf cap prog

theorem snapshotOpComplete_performs {id : Nat} {k : SnapOp} (ho : s.op? id = some o) (hphase : o.phase ≠ 0)
    (hpark : o.park = none) (hb : o.body = .snap d k) :
    exec (.snapshotOpComplete id) s = .next (perform s o d k) := by
  change execSnapshotOpComplete id s = _
  have hgo : ¬(o.phase = 0 || o.park.isSome) = true := by simp [hphase, hpark]
  unfold execSnapshotOpComplete
  simp only [ho, if_neg hgo, hb]
  cases k <;> rfl

/-! ### SNAP (R251) -/

theorem snapAt_fails {start len : Nat} {scope : Word} (v : Word) (below : Bool)
    (hk : s.snapCheck o.tag.ctx start len scope ≠ 0) :
    s.snapAt o d start len scope v below =
      s.opDone o [.s d (snapFail (s.snapCheck o.tag.ctx start len scope))] none false :=
  if_pos (bne_iff_ne.mpr hk)

theorem snapAt_freezes {start len : Nat} {scope : Word} (v : Word)
    (hk : s.snapCheck o.tag.ctx start len scope = 0) (hbusy : s.rangeBusy o.tag.ctx start len = false) :
    s.snapAt o d start len scope v false =
      let q := s.snapGo o.tag.ctx o.tag.core ((s.sliceFree o.tag.ctx).getD 0) start len v
      q.2.opDone o [.s d q.1] none false := by
  simp [State.snapAt, State.snapDone, hk, hbusy]

/-! ### SACQ, SREL, VPIN and VUNPIN (R252), VSTEP (R253) -/

theorem sliceCount_refs {c i n : Nat} {h : Word} {x : Slice} {up : Bool} (hx : s.sliceOf c h = some (i, x))
    (hn : stepCount x.refs up = some n) :
    s.sliceCount c h false up = (BitVec.ofNat 32 n, s.setSlice c i { x with refs := n }) := by
  simp [State.sliceCount, hx, hn]

theorem sliceCount_pins {c i n : Nat} {h : Word} {x : Slice} {up : Bool} (hx : s.sliceOf c h = some (i, x))
    (hn : stepCount x.pins up = some n) :
    s.sliceCount c h true up = (BitVec.ofNat 32 n, s.setSlice c i { x with pins := n }) := by
  simp [State.sliceCount, hx, hn]

theorem stepGo_later {c : Nat} {v : Word} (hv : (s.ctx c).step.ult v = true) :
    s.stepGo c v = ((s.ctx c).step, (s.onCtx c fun t => { t with step := v }).clearStamped c) :=
  congrArg (Prod.mk _) (if_pos hv)

/-! ### VQRY (R254) -/

theorem queryGo_badRange {start len : Nat} (w : Word) (buf cap : Nat) (prog : Option (Nat × Nat))
    (hr : snapRangeBad start len = true) :
    s.queryGo o d start len w buf cap prog = s.opDone o [.s d (snapFail 1)] none false :=
  if_pos hr

theorem queryGo_badBuffer {start len buf cap : Nat} (w : Word) (prog : Option (Nat × Nat))
    (hr : snapRangeBad start len = false) (hb : cap = 0 ∨ 65535 < cap ∨ buf % 8 ≠ 0) :
    s.queryGo o d start len w buf cap prog = s.opDone o [.s d (snapFail 8)] none false :=
  (if_neg (Bool.eq_false_iff.mp hr)).trans (if_pos hb)

/-- The second result of VQRY, as the statement writes it. -/
theorem queryResult_eq (n start : Nat) (stop : Option Nat) :
    queryResult d n start stop = [.s d (BitVec.ofNat 32 n),
      .s (d + 1) ((stop.map fun a => BitVec.ofNat 32 (0x80000000 + (a - start) / 65536)).getD 0)] := by
  cases stop <;> rfl

/-- A query whose writes all succeed answers with their count and where it stopped. -/
theorem queryGo_writes {start len buf cap n : Nat} {w : Word} {prog : Option (Nat × Nat)} {s' : State} {stop : Option Nat}
    (hr : snapRangeBad start len = false) (hb : ¬(cap = 0 ∨ 65535 < cap ∨ buf % 8 ≠ 0))
    (hq : s.queryWrite o w.toNat buf cap (start + 65536 * len)
      ((s.queryEntries o.tag.ctx start (start + 65536 * len)).filter fun e => (prog.getD (0, 0)).2 ≤ e.1)
      (prog.getD (0, 0)).1 = (s', n, stop, none)) :
    s.queryGo o d start len w buf cap prog =
      ((s'.hear o.tag.core).l1Inval o.tag.core false).opDone o (queryResult d n start stop) none false := by
  simp only [State.queryGo, hr, Bool.false_eq_true, if_false, if_neg hb, hq]
  rfl

end

/-! ### Copy-on-write and donation (R245, R246) -/

/-- The switch of a copy whose chain record can be read. -/
theorem cowSwitch_switches {s : State} {k : Nat} {w : Cow} {ch : Chain} (hw : s.cows.get? k = some w)
    (hch : { s with cows := s.cows.del k }.chainRd w.ctx w.chain = .ok ch) :
    s.cowSwitch k =
      let s0 := { s with cows := s.cows.del k }
      let s2 := (s0.copyFrame w.ctx w.old w.new w.size).chainWr w.ctx w.chain
        ⟨false, false, 0, ⟨true, w.old, BitVec.ofNat 32 (s0.tblRd (w.leaf + 8) 4), w.high⟩ :: ch.slots.take 2⟩
      let s3 := s2.setLeafFrame w.ctx w.leaf w.new
      ((s3.tlbDrop w.ctx w.page (w.page + w.size) (s3.descendants w.ctx)).onCtx w.ctx fun t =>
        { t with cowcnt := t.cowcnt + 1 }).endParks w.leaf [.cow, .poolempty] := by
  simp only [State.cowSwitch, hw, hch]

/-- The size of the frame that a stack entry names, by its bit L. -/
def entrySize (e : Nat) : Nat := if e % 2 = 0 then 65536 else 2 ^ 21

/-- The address of the frame that a stack entry names. -/
def entryFrame (e : Nat) : Nat := bits e 51 16 * 65536

theorem donate_accepts {s s1 : State} {x e : Nat} (halign : entryFrame e % entrySize e = 0) (hzero : bits e 15 1 = 0)
    (he : e < 2 ^ 52) (hok : s.frameOk x (entryFrame e) (entrySize e) = true)
    (hroom : ((s.ctx x).stack (entrySize e)).1 < ((s.ctx x).stack (entrySize e)).2.1)
    (hquota : entrySize e / 65536 ≤ s.framesLeft x) (hpush : s.pushFrame x (entrySize e) (entryFrame e) = some s1) :
    s.donate x e = s1.onCtx x fun t =>
      { t with dacc := t.dacc + 1, frames := KMap.put t.frames (entryFrame e) (entrySize e / 65536) } := by
  have hgo : ¬(entryFrame e % entrySize e != 0 || bits e 15 1 != 0 || 2 ^ 52 ≤ e || !s.frameOk x (entryFrame e) (entrySize e) ||
      ((s.ctx x).stack (entrySize e)).2.1 ≤ ((s.ctx x).stack (entrySize e)).1 ||
      s.framesLeft x < entrySize e / 65536) = true := by
    simpa [halign, hzero, hok, hroom, hquota] using he
  refine (if_neg hgo).trans ?_
  unfold entrySize entryFrame at hpush
  simp only [hpush]
  rfl

/-- Settles O32: an accepted command runs what its kind says (`perform`), which the lemmas above give in the branch that the
hypotheses select; a copy-on-write and a donation likewise. -/
theorem snapshotEventResults : Obligations.SnapshotEventResults := by
  unfold Obligations.SnapshotEventResults
  intro s
  refine ⟨fun id o ho hphase => ⟨?_, ?_, ?_, ?_⟩, ?_, ?_⟩
  · intro hpark d start len scope v below g hb
    have hrun := snapshotOpComplete_performs ho hphase hpark hb
    refine ⟨fun hk => hrun.trans (congrArg _ (snapAt_fails v below hk)), ?_⟩
    rintro hk rfl hbusy
    exact hrun.trans (congrArg _ (snapAt_freezes v hk hbusy))
  · intro hpark d h up i x hx
    refine ⟨fun hb n hn => ?_, fun hb n hn => ?_⟩
    · rw [snapshotOpComplete_performs ho hphase hpark hb, perform, sliceCount_refs hx hn]
      rfl
    · rw [snapshotOpComplete_performs ho hphase hpark hb, perform, sliceCount_pins hx hn]
      rfl
  · intro hpark d v hb hv
    rw [snapshotOpComplete_performs ho hphase hpark hb, perform, stepGo_later hv]
    rfl
  · intro hpark d start len w buf cap prog hb
    have hrun := snapshotOpComplete_performs ho hphase hpark hb
    refine ⟨fun hr => hrun.trans (congrArg _ (queryGo_badRange w buf cap prog hr)),
      fun hr hbad => hrun.trans (congrArg _ (queryGo_badBuffer w prog hr hbad)), ?_⟩
    intro hr hpos hcap hbuf q
    have hgood : ¬(cap = 0 ∨ 65535 < cap ∨ buf % 8 ≠ 0) := by omega
    clear_value (hq : q = _)
    obtain ⟨s', n, stop, fault⟩ := q
    rintro rfl
    rw [hrun, perform, queryGo_writes hr hgood hq.symm, queryResult_eq]
  · intro k w ch hw hch
    exact congrArg Host.Outcome.next (cowSwitch_switches hw hch)
  · intro x e s1 hx size frame halign hzero he hok hroom hquota hpush
    exact congrArg Host.Outcome.next ((if_pos hx).trans (donate_accepts halign hzero he hok hroom hquota hpush))

end Sys2Proof.SnapshotEvents

/-!
# Words of a handler and the taking of an exception (O16, O17)

Each word of Table 17.8's handler answers by the causes that its mask leaves; an exception is taken by one of the three
cases of `State.raise` that a handled, a further and an unhandled cause select (R405, R406).
-/

namespace Sys2Proof.HandlerWords
open Sys2Proof.Machine Sys2Proof.Laws

section
variable {s : State} {c : Cur} {t : Tray} {b : SB}

/-! ### TRAP and SYS (R406) -/

theorem trap_raises (x : BitVec 7) :
    Completes s c t (.trap x) (s.completedRaising c t (t.advance c) [.trapi] (some x.toNat)) := fun h => by
  change execTrap x s = _
  exact issue_later h rfl

theorem sys_raises (x : BitVec 7) :
    Completes s c t (.sys x) (s.completedRaising c t (t.advance c) [.sysc] (some x.toNat)) := fun h => by
  change execSys x s = _
  exact issue_later h rfl

/-! ### TCLR, TRET and TREFL (R406) -/

/-- An engine word whose tray is put first, with an act on the whole state after it. -/
theorem engine_settle {i : Instr} {body : Src → Tray → State → Res} (h : EngineIssuing s c t i) {t0 : Tray}
    {f : State → State} (hb : body (c.src s t) (t.advance c) s = (c.src s t).settle t0 s f) :
    engine i.opnds s body = .next (s.completedBy c t t0 f) :=
  engine_ok h hb

theorem tclr_clears (h : EngineIssuing s c t (.tclr b)) :
    exec (.tclr b) s =
      .next (s.completed c t { t.advance c with cause := (t.advance c).cause &&& ~~~(c.src s t).sbz64 b }) := by
  change execTclr b s = _
  exact engine_ok h rfl

/-- TRET to a word that is no target traps (R43). -/
theorem tret_traps (h : EngineIssuing s c t (.tret b))
    (hg : s.targetOk (c.key / 32) (t.advance c).ctx (epcPc (c.src s t).t.epc) (epcS (c.src s t).t.epc) = false) :
    exec (.tret b) s = .next (s.trapped c t [.badtarget]) := by
  change execTret b s = _
  exact engine_trap h (if_pos (by simpa using hg))

/-- TRET that leaves no cause resumes, or departs where the tray is marked. -/
theorem tret_resumes (h : EngineIssuing s c t (.tret b))
    (hg : s.targetOk (c.key / 32) (t.advance c).ctx (epcPc (c.src s t).t.epc) (epcS (c.src s t).t.epc) = true)
    (hc : (t.advance c).cause &&& ~~~(c.src s t).sbz64 b = 0) :
    exec (.tret b) s = .next (s.completed c t
      ({ t.advance c with cause := (t.advance c).cause &&& ~~~(c.src s t).sbz64 b }.resume c.path
        (c.src s t).t.epc).departIfMarked) := by
  change execTret b s = _
  exact engine_ok h ((if_neg (by simpa using hg)).trans (if_pos hc))

/-- TRET that leaves causes delivers them. -/
theorem tret_redelivers (h : EngineIssuing s c t (.tret b))
    (hg : s.targetOk (c.key / 32) (t.advance c).ctx (epcPc (c.src s t).t.epc) (epcS (c.src s t).t.epc) = true)
    (hc : (t.advance c).cause &&& ~~~(c.src s t).sbz64 b ≠ 0) :
    exec (.tret b) s = .next (s.completedBy c t
      { t.advance c with cause := (t.advance c).cause &&& ~~~(c.src s t).sbz64 b } fun s => s.redeliver c.key) := by
  change execTret b s = _
  exact engine_settle h ((if_neg (by simpa using hg)).trans (if_neg hc))

/-- TREFL of causes of which none is set only goes on. -/
theorem trefl_passes (h : EngineIssuing s c t (.trefl b)) (hm : (t.advance c).cause &&& (c.src s t).sbz64 b = 0) :
    exec (.trefl b) s = .next (s.completed c t (t.advance c)) := by
  change execTrefl b s = _
  exact engine_ok h (if_pos hm)

/-- TREFL reflects the set causes of its mask and clears them. -/
theorem trefl_reflects (h : EngineIssuing s c t (.trefl b)) (hm : (t.advance c).cause &&& (c.src s t).sbz64 b ≠ 0) :
    exec (.trefl b) s = .next (s.completedBy c t (t.advance c) fun s =>
      (s.reflect c.key ((t.advance c).cause &&& (c.src s t).sbz64 b) 2 0 none true).onTray c.key fun x =>
        { x with cause := x.cause &&& ~~~((t.advance c).cause &&& (c.src s t).sbz64 b) }) := by
  change execTrefl b s = _
  exact engine_settle h (if_neg hm)

end

/-- Settles O16: TRAP and SYS leave their cause for the following word, and the causes that TRET's and TREFL's masks leave
decide between their answers. -/
theorem trapInstructionResults : Obligations.TrapInstructionResults := by
  unfold Obligations.TrapInstructionResults
  intro s c t
  exact ⟨trap_raises, sys_raises, fun b => tclr_clears, fun b => tret_traps, fun b => tret_resumes,
    fun b => tret_redelivers, fun b => trefl_passes, fun b => trefl_reflects⟩

/-! ### Taking an exception (R44, R405) -/

section
variable {s : State} {key path : Nat} {cs : List Cause} {pc : Pc} {single : Bool} {t : Tray}

/-- The path of a tray stands at the word of its cause. -/
def atWord (t : Tray) (path : Nat) (pc : Pc) : Tray :=
  t.setPath path { t.path path with pc := pc, single := false, entry := false }

/-- The tray with its first causes set: EPC names their word, and their path is the handler's. -/
def firstCaused (t : Tray) (path : Nat) (pc : Pc) (single : Bool) (cs : List Cause) : Tray :=
  { atWord t path pc with cause := causeBits cs, epc := mkEpc pc single, hslot := path }

/-- The tray with its causes set, EPC and the handler's path taken with the first of them. -/
def caused (t : Tray) (path : Nat) (pc : Pc) (single : Bool) (cs : List Cause) : Tray :=
  { atWord t path pc with
    cause := t.cause ||| causeBits cs, epc := if t.cause == 0 then mkEpc pc single else t.epc,
    hslot := if t.cause == 0 then path else t.hslot }

theorem caused_first (h0 : t.cause = 0) : caused t path pc single cs = firstCaused t path pc single cs := by
  simp [caused, firstCaused, h0]

theorem caused_nested (h0 : t.cause ≠ 0) :
    caused t path pc single cs = { atWord t path pc with cause := t.cause ||| causeBits cs } := by
  unfold caused
  simp only [beq_false_of_ne h0, Bool.false_eq_true, if_false]
  simp [atWord]

/-- Causes of which none makes the tray leave enter its handler, or are reflected, but for a tray parked by a reflection. -/
theorem raise_stays (ht : s.trays.get? key = some t) (hd : causeBits cs &&& departBits &&& ~~~(s.ctx t.ctx).handled = 0) :
    let t1 := caused t path pc single cs
    s.raise key path cs pc single none =
      if t.cause == 0 && t1.cause &&& ~~~(s.ctx t.ctx).handled == 0 && (s.ctx t.ctx).handler != 0 then
        s.setTray key (t1.setPath path { t1.path path with pc := (s.ctx t.ctx).handler, entry := true })
      else
        match t.wait with
        | .reflected _ _ => s.setTray key t1
        | _ =>
          if t1.cause &&& ~~~departBits = 0 then s.setTray key t1
          else (s.setTray key t1).reflect key (t1.cause &&& ~~~departBits) 1 (if t.cause == 0 then 0 else pc.toNat) none
            false := by
  unfold State.raise
  simp only [ht]
  exact if_neg (not_not.2 hd)

/-- What does not enter the handler is reflected. -/
theorem raise_reflected (ht : s.trays.get? key = some t)
    (hd : causeBits cs &&& departBits &&& ~~~(s.ctx t.ctx).handled = 0)
    (he : (t.cause == 0 && (caused t path pc single cs).cause &&& ~~~(s.ctx t.ctx).handled == 0) = false)
    (hw : ∀ n x, t.wait ≠ .reflected n x) (hr : (caused t path pc single cs).cause &&& ~~~departBits ≠ 0) :
    s.raise key path cs pc single none =
      (s.setTray key (caused t path pc single cs)).reflect key ((caused t path pc single cs).cause &&& ~~~departBits) 1
        (if t.cause == 0 then 0 else pc.toNat) none false := by
  rw [raise_stays ht hd]
  rw [if_neg (by rw [he]; exact Bool.false_ne_true)]
  split
  · exact absurd ‹_› (hw _ _)
  · exact if_neg hr

/-- Handled causes are no departure that is not handled. -/
theorem noDeparture_of_handled {b h : BitVec 64} (hh : b &&& ~~~h = 0) : b &&& departBits &&& ~~~h = 0 := by
  rw [BitVec.and_assoc, BitVec.and_comm departBits, ← BitVec.and_assoc, hh]
  exact BitVec.zero_and

/-- Bits of which none is a departure keep all of them. -/
theorem and_not_departBits {b : BitVec 64} (hd : b &&& departBits = 0) : b &&& ~~~departBits = b := by
  have h : b &&& (departBits ||| ~~~departBits) = b := (congrArg (b &&& ·) (by decide)).trans BitVec.and_allOnes
  rw [BitVec.and_or_distrib_left, hd] at h
  exact BitVec.zero_or.symm.trans h

/-- Handled causes of a tray that had none enter the handler. -/
theorem raise_enters (ht : s.trays.get? key = some t) (h0 : t.cause = 0)
    (hh : causeBits cs &&& ~~~(s.ctx t.ctx).handled = 0) (he : (s.ctx t.ctx).handler ≠ 0) :
    let t1 := firstCaused t path pc single cs
    s.raise key path cs pc single none =
      s.setTray key (t1.setPath path { t1.path path with pc := (s.ctx t.ctx).handler, entry := true }) := by
  rw [raise_stays ht (noDeparture_of_handled hh), caused_first h0]
  refine if_pos ?_
  rw [Bool.and_eq_true, Bool.and_eq_true]
  exact ⟨⟨beq_iff_eq.2 h0, beq_iff_eq.2 hh⟩, bne_iff_ne.2 he⟩

/-- A cause found while others are set is reflected with them, and EPC stays. -/
theorem raise_nested (ht : s.trays.get? key = some t) (h0 : t.cause ≠ 0)
    (hd : causeBits cs &&& departBits &&& ~~~(s.ctx t.ctx).handled = 0) (hw : ∀ n x, t.wait ≠ .reflected n x)
    (hr : (t.cause ||| causeBits cs) &&& ~~~departBits ≠ 0) :
    s.raise key path cs pc single none =
      (s.setTray key { atWord t path pc with cause := t.cause ||| causeBits cs }).reflect key
        ((t.cause ||| causeBits cs) &&& ~~~departBits) 1 pc.toNat none false := by
  rw [raise_reflected ht hd (by rw [beq_false_of_ne h0]; rfl) hw hr, caused_nested h0, beq_false_of_ne h0]
  rfl

/-- Causes that the context does not handle are reflected to its parent. -/
theorem raise_reflects (ht : s.trays.get? key = some t) (h0 : t.cause = 0) (hd : causeBits cs &&& departBits = 0)
    (hh : causeBits cs &&& ~~~(s.ctx t.ctx).handled ≠ 0) (hw : ∀ n x, t.wait ≠ .reflected n x) :
    s.raise key path cs pc single none =
      (s.setTray key (firstCaused t path pc single cs)).reflect key (causeBits cs) 1 0 none false := by
  have hc : (caused t path pc single cs).cause = causeBits cs := by rw [caused_first h0]; rfl
  have hb : causeBits cs ≠ 0 := fun h => hh (by rw [h]; exact BitVec.zero_and)
  have hno : causeBits cs &&& departBits &&& ~~~(s.ctx t.ctx).handled = 0 := by
    rw [hd]
    exact BitVec.zero_and
  rw [raise_reflected ht hno (by rw [hc, beq_false_of_ne hh, Bool.and_false]) hw (by rwa [hc, and_not_departBits hd]), hc,
    and_not_departBits hd, caused_first h0, if_pos (beq_iff_eq.2 h0)]

end

/-- Settles O17: each case is the branch of `State.raise` that its hypotheses select. -/
theorem exceptionEntry : Obligations.ExceptionEntry := by
  unfold Obligations.ExceptionEntry
  intro s key path cs pc single t ht
  exact ⟨raise_enters ht, raise_nested ht, raise_reflects ht⟩

end Sys2Proof.HandlerWords


/-!
# Commands and accesses of hosts (O48, O49, O50)

A command goes by its stage, then by the semaphore's refusal rule, and is then performed (R420, R421): one lemma for each
of the three ways.
-/

namespace Sys2Proof.HostCommands
open Sys2Proof.Machine

section
variable {s : State} {h : CmdHdr} {allowed exclusive : Bool} {f : State → State}

/-! ### The three ways of a command (R420, R421) -/

theorem command_notAllowed (hh : s.hears h.ep = true) :
    s.command h false exclusive f = s.toHost (.response h.ep h.tag 3 .none) := by
  simp [State.command, hh, State.respond]

theorem command_notHeld (hh : s.hears h.ep = true) (hq : s.semStatus h ≠ 0) :
    s.command h true true f = s.toHost (.response h.ep h.tag (s.semStatus h) .none) := by
  simp [State.command, hh, hq, State.respond]

/-- A command of the endpoint that holds the semaphore is performed, and one that needs none is. -/
theorem command_performed (hh : s.hears h.ep = true) (hq : exclusive = true → s.semStatus h = 0) :
    s.command h true exclusive f = f s := by
  cases exclusive
  · simp [State.command, hh]
  · simp [State.command, hh, hq rfl]

/-- The holder of the semaphore passes the refusal rule. -/
theorem semStatus_held (hq : s.sem = ⟨h.ep + 1, h.seq⟩) : s.semStatus h = 0 := by
  simp [State.semStatus, hq]

/-- Any other endpoint is told 1 where the other one is OWNER, and 2 otherwise. -/
theorem semStatus_notHeld (hq : ¬(s.sem.owner = h.ep + 1 ∧ s.sem.seq = h.seq)) :
    s.semStatus h = if s.sem.owner ≠ 0 ∧ s.sem.owner ≠ h.ep + 1 then 1 else 2 := by
  unfold State.semStatus
  split_ifs <;> simp_all

theorem semStatus_ne_zero (hq : ¬(s.sem.owner = h.ep + 1 ∧ s.sem.seq = h.seq)) : s.semStatus h ≠ 0 := by
  rw [semStatus_notHeld hq]
  split <;> decide

theorem always_performs (hh : s.hears h.ep = true) : s.always h f = f s :=
  command_performed hh (fun he => Bool.noConfusion he)

theorem atS2_performs (hh : s.hears h.ep = true) (hs : s.stage = .s2) (hq : exclusive = true → s.semStatus h = 0) :
    s.atS2 h exclusive f = f s := by
  have ha : (s.stage == .s2) = true := by simp [hs]
  rw [State.atS2, ha, command_performed hh hq]

theorem atS2_notHeld (hh : s.hears h.ep = true) (hs : s.stage = .s2) (hq : s.semStatus h ≠ 0) :
    s.atS2 h true f = s.toHost (.response h.ep h.tag (s.semStatus h) .none) := by
  have ha : (s.stage == .s2) = true := by simp [hs]
  rw [State.atS2, ha, command_notHeld hh hq]

theorem atS2_notAllowed (hh : s.hears h.ep = true) (hs : s.stage ≠ .s2) :
    s.atS2 h exclusive f = s.toHost (.response h.ep h.tag 3 .none) := by
  have ha : (s.stage == .s2) = false := by simpa using hs
  rw [State.atS2, ha, command_notAllowed hh]

theorem atHold_performs (hh : s.hears h.ep = true) (hs : s.stage = .s2 ∨ s.stage = .hold) (hq : s.semStatus h = 0) :
    s.atHold h f = f s := by
  have ha : (s.stage == .s2 || s.stage == .hold) = true := by simpa using hs
  rw [State.atHold, ha, command_performed hh fun _ => hq]

theorem atHold_notHeld (hh : s.hears h.ep = true) (hs : s.stage = .s2 ∨ s.stage = .hold) (hq : s.semStatus h ≠ 0) :
    s.atHold h f = s.toHost (.response h.ep h.tag (s.semStatus h) .none) := by
  have ha : (s.stage == .s2 || s.stage == .hold) = true := by simpa using hs
  rw [State.atHold, ha, command_notHeld hh hq]

theorem atHold_notAllowed (hh : s.hears h.ep = true) (h2 : s.stage ≠ .s2) (h1 : s.stage ≠ .hold) :
    s.atHold h f = s.toHost (.response h.ep h.tag 3 .none) := by
  have ha : (s.stage == .s2 || s.stage == .hold) = false := by simp [h2, h1]
  rw [State.atHold, ha, command_notAllowed hh]

theorem doneIf_done {ok : Bool} (hk : ok = true) :
    s.doneIf h ok f = (f s).toHost (.response h.ep h.tag 0 .none) := if_pos hk

end

/-! ### Stages (R420, Table 18.1) -/

/-- Settles O48: each command is one of S2, or one of S1 hold and S2, whose stage the state has not. -/
theorem commandNotAllowed : Obligations.CommandNotAllowed := by
  unfold Obligations.CommandNotAllowed
  intro s h hh
  have byS2 {x : Bool} {f : State → State} (hs : s.stage ≠ .s2) :
      Host.Outcome.next (φ := Fault) (ρ := Refusal) (s.atS2 h x f) = .next (s.toHost (.response h.ep h.tag 3 .none)) :=
    congrArg _ (atS2_notAllowed hh hs)
  have byHold {f : State → State} (h2 : s.stage ≠ .s2) (h1 : s.stage ≠ .hold) :
      Host.Outcome.next (φ := Fault) (ρ := Refusal) (s.atHold h f) = .next (s.toHost (.response h.ep h.tag 3 .none)) :=
    congrArg _ (atHold_notAllowed hh h2 h1)
  exact ⟨fun hs => ⟨fun _ _ => byS2 hs, fun _ _ _ _ _ => byS2 hs, fun _ _ _ => byS2 hs, byS2 hs, fun _ _ => byS2 hs,
    fun _ => byS2 hs, fun _ => byS2 hs⟩, fun h2 h1 => ⟨fun _ => byHold h2 h1, fun _ => byHold h2 h1⟩⟩

/-! ### What the commands do (R419, R421, R422, R425–R427) -/

section
variable {s : State} {h : CmdHdr}

/-- The answer to a command. -/
def answer (h : CmdHdr) (s : State) (status : Nat) (b : RespBody) : State := s.toHost (.response h.ep h.tag status b)

theorem attest_answers (hh : s.hears h.ep = true) {nonce : List Byte} (hn : nonce.length = 48) :
    let pub := Config.publicKey s.lasting.keyGen
    exec (.attest h nonce) s = .next (answer h s 0 (.attest nonce Config.serial s.firmware.1 s.firmware.2 s.stage.code
      s.dies pub (Config.sign s.lasting.keyGen (nonce ++ Config.serial ++ s.firmware.1 ++ bytesOf 8 s.firmware.2 ++
        bytesOf 8 s.stage.code ++ bytesOf 8 s.dies.toNat ++ pub)))) :=
  congrArg Host.Outcome.next ((always_performs hh).trans (if_neg (by simp [hn])))

theorem semacq_takes (hh : s.hears h.ep = true) (h0 : s.sem.owner = 0) :
    let s1 := { s with sem := ⟨h.ep + 1, s.sem.seq + 1⟩ }
    exec (.semacq h) s = .next (answer h s1 0 (.sem s1.semWord)) :=
  congrArg Host.Outcome.next ((always_performs hh).trans (if_pos h0))

theorem semacq_held (hh : s.hears h.ep = true) (h0 : s.sem.owner ≠ 0) :
    exec (.semacq h) s = .next (answer h s 1 (.sem s.semWord)) :=
  congrArg Host.Outcome.next ((always_performs hh).trans (if_neg h0))

theorem semrel_frees (hh : s.hears h.ep = true) (hq : s.sem = ⟨h.ep + 1, h.seq⟩) :
    exec (.semrel h) s = .next (answer h { s with sem := ⟨0, h.seq⟩ } 0 .none) := by
  have hs : ({ s.sem with owner := 0 } : Semaphore) = ⟨0, h.seq⟩ := by rw [hq]
  rw [← hs]
  exact congrArg Host.Outcome.next ((always_performs hh).trans (if_pos (semStatus_held hq)))

theorem semrel_refused (hh : s.hears h.ep = true) (hq : s.semStatus h ≠ 0) :
    exec (.semrel h) s = .next (answer h s (s.semStatus h) .none) :=
  congrArg Host.Outcome.next ((always_performs hh).trans (if_neg hq))

/-- An image that may not run is answered with status 5. -/
theorem fwload_bad (hh : s.hears h.ep = true) (hs : s.stage = .s2 ∨ s.stage = .hold) (hq : s.semStatus h = 0)
    {i : List Byte} (hi : firmwareOk i = false) : exec (.fwload h i) s = .next (answer h s 5 .none) :=
  congrArg Host.Outcome.next ((atHold_performs hh hs hq).trans (if_pos (by simp [hi])))

theorem fwload_holds (hh : s.hears h.ep = true) (hs : s.stage = .hold) (hq : s.semStatus h = 0) {i : List Byte}
    (hi : firmwareOk i = true) :
    exec (.fwload h i) s = .next (answer h { s with running := some i, stage := .s1 } 0 .none) :=
  congrArg Host.Outcome.next ((atHold_performs hh (.inr hs) hq).trans ((if_neg (by simp [hi])).trans (if_pos hs)))

theorem fwload_flashes (hh : s.hears h.ep = true) (hs : s.stage = .s2) (hq : s.semStatus h = 0) {i : List Byte}
    (hi : firmwareOk i = true) :
    exec (.fwload h i) s = .next (answer h { s with lasting := { s.lasting with flash := some i } } 0 .none) :=
  congrArg Host.Outcome.next
    ((atHold_performs hh (.inl hs) hq).trans ((if_neg (by simp [hi])).trans (if_neg (by simp [hs]))))

/-- A command of S2 whose operands are well formed is done. -/
theorem atS2_done (hh : s.hears h.ep = true) (hs : s.stage = .s2) {x ok : Bool} (hq : x = true → s.semStatus h = 0)
    (hk : ok = true) (f : State → State) :
    Host.Outcome.next (φ := Fault) (ρ := Refusal) (s.atS2 h x fun s => s.doneIf h ok f) = .next (answer h (f s) 0 .none) :=
  congrArg _ ((atS2_performs hh hs hq).trans (doneIf_done hk))

/-- An exclusive command, or a SEMREL, of an endpoint that does not hold the semaphore. -/
theorem exclusive_refused (hh : s.hears h.ep = true) (hs : s.stage = .s2) (hq : s.semStatus h ≠ 0) :
    let refused := Host.Outcome.next (answer h s (s.semStatus h) .none)
    exec (.semrel h) s = refused ∧ (∀ qp x, exec (.qpbind h qp x) s = refused) ∧ (∀ i, exec (.fwload h i) s = refused) ∧
      exec (.keyroll h) s = refused ∧ (∀ off d, exec (.rootwr h off d) s = refused) ∧
      (∀ i, exec (.podidx h i) s = refused) ∧ (∀ k, exec (.ckpt h k) s = refused) ∧
      ∀ k, exec (.ckptabort h k) s = refused := by
  have byS2 {f : State → State} :
      Host.Outcome.next (φ := Fault) (ρ := Refusal) (s.atS2 h true f) = .next (answer h s (s.semStatus h) .none) :=
    congrArg _ (atS2_notHeld hh hs hq)
  have byHold {f : State → State} :
      Host.Outcome.next (φ := Fault) (ρ := Refusal) (s.atHold h f) = .next (answer h s (s.semStatus h) .none) :=
    congrArg _ (atHold_notHeld hh (.inl hs) hq)
  exact ⟨semrel_refused hh hq, fun _ _ => byS2, fun _ => byHold, byS2, fun _ _ => byS2, fun _ => byHold, fun _ => byS2,
    fun _ => byS2⟩

end

/-- Settles O49: each command is performed, or refused, by its stage and the semaphore (what ATTEST signs is log 18, the stage
codes are log 76). -/
theorem hostCommandResults : Obligations.HostCommandResults := by
  unfold Obligations.HostCommandResults
  intro s h hh
  refine ⟨congrArg _ (if_pos hh), congrArg _ (always_performs hh), fun nonce => attest_answers hh,
    congrArg _ (always_performs hh), semacq_takes hh, semacq_held hh, semrel_frees hh, fun hs hq => ?held,
    fun hs => ?rings, fun i hs hq => fwload_holds hh hs (semStatus_held hq), fun hs hq => ?refused⟩
  case held =>
    have h0 := semStatus_held hq
    refine ⟨fun qp x hqp hx => ?_, fun i => fwload_flashes hh hs h0, fun i => fwload_bad hh (.inl hs) h0, ?_,
      fun off d hd => ?_, fun i hi => ?_⟩
    · exact atS2_done hh hs (fun _ => h0) (by simp [hqp, hx]) _
    · exact congrArg _ (atS2_performs hh hs fun _ => h0)
    · exact atS2_done hh hs (fun _ => h0) (by simp [hd]) _
    · exact congrArg _ ((atHold_performs hh (.inl hs) h0).trans (doneIf_done (by simp [hi])))
  case rings =>
    refine ⟨fun ch qp mode l a h1 h2 h3 h4 h5 => ?_, fun qp l a h1 h2 h3 => ?_⟩
    · exact atS2_done hh hs (fun he => Bool.noConfusion he) (decide_eq_true ⟨h1, h2, h3, h4, h5⟩) _
    · exact atS2_done hh hs (fun he => Bool.noConfusion he) (decide_eq_true ⟨h1, h2, h3⟩) _
  case refused =>
    have h := exclusive_refused hh hs (semStatus_ne_zero hq)
    rwa [semStatus_notHeld hq] at h

/-! ### RDMA (R417, R418) -/

section
variable {s : State} {qp : Nat}

theorem answers_of_stage (h0 : s.stage ≠ .off) (h1 : s.stage ≠ .power) : s.answers = true := by
  simp [State.answers, h0, h1]

/-- An access through an unbound queue pair gets a NAK. -/
theorem rdmaServe_unbound (hq : s.qps.get? qp = none) (r : RdmaReq) : s.rdmaServe qp [r] = s.toHost (.nak qp false) := by
  simp [State.rdmaServe, hq]

/-- The accesses of a bound queue pair on which none waits go on until none is left. -/
theorem rdmaServe_bound {x : Nat} {s1 : State} {l : List RdmaReq} (hq : s.qps.get? qp = some x)
    (hw : s.rdma.get? qp = none) (hg : s.rdmaGo qp x l = (s1, [])) :
    s.rdmaServe qp l = { s1 with rdma := s1.rdma.del qp } := by
  simp [State.rdmaServe, hq, hw, hg]

theorem rdmaGo_write {x a : Nat} {d : List Byte} {s1 : State} (hw : s.rdmaWr x a d (pieces a d.length) = (s1, none)) :
    s.rdmaGo qp x [.write a d] = (s1, []) := by
  simp [State.rdmaGo, hw]

theorem rdmaGo_read {x a n : Nat} {s1 : State} {bs : List EByte} (hr : s.engRd x a n = .ok (s1, bs)) :
    s.rdmaGo qp x [.read a n] =
      (s1.toHost (if bs.any (·.2) then .nak qp false else .readData qp (bs.map (·.1))), []) := by
  simp [State.rdmaGo, hr]

end

/-- Settles O50: the accesses of a queue pair are performed in the order of their arrival; that a poisoned read gets a NAK, as
an unbound queue pair does, is log 76. -/
theorem hostAccessResults : Obligations.HostAccessResults := by
  unfold Obligations.HostAccessResults
  intro s qp h0 h1
  have ha := answers_of_stage h0 h1
  refine ⟨congrArg _ (if_pos ha), fun hq => ⟨fun a d => ?_, fun a n => ?_⟩, fun x hq hw => ⟨fun a d s1 h => ?_,
    fun a n s1 bs h => ?_⟩⟩
  · exact congrArg _ ((if_pos ha).trans (rdmaServe_unbound hq _))
  · exact congrArg _ ((if_pos ha).trans (rdmaServe_unbound hq _))
  · exact congrArg _ ((if_pos ha).trans (rdmaServe_bound hq hw (rdmaGo_write h)))
  · exact congrArg _ ((if_pos ha).trans (rdmaServe_bound hq hw (rdmaGo_read h)))

end Sys2Proof.HostCommands

/-!
# Checkpoints, staged start, power (O51, O52), and the state after reset (O59)

A checkpoint's commands go by the ways of a command, its events by what is left of it. A stage's event acts at its own
stage only; an event record of a host changes its channel and what has left the package, and nothing else (R422).
-/

namespace Sys2Proof.StartAndPower
open Sys2Proof.Machine Sys2Proof.Laws Sys2Proof.HostCommands

/-! ### Checkpoints (R421, R428, R429) -/

section
variable {s : State} {h : CmdHdr} {k : CkptArgs}

/-- An endpoint of the two is heard at S2 (Table 18.5). -/
theorem hears_atS2 (hs : s.stage = .s2) (he : h.ep < 2) : s.hears h.ep = true := by
  have : h.ep = 0 ∨ h.ep = 1 := by omega
  simpa [State.hears, hs] using this

/-- The checkpoint that a CKPT of the whole space begins. -/
def fullCkpt (h : CmdHdr) (k : CkptArgs) : Ckpt :=
  ⟨k.ctx, none, k.w, k.qp, k.base, k.list, h.ep, h.tag, 0, 2 ^ 36, 0, 0⟩

/-- The checkpoint that a CKPT of a slice begins. -/
def sliceCkpt (h : CmdHdr) (k : CkptArgs) (x : Slice) : Ckpt :=
  ⟨k.ctx, some (k.handle.toNat, x.ver), k.w, k.qp, k.base, k.list, h.ep, h.tag, x.start, x.len, x.start, 0⟩

/-- A checkpoint is noted under the tag of its command (log 76), which is answered. -/
def ckptBegun (s : State) (h : CmdHdr) (k1 : Ckpt) : State :=
  answer h { s with ckpts := s.ckpts.put h.tag.toNat k1 } 0 .none

/-- A CKPT of a context in use, on a queue pair that can be and under a tag that names none, is well formed (R428). -/
theorem ckpt_wellFormed (hc : s.ctxLive k.ctx = true) (hqp : k.qp < 4096) (hn : s.ckpts.get? h.tag.toNat = none) :
    ¬(!s.ctxLive k.ctx || decide (4096 ≤ k.qp) || (s.ckpts.get? h.tag.toNat).isSome) = true := by
  simp [hc, hn, hqp]

section
variable (hh : s.hears h.ep = true) (hs : s.stage = .s2) (hq : s.semStatus h = 0)
  (hw : ¬(!s.ctxLive k.ctx || decide (4096 ≤ k.qp) || (s.ckpts.get? h.tag.toNat).isSome) = true)
include hh hs hq hw

/-- A full CKPT of a stopped or halted context without operations begins a checkpoint of the whole space. -/
theorem ckpt_full (h0 : k.handle = 0) (hst : (s.ctx k.ctx).st = .stopped ∨ (s.ctx k.ctx).st = .halted)
    (ho : s.opsOf k.ctx = 0) : exec (.ckpt h k) s = .next (ckptBegun s h (fullCkpt h k)) :=
  congrArg Host.Outcome.next
    ((atS2_performs hh hs fun _ => hq).trans ((if_neg hw).trans ((if_pos h0).trans (if_pos ⟨hst, ho⟩))))

/-- A full CKPT of a running context is refused. -/
theorem ckpt_running (h0 : k.handle = 0) (hst : (s.ctx k.ctx).st = .running) :
    exec (.ckpt h k) s = .next (answer h s 6 (.code 7)) := by
  have hno : ¬(((s.ctx k.ctx).st = .stopped ∨ (s.ctx k.ctx).st = .halted) ∧ s.opsOf k.ctx = 0) := by simp [hst]
  exact congrArg Host.Outcome.next
    ((atS2_performs hh hs fun _ => hq).trans ((if_neg hw).trans ((if_pos h0).trans (if_neg hno))))

/-- A CKPT of a slice takes a reference to it and begins a checkpoint of its range at its version. -/
theorem ckpt_slice {j : Nat} {x : Slice} (h0 : k.handle ≠ 0) (hx : s.sliceOf k.ctx k.handle = some (j, x))
    (hr : x.refs ≠ 65535) :
    exec (.ckpt h k) s = .next (ckptBegun (s.sliceCount k.ctx k.handle false true).2 h (sliceCkpt h k x)) := by
  refine congrArg Host.Outcome.next ((atS2_performs hh hs fun _ => hq).trans ((if_neg hw).trans ((if_neg h0).trans ?_)))
  simp only [hx, hr, if_false]
  rfl

end

/-- A checkpoint in progress ends with the status of what ended it. -/
theorem ckptStop_ends {n : Nat} {x : Ckpt} (hx : s.ckpts.get? n = some x) (status : Nat) :
    s.ckptStop n status = s.ckptEnd n x status := by
  simp only [State.ckptStop, hx]

theorem ckptabort_ends {n : Nat} {x : Ckpt} (hh : s.hears h.ep = true) (hs : s.stage = .s2) (hq : s.semStatus h = 0)
    (hx : s.ckpts.get? n = some x) : exec (.ckptabort h n) s = .next (answer h (s.ckptEnd n x 1) 0 .none) := by
  rw [← ckptStop_ends hx]
  exact atS2_done hh hs (fun _ => hq) (by simp [hx]) fun s => s.ckptStop n 1

/-- With no page left CKPT_COMPLETE has nothing to send. -/
theorem ckptComplete_ends {n : Nat} {x : Ckpt} (hx : s.ckpts.get? n = some x) (hl : s.ckptLeft x = []) :
    exec (.ckptComplete n) s = .next (s.ckptEnd n x 0) := by
  change execCkptComplete n s = _
  simp only [execCkptComplete, hx, hl, List.foldl_nil, ckptStop_ends hx]

theorem remoteNak_ends {n : Nat} {x : Ckpt} (hx : s.ckpts.get? n = some x) :
    exec (.remoteNak n) s = .next (s.ckptEnd n x 2) :=
  congrArg Host.Outcome.next (ckptStop_ends hx 2)

/-- The lease frees the semaphore of an owner that has no checkpoint in progress (R421). -/
theorem lease_frees (hl : ∀ e ∈ s.ckpts, e.2.ep + 1 ≠ s.sem.owner) :
    exec .semaphoreLeaseExpiry s = .next { s with sem := ⟨0, s.sem.seq⟩ } :=
  congrArg Host.Outcome.next (if_neg (by simpa using fun a b hab => hl (a, b) hab))

end

/-- Settles O51: a CKPT by the state of its context and by its slice; that a checkpoint is known by the tag of its CKPT is
log 76. -/
theorem checkpointResults : Obligations.CheckpointResults := by
  unfold Obligations.CheckpointResults
  intro s h k
  refine ⟨fun hs he hq hc hqp hn => ?_, fun n x hx => ⟨fun hs he hq => ?_, ckptComplete_ends hx, remoteNak_ends hx⟩,
    lease_frees⟩
  · have hh := hears_atS2 hs he
    have h0 := semStatus_held hq
    have hw := ckpt_wellFormed (h := h) hc hqp hn
    exact ⟨ckpt_full hh hs h0 hw, ckpt_running hh hs h0 hw, fun j x => ckpt_slice hh hs h0 hw⟩
  · exact ckptabort_ends (hears_atS2 hs he) hs (semStatus_held hq) hx

/-! ### Units of the dies that are present (R424, R426) -/

/-- The bitmap of a die's n units has the bits of that die. -/
theorem testBit_dieUnits {n : Nat} (hn : 0 < n) (die i : Nat) :
    ((2 ^ n - 1) * 2 ^ (n * die)).testBit i = decide (i / n = die) := by
  rw [Nat.testBit_mul_two_pow, Nat.testBit_two_pow_sub_one, ← Bool.decide_and, decide_eq_decide, Nat.div_eq_iff hn]
  have := Nat.mul_comm n die
  omega

/-- A bitmap without a die's units has the bits of the other dies. -/
theorem cutDie_getLsbD {w : Nat} (b : BitVec w) {n : Nat} (hn : 0 < n) (die i : Nat) :
    (cutDie b n die).getLsbD i = (b.getLsbD i && !decide (i / n = die)) := by
  rw [cutDie, BitVec.getLsbD_and, BitVec.getLsbD_not, BitVec.getLsbD_ofNat, testBit_dieUnits hn]
  rcases Nat.lt_or_ge i w with hi | hi
  · simp [hi]
  · simp [BitVec.getLsbD_of_ge b i hi]

/-- The units of a package without some dies: the channels and copy engines of the others. -/
theorem foldl_cutDie (l : List Nat) (u : Units) :
    (∀ i, (l.foldl (fun u d => u.cutDie d) u).channels.getLsbD i = (u.channels.getLsbD i && !decide (i / 96 ∈ l))) ∧
    ∀ i, (l.foldl (fun u d => u.cutDie d) u).copy.getLsbD i = (u.copy.getLsbD i && !decide (i / 4 ∈ l)) := by
  induction l generalizing u with
  | nil => simp
  | cons d l ih =>
    obtain ⟨h1, h2⟩ := ih (u.cutDie d)
    refine ⟨fun i => ?_, fun i => ?_⟩
    · rw [List.foldl_cons, h1]
      simp [Units.cutDie, cutDie_getLsbD, Bool.and_assoc]
    · rw [List.foldl_cons, h2]
      simp [Units.cutDie, cutDie_getLsbD, Bool.and_assoc]

theorem mem_fenced {dies : BitVec 4} {d : Nat} : d ∈ fenced dies ↔ d < 4 ∧ dies.getLsbD d = false := by
  simp [fenced]

/-- A unit of a die below 4 that is not fenced. -/
theorem not_fenced {dies : BitVec 4} {d : Nat} : (!decide (d ∈ fenced dies)) = true ↔ 4 ≤ d ∨ dies.getLsbD d = true := by
  simp [mem_fenced]

theorem rootUnits_channels (dies : BitVec 4) (n : Nat) :
    (rootUnits dies).channels.getLsbD n = true ↔ n < 384 ∧ dies.getLsbD (n / 96) = true := by
  rw [rootUnits, (foldl_cutDie _ _).1, Bool.and_eq_true, not_fenced]
  simp only [Units.all, BitVec.getLsbD_allOnes, decide_eq_true_eq]
  exact and_congr_right fun h => or_iff_right (by omega)

theorem rootUnits_copy (dies : BitVec 4) (n : Nat) :
    (rootUnits dies).copy.getLsbD n = true ↔ n < 16 ∧ dies.getLsbD (n / 4) = true := by
  rw [rootUnits, (foldl_cutDie _ _).2, Bool.and_eq_true, not_fenced]
  simp only [Units.all, BitVec.getLsbD_allOnes, decide_eq_true_eq]
  exact and_congr_right fun h => or_iff_right (by omega)

/-! ### Event records of hosts (R422) -/

/-- An event record changes what has left the package and its channel's count, and nothing else. -/
theorem hostEvent_form (s : State) (typ chan ctx value status : Nat) :
    ∃ out chans, s.hostEvent typ chan ctx value status = { s with hostOut := out, chans := chans } := by
  unfold State.hostEvent
  split
  · exact ⟨_, _, rfl⟩
  · exact ⟨_, _, rfl⟩

/-! ### Stages and power (R389, R423, R424, R426, R430) -/

section
variable {s : State}

/-- A map that is made for listed keys has what was made for each. -/
theorem get_map_of_mem {α : Type} {k : Nat} (f : Nat → α) {l : List Nat} (hk : k ∈ l) :
    KMap.get? (l.map fun k => (k, f k)) k = some (f k) := by
  induction l with
  | nil => exact absurd hk List.not_mem_nil
  | cons j l ih =>
    by_cases hj : k = j
    · subst hj
      exact if_pos rfl
    · exact (if_neg hj).trans (ih (List.mem_of_ne_of_mem hj hk))

theorem get_directRegions {r : Nat} (hr : r < 256) : directRegions.get? r = some ⟨2, 0, 0⟩ := by
  rw [directRegions, get_map_of_mem (fun _ => _) (List.mem_range.2 hr)]

/-- Memory and regions after S1, which goes on where the firmware may run and holds otherwise. -/
theorem stageS1_leaves {p : BitVec 4} {ok : Bool} (h0 : s.stage = .s0) (hd : s.dies &&& p ≠ 0) :
    ∃ s' : State, exec (.stageS1Complete p ok) s = .next s' ∧
      s'.stage = (if ok && firmwareOk (s.lasting.flash.getD Config.bootFirmware) then .s1 else .hold) ∧
      s'.dies = s.dies &&& p ∧ (∀ a, smGet s'.mem a = 0) ∧ (∀ a, s'.poisoned a = false) ∧
      ∀ r < 256, s'.regions.get? r = some ⟨2, 0, 0⟩ :=
  ⟨_, congrArg Host.Outcome.next ((if_neg (not_not.2 h0)).trans (if_neg hd)), rfl, rfl, fun _ => rfl, fun _ => rfl,
    fun _ => get_directRegions⟩

/-- The state with the root context created, of which hosts are then told. -/
def rootCreated (s : State) (cfg : FwCfg) : State :=
  { s with
    stage := .s2, fw := cfg, podIdx := s.lasting.podIdx, keys := [(0, (0, Config.rootKey s.ticks))],
    regions := rootRegions cfg s.dies, cores := rootCores s.dies,
    ctxs := [(0, rootCtx s.dies (if cfg.direct then 0 else cfg.seed))] }

/-- What hosts are told at S2 (R422). -/
def startEvents (s : State) : State :=
  let s := s.hostEvent 2 1 (Config.eventField s.ticks 4) 2 (Config.eventField s.ticks 12)
  if s.dies = 15#4 then s
  else s.hostEvent 3 1 (Config.eventField s.ticks 4) (~~~s.dies).toNat (Config.eventField s.ticks 12)

theorem startEvents_form (s : State) : ∃ out chans, startEvents s = { s with hostOut := out, chans := chans } := by
  obtain ⟨out, chans, he⟩ := hostEvent_form s 2 1 (Config.eventField s.ticks 4) 2 (Config.eventField s.ticks 12)
  obtain ⟨out', chans', he'⟩ := hostEvent_form { s with hostOut := out, chans := chans } 3 1
    (Config.eventField s.ticks 4) (~~~s.dies).toNat (Config.eventField s.ticks 12)
  unfold startEvents
  rw [he]
  by_cases hd : s.dies = 15#4
  · exact ⟨out, chans, if_pos hd⟩
  · exact ⟨out', chans', (if_neg hd).trans he'⟩

theorem stageS2_creates {cfg : FwCfg} (h1 : s.stage = .s1) :
    ∃ out chans, exec (.stageS2Reached cfg) s = .next { rootCreated s cfg with hostOut := out, chans := chans } := by
  obtain ⟨out, chans, he⟩ := startEvents_form (rootCreated s cfg)
  have hs : exec (.stageS2Reached cfg) s = .next (startEvents (rootCreated s cfg)) :=
    congrArg Host.Outcome.next (if_neg (not_not.2 h1))
  exact ⟨out, chans, hs.trans (congrArg _ he)⟩

theorem thermalThrottle_marks {die : Nat} (ha : s.answers = true) (hd : s.dies.getLsbD die = true) :
    ∃ s' : State, exec (.thermalThrottle die) s = .next s' ∧ s'.hot = s.hot ||| BitVec.ofNat 4 (2 ^ die) ∧
      s'.mem = s.mem ∧ s'.trays = s.trays ∧ s'.ctxs = s.ctxs := by
  refine ⟨_, congrArg Host.Outcome.next (if_pos (by rw [ha, hd]; rfl)), ?_⟩
  obtain ⟨out, chans, he⟩ := hostEvent_form { s with hot := s.hot ||| BitVec.ofNat 4 (2 ^ die) } 4 1
    (Config.eventField s.ticks 4) (Config.eventField s.ticks 8) (Config.eventField s.ticks 12)
  rw [State.thermalEvent, he]
  exact ⟨rfl, rfl, rfl, rfl⟩

/-- A trip halts the root and what is under it, and asks for removal of power. -/
theorem thermalTrip_halts (ha : s.answers = true) :
    ∃ s' : State, exec .thermalTrip s = .next s' ∧ HostMsg.powerOff ∈ s'.hostOut ∧
      s'.ctxs = (s.haltFor 0 4).ctxs ∧ s'.trays = (s.haltFor 0 4).trays ∧ s'.mem = s.mem := by
  refine ⟨_, congrArg Host.Outcome.next (if_pos ha), ?_⟩
  obtain ⟨out, chans, he⟩ := hostEvent_form (s.haltFor 0 4) 4 1
    (Config.eventField s.ticks 4) (Config.eventField s.ticks 8) (Config.eventField s.ticks 12)
  have ht : (s.haltFor 0 4).thermalEvent = { s.haltFor 0 4 with hostOut := out, chans := chans } := he
  rw [ht]
  exact ⟨List.mem_append_right _ (List.mem_singleton_self _), rfl, rfl, rfl⟩

end

/-- Settles O52: each event acts at its own stage; what hosts are told changes no state but theirs (firmware's choices are
log 19 and 80, what outlives power log 76). -/
theorem startAndPowerResults : Obligations.StartAndPowerResults := by
  unfold Obligations.StartAndPowerResults
  intro s
  have next {a b : State} (h : a = b) : Host.Outcome.next (φ := Fault) (ρ := Refusal) a = .next b := congrArg _ h
  refine ⟨fun h => next (if_pos h), fun h => next (if_neg h), fun p h => next (if_pos h), fun p h => next (if_neg h),
    fun p ok => stageS1_leaves, fun p ok h => next (if_pos h), fun cfg h1 => ?_, fun cfg h => next (if_pos h),
    fun die _ => thermalThrottle_marks, fun die => rfl, thermalTrip_halts, _, rfl, rfl, rfl, rfl, rfl, rfl, rfl⟩
  obtain ⟨out, chans, he⟩ := stageS2_creates (cfg := cfg) h1
  exact ⟨_, he, rfl, rfl, rfl, rfl, rfl, rfl, rfl, rfl, rfl, rfl, rfl, rfl, rfl, rfl, rfl, rfl, rfl, rfl, rfl,
    rfl, rootUnits_channels s.dies, rootUnits_copy s.dies⟩

/-- Settles O59: memory is empty, and what nothing has written reads as zero (log 2). -/
theorem memoryFormAtReset : Obligations.MemoryFormAtReset := by
  unfold Obligations.MemoryFormAtReset
  exact ⟨memOk_reset, rfl, fun _ => rfl, fun _ => rfl⟩

end Sys2Proof.StartAndPower

/-!
# The context engine (O42, O43)

Every word of the context engine is one call of `ctxCommand`: it is sent where no quota stands against it, and its checks
and effects take place when the engine performs it.
-/

namespace Sys2Proof.ContextEngine
open Sys2Proof.Machine Sys2Proof.Laws

section
variable {s : State} {c : Cur} {t : Tray} {i : Instr} {ctr : Ctr} {d : BitVec 7} {n : Nat} {quota : State → Tray → Bool}
  {k : Src → Tray → CtxOp}

/-! ### Issue (R395–R397) -/

/-- A command within its quota is sent. -/
theorem ctxCommand_sends (h : EngineIssuing s c t i) (hf : (c.src s t).t.ctrFull ctr = false)
    (hq : quota s (t.advance c) = false) :
    ctxCommand i.opnds s ctr d n quota k =
      .next (s.sent c t (c.src s t) 8 0 noVer (some ctr) (List.range' d.toNat n) [] (.ctx (k (c.src s t) (t.advance c)))) :=
  engine_ok h ((if_neg (by simp [hf])).trans (if_neg (by simp [hq])))

/-- A command beyond its quota raises QUOTA. -/
theorem ctxCommand_quota (h : EngineIssuing s c t i) (hf : (c.src s t).t.ctrFull ctr = false)
    (hq : quota s (t.advance c) = true) :
    ctxCommand i.opnds s ctr d n quota k = .next (s.trapped c t [.quota]) :=
  engine_trap h ((if_neg (by simp [hf])).trans (if_pos hq))

/-- A word that has no quota is sent. -/
theorem commands_of_ctxCommand {op : CtxOp} (hi : exec i s = ctxCommand i.opnds s ctr d n noQuota k)
    (hk : k (c.src s t) (t.advance c) = op) : Commands s c t i ctr d n op := by
  subst hk
  exact fun h hf => hi.trans (ctxCommand_sends h hf rfl)

/-- The children of a context, with those that its CTXNEW in flight will be (R396). -/
def childrenUsed (s : State) (c : Nat) : Nat :=
  (s.children c).length + s.inFlight c fun k => match k with
    | .new _ _ => true
    | _ => false

/-- CTXNEW raises QUOTA where the budget of children is used up, and is sent otherwise. -/
theorem ctxnew_result {b : SB} (h : EngineIssuing s c t (.ctxnew d b)) (hf : (c.src s t).t.ctrFull .loads = false) :
    exec (.ctxnew d b) s = .next (
      if s.ownBudget t.ctx (·.childmax.toNat) ≤ childrenUsed s t.ctx then s.trapped c t [.quota]
      else s.sent c t (c.src s t) 8 0 noVer (some .loads) [d.toNat] [] (.ctx (.new d.toNat ((c.src s t).sb b)))) := by
  change execCtxnew d b s = _
  have hc : (t.advance c).ctx = t.ctx := by simp
  by_cases hq : s.ownBudget t.ctx (·.childmax.toNat) ≤ childrenUsed s t.ctx
  · rw [if_pos hq]
    refine ctxCommand_quota h hf (decide_eq_true ?_)
    rwa [hc]
  · rw [if_neg hq]
    refine ctxCommand_sends h hf (decide_eq_false ?_)
    rwa [hc]

/-- The key slots of a context, with those that its KEYSEL in flight will bind (R396). -/
def keysUsed (s : State) (c : Nat) : Nat :=
  s.keysBoundBy c + s.inFlight c fun k => match k with
    | .keysel _ _ _ va => va.isSome
    | _ => false

/-- A KEYSEL that binds within the budget of keys is sent. -/
theorem keyselBind_sends {a : BitVec 7} {b : SB} (hb : b ≠ .zero)
    (hn : keysUsed s t.ctx < s.ownBudget t.ctx (·.keymax.toNat)) :
    let r := c.src s t
    Commands s c t (.keyselBind d a b) .loads d 1
      (.keysel d.toNat (r.s a).toNat (r.sn a 1).toNat (some (r.sbz64 b).toNat)) := by
  intro r h hf
  have hp : r.pairOrNone b = some (r.sbz64 b).toNat := if_neg hb
  rw [← hp]
  change execKeyselBind d a b s = _
  refine ctxCommand_sends h hf (Bool.and_eq_false_iff.2 (.inr (decide_eq_false ?_)))
  have hc : (t.advance c).ctx = t.ctx := by simp
  rw [hc]
  exact Nat.not_le.2 hn

/-- A KEYSEL that unbinds has no quota. -/
theorem keyselUnbind_sends {a : BitVec 7} :
    let r := c.src s t
    Commands s c t (.keyselUnbind d a .zero) .loads d 1 (.keysel d.toNat (r.s a).toNat (r.sn a 1).toNat none) :=
  fun h hf => ctxCommand_sends (i := .keyselUnbind d a .zero) h hf rfl

end

/-- Settles O42: each word is one `ctxCommand`, with its operands and its quota. -/
theorem contextResults : Obligations.ContextResults := by
  unfold Obligations.ContextResults
  intro s c t
  refine ⟨fun d b => ctxnew_result, ?grant, ?revoke, ?run, ?stop, ?save, ?load, ?query, ?scrub, ?alog,
    fun d a b => ⟨keyselBind_sends, keyselUnbind_sends⟩⟩
  case run =>
    exact fun d a b =>
      ⟨commands_of_ctxCommand rfl rfl, commands_of_ctxCommand rfl rfl, commands_of_ctxCommand rfl rfl⟩
  case stop => exact fun d a b => ⟨commands_of_ctxCommand rfl rfl, commands_of_ctxCommand rfl rfl⟩
  all_goals exact fun d a b => commands_of_ctxCommand rfl rfl

/-! ### Performing (R396–R398) -/

section
variable {s : State} {id : Nat} {o : Op} {k : CtxOp}

/-- An accepted command leaves the command queue of its engine while it takes more time. -/
def outside (s : State) (id : Nat) : State := s.onOp id fun o => { o with phase := max o.phase 2 }

section
variable (ho : s.op? id = some o) (hb : o.body = .ctx k) (hp : o.phase ≠ 0) (hk : o.park = none)
include ho hb hp hk

/-- An accepted command that is not parked waits, or is performed. -/
theorem contextOpComplete_goes : exec (.contextOpComplete id) s = .next (
    if s.ctxWaits o k then outside s id
    else match s.ctxGo o k with
      | (none, s) => outside s id
      | (some data, s) =>
        if k.orders then (s.opDone o data none k.orders).l1Inval o.tag.core false else s.opDone o data none k.orders) := by
  change execContextOpComplete id s = _
  simp only [execContextOpComplete, ho, hb, hp, hk, decide_false, Option.isSome_none, Bool.or_self, Bool.false_eq_true,
    if_false] <;> rfl

theorem contextOpComplete_waits (hw : s.ctxWaits o k = true) :
    exec (.contextOpComplete id) s = .next (outside s id) :=
  (contextOpComplete_goes ho hb hp hk).trans (congrArg _ (if_pos hw))

theorem contextOpComplete_continues {s1 : State} (hw : s.ctxWaits o k = false) (hg : s.ctxGo o k = (none, s1)) :
    exec (.contextOpComplete id) s = .next (outside s1 id) := by
  rw [contextOpComplete_goes ho hb hp hk, if_neg (by simp [hw]), hg]

/-- A command that is done completes, with an acquire where it orders memory. -/
theorem contextOpComplete_done {s1 : State} {data : List RegWrite} (hw : s.ctxWaits o k = false)
    (hg : s.ctxGo o k = (some data, s1)) :
    exec (.contextOpComplete id) s = .next (
      if k.orders then (s1.opDone o data none true).l1Inval o.tag.core false else s1.opDone o data none false) := by
  rw [contextOpComplete_goes ho hb hp hk, if_neg (by simp [hw]), hg]
  cases k.orders <;> rfl

end

/-- The context that CTXNEW makes. -/
def newChild (s : State) (c : Nat) (w : Word) : Ctx :=
  { Ctx.blank with st := .new, parent := c, depth := (s.ctx c).depth + 1, pmode := w.toNat }

theorem ctx_put_same {n : Nat} {x : Ctx} : State.ctx { s with ctxs := s.ctxs.put n x } n = x := by
  simp [State.ctx, get_put_same]

theorem ctx_put_ne {n m : Nat} {x : Ctx} (h : m ≠ n) : State.ctx { s with ctxs := s.ctxs.put n x } m = s.ctx m := by
  simp [State.ctx, get_put_ne, h]

/-- CTXNEW puts a new context under the lowest free number (R387, R398). -/
theorem newGo_creates {c d n : Nat} {w : Word} (hw : w.toNat < 3) (hm : (s.ctx c).pmode ≤ w.toNat)
    (hd : (s.ctx c).depth < 6)
    (hn : ((List.range 4096).find? fun n => n != 0 && ((s.ctxs.get? n).map fun x => x.st == .free).getD true) = some n) :
    s.newGo c d w = (some [.s d (BitVec.ofNat 32 n)], { s with ctxs := s.ctxs.put n (newChild s c w) }) := by
  simp only [State.newGo, hn, Nat.not_le.2 hw, Nat.not_lt.2 hm, Nat.not_le.2 hd, if_false]
  rfl

end

/-- Settles O43: a command waits, goes on or is done; a new child is the only context that CTXNEW changes. -/
theorem contextCommandResults : Obligations.ContextCommandResults := by
  unfold Obligations.ContextCommandResults
  intro s
  refine ⟨fun id o k ho hb hp hk => ⟨contextOpComplete_waits ho hb hp hk, fun s1 => contextOpComplete_continues ho hb hp hk,
    fun data s1 => contextOpComplete_done ho hb hp hk⟩, fun c d n w hw hm hd hn => ?_, fun c d w hw => if_pos hw⟩
  refine ⟨_, newGo_creates hw hm hd hn, ?_, ?_, ?_, ?_, fun x => ctx_put_ne⟩
  all_goals rw [ctx_put_same]; rfl

end Sys2Proof.ContextEngine

/-!
# Copies and rings (O25, O27)

The checks of a copy pass, and the copy is sent; an accepted copy moves its bytes in units of 256. A ring instruction has its
effect on the header where it issues (log 55), its command only brings the result.
-/

namespace Sys2Proof.CopyRings
open Sys2Proof.Machine Sys2Proof.Laws

section
variable {s : State} {c : Cur} {t : Tray} {a d : BitVec 7} {b : SB} {u : Nat}

/-! ### Sending a copy (R259, R260, R262, R267) -/

theorem cpy_sends (h : EngineIssuing s c t (.cpy a .zero)) :
    let r := c.src s t
    let d := r.descriptor a
    copyLenOk d.2.2 = true → s.copyUnit t.ctx (c.key / 32) = some u →
    copyCauses d.1 d.2.1 d.2.2 (s.clusterFor t).size true = [] → r.t.ctrFull .copies = false →
    exec (.cpy a .zero) s = .next (s.sent c t r 1 u noVer (some .copies) [] []
      (.copy ⟨true, d.1, s.clusterIdOf t, d.2.1, d.2.2, 0, none, none⟩)) := by
  intro r d hl hu hcs hf
  have hu' : s.copyUnit t.ctx (r.key / 32) = some u := hu
  change execCpy a .zero s = _
  refine engine_ok h ?_
  simp only [clusterFor_advance, clusterIdOf_advance, advance_ctx, hl, hu', hcs, hf, Bool.not_true, Bool.false_eq_true,
    if_false, if_true, r, d]
  rfl

/-- With a ring a copy claims the slot at WPTR. -/
theorem cpy_claims {q : Ring} (h : EngineIssuing s c t (.cpy a b)) (hb : b ≠ .zero) :
    let r := c.src s t
    let d := r.descriptor a
    copyLenOk d.2.2 = true → s.copyUnit t.ctx (c.key / 32) = some u →
    copyCauses d.1 d.2.1 d.2.2 (s.clusterFor t).size false = [] → (s.clusterFor t).ring (r.hdr b) = some q →
    q.st ≠ 2 → d.2.2 ≤ q.slotsz → r.t.ctrFull .copies = false → (q.w - q.rp).toNat ≠ q.nslot →
    q.slot q.w + d.2.2 ≤ (s.clusterFor t).size →
    exec (.cpy a b) s = .next ((s.onCluster (s.clusterIdOf t) fun k => k.putRing (r.hdr b) { q with w := q.w + 1 }).sent
      c t r 1 u noVer (some .copies) [] []
      (.copy ⟨true, d.1, s.clusterIdOf t, q.slot q.w, d.2.2, 0, some (r.hdr b, q.w), none⟩)) := by
  intro r d hl hu hcs hq hst hsz hf hroom hin
  have hu' : s.copyUnit t.ctx (r.key / 32) = some u := hu
  have hbad : ¬(q.st = 2 ∨ q.slotsz < d.2.2) := not_or.2 ⟨hst, Nat.not_lt.2 hsz⟩
  change execCpy a b s = _
  refine engine_ok h ?_
  simp only [clusterFor_advance, clusterIdOf_advance, advance_ctx, hl, hu', hcs, hf, hb, hq, hbad, beq_false_of_ne hroom,
    Nat.not_lt.2 hin, Bool.not_true, Bool.or_self, Bool.false_eq_true, if_false, r, d]
  rfl

theorem cpys_sends (h : EngineIssuing s c t (.cpys a)) :
    let r := c.src s t
    let d := r.descriptor a
    copyLenOk d.2.2 = true → s.copyUnit t.ctx (c.key / 32) = some u →
    copyCauses d.1 d.2.1 d.2.2 (s.clusterFor t).size true = [] → r.t.ctrFull .copies = false →
    exec (.cpys a) s = .next (s.sent c t r 1 u noVer (some .copies) [] []
      (.copy ⟨false, d.1, s.clusterIdOf t, d.2.1, d.2.2, 0, none, none⟩)) := by
  intro r d hl hu hcs hf
  have hu' : s.copyUnit t.ctx (r.key / 32) = some u := hu
  change execCpys a s = _
  refine engine_ok h ?_
  simp only [clusterFor_advance, clusterIdOf_advance, advance_ctx, hl, hu', hcs, hf, Bool.not_true, Bool.false_eq_true,
    if_false, r, d]
  rfl

theorem cpym_sends (h : EngineIssuing s c t (.cpym a b)) :
    let r := c.src s t
    let d := r.descriptor a
    let n := (r.sb b).toNat % 16 + 1
    let rank := (r.sb b).toNat / 16 % 16
    copyLenOk d.2.2 = true → rank < n → d.2.2 % (16 * n) = 0 → s.copyUnit t.ctx (c.key / 32) = some u →
    copyCauses d.1 d.2.1 d.2.2 (s.clusterFor t).size true = [] → r.t.ctrFull .copies = false →
    exec (.cpym a b) s = .next (s.sent c t r 1 u noVer (some .copies) [] []
      (.member ⟨d.1, s.clusterIdOf t, d.2.1, d.2.2, t.launchId, (r.sb b).toNat / 256, n, rank, none, 0, false, false⟩)) := by
  intro r d n rank hl hr hn hu hcs hf
  have hu' : s.copyUnit t.ctx (r.key / 32) = some u := hu
  have hbad : (!copyLenOk d.2.2 || decide (n ≤ rank) || d.2.2 % (16 * n) != 0) = false := by
    simp [hl, Nat.not_le.2 hr, hn]
  change execCpym a b s = _
  refine engine_ok h ?_
  simp only [clusterFor_advance, clusterIdOf_advance, advance_ctx, advance_launchId, hbad, hu', hcs, hf,
    Bool.false_eq_true, if_false, r, d, n, rank]
  rfl

/-! ### Completing (R260, R262) -/

/-- A copy of at most 256 bytes is one unit: it moves them and has nothing left. -/
theorem copyRun_unit {o : Op} {k : CopyOp} {s1 : State} {bs : List EByte} {n : Nat} (hk : k.toSpad = true) (h0 : k.done = 0)
    (hpos : 0 < k.len) (hle : k.len ≤ 256) (hr : s.opRd o k.g k.len = .ok (s1, bs)) :
    s.copyRun o (n + 1) k = (s1.onCluster k.cluster fun x => x.write k.off bs, { k with done := k.len }, none) := by
  have hstep : s.copyUnitStep o k k.len = (s1.onCluster k.cluster fun x => x.write k.off bs, none) := by
    simp [State.copyUnitStep, hk, h0, hr]
  have hmin : min 256 (k.len - 0) = k.len := by omega
  unfold State.copyRun
  simp only [h0, Nat.not_le.2 hpos, if_false, hmin, hstep, Nat.zero_add]
  cases n with
  | zero => rfl
  | succ n => exact if_pos (Nat.le_refl _)

/-- An accepted copy to scratchpad of at most 256 bytes, which meets no fault, moves them and completes. -/
theorem copyComplete_moves {id : Nat} {o : Op} {k : CopyOp} {s1 : State} {bs : List EByte} (ho : s.op? id = some o)
    (hp : o.phase ≠ 0) (hpark : o.park = none) (hb : o.body = .copy k) (hk : k.toSpad = true) (h0 : k.done = 0)
    (hpos : 0 < k.len) (hle : k.len ≤ 256) (hr : s.opRd o k.g k.len = .ok (s1, bs)) :
    exec (.copyComplete id) s = .next ((s1.onCluster k.cluster fun x => x.write k.off bs).copyFinish o
      { k with done := k.len } false) := by
  have hgo : ¬(o.phase = 0 ∨ o.park.isSome = true) := by simp [hp, hpark]
  change execCopyComplete id s = _
  simp only [execCopyComplete, ho, hgo, if_false, hb, State.copyGo, copyRun_unit hk h0 hpos hle hr]

/-- A group that has not assembled completes with error, every member of it. -/
theorem groupTimeout_ends {id : Nat} {o : Op} {m : MemberOp} (ho : s.op? id = some o) (hb : o.body = .member m)
    (hp : o.phase = 2) (hg : m.group = none) :
    exec (.cpymGroupTimeout id) s = .next ((s.members o.tag.ctx m).foldl (fun s x => s.memberDone x.1 true) s) := by
  have hwait : (o.phase != 2 || m.group.isSome) = false := by simp [hp, hg]
  change execCpymGroupTimeout id s = _
  simp only [execCpymGroupTimeout, ho, hb, hwait, Bool.false_eq_true, if_false]

end

/-- Settles O25: each form passes its checks and is sent; one unit is all of a short copy. -/
theorem copyResults : Obligations.CopyResults := by
  unfold Obligations.CopyResults
  intro s c t
  exact ⟨fun a u h => cpy_sends h, fun a b u q h hb => cpy_claims h hb, fun a u h => cpys_sends h,
    fun a b u h => cpym_sends h, fun id o k s1 d => copyComplete_moves, fun id o m => groupTimeout_ends⟩

/-! ### Rings (R265, R266, R269, R270) -/

section
variable {s : State} {c : Cur} {t : Tray} {a d : BitVec 7} {b : SB} {u : Nat} {i : Instr}

/-- A ring instruction that raises no cause is answered with what it reads from the header it leaves. -/
theorem ringOp_answers {sdst : List Nat} {f : Src → Tray → State → Except Cause (State × List Word)} {s1 : State}
    {vs : List Word} (h : EngineIssuing s c t i) (hu : s.copyUnit t.ctx (c.key / 32) = some u)
    (hf : (c.src s t).t.ctrFull .loads = false) (hv : f (c.src s t) (t.advance c) s = .ok (s1, vs)) :
    ringOp i s sdst f = .next (s1.answered c t (c.src s t) 1 u sdst vs) := by
  have hu' : s.copyUnit t.ctx ((c.src s t).key / 32) = some u := hu
  refine engine_ok h ?_
  simp only [advance_ctx, hu', hf, hv, Bool.false_eq_true, if_false]

/-- A ring instruction that raises a cause has no effect. -/
theorem ringOp_traps {sdst : List Nat} {f : Src → Tray → State → Except Cause (State × List Word)} {k : Cause}
    (h : EngineIssuing s c t i) (hu : s.copyUnit t.ctx (c.key / 32) = some u)
    (hf : (c.src s t).t.ctrFull .loads = false) (hv : f (c.src s t) (t.advance c) s = .error k) :
    ringOp i s sdst f = .next (s.trapped c t [k]) := by
  have hu' : s.copyUnit t.ctx ((c.src s t).key / 32) = some u := hu
  refine engine_trap h ?_
  simp only [advance_ctx, hu', hf, hv, Bool.false_eq_true, if_false]

/-- RINIT answers with its status, and writes a fresh header where it is 0. -/
theorem rinit_answers (h : EngineIssuing s c t (.rinit d a)) (hu : s.copyUnit t.ctx (c.key / 32) = some u)
    (hf : (c.src s t).t.ctrFull .loads = false) :
    let r := c.src s t
    let w := fun j => (r.sn a j).toNat
    let st := s.rinitStatus (s.clusterIdOf t) (s.clusterFor t) (w 0) (w 1) (w 2) (w 3)
    exec (.rinit d a) s = .next ((if st = 0 then s.onCluster (s.clusterIdOf t) fun k =>
        { k.wr (w 0) 64 (w 1 + w 2 * 2 ^ 32 + (2 ^ 30 + w 3) * 2 ^ 64) with filled := k.filled.filter fun x => x.1 != w 0 }
      else s).answered c t r 1 u [d.toNat] [BitVec.ofNat 32 st]) := by
  intro r w st
  change execRinit d a s = _
  refine ringOp_answers h hu hf ?_
  rw [clusterIdOf_advance, clusterFor_advance]
  by_cases hst : st = 0
  · rw [if_pos hst, if_pos hst, hst]
    rfl
  · rw [if_neg hst, if_neg hst]

theorem rqry_answers {q : Ring} (h : EngineIssuing s c t (.rqry d b)) (hu : s.copyUnit t.ctx (c.key / 32) = some u)
    (hf : (c.src s t).t.ctrFull .loads = false) (hq : (s.clusterFor t).ring ((c.src s t).hdr b) = some q) :
    exec (.rqry d b) s = .next (s.answered c t (c.src s t) 1 u (List.range' d.toNat 4)
      [q.w, q.f, q.rp, BitVec.ofNat 32 q.st]) := by
  change execRqry d b s = _
  refine ringOp_answers h hu hf ?_
  simp only [clusterFor_advance, hq]

/-- RREL gives up the slot at RPTR, or raises RING where none is filled. -/
theorem rrel_result {q : Ring} (h : EngineIssuing s c t (.rrel d b)) (hu : s.copyUnit t.ctx (c.key / 32) = some u)
    (hf : (c.src s t).t.ctrFull .loads = false) (hq : (s.clusterFor t).ring ((c.src s t).hdr b) = some q) :
    exec (.rrel d b) s = .next (if q.rp = q.f then s.trapped c t [.ring]
      else (s.onCluster (s.clusterIdOf t) fun k => k.putRing ((c.src s t).hdr b) { q with rp := q.rp + 1 }).answered c t
        (c.src s t) 1 u [d.toNat] [q.rp + 1]) := by
  change execRrel d b s = _
  by_cases he : q.rp = q.f
  · rw [if_pos he]
    refine ringOp_traps h hu hf ?_
    simp only [clusterFor_advance, hq, if_pos he]
  · rw [if_neg he]
    refine ringOp_answers h hu hf ?_
    simp only [clusterFor_advance, clusterIdOf_advance, hq, if_neg he]

/-! ### RWAIT (R269) -/

/-- With no cause to set a word only completes. -/
theorem completedRaising_nil {t0 : Tray} {x : Option Nat} : s.completedRaising c t t0 [] x = s.completed c t t0 := by
  simp [State.completedRaising, State.completed]

/-- The stall form of RWAIT goes by what the ring holds. -/
theorem rwait_stalls (h : EngineIssuing s c t (.rwait d 0 b)) (hu : s.copyUnit t.ctx (c.key / 32) = some u) :
    ((s.clusterFor t).ringWait ((c.src s t).hdr b) = .bad → exec (.rwait d 0 b) s = .next (s.trapped c t [.ring])) ∧
    ((s.clusterFor t).ringWait ((c.src s t).hdr b) = .empty → exec (.rwait d 0 b) s = .next s) ∧
    ∀ off err, (s.clusterFor t).ringWait ((c.src s t).hdr b) = .ready off err →
      let t1 := (t.advance c).setSreg c.path d.toNat (BitVec.ofNat 32 off)
      exec (.rwait d 0 b) s = .next ((s.acquire (c.key / 32) t1 2).completedRaising c t t1
        (if err then [.copyerr] else []) none) := by
  have hu' : s.copyUnit t.ctx ((c.src s t).key / 32) = some u := hu
  have h0 : (0 : BitVec 7).toNat = 0 := rfl
  refine ⟨fun hw => engine_trap h ?_, fun hw => engine_stay h ?_, fun off err hw => ?_⟩
  · simp only [advance_ctx, clusterFor_advance, h0, hu', hw, bne_self_eq_false, Bool.false_and, Bool.false_eq_true,
      if_false, if_true]
  · simp only [advance_ctx, clusterFor_advance, h0, hu', hw, bne_self_eq_false, Bool.false_and, Bool.false_eq_true,
      if_false, if_true, reduceCtorEq]
  · cases err with
    | false =>
      intro t1
      rw [if_neg Bool.false_ne_true, completedRaising_nil]
      refine engine_ok h ?_
      simp only [advance_ctx, clusterFor_advance, h0, hu', hw, bne_self_eq_false, Bool.false_and, Bool.false_eq_true,
        if_false, if_true, reduceCtorEq]
      rfl
    | true =>
      refine engine_later h ?_
      simp only [advance_ctx, clusterFor_advance, h0, hu', hw, bne_self_eq_false, Bool.false_and, Bool.false_eq_true,
        if_false, if_true, reduceCtorEq]
      rfl

/-- The yield form leaves the issue pool where the ring is empty. -/
theorem rwait_yields (h : EngineIssuing s c t (.rwait d a b)) (ha : a ≠ 0) (hp : (c.src s t).t.p1 = none)
    (hu : s.copyUnit t.ctx (c.key / 32) = some u) (hlt : ((c.src s t).s2 a).toNat < 2 ^ 46)
    (hok : s.targetOk (c.key / 32) t.ctx (((c.src s t).s2 a).setWidth 46) = true)
    (hw : (s.clusterFor t).ringWait ((c.src s t).hdr b) = .empty) :
    exec (.rwait d a b) s = .next (s.completed c t { (t.advance c).setPc c.path c.pc with
      wait := .yield 1 ((c.src s t).sb b) 0 (((c.src s t).s2 a).setWidth 46) (some d.toNat) }) := by
  have hu' : s.copyUnit t.ctx ((c.src s t).key / 32) = some u := hu
  have hok' : s.targetOk ((c.src s t).key / 32) t.ctx (((c.src s t).s2 a).setWidth 46) = true := hok
  have ha' : a.toNat ≠ 0 := fun he => ha (BitVec.eq_of_toNat_eq he)
  refine engine_ok h ?_
  simp only [advance_ctx, clusterFor_advance, hu', hok', hw, hp, ha', decide_eq_false (Nat.not_le.2 hlt), Bool.not_true,
    Bool.or_self, Option.isSome_none, Bool.and_false, Bool.false_eq_true, if_false, reduceCtorEq]
  rfl

end

/-- Settles O27: a ring instruction is answered or raises RING by the header it finds where it issues (log 55), RWAIT by what the
ring holds. -/
theorem ringResults : Obligations.RingResults := by
  unfold Obligations.RingResults
  intro s c t
  exact ⟨fun d a u => rinit_answers, fun d b u q => rqry_answers, fun d b u q => rrel_result, fun d b u => rwait_stalls,
    fun d a b u => rwait_yields⟩

end Sys2Proof.CopyRings

/-!
# The stack engines (O34)

The operands of an operation are legal or not, and a legal operation is sent (R304); HQRY is a command of its own (R308).
-/

namespace Sys2Proof.StackEngines
open Sys2Proof.Machine Sys2Proof.Laws

section
variable {s : State} {c : Cur} {t : Tray} {i : Instr} {a d : BitVec 7} {b : SB} {u : Nat}

/-! ### Sending (R301, R304) -/

/-- An operation with legal operands is sent to the engine that coordinates it. -/
theorem stackOp_sends {f : Src → Option (List (Nat × Nat) × StackOp)} {addrs : List (Nat × Nat)} {k : StackOp}
    (hi : exec i s = stackOp i s f) (hk : f (c.src s t) = some (addrs, k)) : Stacks s c t i addrs k := by
  intro u h hu ha hf
  have hu' : s.stackUnit t.ctx ((c.src s t).key / 32) = some u := hu
  rw [hi]
  refine engine_ok h ?_
  simp only [hk, advance_ctx, hu', ha, hf, Bool.false_eq_true, if_false]

/-- HGATH with its element size, index width and count in range (R305). -/
theorem hgath_sends :
    let r := c.src s t
    let x := (r.sn a 3).toNat
    x < 16 → x % 8 ≤ 5 → countOk (r.sn a 2).toNat = true →
    Stacks s c t (.hgath a b)
      [((r.s2 a).toNat, 2 ^ (x % 8)), ((r.quadB b).1.toNat, if x / 8 = 1 then 8 else 4), ((r.quadB b).2.toNat, 2 ^ (x % 8))]
      (.gath (r.s2 a).toNat (r.sn a 2).toNat (r.quadB b).1.toNat (r.quadB b).2.toNat (x % 8) (x / 8 == 1) 0 []) := by
  intro r x hx hes hn
  refine stackOp_sends rfl (if_neg (Bool.eq_false_iff.1 ?_))
  have hbad : (decide (16 ≤ x) || decide (5 < x % 8) || !countOk (r.sn a 2).toNat) = false := by
    simp [Nat.not_le.2 hx, Nat.not_lt.2 hes, hn]
  exact hbad

section
variable (r : Src) (a : BitVec 7) (b : SB)

/-- What makes an HRED illegal (R306). -/
def hredBad : Bool :=
  let x := (r.sn a 3).toNat
  let rows := (r.sq b 2).toNat
  decide (64 ≤ x) || decide (5 < x / 4 % 8) || (decide (2 < x / 4 % 8) && decide (2 ≤ x % 4)) ||
    !countOk (r.sn a 2).toNat || rows == 0 || decide ((if x / 32 == 1 then 65536 else 1) < rows) || r.sq b 3 != 0

end

/-- HRED over columns or over a row, with its operation, type and counts in range (R306). -/
theorem hred_sends :
    let r := c.src s t
    let x := (r.sn a 3).toNat
    let rows := (r.sq b 2).toNat
    x < 64 → x / 4 % 8 ≤ 5 → (x / 4 % 8 ≤ 2 ∨ x % 4 < 2) → countOk (r.sn a 2).toNat = true → rows ≠ 0 → r.sq b 3 = 0 →
    (x / 32 = 1 → rows ≤ 65536 → Stacks s c t (.hred a b)
      [((r.s2 a).toNat, redSize (x % 4)), ((r.quadB b).1.toNat, redSize (x % 4))]
      (.red (r.s2 a).toNat (r.sn a 2).toNat (r.quadB b).1.toNat rows (x % 4) (x / 4 % 8))) ∧
    (x / 32 = 0 → rows = 1 → Stacks s c t (.hred a b)
      [((r.s2 a).toNat, redSize (x % 4)), ((r.quadB b).1.toNat, redSize (x % 4))]
      (.red (r.s2 a).toNat 1 (r.quadB b).1.toNat (r.sn a 2).toNat (x % 4) (x / 4 % 8))) := by
  intro r x rows hx hop hty hn hrows h3
  have hty' : (decide (2 < x / 4 % 8) && decide (2 ≤ x % 4)) = false := by
    rcases hty with hle | hlt
    · rw [decide_eq_false (Nat.not_lt.2 hle), Bool.false_and]
    · rw [decide_eq_false (Nat.not_le.2 hlt), Bool.and_false]
  have hok (hm : rows ≤ if x / 32 == 1 then 65536 else 1) : hredBad r a b = false := by
    simp only [hredBad, Bool.or_eq_false_iff]
    exact ⟨⟨⟨⟨⟨⟨decide_eq_false (Nat.not_le.2 hx), decide_eq_false (Nat.not_lt.2 hop)⟩, hty'⟩, by rw [hn]; rfl⟩,
      beq_false_of_ne hrows⟩, decide_eq_false (Nat.not_lt.2 hm)⟩, by rw [h3]; rfl⟩
  have hmode (p q : StackOp) : (if x / 32 == 1 then p else q) = if x / 32 = 1 then p else q := by simp only [beq_iff_eq]
  refine ⟨fun hm hr => stackOp_sends rfl ((if_neg (Bool.eq_false_iff.1 (hok ?_))).trans ?_),
    fun hm hr => stackOp_sends rfl ((if_neg (Bool.eq_false_iff.1 (hok ?_))).trans ?_)⟩
  · rw [hm]
    exact hr
  · exact congrArg (fun k => some (_, k)) ((hmode _ _).trans (if_pos hm))
  · rw [hm]
    exact hr.le
  · exact congrArg (fun k => some (_, k)) ((hmode _ _).trans (if_neg (by rw [hm]; exact Nat.zero_ne_one)))

/-- HCVT with its code, rounding, saturation and counts in range (R307). -/
theorem hcvt_sends :
    let r := c.src s t
    let x := (r.sn a 3).toNat
    let y := (r.quadB b).1.toNat
    let z := (r.quadB b).2.toNat
    let q := cvtShape (x % 16)
    x < 128 → x % 16 ≤ 11 → x / 16 % 4 ≠ 3 → (q.2.2 = false → x / 16 % 4 = 0 ∧ x / 64 = 0) →
    countOk (r.sn a 2).toNat = true → (if x % 16 < 6 then z = 0 else (r.sn a 2).toNat % 32 = 0) →
    Stacks s c t (.hcvt a b) [((r.s2 a).toNat, max (q.1 / 8) 1), (y, max (q.2.1 / 8) 1), (z, 1)]
      (.cvt (r.s2 a).toNat (r.sn a 2).toNat y z (x % 16) (x / 16 % 4) (x / 64 == 1) 0 []) := by
  intro r x y z q hx hcode hrm hr hn hz
  have hr' : (!q.2.2 && (x / 16 % 4 != 0 || x / 64 == 1)) = false := by
    cases hq : q.2.2 with
    | true => rfl
    | false => simp [hr hq]
  have hz' : (if x % 16 < 6 then z != 0 else (r.sn a 2).toNat % 32 != 0) = false := by
    split at hz <;> simp_all
  refine stackOp_sends rfl (if_neg (Bool.eq_false_iff.1 ?_))
  have hbad : (decide (128 ≤ x) || decide (11 < x % 16) || x / 16 % 4 == 3 || (!q.2.2 && (x / 16 % 4 != 0 || x / 64 == 1)) ||
      !countOk (r.sn a 2).toNat || if x % 16 < 6 then z != 0 else (r.sn a 2).toNat % 32 != 0) = false := by
    rw [hr', hz', hn, beq_false_of_ne hrm, decide_eq_false (Nat.not_le.2 hx), decide_eq_false (Nat.not_lt.2 hcode)]
    rfl
  exact hbad

/-! ### HQRY and completion (R308, R309) -/

theorem hqry_sends (h : EngineIssuing s c t (.hqry d b)) :
    let r := c.src s t
    let k := (r.sb b).toNat
    k ≤ 11 → s.stackUnit t.ctx (c.key / 32) = some u → r.t.ctrFull .loads = false →
    exec (.hqry d b) s = .next (s.asked c t r 4 u (List.range' d.toNat 4) [] (.hqry d.toNat k)) := by
  intro r k hk hu hf
  have hu' : s.stackUnit t.ctx (r.key / 32) = some u := hu
  change execHqry d b s = _
  refine engine_ok h ((if_neg (Nat.not_lt.2 hk)).trans ?_)
  simp only [advance_ctx, hu', hf, Bool.false_eq_true, if_false, r]
  rfl

/-- An accepted operation that meets no fault counts one operation done. -/
theorem stackOpComplete_done {id : Nat} {o : Op} {k k1 : StackOp} {s1 : State} (ho : s.op? id = some o)
    (hp : o.phase ≠ 0) (hpark : o.park = none) (hb : o.body = .stack k) (hr : s.stackRun o k = (s1, k1, none)) :
    exec (.stackOpComplete id) s = .next ((s1.stackAdd o 0 1).opDone o [] none true) := by
  have hgo : ¬(o.phase = 0 ∨ o.park.isSome = true) := by simp [hp, hpark]
  change execStackOpComplete id s = _
  simp only [execStackOpComplete, ho, hgo, if_false, hb, hr]

end

/-- Settles O34: each form's legality, and one send for all of them. -/
theorem stackResults : Obligations.StackResults := by
  unfold Obligations.StackResults
  intro s c t
  exact ⟨fun a b => hgath_sends, fun a b => hred_sends, fun a b => hcvt_sends, fun d b u h => hqry_sends h,
    fun o d k hk => LaunchCommands.performs_cmd hk rfl, fun id o k k1 s1 => stackOpComplete_done⟩

end Sys2Proof.StackEngines

/-!
# The collective engine (O39, O40)

Every word of major 0x30 but CWAIT is one call of `collOp`; what its command does, it does when the engine performs it.
-/

namespace Sys2Proof.CollectiveEngine
open Sys2Proof.Machine Sys2Proof.Laws Sys2Proof.LaunchCommands

section
variable {s : State} {c : Cur} {t : Tray} {i : Instr} {a d : BitVec 7} {b : SB}

/-! ### Sending (R317–R320, R326, R328, R329) -/

/-- A command whose checks pass is sent. -/
theorem collOp_asks {sdst cs : List Nat} {legal : Src → Bool} {counters : Src → List Nat}
    {addrs : Src → List (Nat × Nat)} {as : List (Nat × Nat)} {f : Src → Cmd} {k : Cmd}
    (hi : exec i s = collOp i s sdst legal counters addrs f) (hl : legal (c.src s t) = true)
    (hcs : counters (c.src s t) = cs) (has : addrs (c.src s t) = as) (hk : f (c.src s t) = k) :
    Collects s c t i sdst cs as k := by
  intro h hu hown ha hf
  subst hcs has hk
  let own := (s.ctx t.ctx).own
  have hcap : ¬(own.ual = 0 ∨ ((counters (c.src s t)).any fun k => !own.counters.getLsbD k) = true) :=
    not_or.2 ⟨hu, by simpa using hown⟩
  rw [hi]
  refine engine_ok h ?_
  simp only [hl, Bool.not_true, Bool.false_eq_true, if_false, advance_ctx, hcap, ha, hf, own]

/-- A posting word is sent with what its registers say. -/
theorem posts_sends {red : Bool} (hi : exec i s = postOpnd i red d a b s) : Posts s c t i red d a b :=
  fun hl hq => collOp_asks hi (Bool.and_eq_true_iff.2 ⟨hl, hq⟩) rfl rfl rfl

/-- A CARM that is no FIRE and no FREE is sent with the counter it names. -/
theorem carm_counter (hi : exec i s = carmOpnd i d a b s) :
    let r := c.src s t
    carmLegal (r.s a) (r.sn a 1) (r.sb b) = true → bits (r.sn a 1).toNat 31 30 ≠ 1 →
    Collects s c t i [d.toNat] [bits (r.sn a 1).toNat 11 0] [] (.carm d.toNat (r.s a) (r.sn a 1) (r.sb b)) :=
  fun hl hop => collOp_asks hi hl (if_neg hop) rfl rfl

/-- FIRE and FREE name no counter. -/
theorem carm_entry (hi : exec i s = carmOpnd i d a b s) :
    let r := c.src s t
    carmLegal (r.s a) (r.sn a 1) (r.sb b) = true → bits (r.sn a 1).toNat 31 30 = 1 →
    Collects s c t i [d.toNat] [] [] (.carm d.toNat (r.s a) (r.sn a 1) (r.sb b)) :=
  fun hl hop => collOp_asks hi hl (if_pos hop) rfl rfl

/-! ### CWAIT (R327) -/

section
variable (h : EngineIssuing s c t (.cwait d a b)) (hk : ((c.src s t).s a).toNat < 4096)
  (hu : (s.ctx t.ctx).own.ual ≠ 0) (hc : (s.ctx t.ctx).own.counters.getLsbD ((c.src s t).s a).toNat = true)
include h hk hu hc

/-- CWAIT waits while its counter is below the threshold without error. -/
theorem cwait_waits (hr : s.trigReady ((c.src s t).s a).toNat ((c.src s t).sb b) = false) :
    exec (.cwait d a b) s = .next s := by
  change execCwait d a b s = _
  refine engine_stay h ?_
  simp only [Nat.not_le.2 hk, if_false, advance_ctx, hu, hc, Bool.not_true, Bool.false_eq_true, or_self, hr, Bool.not_false,
    if_true]

/-- CWAIT then takes the counter's value and raises the cause of its error. -/
theorem cwait_takes (hr : s.trigReady ((c.src s t).s a).toNat ((c.src s t).sb b) = true) :
    let x := s.trig ((c.src s t).s a).toNat
    let t1 := (t.advance c).setSreg c.path d.toNat x.value
    exec (.cwait d a b) s = .next ((s.acquire (c.key / 32) t1 4).completedRaising c t t1
      (if x.err = 0 then [] else [x.cause]) none) := by
  intro x t1
  change execCwait d a b s = _
  by_cases he : x.err = 0
  · rw [if_pos he, CopyRings.completedRaising_nil]
    refine engine_ok h ?_
    simp only [Nat.not_le.2 hk, if_false, advance_ctx, hu, hc, Bool.not_true, Bool.false_eq_true, or_self, hr]
    exact if_pos he
  · rw [if_neg he]
    refine engine_later h ?_
    simp only [Nat.not_le.2 hk, if_false, advance_ctx, hu, hc, Bool.not_true, Bool.false_eq_true, or_self, hr]
    exact if_neg he

end

end

/-- Settles O39: each word is one `collOp` with its legality and its counters, CWAIT goes by its counter. -/
theorem collectiveResults : Obligations.CollectiveResults := by
  unfold Obligations.CollectiveResults
  intro s c t
  refine ⟨fun d a b => posts_sends rfl, fun d a b => posts_sends rfl, fun d a b => posts_sends rfl,
    fun d a b => posts_sends rfl, fun d a b hl => ?carm, fun d a => collOp_asks rfl rfl rfl rfl rfl,
    fun d a b h => ?cwait, fun d b hk => ?cqry⟩
  case carm =>
    have counter {n : Nat} (hn : n ≠ 1) (hop : bits ((c.src s t).sn a 1).toNat 31 30 = n) :
        bits ((c.src s t).sn a 1).toNat 31 30 ≠ 1 := by rwa [hop]
    exact ⟨fun hop => carm_counter rfl hl (counter (by decide) hop), fun hop _ => carm_entry rfl hl hop,
      fun hop _ => carm_entry rfl hl hop, fun hop => carm_counter rfl hl (counter (by decide) hop),
      fun hop => carm_counter rfl hl (counter (by decide) hop)⟩
  case cqry =>
    have hi : exec (.cqry d b) s = collOp (.cqry d b) s (List.range' d.toNat 4) (fun r => decide ((r.sb b).toNat < 4096))
      (fun r => [(r.sb b).toNat]) (fun _ => []) fun r => .cqry d.toNat (r.sb b).toNat := rfl
    exact collOp_asks hi (decide_eq_true hk) rfl rfl rfl
  case cwait => exact fun hk hu hc => ⟨cwait_waits h hk hu hc, cwait_takes h hk hu hc⟩

/-! ### Performing (R320, R326, R328, R329) -/

section
variable {s : State} {o : Op} {d : Nat} {lo hi b : Word}

/-- A command's tray gets its result in s(d). -/
def answered (o : Op) (d : Nat) (q : Word × State) : State :=
  q.2.onTrayOf o.batch o.tray fun t => t.answer o.pend [.s d q.1]

/-- A CARM answers with what it comes to. -/
theorem carm_performs (hk : o.body = .cmd (.carm d lo hi b)) {q : Word × State}
    (hq : (s.dropOp o.id).carm o.tag.ctx lo hi b = q) : Performs s o (answered o d q) := by
  subst hq
  exact performs_cmd hk rfl

/-- A post that meets no fault answers with its handle or its code. -/
theorem post_performs {red : Bool} {src len : Nat} {w w0 w1 w2 w3 v : Word} {s1 : State}
    (hk : o.body = .cmd (.post d red src len w w0 w1 w2 w3))
    (hp : (s.dropOp o.id).post o.tag.ctx o.tag red src len w w0.toNat w1.toNat w2.toNat w3.toNat = (.ok v, s1)) :
    Performs s o (answered o d (v, s1)) := by
  refine performs_cmd hk ?_
  change State.collGo (s.dropOp o.id) { o with phase := 1 } (.post d red src len w w0 w1 w2 w3) = _
  simp only [State.collGo, hp]
  rfl

/-! ### CARM by its OP (R326) -/

section
variable {c idx : Nat} {h : Word} {e : Posted} {f : Nat → Posted → Option State}

theorem carmEntry_stale (he : s.byPostHandle h = none) : s.carmEntry c h f = (postCode 6, s) := by
  simp only [State.carmEntry, he]

theorem carmEntry_foreign (he : s.byPostHandle h = some (idx, e)) (hc : e.ctx ≠ c) :
    s.carmEntry c h f = (postCode 6, s) := by
  simp only [State.carmEntry, he, bne_iff_ne.2 hc, if_true]

theorem carmEntry_refused (he : s.byPostHandle h = some (idx, e)) (hc : e.ctx = c) (hf : f idx e = none) :
    s.carmEntry c h f = (postCode 7, s) := by
  simp only [State.carmEntry, he, hc, bne_self_eq_false, Bool.false_eq_true, if_false, hf]

theorem carmEntry_done {s1 : State} (he : s.byPostHandle h = some (idx, e)) (hc : e.ctx = c) (hf : f idx e = some s1) :
    s.carmEntry c h f = (0, s1) := by
  simp only [State.carmEntry, he, hc, bne_self_eq_false, Bool.false_eq_true, if_false, hf]

/-- ARM puts an entry that is held on a counter, and fires it where that is reached without error. -/
def armed (s : State) (idx k : Nat) (b : Word) : State :=
  let s1 : State := { s.onPost idx fun e => { e with st := .armed k b s.nextId } with nextId := s.nextId + 1 }
  if (s1.trig k).err = 0 ∧ reached (s1.trig k).value b = true then s1.fire idx else s1

theorem carm_arm (hop : bits hi.toNat 31 30 = 0) : s.carm c lo hi b = s.carmEntry c lo fun idx e =>
    if e.st != .held then none else some (armed s idx (bits hi.toNat 11 0) b) := by
  simp only [State.carm, hop]
  rfl

theorem carm_fireOrFree (hop : bits hi.toNat 31 30 = 1) : s.carm c lo hi b = s.carmEntry c lo fun idx e =>
    if b = 0 then if e.st.idle then some (s.fire idx) else none
    else if e.st.idle || e.st == .posted then some (s.postFree idx) else none := by
  simp only [State.carm, hop]

theorem carm_set (hop : bits hi.toNat 31 30 = 2) : s.carm c lo hi b =
    ((s.trig (bits hi.toNat 11 0)).value, (s.onTrig (bits hi.toNat 11 0) fun _ => ⟨b, 0, 0⟩).trigFire (bits hi.toNat 11 0)) := by
  simp only [State.carm, hop]

theorem carm_add (hop : bits hi.toNat 31 30 = 3) :
    s.carm c lo hi b = ((s.trig (bits hi.toNat 11 0)).value + b, s.trigAdd (bits hi.toNat 11 0) b) := by
  simp only [State.carm, hop]

/-- An OP on an entry goes through `carmEntry`. -/
theorem carm_entryOp (hop : bits hi.toNat 31 30 < 2) : ∃ f, s.carm c lo hi b = s.carmEntry c lo f := by
  rcases Nat.lt_succ_iff_lt_or_eq.1 hop with h0 | h1
  · exact ⟨_, carm_arm (by omega)⟩
  · exact ⟨_, carm_fireOrFree h1⟩

theorem carm_stale (hop : bits hi.toNat 31 30 < 2) (he : s.byPostHandle lo = none) :
    s.carm c lo hi b = (postCode 6, s) := by
  obtain ⟨f, hf⟩ := carm_entryOp (s := s) (c := c) (lo := lo) (b := b) hop
  rw [hf, carmEntry_stale he]

theorem carm_foreign (hop : bits hi.toNat 31 30 < 2) (he : s.byPostHandle lo = some (idx, e)) (hc : e.ctx ≠ c) :
    s.carm c lo hi b = (postCode 6, s) := by
  obtain ⟨f, hf⟩ := carm_entryOp (s := s) (c := c) (lo := lo) (b := b) hop
  rw [hf, carmEntry_foreign he hc]

section
variable (he : s.byPostHandle lo = some (idx, e)) (hc : e.ctx = c)
include he hc

theorem carm_arm_notHeld (hop : bits hi.toNat 31 30 = 0) (hst : e.st ≠ .held) :
    s.carm c lo hi b = (postCode 7, s) :=
  (carm_arm hop).trans (carmEntry_refused he hc (if_pos (bne_iff_ne.2 hst)))

theorem carm_arm_held (hop : bits hi.toNat 31 30 = 0) (hst : e.st = .held) :
    s.carm c lo hi b = (0, armed s idx (bits hi.toNat 11 0) b) :=
  (carm_arm hop).trans (carmEntry_done he hc (if_neg (by simp [hst])))

theorem carm_fire (hop : bits hi.toNat 31 30 = 1) (hb : b = 0) (hst : e.st.idle = true) :
    s.carm c lo hi b = (0, s.fire idx) :=
  (carm_fireOrFree hop).trans (carmEntry_done he hc ((if_pos hb).trans (if_pos hst)))

theorem carm_fire_notIdle (hop : bits hi.toNat 31 30 = 1) (hb : b = 0) (hst : e.st.idle = false) :
    s.carm c lo hi b = (postCode 7, s) :=
  (carm_fireOrFree hop).trans (carmEntry_refused he hc ((if_pos hb).trans (if_neg (by simp [hst]))))

theorem carm_free (hop : bits hi.toNat 31 30 = 1) (hb : b ≠ 0) (hst : e.st.idle = true ∨ e.st = .posted) :
    s.carm c lo hi b = (0, s.postFree idx) :=
  (carm_fireOrFree hop).trans (carmEntry_done he hc ((if_neg hb).trans (if_pos (by simpa using hst))))

theorem carm_free_other (hop : bits hi.toNat 31 30 = 1) (hb : b ≠ 0) (hidle : e.st.idle = false) (hst : e.st ≠ .posted) :
    s.carm c lo hi b = (postCode 7, s) :=
  (carm_fireOrFree hop).trans (carmEntry_refused he hc ((if_neg hb).trans (if_neg (by simp [hidle, hst]))))

end

end

end

/-- Settles O40: a command answers with what it comes to, a CARM by its OP and its entry. -/
theorem collectiveCommandResults : Obligations.CollectiveCommandResults := by
  unfold Obligations.CollectiveCommandResults
  intro s o
  refine ⟨fun d red src len w w0 w1 w2 w3 v s1 => post_performs, fun d lo hi b hk => ?carm,
    fun d va hk => performs_cmd hk rfl, fun d k hk => performs_cmd hk rfl⟩
  case carm =>
    refine ⟨fun hop => carm_performs hk (carm_set hop), fun hop => carm_performs hk (carm_add hop), fun hop =>
      ⟨fun he => carm_performs hk (carm_stale hop he), fun idx e he =>
        ⟨fun hc => carm_performs hk (carm_foreign hop he hc), fun hc => ?_⟩⟩⟩
    exact ⟨fun h0 hst => carm_performs hk (carm_arm_notHeld he hc h0 hst),
      fun h0 hst => carm_performs hk (carm_arm_held he hc h0 hst),
      fun h1 hb hst => carm_performs hk (carm_fire he hc h1 hb hst),
      fun h1 hb hst => carm_performs hk (carm_fire_notIdle he hc h1 hb hst),
      fun h1 hb hst => carm_performs hk (carm_free he hc h1 hb hst),
      fun h1 hb hidle hst => carm_performs hk (carm_free_other he hc h1 hb hidle hst)⟩

end Sys2Proof.CollectiveEngine

/-!
# The samplers (O35)

A sampler command whose operands are legal reads its descriptor and computes every thread's results where it issues
(log 55); they are bound for its window registers and land when it completes.
-/

namespace Sys2Proof.Samplers
open Sys2Proof.Machine Sys2Proof.Laws Sys2Proof.LaunchCommands

section
variable {s : State} {c : Cur} {t : Tray} {i : Instr} {d a : BitVec 7} {b : SB}

/-- An engine word that checks its window registers itself completes like any other. -/
theorem engineLate_ok (h : EngineIssuing s c t i) {body : Src → Tray → State → Res} {t' : Tray} {s' : State}
    (hb : body (c.src s t) (t.advance c) s = .ok t' s') : engineLate i.opnds s body = .next (s'.completed c t t') := by
  rw [engineLate_run h hb (by simp)]
  simp [Res.outcome, Res.perform, h.1.performed, State.completed]

/-- A sampler command whose checks pass is sent with the results of its threads. -/
theorem samplerOp_sends {form : Bool} {ctl : Word → Bool} {nres nop : Word → Nat} {align nr no : Nat}
    {f : Reader → Nat → Word → List Word → (Nat → Word) → Samp (List Word)} {note : List Word → Nat × Nat}
    (hi : exec i s = samplerOp i s d a b form ctl nres nop align f note) (hform : form = true)
    (hctl : ctl ((c.src s t).sq b 3) = true) (hnr : nres ((c.src s t).sq b 3) = nr) (hno : nop ((c.src s t).sq b 3) = no) :
    Samples s c t i d a b nr no align f note := by
  intro h hp1 hdesc halign hd ha hn hsb hf k hk hpark
  have hctx : t.ctx = (t.advance c).ctx := by simp
  have hwatch : t.watch = (t.advance c).watch := by simp
  rw [hctx] at hk
  rw [hctx, hwatch]
  intro q n s1 data z
  subst hnr hno
  let r := c.src s t
  let ops : List Opnd := [⟨.v, d.toNat, nres (r.sq b 3), false, true⟩, ⟨.v, a.toNat, nop (r.sq b 3), true, false⟩]
  have hlegal : (r.t.p1.isSome || !form || !ctl (r.sq b 3)) = false := by
    rw [hp1, hform, hctl]
    rfl
  have hovf : (decide (128 < d.toNat + nres (r.sq b 3)) || decide (128 < a.toNat + nop (r.sq b 3)) || beyondN r.t ops) =
      false := by
    rw [decide_eq_false (Nat.not_lt.2 hd), decide_eq_false (Nat.not_lt.2 ha), hn]
    rfl
  have hsb' : scoreboard r.t r.i ops = false := hsb
  rw [hi]
  refine engineLate_ok h ?_
  refine (if_neg (Bool.eq_false_iff.1 hlegal)).trans ((if_neg (Nat.not_le.2 hdesc)).trans ((if_neg ?_).trans
    ((if_neg (Bool.eq_false_iff.1 hovf)).trans ((if_neg ?_).trans ?_))))
  · exact Bool.eq_false_iff.1 (by simpa using halign)
  · have hbusy : (r.ctrFull .loads || scoreboard r.t r.i ops) = false := by
      rw [hf, hsb']
      rfl
    exact Bool.eq_false_iff.1 hbusy
  · have hk' : (sampAll r.todo fun th => f ⟨s, (t.advance c).ctx, r.key / 32, r.sq b 2⟩
        (pair (r.sq b 0) (r.sq b 1)).toNat (r.sq b 3)
        ((List.range (nop (r.sq b 3))).map fun j => r.t.vreg (a.toNat + j) th) fun j => Config.samplerOpen s.ticks th j) =
        .ok k := hk
    simp only [r] at hk'
    simp only [hk', hpark, Option.isSome_none, Bool.and_false, Bool.false_eq_true, if_false]
    rfl

/-- MQRY outside a divergence, into an aligned quad, is sent. -/
theorem mqry_sends (h : EngineIssuing s c t (.mqry d)) (hp : (c.src s t).t.p1 = none) (hd : d.toNat % 4 = 0)
    (hf : (c.src s t).t.ctrFull .loads = false) :
    exec (.mqry d) s = .next (s.asked c t (c.src s t) 7 (c.key / 32 / 8) (List.range' d.toNat 4) [] (.mqry d.toNat)) := by
  change execMqry d s = _
  exact engine_ok h ((if_neg (by simp [hp, hd])).trans (if_neg (by simp [hf])))

/-- The results of an accepted command land when it completes. -/
theorem samplerOpComplete_lands {id : Nat} {o : Op} {data : List RegWrite} (ho : s.op? id = some o)
    (hb : o.body = .performed data) (hp : o.phase ≠ 0) (he : o.tag.eng = 7) :
    exec (.samplerOpComplete id) s = .next (s.opDone o data none false) := by
  change execSamplerOpComplete id s = _
  simp only [execSamplerOpComplete, ho, hb, hp, he, ne_eq, not_true_eq_false, or_self, if_false]

end

/-- Settles O35: the forms of the sampler words are one `samplerOp`, which reads where it issues (log 55). -/
theorem samplerResults : Obligations.SamplerResults := by
  unfold Obligations.SamplerResults
  intro s c t
  refine ⟨fun d a b ha h1 h8 => ?march, fun d a b h8 => ?msmp, fun d a b h1 h16 => ?mhash, fun d => mqry_sends,
    fun o d hk => performs_cmd hk rfl, fun id o data => samplerOpComplete_lands⟩
  case march =>
    exact samplerOp_sends (form := a.toNat % 8 == 0) (ctl := fun cw => 1 ≤ cw.toNat && cw.toNat ≤ 8) (nres := fun _ => 26)
      (nop := fun _ => 8) rfl (beq_iff_eq.2 ha) (Bool.and_eq_true_iff.2 ⟨decide_eq_true h1, decide_eq_true h8⟩) rfl rfl
  case msmp =>
    exact samplerOp_sends (form := true) (ctl := fun cw => cw.toNat < 8) (nres := fun cw => cw.toNat % 4 + 1)
      (nop := fun _ => 3) rfl rfl (decide_eq_true h8) rfl rfl
  case mhash =>
    exact samplerOp_sends (form := true) (ctl := fun cw => 1 ≤ cw.toNat && cw.toNat ≤ 16) (nres := fun cw => cw.toNat)
      (nop := fun _ => 3) rfl rfl (Bool.and_eq_true_iff.2 ⟨decide_eq_true h1, decide_eq_true h16⟩) rfl rfl

end Sys2Proof.Samplers

/-!
# The words of the raster fronts and of pixel trays (O36)

A front's word is sent where its quad is legal, and performed on the pass its descriptor names; a pixel tray's words go by
the pass of the tray, without which they are illegal.
-/

namespace Sys2Proof.RasterWords
open Sys2Proof.Machine Sys2Proof.Laws Sys2Proof.LaunchCommands

section
variable {s : State} {c : Cur} {t : Tray} {i : Instr} {d a : BitVec 7} {b : SB}

/-! ### The fronts' words (R358–R362) -/

/-- The checks of a front's word pass. -/
theorem frontCheck_passes {x addr : Nat} (hr : (s.ctx x).own.raster ≠ 0) (ha : addrCauses [(addr, 64)] = []) :
    s.frontCheck x addr = .inl none := by
  unfold State.frontCheck
  rw [if_neg hr, ha]

/-- A front's word whose checks pass, its registers in their window and free, is sent. -/
theorem frontOp_sends {legal : Src → Bool} {addr : Src → Nat} {regs : Src → Option Bool} {f : Src → Cmd}
    (h : EngineIssuing s c t i) (hp : (c.src s t).t.p1 = none) (hr : (s.ctx t.ctx).own.raster ≠ 0)
    (ha : addrCauses [(addr (c.src s t), 64)] = []) (hl : legal (c.src s t) = true) (hregs : regs (c.src s t) = none) :
    frontOp i s legal addr regs f =
      .next (s.ordered c t (t.advance c) (c.src s t) 6 (c.key / 32 / 256) (f (c.src s t))) := by
  have hcheck : s.frontCheck (t.advance c).ctx (addr (c.src s t)) = .inl none := by
    rw [advance_ctx]
    exact frontCheck_passes hr ha
  refine Samplers.engineLate_ok h ?_
  simp only [hp, hl, Option.isSome_none, Bool.not_true, Bool.or_self, Bool.false_eq_true, if_false, hcheck, hregs]
  rfl

/-- A window register that a word names lies in its tray's window. -/
theorem window_of_mem {ops : List Opnd} (h : Issuing s c t ops) {o : Opnd} (ho : o ∈ ops) (hv : o.file = .v) :
    (c.src s t).t.vwin + o.k + o.n ≤ (c.src s t).t.n := by
  have hw : (c.snap.getD t).vwin + o.k + o.n ≤ (c.snap.getD t).n := by
    simpa [hv] using List.any_eq_false.1 h.window o ho
  exact hw

/-- GEMIT's thread registers and its block of vertices lie in the window, and none of the block is pending. -/
theorem gemit_sends :
    let r := c.src s t
    let n := bits (r.sq b 2).toNat 13 9
    quadLegal (r.sq b 2) (r.sq b 3) false true = true → n ≤ 16 → a.toNat + (12 + 3 * n) ≤ 128 →
    r.t.vwin + a.toNat + (12 + 3 * n) ≤ r.t.n →
    (r.t.pend.any fun p => p.vdst.any fun k => (List.range' (r.t.vwin + a.toNat) (12 + 3 * n)).contains k) = false →
    let addr := (pair (r.sq b 0) (r.sq b 1)).toNat
    Fronts s c t (.gemit d a b) addr
      (.emit addr ((r.sq b 2).toNat % 256) ((maskThreads r.m0).map fun th => r.emit d a n th)) := by
  intro r n hq hn ha hwin hfree addr h hp hr hva
  change execGemit d a b s = _
  refine frontOp_sends h hp hr hva ?_ ?_
  · change (quadLegal (r.sq b 2) (r.sq b 3) false true && decide (n ≤ 16) && decide (a.toNat + (12 + 3 * n) ≤ 128)) = true
    rw [hq, decide_eq_true hn, decide_eq_true ha]
    rfl
  · have hd : r.t.vwin + d.toNat + 2 ≤ r.t.n := window_of_mem h.1 (o := Opnd.vr d 2) List.mem_cons_self rfl
    exact (if_neg (not_or.2 ⟨Nat.not_lt.2 hd, Nat.not_lt.2 hwin⟩)).trans (if_neg (Bool.eq_false_iff.1 hfree))

theorem gflush_sends :
    let r := c.src s t
    quadLegal (r.sn a 2) (r.sn a 3) true false = true → ((r.sn a 2).getLsbD 8 = true ∨ (r.sbz64 b).toNat < 2 ^ 48) →
    Fronts s c t (.gflush a b) (r.s2 a).toNat
      (.flush (r.s2 a).toNat ((r.sn a 2).toNat % 256) (r.sbz64 b).toNat ((r.sn a 2).getLsbD 8)) := by
  intro r hq hw h hp hr hva
  change execGflush a b s = _
  refine frontOp_sends h hp hr hva (Bool.and_eq_true_iff.2 ⟨hq, ?_⟩) rfl
  exact Bool.or_eq_true_iff.2 (hw.imp id fun h => decide_eq_true h)

theorem pxrate_sends :
    let r := c.src s t
    quadLegal (r.sn a 2) (r.sn a 3) false false = true → (r.sb b).toNat < 7 →
    Fronts s c t (.pxrate a b) (r.s2 a).toNat (.rate (r.s2 a).toNat ((r.sn a 2).toNat % 256) (r.sb b).toNat) := by
  intro r hq hrate h hp hr hva
  change execPxrate a b s = _
  exact frontOp_sends h hp hr hva (Bool.and_eq_true_iff.2 ⟨hq, decide_eq_true hrate⟩) rfl

/-- Where no monitor watches, the log sets no watch mark and changes nothing. -/
theorem log_silent {r : Src} {u : Tray} {k : AccKind} {l : List Lane} {n : Nat} (hu : s.unwatched u.ctx) :
    r.log u s k l n = (u, s) := by
  have hfold : (l.foldl (fun (acc : Bool × State) y =>
      let (w, s) := acc.2.logAccess u.ctx (r.key / 32) (r.key % 32) k y.ea n
      (acc.1 || w, s)) (false, s)) = (false, s) :=
    List.foldlRecOn (motive := fun q => q = (false, s)) l _ rfl fun q hq y _ => by
      rw [hq]
      simp only [MemoryAccess.logAccess_unwatched hu, Bool.or_self]
  unfold Src.log
  rw [hfold]
  simp only [Bool.or_false]

/-! ### Pixel trays (R359, R363, R365, R366) -/

section
variable {x : PixTray} {p : Pass} (hx : (c.src s t).pixTray s = some (x, p))
include hx

theorem pxin_asks {mode : BitVec 2} {cen : Bool} {k : BitVec 5} (h : EngineIssuing s c t (.pxin d mode cen k))
    (hf : (c.src s t).t.ctrFull .loads = false) :
    let r := c.src s t
    exec (.pxin d mode cen k) s = .next (s.asked c t r 6 (4 + c.key / 32) [] (r.group d 1)
      (.done ((maskThreads r.m0).filterMap fun th => (x.threads.get? th).bind fun z => (x.prims.get? z.seq).map fun q =>
        RegWrite.v (vkey (r.t.vwin + d.toNat) th) (p.pixIn q z mode.toNat cen k.toNat)))) := by
  change execPxin d mode cen k s = _
  refine engine_ok h ?_
  simp only [hx, hf, Bool.false_eq_true, if_false]
  rfl

theorem pxkill_orders (h : EngineIssuing s c t Instr.pxkill) :
    exec .pxkill s = .next (s.ordered c t ((t.advance c).releaseShares (c.src s t).m0) (c.src s t) 6 (4 + c.key / 32)
      (.done [])) := by
  change execPxkill s = _
  refine engine_ok h ?_
  simp only [hx]
  rfl

/-- The colours that a thread hands over: its block of registers. -/
def blockColours (r : Src) (a : BitVec 7) (n th : Nat) : List Word :=
  (List.range n).map fun j => r.t.vreg (a.toNat + j) th

section
variable (h : EngineIssuing s c t (.pxout a)) (hwin : (c.src s t).t.vwin + a.toNat + p.block ≤ (c.src s t).t.n)
  (hfree : ((c.src s t).t.pend.any fun q => q.vdst.any fun k =>
    (List.range' ((c.src s t).t.vwin + a.toNat) p.block).contains k) = false)
include h hwin hfree

/-- A PXOUT in which no thread takes part exports nothing. -/
theorem pxout_nothing (hl : (c.src s t).exporters x = [])
    (hall : s.exportAll (c.key / 32) (t.advance c) (c.src s t).step p x (blockColours (c.src s t) a p.block) [] = .ok (s, [])) :
    exec (.pxout a) s = .next (s.ordered c t (t.advance c) (c.src s t) 6 (4 + c.key / 32) (.done [])) := by
  have hall' : s.exportAll ((c.src s t).key / 32) (t.advance c) (c.src s t).step p x
      (fun th => (List.range p.block).map fun j => (c.src s t).t.vreg (a.toNat + j) th) [] = .ok (s, []) := hall
  change execPxout a s = _
  refine engine_ok h ?_
  simp only [hx, Nat.not_lt.2 hwin, hfree, hl, List.any_nil, Bool.and_false, List.isEmpty_nil, Bool.not_true,
    Bool.false_eq_true, if_false, hall', if_true]
  rfl

/-- The threads that take part in a PXOUT hand over their pixels and give up their shares. -/
theorem pxout_exports {s1 : State} {e : Export} {es : List Export} (hnan : (c.src s t).t.fpctl.getLsbD 6 = false)
    (hf : (c.src s t).t.ctrFull .stores = false)
    (hall : s.exportAll (c.key / 32) (t.advance c) (c.src s t).step p x (blockColours (c.src s t) a p.block)
      ((c.src s t).exporters x) = .ok (s1, e :: es))
    (hu : s1.unwatched t.ctx) :
    exec (.pxout a) s = .next (({ s1 with nextId := s1.nextId + (e :: es).length }.onPass x.pass fun p =>
        { p with exports := p.exports ++ e :: es }).ordered c t
      (((t.advance c).addPend .op c.path (some .stores) [] [] none).releaseShares
        (((c.src s t).exporters x).foldl (fun (m : Mask) (e : Nat × PixThread) => m ||| maskBit e.1) 0)) (c.src s t) 6
        (4 + c.key / 32) (.done [])) := by
  have hall' : s.exportAll ((c.src s t).key / 32) (t.advance c) (c.src s t).step p x
      (fun th => (List.range p.block).map fun j => (c.src s t).t.vreg (a.toNat + j) th) ((c.src s t).exporters x) =
      .ok (s1, e :: es) := hall
  change execPxout a s = _
  refine engine_ok h ?_
  simp only [hx, Nat.not_lt.2 hwin, hfree, hnan, hf, Bool.false_and, Bool.false_eq_true, if_false, hall',
    List.isEmpty_cons]
  rw [log_silent]
  · rfl
  · have hctx (m : Mask) : (((t.advance c).addPend .op c.path (some .stores) [] [] none).releaseShares m).ctx = t.ctx := by
      simp [Tray.releaseShares, Tray.addPend]
    refine MemoryAccess.unwatched_of_ctxs (s := s1) rfl ?_
    rwa [← hctx] at hu

end

end

/-- Outside a pixel tray a word of the pixel group is illegal. -/
theorem pixel_illegal (hx : (c.src s t).pixTray s = none) :
    (∀ d mode cen k, EngineIssuing s c t (.pxin d mode cen k) → RaisesEarly s c (.pxin d mode cen k) .illegal) ∧
    (∀ a, EngineIssuing s c t (.pxout a) → RaisesEarly s c (.pxout a) .illegal) ∧
    (EngineIssuing s c t .pxkill → RaisesEarly s c .pxkill .illegal) := by
  refine ⟨fun d mode cen k h => ?_, fun a h => ?_, fun h => ?_⟩
  · change execPxin d mode cen k s = _
    refine engine_early h ?_
    simp only [hx]
  · change execPxout a s = _
    refine engine_early h ?_
    simp only [hx]
  · change execPxkill s = _
    refine engine_early h ?_
    simp only [hx]

end

/-! ### Performing (R338, R360–R362) -/

/-- A front's command on the pass that it finds or starts. -/
theorem front_performs {s s1 : State} {o : Op} {addr n : Nat} (hp : (s.dropOp o.id).passFor o.tag addr = (some n, s1)) :
    (∀ st l, o.body = .cmd (.emit addr st l) → Performs s o (s1.onPass n fun p => l.foldl (fun p e => p.accept st e) p)) ∧
    (∀ st w fin, o.body = .cmd (.flush addr st w fin) → Performs s o (s1.onPass n fun p => p.flush st w fin)) ∧
    (∀ st x, o.body = .cmd (.rate addr st x) → Performs s o (s1.onPass n fun p => p.setRate st x)) := by
  refine ⟨fun st l hk => performs_cmd hk ?_, fun st w fin hk => performs_cmd hk ?_, fun st x hk => performs_cmd hk ?_⟩
  all_goals simp only [State.cmdGo, State.frontGo, hp]

/-- Settles O36: the fronts' words are one `frontOp`, a pixel tray's words go by its pass. -/
theorem rasterInstructionResults : Obligations.RasterInstructionResults := by
  unfold Obligations.RasterInstructionResults
  intro s c t
  exact ⟨fun d a b => gemit_sends, fun a b => gflush_sends, fun a b => pxrate_sends, fun o addr n s1 => front_performs,
    fun d mode cen k x p h hx => pxin_asks hx h, fun x p h hx => pxkill_orders hx h,
    fun a x p h hx hl hwin hfree => pxout_nothing hx h hwin hfree hl,
    fun a x p s1 e es h hx hwin hfree hnan hf hall hu => pxout_exports hx h hwin hfree hnan hf hall hu, pixel_illegal⟩

end Sys2Proof.RasterWords

/-!
# The matrix engine (O29, O30)

A gang-wide word whose checks pass is an arrival at the gang's latch (R278), proved once; a tile word is one operation sent
(R293), or a command with what it has read (MRD).
-/

namespace Sys2Proof.MatrixWords
open Sys2Proof.Machine Sys2Proof.Laws

section
variable {s : State} {c : Cur} {t : Tray} {i : Instr} {body : Src → Tray → State → Res}

/-! ### Arrivals (R278) -/

/-- A word that arrives at its latch waits there, every waiting member showing the same word. -/
theorem arrives_of_body (hi : exec i s = engine i.opnds s body) (h : EngineIssuing s c t i) {ctrs : List Ctr}
    {sdst : List Nat} {a : Arrival} (hb : body (c.src s t) (t.advance c) s = (c.src s t).arrive (t.advance c) s ctrs sdst a) :
    Arrives s c t i ctrs sdst a := by
  intro hl t1 a1
  have hw : ¬((s.atLatch (c.key / 32) t.batch a.first a.n).any fun x => x.2.word != a.word) = true := by
    simpa using fun k x => hl (k, x)
  have hw' : ¬((s.atLatch ((c.src s t).key / 32) t.batch a.first a.n).any fun x => x.2.word != a.word) = true := hw
  rw [hi]
  refine HandlerWords.engine_settle h (hb.trans ?_)
  unfold Src.arrive
  simp only [advance_batch, hw', clusterIdOf_advance, advance_nextPend]
  rfl

section
variable {d : BitVec 7} {b : SB}

/-- GANG that gives up no gang has nothing to wait for. -/
theorem gang_none (h : EngineIssuing s c t (.gang d b)) (hg : (c.src s t).gangIllegal true = false)
    (hv : (c.src s t).sb b = 0) (hn : gsN (c.src s t).t.gangsel = 0) (hf : (c.src s t).t.ctrFull .loads = false) :
    exec (.gang d b) s = .next (s.answered c t (c.src s t) 2 (c.key / 32) [d.toNat] [0]) := by
  change execGang d b s = _
  refine engine_ok h ?_
  simp only [hg, hv, hn, hf, beq_self_eq_true, bne_self_eq_false, Bool.true_or, Bool.not_true, Bool.or_self, Bool.false_and,
    Bool.and_self, Bool.false_eq_true, if_false, if_true]
  rfl

/-- GANG forms a gang of trays of its batch. -/
theorem gang_forms (h : EngineIssuing s c t (.gang d b)) (hg : (c.src s t).gangIllegal true = false)
    (hn : gsN (c.src s t).t.gangsel = 0) :
    let v := (c.src s t).sb b
    2 ≤ gsN v → gsN v ≤ 6 → gsFirst v + gsN v ≤ ((s.batches.get? t.batch).map (·.trays)).getD 0 →
    gsFirst v ≤ t.idx → t.idx < gsFirst v + gsN v → bits v.toNat 7 0 = 0 → gsMask v ≠ 0 →
    (c.src s t).t.ctrFull .loads = false →
    Arrives s c t (.gang d b) [.loads] [d.toNat]
      ⟨gsFirst v, gsN v, t.idx - gsFirst v, .gang d.toNat b v, c.pc, ((t.advance c).path c.path).pc, [], []⟩ := by
  intro v h2 h6 htr hlo hhi hz hm hf
  have hv0 : (v == 0) = false := by
    refine beq_false_of_ne fun he => ?_
    rw [he] at h2
    exact absurd h2 (by decide)
  have hlegal : (decide (2 ≤ gsN v) && decide (gsN v ≤ 6) &&
      decide (gsFirst v + gsN v ≤ ((s.batches.get? t.batch).map (·.trays)).getD 0) && decide (gsFirst v ≤ t.idx) &&
      decide (t.idx < gsFirst v + gsN v) && bits v.toNat 7 0 == 0 && gsMask v != 0) = true := by
    rw [decide_eq_true h2, decide_eq_true h6, decide_eq_true htr, decide_eq_true hlo, decide_eq_true hhi,
      beq_iff_eq.2 hz, bne_iff_ne.2 hm]
    rfl
  refine arrives_of_body (body := _) rfl h ?_
  simp only [advance_batch, advance_idx, v] at hv0 hlegal ⊢
  simp only [hg, hv0, Bool.false_or, hlegal, hn, hf, bne_self_eq_false, Bool.not_true, Bool.false_and, Bool.and_false,
    Bool.false_eq_true, if_false, if_true]
  rfl

/-- GANG of a member with value 0 arrives to dissolve its gang. -/
theorem gang_dissolves (h : EngineIssuing s c t (.gang d b)) (hg : (c.src s t).gangIllegal true = false)
    (hn : gsN (c.src s t).t.gangsel ≠ 0) (hv : (c.src s t).sb b = 0) (hf : (c.src s t).t.ctrFull .loads = false) :
    Arrives s c t (.gang d b) [.loads] [d.toNat] ((c.src s t).member (t.advance c) (.gang d.toNat b 0) []) := by
  refine arrives_of_body rfl h ?_
  simp only [hg, hv, hn, hf, beq_self_eq_true, bne_self_eq_false, Bool.true_or, Bool.not_true, Bool.or_self, Bool.false_and,
    Bool.and_false, decide_false, Bool.false_eq_true, if_false]

/-- MFENCE of a member arrives. -/
theorem mfence_arrives (h : EngineIssuing s c t (.mfence d)) (hg : (c.src s t).gangIllegal true = false)
    (hn : gsN (c.src s t).t.gangsel ≠ 0) (hf : (c.src s t).t.ctrFull .loads = false)
    (hm : (c.src s t).t.ctrFull .matrix = false) :
    Arrives s c t (.mfence d) [.loads, .matrix] [d.toNat] ((c.src s t).member (t.advance c) (.mfence d.toNat) []) := by
  refine arrives_of_body rfl h ?_
  simp only [hg, hn, hf, hm, Bool.or_self, Bool.false_eq_true, if_false]

end

/-- MTOPK with legal selection on two tiles of the gang arrives. -/
theorem mtopk_arrives {tf src : BitVec 7} {k : BitVec 8} (h : EngineIssuing s c t (.mtopk tf src k))
    (hg : (c.src s t).gangIllegal true = false) (hne : tf ≠ src) (hk : k.toNat < 96) :
    let r := c.src s t
    let sel := r.sn (k.setWidth 7) 1
    0 < bits sel.toNat 4 0 → bits sel.toNat 4 0 ≤ 16 → sel.toNat < 64 → r.t.holdsAll [tf.toNat, src.toNat] = true →
    Arrives s c t (.mtopk tf src k) [] []
      (r.member (t.advance c) (.mtopk tf.toNat src.toNat k.toNat (r.s (k.setWidth 7)) sel) []) := by
  intro r sel hpos h16 hsel hh
  have hbad : (r.gangIllegal true || tf == src || decide (96 ≤ k.toNat) || bits sel.toNat 4 0 == 0 ||
      decide (16 < bits sel.toNat 4 0) || decide (64 ≤ sel.toNat)) = false := by
    rw [hg, beq_false_of_ne hne, decide_eq_false (Nat.not_le.2 hk), beq_false_of_ne hpos.ne',
      decide_eq_false (Nat.not_lt.2 h16), decide_eq_false (Nat.not_le.2 hsel)]
    rfl
  have hheld : (!r.t.holdsAll [tf.toNat, src.toNat]) = false := by
    rw [hh]
    rfl
  exact arrives_of_body rfl h ((if_neg (Bool.eq_false_iff.1 hbad)).trans (if_neg (Bool.eq_false_iff.1 hheld)))

/-! ### MMA and MDIST (R283–R286) -/

/-- The registers of the blocks that a member supplies, as it holds them. -/
def mmaRegs (r : Src) (a : BitVec 7) (w : Word) : SMap 32 :=
  let k := mmaCtl w
  let block (isB : Bool) (f : Nat) : List (Nat × Word) :=
    (blockRegs (gsN r.t.gangsel) (gsRank r.t.gangsel) isB k.scales f).flatMap fun x =>
      threads.filterMap fun th =>
        let v := r.t.vreg x.2 th
        if v = 0 then none else some (((if isB then 16 else 0) + x.1) * 96 + th, v)
  (if k.aspad then [] else block false a.toNat) ++ if k.bspad then [] else block true k.breg

/-- A check of an operand that is from scratchpad only there passes. -/
theorem and_not_eq_false {p q : Bool} (h : p = true → q = true) : (p && !q) = false := by
  cases p
  · rfl
  · rw [h rfl]
    rfl

/-- What an operand that is from scratchpad reads ends within its region. -/
theorem and_lt_eq_false {p : Bool} {m n : Nat} (h : p = true → n ≤ m) : (p && decide (m < n)) = false := by
  cases p
  · rfl
  · rw [decide_eq_false (Nat.not_lt.2 (h rfl))]
    rfl

/-- Both operands pass a check that holds of each that is from scratchpad. -/
theorem operands_pass {p q x y : Bool} (hx : p = true → x = true) (hy : q = true → y = true) :
    ¬(p && !x || q && !y) = true := by
  rw [and_not_eq_false hx, and_not_eq_false hy]
  exact Bool.false_ne_true

/-- An MMA or MDIST that is ready arrives with its control word, its descriptors and its registers. -/
theorem mmaOp_arrives {dist : Bool} {tf a : BitVec 7} {b : SB} (hi : exec i s = mmaOp i dist tf a b s)
    (h : EngineIssuing s c t i) (hm : MmaReady s t (c.src s t) tf a ((c.src s t).sb b)) :
    let r := c.src s t
    ∃ regs, Arrives s c t i [] [] (r.member (t.advance c)
      (.mma dist tf.toNat a.toNat b (r.sb b) (mmaDesc r a (r.sb b)).1 (mmaDesc r a (r.sb b)).2) regs) := by
  intro r
  obtain ⟨hg, hlegal, ha, hb, hsb, hda, hdb, hh, hwin, hra, hrb⟩ := hm
  refine ⟨mmaRegs r a (r.sb b), arrives_of_body hi h ?_⟩
  rw [← clusterFor_advance (c := c)] at hra hrb
  have hill : ¬(r.gangIllegal true || !(mmaCtl (r.sb b)).legal (r.sb b) tf.toNat ||
      !operandLegal (mmaCtl (r.sb b)).aspad false (mmaCtl (r.sb b)).scales a.toNat ||
      !operandLegal (mmaCtl (r.sb b)).bspad true (mmaCtl (r.sb b)).scales (mmaCtl (r.sb b)).breg) = true := by
    rw [hg, hlegal, ha, hb]
    exact Bool.false_ne_true
  have hwin' : ¬((mmaMine r a (r.sb b)).any fun x => decide (r.t.n ≤ r.t.vwin + x.2)) = true := by
    simpa using hwin
  refine (if_neg hill).trans ((if_neg (Bool.eq_false_iff.1 hsb)).trans ((if_neg (operands_pass hda hdb)).trans
    ((if_neg (by rw [hh]; exact Bool.false_ne_true)).trans ((if_neg hwin').trans ((if_neg ?_).trans ((if_neg ?_).trans ?_))))))
  · exact operands_pass (fun hp => beq_iff_eq.2 (hra hp).1) fun hp => beq_iff_eq.2 (hrb hp).1
  · have hend : (((mmaCtl (r.sb b)).aspad && decide ((s.clusterFor (t.advance c)).size <
        descEnd (mmaDesc r a (r.sb b)).1 24 (mmaCtl (r.sb b)).cnt (mmaCtl (r.sb b)).scales)) ||
        ((mmaCtl (r.sb b)).bspad && decide ((s.clusterFor (t.advance c)).size <
          descEnd (mmaDesc r a (r.sb b)).2 32 (mmaCtl (r.sb b)).cnt (mmaCtl (r.sb b)).scales))) = false := by
      rw [and_lt_eq_false fun hp => (hra hp).2, and_lt_eq_false fun hp => (hrb hp).2]
      rfl
    exact Bool.eq_false_iff.1 hend
  · rfl

end

/-- Settles O29: each gang-wide word whose checks pass is an arrival. -/
theorem matrixGangResults : Obligations.MatrixGangResults := by
  unfold Obligations.MatrixGangResults
  intro s c t
  refine ⟨fun d b => gang_none, fun d b => gang_forms, fun d b => gang_dissolves, fun tf a b => mmaOp_arrives rfl,
    fun tf a b => mmaOp_arrives rfl, fun tf src k => mtopk_arrives, fun d => mfence_arrives, fun key t' a ht hw => ?_⟩
  change execGangLatchTimeout key s = _
  simp only [execGangLatchTimeout, ht, hw]
  rfl

/-! ### Tile words (R290–R292) -/

section
variable {s : State} {c : Cur} {t : Tray} {d tf a : BitVec 7}

/-- MZERO of tiles of the gang is sent. -/
theorem mzero_sends {b : SB} (h : EngineIssuing s c t (.mzero b)) (hg : (c.src s t).gangIllegal false = false) :
    let w := (c.src s t).sb b
    bits w.toNat 17 16 ≠ 3 → w.toNat < 2 ^ 18 → (c.src s t).t.holdsAll (bitList (w.setWidth 16)) = true →
    w.setWidth 16 ≠ 0#16 →
    let q := (c.src s t).matrixOp (t.advance c) s (.zero w)
    exec (.mzero b) s = .next (q.2.completed c t q.1) := by
  intro w hfill hw hh hsome q
  have hlegal : ((c.src s t).gangIllegal false || bits w.toNat 17 16 == 3 || decide (2 ^ 18 ≤ w.toNat)) = false := by
    rw [hg, beq_false_of_ne hfill, decide_eq_false (Nat.not_le.2 hw)]
    rfl
  have hheld : (!(c.src s t).t.holdsAll (bitList (w.setWidth 16))) = false := by
    rw [hh]
    rfl
  change execMzero b s = _
  exact engine_ok h ((if_neg (Bool.eq_false_iff.1 hlegal)).trans ((if_neg (Bool.eq_false_iff.1 hheld)).trans
    (if_neg hsome)))

/-- The parity that an FP64 word asks of its tile. -/
theorem even_of_f64 {f64 : Bool} (he : f64 = true → tf.toNat % 2 = 0) : (f64 && tf.toNat % 2 == 1) = false := by
  cases f64
  · rfl
  · rw [he rfl]
    rfl

/-- MWR of tiles of the gang is sent with the elements of its registers. -/
theorem mwr_sends {f64 : Bool} (h : EngineIssuing s c t (.mwr tf a f64)) (hg : (c.src s t).gangIllegal false = false)
    (he : f64 = true → tf.toNat % 2 = 0) (hh : (c.src s t).t.holdsAll (tilePair tf.toNat f64) = true) :
    let r := c.src s t
    let part (stride off : Nat) : SMap 32 :=
      smTab 0 768 fun k => r.t.vreg (a.toNat + stride * (k / 96) + off) (k % 96)
    let q := r.matrixOp (t.advance c) s (if f64 then .write tf.toNat r.m0 (part 2 0) (some (part 2 1))
      else .write tf.toNat r.m0 (part 1 0) none)
    exec (.mwr tf a f64) s = .next (q.2.completed c t q.1) := by
  intro r part q
  change execMwr tf a f64 s = _
  refine engine_ok h ?_
  simp only [hg, even_of_f64 he, hh, Bool.or_self, Bool.not_true, Bool.false_eq_true, if_false]
  rfl

/-- MRD of tiles of the gang, whose operations it does not wait for and of which none is poisoned, asks for their elements
(R291). -/
theorem mrd_asks {f64 peek : Bool} (h : EngineIssuing s c t (.mrd d tf f64 peek))
    (hg : (c.src s t).gangIllegal false = false) (he : f64 = true → tf.toNat % 2 = 0)
    (hh : (c.src s t).t.holdsAll (tilePair tf.toNat f64) = true) (hf : (c.src s t).t.ctrFull .loads = false)
    (hbusy : peek = true ∨ s.tilesBusy (c.key / 32) (tilePair tf.toNat f64) = false)
    (hpoison : ∀ x ∈ tilePair tf.toNat f64, (s.tile (c.key / 32) x).poison = false) :
    let r := c.src s t
    let write (x q stride off : Nat) : List RegWrite := (maskThreads r.m0).map fun th =>
      .v (vkey (r.t.vwin + d.toNat + stride * q + off) th) (smGet (s.tile (c.key / 32) x).data (96 * q + th))
    exec (.mrd d tf f64 peek) s = .next (s.asked c t r 2 (c.key / 32) []
      (List.range' (r.t.vwin + d.toNat) (if f64 then 16 else 8))
      (.done ((List.range 8).flatMap fun q =>
        if f64 then write tf.toNat q 2 0 ++ write (tf.toNat + 1) q 2 1 else write tf.toNat q 1 0))) := by
  intro r write
  have hgo : (!peek && s.tilesBusy ((c.src s t).key / 32) (tilePair tf.toNat f64)) = false := by
    rcases hbusy with hp | hb
    · rw [hp]
      rfl
    · exact Bool.and_eq_false_iff.2 (.inr hb)
  have hclean : ((tilePair tf.toNat f64).any fun x => (s.tile ((c.src s t).key / 32) x).poison) = false :=
    List.any_eq_false.2 fun x hx => Bool.eq_false_iff.1 (hpoison x hx)
  change execMrd d tf f64 peek s = _
  refine engine_ok h ?_
  simp only [hg, even_of_f64 he, hh, hf, hgo, hclean, Bool.or_self, Bool.not_true, Bool.false_eq_true, if_false]
  rfl

end

/-- The oldest accepted operation of a core has its effect and leaves. -/
theorem matrixOpComplete_done {s : State} {core : Nat} {o : Op} {k : MatrixOp} (ho : s.matrixHead core = some o)
    (hk : o.body = .matrix k) :
    exec (.matrixOpComplete core) s = .next ((s.matrixGo core o.batch k).dropOp o.id) := by
  change execMatrixOpComplete core s = _
  simp only [execMatrixOpComplete, ho, hk]

/-! ### Elements (R290, R292) -/

/-- Every element of a tile that is made for all of them. -/
theorem smGet_elements (f : Nat → Word) {k : Nat} (hk : k < 768) : smGet (smTab 0 768 f) k = f k := by
  rw [smGet_smTab, if_pos ⟨Nat.zero_le k, by omega⟩, Nat.sub_zero]

theorem fillTile_integers {k : Nat} (hk : k < 768) :
    smGet (fillTile 2) k = if k % 32 < 16 then 0x7FFFFFFF else 0xFFFFFFFF :=
  smGet_elements (fun k => if k % 32 < 16 then emptyVal true else 0xFFFFFFFF) hk

theorem smGet_writeTile (x : Tile) (m : Mask) (d : SMap 32) {k : Nat} (hk : k < 768) :
    smGet (writeTile x m d).data k = if m.getLsbD (k % 96) then smGet d k else smGet x.data k := by
  rw [writeTile, smGet_elements _ hk]

/-- Settles O30: a tile word of the gang's tiles is sent; that MRD reads its tile where it issues is log 55. -/
theorem matrixTileResults : Obligations.MatrixTileResults := by
  unfold Obligations.MatrixTileResults
  intro s c t
  refine ⟨fun b h hg => mzero_sends h hg, fun tf a h hg hh => mwr_sends h hg (fun he => Bool.noConfusion he) hh,
    fun tf a h hg he hh => mwr_sends h hg (fun _ => he) hh, fun d tf peek h hg hh hf hbusy hp => ?one,
    fun d tf peek h hg he hh hf hbusy hlo hhi => ?two, fun core o k => matrixOpComplete_done,
    fun x m d k => smGet_writeTile x m d, fun k hk => ⟨rfl, fillTile_integers hk⟩⟩
  case one =>
    refine mrd_asks h hg (fun he => Bool.noConfusion he) hh hf hbusy fun x hx => ?_
    rw [List.mem_singleton.1 hx]
    exact hp
  case two =>
    refine mrd_asks h hg (fun _ => he) hh hf hbusy fun x hx => ?_
    rcases List.mem_pair.1 hx with rfl | rfl
    · exact hlo
    · exact hhi

end Sys2Proof.MatrixWords

/-!
# Which dies are down (O41)

No write of memory or of a tray, no record and no halt changes which dies are down: what an access does to a state's own
fields, from the homes up to a record in a ring, keeps `State.down`.
-/

namespace Sys2Proof.DiesDown
open Sys2Proof.Machine Sys2Proof.Laws Sys2Proof.MemoryForm

section
variable {s : State}

theorem foldl_down {α : Type} {f : State → α → State} {l : List α} (hf : ∀ s a, (f s a).down = s.down) :
    (l.foldl f s).down = s.down :=
  List.foldlRecOn (motive := fun q => q.down = s.down) l f rfl fun q hq a _ => (hf q a).trans hq

theorem foldl_fst_down {α β : Type} {f : State × β → α → State × β} {l : List α} {p : State × β}
    (hf : ∀ p a, (f p a).1.down = p.1.down) : (l.foldl f p).1.down = p.1.down :=
  List.foldlRecOn (motive := fun q => q.1.down = p.1.down) l f rfl fun q hq a _ => (hf q a).trans hq

/-! ### Homes and pages (R173–R177, R211) -/

theorem applyPartial_down {ln : Nat} {c : DieCopy} : (s.applyPartial ln c).down = s.down := foldl_down fun _ _ => rfl

theorem mergeLine_down {ln : Nat} : (s.mergeLine ln).down = s.down := by
  unfold State.mergeLine
  split
  · rfl
  · split
    · refine foldl_down (l := _) fun s e => ?_
      split
      · exact applyPartial_down
      · rfl
    · rfl

theorem homeEngine_down {ln : Nat} {wr : Bool} : (s.homeEngine ln wr).down = s.down := by
  unfold State.homeEngine
  extract_lets
  split <;> exact mergeLine_down

theorem homeAtomic_down {ln : Nat} : (s.homeAtomic ln).down = s.down := mergeLine_down

theorem engineSpan_down {pa n : Nat} {wr : Bool} : (s.engineSpan pa n wr).down = s.down :=
  foldl_down fun _ _ => homeEngine_down

theorem physWrite_down {pa : Nat} {d : List EByte} : (s.physWrite pa d).down = s.down := by
  unfold State.physWrite
  extract_lets
  split
  · rfl
  · split <;> rfl

theorem zeroPage_down {pa : Nat} : (s.zeroPage pa).down = s.down := by
  unfold State.zeroPage
  split
  · exact engineSpan_down
  · rfl

theorem copyPage_down {src dst : Nat} : (s.copyPage src dst).down = s.down := by
  unfold State.copyPage
  extract_lets s1 s2
  have h1 : s1.down = s.down := by
    unfold s1
    split
    · exact engineSpan_down
    · rfl
  split <;> exact engineSpan_down.trans h1

theorem zeroFrame_down {c frame size : Nat} : (s.zeroFrame c frame size).down = s.down := by
  refine foldl_down fun s i => ?_
  split
  · exact zeroPage_down
  · rfl

theorem copyFrame_down {c old new size : Nat} : (s.copyFrame c old new size).down = s.down := by
  refine foldl_down fun s i => ?_
  split
  · split
    · exact copyPage_down
    · rfl
  · rfl

/-! ### Tables (R215, R222) -/

theorem tblWr_down {c pa n v : Nat} : (s.tblWr c pa n v).down = s.down := by
  unfold State.tblWr
  split
  · rfl
  · exact homeAtomic_down

theorem stamp_down {c : Nat} {x : Xl} {step : Word} : (s.stamp c x step).down = s.down := by
  refine foldl_down fun s e => ?_
  extract_lets
  split
  · exact tblWr_down
  · rfl

theorem landWrite_down {off n v : Nat} : (s.landWrite off n v).down = s.down := foldl_down fun _ _ => rfl

theorem regWrite_down {c : Nat} {l : Loc} {n v : Nat} : (s.regWrite c l n v).down = s.down := by
  unfold State.regWrite
  split
  · rfl
  · rfl
  · split
    · exact landWrite_down
    · rfl
  · rfl

/-! ### Versioned pages (R240–R249) -/

theorem hwWr_down {c va n v : Nat} : ∀ q, s.hwWr c va n v = .ok q → q.down = s.down := by
  unfold State.hwWr xerr
  refine bind_keeps fun x _ => ?_
  split
  · exact error_keeps
  · refine bind_keeps fun f _ => ?_
    split
    · exact error_keeps
    · exact pure_keeps (homeEngine_down.trans stamp_down)

theorem hwWrDrop_down {c va n v : Nat} : (s.hwWrDrop c va n v).down = s.down := by
  unfold State.hwWrDrop
  split
  · exact hwWr_down _ ‹_›
  · rfl

theorem chainWr_down {c k : Nat} {r : Chain} : (s.chainWr c k r).down = s.down := hwWrDrop_down

theorem popFrame_down {c size : Nat} : ∀ q, s.popFrame c size = some q → q.2.down = s.down := by
  unfold State.popFrame
  split
  split
  · exact none_keeps
  · split
    · exact none_keeps
    · exact some_keeps rfl

theorem pushFrame_down {c size frame : Nat} : ∀ q, s.pushFrame c size frame = some q → q.down = s.down := by
  unfold State.pushFrame
  split
  split
  · exact none_keeps
  · split
    · exact none_keeps
    · rename_i s1 hw
      have h1 : s1.down = s.down := hwWr_down _ hw
      exact some_keeps h1

theorem returnFrame_down {c size frame : Nat} : ∀ q, s.returnFrame c size frame = some q → q.down = s.down := by
  unfold State.returnFrame
  split
  · exact some_keeps rfl
  · split
    · exact none_keeps
    · rename_i s1 hp
      have h1 := pushFrame_down _ hp
      refine some_keeps (Eq.trans ?_ h1)
      change (if (s1.ctx c).scrubret then s1.zeroFrame c frame size else s1).down = s1.down
      split
      · exact zeroFrame_down
      · rfl

theorem pushBack_down {c : Nat} : (s.pushBack c).down = s.down := by
  refine foldl_down fun s m => ?_
  split
  · rename_i s1 hp
    have h1 : s1.down = s.down := pushFrame_down _ hp
    exact h1
  · rfl

theorem pushMarked_down {c : Nat} : (s.pushMarked c).down = s.down := by
  refine Eq.trans (foldl_down fun s m => ?_) pushBack_down
  split
  split
  · rfl
  · extract_lets size size'
    split
    · rfl
    · split
      · rfl
      · exact chainWr_down.trans (returnFrame_down _ ‹_›)

theorem cowCheck_down {c page : Nat} {x : Xl} {step : Word} : ∀ q, s.cowCheck c page x step = .ok q → q.1.down = s.down := by
  unfold State.cowCheck
  split
  · exact pure_keeps rfl
  · refine bind_keeps fun r _ => ?_
    split
    · exact pure_keeps rfl
    · split
      · split
        · exact pure_keeps chainWr_down
        · exact pure_keeps rfl
      · split
        · exact pure_keeps rfl
        · split
          · exact pure_keeps rfl
          · rename_i f s1 hp
            exact pure_keeps (pushMarked_down.trans (chainWr_down.trans (popFrame_down _ hp)))

theorem cowSwitch_down {id : Nat} : (s.cowSwitch id).down = s.down := by
  unfold State.cowSwitch
  split
  · rfl
  · extract_lets s1
    split
    · rfl
    · exact tblWr_down.trans (chainWr_down.trans copyFrame_down)

theorem cowFinish_down {leaf : Nat} : (s.cowFinish leaf).down = s.down := by
  unfold State.cowFinish
  split
  · exact cowSwitch_down
  · rfl

/-! ### Writes of engines, and records in rings (R211, R231) -/

theorem engWrPiece_down {c va : Nat} {d : List EByte} {step : Word} : (s.engWrPiece c va d step).1.down = s.down := by
  unfold State.engWrPiece
  split
  · rfl
  · extract_lets st
    split
    · rfl
    · exact cowCheck_down _ ‹_›
    · rename_i s1 hc
      have h1 := cowCheck_down _ hc
      extract_lets s2
      split
      · exact stamp_down.trans h1
      · exact physWrite_down.trans (homeEngine_down.trans (stamp_down.trans h1))
  · exact regWrite_down

theorem engWrPieceNow_down {c va : Nat} {d : List EByte} {step : Word} :
    (s.engWrPieceNow c va d step).1.down = s.down := by
  unfold State.engWrPieceNow
  have h1 := engWrPiece_down (s := s) (c := c) (va := va) (d := d) (step := step)
  split
  · rename_i s1 e he
    rw [he] at h1
    split
    · exact engWrPiece_down.trans (cowFinish_down.trans h1)
    · exact h1
  · exact h1

theorem engWrNow_down {c va : Nat} {d : List EByte} {step : Word} : (s.engWrNow c va d step).1.down = s.down := by
  refine foldl_fst_down (p := (s, none)) fun p a => ?_
  split
  · rfl
  · exact engWrPieceNow_down

theorem ringWr_down {c va : Nat} {bs : List Byte} : ∀ q, s.ringWr c va bs = some q → q.down = s.down := by
  unfold State.ringWr
  split
  · rename_i s1 he
    refine some_keeps ?_
    have h1 := engWrNow_down (s := s) (c := c) (va := va) (d := clean bs) (step := (s.ctx c).step)
    rwa [he] at h1
  · exact none_keeps

theorem ringPut_down {c base log : Nat} {rec : List Byte} : (s.ringPut c base log rec).2.down = s.down := by
  unfold State.ringPut
  split
  · rfl
  · split
    · rename_i s2 hw
      obtain ⟨s1, h1, h2⟩ := Option.bind_eq_some_iff.1 hw
      exact (ringWr_down _ h2).trans (ringWr_down _ h1)
    · rfl

theorem ringPost_down {c base log : Nat} {rec : List Byte} : (s.ringPost c base log rec).down = s.down := by
  unfold State.ringPost
  split
  · rename_i s1 he
    have h1 := ringPut_down (s := s) (c := c) (base := base) (log := log) (rec := rec)
    rwa [he] at h1
  · split
    · rfl
    · rename_i h _
      cases hr : s.ringWr c (base + 16) (bytesOf 4 ((s.rdAt (h + 16) 4 + 1) % 2 ^ 32)) with
      | none => rfl
      | some s1 => exact ringWr_down _ hr

theorem childRecord_down {c : Nat} {rec : List Byte} : (s.childRecord c rec).down = s.down := by
  unfold State.childRecord
  split
  · rfl
  · exact ringPost_down

theorem hostEvent_down {typ chan ctx value status : Nat} : (s.hostEvent typ chan ctx value status).down = s.down := by
  obtain ⟨out, chans, he⟩ := StartAndPower.hostEvent_form s typ chan ctx value status
  rw [he]

/-! ### Exceptions (R405) -/

theorem reflect_down {key : Nat} {causes : BitVec 64} {rtype npc : Nat} {x : Option Nat} {trefl : Bool} :
    (s.reflect key causes rtype npc x trefl).down = s.down := by
  unfold State.reflect
  split
  · rfl
  · extract_lets
    split
    rename_i n s1 hp
    have h1 : s1.down = s.down := (congrArg (fun q : Nat × State => q.2.down) hp).symm
    extract_lets rec s2 s3
    have h3 : s3.down = s.down := childRecord_down.trans h1
    split <;> exact h3

theorem raise_down {key path : Nat} {cs : List Cause} {word : Pc} {single : Bool} {x : Option Nat} :
    (s.raise key path cs word single x).down = s.down := by
  unfold State.raise
  split
  · rfl
  · extract_lets
    split
    · rfl
    · split
      · rfl
      · split
        · rfl
        · split
          · rfl
          · exact reflect_down

theorem loseLoads_down {key die : Nat} : (s.loseLoads key die).down = s.down := by
  unfold State.loseLoads
  split
  · rfl
  · split
    · rfl
    · exact raise_down

end

end Sys2Proof.DiesDown

/-!
# Units between packages, failed ports and dies (O41)

An answer to a unit in flight, a refusal and a resend act on the unit that the handle names; a failed die is marked, and its
units leave every context.
-/

namespace Sys2Proof.PodEvents
open Sys2Proof.Machine Sys2Proof.Laws Sys2Proof.DiesDown

section
variable {s : State} {h : Word} {k unit idx port : Nat} {e : Posted} {p : PostPart} {u : UaUnit}

/-! ### Answers, refusals and resends (R321, R333, R335) -/

/-- A unit that is in flight no more. -/
def unitEnded (s : State) (idx k unit : Nat) : State :=
  s.onPost idx fun e => e.onPart k fun p => { p with sent := p.sent.del unit, nacks := p.nacks.del unit }

/-- A transfer whose last unit has ended without error advances its counter. -/
def transferSettled (s : State) (idx k : Nat) (e : Posted) : State :=
  (match (s.posted.get? idx).bind fun e => e.parts[k]? with
    | some p => if p.over e.cmp ∧ p.err = 0 then s.trigAdd e.cnt 1 else s
    | none => s).postSettle idx

/-- An answer ends the unit of a firing entry, with an error of its kind where it is none of an acknowledgement. -/
theorem podAnswer_ends (he : s.byPostHandle h = some (idx, e)) (hp : e.parts[k]? = some p) (hf : e.st = .firing)
    (hs : (p.sent.get? unit).isSome = true) (kind : Nat) :
    s.podAnswer h k unit kind = transferSettled
      (if kind = 0 then unitEnded s idx k unit else (unitEnded s idx k unit).partErr idx k kind) idx k e := by
  have hgo : (e.st != .firing || (p.sent.get? unit).isNone) = false := by
    obtain ⟨y, hy⟩ := Option.isSome_iff_exists.1 hs
    simp [hf, hy]
  simp only [State.podAnswer, he, hp, hgo, Bool.false_eq_true, if_false]
  rfl

/-- A unit refused fewer than 64 times is kept. -/
theorem podNack_keeps (hu : s.unitOut h k unit = some (idx, e, p, port, u))
    (hn : ((p.nacks.get? unit).map (·.1)).getD 0 + 1 < 64) :
    exec (.ualinkNack h k unit) s = .next (s.onPost idx fun e => e.onPart k fun q =>
      { q with nacks := q.nacks.put unit (((p.nacks.get? unit).map (·.1)).getD 0 + 1, true) }) := by
  change Host.Outcome.next (s.podNack h k unit) = _
  unfold State.podNack
  simp only [hu, hn, if_true]

/-- A refused unit is sent again on its port. -/
theorem resend_sends {n : Nat} (hu : s.unitOut h k unit = some (idx, e, p, port, u)) (hn : p.nacks.get? unit = some (n, true)) :
    exec (.ualinkResend h k unit) s = .next
      ((s.onPost idx fun e => e.onPart k fun p => { p with nacks := p.nacks.put unit (n, false) }).putUnit e.ctx port u) := by
  change execUalinkResend h k unit s = _
  simp only [execUalinkResend, hu, hn]

/-- A tray parked for a remote retry goes on. -/
theorem remoteRetry_ends {key : Nat} {t : Tray} {q : Park} (ht : s.trays.get? key = some t) (hw : t.wait = .park q)
    (hk : q.kind = .remoteretry) :
    exec (.remoteRetryTimeout key) s = .next (s.setTray key { t with wait := .run }) := by
  change execRemoteRetryTimeout key s = _
  simp only [execRemoteRetryTimeout, ht, hw, hk, if_true]

end

/-! ### Failed ports and dies (R314, R336) -/

section
variable {s : State} {die port : Nat}

/-- A bitmap in which a bit has been set has it. -/
theorem getLsbD_mark {w i : Nat} (b : BitVec w) (hi : i < w) : (b ||| 1#w <<< i).getLsbD i = true := by
  simp [hi]

theorem portDown_marks (hp : port < 16) (hd : s.portsDown.getLsbD port = false) :
    ∃ s' : State, exec (.ualinkPortDown port) s = .next s' ∧ s'.portsDown.getLsbD port = true ∧ s'.mem = s.mem := by
  have hgo : (decide (16 ≤ port) || s.portsDown.getLsbD port) = false := by
    rw [hd, decide_eq_false (Nat.not_le.2 hp)]
    rfl
  exact ⟨_, congrArg Host.Outcome.next (if_neg (Bool.eq_false_iff.1 hgo)), getLsbD_mark _ hp, rfl⟩

/-- What a die's units leave has none of them left. -/
theorem cutDie_leaves_none {w n : Nat} (b : BitVec w) : cutDie b n die &&& ~~~cutDie (cutDie b n die) n die = 0 := by
  have hi : cutDie (cutDie b n die) n die = cutDie b n die := by
    simp only [cutDie, BitVec.and_assoc, BitVec.and_self]
  rw [hi]
  exact BitVec.and_not_self _

/-- The state in which a die has failed: its loads end, its units leave every context. -/
def dieFailed (s : State) (die : Nat) : State :=
  let hit := (s.ctxs.filter fun e => e.2.own.channels &&& ~~~(e.2.own.cutDie die).channels != 0).map (·.1)
  let s1 := s.trays.foldl (fun s e => s.loseLoads e.1 die) { s with down := s.down ||| 1#4 <<< die }
  let s2 := hit.foldl (fun s c => s.haltLine c) s1
  { s2 with ctxs := s2.ctxs.all' fun _ c => { c with own := c.own.cutDie die } }

theorem dieFailed_down : (dieFailed s die).down = s.down ||| 1#4 <<< die := by
  unfold dieFailed
  extract_lets hit s1 s2
  have h1 : s1.down = s.down ||| 1#4 <<< die := foldl_down fun _ _ => loseLoads_down
  have h2 : s2.down = s1.down := foldl_down fun _ _ => rfl
  exact h2.trans h1

theorem dieFailed_own {x : Nat × Ctx} (hx : x ∈ (dieFailed s die).ctxs) :
    x.2.own.channels &&& ~~~(x.2.own.cutDie die).channels = 0 := by
  obtain ⟨y, -, rfl⟩ := List.mem_map.1 hx
  exact cutDie_leaves_none _

theorem linkDown_marks (hd : die < 4) (hs : s.down.getLsbD die = false) :
    ∃ s' : State, exec (.linkDown die) s = .next s' ∧ s'.down.getLsbD die = true ∧
      ∀ e ∈ s'.ctxs, e.2.own.channels &&& ~~~(e.2.own.cutDie die).channels = 0 := by
  have hgo : (decide (4 ≤ die) || s.down.getLsbD die) = false := by
    rw [hs, decide_eq_false (Nat.not_le.2 hd)]
    rfl
  have hn : exec (.linkDown die) s = .next ((dieFailed s die).hostEvent 3 1 (Config.eventField (dieFailed s die).ticks 4)
      (2 ^ die) (Config.eventField (dieFailed s die).ticks 12)) :=
    congrArg Host.Outcome.next (if_neg (Bool.eq_false_iff.1 hgo))
  obtain ⟨out, chans, he⟩ := StartAndPower.hostEvent_form (dieFailed s die) 3 1 (Config.eventField (dieFailed s die).ticks 4)
    (2 ^ die) (Config.eventField (dieFailed s die).ticks 12)
  refine ⟨_, hn.trans (congrArg _ he), ?_, fun x => dieFailed_own⟩
  change (dieFailed s die).down.getLsbD die = true
  rw [dieFailed_down]
  exact getLsbD_mark _ hd

end

/-- Settles O41: an answer, a refusal and a resend act on the unit they name, a failed port or die is marked. -/
theorem podEventResults : Obligations.PodEventResults := by
  unfold Obligations.PodEventResults
  intro s
  have next {a b : State} (h : a = b) : Host.Outcome.next (φ := Fault) (ρ := Refusal) a = .next b := congrArg _ h
  refine ⟨fun u hsrc hdst => next (if_neg (not_or.2 ⟨hsrc, not_not.2 hdst⟩)), fun a hs => next (if_pos hs),
    fun h k unit idx e p he hp hf hsent => ⟨next (podAnswer_ends he hp hf hsent 0), next (podAnswer_ends he hp hf hsent 1),
      next (podAnswer_ends he hp hf hsent 2)⟩, fun h k unit idx port e p u hu => ⟨podNack_keeps hu, fun n => resend_sends hu⟩,
    fun key t p => remoteRetry_ends, fun port => portDown_marks, fun die => linkDown_marks⟩

end Sys2Proof.PodEvents
